-- ==== Sys2Proof/Word.lean ====
section
/-!
DEFINITION. Word.lean: the words of the device and the plainest arithmetic over them.
-/

namespace Sys2Proof

/-- One byte. -/
abbrev Byte := BitVec 8

/-- A register value; a 32-bit register keeps its upper half 0. -/
abbrev Word := BitVec 64

/-- Bits `[lo + w - 1 : lo]` of `n`. -/
def bits (n lo w : Nat) : Nat := (n / 2 ^ lo) % 2 ^ w

/-- Bit `i` of `n`. -/
def bit (n i : Nat) : Bool := (n / 2 ^ i) % 2 == 1

/-- `n` with bits `[lo + w - 1 : lo]` replaced by the low `w` bits of `v`. -/
def withBits (n lo w v : Nat) : Nat :=
  n - (bits n lo w) * 2 ^ lo + (v % 2 ^ w) * 2 ^ lo

/-- The low `w` bits of `n` read as a two's-complement number. -/
def signed (n w : Nat) : Int :=
  let m := n % 2 ^ w
  if m < 2 ^ (w - 1) then (m : Int) else (m : Int) - (2 ^ w : Nat)

/-- The two's-complement code of `i` in `w` bits. -/
def unsigned (i : Int) (w : Nat) : Nat := (i % ((2 ^ w : Nat) : Int)).toNat

/-- `1` for true, `0` for false. -/
def b2n (b : Bool) : Nat := if b then 1 else 0

/-- The number a little-endian list of bytes spells. -/
def leNat : List Byte → Nat
  | [] => 0
  | b :: bs => b.toNat + 256 * leNat bs

/-- The `k` bytes of `n`, least significant first. -/
def natLe : Nat → Nat → List Byte
  | 0, _ => []
  | k + 1, n => BitVec.ofNat 8 n :: natLe k (n / 256)

/-- How many bits of a 64-bit mask are 1. -/
def popcount (n : Nat) : Nat := ((List.range 64).filter (bit n)).length

/-- The indices of the 1 bits of a 64-bit mask, ascending. -/
def maskList (n : Nat) : List Nat := (List.range 64).filter (bit n)

/-- `a / b` rounded up. -/
def ceilDiv (a b : Nat) : Nat := (a + b - 1) / b

/-- The element at `i` of `l`, or `d`. -/
def nth {α : Type} (l : List α) (i : Nat) (d : α) : α := l.getD i d

/-- `l` with its element at `i` replaced by `f` of it. -/
def modNth {α : Type} (l : List α) (i : Nat) (f : α → α) : List α := l.modify i f

/-- Put `x` in front of the first element that must come after it. -/
def insertBy {α : Type} (before : α → α → Bool) (x : α) : List α → List α
  | [] => [x]
  | y :: ys => if before x y then x :: y :: ys else y :: insertBy before x ys

/-- Insertion sort; elements that neither precedes keep their order. -/
def sortBy {α : Type} (before : α → α → Bool) : List α → List α
  | [] => []
  | x :: xs => insertBy (fun a b => !before b a) x (sortBy before xs)

/-- Split a list into pieces of `k` elements, at most `n` of them. -/
def chunks {α : Type} (k : Nat) : Nat → List α → List (List α)
  | 0, _ => []
  | n + 1, l => match l with
    | [] => []
    | x :: xs => ((x :: xs).take k) :: chunks k n ((x :: xs).drop k)

end Sys2Proof
end

