-- ==== Sys2Proof/Wire.lean ====
section
/-!
DEFINITION. Wire.lean: what reaches the block with a command: who asks, what the environment measures at a tick, and
the errors a line's reads meet. Packets and frames of the fabric and the chain stand here too.
-/

namespace Sys2Proof

/-- Who makes an access: the control die, or a Collie of a core. -/
inductive Who where
  | controlDie
  | collie (core : Fin 64)
  deriving DecidableEq, Repr

/-- Errors that the reads of one line meet while a command is carried out: the line's storage address, and what the
first and the second read add to the line's syndrome (R442, R443). -/
structure LineErr where
  line : Nat
  e1 : Nat
  e2 : Nat
  deriving DecidableEq, Repr

/-- What a start finds (R589, R590, R616, R618, R686, R19): Oxen with the defective rows and columns that self-test
found, failing banks, cores that fail self-test, the UCIe modules that do not train, repair-history entries that fail
their check, the fingerprint F (bytes not listed are 0), whether every populated die and stack reports the values of the
identity record and the private keys open from the key store, whether the control die holds PTP lock, and the whole
microseconds since the PTP epoch when the sequence loads TICK_NOW. -/
structure StartInput where
  oxDefects : List (Fin 256 × List Nat × List Nat)
  badBanks : List (Fin 64 × Fin 12)
  badCores : List (Fin 64)
  badModules : List Bool
  historyBad : Nat
  print : List (BitVec 8)
  idChecks : Bool
  ptpLock : Bool
  ptp : Nat
  deriving DecidableEq, Repr

/-- A start that finds nothing wrong, without PTP lock. -/
def StartInput.clean : StartInput := ⟨[], [], [], [], 0, [], true, false, 0⟩

/-- An upstream tick that is back after a holdover, or that a device joins: its count, and the phase offset to it in ps (R26,
R608). -/
structure TickBack where
  count : Nat
  offset : Nat
  deriving DecidableEq, Repr

/-- What the environment shows at a tick edge. Readings not listed are unchanged. -/
structure TickInput where
  /-- Whether the edge of the tick pair is present (R22); not looked at on a tick master or in holdover. -/
  upstream : Bool
  /-- The phase offset to upstream in ps (TIME.OFFSET). -/
  offset : Nat
  /-- Junction temperatures read, by core, in °C. -/
  tj : List (Fin 64 × Nat)
  /-- Ox-cycles in which an Ox advanced over the last 256 ticks, by core (R479). -/
  activity : List (Fin 64 × Nat)
  /-- Arith cycles that R484 alone withholds in the tick now ending, by core. -/
  withheld : List (Fin 64 × Nat)
  /-- Stack temperatures read, in °C. -/
  hbmTemp : List (Fin 12 × Nat)
  /-- Temperatures read by the sensors of IOD0-IOD3 and, as 4, the control die, in °C. -/
  dieTemp : List (Fin 5 × Nat)
  /-- Package power read, in W (R680), or none. -/
  power : Option Nat
  /-- Rail readings, by rail: millivolts and the current share, as PWR.RAIL holds them. -/
  rails : List (Fin 9 × Nat)
  /-- What the start finds, where a device reset is taken at this edge. -/
  start : StartInput
  deriving DecidableEq, Repr

/-- A packet of the fabric (Tables 12.4 and 12.6): its header, its payload of whole 32 B words, and bit w of `poison`
for a poisoned payload word w. -/
structure Packet where
  dest : Nat
  mcast : Bool
  vc : Nat
  sub : Bool
  page : Nat
  kind : Nat
  src : Nat
  tag : Nat
  job : Nat
  image : Nat
  off : Nat
  last : Bool
  gen : Nat
  info : Nat
  payload : List Byte
  poison : Nat
  deriving DecidableEq, Repr

/-- A frame of the chain (Table 14.1) without its sequence number. -/
structure Frame where
  dst : Nat
  src : Nat
  type : Nat
  xfer : Nat
  payload : List Byte
  deriving DecidableEq, Repr

/-- What an Ethernet frame brings to the control die's firmware: its bytes, and, where the frame completes one, the
operator's node assignment table (R606) or a signed object for the segment (R625): KIND, FIRST, LAST and its bytes. -/
inductive EthOp where
  | data
  | nodeTable (t : List (List Byte × Nat))
  | object (kind first last : Nat) (obj : List Byte)
  deriving DecidableEq, Repr

/-- How a read reaches a line: by device-physical address, as a load of a Collie by context address, or as a line of the
next tile of a LOAD stream. -/
inductive ReadVia where
  | physical
  | context
  | load (slot : Fin 16)
  deriving DecidableEq, Repr

/-- LEN: payload words. -/
def Packet.len (p : Packet) : Nat := p.payload.length / 32

end Sys2Proof
end

