-- ==== Sys2Proof/Syntax.lean ====
section
/-!
DEFINITION. Syntax.lean: the commands of the block, one constructor per row of spec/opcode_table.json with the
operands the row's rules need. Units are named by their number (Ox 4n + k for OXk of CORE_n).
-/

namespace Sys2Proof

/-- The commands. -/
inductive Instr where
  /-- REGISTER_WRITE (R13): A write to a register that has no row of its own acts on each field as its access code states. -/
  | registerWrite (who : Who) (addr : Nat) (size : Nat) (data : Nat)
  /-- READ_CLEAR_FIELD (R13): A read of a register holding an RC field returns the value and then clears the field. -/
  | readClearField (who : Who) (addr : Nat) (size : Nat)
  /-- TICK_EDGE (R28): At each tick edge TICK_NOW advances and the events sampled at that tick are taken in rank order. -/
  | tickEdge (i : TickInput)
  /-- HOLDOVER_ENTRY (R23): After four missing tick edges the device enters holdover. -/
  | holdoverEntry
  /-- HOLDOVER_LIMIT_EXCEEDED (R24): When a holdover outlasts HOLDOVER_LIMIT, UNALIGNED is set and a trouble record is written. -/
  | holdoverLimitExceeded
  /-- UPSTREAM_TICK_RETURN (R26): When the upstream tick returns, the device relocks if the count matches, or stays in holdover and sets COUNT_MISMATCH. -/
  | upstreamTickReturn (back : TickBack)
  /-- PTP_LOCK_GAINED (R20): A PTP lock gained after start disciplines only the phase and rate of the tick master's tick. -/
  | ptpLockGained
  /-- PASS_PUSH (R62): A write to PASS_W3 pushes a pass into the Ox queue, or drops it if the queue is full. -/
  | passPush (ox : Fin 256) (w3 : Nat)
  /-- PASS_HEAD_CHECK (R59): A pass that reaches the head of its Ox queue is checked and faulted at the first failing condition. -/
  | passHeadCheck (ox : Fin 256)
  /-- SEGMENT_BEGIN (R74): The Yoke begins a segment once every participant holds its pass and can take row 0. -/
  | segmentBegin (core : Fin 64) (ready : Bool)
  /-- PASS_START (R66): A pass starts when its first Yoke row enters the array, possibly after a reload bubble. -/
  | passStart (ox : Fin 256) (bubble : Nat)
  /-- YOKE_ROW_ISSUE (R82): Each issued Yoke row goes to every participating Ox, or into its side buffer if the Ox cannot take it. -/
  | yokeRowIssue (core : Fin 64) (issue : Bool) (hold : Nat)
  /-- OX_ATTACH (R85): A detached Ox becomes attached again when its lag falls to 32 rows or fewer. -/
  | oxAttach (ox : Fin 256)
  /-- PASS_COMPLETE (R65): A pass completes when its last result leaves its column link. -/
  | passComplete (ox : Fin 256)
  /-- OX_FENCE (R89): Setting FENCE ends the Ox's running and queued passes and faults the context. -/
  | oxFence (ox : Fin 256)
  /-- FENCE_LIFT (R96): Writing 0 to FENCE lifts the fence from the core's next task onwards. -/
  | fenceLift (ox : Fin 256)
  /-- CTX_STEP_PARAMS_WRITE (R145): A write to STEP, SR_SEED, STAT_BASE or STAT_CFG takes effect at the next tick edge. -/
  | ctxStepParamsWrite (ctx : Fin 16) (which : Fin 4) (data : Nat)
  /-- DRAIN_ENCODE (R297): At event 1 of a group's last pass, DRAIN reads its tiles, encodes them with scale recipes and statistics, and writes the images. -/
  | drainEncode (core : Fin 64) (errs : List LineErr)
  /-- MERGED_RECORD_REREAD (R148): A waiting ACTIVATION encode rereads the merged record at each tick edge until it is closed. -/
  | mergedRecordReread (core : Fin 64) (errs : List LineErr)
  /-- MULE_TILE_START (R203): At each tile start the Mule checks its program and settings, then runs the tile. -/
  | muleTileStart (core : Fin 64) (errs : List LineErr)
  /-- MULE_PROG_WRITE (R187): A write to a Mule program entry or table in use is held until the current tile ends. -/
  | muleProgWrite (core : Fin 64) (off : Nat) (data : Nat)
  /-- REDUCE_TILE (R299): When a span closes, REDUCE applies the finish and writes the span vector. -/
  | reduceTile (core : Fin 64)
  /-- SRAM_WINDOW_ACCESS (R208): An access through a core's SRAM window reaches a bank, or faults on the reserved part or an instruction memory. -/
  | sramWindowAccess (who : Who) (addr : Nat) (len : Nat) (data : Option (List Byte))
  /-- BANK_POWER_REQUEST (R232): A write of TARGET to HPWR or APWR starts, latches or coalesces a power transition. -/
  | bankPowerRequest (core : Fin 64) (bank : Fin 12) (target : Fin 4)
  /-- BANK_TRANSITION_COMPLETE (R232): A bank power transition completes after its cycles and any latched request begins. -/
  | bankTransitionComplete (core : Fin 64) (bank : Fin 12)
  /-- BANK_RETIRE (R242): Writing 1 to RETIRED requests OFF and refuses later requests for ON. -/
  | bankRetire (core : Fin 64) (bank : Fin 12)
  /-- BANK_BIND (R222): A stream binds the banks it names once no other master class holds them. -/
  | bankBind (core : Fin 64) (slot : Fin 16)
  /-- STREAM_PROGRAM_START (R267): A task's stream program starts: descriptors are read and checked and bindings are made. -/
  | streamProgramStart (core : Fin 64) (errs : List LineErr)
  /-- STATION_TILE_START (R271): A station starts its next tile once every enabled wait holds. -/
  | stationTileStart (core : Fin 64) (slot : Fin 16) (errs : List LineErr)
  /-- TILE_EVENT_COMPLETE (R273): Completion of a tile event adds to the named hand-over counter. -/
  | tileEventComplete (core : Fin 64) (slot : Fin 16) (event : Bool)
  /-- HC_ADD (R275): A write to HC_ADD adds to the named hand-over counter. -/
  | hcAdd (core : Fin 64) (hc : Fin 16) (add : Nat)
  /-- EXCHANGE (R277): The two banks of an exchange pair swap bindings when fill f is complete. -/
  | exchange (core : Fin 64) (pair : Bool)
  /-- STREAM_PROGRAM_END (R268): A program ends when every stream has completed its last event. -/
  | streamProgramEnd (core : Fin 64)
  /-- COLLIE_HANDOFF (R302): A COLLIE tile places a hand-off in the Collie's queue and raises its interrupt. -/
  | collieHandoff (core : Fin 64) (slot : Fin 16)
  /-- CQ_READ (R302): A read of CQ0 or CQ1 returns and removes the oldest hand-off. -/
  | cqRead (core : Fin 64) (collie : Bool)
  /-- CDONE (R303): A write to CDONE completes the oldest hand-off of the named slot. -/
  | cdone (core : Fin 64) (collie : Bool) (slot : Fin 16)
  /-- START (R309): The START command takes a context from EMPTY or HELD into RUNNING at its tick. -/
  | startCmd (ctx : Fin 16)
  /-- HOLD (R309): The HOLD command takes a RUNNING context to HELD at its tick. -/
  | holdCmd (ctx : Fin 16)
  /-- SAVE (R343): The SAVE command stops the context's cores and copies their images to the save area. -/
  | save (ctx : Fin 16)
  /-- RESTORE (R348): The RESTORE command checks the save header and fills the cores from the save area. -/
  | restore (ctx : Fin 16) (errs : List LineErr)
  /-- KILL (R353): The KILL command clears the cores and, with WIPE, zeroes memory, then leaves the context EMPTY. -/
  | kill (ctx : Fin 16) (wipe : Bool)
  /-- FLUSH_XLATE (R320): The FLUSH_XLATE command makes every walker drop the context's cached translations. -/
  | flushXlate (ctx : Fin 16)
  /-- CORES_WRITE (R313): A write to CORES, PT_BASE or SAVE_BASE is performed only in EMPTY or SAVED and only with cores not held by another context. -/
  | coresWrite (ctx : Fin 16) (which : Fin 3) (data : Nat)
  /-- PEN_WRITE (R315): A write to PENk takes effect at the next tick edge, or is dropped if it names a core in another pen. -/
  | penWrite (ctx : Fin 16) (pen : Fin 3) (data : Nat)
  /-- ROSTER_CFG_WRITE (R327): A write to ROSTERr changes BASE or LOG2_SIZE only while the roster is disabled and idle. -/
  | rosterCfgWrite (ctx : Fin 16) (roster : Fin 8) (data : Nat)
  /-- ROSTER_PUB_SAMPLE (R323): The dispatcher's read of a roster's PUB returns, and an increase is a publication event. -/
  | rosterPubSample (ctx : Fin 16) (roster : Fin 8) (errs : List LineErr)
  /-- ENTRY_FETCH (R332): The dispatcher fetches a roster entry and faults the context at the first failing check. -/
  | entryFetch (ctx : Fin 16) (roster : Fin 8) (errs : List LineErr)
  /-- TASK_COMPLETION (R338): A task completion sets the entry DONE, advances DONE and frees the core. -/
  | taskCompletion (core : Fin 64)
  /-- CORE_STOPPED_FOR_SAVE (R304): A core stops for save after its stations finish begun work, and its image is copied. -/
  | coreStoppedForSave (core : Fin 64)
  /-- SAVE_COMPLETE (R344): After all images and the header are written, the cores are cleared and the context enters SAVED. -/
  | saveComplete (ctx : Fin 16)
  /-- SAVE_STOP_TIMEOUT (R345): A core not stopped within STOP_LIMIT ticks ends the save and faults the context. -/
  | saveStopTimeout (ctx : Fin 16)
  /-- RESTORE_COMPLETE (R351): When every image and live tile is restored, the context enters RUNNING. -/
  | restoreComplete (ctx : Fin 16)
  /-- PAGE_WALK (R317): The walker translates a context address through the page tables, faulting on invalid walks. -/
  | pageWalk (core : Fin 64) (ctx : Fin 16) (va : Nat) (write : Bool) (errs : List LineErr)
  /-- SENTINEL_ROUND (R354): A sentinel round begins when the interval or task count is reached and marks cores pending. -/
  | sentinelRound
  /-- SENTINEL_PASS (R355): A pending core runs its sentinel pass, and any confirmation pass, at the first tick it is free. -/
  | sentinelPass (core : Fin 64)
  /-- SENTINEL_COMPLETION (R480): A sentinel completion compares the CRC and on mismatch fences the Ox and writes a condition record. -/
  | sentinelCompletion (core : Fin 64) (defects : List (Fin 4 × Nat))
  /-- SENT_STATE_CLEAR (R483): Writing 1 to SENT_STATE.CLEAR returns the Ox's sentinel state to OK. -/
  | sentStateClear (ox : Fin 256)
  /-- HBM_READ (R443): A line read from HBM or the deep tier is checked and delivered, retried, or handled as uncorrectable. -/
  | hbmRead (req : Fin 73) (cls : Fin 4) (addr : Nat) (via : ReadVia) (errs : List LineErr)
  /-- FULL_LINE_WRITE (R376): A whole-line write is written as a full line and drops any buffer entry for it. -/
  | fullLineWrite (req : Fin 73) (addr : Nat) (data : Nat) (poison : Bool)
  /-- PARTIAL_WRITE (R377): A partial write merges into or allocates a write-combining buffer entry. -/
  | partialWrite (req : Fin 73) (addr : Nat) (data : Nat) (mask : Nat) (poison : Bool) (errs : List LineErr)
  /-- WCB_ENTRY_COMPLETE (R378): A buffer entry completes on full mask, idle time, fence, read or eviction, by read, modify and write where needed. -/
  | wcbEntryComplete (stack : Fin 12) (line : Nat) (errs : List LineErr)
  /-- FENCE (R382): A fence from a requester completes every buffer entry holding its bits. -/
  | fence (req : Fin 73) (errs : List LineErr)
  /-- CLASS0_WINDOW (R368): Each pseudo-channel opens a new 1,024-cycle window and restores capped class-0 requests. -/
  | class0Window (stack : Fin 12) (pc : Fin 64)
  /-- REQUEST_AGED (R372): A request that has waited AGE_LIMIT cycles is served ahead of unaged ones. -/
  | requestAged (stack : Fin 12)
  /-- HBM_TRAINING (R384): The controller trains each lane, repairs failing lanes, or puts the stack out of service. -/
  | hbmTraining (stack : Fin 12) (redundant : Nat) (fails : List (Fin 32 × Nat)) (untrained : List (Fin 32))
  /-- MAINT_ENTER (R388): Writing CTRL.MAINT = 1 while TRAINING or OUT_OF_SERVICE places the stack in maintenance. -/
  | maintEnter (who : Who) (stack : Fin 12)
  /-- MAINT_EXIT (R391): Writing CTRL.MAINT = 0 ends maintenance and retrains the stack. -/
  | maintExit (who : Who) (stack : Fin 12)
  /-- MR_READ (R390): Maintenance command reading a mode register into MAINT_DATA. -/
  | mrRead (who : Who) (stack : Fin 12) (ch : Fin 32) (pc : Bool)
  /-- MR_WRITE (R390): Maintenance command writing MAINT_DATA to a mode register. -/
  | mrWrite (who : Who) (stack : Fin 12) (ch : Fin 32) (pc : Bool)
  /-- SOFT_PPR (R390): Maintenance command making a soft repair of a row. -/
  | softPpr (who : Who) (stack : Fin 12) (ch : Fin 32) (pc : Bool)
  /-- HARD_PPR (R392): Maintenance command making a permanent repair, entered into the repair history. -/
  | hardPpr (who : Who) (stack : Fin 12) (ch : Fin 32) (pc : Bool)
  /-- SOFT_PPR_UNDO (R390): Maintenance command removing the soft repairs of a pseudo-channel. -/
  | softPprUndo (who : Who) (stack : Fin 12) (ch : Fin 32) (pc : Bool)
  /-- MBIST (R390): Maintenance command running the stack's built-in self-test on a pseudo-channel. -/
  | mbist (who : Who) (stack : Fin 12) (ch : Fin 32) (pc : Bool) (rows : List Nat)
  /-- IEEE1500 (R390): Maintenance command issuing an instruction on the stack's test port. -/
  | ieee1500 (who : Who) (stack : Fin 12) (ch : Fin 32) (pc : Bool)
  /-- CXL_TRAINING (R397): Each populated CXL port is trained, or put out of service if narrower than x8. -/
  | cxlTraining (port : Fin 8) (width : Nat) (rate : Fin 3) (cap : Nat)
  /-- DEEP_ACCESS (R703): An access to fitted deep memory follows its page's home and adds heat through a level-2 leaf. -/
  | deepAccess (req : Fin 73) (ctx : Option (Fin 16)) (addr : Nat) (va : Nat) (leaf2 : Bool) (data : Option (Nat × Nat)) (reply : Option Nat) (errs : List LineErr)
  /-- HEAT_EPOCH (R410): At each multiple of EPOCH every page's heat is halved. -/
  | heatEpoch
  /-- PROMOTE (R413): A PROMOTE hint queues promotion requests for a run of pages. -/
  | promote (who : Who) (page : Nat) (count : Fin 4096)
  /-- EVICT (R413): An EVICT hint queues eviction requests for a run of unpinned pages. -/
  | evict (who : Who) (page : Nat) (count : Fin 4096)
  /-- PIN (R413): A PIN hint queues promotions and pins each page once homed in HBM. -/
  | pin (who : Who) (page : Nat) (count : Fin 4096)
  /-- UNPIN (R413): An UNPIN hint clears PINNED for each page without a move. -/
  | unpin (who : Who) (page : Nat) (count : Fin 4096)
  /-- MOVE_COMPLETE (R423): A move's completion writes the directory, invalidates cached homes and releases the lock. -/
  | moveComplete (page : Nat) (errs : List LineErr)
  /-- MOVE_FAIL (R424): A move whose deep-tier write fails is abandoned and the page keeps its pool frame. -/
  | moveFail (page : Nat)
  /-- WAGON_ENABLE (R430): Writing CTRL.EN = 1 runs the Wagon and sets POOL_STACKS when it was DISABLED. -/
  | wagonEnable
  /-- WAGON_DISABLE (R407): Writing CTRL.EN = 0 puts the Wagon in DRAINING and evicts every promoted page. -/
  | wagonDisable
  /-- WAGON_DRAIN_COMPLETE (R407): When the last eviction completes the Wagon enters DISABLED. -/
  | wagonDrainComplete
  /-- WAGON_RESUME_COMPLETE (R429): After rebuilding from the directory, a RESUMING Wagon enters RUNNING or DRAINING. -/
  | wagonResumeComplete (errs : List LineErr)
  /-- DEEP_ACCESS_LATE (R433): A deep access not answered within DEEP_LATE ticks is counted late. -/
  | deepAccessLate (port : Fin 8) (id : Nat)
  /-- DEEP_ACCESS_FAIL (R434): A deep access not answered within DEEP_FAIL ticks fails: a read returns poison and a write faults its context. -/
  | deepAccessFail (port : Fin 8) (id : Nat)
  /-- LATE_ANSWER_DISCARD (R435): An answer arriving after its access failed is discarded and counted. -/
  | lateAnswerDiscard (port : Fin 8) (id : Nat)
  /-- RECOMP_ACK (R451): A write to RECOMP_ACK acknowledges a request, and held streams read their tiles again. -/
  | recompAck (ctx : Fin 16) (q : Nat)
  /-- RECOMP_EXPIRY (R452): A request not acknowledged within RECOMP_LIMIT expires and held streams reread, taking poison. -/
  | recompExpiry (ctx : Fin 16) (q : Nat)
  /-- SCRUB_GROUP (R463): Every SCRUB_INTERVAL ticks the scrubber reads one group and rewrites correctable lines. -/
  | scrubGroup (stack : Fin 12) (errs : List LineErr)
  /-- RETIRE (R467): A control-die write of RETIRE locks a page and copies it into a spare slot, or fails. -/
  | retire (who : Who) (stack : Fin 12) (page : Nat) (slot : Nat)
  /-- RETIRE_COMPLETE (R470): A retirement completes by filling a remap entry and releasing the lock. -/
  | retireComplete (stack : Fin 12) (errs : List LineErr)
  /-- PORT_TRAINING (R495): A port is trained, wavelengths assigned as lanes and spares, and retry buffers resent. -/
  | portTraining (port : Fin 32) (tx : Nat) (rx : Nat) (peer : Nat)
  /-- WAVELENGTH_DEGRADE (R499): A wavelength exceeding FEC_LIMIT or showing an uncorrectable codeword degrades, starting a swap or failing a spare. -/
  | wavelengthDegrade (port : Fin 32) (w : Fin 18) (corr : Nat) (uncorr : Bool)
  /-- SWAP_REQ (R501): The transmitter takes SWAP_REQ, begins bridging the lane onto the spare and sends SWAP_ACK. -/
  | swapReq (port : Fin 32) (lane : Fin 16) (spare : Option (Fin 18))
  /-- SWAP_ACK (R501): The receiver takes SWAP_ACK, aligns the spare and compares units. -/
  | swapAck (port : Fin 32)
  /-- SWAP_GO (R501): The transmitter takes SWAP_GO and sends the switch marker. -/
  | swapGo (port : Fin 32)
  /-- SWITCH_MARKER (R503): The receiver takes the marker: the lane moves or is dropped and the old wavelength fails. -/
  | switchMarker (port : Fin 32)
  /-- DATA (R537): A DATA packet of a stream image is written to its tile's place. -/
  | dataPacket (port : Fin 32) (crcOk : Bool) (lseq : Nat) (p : Packet) (errs : List LineErr)
  /-- RTS (R534): An RTS offer is matched by a RECV or transfer and granted, held, or dropped beyond 1,024. -/
  | rts (port : Fin 32) (crcOk : Bool) (lseq : Nat) (p : Packet) (errs : List LineErr)
  /-- GRANT (R537): A GRANT lets the sender send the image in packets. -/
  | grant (port : Fin 32) (crcOk : Bool) (lseq : Nat) (p : Packet) (errs : List LineErr)
  /-- ACK (R537): An ACK completes event 1 of a SEND or finishes a transfer. -/
  | ack (port : Fin 32) (crcOk : Bool) (lseq : Nat) (p : Packet) (errs : List LineErr)
  /-- REFUSE (R665): A REFUSE stops the SEND of an image, which is offered again 1,000 ticks later. -/
  | refuse (port : Fin 32) (crcOk : Bool) (lseq : Nat) (p : Packet) (errs : List LineErr)
  /-- XDATA (R547): An XDATA packet of a memory transfer is written from the RECV transfer's address. -/
  | xdata (port : Fin 32) (crcOk : Bool) (lseq : Nat) (p : Packet) (errs : List LineErr)
  /-- MGMT (R508): A management packet between control dies is delivered to firmware. -/
  | mgmt (port : Fin 32) (crcOk : Bool) (lseq : Nat) (p : Packet) (errs : List LineErr)
  /-- REPLAY_REQUEST (R512): A replay request makes the transmitter resend from the expected LSEQ. -/
  | replayRequest (port : Fin 32) (lseq : Nat)
  /-- LINK_ACK (R513): A cumulative link acknowledgement frees packets from the retry buffer. -/
  | linkAck (port : Fin 32) (lseq : Nat)
  /-- LINK_DOWN (R514): Too many replays or an acknowledgement timeout takes the port DOWN and retrains it. -/
  | linkDown (port : Fin 32)
  /-- ROUTE_SWITCH (R525): An armed route-page switch makes page NEXT current at its tick. -/
  | routeSwitch
  /-- ROUTE_ENTRY_WRITE (R527): A write to a route entry of a busy page is dropped and PAGE_BUSY set. -/
  | routeEntryWrite (page : Fin 4) (e : Fin 320) (data : Nat)
  /-- E2E_TIMEOUT (R538): An image not acknowledged within E2E_TIMEOUT ticks faults the sending context. -/
  | e2eTimeout
  /-- XFER_RING_WRITE (R545): A write to XFER_RING changes geometry only while disabled and idle. -/
  | xferRingWrite (who : Who) (data : Nat)
  /-- XFER_PUB_SAMPLE (R544): The transfer ring's PUB is sampled and new transfers start in ring order. -/
  | xferPubSample (errs : List LineErr)
  /-- KEY_INSTALL (R565): KEY_CMD GO opens the wrapped-key blob and installs the context key, or reports failure. -/
  | keyInstall (who : Who) (ctx : Fin 16) (errs : List LineErr)
  /-- KEY_ERASE (R564): KEY_CMD ERASE erases the context's key. -/
  | keyErase (who : Who) (ctx : Fin 16)
  /-- VERIFY_QUEUE (R567): A write of VERIFY_CMD queues a verification of sealed lines. -/
  | verifyQueue (who : Who) (ctx : Fin 16) (entry : Fin 16)
  /-- VERIFY_COMPLETE (R570): A verification completes and its result is placed in VERIFY_DONE. -/
  | verifyComplete (errs : List LineErr)
  /-- VERIFY_DONE_READ (R570): A read of VERIFY_DONE returns and removes the oldest completed verification. -/
  | verifyDoneRead
  /-- GSLOT_LOAD (R573): Writing LOAD moves a generation slot from FREE to LOADING. -/
  | gslotLoad (who : Who) (ctx : Fin 16) (k : Fin 4)
  /-- GSLOT_READY (R573): Writing READY moves a generation slot from LOADING to READY. -/
  | gslotReady (who : Who) (ctx : Fin 16) (k : Fin 4)
  /-- GSLOT_ABANDON (R573): Writing ABANDON returns a slot with no holders to FREE. -/
  | gslotAbandon (who : Who) (ctx : Fin 16) (k : Fin 4)
  /-- ROSTER_GEN_WRITE (R578): A write to ROSTER_GEN takes effect at the next tick edge. -/
  | rosterGenWrite (who : Who) (ctx : Fin 16) (data : Nat)
  /-- GEN_SWITCH (R580): An armed weight-generation switch makes the named READY slot CURRENT and the old one RETIRING. -/
  | genSwitch (ctx : Fin 16)
  /-- RSRC_REQ_READ (R583): A read of RSRC_REQ returns the oldest open re-source request. -/
  | rsrcReqRead
  /-- RSRC_DONE (R587): A write of RSRC_DONE completes the re-source and releases the page lock. -/
  | rsrcDone (page : Nat)
  /-- RSRC_EXPIRY (R588): A re-source not completed within RSRC_LIMIT expires, releasing the lock with faults or poison. -/
  | rsrcExpiry (page : Nat)
  /-- ATTEST_REQUEST (R594): An attestation request with a nonce yields a report signed with the device's keys. -/
  | attestRequest (nonce : List Byte)
  /-- TOKEN (R602): A received address token sets the chain address and the next token is passed downstream. -/
  | token (link : Bool) (crcOk : Bool) (hseq : Nat) (f : Frame)
  /-- HEAD_DECISION (R603): A device with no IN link after 200 ms becomes head and tick master. -/
  | headDecision
  /-- TICK_COUNT_LOAD (R608): A newly addressed device loads TICK_NOW at the next tick frame start. -/
  | tickCountLoad (back : TickBack)
  /-- NODE_ASSIGN (R606): A NODE_ASSIGN frame sets the node address of the matching device or is forwarded. -/
  | nodeAssign (link : Bool) (crcOk : Bool) (hseq : Nat) (f : Frame)
  /-- CHAIN_ACK (R600): A chain ACK frame acknowledges frames cumulatively on a hop. -/
  | chainAck (link : Bool) (crcOk : Bool) (hseq : Nat) (f : Frame)
  /-- CHAIN_RESEND (R600): Unacknowledged chain frames are resent after 200 µs. -/
  | chainResend (link : Bool)
  /-- OFFER (R625): An OFFER frame starts reception of a signed object into the staging area. -/
  | offer (link : Bool) (crcOk : Bool) (hseq : Nat) (f : Frame)
  /-- CHAIN_DATA (R625): Chain DATA frames deliver object bytes, after which the object is verified, accepted and forwarded. -/
  | chainData (link : Bool) (crcOk : Bool) (hseq : Nat) (f : Frame) (errs : List LineErr)
  /-- RESULT (R626): A RESULT frame is forwarded upstream to the head. -/
  | result (link : Bool) (crcOk : Bool) (hseq : Nat) (f : Frame)
  /-- DELAY (R601): DELAY frames measure the hop loop delay applied to the tick. -/
  | delay (link : Bool) (crcOk : Bool) (hseq : Nat) (f : Frame) (loop : Nat)
  /-- CHAIN_MGMT (R599): A chain MGMT frame carries a message between control dies. -/
  | chainMgmt (link : Bool) (crcOk : Bool) (hseq : Nat) (f : Frame)
  /-- STAGE_TIMEOUT (R627): A staged object is released after its downstream RESULT or 60 s. -/
  | stageTimeout (xfer : Nat)
  /-- FIRMWARE_ACTIVATION (R631): At the armed tick the device makes the new firmware slot active. -/
  | firmwareActivation
  /-- COLD_START (R619): Power-good starts the start sequence from phase 1. -/
  | coldStart (i : StartInput)
  /-- HANG_DECLARATION (R643): At a window's close a task without movement past its budget or for eight windows is declared hung. -/
  | hangDeclaration (core : Fin 64)
  /-- OX_RESET (R653): A reset request for the OX domain resets one Ox. -/
  | oxReset (unit : Fin 512)
  /-- CORE_RESET (R653): A reset request for the CORE domain resets one core. -/
  | coreReset (unit : Fin 512)
  /-- CONTEXT_RESET (R653): A reset request for the CONTEXT domain resets a context and leaves it EMPTY. -/
  | contextReset (unit : Fin 512)
  /-- PORT_RESET (R653): A reset request or CTRL.RESET for the PORT domain retrains one optical port. -/
  | portReset (unit : Fin 512)
  /-- IOD_RESET (R653): A reset request for the IOD domain resets one I/O die. -/
  | iodReset (unit : Fin 512)
  /-- STACK_RESET (R393): A reset request for the STACK domain resets and retrains one HBM stack. -/
  | stackReset (unit : Fin 512)
  /-- DIE_RESET (R653): A reset request for the DIE domain resets one compute die. -/
  | dieReset (unit : Fin 512)
  /-- DEVICE_RESET (R653): A reset request for the DEVICE domain resets everything and runs the start sequence. -/
  | deviceReset (i : StartInput)
  /-- RESET_COMPLETE (R659): A reset completes, generations advance and held requests are issued again. -/
  | resetComplete (domain : Fin 9) (unit : Fin 512)
  /-- RESET_ESCALATION (R657): A reset not completed within its recovery time escalates to the larger domain. -/
  | resetEscalation (domain : Fin 9) (unit : Fin 512)
  /-- REQUEST_REFUSED (R661): A requester receiving a reset refusal holds the request for reissue. -/
  | requestRefused (core : Fin 64) (slot : Fin 16) (domain : Fin 9) (unit : Fin 512)
  /-- REFUSE_LIMIT_EXPIRY (R661): A request held beyond REFUSE_LIMIT fails with poison, a fault or an error status. -/
  | refuseLimitExpiry (core : Fin 64) (slot : Fin 16)
  /-- STALE_REPLY (R662): A reply or refusal with a stale generation is discarded and counted. -/
  | staleReply (domain : Fin 9) (unit : Fin 512) (gen : Nat)
  /-- JOB_FAULT_RAISE (R669): Writing RAISE faults the context with a JOB_FAULT record at the next tick. -/
  | jobFaultRaise (who : Who) (ctx : Fin 16) (origin : Nat)
  /-- RESET_N (R676): A low pulse on RESET_N requests a device warm reset. -/
  | resetN
  /-- THERMAL_TRIP (R683): A sensor at its trip threshold stops the device, removes rails and faults every context. -/
  | thermalTrip (sensor : Fin 81) (reading : Nat)
  /-- POWER_TRIP (R683): Package power above 1.1 × TDP over 100 ticks trips the device. -/
  | powerTrip
  /-- RAIL_FAULT (R683): A rail out of range or over current trips the device. -/
  | railFault (rail : Fin 9) (current : Bool) (reading : Nat)
  /-- THROTTLE_WINDOW (R680): At each power window close the throttle level is raised or lowered. -/
  | throttleWindow
  /-- DIE_LINK_READ (R686): A control-die READ packet over UCIe reads device memory or registers. -/
  | dieLinkRead (module : Bool) (tag : Nat) (gen : Nat) (addr : Nat) (len : Nat) (errs : List LineErr)
  /-- DIE_LINK_WRITE (R686): A control-die WRITE packet over UCIe writes device memory or registers. -/
  | dieLinkWrite (module : Bool) (tag : Nat) (gen : Nat) (addr : Nat) (data : List Byte) (errs : List LineErr)
  /-- READ_REPLY (R687): A READ_REPLY is matched by TAG to an outstanding read. -/
  | readReply (module : Bool) (tag : Nat)
  /-- WRITE_ACK (R687): A WRITE_ACK is matched by TAG to an outstanding write. -/
  | writeAck (module : Bool) (tag : Nat)
  /-- RECORD (R651): A RECORD packet mirrors a trouble or condition record to the control die. -/
  | record
  /-- UCIE_MODULE_DOWN (R688): A UCIe module down for 300 ms goes out of service and traffic reroutes over the bridge. -/
  | ucieModuleDown (module : Bool)
  /-- ETHERNET_FRAME (R689): An Ethernet frame is received or sent on E0 or E1, with PTP timestamping. -/
  | ethernetFrame (port : Bool) (rx : Bool) (bs : List Byte) (stamp : Option Nat) (op : EthOp)
  /-- KILL_COMPLETE (R353): When the cores of a KILLING context are cleared and, with WIPE, every mapped page is zeroed, the context leaves KILLING for EMPTY. -/
  | killComplete (ctx : Fin 16)
  /-- CHAIN_LINK_UP (R601): The IN or OUT data link of the Doloma chain comes up, which triggers hop-delay measurement, passing of the token, or LATE_UPSTREAM on a head. -/
  | chainLinkUp (link : Bool) (loop : Nat)
  /-- CHAIN_LINK_LOST (R605): A chain data link that had come up goes down, which sets CHAIN.STATUS.LINK_LOST. -/
  | chainLinkLost (link : Bool)
  /-- PTP_LOCK_LOST (R18): The control die's PTP servo loses its grandmaster, TIME.STATUS.PTP_LOCK falls to 0, and the tick master stops disciplining its tick to PTP. -/
  | ptpLockLost
  /-- CXL_LINK_DOWN (R397): A trained CXL link goes down at run time: the port leaves UP, LINK_DOWN is set, and accesses to its granules fail. -/
  | cxlLinkDown (port : Fin 8)
  /-- CXL_LINK_RETRAINED (R397): A CXL link that went down retrains and returns to UP, and the retraining is counted in RETRAINS. -/
  | cxlLinkRetrained (port : Fin 8) (width : Nat) (rate : Fin 3)
  /-- FLASH_WRITE_COMPLETE (R629): The flash write of an accepted object ends: the directory records the new SERIAL, and the ACCEPTED or FLASH_FAIL result is sent upstream. -/
  | flashWriteComplete (ok : Bool)
  /-- POWER_LOSS (R462): The device loses power, which loses logs, soft repairs and generations and leaves any interrupted flash write undefined. -/
  | powerLoss
  deriving DecidableEq, Repr

end Sys2Proof
end

