-- ==== Sys2Proof/Decode.lean ====
section
/-!
DEFINITION. Decode.lean: the words of the opcode table. No row of the table has bits: the block's commands are events
and accesses, not words (log 1, DESIGN CHOICE), so no word spells a command.
-/

namespace Sys2Proof

/-- The command that the table's bits of a word spell: the table gives no row bits. -/
def decodeTableWord (_nbits _w : Nat) : Option Instr := none

end Sys2Proof
end

