-- ==== Sys2Proof/Config.lean ====
section
/-!
DEFINITION. Config.lean: what the spec leaves open: free values without a body, so that nothing can be proved of them,
and the functions of cryptographic standards that the spec only names (log 15, DESIGN CHOICE). Each gives byte i of its result.
-/

namespace Sys2Proof.Config

/-- A free byte (log 3, DESIGN CHOICE): the n-th one drawn. -/
opaque freeByte : Nat → BitVec 8

/-- A free 64-bit value (log 3, DESIGN CHOICE): the n-th one drawn. -/
opaque freeWord : Nat → BitVec 64

/-- AES-256 of a 16 B block under a 32 B key (R554). -/
opaque aes256 (key block : List (BitVec 8)) : Nat → BitVec 8

/-- The tag of AES-256-GCM under a key and IV over additional data and a ciphertext (R553). -/
opaque gcmTag (key iv aad ct : List (BitVec 8)) : Nat → BitVec 8

/-- ML-KEM-1024 decapsulation with the device's private key (R565). -/
opaque mlkemDecap (ct : List (BitVec 8)) : Nat → BitVec 8

/-- Whether a public key is a point of P-384, and the shared x-coordinate with the device's private key (R565). -/
opaque ecdhOk (pub : List (BitVec 8)) : Bool
opaque ecdhShared (pub : List (BitVec 8)) : Nat → BitVec 8

/-- HKDF-SHA-384 (R565). -/
opaque hkdf384 (salt ikm info : List (BitVec 8)) : Nat → BitVec 8

/-- HMAC-SHA-384 of a message under a key (Table 14.4). -/
opaque hmac384 (key m : List (BitVec 8)) : Nat → BitVec 8

/-- SHA-384. -/
opaque sha384 (m : List (BitVec 8)) : Nat → BitVec 8

/-- Whether both signatures of a signed object verify under the vendor's keys (R591). -/
opaque sigOk (obj : List (BitVec 8)) : Bool

/-- The signature part of a report that the device signs with its own keys (R591). -/
opaque sign (m : List (BitVec 8)) : Nat → BitVec 8

end Sys2Proof.Config
end

