-- ==== Sys2Proof/Machine/Map.lean ====
section
/-!
DEFINITION. Machine/Map.lean: sparse data by number. A map is a list of (key, value) pairs in ONE canonical form:
keys strictly rising, and no entry equal to what an unlisted key reads as.
-/

namespace Sys2Proof.Machine

/-- A sparse map: what is not listed reads as the map's default function says. -/
abbrev SMap (α : Type) := List (Nat × α)

/-- The value at `k`. -/
def mget {α : Type} (d : Nat → α) : SMap α → Nat → α
  | [], k => d k
  | (j, v) :: m, k => if k = j then v else mget d m k

/-- Put `v` at `k` in a map known to list nothing there that must be removed. -/
def minsert {α : Type} (k : Nat) (v : α) : SMap α → SMap α
  | [] => [(k, v)]
  | (j, w) :: m => if k < j then (k, v) :: (j, w) :: m else if k = j then (k, v) :: m else (j, w) :: minsert k v m

/-- The map without an entry at `k`. -/
def merase {α : Type} (k : Nat) (m : SMap α) : SMap α := m.filter (fun e => e.1 != k)

/-- Write `v` at `k`, keeping the canonical form. -/
def mset {α : Type} [DecidableEq α] (d : Nat → α) (m : SMap α) (k : Nat) (v : α) : SMap α :=
  if v = d k then merase k m else minsert k v m

/-- Change the value at `k`. -/
def mmod {α : Type} [DecidableEq α] (d : Nat → α) (m : SMap α) (k : Nat) (f : α → α) : SMap α :=
  mset d m k (f (mget d m k))

/-- Return every key that `p` selects to its default. -/
def mreset {α : Type} (p : Nat → Bool) (m : SMap α) : SMap α := m.filter (fun e => !p e.1)

/-- Keys strictly rising from above `lo`, and no entry at its default. -/
def mwfFrom {α : Type} [DecidableEq α] (d : Nat → α) : Nat → SMap α → Bool
  | _, [] => true
  | lo, (k, v) :: m => decide (lo ≤ k) && decide (v ≠ d k) && mwfFrom d (k + 1) m

/-- The canonical form. -/
def mwf {α : Type} [DecidableEq α] (d : Nat → α) (m : SMap α) : Bool := mwfFrom d 0 m

/-- Write consecutive keys from `k`. -/
def msetRun {α : Type} [DecidableEq α] (d : Nat → α) (m : SMap α) : Nat → List α → SMap α
  | _, [] => m
  | k, v :: vs => msetRun d (mset d m k v) (k + 1) vs

/-- Read `n` consecutive keys from `k`. -/
def mgetRun {α : Type} (d : Nat → α) (m : SMap α) (k n : Nat) : List α :=
  (List.range n).map (fun i => mget d m (k + i))

/-- The listed keys. -/
def mkeys {α : Type} (m : SMap α) : List Nat := m.map Prod.fst

/-- Keys that `ks` names, mapped one by one through `mset`. -/
def msetAll {α : Type} [DecidableEq α] (d : Nat → α) (m : SMap α) (es : List (Nat × α)) : SMap α :=
  es.foldl (fun acc e => mset d acc e.1 e.2) m

end Sys2Proof.Machine
end

