-- ==== Sys2Proof/Machine/Num.lean ====
section
/-!
DEFINITION. Machine/Num.lean: the number formats (03_number_formats.md), the decode of a stored code, the exact
product, the column adder, the one rounding of the device, conversion into the storage formats, and exact FP32
arithmetic rounded once.
-/

namespace Sys2Proof.Machine

/-! ## The formats (R97, Table 3.1) -/

/-- The parameters of one format; `code` is its code in Table 2.3, with 6 standing for FP32. -/
structure Fmt where
  code : Nat
  eb : Nat
  mb : Nat
  bias : Int
  emin : Int
  emax : Int
  hasInf : Bool
  scaled : Bool
  bitsPer : Nat
  deriving DecidableEq, Repr

def f16w : Fmt := ⟨0, 8, 7, 127, -126, 127, true, false, 16⟩
def f16n : Fmt := ⟨1, 5, 10, 15, -14, 15, true, false, 16⟩
def f8p : Fmt := ⟨2, 4, 3, 7, -6, 7, false, true, 8⟩
def f8r : Fmt := ⟨3, 5, 2, 15, -14, 15, true, true, 8⟩
/-- I8 has no exponent; only its scaled flag and size are used. -/
def i8 : Fmt := ⟨4, 0, 7, 0, 0, 0, false, true, 8⟩
def f4 : Fmt := ⟨5, 2, 1, 1, 0, 2, false, true, 4⟩
def fp32 : Fmt := ⟨6, 8, 23, 127, -126, 127, true, false, 32⟩

/-- The format of a code of Table 2.3 (R57). The reserved code 7 of a place word or of an output control, for which the spec
names no fault, runs as F16W (log 44, DESIGN CHOICE). -/
def fmtOf (c : Nat) : Fmt :=
  if c = 0 then f16w else if c = 1 then f16n else if c = 2 then f8p else if c = 3 then f8r
  else if c = 4 then i8 else if c = 5 then f4 else if c = 6 then fp32 else f16w

/-- The NaN code the device writes, Table 3.1. I8 writes 0x00 for a NaN (Table 3.9). -/
def nanCode (f : Fmt) : Nat :=
  if f.code = 0 then 0x7FC0 else if f.code = 1 then 0x7E00 else if f.code = 2 then 0x80
  else if f.code = 3 then 0x7E else if f.code = 4 then 0 else if f.code = 5 then 8 else 0x7FC00000

/-! ## Decode (R98-R107) -/

/-- The class of a decoded operand (R104). -/
inductive Cls where
  | zero | fin | inf | nan
  deriving DecidableEq, Repr

/-- The internal form of R104: a finite value is (-1)^s x m x 2^(e - 10) with 1,024 <= m <= 2,047. -/
structure Val where
  cls : Cls
  s : Bool
  e : Int
  m : Nat
  deriving DecidableEq, Repr

/-- The zero class carries no sign (R105). -/
def Val.zeroVal : Val := ⟨.zero, false, 0, 0⟩

/-- A magnitude below 2,048 times 2^k, normalised (R105), with the scale exponent `t` added (R106). -/
def normVal (s : Bool) (mag : Nat) (k t : Int) : Val :=
  let sh := 10 - Nat.log2 mag
  ⟨.fin, s, k - sh + 10 + t, mag * 2 ^ sh⟩

/-- The reference decode: the element's code, its format, and the E8S code `c` of its scale. -/
def decodeCode (f : Fmt) (code c : Nat) : Val :=
  let t : Int := if f.scaled then (c : Int) - 127 else 0
  if f.code = 4 then
    let x := signed code 8
    if x = 0 then .zeroVal else normVal (decide (x < 0)) x.natAbs 0 t
  else
    let s := bit code (f.eb + f.mb)
    let ef := bits code f.mb f.eb
    let fr := bits code 0 f.mb
    if (f.code = 2 ∧ code = 0x80) ∨ (f.code = 5 ∧ code = 8) then ⟨.nan, false, 0, 0⟩
    else
      let out := f.code = 2 ∧ ef = 15
      let ef := if out then 14 else ef
      let fr := if out then 7 else fr
      if f.hasInf ∧ ef = 2 ^ f.eb - 1 then
        if fr = 0 then ⟨.inf, s, 0, 0⟩ else ⟨.nan, false, 0, 0⟩
      else if ef = 0 ∧ fr = 0 then .zeroVal
      else
        let mag := if ef = 0 then fr else fr + 2 ^ f.mb
        let k : Int := (if ef = 0 then 1 else (ef : Int)) - f.bias - f.mb
        normVal s mag k t

/-! ## Products (R108, R109, Table 3.4) -/

/-- A product: its class, its sign, and for a finite one the exact q x 2^e with q of the product's sign. -/
structure Term where
  cls : Cls
  s : Bool
  q : Int
  e : Int
  deriving DecidableEq, Repr

/-- The class of a product (Table 3.4). -/
def prodCls : Cls → Cls → Cls
  | .nan, _ => .nan
  | _, .nan => .nan
  | .zero, .inf => .nan
  | .inf, .zero => .nan
  | .zero, _ => .zero
  | _, .zero => .zero
  | .inf, _ => .inf
  | _, .inf => .inf
  | .fin, .fin => .fin

/-- The exact product of two internal operands. -/
def product (a b : Val) : Term :=
  let s := xor a.s b.s
  match prodCls a.cls b.cls with
  | .fin => let q : Int := (a.m * b.m : Nat); ⟨.fin, s, if s then -q else q, a.e + b.e - 20⟩
  | .inf => ⟨.inf, s, 0, 0⟩
  | .nan => ⟨.nan, false, 0, 0⟩
  | .zero => ⟨.zero, false, 0, 0⟩

/-! ## The column sum (R110-R116) -/

/-- A column register: the finite part a x 2^u and the special flags; the finite part is zero exactly when a is 0. -/
structure Col where
  nan : Bool
  pinf : Bool
  ninf : Bool
  a : Int
  u : Int
  deriving DecidableEq, Repr

/-- A column register as it enters logical row 0. -/
def Col.start : Col := ⟨false, false, false, 0, 0⟩

/-- floor(log2 |x|) of a nonzero integer. -/
def leadI (x : Int) : Int := (Nat.log2 x.natAbs : Int)

/-- floor(x / 2^k), exact where k is not positive. -/
def floorShift (x k : Int) : Int :=
  if k ≤ 0 then x * (2 : Int) ^ (-k).toNat else x / (2 : Int) ^ k.toNat

/-- A finite or zero term added to the finite part: R110, R111, R112. -/
def addFinite (c : Col) (q e : Int) : Col :=
  if q = 0 ∧ c.a = 0 then c
  else
    let big : Int :=
      if c.a = 0 then leadI q + e
      else if q = 0 then leadI c.a + c.u
      else max (leadI q + e) (leadI c.a + c.u)
    let g := big - 28
    let x := floorShift c.a (g - c.u) + floorShift q (g - e)
    { c with a := x / 2, u := g + 1 }

/-- Add one term to a column register (R110-R113). -/
def addTerm (c : Col) (t : Term) : Col :=
  match t.cls with
  | .nan => { c with nan := true }
  | .inf => if t.s then { c with ninf := true } else { c with pinf := true }
  | .zero => addFinite c 0 0
  | .fin => addFinite c t.q t.e

/-- The sum of a column's terms in row order (R50). -/
def columnSum (ts : List Term) : Col := ts.foldl addTerm Col.start

/-! ## Exact values and the one rounding (R117, Table 3.7) -/

/-- A value to be rounded: special, zero, or (-1)^s x mag x 2^k with mag not 0. -/
inductive Ex where
  | nan
  | inf (s : Bool)
  | zero (s : Bool)
  | fin (s : Bool) (mag : Nat) (k : Int)
  deriving DecidableEq, Repr

/-- The exact value n x 2^k; zero is +0. -/
def exOf (n k : Int) : Ex := if n = 0 then .zero false else .fin (decide (n < 0)) n.natAbs k

/-- A column's result (R116). -/
def Col.result (c : Col) : Ex :=
  if c.nan || (c.pinf && c.ninf) then .nan
  else if c.pinf then .inf false
  else if c.ninf then .inf true
  else exOf c.a c.u

/-- Rounding modes of Table 3.7; SR carries its 16-bit random value. -/
inductive Round where
  | rne
  | trn
  | sr (r : Nat)
  deriving DecidableEq, Repr

/-- The rounded magnitude I' of mag x 2^k on the grid 2^q (R117). -/
def roundMag (mag : Nat) (k q : Int) (m : Round) : Nat :=
  if q ≤ k then mag * 2 ^ (k - q).toNat
  else
    let sh := (q - k).toNat
    let i := mag / 2 ^ sh
    let rem := mag % 2 ^ sh
    match m with
    | .trn => i
    | .rne => if 2 * rem > 2 ^ sh ∨ (2 * rem = 2 ^ sh ∧ i % 2 = 1) then i + 1 else i
    | .sr r => i + (rem * 2 ^ 16 / 2 ^ sh + r) / 2 ^ 16

/-- Outcome classes of a conversion, Table 3.8, by code. -/
inductive Conv where
  | special | invalid | overflowed | saturated | vanished | exact | inexact
  deriving DecidableEq, Repr

/-- The zero code of a sign (R125). -/
def zeroCode (f : Fmt) (s : Bool) : Nat :=
  if f.hasInf then b2n s * 2 ^ (f.eb + f.mb) else 0

/-- The code of the largest finite value of a sign, Table 3.1. -/
def maxCode (f : Fmt) (s : Bool) : Nat :=
  if f.code = 4 then (if s then 0x80 else 0x7F)
  else
    let top := if f.hasInf then 2 ^ f.eb - 2 else if f.code = 2 then 14 else 3
    b2n s * 2 ^ (f.eb + f.mb) + top * 2 ^ f.mb + (2 ^ f.mb - 1)

/-- The code of an infinity, in the formats that have one. -/
def infCode (f : Fmt) (s : Bool) : Nat := b2n s * 2 ^ (f.eb + f.mb) + (2 ^ f.eb - 1) * 2 ^ f.mb

/-- Special inputs, Table 3.9. -/
def encodeSpecial (f : Fmt) (isNan s : Bool) : Nat × Conv :=
  if isNan then (nanCode f, if f.code = 4 then .invalid else .special)
  else if f.hasInf then (infCode f s, .special)
  else if f.code = 4 then (maxCode f s, .invalid)
  else (nanCode f, .invalid)

/-- A rounded magnitude above the largest finite value, Table 3.9. -/
def encodeBig (f : Fmt) (s : Bool) (m : Round) : Nat × Conv :=
  if f.hasInf then
    match m with
    | .trn => (maxCode f s, .saturated)
    | _ => (infCode f s, .overflowed)
  else (maxCode f s, .saturated)

/-- `a x 2^i > b x 2^j`. -/
def dyGt (a : Nat) (i : Int) (b : Nat) (j : Int) : Bool :=
  if i ≤ j then decide (a > b * 2 ^ (j - i).toNat) else decide (a * 2 ^ (i - j).toNat > b)

/-- The significand of the largest finite value, and its exponent. -/
def maxSig (f : Fmt) (s : Bool) : Nat × Int :=
  if f.code = 4 then (if s then 128 else 127, 0) else (2 ^ (f.mb + 1) - 1, f.emax - f.mb)

/-- Round (-1)^s x mag x 2^k, mag not 0, into a format (R117-R119, R125, R126). -/
def roundTo (f : Fmt) (s : Bool) (mag : Nat) (k : Int) (m : Round) : Nat × Conv :=
  let ld : Int := Nat.log2 mag + k
  let q : Int := if f.code = 4 then 0 else max ld f.emin - f.mb
  let i := roundMag mag k q m
  let lim := maxSig f s
  if dyGt i q lim.1 lim.2 then encodeBig f s m
  else if i = 0 then (zeroCode f s, .vanished)
  else
    let cls := if dyGt mag k lim.1 lim.2 then Conv.saturated
      else if dyGt mag k i q || dyGt i q mag k then Conv.inexact else Conv.exact
    if f.code = 4 then (if s then (256 - i) % 256 else i, cls)
    else
      let carry := i = 2 ^ (f.mb + 1)
      let i' := if carry then i / 2 else i
      let q' := if carry then q + 1 else q
      let field : Nat := if i' < 2 ^ f.mb then 0 else (q' + f.mb + f.bias).toNat
      (b2n s * 2 ^ (f.eb + f.mb) + field * 2 ^ f.mb + i' % 2 ^ f.mb, cls)

/-- An exact value as FP32 in a rounding mode (R120-R123); a result above the largest FP32 value is an infinity, or
the largest finite value under TRN, as Table 3.9 has it for the formats with infinities. -/
def toFp32 (x : Ex) (m : Round) : Nat :=
  match x with
  | .nan => 0x7FC00000
  | .inf s => infCode fp32 s
  | .zero s => zeroCode fp32 s
  | .fin s mag k => (roundTo fp32 s mag k m).1

/-- The value of an FP32 code (R98, R99). -/
def ofFp32 (x : Nat) : Ex :=
  let s := bit x 31
  let ef := bits x 23 8
  let fr := bits x 0 23
  if ef = 255 then (if fr = 0 then .inf s else .nan)
  else if ef = 0 then (if fr = 0 then .zero s else .fin s fr (-149))
  else .fin s (fr + 2 ^ 23) ((ef : Int) - 150)

/-- The reference conversion of an FP32 value into a format under the scale 2^t (R124). -/
def encodeCode (f : Fmt) (x : Nat) (t : Int) (m : Round) : Nat × Conv :=
  match ofFp32 x with
  | .nan => encodeSpecial f true (bit x 31)
  | .inf s => encodeSpecial f false s
  | .zero s => (zeroCode f s, .exact)
  | .fin s mag k => roundTo f s mag (if f.scaled then k - t else k) m

/-! ## Exact arithmetic on values -/

/-- Negation, the sign bit only. -/
def Ex.neg : Ex → Ex
  | .nan => .nan
  | .inf s => .inf (!s)
  | .zero s => .zero (!s)
  | .fin s m k => .fin (!s) m k

/-- The integer n with value n x 2^k. -/
def Ex.num : Ex → Int
  | .fin s m _ => if s then -(m : Int) else m
  | _ => 0

/-- The exact sum, with the special values of IEEE 754 (R122); an exact zero sum of nonzero values is +0, and of two
zeros keeps the sign only when both are negative. -/
def Ex.add : Ex → Ex → Ex
  | .nan, _ => .nan
  | _, .nan => .nan
  | .inf s, .inf t => if s = t then .inf s else .nan
  | .inf s, _ => .inf s
  | _, .inf t => .inf t
  | .zero s, .zero t => .zero (s && t)
  | .zero _, y => y
  | x, .zero _ => x
  | .fin s m k, .fin t n l =>
    let e := min k l
    exOf ((Ex.fin s m k).num * 2 ^ (k - e).toNat + (Ex.fin t n l).num * 2 ^ (l - e).toNat) e

/-- The exact product, with the special values of IEEE 754. -/
def Ex.mul : Ex → Ex → Ex
  | .nan, _ => .nan
  | _, .nan => .nan
  | .inf _, .zero _ => .nan
  | .zero _, .inf _ => .nan
  | .inf s, .inf t => .inf (xor s t)
  | .inf s, .fin t _ _ => .inf (xor s t)
  | .fin s _ _, .inf t => .inf (xor s t)
  | .zero s, .zero t => .zero (xor s t)
  | .zero s, .fin t _ _ => .zero (xor s t)
  | .fin s _ _, .zero t => .zero (xor s t)
  | .fin s m k, .fin t n l => .fin (xor s t) (m * n) (k + l)

/-- FP32 addition, rounded once by RNE. -/
def fadd (a b : Nat) : Nat := toFp32 ((ofFp32 a).add (ofFp32 b)) .rne
/-- FP32 multiplication, rounded once by RNE. -/
def fmul (a b : Nat) : Nat := toFp32 ((ofFp32 a).mul (ofFp32 b)) .rne
/-- FP32 subtraction. -/
def fsub (a b : Nat) : Nat := toFp32 ((ofFp32 a).add (ofFp32 b).neg) .rne
/-- a x b + c with one rounding. -/
def ffma (a b c : Nat) : Nat := toFp32 (((ofFp32 a).mul (ofFp32 b)).add (ofFp32 c)) .rne

/-- The quotient of two values, exact or with an odd last bit below every rounding point. -/
def Ex.div : Ex → Ex → Ex
  | .nan, _ => .nan
  | _, .nan => .nan
  | .inf _, .inf _ => .nan
  | .zero _, .zero _ => .nan
  | .inf s, .zero t => .inf (xor s t)
  | .inf s, .fin t _ _ => .inf (xor s t)
  | .zero s, .inf t => .zero (xor s t)
  | .fin s _ _, .inf t => .zero (xor s t)
  | .zero s, .fin t _ _ => .zero (xor s t)
  | .fin s _ _, .zero t => .inf (xor s t)
  | .fin s m k, .fin t n l =>
    let up := 64 + Nat.log2 n
    let q := m * 2 ^ up / n
    let odd := if m * 2 ^ up % n = 0 then 0 else 1
    .fin (xor s t) (2 * q + odd) (k - l - up - 1)

/-- The square root, exact or with an odd last bit below every rounding point; NaN for a negative value. -/
def Ex.sqrt : Ex → Ex
  | .nan => .nan
  | .inf s => if s then .nan else .inf false
  | .zero s => .zero s
  | .fin s m k =>
    if s then .nan
    else
      let up := 64 + (k % 2).toNat
      let n := m * 2 ^ up
      let r := Nat.sqrt n
      let odd := if r * r = n then 0 else 1
      .fin false (2 * r + odd) ((k - up) / 2 - 1)

/-- FP32 division, rounded once by RNE. -/
def fdiv (a b : Nat) : Nat := toFp32 ((ofFp32 a).div (ofFp32 b)) .rne
/-- FP32 square root, rounded once by RNE. -/
def fsqrt (a : Nat) : Nat := toFp32 (ofFp32 a).sqrt .rne

def isNan32 (x : Nat) : Bool := bits x 23 8 = 255 ∧ bits x 0 23 ≠ 0
def isInf32 (x : Nat) : Bool := bits x 23 8 = 255 ∧ bits x 0 23 = 0
def isZero32 (x : Nat) : Bool := bits x 0 31 = 0
/-- FP32 with its sign cleared. -/
def fabs (x : Nat) : Nat := bits x 0 31

/-- FP32 order of two values that are not NaN: -0 equals +0. -/
def flt (a b : Nat) : Bool :=
  if isNan32 a || isNan32 b then false
  else
    let key (x : Nat) : Int := if bit x 31 then -(bits x 0 31 : Int) else (bits x 0 31 : Int)
    decide (key a < key b)

/-- The value 2^t as FP32, for t from -149 to 127. -/
def pow2Fp32 (t : Int) : Nat := toFp32 (.fin false 1 t) .rne

/-- An integer as FP32 by RNE; 0 is +0. -/
def intToFp32 (n : Int) : Nat := toFp32 (exOf n 0) .rne

/-! ## An element with its poison mark, and FP32 values with theirs (R88) -/

/-- A stored operand: its code and whether it is poisoned. -/
structure Elem where
  code : Nat
  poison : Bool
  deriving DecidableEq, Repr

/-- An FP32 value with its poison mark. -/
structure FpP where
  v : Nat
  poison : Bool
  deriving DecidableEq, Repr

/-- Unpack `n` elements of a format from bytes (R103): 16-bit codes little-endian, F4 two to a byte. -/
def unpackCodes (f : Fmt) (bs : List Byte) (n : Nat) : List Nat :=
  if f.bitsPer = 32 then (chunks 4 n bs).map leNat
  else if f.bitsPer = 16 then (chunks 2 n bs).map leNat
  else if f.bitsPer = 8 then (bs.take n).map BitVec.toNat
  else (bs.flatMap (fun b => [b.toNat % 16, b.toNat / 16])).take n

/-- Pack element codes of a format into bytes (R103). -/
def packCodes (f : Fmt) (cs : List Nat) : List Byte :=
  if f.bitsPer = 32 then cs.flatMap (natLe 4)
  else if f.bitsPer = 16 then cs.flatMap (natLe 2)
  else if f.bitsPer = 8 then cs.map (BitVec.ofNat 8)
  else (chunks 2 cs.length cs).map (fun p => BitVec.ofNat 8 (p.getD 0 0 + 16 * p.getD 1 0))

/-- Bytes that `n` elements of a format take. -/
def fmtBytes (f : Fmt) (n : Nat) : Nat := ceilDiv (n * f.bitsPer) 8

end Sys2Proof.Machine
end

