-- ==== Sys2Proof/Machine/Stats.lean ====
section
/-!
DEFINITION. Machine/Stats.lean: scales, recipes, statistics records and the random bits of stochastic rounding
(04_scales_and_statistics.md), as pure functions.
-/

namespace Sys2Proof.Machine

/-! ## The random bits (R161) -/

/-- Rotate a 32-bit value left. -/
def rotl32 (x n : Nat) : Nat := (x * 2 ^ n) % 2 ^ 32 + x / 2 ^ (32 - n)

/-- The four words of the generator between rounds. -/
structure Arx where
  a : Nat
  b : Nat
  c : Nat
  d : Nat
  deriving DecidableEq, Repr

/-- One ARX round with its two rotations. -/
def arxRound (rd rb : Nat) (x : Arx) : Arx :=
  let a := (x.a + x.b) % 2 ^ 32
  let d := rotl32 (Nat.xor x.d a) rd
  let c := (x.c + d) % 2 ^ 32
  ⟨a, rotl32 (Nat.xor x.b c) rb, c, d⟩

/-- The 32-bit h of the generator (R161, R168). -/
def srHash (seed tensor index draw : Nat) : Nat :=
  let x : Arx := ⟨Nat.xor (bits seed 0 32) (Nat.lor (bits draw 0 16 * 2 ^ 16) (bits index 32 16)), bits index 0 32,
    bits seed 32 32, Nat.xor (bits tensor 0 32) 0x9E3779B9⟩
  let y := arxRound 8 7 (arxRound 16 12 (arxRound 8 7 (arxRound 16 12 x)))
  Nat.xor (Nat.xor y.a y.b) (Nat.xor y.c y.d)

/-- The 16-bit random value r of R161. -/
def srBits (seed tensor index draw : Nat) : Nat := srHash seed tensor index draw / 2 ^ 16

/-- Every NaN becomes the canonical one (R173, R176). -/
def canon (x : Nat) : Nat := if isNan32 x then 0x7FC00000 else x

/-! ## Scale choice (R134, R135) -/

/-- The significand and exponent of V_F (Table 4.3), the significand as a 24-bit integer. -/
def vTarget (f : Fmt) : Nat × Int :=
  if f.code = 2 then (0xF00000, 7) else if f.code = 3 then (0xE00000, 15)
  else if f.code = 4 then (0xFE0000, 6) else (0xC00000, 2)

/-- The E8S code of R135 for an absolute maximum given as a positive finite FP32 code. R135 gives none for an infinite or
NaN AMAX of a merged record, nor R704 for one that is −0: code 127 is written (log 45, DESIGN CHOICE). -/
def chooseScale (a : Nat) (f : Fmt) (h : Int) : Nat :=
  match ofFp32 a with
  | .fin _ m k =>
    let la : Int := Nat.log2 m + k
    let sa := m * 2 ^ (23 - Nat.log2 m)
    let t0 := la - ((vTarget f).2 - h)
    let t1 := if sa > (vTarget f).1 then t0 + 1 else t0
    let t2 := max (-127) (min 128 t1)
    (t2 + 127).toNat
  | _ => 127

/-- Whether an FP32 code is finite and not zero. -/
def finNz (x : Nat) : Bool :=
  match ofFp32 x with
  | .fin .. => true
  | _ => false

/-- The absolute maximum of a block as an FP32 code (R136), or 0 when no element enters it. -/
def absMax (vs : List FpP) : Nat :=
  vs.foldl (fun m v => if finNz v.v && !v.poison then max m (fabs v.v) else m) 0

/-- What decides the scale of a block (Table 4.2). -/
inductive Recipe where
  /-- F16W, F16N or FP32 target: no scale. -/
  | unscaled
  /-- GRADIENT (h = 0) and MOMENT (h = 1): the block's own maximum. -/
  | own (h : Nat)
  /-- ACTIVATION: AMAX of the merged record. -/
  | given (amax : Nat)
  /-- WEIGHT: the channel's entry of the maximum vector; none where the entry supplies no maximum (R698). -/
  | channel (m : Option Nat)
  deriving DecidableEq, Repr

/-- A maximum-vector entry's maximum (R698). -/
def entryMax (e : FpP) : Option Nat := if finNz e.v && !bit e.v 31 && !e.poison then some e.v else none

/-- Every element is a zero of either sign (R137). -/
def allZero (vs : List FpP) : Bool := vs.all (fun v => isZero32 v.v)

/-- The scale code of a block under a recipe (R134-R138, R698). A WEIGHT block is a whole channel, of which a tile may hold a
part: its entry of the maximum vector decides (R140; log 21, DEDUCED). -/
def blockScale (f : Fmt) (r : Recipe) (vs : List FpP) : Nat :=
  match r with
  | .channel (some a) => chooseScale a f 0
  | .channel none | .unscaled => 127
  | .own h => if allZero vs || absMax vs = 0 then 127 else chooseScale (absMax vs) f h
  | .given a => if allZero vs || absMax vs = 0 then 127 else chooseScale a f 0

/-- Whether a block is marked as a zero block (R137): one whose elements are all zero, a channel only where its entry also
supplies no maximum. -/
def zeroBlock (f : Fmt) (r : Recipe) (vs : List FpP) : Bool :=
  f.scaled && allZero vs && (match r with | .channel (some _) => false | _ => true)

/-! ## Statistics records (R150-R156) -/

/-- A statistics record, Table 4.5; `counts` holds the u32 counts of offsets 0x020 to 0x034, then BIN_UNDER, BIN_OVER,
BIN[0-63] and ENC[f][k], 96 in all. -/
structure StatRec where
  tensor : Nat
  valid : Bool
  merged : Bool
  closed : Bool
  sat : Bool
  fmt : Nat
  kind : Nat
  step : Nat
  mask : Nat
  amax : Nat
  amin : Nat
  counts : List Nat
  lo : Nat
  hi : Nat
  deriving DecidableEq, Repr

/-- Places in `counts`. -/
def cElements : Nat := 0
def cZeros : Nat := 1
def cNans : Nat := 2
def cPoisoned : Nat := 3
def cBlocks : Nat := 4
def cZeroBlocks : Nat := 5
def cUnder : Nat := 6
def cOver : Nat := 7
def cBin (i : Nat) : Nat := 8 + i
def cEnc (f k : Nat) : Nat := 72 + 4 * f + k

/-- A cleared record (R155). -/
def StatRec.empty : StatRec :=
  ⟨0, false, false, false, false, 0, 0, 0, 0, 0, 0x7F800000, List.replicate 96 0, 0xFF, 0⟩

/-- Add `n` to a count, saturating; a count that saturates sets SAT (R153). -/
def StatRec.bump (r : StatRec) (i n : Nat) : StatRec :=
  let v := r.counts.getD i 0 + n
  if v > 0xFFFFFFFF then { r with counts := r.counts.set i 0xFFFFFFFF, sat := true }
  else { r with counts := r.counts.set i v }

/-- The ENC entry of a conversion class (R151). -/
def encClass : Conv → Option Nat
  | .overflowed => some 0
  | .saturated => some 1
  | .vanished => some 2
  | .invalid => some 3
  | _ => none

/-- The one place an unpoisoned element is counted in (R150, Table 4.4). -/
def binOf (x : Nat) : Nat :=
  match ofFp32 x with
  | .nan => cNans
  | .zero _ => cZeros
  | .inf _ => cOver
  | .fin _ m k =>
    let l : Int := Nat.log2 m + k
    if l ≥ 24 then cOver else if l < -40 then cUnder else cBin (l + 40).toNat

/-- Count one element: its FP32 value, poison, and the class of its conversion (R150, R151). -/
def StatRec.element (r : StatRec) (f : Fmt) (zeroBlock : Bool) (x : FpP) (c : Conv) : StatRec :=
  if x.poison then r.bump cPoisoned 1
  else
    let r := (r.bump cElements 1).bump (binOf x.v) 1
    let r := if finNz x.v then { r with amax := max r.amax (fabs x.v), amin := min r.amin (fabs x.v) } else r
    match encClass c with
    | some k => if f.code = 6 || (zeroBlock && k = 2) then r else r.bump (cEnc f.code k) 1
    | none => r

/-- Count a scale block and its code (R137, Table 4.5). -/
def StatRec.block (r : StatRec) (scale : Nat) (zero : Bool) : StatRec :=
  let r := r.bump cBlocks 1
  let r := if zero then r.bump cZeroBlocks 1 else r
  { r with lo := min r.lo scale, hi := max r.hi scale }

/-- Add the counts of `b` to `a`, as the merge of R158 does for every count of Table 4.5. -/
def StatRec.addCounts (a b : StatRec) : StatRec :=
  let go := (List.range 96).foldl (fun r i => r.bump i (b.counts.getD i 0)) a
  { go with amax := max a.amax b.amax, amin := min a.amin b.amin, lo := min a.lo b.lo, hi := max a.hi b.hi,
            sat := go.sat || b.sat, fmt := if a.fmt = b.fmt then a.fmt else 0xF }

/-- FLAGS, Table 4.6. -/
def StatRec.flags (r : StatRec) : Nat :=
  b2n r.valid + 2 * b2n r.merged + 4 * b2n r.closed + 8 * b2n r.sat + 16 * (r.fmt % 16) + 256 * (r.kind % 8)

/-! ## CRC-32C -/

/-- One bit of the reflected CRC with a polynomial. -/
def crcBit (poly c : Nat) : Nat := if c % 2 = 1 then Nat.xor (c / 2) poly else c / 2

/-- One byte of the reflected CRC. -/
def crcByte (poly c b : Nat) : Nat :=
  let f := crcBit poly
  f (f (f (f (f (f (f (f (Nat.xor c b))))))))

/-- CRC-32C of bytes. -/
def crc32c (bs : List Byte) : Nat :=
  Nat.xor (bs.foldl (fun c b => crcByte 0x82F63B78 c b.toNat) 0xFFFFFFFF) 0xFFFFFFFF

/-- The 508 bytes of a record before its CRC. -/
def StatRec.body (r : StatRec) : List Byte :=
  natLe 4 r.tensor ++ natLe 4 r.flags ++ natLe 8 r.step ++ natLe 8 r.mask ++ natLe 4 r.amax ++ natLe 4 r.amin
    ++ ((r.counts.take 6).flatMap (natLe 4)) ++ natLe 1 r.lo ++ natLe 1 r.hi ++ natLe 6 0
    ++ ((r.counts.drop 6).flatMap (natLe 4)) ++ natLe 84 0

/-- A record as stored, 512 bytes (Table 4.5). -/
def StatRec.bytes (r : StatRec) : List Byte := r.body ++ natLe 4 (crc32c r.body)

/-- A little-endian field of a byte list. -/
def fieldAt (bs : List Byte) (off k : Nat) : Nat := leNat ((bs.drop off).take k)

/-- A record read from its 512 bytes. -/
def StatRec.ofBytes (bs : List Byte) : StatRec :=
  let fl := fieldAt bs 4 4
  ⟨fieldAt bs 0 4, bit fl 0, bit fl 1, bit fl 2, bit fl 3, bits fl 4 4, bits fl 8 3, fieldAt bs 8 8, fieldAt bs 16 8,
   fieldAt bs 24 4, fieldAt bs 28 4,
   (List.range 6).map (fun i => fieldAt bs (0x20 + 4 * i) 4) ++ (List.range 90).map (fun i => fieldAt bs (0x40 + 4 * i) 4),
   fieldAt bs 0x38 1, fieldAt bs 0x39 1⟩

/-- Whether the CRC of 512 bytes read as a record holds. -/
def statCrcOk (bs : List Byte) : Bool := crc32c (bs.take 508) = fieldAt bs 0x1FC 4

/-- What an ACTIVATION encode finds (R704). -/
inductive ActTest where
  | fallBack
  | poisoned
  | wait
  | badCrc
  | amax (a : Nat)
  deriving DecidableEq, Repr

/-- The tests of R704 from step 2 on the record's bytes and whether any of them arrived poisoned. -/
def actTest (bs : List Byte) (poison : Bool) (tensor step : Nat) : ActTest :=
  let r := StatRec.ofBytes bs
  if poison then .poisoned
  else if !r.valid || r.tensor != tensor || r.step + 1 != step then .fallBack
  else if !r.closed then .wait
  else if !statCrcOk bs then .badCrc
  else if r.amax = 0 then .fallBack
  else .amax r.amax

/-- SLOT_BITS of a STAT_CFG value, none where EN is 0 or SLOT_BITS is not 8-16 (Table 4.10). -/
def statBits (cfg : Nat) : Option Nat :=
  let b := bits cfg 4 5
  if bit cfg 0 && 8 ≤ b && b ≤ 16 then some b else none

/-- Context address of the merged record. -/
def mergedAt (base b tensor step : Nat) : Nat := base + ((step % 2) * 2 ^ b + tensor % 2 ^ b) * 512
/-- Context address of the partial record of CORE_n. -/
def partialAt (base b tensor step n : Nat) : Nat :=
  base + 2 ^ (b + 10) + (((step % 2) * 2 ^ b + tensor % 2 ^ b) * 64 + n) * 512

/-- A partial record after the counts of one encode (R155, R156): none when it holds another tensor of the step. Table 4.6 has
no KIND for encodes of one tensor under several KINDs: the latest stands (log 45, DESIGN CHOICE). -/
def addToPartial (old : StatRec) (new : StatRec) (n : Nat) : Option StatRec :=
  if !old.valid || old.step != new.step then
    some { (StatRec.empty.addCounts new) with
      valid := true, tensor := new.tensor, step := new.step, mask := 2 ^ n, fmt := new.fmt, kind := new.kind }
  else if old.tensor != new.tensor then none
  else some { (old.addCounts new) with kind := new.kind, valid := true, merged := false, mask := Nat.lor old.mask (2 ^ n) }

/-! ## Encoding a block -/

/-- One encoded block: its elements, its scale code and zero-block bit, and the record with its counts. -/
structure EncBlock where
  elems : List Elem
  scale : Nat
  zero : Bool
  stat : StatRec
  deriving DecidableEq, Repr

/-- Encode the elements of one scale block (R124, R134-R138), counting into `st`. Element i uses rounding mode
`mode i`. An FP32 target keeps a value's bits, a NaN takes its one pattern (R97). -/
def encodeBlock (f : Fmt) (r : Recipe) (mode : Nat → Round) (vs : List FpP) (st : StatRec) : EncBlock :=
  let c := blockScale f r vs
  let zero := zeroBlock f r vs
  let t : Int := (c : Int) - 127
  let encs := (vs.zipIdx).map (fun p => if f.code = 6 then (canon p.1.v, Conv.exact) else encodeCode f p.1.v t (mode p.2))
  let es := (vs.zip encs).map (fun p => (⟨p.2.1, p.1.poison⟩ : Elem))
  let st := (vs.zip encs).foldl (fun acc p => acc.element f zero p.1 p.2.2) st
  ⟨es, c, zero, if f.scaled then st.block c zero else st⟩

end Sys2Proof.Machine
end

