-- ==== Sys2Proof/Machine/MuleAlu.lean ====
section
/-!
DEFINITION. Machine/MuleAlu.lean: Mule programs, their operations, the checks at a tile's start and the reduction
unit's combining order (05_mule_and_reduction.md), as pure functions of a tile's operands.
-/

namespace Sys2Proof.Machine

/-! ## Operations (Table 5.5) -/

/-- MAX of R177: +0 is larger than -0. -/
def fmax (a b : Nat) : Nat :=
  if isNan32 a || isNan32 b then 0x7FC00000
  else if isZero32 a && isZero32 b then (if bit a 31 then b else a)
  else if flt a b then b else a

/-- MIN of R177. -/
def fmin (a b : Nat) : Nat :=
  if isNan32 a || isNan32 b then 0x7FC00000
  else if isZero32 a && isZero32 b then (if bit a 31 then a else b)
  else if flt a b then a else b

def fOne : Nat := 0x3F800000

/-- 1 / A and 1 / sqrt A, rounded once (R176); an odd bit below every rounding point stands for the remainder. -/
def frcp (a : Nat) : Nat := fdiv fOne a

/-- 1 / sqrt x of a value, exact or with an odd last bit. -/
def Ex.rsqrt : Ex → Ex
  | .nan => .nan
  | .inf s => if s then .nan else .zero false
  | .zero s => .inf s
  | .fin s m k =>
    if s then .nan
    else
      -- 1 / sqrt (m 2^k) = sqrt (2^(2p) / m) 2^(-k/2 - p), with k made even
      let m2 := if k % 2 = 0 then m else m * 2
      let k2 := if k % 2 = 0 then k else k - 1
      let p := 64 + Nat.log2 m2
      let q := 2 ^ (2 * p) / m2
      let r := Nat.sqrt q
      let odd := if r * r * m2 = 2 ^ (2 * p) then 0 else 1
      .fin false (2 * r + odd) (-(k2 / 2) - p - 1)

def frsqrt (a : Nat) : Nat := toFp32 (ofFp32 a).rsqrt .rne

/-- The modifiers of R178: ABS before NEG, and neither changes a NaN. -/
def modify32 (ab ng : Bool) (x : Nat) : Nat :=
  if isNan32 x then x
  else
    let y := if ab then fabs x else x
    if ng then Nat.xor y 0x80000000 else y

/-- An activation table as its 386 words spell it (Table 5.8). -/
structure Tbl where
  xLo : Nat
  sw : Int
  loMode : Nat
  hiMode : Nat
  valid : Bool
  loVal : Nat
  hiVal : Nat
  coef : List Nat
  deriving DecidableEq, Repr

/-- A table from its bytes. -/
def Tbl.ofBytes (bs : List Byte) : Tbl :=
  let modes := fieldAt bs 5 1
  ⟨fieldAt bs 0 4, signed (fieldAt bs 4 1) 8, bits modes 0 2, bits modes 2 2, bit modes 7, fieldAt bs 8 4, fieldAt bs 12 4,
   (List.range 768).map (fun i => fieldAt bs (16 + 4 * i) 4)⟩

/-- The exact value of a finite FP32 code as n x 2^-149. -/
def fix149 (x : Nat) : Int :=
  match ofFp32 x with
  | .fin s m k => (if s then -(m : Int) else m) * 2 ^ (k + 149).toNat
  | _ => 0

/-- The function table_eval of R186. Values are held as multiples of 2^-277, which every FP32 value and every
segment edge is (the narrowest segment is 2^-128 wide). -/
def tableEval (t : Tbl) (x : Nat) : Nat :=
  if isNan32 x then 0x7FC00000
  else
    let lo := fix149 t.xLo * 2 ^ 128
    let w : Int := 2 ^ (t.sw + 277).toNat
    let hi := lo + 256 * w
    let xv := fix149 x * 2 ^ 128
    let below := if isInf32 x then bit x 31 else decide (xv < lo)
    let above := if isInf32 x then !bit x 31 else decide (xv ≥ hi)
    let seg (i : Nat) : Nat :=
      let u := toFp32 (exOf (xv - (lo + (i : Int) * w)) (-277)) .rne
      let c (j : Nat) := t.coef.getD (3 * i + j) 0
      ffma (ffma (c 2) u (c 1)) u (c 0)
    if below then
      if t.loMode = 0 then t.loVal else if t.loMode = 1 then x
      else if isInf32 x then 0x7FC00000 else seg 0
    else if above then
      if t.hiMode = 0 then t.hiVal else if t.hiMode = 1 then x
      else if isInf32 x then 0x7FC00000 else seg 255
    else seg ((xv - lo) / w).toNat

/-! ## Programs (Tables 5.2-5.4) -/

/-- A program: 16 entries of two words. -/
abbrev Prog := List (Nat × Nat)

def pWord0 (p : Prog) (j : Nat) : Nat := (p.getD j (0, 0)).1
def pWord1 (p : Prog) (j : Nat) : Nat := (p.getD j (0, 0)).2
def pNops (p : Prog) : Nat := bits (pWord0 p 0) 0 4
def slotEn (p : Prog) (k : Nat) : Bool := bit (pWord0 p 0) (8 * k + 8)
/-- AXIS: false for ROW, true for COL. -/
def slotCol (p : Prog) (k : Nat) : Bool := bit (pWord0 p 0) (8 * k + 9)
def slotFunc (p : Prog) (k : Nat) : Nat := bits (pWord0 p 0) (8 * k + 10) 3
def slotFinish (p : Prog) (k : Nat) : Nat := bits (pWord0 p 0) (8 * k + 13) 2
def slotOutTap (p : Prog) (k : Nat) : Nat := bits (pWord0 p 0) (2 * k + 40) 2
def rowSpan (p : Prog) : Nat := bits (pWord0 p 0) 48 16
def colSpan (p : Prog) : Nat := bits (pWord1 p 0) 0 16
def pDivisor (p : Prog) : Nat := bits (pWord1 p 0) 16 16 + 1
def pEps (p : Prog) : Nat := bits (pWord1 p 0) 32 32

def opOpc (p : Prog) (j : Nat) : Nat := bits (pWord0 p j) 0 6
def opDst (p : Prog) (j : Nat) : Nat := bits (pWord0 p j) 6 3
def opSrc (p : Prog) (j i : Nat) : Nat := bits (pWord0 p j) (9 + 5 * i) 5
def opNeg (p : Prog) (j i : Nat) : Bool := bit (pWord0 p j) (24 + i)
def opAbsA (p : Prog) (j : Nat) : Bool := bit (pWord0 p j) 27
def opMask (p : Prog) (j : Nat) : Nat := bits (pWord0 p j) 28 3
def opTapEn (p : Prog) (j : Nat) : Bool := bit (pWord0 p j) 31
def opTapSlot (p : Prog) (j : Nat) : Nat := bits (pWord0 p j) 32 2
def opTbl (p : Prog) (j : Nat) : Nat := bits (pWord0 p j) 34 2

/-- How many operands an opcode reads (R700). -/
def opArity (o : Nat) : Nat :=
  if o = 4 then 3
  else if o = 1 ∨ o = 9 ∨ o = 10 ∨ o = 11 ∨ o = 13 then 1
  else if 1 ≤ o ∧ o ≤ 13 then 2 else 0

/-- The passes of an opcode (Table 5.5). -/
def opPasses (o : Nat) : Nat :=
  if o = 9 ∨ o = 10 ∨ o = 13 then 2 else if o = 11 ∨ o = 12 then 4 else 1

/-- The entries 1 to NOPS. -/
def opList (p : Prog) : List Nat := (List.range (pNops p)).map (· + 1)

/-- P of R182: the passes of the program's operations. -/
def progPasses (p : Prog) : Nat := (opList p).foldl (fun n j => n + opPasses (opOpc p j)) 0

/-- The selectors operation j reads (R700). -/
def opReads (p : Prog) (j : Nat) : List Nat := (List.range (opArity (opOpc p j))).map (opSrc p j)

/-! ## The checks of Table 5.11 -/

/-- What the station's descriptors supply to a program, and its three outputs. -/
structure MuleCfg where
  ins : List Bool
  rowv : Bool
  colv : Bool
  mask : Bool
  rtag : Bool
  ctag : Bool
  /-- Per output: written, its source register, rounding mode code, weight-update mark. -/
  outs : List (Bool × Nat × Nat × Bool)
  deriving DecidableEq, Repr

def firstOp (l : List Nat) (bad : Nat → Bool) : Option Nat := l.find? bad

/-- A selector that is reserved or names something the station does not supply (code 2). -/
def badSel (c : MuleCfg) (s : Nat) : Bool :=
  if s ≥ 22 then true
  else if 8 ≤ s ∧ s ≤ 11 then !(c.ins.getD (s - 8) false)
  else if s = 12 then !c.rowv else if s = 13 then !c.colv else false

def badMask (c : MuleCfg) (m : Nat) : Bool :=
  (m = 0 && !c.mask) || ((m = 2 || m = 3) && (!c.rtag || !c.ctag))

/-- Lane register r is written by an operation before entry j. -/
def writtenBefore (p : Prog) (j r : Nat) : Bool := (opList p).any (fun i => i < j && opDst p i = r)

/-- The operations that tap slot k. -/
def tapOps (p : Prog) (k : Nat) : List Nat := (opList p).filter (fun j => opTapEn p j && opTapSlot p j = k)

def outTapped (c : MuleCfg) (p : Prog) (k : Nat) : Bool :=
  slotOutTap p k != 0 && (c.outs.getD (slotOutTap p k - 1) (false, 0, 0, false)).1

/-- Code 4 for operation j: an RDk read that the slot's kind or order forbids, or a tap of a disabled slot. A read of RDk of
a slot that is disabled or that no operation taps faults too: Table 5.11 names no such slot, which never has a result (log
46, DESIGN CHOICE). -/
def badRedOp (p : Prog) (j : Nat) : Bool :=
  (opTapEn p j && !slotEn p (opTapSlot p j))
  || (opReads p j).any (fun s =>
      16 ≤ s && s ≤ 19 &&
        (let k := s - 16
         slotCol p k || rowSpan p != 0 || slotOutTap p k != 0 || !slotEn p k || !(tapOps p k).all (· < j)
           || (tapOps p k).isEmpty))

/-- Code 4 for the header. OUT_TAP is a tap of an enabled slot, and one of an output that is not written taps nothing. -/
def badRedHdr (c : MuleCfg) (p : Prog) : Bool :=
  (List.range 4).any (fun k =>
    slotFunc p k ≥ 5
    || (!slotEn p k && outTapped c p k)
    || (slotEn p k && ((tapOps p k).length + b2n (slotOutTap p k != 0) != 1 || (slotOutTap p k != 0 && !outTapped c p k))))

/-- The first condition of Table 5.11 that holds, with the entry that fails it. `tables` gives the four tables and `shape`
whether the tile breaks R199. Code 8 judges the reserved bits of the program; those of a table (Table 5.8 MODES[6:4] and
offset 0x006) are not judged (log 46, DESIGN CHOICE). -/
def muleCheck (c : MuleCfg) (p : Prog) (tables : List Tbl) (shape : Bool) : Option (Nat × Nat) :=
  let ops := opList p
  let outs := c.outs.filter (fun o => o.1)
  if pNops p = 0 then some (1, 0)
  else match firstOp ops (fun j => opArity (opOpc p j) = 0 || (opOpc p j = 7 && opMask p j ≥ 4)) with
  | some j => some (1, j)
  | none => match firstOp ops (fun j => (opReads p j).any (badSel c) || (opOpc p j = 7 && badMask c (opMask p j))) with
  | some j => some (2, j)
  | none => match firstOp ops (fun j => (opReads p j).any (fun s => s < 8 && !writtenBefore p j s)) with
  | some j => some (3, j)
  | none =>
    if outs.any (fun o => !writtenBefore p 16 o.2.1) then some (3, 0)
    else if badRedHdr c p then some (4, 0)
    else match firstOp ops (badRedOp p) with
    | some j => some (4, j)
    | none => match firstOp ops (fun j => opOpc p j = 13 &&
        (let t := tables.getD (opTbl p j) ⟨0, 0, 3, 3, false, 0, 0, []⟩
         !t.valid || t.loMode = 3 || t.hiMode = 3 || isNan32 t.xLo || isInf32 t.xLo)) with
      | some j => some (5, j)
      | none =>
        if outs.any (fun o => (o.2.2.1 == 2) != o.2.2.2) then some (6, 0)
        else if shape then some (7, 0)
        else if bits (pWord0 p 0) 4 4 != 0 || (List.range 4).any (fun k => bit (pWord0 p 0) (8 * k + 15)) then some (8, 0)
        else match firstOp ops (fun j => bits (pWord0 p j) 36 28 != 0) with
          | some j => some (8, j)
          | none => none

/-! ## The reduction unit (R194-R200) -/

/-- Two values combined by a slot's function. -/
def comb (fn : Nat) (a b : FpP) : FpP :=
  if fn = 1 then ⟨fmax a.v b.v, a.poison || b.poison⟩
  else if fn = 2 then ⟨fmin a.v b.v, a.poison || b.poison⟩
  else if fn = 4 then ⟨max (fabs a.v) (fabs b.v), false⟩
  else ⟨fadd a.v b.v, a.poison || b.poison⟩

/-- The value that a slot's combining leaves as it is (R194, R195): the partial of no tile, and what an element that is not
written taps. -/
def neutral (fn : Nat) : FpP :=
  ⟨if fn = 1 then 0xFF800000 else if fn = 2 then 0x7F800000 else if fn = 4 then 0 else 0x80000000, false⟩

/-- A tapped value as it enters the order of R197: SUMSQ squares it, AMAX keeps a finite unpoisoned magnitude. -/
def leafOf (fn : Nat) (a : FpP) : FpP :=
  if fn = 3 then ⟨fmul a.v a.v, a.poison⟩
  else if fn = 4 then ⟨if finNz a.v && !a.poison then fabs a.v else 0, false⟩
  else a

/-- The largest power of two below n (R197), by doubling at most `fuel` times. -/
def powBelow : Nat → Nat → Nat → Nat
  | 0, h, _ => h
  | fuel + 1, h, n => if 2 * h < n then powBelow fuel (2 * h) n else h

/-- The function pw of R197 with fuel at least the length. -/
def pwFuel (fn : Nat) : Nat → List FpP → FpP
  | 0, l => l.headD ⟨0, false⟩
  | fuel + 1, l =>
    if l.length ≤ 1 then l.headD ⟨0, false⟩
    else
      let h := powBelow l.length 1 l.length
      comb fn (pwFuel fn fuel (l.take h)) (pwFuel fn fuel (l.drop h))

/-- Values combined in the order of R197. -/
def pw (fn : Nat) (l : List FpP) : FpP := pwFuel fn l.length l

/-- A slot's finish (R200). -/
def finishOf (p : Prog) (k : Nat) (s : FpP) : FpP :=
  let n := intToFp32 (pDivisor p)
  let f := slotFinish p k
  if f = 1 then ⟨fdiv s.v n, s.poison⟩
  else if f = 2 then ⟨frsqrt (fadd (fdiv s.v n) (pEps p)), s.poison⟩
  else if f = 3 then ⟨frcp s.v, s.poison⟩
  else s

/-! ## Running a row -/

/-- The operands of one row of a tile. -/
structure MuleRow where
  ins : List (List FpP)
  colv : FpP
  rpos : FpP
  rtag : FpP
  mask : List FpP
  deriving DecidableEq, Repr

/-- The operands shared by a tile's rows. -/
structure MuleCols where
  rowv : List FpP
  cpos : List FpP
  ctag : List FpP
  deriving DecidableEq, Repr

/-- A row while its program runs: the lane registers, the finished RD values, and the values tapped per slot. -/
structure LaneState where
  regs : List (List FpP)
  rd : List FpP
  taps : List (List FpP)
  deriving DecidableEq, Repr

/-- The operand a selector names for lane c (Table 5.4). -/
def selVal (cs : MuleCols) (r : MuleRow) (l : LaneState) (i0 i1 : Nat) (s c : Nat) : FpP :=
  let z : FpP := ⟨0, false⟩
  if s < 8 then (l.regs.getD s []).getD c z
  else if s < 12 then (r.ins.getD (s - 8) []).getD c z
  else if s = 12 then cs.rowv.getD c z
  else if s = 13 then r.colv
  else if s = 14 then ⟨i0, false⟩
  else if s = 15 then ⟨i1, false⟩
  else if s < 20 then l.rd.getD (s - 16) z
  else if s = 21 then ⟨fOne, false⟩
  else z

/-- Whether a mask holds for lane c, and whether a mask input it judges is poisoned (Table 5.6, R191). -/
def maskHolds (cs : MuleCols) (r : MuleRow) (m c : Nat) : Bool × Bool :=
  let z : FpP := ⟨0, false⟩
  let cp := cs.cpos.getD c z
  let ct := cs.ctag.getD c z
  let causal := decide (cp.v ≤ r.rpos.v)
  let tagEq := decide (r.rtag.v = ct.v)
  if m = 0 then (let b := r.mask.getD c z; (b.v = 1, b.poison))
  else if m = 1 then (causal, cp.poison || r.rpos.poison)
  else if m = 2 then (tagEq, ct.poison || r.rtag.poison)
  else (causal && tagEq, cp.poison || r.rpos.poison || ct.poison || r.rtag.poison)

/-- The result of operation j in lane c (R176-R178, R184, R191). -/
def opResult (p : Prog) (tables : List Tbl) (cs : MuleCols) (r : MuleRow) (l : LaneState) (j c : Nat) : FpP :=
  let i0 := bits (pWord1 p j) 0 32
  let i1 := bits (pWord1 p j) 32 32
  let o := opOpc p j
  let rd (i : Nat) : FpP :=
    let x := selVal cs r l i0 i1 (opSrc p j i) c
    ⟨modify32 (i = 0 && opAbsA p j) (opNeg p j i) x.v, x.poison⟩
  let a := rd 0
  let b := rd 1
  let d := rd 2
  if o = 1 then a
  else if o = 2 then ⟨fadd a.v b.v, a.poison || b.poison⟩
  else if o = 3 then ⟨fmul a.v b.v, a.poison || b.poison⟩
  else if o = 4 then ⟨ffma a.v b.v d.v, a.poison || b.poison || d.poison⟩
  else if o = 5 then ⟨fmax a.v b.v, a.poison || b.poison⟩
  else if o = 6 then ⟨fmin a.v b.v, a.poison || b.poison⟩
  else if o = 7 then
    let m := maskHolds cs r (opMask p j) c
    let x := if m.1 then a else b
    ⟨x.v, x.poison || m.2⟩
  else if o = 8 then ⟨if flt b.v a.v then fOne else 0, a.poison || b.poison⟩
  else if o = 9 then ⟨frcp a.v, a.poison⟩
  else if o = 10 then ⟨frsqrt a.v, a.poison⟩
  else if o = 11 then ⟨fsqrt a.v, a.poison⟩
  else if o = 12 then ⟨fdiv a.v b.v, a.poison || b.poison⟩
  else ⟨tableEval (tables.getD (opTbl p j) ⟨0, 0, 0, 0, false, 0, 0, []⟩) a.v, a.poison⟩

/-- Operation j over the W lanes of a row: its register, its tap, and the RD value a ROW tap finishes. -/
def opRow (p : Prog) (tables : List Tbl) (cs : MuleCols) (r : MuleRow) (w : Nat) (l : LaneState) (j : Nat) : LaneState :=
  let res := (List.range w).map (opResult p tables cs r l j)
  let l := { l with regs := l.regs.set (opDst p j) res }
  if opTapEn p j then
    let k := opTapSlot p j
    let fn := slotFunc p k
    let one := finishOf p k (pw fn (res.map (leafOf fn)))
    { l with taps := l.taps.set k res, rd := if slotCol p k then l.rd else l.rd.set k one }
  else l

/-- A row's program run to its end. -/
def runRow (p : Prog) (tables : List Tbl) (cs : MuleCols) (w : Nat) (r : MuleRow) : LaneState :=
  let z : FpP := ⟨0, false⟩
  (opList p).foldl (opRow p tables cs r w)
    ⟨List.replicate 8 (List.replicate w z), List.replicate 4 z, List.replicate 4 []⟩

/-- The transpose of a list of rows of width w. -/
def columns (w : Nat) (rows : List (List FpP)) : List (List FpP) :=
  (List.range w).map (fun c => rows.map (fun r => r.getD c ⟨0, false⟩))

/-- A slot's per-tile results from the values tapped in each row: one per row, or one per column (R197). -/
def tileReduce (p : Prog) (k w : Nat) (rows : List (List FpP)) : List FpP :=
  let fn := slotFunc p k
  let lines := if slotCol p k then columns w rows else rows
  lines.map (fun l => pw fn (l.map (leafOf fn)))

/-- The finished vector of a closed span from its per-tile results, oldest tile first (R197, R200). -/
def spanVector (p : Prog) (k : Nat) (tiles : List (List FpP)) : List FpP :=
  let n := (tiles.headD []).length
  (columns n tiles).map (fun l => finishOf p k (pw (slotFunc p k) l))

end Sys2Proof.Machine
end

