-- ==== Sys2Proof/Machine/Regs.lean ====
section
/-!
DEFINITION. Machine/Regs.lean: every register of the device as its chapter's tables give it (00_scope.md Table 0.7
for the blocks; Tables 1.2-1.4, 2.9-2.12, 4.9-4.10, 5.12-5.13, 6.8-6.9, 7.14-7.15, 8.12-8.17, 9.11-9.12, 10.7-10.10,
11.6-11.11, 12.16-12.19, 13.4-13.12, 14.12-14.13, 15.10-15.13, 16.9-16.10 for the registers), with the names the rules
use for registers and fields.
-/

namespace Sys2Proof.Machine

/-- Access codes of Table 0.9. -/
inductive Acc where
  | ro | rw | w1c | w1s | rc | rwl | z | p
  deriving DecidableEq, Repr

/-- One field: its lowest bit, its width, its access code and its reset value. -/
structure FieldDef where
  lo : Nat
  w : Nat
  acc : Acc
  reset : Nat
  deriving DecidableEq, Repr

/-- One register, or `count` of them `stride` bytes apart, at an offset of its block. -/
structure RegDef where
  off : Nat
  count : Nat
  stride : Nat
  width : Nat
  fields : List FieldDef
  deriving DecidableEq, Repr

/-- A field of one register of the device: the register's address, the lowest bit and the width. -/
structure Fld where
  addr : Nat
  lo : Nat
  w : Nat
  deriving DecidableEq, Repr

/-- The registers of a TIME block. -/
def timeRegs : List RegDef :=
  [
    ⟨0x0, 1, 0, 64, [⟨0, 64, .ro, 0⟩]⟩,
    ⟨0x8, 1, 0, 32, [⟨0, 1, .ro, 0⟩, ⟨1, 1, .ro, 0⟩, ⟨2, 1, .ro, 0⟩, ⟨3, 1, .ro, 0⟩, ⟨4, 4, .z, 0⟩, ⟨8, 1, .w1c, 0⟩, ⟨9, 1, .w1c, 0⟩, ⟨10, 1, .w1c, 0⟩, ⟨11, 21, .z, 0⟩]⟩,
    ⟨0xc, 1, 0, 32, [⟨0, 1, .rwl, 1⟩, ⟨1, 31, .p, 0⟩]⟩,
    ⟨0x10, 1, 0, 32, [⟨0, 32, .rw, 0x186a0⟩]⟩,
    ⟨0x14, 1, 0, 32, [⟨0, 32, .ro, 0⟩]⟩,
    ⟨0x18, 1, 0, 32, [⟨0, 32, .ro, 0⟩]⟩,
    ⟨0x1c, 1, 0, 32, [⟨0, 32, .ro, 0⟩]⟩,
    ⟨0x20, 1, 0, 32, [⟨0, 32, .rc, 0⟩]⟩,
    ⟨0x24, 1, 0, 32, [⟨0, 32, .rc, 0⟩]⟩]

/-- The registers of a CORE block. -/
def coreRegs : List RegDef :=
  [
    ⟨0x1000, 1, 0, 32, [⟨0, 4, .ro, 0xf⟩, ⟨4, 2, .ro, 0⟩, ⟨6, 26, .z, 0⟩]⟩,
    ⟨0x1004, 1, 0, 32, [⟨0, 16, .ro, 0⟩, ⟨16, 1, .ro, 0⟩, ⟨17, 15, .z, 0⟩]⟩,
    ⟨0x1008, 1, 0, 64, [⟨0, 64, .rc, 0⟩]⟩,
    ⟨0x1010, 1, 0, 32, [⟨0, 32, .rc, 0⟩]⟩,
    ⟨0x1014, 1, 0, 32, [⟨0, 32, .rc, 0⟩]⟩,
    ⟨0x1018, 1, 0, 32, [⟨0, 32, .rc, 0⟩]⟩,
    ⟨0x2000, 1, 0, 32, [⟨0, 2, .ro, 0⟩, ⟨2, 5, .ro, 0⟩, ⟨7, 1, .z, 0⟩, ⟨8, 1, .w1c, 0⟩, ⟨9, 1, .w1c, 0⟩, ⟨10, 1, .w1c, 0⟩, ⟨11, 21, .z, 0⟩]⟩,
    ⟨0x2004, 1, 0, 32, [⟨0, 4, .ro, 0⟩, ⟨4, 5, .ro, 0⟩, ⟨9, 4, .ro, 0⟩, ⟨13, 19, .z, 0⟩]⟩,
    ⟨0x2008, 1, 0, 64, [⟨0, 64, .rc, 0⟩]⟩,
    ⟨0x2010, 1, 0, 32, [⟨0, 32, .rc, 0⟩]⟩,
    ⟨0x2014, 1, 0, 32, [⟨0, 32, .rc, 0⟩]⟩,
    ⟨0x2018, 1, 0, 32, [⟨0, 32, .rc, 0⟩]⟩,
    ⟨0x201c, 1, 0, 32, [⟨0, 32, .rc, 0⟩]⟩,
    ⟨0x2020, 1, 0, 32, [⟨0, 32, .rc, 0⟩]⟩,
    ⟨0x4000, 1024, 8, 64, [⟨0, 64, .rw, 0⟩]⟩,
    ⟨0x8000, 386, 8, 64, [⟨0, 64, .rw, 0⟩]⟩,
    ⟨0x9000, 386, 8, 64, [⟨0, 64, .rw, 0⟩]⟩,
    ⟨0xa000, 386, 8, 64, [⟨0, 64, .rw, 0⟩]⟩,
    ⟨0xb000, 386, 8, 64, [⟨0, 64, .rw, 0⟩]⟩,
    ⟨0x3000, 4, 4, 32, [⟨0, 2, .rw, 0⟩, ⟨2, 2, .z, 0⟩, ⟨4, 3, .ro, 0⟩, ⟨7, 1, .z, 0⟩, ⟨8, 1, .w1s, 0⟩, ⟨9, 1, .w1c, 0⟩, ⟨10, 22, .z, 0⟩]⟩]
  ++ [
    ⟨0x3010, 8, 4, 32, [⟨0, 2, .rw, 0⟩, ⟨2, 2, .z, 0⟩, ⟨4, 3, .ro, 0⟩, ⟨7, 1, .z, 0⟩, ⟨8, 1, .w1s, 0⟩, ⟨9, 1, .w1c, 0⟩, ⟨10, 22, .z, 0⟩]⟩,
    ⟨0x3030, 1, 0, 32, [⟨0, 4, .ro, 0⟩, ⟨4, 4, .ro, 0⟩, ⟨8, 4, .ro, 0⟩, ⟨12, 4, .ro, 0⟩, ⟨16, 16, .z, 0⟩]⟩,
    ⟨0x3034, 1, 0, 32, [⟨0, 32, .rc, 0⟩]⟩,
    ⟨0x3038, 1, 0, 32, [⟨0, 32, .rc, 0⟩]⟩,
    ⟨0x303c, 1, 0, 32, [⟨0, 32, .rc, 0⟩]⟩,
    ⟨0x3040, 1, 0, 32, [⟨0, 32, .rc, 0⟩]⟩,
    ⟨0x3044, 1, 0, 32, [⟨0, 32, .rc, 0⟩]⟩,
    ⟨0x6000, 1, 0, 32, [⟨0, 16, .ro, 0⟩, ⟨16, 1, .ro, 0⟩, ⟨17, 1, .ro, 0⟩, ⟨18, 6, .z, 0⟩, ⟨24, 1, .w1c, 0⟩, ⟨25, 7, .z, 0⟩]⟩,
    ⟨0x6004, 1, 0, 32, [⟨0, 4, .ro, 0⟩, ⟨4, 4, .ro, 0⟩, ⟨8, 24, .z, 0⟩]⟩,
    ⟨0x6008, 1, 0, 32, [⟨0, 32, .ro, 0⟩]⟩,
    ⟨0x6010, 1, 0, 32, [⟨0, 4, .rw, 0⟩, ⟨4, 12, .z, 0⟩, ⟨16, 16, .rw, 0⟩]⟩,
    ⟨0x6018, 1, 0, 64, [⟨0, 32, .rc, 0⟩, ⟨32, 4, .rc, 0⟩, ⟨36, 1, .rc, 0⟩, ⟨37, 27, .z, 0⟩]⟩,
    ⟨0x6020, 1, 0, 64, [⟨0, 32, .rc, 0⟩, ⟨32, 4, .rc, 0⟩, ⟨36, 1, .rc, 0⟩, ⟨37, 27, .z, 0⟩]⟩,
    ⟨0x6028, 1, 0, 32, [⟨0, 4, .rw, 0⟩, ⟨4, 28, .z, 0⟩]⟩,
    ⟨0x602c, 1, 0, 32, [⟨0, 4, .rw, 0⟩, ⟨4, 28, .z, 0⟩]⟩,
    ⟨0x6030, 1, 0, 32, [⟨0, 32, .rc, 0⟩]⟩,
    ⟨0x6040, 16, 4, 32, [⟨0, 32, .ro, 0⟩]⟩,
    ⟨0x6080, 16, 4, 32, [⟨0, 32, .ro, 0⟩]⟩,
    ⟨0x60c0, 16, 4, 32, [⟨0, 32, .rc, 0⟩]⟩,
    ⟨0x7000, 1, 0, 64, [⟨0, 64, .ro, 0⟩]⟩]
  ++ [
    ⟨0x7008, 1, 0, 64, [⟨0, 64, .ro, 0⟩]⟩,
    ⟨0x7010, 1, 0, 32, [⟨0, 4, .ro, 0⟩, ⟨4, 3, .ro, 0⟩, ⟨7, 1, .ro, 0⟩, ⟨8, 24, .ro, 0⟩]⟩,
    ⟨0x7100, 1, 0, 32, [⟨0, 8, .rw, 0⟩, ⟨8, 24, .p, 0⟩]⟩,
    ⟨0x7104, 1, 0, 32, [⟨0, 8, .ro, 0⟩, ⟨8, 8, .ro, 0⟩, ⟨16, 16, .z, 0⟩]⟩,
    ⟨0x7108, 1, 0, 32, [⟨0, 32, .rc, 0⟩]⟩,
    ⟨0x6100, 1, 0, 64, [⟨0, 40, .ro, 0⟩, ⟨40, 24, .z, 0⟩]⟩,
    ⟨0x6108, 1, 0, 32, [⟨0, 32, .ro, 0⟩]⟩,
    ⟨0x7018, 1, 0, 32, [⟨0, 32, .ro, 0⟩]⟩,
    ⟨0x701c, 1, 0, 32, [⟨0, 4, .ro, 0⟩, ⟨4, 28, .z, 0⟩]⟩,
    ⟨0x7020, 1, 0, 32, [⟨0, 32, .ro, 0⟩]⟩]

/-- The registers of a OX block. -/
def oxRegs : List RegDef :=
  [
    ⟨0x0, 1, 0, 64, [⟨0, 64, .rw, 0⟩]⟩,
    ⟨0x8, 1, 0, 64, [⟨0, 64, .rw, 0⟩]⟩,
    ⟨0x10, 1, 0, 64, [⟨0, 64, .rw, 0⟩]⟩,
    ⟨0x18, 1, 0, 64, [⟨0, 64, .rw, 0⟩]⟩,
    ⟨0x20, 1, 0, 32, [⟨0, 2, .ro, 0⟩, ⟨2, 1, .ro, 0⟩, ⟨3, 3, .ro, 0⟩, ⟨6, 1, .ro, 0⟩, ⟨7, 1, .z, 0⟩, ⟨8, 1, .w1c, 0⟩, ⟨9, 1, .w1c, 0⟩, ⟨10, 22, .z, 0⟩]⟩,
    ⟨0x24, 1, 0, 32, [⟨0, 1, .rw, 0⟩, ⟨1, 31, .p, 0⟩]⟩,
    ⟨0x28, 1, 0, 32, [⟨0, 8, .rwl, 0x80⟩, ⟨8, 8, .rwl, 0x81⟩, ⟨16, 8, .rwl, 0x80⟩, ⟨24, 8, .rwl, 0x81⟩]⟩,
    ⟨0x2c, 1, 0, 32, [⟨0, 4, .ro, 0⟩, ⟨4, 12, .z, 0⟩, ⟨16, 16, .ro, 0⟩]⟩,
    ⟨0x30, 1, 0, 32, [⟨0, 32, .rc, 0⟩]⟩,
    ⟨0x34, 1, 0, 32, [⟨0, 32, .rc, 0⟩]⟩,
    ⟨0x38, 1, 0, 32, [⟨0, 32, .rc, 0⟩]⟩,
    ⟨0x3c, 1, 0, 32, [⟨0, 32, .rc, 0⟩]⟩,
    ⟨0x40, 1, 0, 32, [⟨0, 32, .rc, 0⟩]⟩,
    ⟨0x44, 1, 0, 32, [⟨0, 16, .ro, 0⟩, ⟨16, 16, .rc, 0⟩]⟩,
    ⟨0x48, 1, 0, 32, [⟨0, 2, .ro, 0⟩, ⟨2, 6, .z, 0⟩, ⟨8, 1, .w1s, 0⟩, ⟨9, 7, .z, 0⟩, ⟨16, 8, .ro, 0⟩, ⟨24, 8, .ro, 0⟩]⟩,
    ⟨0x4c, 1, 0, 32, [⟨0, 8, .ro, 0⟩, ⟨8, 8, .ro, 0⟩, ⟨16, 1, .ro, 0⟩, ⟨17, 4, .ro, 0⟩, ⟨21, 1, .ro, 0⟩, ⟨22, 10, .z, 0⟩]⟩,
    ⟨0x50, 1, 0, 32, [⟨0, 32, .rc, 0⟩]⟩,
    ⟨0x54, 1, 0, 32, [⟨0, 32, .rc, 0⟩]⟩,
    ⟨0x58, 1, 0, 32, [⟨0, 32, .ro, 0⟩]⟩,
    ⟨0x5c, 1, 0, 32, [⟨0, 32, .ro, 0⟩]⟩]

/-- The registers of a CTX block. -/
def ctxRegs : List RegDef :=
  [
    ⟨0x800, 1, 0, 64, [⟨0, 64, .rw, 0⟩]⟩,
    ⟨0x808, 1, 0, 64, [⟨0, 64, .rw, 0⟩]⟩,
    ⟨0x810, 1, 0, 64, [⟨0, 9, .z, 0⟩, ⟨9, 43, .rw, 0⟩, ⟨52, 12, .z, 0⟩]⟩,
    ⟨0x818, 1, 0, 32, [⟨0, 1, .rw, 0⟩, ⟨1, 3, .z, 0⟩, ⟨4, 5, .rw, 0xa⟩, ⟨9, 23, .z, 0⟩]⟩,
    ⟨0x81c, 1, 0, 32, [⟨0, 1, .w1c, 0⟩, ⟨1, 1, .w1c, 0⟩, ⟨2, 1, .w1c, 0⟩, ⟨3, 1, .w1c, 0⟩, ⟨4, 1, .w1c, 0⟩, ⟨5, 27, .z, 0⟩]⟩,
    ⟨0x820, 1, 0, 32, [⟨0, 32, .rc, 0⟩]⟩,
    ⟨0x824, 1, 0, 32, [⟨0, 32, .rc, 0⟩]⟩,
    ⟨0x828, 1, 0, 32, [⟨0, 32, .rc, 0⟩]⟩,
    ⟨0x0, 1, 0, 32, [⟨0, 3, .rw, 0⟩, ⟨3, 1, .rw, 0⟩, ⟨4, 28, .z, 0⟩]⟩,
    ⟨0x8, 1, 0, 64, [⟨0, 64, .rw, 0⟩]⟩,
    ⟨0x10, 1, 0, 32, [⟨0, 3, .ro, 0⟩, ⟨3, 5, .z, 0⟩, ⟨8, 1, .w1c, 0⟩, ⟨9, 1, .w1c, 0⟩, ⟨10, 1, .ro, 0⟩, ⟨11, 21, .z, 0⟩]⟩,
    ⟨0x18, 1, 0, 64, [⟨0, 64, .rw, 0⟩]⟩,
    ⟨0x28, 3, 8, 64, [⟨0, 64, .rw, 0⟩]⟩,
    ⟨0x40, 1, 0, 64, [⟨0, 16, .z, 0⟩, ⟨16, 32, .rw, 0⟩, ⟨48, 16, .z, 0⟩]⟩,
    ⟨0x48, 1, 0, 64, [⟨0, 21, .z, 0⟩, ⟨21, 31, .rw, 0⟩, ⟨52, 12, .z, 0⟩]⟩,
    ⟨0x50, 1, 0, 32, [⟨0, 4, .ro, 0⟩, ⟨4, 28, .z, 0⟩]⟩,
    ⟨0x54, 1, 0, 32, [⟨0, 2, .rw, 2⟩, ⟨2, 30, .p, 0⟩]⟩,
    ⟨0x58, 1, 0, 32, [⟨0, 4, .ro, 0⟩, ⟨4, 3, .ro, 0⟩, ⟨7, 25, .z, 0⟩]⟩,
    ⟨0x80, 8, 8, 64, [⟨0, 1, .rw, 0⟩, ⟨1, 5, .rw, 4⟩, ⟨6, 4, .z, 0⟩, ⟨10, 42, .rw, 0⟩, ⟨52, 12, .z, 0⟩]⟩,
    ⟨0xc0, 4, 16, 32, [⟨0, 32, .rc, 0⟩]⟩]
  ++ [
    ⟨0xc4, 4, 16, 32, [⟨0, 32, .rc, 0⟩]⟩,
    ⟨0xc8, 4, 16, 32, [⟨0, 32, .rc, 0⟩]⟩,
    ⟨0x100, 1, 0, 32, [⟨0, 32, .rc, 0⟩]⟩,
    ⟨0x104, 1, 0, 32, [⟨0, 32, .rc, 0⟩]⟩,
    ⟨0x900, 1, 0, 32, [⟨0, 32, .rc, 0⟩]⟩,
    ⟨0x904, 1, 0, 32, [⟨0, 32, .rc, 0⟩]⟩,
    ⟨0x908, 1, 0, 32, [⟨0, 32, .rc, 0⟩]⟩,
    ⟨0x90c, 1, 0, 32, [⟨0, 32, .rc, 0⟩]⟩,
    ⟨0xa00, 1, 0, 32, [⟨0, 16, .rw, 0⟩, ⟨16, 16, .z, 0⟩]⟩,
    ⟨0xa04, 1, 0, 32, [⟨0, 32, .rw, 0xc350⟩]⟩,
    ⟨0xa08, 1, 0, 32, [⟨0, 32, .rc, 0⟩]⟩,
    ⟨0xa0c, 1, 0, 32, [⟨0, 32, .rc, 0⟩]⟩,
    ⟨0xa10, 1, 0, 32, [⟨0, 32, .rc, 0⟩]⟩,
    ⟨0xa14, 1, 0, 32, [⟨0, 32, .rc, 0⟩]⟩,
    ⟨0xb00, 1, 0, 32, [⟨0, 16, .rw, 0⟩, ⟨16, 16, .z, 0⟩]⟩,
    ⟨0xb04, 1, 0, 32, [⟨0, 32, .rc, 0⟩]⟩,
    ⟨0xc00, 16, 32, 64, [⟨0, 1, .rw, 0⟩, ⟨1, 1, .rw, 0⟩, ⟨2, 2, .rw, 0⟩, ⟨4, 17, .z, 0⟩, ⟨21, 31, .rw, 0⟩, ⟨52, 12, .z, 0⟩]⟩,
    ⟨0xc08, 16, 32, 64, [⟨0, 32, .rw, 0⟩, ⟨32, 16, .rw, 0⟩, ⟨48, 16, .rw, 0⟩]⟩,
    ⟨0xc10, 16, 32, 64, [⟨0, 48, .rw, 0⟩, ⟨48, 16, .z, 0⟩]⟩,
    ⟨0xc18, 16, 32, 64, [⟨0, 4, .z, 0⟩, ⟨4, 48, .rw, 0⟩, ⟨52, 12, .z, 0⟩]⟩]
  ++ [
    ⟨0xe00, 1, 0, 32, [⟨0, 13, .rw, 0⟩, ⟨13, 1, .rw, 0⟩, ⟨14, 18, .z, 0⟩]⟩,
    ⟨0xe08, 1, 0, 32, [⟨0, 2, .rw, 0⟩, ⟨2, 1, .w1s, 0⟩, ⟨3, 29, .z, 0⟩]⟩,
    ⟨0xe10, 1, 0, 64, [⟨0, 64, .rw, 0⟩]⟩,
    ⟨0xe18, 1, 0, 32, [⟨0, 2, .ro, 0⟩, ⟨2, 1, .ro, 0⟩, ⟨3, 1, .ro, 0⟩, ⟨4, 4, .z, 0⟩, ⟨8, 1, .w1c, 0⟩, ⟨9, 1, .w1c, 0⟩, ⟨10, 22, .z, 0⟩]⟩,
    ⟨0xe20, 4, 16, 32, [⟨0, 3, .ro, 0⟩, ⟨3, 1, .z, 0⟩, ⟨4, 1, .w1s, 0⟩, ⟨5, 1, .w1s, 0⟩, ⟨6, 1, .w1s, 0⟩, ⟨7, 25, .z, 0⟩]⟩,
    ⟨0xe24, 4, 16, 32, [⟨0, 32, .ro, 0⟩]⟩,
    ⟨0xe28, 4, 16, 64, [⟨0, 12, .z, 0⟩, ⟨12, 36, .rw, 0⟩, ⟨48, 16, .z, 0⟩]⟩,
    ⟨0xe60, 1, 0, 32, [⟨0, 3, .rw, 0⟩, ⟨3, 1, .z, 0⟩, ⟨4, 3, .rw, 0⟩, ⟨7, 1, .z, 0⟩, ⟨8, 3, .rw, 0⟩, ⟨11, 1, .z, 0⟩, ⟨12, 3, .rw, 0⟩, ⟨15, 1, .z, 0⟩, ⟨16, 3, .rw, 0⟩, ⟨19, 1, .z, 0⟩, ⟨20, 3, .rw, 0⟩, ⟨23, 1, .z, 0⟩, ⟨24, 3, .rw, 0⟩, ⟨27, 1, .z, 0⟩, ⟨28, 3, .rw, 0⟩, ⟨31, 1, .z, 0⟩]⟩,
    ⟨0xf00, 1, 0, 32, [⟨0, 8, .ro, 0⟩, ⟨8, 8, .ro, 0⟩, ⟨16, 1, .ro, 0⟩, ⟨17, 15, .z, 0⟩]⟩,
    ⟨0xf08, 1, 0, 64, [⟨0, 64, .ro, 0⟩]⟩,
    ⟨0xf10, 1, 0, 32, [⟨0, 1, .w1s, 0⟩, ⟨1, 13, .z, 0⟩, ⟨14, 18, .rw, 0⟩]⟩,
    ⟨0xf14, 1, 0, 32, [⟨0, 32, .rc, 0⟩]⟩,
    ⟨0x20, 1, 0, 64, [⟨0, 64, .ro, 0⟩]⟩]

/-- The registers of a DISP block. -/
def dispRegs : List RegDef :=
  [
    ⟨0x0, 1, 0, 32, [⟨0, 1, .rw, 1⟩, ⟨1, 31, .p, 0⟩]⟩,
    ⟨0x4, 1, 0, 32, [⟨0, 32, .rw, 0x2710⟩]⟩,
    ⟨0x8, 1, 0, 32, [⟨0, 32, .rw, 0x10000⟩]⟩,
    ⟨0x10, 1, 0, 64, [⟨0, 64, .ro, 0⟩]⟩,
    ⟨0x18, 1, 0, 32, [⟨0, 32, .ro, 0⟩]⟩,
    ⟨0x1c, 1, 0, 32, [⟨0, 32, .rc, 0⟩]⟩,
    ⟨0x20, 1, 0, 64, [⟨0, 64, .ro, 0⟩]⟩,
    ⟨0x28, 1, 0, 64, [⟨0, 64, .ro, 0xffffffffffffffff⟩]⟩,
    ⟨0x30, 1, 0, 64, [⟨0, 64, .ro, 0xffffffffffffffff⟩]⟩,
    ⟨0x38, 1, 0, 64, [⟨0, 64, .ro, 0⟩]⟩,
    ⟨0x40, 1, 0, 32, [⟨0, 32, .rw, 0xc8⟩]⟩,
    ⟨0x44, 1, 0, 32, [⟨0, 32, .rc, 0⟩]⟩,
    ⟨0x100, 16, 4, 32, [⟨0, 32, .rwl, 0⟩]⟩,
    ⟨0x140, 1, 0, 32, [⟨0, 32, .ro, 0⟩]⟩,
    ⟨0x144, 1, 0, 32, [⟨0, 8, .rw, 5⟩, ⟨8, 8, .rw, 0x20⟩, ⟨16, 16, .p, 0⟩]⟩,
    ⟨0x148, 1, 0, 32, [⟨0, 5, .rw, 0xa⟩, ⟨5, 27, .p, 0⟩]⟩,
    ⟨0x150, 1, 0, 64, [⟨0, 6, .z, 0⟩, ⟨6, 42, .rw, 0⟩, ⟨48, 16, .z, 0⟩]⟩,
    ⟨0x158, 1, 0, 64, [⟨0, 64, .ro, 0⟩]⟩,
    ⟨0x160, 1, 0, 32, [⟨0, 32, .rc, 0⟩]⟩,
    ⟨0x1000, 64, 8, 64, [⟨0, 64, .ro, 0⟩]⟩]

/-- The registers of a HBM block. -/
def hbmRegs : List RegDef :=
  [
    ⟨0x0, 1, 0, 32, [⟨0, 1, .rw, 0⟩, ⟨1, 31, .p, 0⟩]⟩,
    ⟨0x4, 1, 0, 32, [⟨0, 3, .ro, 1⟩, ⟨3, 5, .z, 0⟩, ⟨8, 1, .w1c, 0⟩, ⟨9, 1, .w1c, 0⟩, ⟨10, 1, .w1c, 0⟩, ⟨11, 21, .z, 0⟩]⟩,
    ⟨0x8, 1, 0, 32, [⟨0, 7, .rw, 0x40⟩, ⟨7, 1, .z, 0⟩, ⟨8, 4, .rw, 4⟩, ⟨12, 4, .rw, 2⟩, ⟨16, 4, .rw, 1⟩, ⟨20, 12, .z, 0⟩]⟩,
    ⟨0xc, 1, 0, 32, [⟨0, 32, .rw, 0x2000⟩]⟩,
    ⟨0x10, 1, 0, 32, [⟨0, 13, .rw, 0x200⟩, ⟨13, 13, .rw, 0x100⟩, ⟨26, 6, .z, 0⟩]⟩,
    ⟨0x14, 1, 0, 32, [⟨0, 8, .rw, 0x40⟩, ⟨8, 24, .z, 0⟩]⟩,
    ⟨0x18, 1, 0, 32, [⟨0, 8, .ro, 0⟩, ⟨8, 8, .rc, 0⟩, ⟨16, 16, .z, 0⟩]⟩,
    ⟨0x1c, 1, 0, 32, [⟨0, 13, .ro, 0⟩, ⟨13, 3, .z, 0⟩, ⟨16, 13, .rc, 0⟩, ⟨29, 3, .z, 0⟩]⟩,
    ⟨0x20, 1, 0, 64, [⟨0, 64, .rc, 0⟩]⟩,
    ⟨0x28, 1, 0, 64, [⟨0, 64, .rc, 0⟩]⟩,
    ⟨0x30, 1, 0, 32, [⟨0, 32, .rc, 0⟩]⟩,
    ⟨0x34, 1, 0, 32, [⟨0, 32, .rc, 0⟩]⟩,
    ⟨0x38, 1, 0, 32, [⟨0, 32, .rc, 0⟩]⟩,
    ⟨0x3c, 1, 0, 32, [⟨0, 32, .rc, 0⟩]⟩,
    ⟨0x40, 1, 0, 32, [⟨0, 32, .rc, 0⟩]⟩,
    ⟨0x44, 1, 0, 32, [⟨0, 32, .rc, 0⟩]⟩,
    ⟨0x100, 1, 0, 32, [⟨0, 4, .rw, 0⟩, ⟨4, 5, .rw, 0⟩, ⟨9, 1, .rw, 0⟩, ⟨10, 22, .z, 0⟩]⟩,
    ⟨0x104, 1, 0, 32, [⟨0, 2, .ro, 0⟩, ⟨2, 30, .z, 0⟩]⟩,
    ⟨0x108, 1, 0, 32, [⟨0, 8, .rw, 0⟩, ⟨8, 16, .rw, 0⟩, ⟨24, 5, .rw, 0⟩, ⟨29, 3, .z, 0⟩]⟩,
    ⟨0x110, 1, 0, 64, [⟨0, 64, .rw, 0⟩]⟩]
  ++ [
    ⟨0x200, 32, 4, 32, [⟨0, 4, .ro, 0⟩, ⟨4, 4, .ro, 0⟩, ⟨8, 1, .ro, 0⟩, ⟨9, 23, .z, 0⟩]⟩,
    ⟨0x300, 1, 0, 32, [⟨0, 32, .rc, 0⟩]⟩,
    ⟨0x304, 1, 0, 32, [⟨0, 32, .rc, 0⟩]⟩,
    ⟨0x308, 1, 0, 32, [⟨0, 32, .rc, 0⟩]⟩,
    ⟨0x30c, 1, 0, 32, [⟨0, 32, .rc, 0⟩]⟩,
    ⟨0x310, 1, 0, 32, [⟨0, 32, .rc, 0⟩]⟩,
    ⟨0x314, 1, 0, 32, [⟨0, 1, .rw, 1⟩, ⟨1, 31, .p, 0⟩]⟩,
    ⟨0x318, 1, 0, 32, [⟨0, 32, .rw, 0x28df⟩]⟩,
    ⟨0x31c, 1, 0, 32, [⟨0, 23, .ro, 0⟩, ⟨23, 9, .z, 0⟩]⟩,
    ⟨0x320, 1, 0, 32, [⟨0, 32, .rc, 0⟩]⟩,
    ⟨0x324, 1, 0, 32, [⟨0, 32, .rc, 0⟩]⟩,
    ⟨0x328, 1, 0, 32, [⟨0, 32, .rc, 0⟩]⟩,
    ⟨0x32c, 1, 0, 32, [⟨0, 1, .w1c, 0⟩, ⟨1, 1, .w1c, 0⟩, ⟨2, 30, .z, 0⟩]⟩,
    ⟨0x330, 1, 0, 32, [⟨0, 16, .rw, 0⟩, ⟨16, 9, .rw, 0⟩, ⟨25, 7, .z, 0⟩]⟩,
    ⟨0x334, 1, 0, 32, [⟨0, 2, .ro, 0⟩, ⟨2, 6, .z, 0⟩, ⟨8, 9, .ro, 0x100⟩, ⟨17, 15, .z, 0⟩]⟩,
    ⟨0x400, 32, 16, 64, [⟨0, 1, .w1c, 0⟩, ⟨1, 2, .ro, 0⟩, ⟨3, 5, .z, 0⟩, ⟨8, 29, .ro, 0⟩, ⟨37, 11, .z, 0⟩, ⟨48, 16, .ro, 0⟩]⟩,
    ⟨0x408, 32, 16, 64, [⟨0, 32, .ro, 0⟩, ⟨32, 32, .ro, 0⟩]⟩,
    ⟨0x600, 16, 16, 64, [⟨0, 1, .w1c, 0⟩, ⟨1, 2, .ro, 0⟩, ⟨3, 5, .z, 0⟩, ⟨8, 29, .ro, 0⟩, ⟨37, 11, .z, 0⟩, ⟨48, 16, .ro, 0⟩]⟩,
    ⟨0x608, 16, 16, 64, [⟨0, 32, .ro, 0⟩, ⟨32, 32, .ro, 0⟩]⟩,
    ⟨0x800, 512, 4, 32, [⟨0, 16, .rwl, 0⟩, ⟨16, 9, .rwl, 0⟩, ⟨25, 6, .z, 0⟩, ⟨31, 1, .rwl, 0⟩]⟩]

/-- The registers of a WAGON block. -/
def wagonRegs : List RegDef :=
  [
    ⟨0x0, 1, 0, 32, [⟨0, 1, .rw, 0⟩, ⟨1, 2, .rw, 2⟩, ⟨3, 29, .p, 0⟩]⟩,
    ⟨0x4, 1, 0, 32, [⟨0, 2, .ro, 0⟩, ⟨2, 3, .ro, 0⟩, ⟨5, 3, .z, 0⟩, ⟨8, 1, .w1c, 0⟩, ⟨9, 1, .w1c, 0⟩, ⟨10, 1, .w1c, 0⟩, ⟨11, 21, .z, 0⟩]⟩,
    ⟨0x8, 1, 0, 32, [⟨0, 8, .rw, 0⟩, ⟨8, 16, .rw, 0⟩, ⟨24, 8, .z, 0⟩]⟩,
    ⟨0x10, 1, 0, 64, [⟨0, 21, .z, 0⟩, ⟨21, 27, .rw, 0⟩, ⟨48, 16, .z, 0⟩]⟩,
    ⟨0x18, 1, 0, 32, [⟨0, 16, .rw, 0⟩, ⟨16, 16, .rw, 0⟩]⟩,
    ⟨0x1c, 1, 0, 32, [⟨0, 32, .rw, 0x3e8⟩]⟩,
    ⟨0x20, 1, 0, 32, [⟨0, 16, .rw, 0x200⟩, ⟨16, 16, .rw, 0x10⟩]⟩,
    ⟨0x24, 1, 0, 32, [⟨0, 32, .rw, 0x32⟩]⟩,
    ⟨0x28, 1, 0, 32, [⟨0, 32, .rw, 0x4e20⟩]⟩,
    ⟨0x30, 1, 0, 64, [⟨0, 3, .rw, 0⟩, ⟨3, 18, .z, 0⟩, ⟨21, 31, .rw, 0⟩, ⟨52, 12, .rw, 0⟩]⟩,
    ⟨0x38, 1, 0, 32, [⟨0, 32, .ro, 0⟩]⟩,
    ⟨0x3c, 1, 0, 32, [⟨0, 32, .rc, 0⟩]⟩,
    ⟨0x40, 1, 0, 64, [⟨0, 64, .rc, 0⟩]⟩,
    ⟨0x48, 1, 0, 32, [⟨0, 32, .rc, 0⟩]⟩,
    ⟨0x4c, 1, 0, 32, [⟨0, 32, .rc, 0⟩]⟩,
    ⟨0x50, 1, 0, 32, [⟨0, 32, .rc, 0⟩]⟩,
    ⟨0x54, 1, 0, 32, [⟨0, 32, .rc, 0⟩]⟩,
    ⟨0x58, 1, 0, 32, [⟨0, 12, .ro, 0⟩, ⟨12, 20, .z, 0⟩]⟩,
    ⟨0x5c, 1, 0, 32, [⟨0, 32, .rc, 0⟩]⟩,
    ⟨0x60, 1, 0, 64, [⟨0, 1, .rc, 0⟩, ⟨1, 20, .z, 0⟩, ⟨21, 27, .rc, 0⟩, ⟨48, 16, .z, 0⟩]⟩]
  ++ [
    ⟨0x68, 1, 0, 64, [⟨0, 21, .z, 0⟩, ⟨21, 27, .rw, 0⟩, ⟨48, 16, .z, 0⟩]⟩,
    ⟨0x70, 1, 0, 32, [⟨0, 32, .rw, 0xf4240⟩]⟩,
    ⟨0x74, 1, 0, 32, [⟨0, 32, .rc, 0⟩]⟩,
    ⟨0x78, 1, 0, 32, [⟨0, 32, .rc, 0⟩]⟩,
    ⟨0x7c, 1, 0, 32, [⟨0, 32, .rc, 0⟩]⟩]

/-- The registers of a PORT block. -/
def portRegs : List RegDef :=
  [
    ⟨0x0, 1, 0, 32, [⟨0, 1, .rwl, 1⟩, ⟨1, 1, .w1s, 0⟩, ⟨2, 30, .p, 0⟩]⟩,
    ⟨0x4, 1, 0, 32, [⟨0, 3, .ro, 0⟩, ⟨3, 5, .z, 0⟩, ⟨8, 5, .ro, 0⟩, ⟨13, 5, .ro, 0⟩, ⟨18, 2, .ro, 0⟩, ⟨20, 2, .ro, 0⟩, ⟨22, 2, .z, 0⟩, ⟨24, 1, .w1c, 0⟩, ⟨25, 1, .w1c, 0⟩, ⟨26, 1, .w1c, 0⟩, ⟨27, 5, .z, 0⟩]⟩,
    ⟨0x8, 1, 0, 32, [⟨0, 16, .ro, 0⟩, ⟨16, 16, .z, 0⟩]⟩,
    ⟨0x10, 1, 0, 64, [⟨0, 64, .ro, 0xffffffffffffffff⟩]⟩,
    ⟨0x18, 1, 0, 64, [⟨0, 64, .ro, 0xffffffffffffffff⟩]⟩,
    ⟨0x20, 1, 0, 64, [⟨0, 64, .ro, 0xffffffffffffffff⟩]⟩,
    ⟨0x28, 1, 0, 64, [⟨0, 64, .ro, 0xffffffffffffffff⟩]⟩,
    ⟨0x30, 1, 0, 64, [⟨0, 36, .ro, 0xfffffffff⟩, ⟨36, 28, .z, 0⟩]⟩,
    ⟨0x38, 1, 0, 64, [⟨0, 36, .ro, 0xfffffffff⟩, ⟨36, 28, .z, 0⟩]⟩,
    ⟨0x40, 1, 0, 32, [⟨0, 32, .rw, 0x3e8⟩]⟩,
    ⟨0x44, 1, 0, 32, [⟨0, 32, .rw, 0x1000⟩]⟩,
    ⟨0x48, 1, 0, 32, [⟨0, 8, .rw, 0x10⟩, ⟨8, 24, .p, 0⟩]⟩,
    ⟨0x4c, 1, 0, 32, [⟨0, 32, .rw, 0x64⟩]⟩,
    ⟨0x50, 1, 0, 64, [⟨0, 64, .rc, 0⟩]⟩,
    ⟨0x58, 1, 0, 64, [⟨0, 64, .rc, 0⟩]⟩,
    ⟨0x60, 1, 0, 64, [⟨0, 64, .rc, 0⟩]⟩,
    ⟨0x68, 1, 0, 32, [⟨0, 32, .rc, 0⟩]⟩,
    ⟨0x6c, 1, 0, 32, [⟨0, 32, .rc, 0⟩]⟩,
    ⟨0x70, 1, 0, 32, [⟨0, 32, .rc, 0⟩]⟩,
    ⟨0x74, 1, 0, 32, [⟨0, 32, .rc, 0⟩]⟩]
  ++ [
    ⟨0x78, 1, 0, 32, [⟨0, 32, .rc, 0⟩]⟩,
    ⟨0x7c, 1, 0, 32, [⟨0, 32, .rc, 0⟩]⟩,
    ⟨0x80, 1, 0, 32, [⟨0, 32, .rc, 0⟩]⟩,
    ⟨0x100, 18, 4, 32, [⟨0, 32, .ro, 0⟩]⟩]

/-- The registers of a CHAIN block. -/
def chainRegs : List RegDef :=
  [
    ⟨0x0, 1, 0, 32, [⟨0, 1, .ro, 0⟩, ⟨1, 1, .ro, 0⟩, ⟨2, 1, .ro, 0⟩, ⟨3, 5, .z, 0⟩, ⟨8, 1, .w1c, 0⟩, ⟨9, 1, .w1c, 0⟩, ⟨10, 1, .w1c, 0⟩, ⟨11, 21, .z, 0⟩]⟩,
    ⟨0x4, 1, 0, 32, [⟨0, 6, .ro, 0⟩, ⟨6, 26, .z, 0⟩]⟩,
    ⟨0x8, 1, 0, 32, [⟨0, 4, .ro, 0⟩, ⟨4, 2, .ro, 0⟩, ⟨6, 1, .w1c, 0⟩, ⟨7, 1, .ro, 0⟩, ⟨8, 24, .z, 0⟩]⟩,
    ⟨0x10, 1, 0, 64, [⟨0, 21, .z, 0⟩, ⟨21, 27, .rw, 0⟩, ⟨48, 16, .z, 0⟩]⟩,
    ⟨0x18, 1, 0, 32, [⟨0, 4, .ro, 0⟩, ⟨4, 3, .ro, 0⟩, ⟨7, 1, .ro, 0⟩, ⟨8, 24, .z, 0⟩]⟩,
    ⟨0x1c, 1, 0, 32, [⟨0, 1, .ro, 0⟩, ⟨1, 1, .ro, 0⟩, ⟨2, 14, .z, 0⟩, ⟨16, 16, .ro, 0⟩]⟩,
    ⟨0x20, 1, 0, 64, [⟨0, 64, .ro, 0⟩]⟩,
    ⟨0x28, 1, 0, 64, [⟨0, 64, .ro, 0⟩]⟩,
    ⟨0x30, 1, 0, 64, [⟨0, 64, .ro, 0⟩]⟩,
    ⟨0x38, 1, 0, 32, [⟨0, 32, .rc, 0⟩]⟩,
    ⟨0x3c, 1, 0, 32, [⟨0, 32, .rc, 0⟩]⟩,
    ⟨0x40, 1, 0, 32, [⟨0, 32, .rc, 0⟩]⟩,
    ⟨0x44, 1, 0, 32, [⟨0, 32, .rc, 0⟩]⟩,
    ⟨0x48, 1, 0, 32, [⟨0, 32, .rc, 0⟩]⟩]

/-- The registers of a RESET block. -/
def resetRegsT : List RegDef :=
  [
    ⟨0x0, 1, 0, 32, [⟨0, 4, .rw, 0⟩, ⟨4, 9, .rw, 0⟩, ⟨13, 19, .z, 0⟩]⟩,
    ⟨0x4, 1, 0, 32, [⟨0, 1, .ro, 0⟩, ⟨1, 7, .z, 0⟩, ⟨8, 1, .w1c, 0⟩, ⟨9, 1, .w1c, 0⟩, ⟨10, 1, .w1c, 0⟩, ⟨11, 21, .z, 0⟩]⟩,
    ⟨0x8, 1, 0, 32, [⟨0, 32, .rw, 0x100⟩]⟩,
    ⟨0xc, 1, 0, 32, [⟨0, 32, .rw, 0x7a1200⟩]⟩,
    ⟨0x10, 1, 0, 64, [⟨0, 6, .z, 0⟩, ⟨6, 42, .rw, 0⟩, ⟨48, 16, .z, 0⟩]⟩,
    ⟨0x18, 1, 0, 32, [⟨0, 1, .rw, 0⟩, ⟨1, 5, .rw, 0xc⟩, ⟨6, 26, .p, 0⟩]⟩,
    ⟨0x20, 1, 0, 64, [⟨0, 64, .ro, 0⟩]⟩,
    ⟨0x28, 1, 0, 32, [⟨0, 32, .rc, 0⟩]⟩,
    ⟨0x2c, 1, 0, 32, [⟨0, 32, .rc, 0⟩]⟩,
    ⟨0x30, 1, 0, 32, [⟨0, 32, .rc, 0⟩]⟩,
    ⟨0x34, 1, 0, 32, [⟨0, 32, .rc, 0⟩]⟩,
    ⟨0x38, 1, 0, 32, [⟨0, 32, .rc, 0⟩]⟩,
    ⟨0x1000, 256, 4, 32, [⟨0, 16, .ro, 0⟩, ⟨16, 1, .ro, 0⟩, ⟨17, 15, .z, 0⟩]⟩,
    ⟨0x1400, 64, 4, 32, [⟨0, 16, .ro, 0⟩, ⟨16, 1, .ro, 0⟩, ⟨17, 15, .z, 0⟩]⟩,
    ⟨0x1500, 16, 4, 32, [⟨0, 16, .ro, 0⟩, ⟨16, 1, .ro, 0⟩, ⟨17, 15, .z, 0⟩]⟩,
    ⟨0x1540, 4, 4, 32, [⟨0, 16, .ro, 0⟩, ⟨16, 1, .ro, 0⟩, ⟨17, 15, .z, 0⟩]⟩,
    ⟨0x1550, 12, 4, 32, [⟨0, 16, .ro, 0⟩, ⟨16, 1, .ro, 0⟩, ⟨17, 15, .z, 0⟩]⟩,
    ⟨0x1580, 2, 4, 32, [⟨0, 16, .ro, 0⟩, ⟨16, 1, .ro, 0⟩, ⟨17, 15, .z, 0⟩]⟩,
    ⟨0x1588, 1, 0, 32, [⟨0, 16, .ro, 0⟩, ⟨16, 1, .ro, 0⟩, ⟨17, 15, .z, 0⟩]⟩]

/-- The registers of a PWR block. -/
def pwrRegs : List RegDef :=
  [
    ⟨0x0, 1, 0, 32, [⟨0, 1, .ro, 0⟩, ⟨1, 7, .z, 0⟩, ⟨8, 1, .w1c, 0⟩, ⟨9, 1, .w1c, 0⟩, ⟨10, 1, .w1c, 0⟩, ⟨11, 1, .w1c, 0⟩, ⟨12, 1, .w1c, 0⟩, ⟨13, 19, .z, 0⟩]⟩,
    ⟨0x4, 1, 0, 32, [⟨0, 16, .rw, 0⟩, ⟨16, 16, .z, 0⟩]⟩,
    ⟨0x8, 1, 0, 32, [⟨0, 32, .rw, 0x3e8⟩]⟩,
    ⟨0xc, 1, 0, 32, [⟨0, 2, .ro, 0⟩, ⟨2, 30, .z, 0⟩]⟩,
    ⟨0x10, 1, 0, 32, [⟨0, 16, .ro, 0⟩, ⟨16, 16, .z, 0⟩]⟩,
    ⟨0x14, 1, 0, 32, [⟨0, 16, .ro, 0⟩, ⟨16, 16, .z, 0⟩]⟩,
    ⟨0x18, 1, 0, 32, [⟨0, 8, .rwl, 0x73⟩, ⟨8, 24, .p, 0⟩]⟩,
    ⟨0x1c, 1, 0, 32, [⟨0, 8, .rwl, 0x69⟩, ⟨8, 24, .p, 0⟩]⟩,
    ⟨0x20, 1, 0, 32, [⟨0, 3, .ro, 0⟩, ⟨3, 5, .z, 0⟩, ⟨8, 8, .ro, 0⟩, ⟨16, 16, .ro, 0⟩]⟩,
    ⟨0x24, 1, 0, 32, [⟨0, 32, .rc, 0⟩]⟩,
    ⟨0x100, 9, 4, 32, [⟨0, 16, .ro, 0⟩, ⟨16, 16, .ro, 0⟩]⟩]

/-- The registers of a CXL block. -/
def cxlRegs : List RegDef :=
  [
    ⟨0x0, 1, 0, 32, [⟨0, 1, .rwl, 1⟩, ⟨1, 31, .p, 0⟩]⟩,
    ⟨0x4, 1, 0, 32, [⟨0, 3, .ro, 0⟩, ⟨3, 5, .z, 0⟩, ⟨8, 5, .ro, 0⟩, ⟨13, 2, .ro, 0⟩, ⟨15, 1, .z, 0⟩, ⟨16, 1, .w1c, 0⟩, ⟨17, 1, .w1c, 0⟩, ⟨18, 14, .z, 0⟩]⟩,
    ⟨0x8, 1, 0, 32, [⟨0, 32, .ro, 0⟩]⟩,
    ⟨0x10, 1, 0, 64, [⟨0, 64, .rc, 0⟩]⟩,
    ⟨0x18, 1, 0, 64, [⟨0, 64, .rc, 0⟩]⟩,
    ⟨0x20, 1, 0, 32, [⟨0, 32, .rc, 0⟩]⟩,
    ⟨0x24, 1, 0, 32, [⟨0, 32, .rc, 0⟩]⟩,
    ⟨0x28, 1, 0, 32, [⟨0, 32, .rc, 0⟩]⟩,
    ⟨0x2c, 1, 0, 32, [⟨0, 32, .rc, 0⟩]⟩]

/-- The registers of PORT_0 beyond the registers every port has (Table 12.16). -/
def port0Regs : List RegDef :=
  [
    ⟨0x8000, 1, 0, 32, [⟨0, 18, .rw, 0⟩, ⟨18, 14, .z, 0⟩]⟩,
    ⟨0x8004, 1, 0, 32, [⟨0, 2, .rw, 0⟩, ⟨2, 1, .w1s, 0⟩, ⟨3, 29, .z, 0⟩]⟩,
    ⟨0x8008, 1, 0, 64, [⟨0, 64, .rw, 0⟩]⟩,
    ⟨0x8010, 1, 0, 32, [⟨0, 2, .ro, 0⟩, ⟨2, 1, .ro, 0⟩, ⟨3, 5, .z, 0⟩, ⟨8, 1, .w1c, 0⟩, ⟨9, 23, .z, 0⟩]⟩,
    ⟨0x8014, 1, 0, 32, [⟨0, 8, .ro, 0⟩, ⟨8, 8, .ro, 0⟩, ⟨16, 8, .ro, 0⟩, ⟨24, 8, .ro, 0⟩]⟩,
    ⟨0x8018, 1, 0, 32, [⟨0, 4, .rw, 4⟩, ⟨4, 4, .rw, 2⟩, ⟨8, 4, .rw, 2⟩, ⟨12, 4, .rw, 1⟩, ⟨16, 4, .rw, 1⟩, ⟨20, 12, .z, 0⟩]⟩,
    ⟨0x801c, 1, 0, 32, [⟨0, 32, .rw, 0x7a120⟩]⟩,
    ⟨0x8020, 1, 0, 64, [⟨0, 1, .rw, 0⟩, ⟨1, 5, .rw, 4⟩, ⟨6, 4, .z, 0⟩, ⟨10, 38, .rw, 0⟩, ⟨48, 16, .z, 0⟩]⟩,
    ⟨0x8028, 1, 0, 32, [⟨0, 2, .rw, 2⟩, ⟨2, 1, .w1c, 0⟩, ⟨3, 29, .p, 0⟩]⟩,
    ⟨0x802c, 1, 0, 32, [⟨0, 32, .rc, 0⟩]⟩,
    ⟨0x9000, 320, 8, 64, [⟨0, 16, .rw, 0⟩, ⟨16, 16, .rw, 0⟩, ⟨32, 16, .rw, 0⟩, ⟨48, 16, .rw, 0⟩]⟩,
    ⟨0xd000, 1024, 8, 64, [⟨0, 64, .rw, 0⟩]⟩,
    ⟨0xa000, 320, 8, 64, [⟨0, 16, .rw, 0⟩, ⟨16, 16, .rw, 0⟩, ⟨32, 16, .rw, 0⟩, ⟨48, 16, .rw, 0⟩]⟩,
    ⟨0xb000, 320, 8, 64, [⟨0, 16, .rw, 0⟩, ⟨16, 16, .rw, 0⟩, ⟨32, 16, .rw, 0⟩, ⟨48, 16, .rw, 0⟩]⟩,
    ⟨0xc000, 320, 8, 64, [⟨0, 16, .rw, 0⟩, ⟨16, 16, .rw, 0⟩, ⟨32, 16, .rw, 0⟩, ⟨48, 16, .rw, 0⟩]⟩]

/-- The registers of a SEC block. -/
def secRegs : List RegDef :=
  [
    ⟨0x0, 1, 0, 32, [⟨0, 2, .ro, 0⟩, ⟨2, 6, .z, 0⟩, ⟨8, 1, .w1c, 0⟩, ⟨9, 1, .w1c, 0⟩, ⟨10, 22, .z, 0⟩]⟩,
    ⟨0x4, 1, 0, 32, [⟨0, 12, .ro, 0⟩, ⟨12, 20, .z, 0⟩]⟩,
    ⟨0x8, 1, 0, 64, [⟨0, 64, .ro, 0⟩]⟩,
    ⟨0x10, 1, 0, 64, [⟨0, 64, .ro, 0⟩]⟩,
    ⟨0x20, 1, 0, 32, [⟨0, 4, .rw, 0⟩, ⟨4, 1, .w1s, 0⟩, ⟨5, 1, .w1s, 0⟩, ⟨6, 26, .z, 0⟩]⟩,
    ⟨0x28, 1, 0, 64, [⟨0, 8, .z, 0⟩, ⟨8, 40, .rw, 0⟩, ⟨48, 16, .z, 0⟩]⟩,
    ⟨0x30, 1, 0, 32, [⟨0, 4, .ro, 0⟩, ⟨4, 28, .z, 0⟩]⟩,
    ⟨0x34, 1, 0, 32, [⟨0, 16, .ro, 0⟩, ⟨16, 16, .z, 0⟩]⟩,
    ⟨0x40, 1, 0, 64, [⟨0, 40, .rw, 0⟩, ⟨40, 24, .z, 0⟩]⟩,
    ⟨0x48, 1, 0, 64, [⟨0, 40, .rw, 0⟩, ⟨40, 24, .z, 0⟩]⟩,
    ⟨0x50, 1, 0, 32, [⟨0, 4, .rw, 0⟩, ⟨4, 4, .rw, 0⟩, ⟨8, 24, .z, 0⟩]⟩,
    ⟨0x54, 1, 0, 32, [⟨0, 5, .ro, 0⟩, ⟨5, 27, .z, 0⟩]⟩,
    ⟨0x58, 1, 0, 64, [⟨0, 4, .rc, 0⟩, ⟨4, 4, .rc, 0⟩, ⟨8, 1, .rc, 0⟩, ⟨9, 1, .rc, 0⟩, ⟨10, 6, .z, 0⟩, ⟨16, 40, .rc, 0⟩, ⟨56, 8, .rc, 0⟩]⟩,
    ⟨0x60, 1, 0, 64, [⟨0, 64, .rc, 0⟩]⟩,
    ⟨0x68, 1, 0, 32, [⟨0, 32, .rc, 0⟩]⟩]

def TIME_TICK_NOW : Nat := 0xf00000000000
def TIME_TICK_NOW_TICK_NOW : Fld := ⟨TIME_TICK_NOW, 0, 64⟩
def TIME_STATUS : Nat := 0xf00000000008
def TIME_STATUS_LOCKED : Fld := ⟨TIME_STATUS, 0, 1⟩
def TIME_STATUS_HOLDOVER : Fld := ⟨TIME_STATUS, 1, 1⟩
def TIME_STATUS_MASTER : Fld := ⟨TIME_STATUS, 2, 1⟩
def TIME_STATUS_PTP_LOCK : Fld := ⟨TIME_STATUS, 3, 1⟩
def TIME_STATUS_TICK_GAP : Fld := ⟨TIME_STATUS, 8, 1⟩
def TIME_STATUS_UNALIGNED : Fld := ⟨TIME_STATUS, 9, 1⟩
def TIME_STATUS_COUNT_MISMATCH : Fld := ⟨TIME_STATUS, 10, 1⟩
def TIME_CTRL : Nat := 0xf0000000000c
def TIME_CTRL_PTP_EN : Fld := ⟨TIME_CTRL, 0, 1⟩
def TIME_HOLDOVER_LIMIT : Nat := 0xf00000000010
def TIME_HOLDOVER_LIMIT_LIMIT : Fld := ⟨TIME_HOLDOVER_LIMIT, 0, 32⟩
def TIME_HOP_DELAY : Nat := 0xf00000000014
def TIME_HOP_DELAY_DELAY_PS : Fld := ⟨TIME_HOP_DELAY, 0, 32⟩
def TIME_OFFSET : Nat := 0xf00000000018
def TIME_OFFSET_OFFSET_PS : Fld := ⟨TIME_OFFSET, 0, 32⟩
def TIME_HOLDOVER_TICKS : Nat := 0xf0000000001c
def TIME_HOLDOVER_TICKS_COUNT : Fld := ⟨TIME_HOLDOVER_TICKS, 0, 32⟩
def TIME_SAME_TICK : Nat := 0xf00000000020
def TIME_SAME_TICK_COUNT : Fld := ⟨TIME_SAME_TICK, 0, 32⟩
def TIME_SUPERSEDED : Nat := 0xf00000000024
def TIME_SUPERSEDED_COUNT : Fld := ⟨TIME_SUPERSEDED, 0, 32⟩
def CORE_YOKE_CFG (n : Nat) : Nat := 0xf00001001000 + n * 0x40000
def CORE_YOKE_CFG_OX_AVAIL (n : Nat) : Fld := ⟨CORE_YOKE_CFG n, 0, 4⟩
def CORE_YOKE_CFG_CORE_MODE (n : Nat) : Fld := ⟨CORE_YOKE_CFG n, 4, 2⟩
def CORE_YOKE_SEG (n : Nat) : Nat := 0xf00001001004 + n * 0x40000
def CORE_YOKE_SEG_SEG (n : Nat) : Fld := ⟨CORE_YOKE_SEG n, 0, 16⟩
def CORE_YOKE_SEG_ACTIVE (n : Nat) : Fld := ⟨CORE_YOKE_SEG n, 16, 1⟩
def CORE_YOKE_ROWS (n : Nat) : Nat := 0xf00001001008 + n * 0x40000
def CORE_YOKE_ROWS_COUNT (n : Nat) : Fld := ⟨CORE_YOKE_ROWS n, 0, 64⟩
def CORE_YOKE_START_WAIT (n : Nat) : Nat := 0xf00001001010 + n * 0x40000
def CORE_YOKE_START_WAIT_COUNT (n : Nat) : Fld := ⟨CORE_YOKE_START_WAIT n, 0, 32⟩
def CORE_YOKE_SIDEBUF_ROWS (n : Nat) : Nat := 0xf00001001014 + n * 0x40000
def CORE_YOKE_SIDEBUF_ROWS_COUNT (n : Nat) : Fld := ⟨CORE_YOKE_SIDEBUF_ROWS n, 0, 32⟩
def CORE_YOKE_REPLAY_ROWS (n : Nat) : Nat := 0xf00001001018 + n * 0x40000
def CORE_YOKE_REPLAY_ROWS_COUNT (n : Nat) : Fld := ⟨CORE_YOKE_REPLAY_ROWS n, 0, 32⟩
def CORE_MULE_STATUS (n : Nat) : Nat := 0xf00001002000 + n * 0x40000
def CORE_MULE_STATUS_STATE (n : Nat) : Fld := ⟨CORE_MULE_STATUS n, 0, 2⟩
def CORE_MULE_STATUS_PROG (n : Nat) : Fld := ⟨CORE_MULE_STATUS n, 2, 5⟩
def CORE_MULE_STATUS_PROG_FAULT (n : Nat) : Fld := ⟨CORE_MULE_STATUS n, 8, 1⟩
def CORE_MULE_STATUS_SPAN_LOST (n : Nat) : Fld := ⟨CORE_MULE_STATUS n, 9, 1⟩
def CORE_MULE_STATUS_POISON_BITE (n : Nat) : Fld := ⟨CORE_MULE_STATUS n, 10, 1⟩
def CORE_MULE_FAULT (n : Nat) : Nat := 0xf00001002004 + n * 0x40000
def CORE_MULE_FAULT_CODE (n : Nat) : Fld := ⟨CORE_MULE_FAULT n, 0, 4⟩
def CORE_MULE_FAULT_PROG (n : Nat) : Fld := ⟨CORE_MULE_FAULT n, 4, 5⟩
def CORE_MULE_FAULT_OP (n : Nat) : Fld := ⟨CORE_MULE_FAULT n, 9, 4⟩
def CORE_MULE_ROWS (n : Nat) : Nat := 0xf00001002008 + n * 0x40000
def CORE_MULE_ROWS_COUNT (n : Nat) : Fld := ⟨CORE_MULE_ROWS n, 0, 64⟩
def CORE_MULE_BUSY (n : Nat) : Nat := 0xf00001002010 + n * 0x40000
def CORE_MULE_BUSY_COUNT (n : Nat) : Fld := ⟨CORE_MULE_BUSY n, 0, 32⟩
def CORE_MULE_BUBBLE (n : Nat) : Nat := 0xf00001002014 + n * 0x40000
def CORE_MULE_BUBBLE_COUNT (n : Nat) : Fld := ⟨CORE_MULE_BUBBLE n, 0, 32⟩
def CORE_MULE_IN_WAIT (n : Nat) : Nat := 0xf00001002018 + n * 0x40000
def CORE_MULE_IN_WAIT_COUNT (n : Nat) : Fld := ⟨CORE_MULE_IN_WAIT n, 0, 32⟩
def CORE_MULE_OUT_WAIT (n : Nat) : Nat := 0xf0000100201c + n * 0x40000
def CORE_MULE_OUT_WAIT_COUNT (n : Nat) : Fld := ⟨CORE_MULE_OUT_WAIT n, 0, 32⟩
def CORE_MULE_SPAN_LOST (n : Nat) : Nat := 0xf00001002020 + n * 0x40000
def CORE_MULE_SPAN_LOST_COUNT (n : Nat) : Fld := ⟨CORE_MULE_SPAN_LOST n, 0, 32⟩
def CORE_PROG (n i : Nat) : Nat := 0xf00001004000 + n * 0x40000 + i * 8
def CORE_PROG_WORD (n i : Nat) : Fld := ⟨CORE_PROG n i, 0, 64⟩
def CORE_TBL0 (n i : Nat) : Nat := 0xf00001008000 + n * 0x40000 + i * 8
def CORE_TBL0_WORD (n i : Nat) : Fld := ⟨CORE_TBL0 n i, 0, 64⟩
def CORE_TBL1 (n i : Nat) : Nat := 0xf00001009000 + n * 0x40000 + i * 8
def CORE_TBL1_WORD (n i : Nat) : Fld := ⟨CORE_TBL1 n i, 0, 64⟩
def CORE_TBL2 (n i : Nat) : Nat := 0xf0000100a000 + n * 0x40000 + i * 8
def CORE_TBL2_WORD (n i : Nat) : Fld := ⟨CORE_TBL2 n i, 0, 64⟩
def CORE_TBL3 (n i : Nat) : Nat := 0xf0000100b000 + n * 0x40000 + i * 8
def CORE_TBL3_WORD (n i : Nat) : Fld := ⟨CORE_TBL3 n i, 0, 64⟩
def CORE_HPWR (n i : Nat) : Nat := 0xf00001003000 + n * 0x40000 + i * 4
def CORE_HPWR_TARGET (n i : Nat) : Fld := ⟨CORE_HPWR n i, 0, 2⟩
def CORE_HPWR_STATE (n i : Nat) : Fld := ⟨CORE_HPWR n i, 4, 3⟩
def CORE_HPWR_RETIRED (n i : Nat) : Fld := ⟨CORE_HPWR n i, 8, 1⟩
def CORE_HPWR_ACCESS_FAULT (n i : Nat) : Fld := ⟨CORE_HPWR n i, 9, 1⟩
def CORE_APWR (n i : Nat) : Nat := 0xf00001003010 + n * 0x40000 + i * 4
def CORE_APWR_TARGET (n i : Nat) : Fld := ⟨CORE_APWR n i, 0, 2⟩
def CORE_APWR_STATE (n i : Nat) : Fld := ⟨CORE_APWR n i, 4, 3⟩
def CORE_APWR_RETIRED (n i : Nat) : Fld := ⟨CORE_APWR n i, 8, 1⟩
def CORE_APWR_ACCESS_FAULT (n i : Nat) : Fld := ⟨CORE_APWR n i, 9, 1⟩
def CORE_HBIND (n : Nat) : Nat := 0xf00001003030 + n * 0x40000
def CORE_HBIND_BIND_0 (n : Nat) : Fld := ⟨CORE_HBIND n, 0, 4⟩
def CORE_HBIND_BIND_1 (n : Nat) : Fld := ⟨CORE_HBIND n, 4, 4⟩
def CORE_HBIND_BIND_2 (n : Nat) : Fld := ⟨CORE_HBIND n, 8, 4⟩
def CORE_HBIND_BIND_3 (n : Nat) : Fld := ⟨CORE_HBIND n, 12, 4⟩
def CORE_GUEST_ACCESSES (n : Nat) : Nat := 0xf00001003034 + n * 0x40000
def CORE_GUEST_ACCESSES_COUNT (n : Nat) : Fld := ⟨CORE_GUEST_ACCESSES n, 0, 32⟩
def CORE_BOUND_LOST (n : Nat) : Nat := 0xf00001003038 + n * 0x40000
def CORE_BOUND_LOST_COUNT (n : Nat) : Fld := ⟨CORE_BOUND_LOST n, 0, 32⟩
def CORE_BIND_WAIT (n : Nat) : Nat := 0xf0000100303c + n * 0x40000
def CORE_BIND_WAIT_COUNT (n : Nat) : Fld := ⟨CORE_BIND_WAIT n, 0, 32⟩
def CORE_APORT_WAIT (n : Nat) : Nat := 0xf00001003040 + n * 0x40000
def CORE_APORT_WAIT_COUNT (n : Nat) : Fld := ⟨CORE_APORT_WAIT n, 0, 32⟩
def CORE_BANK_FAULTS (n : Nat) : Nat := 0xf00001003044 + n * 0x40000
def CORE_BANK_FAULTS_COUNT (n : Nat) : Fld := ⟨CORE_BANK_FAULTS n, 0, 32⟩
def CORE_STREAM_STATUS (n : Nat) : Nat := 0xf00001006000 + n * 0x40000
def CORE_STREAM_STATUS_ACTIVE (n : Nat) : Fld := ⟨CORE_STREAM_STATUS n, 0, 16⟩
def CORE_STREAM_STATUS_RUNNING (n : Nat) : Fld := ⟨CORE_STREAM_STATUS n, 16, 1⟩
def CORE_STREAM_STATUS_STOPPED (n : Nat) : Fld := ⟨CORE_STREAM_STATUS n, 17, 1⟩
def CORE_STREAM_STATUS_FAULT (n : Nat) : Fld := ⟨CORE_STREAM_STATUS n, 24, 1⟩
def CORE_STREAM_FAULT (n : Nat) : Nat := 0xf00001006004 + n * 0x40000
def CORE_STREAM_FAULT_CODE (n : Nat) : Fld := ⟨CORE_STREAM_FAULT n, 0, 4⟩
def CORE_STREAM_FAULT_SLOT (n : Nat) : Fld := ⟨CORE_STREAM_FAULT n, 4, 4⟩
def CORE_FAULT_TILE (n : Nat) : Nat := 0xf00001006008 + n * 0x40000
def CORE_FAULT_TILE_TILE (n : Nat) : Fld := ⟨CORE_FAULT_TILE n, 0, 32⟩
def CORE_HC_ADD (n : Nat) : Nat := 0xf00001006010 + n * 0x40000
def CORE_HC_ADD_HC (n : Nat) : Fld := ⟨CORE_HC_ADD n, 0, 4⟩
def CORE_HC_ADD_ADD (n : Nat) : Fld := ⟨CORE_HC_ADD n, 16, 16⟩
def CORE_CQ0 (n : Nat) : Nat := 0xf00001006018 + n * 0x40000
def CORE_CQ0_TILE (n : Nat) : Fld := ⟨CORE_CQ0 n, 0, 32⟩
def CORE_CQ0_SLOT (n : Nat) : Fld := ⟨CORE_CQ0 n, 32, 4⟩
def CORE_CQ0_VALID (n : Nat) : Fld := ⟨CORE_CQ0 n, 36, 1⟩
def CORE_CQ1 (n : Nat) : Nat := 0xf00001006020 + n * 0x40000
def CORE_CQ1_TILE (n : Nat) : Fld := ⟨CORE_CQ1 n, 0, 32⟩
def CORE_CQ1_SLOT (n : Nat) : Fld := ⟨CORE_CQ1 n, 32, 4⟩
def CORE_CQ1_VALID (n : Nat) : Fld := ⟨CORE_CQ1 n, 36, 1⟩
def CORE_CDONE0 (n : Nat) : Nat := 0xf00001006028 + n * 0x40000
def CORE_CDONE0_SLOT (n : Nat) : Fld := ⟨CORE_CDONE0 n, 0, 4⟩
def CORE_CDONE1 (n : Nat) : Nat := 0xf0000100602c + n * 0x40000
def CORE_CDONE1_SLOT (n : Nat) : Fld := ⟨CORE_CDONE1 n, 0, 4⟩
def CORE_EXCH_WAIT (n : Nat) : Nat := 0xf00001006030 + n * 0x40000
def CORE_EXCH_WAIT_COUNT (n : Nat) : Fld := ⟨CORE_EXCH_WAIT n, 0, 32⟩
def CORE_HC (n i : Nat) : Nat := 0xf00001006040 + n * 0x40000 + i * 4
def CORE_HC_VALUE (n i : Nat) : Fld := ⟨CORE_HC n i, 0, 32⟩
def CORE_NEXT_TILE (n i : Nat) : Nat := 0xf00001006080 + n * 0x40000 + i * 4
def CORE_NEXT_TILE_TILE (n i : Nat) : Fld := ⟨CORE_NEXT_TILE n i, 0, 32⟩
def CORE_WAIT (n i : Nat) : Nat := 0xf000010060c0 + n * 0x40000 + i * 4
def CORE_WAIT_COUNT (n i : Nat) : Fld := ⟨CORE_WAIT n i, 0, 32⟩
def CORE_TASK_ID (n : Nat) : Nat := 0xf00001007000 + n * 0x40000
def CORE_TASK_ID_ID (n : Nat) : Fld := ⟨CORE_TASK_ID n, 0, 64⟩
def CORE_TASK_ARG (n : Nat) : Nat := 0xf00001007008 + n * 0x40000
def CORE_TASK_ARG_ARG (n : Nat) : Fld := ⟨CORE_TASK_ARG n, 0, 64⟩
def CORE_TASK_INFO (n : Nat) : Nat := 0xf00001007010 + n * 0x40000
def CORE_TASK_INFO_CTX (n : Nat) : Fld := ⟨CORE_TASK_INFO n, 0, 4⟩
def CORE_TASK_INFO_ROSTER (n : Nat) : Fld := ⟨CORE_TASK_INFO n, 4, 3⟩
def CORE_TASK_INFO_VALID (n : Nat) : Fld := ⟨CORE_TASK_INFO n, 7, 1⟩
def CORE_TASK_INFO_ENTRY (n : Nat) : Fld := ⟨CORE_TASK_INFO n, 8, 24⟩
def CORE_RESTRICT (n : Nat) : Nat := 0xf00001007100 + n * 0x40000
def CORE_RESTRICT_CEIL (n : Nat) : Fld := ⟨CORE_RESTRICT n, 0, 8⟩
def CORE_TJ (n : Nat) : Nat := 0xf00001007104 + n * 0x40000
def CORE_TJ_NOW (n : Nat) : Fld := ⟨CORE_TJ n, 0, 8⟩
def CORE_TJ_ACTIVITY (n : Nat) : Fld := ⟨CORE_TJ n, 8, 8⟩
def CORE_THROTTLE_CYCLES (n : Nat) : Nat := 0xf00001007108 + n * 0x40000
def CORE_THROTTLE_CYCLES_COUNT (n : Nat) : Fld := ⟨CORE_THROTTLE_CYCLES n, 0, 32⟩
def CORE_TRAIL_WR (n : Nat) : Nat := 0xf00001006100 + n * 0x40000
def CORE_TRAIL_WR_OFFSET (n : Nat) : Fld := ⟨CORE_TRAIL_WR n, 0, 40⟩
def CORE_TRAIL_WRAPS (n : Nat) : Nat := 0xf00001006108 + n * 0x40000
def CORE_TRAIL_WRAPS_COUNT (n : Nat) : Fld := ⟨CORE_TRAIL_WRAPS n, 0, 32⟩
def CORE_PROGRESS (n : Nat) : Nat := 0xf00001007018 + n * 0x40000
def CORE_PROGRESS_COUNT (n : Nat) : Fld := ⟨CORE_PROGRESS n, 0, 32⟩
def CORE_STILL (n : Nat) : Nat := 0xf0000100701c + n * 0x40000
def CORE_STILL_WINDOWS (n : Nat) : Fld := ⟨CORE_STILL n, 0, 4⟩
def CORE_RUN_TICKS (n : Nat) : Nat := 0xf00001007020 + n * 0x40000
def CORE_RUN_TICKS_TICKS (n : Nat) : Fld := ⟨CORE_RUN_TICKS n, 0, 32⟩
def OX_PASS_W0 (o : Nat) : Nat := 0xF00001020000 + (o / 4) * 0x40000 + (o % 4) * 0x8000
def OX_PASS_W0_WORD (o : Nat) : Fld := ⟨OX_PASS_W0 o, 0, 64⟩
def OX_PASS_W1 (o : Nat) : Nat := 0xF00001020000 + (o / 4) * 0x40000 + (o % 4) * 0x8000 + 0x8
def OX_PASS_W1_WORD (o : Nat) : Fld := ⟨OX_PASS_W1 o, 0, 64⟩
def OX_PASS_W2 (o : Nat) : Nat := 0xF00001020000 + (o / 4) * 0x40000 + (o % 4) * 0x8000 + 0x10
def OX_PASS_W2_WORD (o : Nat) : Fld := ⟨OX_PASS_W2 o, 0, 64⟩
def OX_PASS_W3 (o : Nat) : Nat := 0xF00001020000 + (o / 4) * 0x40000 + (o % 4) * 0x8000 + 0x18
def OX_PASS_W3_WORD (o : Nat) : Fld := ⟨OX_PASS_W3 o, 0, 64⟩
def OX_STATUS (o : Nat) : Nat := 0xF00001020000 + (o / 4) * 0x40000 + (o % 4) * 0x8000 + 0x20
def OX_STATUS_STATE (o : Nat) : Fld := ⟨OX_STATUS o, 0, 2⟩
def OX_STATUS_DETACHED (o : Nat) : Fld := ⟨OX_STATUS o, 2, 1⟩
def OX_STATUS_QUEUED (o : Nat) : Fld := ⟨OX_STATUS o, 3, 3⟩
def OX_STATUS_PARKED (o : Nat) : Fld := ⟨OX_STATUS o, 6, 1⟩
def OX_STATUS_PUSH_OVF (o : Nat) : Fld := ⟨OX_STATUS o, 8, 1⟩
def OX_STATUS_PASS_FAULT (o : Nat) : Fld := ⟨OX_STATUS o, 9, 1⟩
def OX_CTRL (o : Nat) : Nat := 0xF00001020000 + (o / 4) * 0x40000 + (o % 4) * 0x8000 + 0x24
def OX_CTRL_FENCE (o : Nat) : Fld := ⟨OX_CTRL o, 0, 1⟩
def OX_REPAIR (o : Nat) : Nat := 0xF00001020000 + (o / 4) * 0x40000 + (o % 4) * 0x8000 + 0x28
def OX_REPAIR_ROW_SKIP0 (o : Nat) : Fld := ⟨OX_REPAIR o, 0, 8⟩
def OX_REPAIR_ROW_SKIP1 (o : Nat) : Fld := ⟨OX_REPAIR o, 8, 8⟩
def OX_REPAIR_COL_SKIP0 (o : Nat) : Fld := ⟨OX_REPAIR o, 16, 8⟩
def OX_REPAIR_COL_SKIP1 (o : Nat) : Fld := ⟨OX_REPAIR o, 24, 8⟩
def OX_FAULT (o : Nat) : Nat := 0xF00001020000 + (o / 4) * 0x40000 + (o % 4) * 0x8000 + 0x2c
def OX_FAULT_CODE (o : Nat) : Fld := ⟨OX_FAULT o, 0, 4⟩
def OX_FAULT_PASS_ID (o : Nat) : Fld := ⟨OX_FAULT o, 16, 16⟩
def OX_PASSES (o : Nat) : Nat := 0xF00001020000 + (o / 4) * 0x40000 + (o % 4) * 0x8000 + 0x30
def OX_PASSES_COUNT (o : Nat) : Fld := ⟨OX_PASSES o, 0, 32⟩
def OX_STALL_CYCLES (o : Nat) : Nat := 0xF00001020000 + (o / 4) * 0x40000 + (o % 4) * 0x8000 + 0x34
def OX_STALL_CYCLES_COUNT (o : Nat) : Fld := ⟨OX_STALL_CYCLES o, 0, 32⟩
def OX_STALL_EVENTS (o : Nat) : Nat := 0xF00001020000 + (o / 4) * 0x40000 + (o % 4) * 0x8000 + 0x38
def OX_STALL_EVENTS_COUNT (o : Nat) : Fld := ⟨OX_STALL_EVENTS o, 0, 32⟩
def OX_BUBBLE_CYCLES (o : Nat) : Nat := 0xF00001020000 + (o / 4) * 0x40000 + (o % 4) * 0x8000 + 0x3c
def OX_BUBBLE_CYCLES_COUNT (o : Nat) : Fld := ⟨OX_BUBBLE_CYCLES o, 0, 32⟩
def OX_DETACHES (o : Nat) : Nat := 0xF00001020000 + (o / 4) * 0x40000 + (o % 4) * 0x8000 + 0x40
def OX_DETACHES_COUNT (o : Nat) : Fld := ⟨OX_DETACHES o, 0, 32⟩
def OX_LAG (o : Nat) : Nat := 0xF00001020000 + (o / 4) * 0x40000 + (o % 4) * 0x8000 + 0x44
def OX_LAG_ROWS (o : Nat) : Fld := ⟨OX_LAG o, 0, 16⟩
def OX_LAG_PEAK (o : Nat) : Fld := ⟨OX_LAG o, 16, 16⟩
def OX_SENT_STATE (o : Nat) : Nat := 0xF00001020000 + (o / 4) * 0x40000 + (o % 4) * 0x8000 + 0x48
def OX_SENT_STATE_STATE (o : Nat) : Fld := ⟨OX_SENT_STATE o, 0, 2⟩
def OX_SENT_STATE_CLEAR (o : Nat) : Fld := ⟨OX_SENT_STATE o, 8, 1⟩
def OX_SENT_STATE_T0 (o : Nat) : Fld := ⟨OX_SENT_STATE o, 16, 8⟩
def OX_SENT_STATE_A0 (o : Nat) : Fld := ⟨OX_SENT_STATE o, 24, 8⟩
def OX_SENT_LAST (o : Nat) : Nat := 0xF00001020000 + (o / 4) * 0x40000 + (o % 4) * 0x8000 + 0x4c
def OX_SENT_LAST_TEMP (o : Nat) : Fld := ⟨OX_SENT_LAST o, 0, 8⟩
def OX_SENT_LAST_ACT (o : Nat) : Fld := ⟨OX_SENT_LAST o, 8, 8⟩
def OX_SENT_LAST_MATCH (o : Nat) : Fld := ⟨OX_SENT_LAST o, 16, 1⟩
def OX_SENT_LAST_PATTERN (o : Nat) : Fld := ⟨OX_SENT_LAST o, 17, 4⟩
def OX_SENT_LAST_CONFIRM (o : Nat) : Fld := ⟨OX_SENT_LAST o, 21, 1⟩
def OX_SENT_PASS (o : Nat) : Nat := 0xF00001020000 + (o / 4) * 0x40000 + (o % 4) * 0x8000 + 0x50
def OX_SENT_PASS_COUNT (o : Nat) : Fld := ⟨OX_SENT_PASS o, 0, 32⟩
def OX_SENT_FAIL (o : Nat) : Nat := 0xF00001020000 + (o / 4) * 0x40000 + (o % 4) * 0x8000 + 0x54
def OX_SENT_FAIL_COUNT (o : Nat) : Fld := ⟨OX_SENT_FAIL o, 0, 32⟩
def OX_SIM_PASSES (o : Nat) : Nat := 0xF00001020000 + (o / 4) * 0x40000 + (o % 4) * 0x8000 + 0x58
def OX_SIM_PASSES_COUNT (o : Nat) : Fld := ⟨OX_SIM_PASSES o, 0, 32⟩
def OX_OUT_OF_COND (o : Nat) : Nat := 0xF00001020000 + (o / 4) * 0x40000 + (o % 4) * 0x8000 + 0x5c
def OX_OUT_OF_COND_COUNT (o : Nat) : Fld := ⟨OX_OUT_OF_COND o, 0, 32⟩
def CTX_STEP (c : Nat) : Nat := 0xf00000100800 + c * 0x10000
def CTX_STEP_STEP (c : Nat) : Fld := ⟨CTX_STEP c, 0, 64⟩
def CTX_SR_SEED (c : Nat) : Nat := 0xf00000100808 + c * 0x10000
def CTX_SR_SEED_SEED (c : Nat) : Fld := ⟨CTX_SR_SEED c, 0, 64⟩
def CTX_STAT_BASE (c : Nat) : Nat := 0xf00000100810 + c * 0x10000
def CTX_STAT_BASE_BASE (c : Nat) : Fld := ⟨CTX_STAT_BASE c, 9, 43⟩
def CTX_STAT_CFG (c : Nat) : Nat := 0xf00000100818 + c * 0x10000
def CTX_STAT_CFG_EN (c : Nat) : Fld := ⟨CTX_STAT_CFG c, 0, 1⟩
def CTX_STAT_CFG_SLOT_BITS (c : Nat) : Fld := ⟨CTX_STAT_CFG c, 4, 5⟩
def CTX_STAT_STATUS (c : Nat) : Nat := 0xf0000010081c + c * 0x10000
def CTX_STAT_STATUS_COLLIDE (c : Nat) : Fld := ⟨CTX_STAT_STATUS c, 0, 1⟩
def CTX_STAT_STATUS_CRC_FAIL (c : Nat) : Fld := ⟨CTX_STAT_STATUS c, 1, 1⟩
def CTX_STAT_STATUS_CFG_ERR (c : Nat) : Fld := ⟨CTX_STAT_STATUS c, 2, 1⟩
def CTX_STAT_STATUS_COUNT_SAT (c : Nat) : Fld := ⟨CTX_STAT_STATUS c, 3, 1⟩
def CTX_STAT_STATUS_REC_POISON (c : Nat) : Fld := ⟨CTX_STAT_STATUS c, 4, 1⟩
def CTX_STAT_WAIT_TICKS (c : Nat) : Nat := 0xf00000100820 + c * 0x10000
def CTX_STAT_WAIT_TICKS_COUNT (c : Nat) : Fld := ⟨CTX_STAT_WAIT_TICKS c, 0, 32⟩
def CTX_STAT_FALLBACKS (c : Nat) : Nat := 0xf00000100824 + c * 0x10000
def CTX_STAT_FALLBACKS_COUNT (c : Nat) : Fld := ⟨CTX_STAT_FALLBACKS c, 0, 32⟩
def CTX_STAT_COLLISIONS (c : Nat) : Nat := 0xf00000100828 + c * 0x10000
def CTX_STAT_COLLISIONS_COUNT (c : Nat) : Fld := ⟨CTX_STAT_COLLISIONS c, 0, 32⟩
def CTX_CMD (c : Nat) : Nat := 0xf00000100000 + c * 0x10000
def CTX_CMD_CODE (c : Nat) : Fld := ⟨CTX_CMD c, 0, 3⟩
def CTX_CMD_WIPE (c : Nat) : Fld := ⟨CTX_CMD c, 3, 1⟩
def CTX_CMD_AT (c : Nat) : Nat := 0xf00000100008 + c * 0x10000
def CTX_CMD_AT_TICK (c : Nat) : Fld := ⟨CTX_CMD_AT c, 0, 64⟩
def CTX_STATE (c : Nat) : Nat := 0xf00000100010 + c * 0x10000
def CTX_STATE_STATE (c : Nat) : Fld := ⟨CTX_STATE c, 0, 3⟩
def CTX_STATE_CFG_REJECT (c : Nat) : Fld := ⟨CTX_STATE c, 8, 1⟩
def CTX_STATE_CMD_REJECT (c : Nat) : Fld := ⟨CTX_STATE c, 9, 1⟩
def CTX_STATE_CMD_ARMED (c : Nat) : Fld := ⟨CTX_STATE c, 10, 1⟩
def CTX_CORES (c : Nat) : Nat := 0xf00000100018 + c * 0x10000
def CTX_CORES_MASK (c : Nat) : Fld := ⟨CTX_CORES c, 0, 64⟩
def CTX_PEN (c i : Nat) : Nat := 0xf00000100028 + c * 0x10000 + i * 8
def CTX_PEN_MASK (c i : Nat) : Fld := ⟨CTX_PEN c i, 0, 64⟩
def CTX_PT_BASE (c : Nat) : Nat := 0xf00000100040 + c * 0x10000
def CTX_PT_BASE_BASE (c : Nat) : Fld := ⟨CTX_PT_BASE c, 16, 32⟩
def CTX_SAVE_BASE (c : Nat) : Nat := 0xf00000100048 + c * 0x10000
def CTX_SAVE_BASE_BASE (c : Nat) : Fld := ⟨CTX_SAVE_BASE c, 21, 31⟩
def CTX_SAVE_STATUS (c : Nat) : Nat := 0xf00000100050 + c * 0x10000
def CTX_SAVE_STATUS_CODE (c : Nat) : Fld := ⟨CTX_SAVE_STATUS c, 0, 4⟩
def CTX_HBM_CLASS (c : Nat) : Nat := 0xf00000100054 + c * 0x10000
def CTX_HBM_CLASS_CLASS (c : Nat) : Fld := ⟨CTX_HBM_CLASS c, 0, 2⟩
def CTX_ROSTER_FAULT (c : Nat) : Nat := 0xf00000100058 + c * 0x10000
def CTX_ROSTER_FAULT_CODE (c : Nat) : Fld := ⟨CTX_ROSTER_FAULT c, 0, 4⟩
def CTX_ROSTER_FAULT_ROSTER (c : Nat) : Fld := ⟨CTX_ROSTER_FAULT c, 4, 3⟩
def CTX_ROSTER (c i : Nat) : Nat := 0xf00000100080 + c * 0x10000 + i * 8
def CTX_ROSTER_EN (c i : Nat) : Fld := ⟨CTX_ROSTER c i, 0, 1⟩
def CTX_ROSTER_LOG2_SIZE (c i : Nat) : Fld := ⟨CTX_ROSTER c i, 1, 5⟩
def CTX_ROSTER_BASE (c i : Nat) : Fld := ⟨CTX_ROSTER c i, 10, 42⟩
def CTX_PEN_IDLE (c i : Nat) : Nat := 0xf000001000c0 + c * 0x10000 + i * 16
def CTX_PEN_IDLE_COUNT (c i : Nat) : Fld := ⟨CTX_PEN_IDLE c i, 0, 32⟩
def CTX_PEN_DEP (c i : Nat) : Nat := 0xf000001000c4 + c * 0x10000 + i * 16
def CTX_PEN_DEP_COUNT (c i : Nat) : Fld := ⟨CTX_PEN_DEP c i, 0, 32⟩
def CTX_PEN_BUSY (c i : Nat) : Nat := 0xf000001000c8 + c * 0x10000 + i * 16
def CTX_PEN_BUSY_COUNT (c i : Nat) : Fld := ⟨CTX_PEN_BUSY c i, 0, 32⟩
def CTX_PLACED (c : Nat) : Nat := 0xf00000100100 + c * 0x10000
def CTX_PLACED_COUNT (c : Nat) : Fld := ⟨CTX_PLACED c, 0, 32⟩
def CTX_COMPLETED (c : Nat) : Nat := 0xf00000100104 + c * 0x10000
def CTX_COMPLETED_COUNT (c : Nat) : Fld := ⟨CTX_COMPLETED c, 0, 32⟩
def CTX_DEEP_LATE_N (c : Nat) : Nat := 0xf00000100900 + c * 0x10000
def CTX_DEEP_LATE_N_COUNT (c : Nat) : Fld := ⟨CTX_DEEP_LATE_N c, 0, 32⟩
def CTX_DEEP_FAIL_N (c : Nat) : Nat := 0xf00000100904 + c * 0x10000
def CTX_DEEP_FAIL_N_COUNT (c : Nat) : Fld := ⟨CTX_DEEP_FAIL_N c, 0, 32⟩
def CTX_LOCK_WAITS (c : Nat) : Nat := 0xf00000100908 + c * 0x10000
def CTX_LOCK_WAITS_COUNT (c : Nat) : Fld := ⟨CTX_LOCK_WAITS c, 0, 32⟩
def CTX_DEEP_WAIT_TICKS (c : Nat) : Nat := 0xf0000010090c + c * 0x10000
def CTX_DEEP_WAIT_TICKS_COUNT (c : Nat) : Fld := ⟨CTX_DEEP_WAIT_TICKS c, 0, 32⟩
def CTX_RECOMP_ACK (c : Nat) : Nat := 0xf00000100a00 + c * 0x10000
def CTX_RECOMP_ACK_REQ (c : Nat) : Fld := ⟨CTX_RECOMP_ACK c, 0, 16⟩
def CTX_RECOMP_LIMIT (c : Nat) : Nat := 0xf00000100a04 + c * 0x10000
def CTX_RECOMP_LIMIT_TICKS (c : Nat) : Fld := ⟨CTX_RECOMP_LIMIT c, 0, 32⟩
def CTX_RECOMPUTES (c : Nat) : Nat := 0xf00000100a08 + c * 0x10000
def CTX_RECOMPUTES_COUNT (c : Nat) : Fld := ⟨CTX_RECOMPUTES c, 0, 32⟩
def CTX_RECOMP_TIMEOUTS (c : Nat) : Nat := 0xf00000100a0c + c * 0x10000
def CTX_RECOMP_TIMEOUTS_COUNT (c : Nat) : Fld := ⟨CTX_RECOMP_TIMEOUTS c, 0, 32⟩
def CTX_RECOMP_FULL (c : Nat) : Nat := 0xf00000100a10 + c * 0x10000
def CTX_RECOMP_FULL_COUNT (c : Nat) : Fld := ⟨CTX_RECOMP_FULL c, 0, 32⟩
def CTX_POISON_BITES (c : Nat) : Nat := 0xf00000100a14 + c * 0x10000
def CTX_POISON_BITES_COUNT (c : Nat) : Fld := ⟨CTX_POISON_BITES c, 0, 32⟩
def CTX_FABRIC_JOB (c : Nat) : Nat := 0xf00000100b00 + c * 0x10000
def CTX_FABRIC_JOB_JOB (c : Nat) : Fld := ⟨CTX_FABRIC_JOB c, 0, 16⟩
def CTX_FAB_TIMEOUTS (c : Nat) : Nat := 0xf00000100b04 + c * 0x10000
def CTX_FAB_TIMEOUTS_COUNT (c : Nat) : Fld := ⟨CTX_FAB_TIMEOUTS c, 0, 32⟩
def CTX_SEAL_W0 (c i : Nat) : Nat := 0xf00000100c00 + c * 0x10000 + i * 32
def CTX_SEAL_W0_VALID (c i : Nat) : Fld := ⟨CTX_SEAL_W0 c i, 0, 1⟩
def CTX_SEAL_W0_WIN (c i : Nat) : Fld := ⟨CTX_SEAL_W0 c i, 1, 1⟩
def CTX_SEAL_W0_GSLOT (c i : Nat) : Fld := ⟨CTX_SEAL_W0 c i, 2, 2⟩
def CTX_SEAL_W0_BASE (c i : Nat) : Fld := ⟨CTX_SEAL_W0 c i, 21, 31⟩
def CTX_SEAL_W1 (c i : Nat) : Nat := 0xf00000100c08 + c * 0x10000 + i * 32
def CTX_SEAL_W1_OBJ (c i : Nat) : Fld := ⟨CTX_SEAL_W1 c i, 0, 32⟩
def CTX_SEAL_W1_GEN (c i : Nat) : Fld := ⟨CTX_SEAL_W1 c i, 32, 16⟩
def CTX_SEAL_W1_PAGES (c i : Nat) : Fld := ⟨CTX_SEAL_W1 c i, 48, 16⟩
def CTX_SEAL_W2 (c i : Nat) : Nat := 0xf00000100c10 + c * 0x10000 + i * 32
def CTX_SEAL_W2_LINE0 (c i : Nat) : Fld := ⟨CTX_SEAL_W2 c i, 0, 48⟩
def CTX_SEAL_W3 (c i : Nat) : Nat := 0xf00000100c18 + c * 0x10000 + i * 32
def CTX_SEAL_W3_TAG_BASE (c i : Nat) : Fld := ⟨CTX_SEAL_W3 c i, 4, 48⟩
def CTX_GEN_WIN (c : Nat) : Nat := 0xf00000100e00 + c * 0x10000
def CTX_GEN_WIN_L0_INDEX (c : Nat) : Fld := ⟨CTX_GEN_WIN c, 0, 13⟩
def CTX_GEN_WIN_EN (c : Nat) : Fld := ⟨CTX_GEN_WIN c, 13, 1⟩
def CTX_GEN_SWITCH (c : Nat) : Nat := 0xf00000100e08 + c * 0x10000
def CTX_GEN_SWITCH_SLOT (c : Nat) : Fld := ⟨CTX_GEN_SWITCH c, 0, 2⟩
def CTX_GEN_SWITCH_ARM (c : Nat) : Fld := ⟨CTX_GEN_SWITCH c, 2, 1⟩
def CTX_GEN_AT (c : Nat) : Nat := 0xf00000100e10 + c * 0x10000
def CTX_GEN_AT_TICK (c : Nat) : Fld := ⟨CTX_GEN_AT c, 0, 64⟩
def CTX_GEN_STATUS (c : Nat) : Nat := 0xf00000100e18 + c * 0x10000
def CTX_GEN_STATUS_CURRENT (c : Nat) : Fld := ⟨CTX_GEN_STATUS c, 0, 2⟩
def CTX_GEN_STATUS_HAS_CURRENT (c : Nat) : Fld := ⟨CTX_GEN_STATUS c, 2, 1⟩
def CTX_GEN_STATUS_ARMED (c : Nat) : Fld := ⟨CTX_GEN_STATUS c, 3, 1⟩
def CTX_GEN_STATUS_SWITCH_REJECT (c : Nat) : Fld := ⟨CTX_GEN_STATUS c, 8, 1⟩
def CTX_GEN_STATUS_RETIRED (c : Nat) : Fld := ⟨CTX_GEN_STATUS c, 9, 1⟩
def CTX_GSLOTk (c i : Nat) : Nat := 0xf00000100e20 + c * 0x10000 + i * 16
def CTX_GSLOTk_STATE (c i : Nat) : Fld := ⟨CTX_GSLOTk c i, 0, 3⟩
def CTX_GSLOTk_LOAD (c i : Nat) : Fld := ⟨CTX_GSLOTk c i, 4, 1⟩
def CTX_GSLOTk_READY (c i : Nat) : Fld := ⟨CTX_GSLOTk c i, 5, 1⟩
def CTX_GSLOTk_ABANDON (c i : Nat) : Fld := ⟨CTX_GSLOTk c i, 6, 1⟩
def CTX_HOLDERSk (c i : Nat) : Nat := 0xf00000100e24 + c * 0x10000 + i * 16
def CTX_HOLDERSk_COUNT (c i : Nat) : Fld := ⟨CTX_HOLDERSk c i, 0, 32⟩
def CTX_GSLOTk_L1 (c i : Nat) : Nat := 0xf00000100e28 + c * 0x10000 + i * 16
def CTX_GSLOTk_L1_BASE (c i : Nat) : Fld := ⟨CTX_GSLOTk_L1 c i, 12, 36⟩
def CTX_ROSTER_GEN (c : Nat) : Nat := 0xf00000100e60 + c * 0x10000
def CTX_ROSTER_GEN_SEL_0 (c : Nat) : Fld := ⟨CTX_ROSTER_GEN c, 0, 3⟩
def CTX_ROSTER_GEN_SEL_1 (c : Nat) : Fld := ⟨CTX_ROSTER_GEN c, 4, 3⟩
def CTX_ROSTER_GEN_SEL_2 (c : Nat) : Fld := ⟨CTX_ROSTER_GEN c, 8, 3⟩
def CTX_ROSTER_GEN_SEL_3 (c : Nat) : Fld := ⟨CTX_ROSTER_GEN c, 12, 3⟩
def CTX_ROSTER_GEN_SEL_4 (c : Nat) : Fld := ⟨CTX_ROSTER_GEN c, 16, 3⟩
def CTX_ROSTER_GEN_SEL_5 (c : Nat) : Fld := ⟨CTX_ROSTER_GEN c, 20, 3⟩
def CTX_ROSTER_GEN_SEL_6 (c : Nat) : Fld := ⟨CTX_ROSTER_GEN c, 24, 3⟩
def CTX_ROSTER_GEN_SEL_7 (c : Nat) : Fld := ⟨CTX_ROSTER_GEN c, 28, 3⟩
def CTX_FAULT_INFO (c : Nat) : Nat := 0xf00000100f00 + c * 0x10000
def CTX_FAULT_INFO_KIND (c : Nat) : Fld := ⟨CTX_FAULT_INFO c, 0, 8⟩
def CTX_FAULT_INFO_CODE (c : Nat) : Fld := ⟨CTX_FAULT_INFO c, 8, 8⟩
def CTX_FAULT_INFO_VALID (c : Nat) : Fld := ⟨CTX_FAULT_INFO c, 16, 1⟩
def CTX_FAULT_SEQ (c : Nat) : Nat := 0xf00000100f08 + c * 0x10000
def CTX_FAULT_SEQ_SEQ (c : Nat) : Fld := ⟨CTX_FAULT_SEQ c, 0, 64⟩
def CTX_JOB_FAULT (c : Nat) : Nat := 0xf00000100f10 + c * 0x10000
def CTX_JOB_FAULT_RAISE (c : Nat) : Fld := ⟨CTX_JOB_FAULT c, 0, 1⟩
def CTX_JOB_FAULT_ORIGIN (c : Nat) : Fld := ⟨CTX_JOB_FAULT c, 14, 18⟩
def CTX_FAULTS (c : Nat) : Nat := 0xf00000100f14 + c * 0x10000
def CTX_FAULTS_COUNT (c : Nat) : Fld := ⟨CTX_FAULTS c, 0, 32⟩
def CTX_PEN0 (c : Nat) : Nat := 0xf00000100020 + c * 0x10000
def CTX_PEN0_MASK (c : Nat) : Fld := ⟨CTX_PEN0 c, 0, 64⟩
def DISP_SENT_CFG : Nat := 0xf00000050000
def DISP_SENT_CFG_EN : Fld := ⟨DISP_SENT_CFG, 0, 1⟩
def DISP_SENT_INTERVAL : Nat := 0xf00000050004
def DISP_SENT_INTERVAL_TICKS : Fld := ⟨DISP_SENT_INTERVAL, 0, 32⟩
def DISP_SENT_TASKS : Nat := 0xf00000050008
def DISP_SENT_TASKS_COUNT : Fld := ⟨DISP_SENT_TASKS, 0, 32⟩
def DISP_SENT_LAST : Nat := 0xf00000050010
def DISP_SENT_LAST_TICK : Fld := ⟨DISP_SENT_LAST, 0, 64⟩
def DISP_SENT_COUNT : Nat := 0xf00000050018
def DISP_SENT_COUNT_COUNT : Fld := ⟨DISP_SENT_COUNT, 0, 32⟩
def DISP_SENT_LATE : Nat := 0xf0000005001c
def DISP_SENT_LATE_COUNT : Fld := ⟨DISP_SENT_LATE, 0, 32⟩
def DISP_SENT_PENDING : Nat := 0xf00000050020
def DISP_SENT_PENDING_MASK : Fld := ⟨DISP_SENT_PENDING, 0, 64⟩
def DISP_SENT_PTR0 : Nat := 0xf00000050028
def DISP_SENT_PTR0_OX : Fld := ⟨DISP_SENT_PTR0, 0, 64⟩
def DISP_SENT_PTR1 : Nat := 0xf00000050030
def DISP_SENT_PTR1_OX : Fld := ⟨DISP_SENT_PTR1, 0, 64⟩
def DISP_FREE : Nat := 0xf00000050038
def DISP_FREE_MASK : Fld := ⟨DISP_FREE, 0, 64⟩
def DISP_STOP_LIMIT : Nat := 0xf00000050040
def DISP_STOP_LIMIT_TICKS : Fld := ⟨DISP_STOP_LIMIT, 0, 32⟩
def DISP_PLACED : Nat := 0xf00000050044
def DISP_PLACED_COUNT : Fld := ⟨DISP_PLACED, 0, 32⟩
def DISP_SENT_EXPECT (i : Nat) : Nat := 0xf00000050100 + i * 4
def DISP_SENT_EXPECT_CRC (i : Nat) : Fld := ⟨DISP_SENT_EXPECT i, 0, 32⟩
def DISP_SENT_ROUNDS : Nat := 0xf00000050140
def DISP_SENT_ROUNDS_COUNT : Fld := ⟨DISP_SENT_ROUNDS, 0, 32⟩
def DISP_SENT_SIM : Nat := 0xf00000050144
def DISP_SENT_SIM_TEMP : Fld := ⟨DISP_SENT_SIM, 0, 8⟩
def DISP_SENT_SIM_ACT : Fld := ⟨DISP_SENT_SIM, 8, 8⟩
def DISP_COND_CFG : Nat := 0xf00000050148
def DISP_COND_CFG_LOG2_SIZE : Fld := ⟨DISP_COND_CFG, 0, 5⟩
def DISP_COND_BASE : Nat := 0xf00000050150
def DISP_COND_BASE_BASE : Fld := ⟨DISP_COND_BASE, 6, 42⟩
def DISP_COND_WR : Nat := 0xf00000050158
def DISP_COND_WR_COUNT : Fld := ⟨DISP_COND_WR, 0, 64⟩
def DISP_SENT_MISMATCH : Nat := 0xf00000050160
def DISP_SENT_MISMATCH_COUNT : Fld := ⟨DISP_SENT_MISMATCH, 0, 32⟩
def DISP_CAP (i : Nat) : Nat := 0xf00000051000 + i * 8
def DISP_CAP_DATA (i : Nat) : Fld := ⟨DISP_CAP i, 0, 64⟩
def HBM_CTRL (s : Nat) : Nat := 0xf00000200000 + s * 0x10000
def HBM_CTRL_MAINT (s : Nat) : Fld := ⟨HBM_CTRL s, 0, 1⟩
def HBM_STATUS (s : Nat) : Nat := 0xf00000200004 + s * 0x10000
def HBM_STATUS_STATE (s : Nat) : Fld := ⟨HBM_STATUS s, 0, 3⟩
def HBM_STATUS_TRAIN_FAIL (s : Nat) : Fld := ⟨HBM_STATUS s, 8, 1⟩
def HBM_STATUS_LANE_REPAIRED (s : Nat) : Fld := ⟨HBM_STATUS s, 9, 1⟩
def HBM_STATUS_WCB_POISON (s : Nat) : Fld := ⟨HBM_STATUS s, 10, 1⟩
def HBM_PRIO (s : Nat) : Nat := 0xf00000200008 + s * 0x10000
def HBM_PRIO_CLASS0_SHARE (s : Nat) : Fld := ⟨HBM_PRIO s, 0, 7⟩
def HBM_PRIO_W1 (s : Nat) : Fld := ⟨HBM_PRIO s, 8, 4⟩
def HBM_PRIO_W2 (s : Nat) : Fld := ⟨HBM_PRIO s, 12, 4⟩
def HBM_PRIO_W3 (s : Nat) : Fld := ⟨HBM_PRIO s, 16, 4⟩
def HBM_AGE_LIMIT (s : Nat) : Nat := 0xf0000020000c + s * 0x10000
def HBM_AGE_LIMIT_CYCLES (s : Nat) : Fld := ⟨HBM_AGE_LIMIT s, 0, 32⟩
def HBM_SLOTS (s : Nat) : Nat := 0xf00000200010 + s * 0x10000
def HBM_SLOTS_CLASS0_RES (s : Nat) : Fld := ⟨HBM_SLOTS s, 0, 13⟩
def HBM_SLOTS_CLASS1_RES (s : Nat) : Fld := ⟨HBM_SLOTS s, 13, 13⟩
def HBM_WCB_CFG (s : Nat) : Nat := 0xf00000200014 + s * 0x10000
def HBM_WCB_CFG_IDLE_CYCLES (s : Nat) : Fld := ⟨HBM_WCB_CFG s, 0, 8⟩
def HBM_TEMP (s : Nat) : Nat := 0xf00000200018 + s * 0x10000
def HBM_TEMP_NOW (s : Nat) : Fld := ⟨HBM_TEMP s, 0, 8⟩
def HBM_TEMP_PEAK (s : Nat) : Fld := ⟨HBM_TEMP s, 8, 8⟩
def HBM_INFLIGHT (s : Nat) : Nat := 0xf0000020001c + s * 0x10000
def HBM_INFLIGHT_NOW (s : Nat) : Fld := ⟨HBM_INFLIGHT s, 0, 13⟩
def HBM_INFLIGHT_PEAK (s : Nat) : Fld := ⟨HBM_INFLIGHT s, 16, 13⟩
def HBM_RD_LINES (s : Nat) : Nat := 0xf00000200020 + s * 0x10000
def HBM_RD_LINES_COUNT (s : Nat) : Fld := ⟨HBM_RD_LINES s, 0, 64⟩
def HBM_WR_LINES (s : Nat) : Nat := 0xf00000200028 + s * 0x10000
def HBM_WR_LINES_COUNT (s : Nat) : Fld := ⟨HBM_WR_LINES s, 0, 64⟩
def HBM_RMW (s : Nat) : Nat := 0xf00000200030 + s * 0x10000
def HBM_RMW_COUNT (s : Nat) : Fld := ⟨HBM_RMW s, 0, 32⟩
def HBM_WCB_FULLMASK (s : Nat) : Nat := 0xf00000200034 + s * 0x10000
def HBM_WCB_FULLMASK_COUNT (s : Nat) : Fld := ⟨HBM_WCB_FULLMASK s, 0, 32⟩
def HBM_WCB_EVICT (s : Nat) : Nat := 0xf00000200038 + s * 0x10000
def HBM_WCB_EVICT_COUNT (s : Nat) : Fld := ⟨HBM_WCB_EVICT s, 0, 32⟩
def HBM_CLASS0_CAPPED (s : Nat) : Nat := 0xf0000020003c + s * 0x10000
def HBM_CLASS0_CAPPED_COUNT (s : Nat) : Fld := ⟨HBM_CLASS0_CAPPED s, 0, 32⟩
def HBM_AGED (s : Nat) : Nat := 0xf00000200040 + s * 0x10000
def HBM_AGED_COUNT (s : Nat) : Fld := ⟨HBM_AGED s, 0, 32⟩
def HBM_SLOT_WAIT (s : Nat) : Nat := 0xf00000200044 + s * 0x10000
def HBM_SLOT_WAIT_COUNT (s : Nat) : Fld := ⟨HBM_SLOT_WAIT s, 0, 32⟩
def HBM_MAINT_CMD (s : Nat) : Nat := 0xf00000200100 + s * 0x10000
def HBM_MAINT_CMD_OP (s : Nat) : Fld := ⟨HBM_MAINT_CMD s, 0, 4⟩
def HBM_MAINT_CMD_CHANNEL (s : Nat) : Fld := ⟨HBM_MAINT_CMD s, 4, 5⟩
def HBM_MAINT_CMD_PC (s : Nat) : Fld := ⟨HBM_MAINT_CMD s, 9, 1⟩
def HBM_MAINT_STATUS (s : Nat) : Nat := 0xf00000200104 + s * 0x10000
def HBM_MAINT_STATUS_RESULT (s : Nat) : Fld := ⟨HBM_MAINT_STATUS s, 0, 2⟩
def HBM_MAINT_ADDR (s : Nat) : Nat := 0xf00000200108 + s * 0x10000
def HBM_MAINT_ADDR_MR (s : Nat) : Fld := ⟨HBM_MAINT_ADDR s, 0, 8⟩
def HBM_MAINT_ADDR_ROW (s : Nat) : Fld := ⟨HBM_MAINT_ADDR s, 8, 16⟩
def HBM_MAINT_ADDR_BANK (s : Nat) : Fld := ⟨HBM_MAINT_ADDR s, 24, 5⟩
def HBM_MAINT_DATA (s : Nat) : Nat := 0xf00000200110 + s * 0x10000
def HBM_MAINT_DATA_DATA (s : Nat) : Fld := ⟨HBM_MAINT_DATA s, 0, 64⟩
def HBM_LANE (s i : Nat) : Nat := 0xf00000200200 + s * 0x10000 + i * 4
def HBM_LANE_REPAIRED (s i : Nat) : Fld := ⟨HBM_LANE s i, 0, 4⟩
def HBM_LANE_SPARES_LEFT (s i : Nat) : Fld := ⟨HBM_LANE s i, 4, 4⟩
def HBM_LANE_UNREPAIRABLE (s i : Nat) : Fld := ⟨HBM_LANE s i, 8, 1⟩
def HBM_CE_COUNT (s : Nat) : Nat := 0xf00000200300 + s * 0x10000
def HBM_CE_COUNT_COUNT (s : Nat) : Fld := ⟨HBM_CE_COUNT s, 0, 32⟩
def HBM_UE_COUNT (s : Nat) : Nat := 0xf00000200304 + s * 0x10000
def HBM_UE_COUNT_COUNT (s : Nat) : Fld := ⟨HBM_UE_COUNT s, 0, 32⟩
def HBM_POISON_READS (s : Nat) : Nat := 0xf00000200308 + s * 0x10000
def HBM_POISON_READS_COUNT (s : Nat) : Fld := ⟨HBM_POISON_READS s, 0, 32⟩
def HBM_CE_LOST (s : Nat) : Nat := 0xf0000020030c + s * 0x10000
def HBM_CE_LOST_COUNT (s : Nat) : Fld := ⟨HBM_CE_LOST s, 0, 32⟩
def HBM_UE_LOST (s : Nat) : Nat := 0xf00000200310 + s * 0x10000
def HBM_UE_LOST_COUNT (s : Nat) : Fld := ⟨HBM_UE_LOST s, 0, 32⟩
def HBM_SCRUB_CFG (s : Nat) : Nat := 0xf00000200314 + s * 0x10000
def HBM_SCRUB_CFG_EN (s : Nat) : Fld := ⟨HBM_SCRUB_CFG s, 0, 1⟩
def HBM_SCRUB_INTERVAL (s : Nat) : Nat := 0xf00000200318 + s * 0x10000
def HBM_SCRUB_INTERVAL_TICKS (s : Nat) : Fld := ⟨HBM_SCRUB_INTERVAL s, 0, 32⟩
def HBM_SCRUB_POS (s : Nat) : Nat := 0xf0000020031c + s * 0x10000
def HBM_SCRUB_POS_GROUP (s : Nat) : Fld := ⟨HBM_SCRUB_POS s, 0, 23⟩
def HBM_SCRUB_PASSES (s : Nat) : Nat := 0xf00000200320 + s * 0x10000
def HBM_SCRUB_PASSES_COUNT (s : Nat) : Fld := ⟨HBM_SCRUB_PASSES s, 0, 32⟩
def HBM_SCRUB_CURED (s : Nat) : Nat := 0xf00000200324 + s * 0x10000
def HBM_SCRUB_CURED_COUNT (s : Nat) : Fld := ⟨HBM_SCRUB_CURED s, 0, 32⟩
def HBM_SCRUB_SKIPPED (s : Nat) : Nat := 0xf00000200328 + s * 0x10000
def HBM_SCRUB_SKIPPED_COUNT (s : Nat) : Fld := ⟨HBM_SCRUB_SKIPPED s, 0, 32⟩
def HBM_RAS_STATUS (s : Nat) : Nat := 0xf0000020032c + s * 0x10000
def HBM_RAS_STATUS_CE_FULL (s : Nat) : Fld := ⟨HBM_RAS_STATUS s, 0, 1⟩
def HBM_RAS_STATUS_UE_FULL (s : Nat) : Fld := ⟨HBM_RAS_STATUS s, 1, 1⟩
def HBM_RETIRE (s : Nat) : Nat := 0xf00000200330 + s * 0x10000
def HBM_RETIRE_PAGE (s : Nat) : Fld := ⟨HBM_RETIRE s, 0, 16⟩
def HBM_RETIRE_SLOT (s : Nat) : Fld := ⟨HBM_RETIRE s, 16, 9⟩
def HBM_RETIRE_STATUS (s : Nat) : Nat := 0xf00000200334 + s * 0x10000
def HBM_RETIRE_STATUS_RESULT (s : Nat) : Fld := ⟨HBM_RETIRE_STATUS s, 0, 2⟩
def HBM_RETIRE_STATUS_SPARES_LEFT (s : Nat) : Fld := ⟨HBM_RETIRE_STATUS s, 8, 9⟩
def HBM_CE_LOG_W0 (s i : Nat) : Nat := 0xf00000200400 + s * 0x10000 + i * 16
def HBM_CE_LOG_W0_VALID (s i : Nat) : Fld := ⟨HBM_CE_LOG_W0 s i, 0, 1⟩
def HBM_CE_LOG_W0_SOURCE (s i : Nat) : Fld := ⟨HBM_CE_LOG_W0 s i, 1, 2⟩
def HBM_CE_LOG_W0_LINE (s i : Nat) : Fld := ⟨HBM_CE_LOG_W0 s i, 8, 29⟩
def HBM_CE_LOG_W0_COUNT (s i : Nat) : Fld := ⟨HBM_CE_LOG_W0 s i, 48, 16⟩
def HBM_CE_LOG_W1 (s i : Nat) : Nat := 0xf00000200408 + s * 0x10000 + i * 16
def HBM_CE_LOG_W1_FIRST (s i : Nat) : Fld := ⟨HBM_CE_LOG_W1 s i, 0, 32⟩
def HBM_CE_LOG_W1_LAST (s i : Nat) : Fld := ⟨HBM_CE_LOG_W1 s i, 32, 32⟩
def HBM_UE_LOG_W0 (s i : Nat) : Nat := 0xf00000200600 + s * 0x10000 + i * 16
def HBM_UE_LOG_W0_VALID (s i : Nat) : Fld := ⟨HBM_UE_LOG_W0 s i, 0, 1⟩
def HBM_UE_LOG_W0_SOURCE (s i : Nat) : Fld := ⟨HBM_UE_LOG_W0 s i, 1, 2⟩
def HBM_UE_LOG_W0_LINE (s i : Nat) : Fld := ⟨HBM_UE_LOG_W0 s i, 8, 29⟩
def HBM_UE_LOG_W0_COUNT (s i : Nat) : Fld := ⟨HBM_UE_LOG_W0 s i, 48, 16⟩
def HBM_UE_LOG_W1 (s i : Nat) : Nat := 0xf00000200608 + s * 0x10000 + i * 16
def HBM_UE_LOG_W1_FIRST (s i : Nat) : Fld := ⟨HBM_UE_LOG_W1 s i, 0, 32⟩
def HBM_UE_LOG_W1_LAST (s i : Nat) : Fld := ⟨HBM_UE_LOG_W1 s i, 32, 32⟩
def HBM_REMAP (s i : Nat) : Nat := 0xf00000200800 + s * 0x10000 + i * 4
def HBM_REMAP_PAGE (s i : Nat) : Fld := ⟨HBM_REMAP s i, 0, 16⟩
def HBM_REMAP_SLOT (s i : Nat) : Fld := ⟨HBM_REMAP s i, 16, 9⟩
def HBM_REMAP_VALID (s i : Nat) : Fld := ⟨HBM_REMAP s i, 31, 1⟩
def WAGON_CTRL : Nat := 0xf00000060000
def WAGON_CTRL_EN : Fld := ⟨WAGON_CTRL, 0, 1⟩
def WAGON_CTRL_CLASS : Fld := ⟨WAGON_CTRL, 1, 2⟩
def WAGON_STATUS : Nat := 0xf00000060004
def WAGON_STATUS_STATE : Fld := ⟨WAGON_STATUS, 0, 2⟩
def WAGON_STATUS_ACTIVE : Fld := ⟨WAGON_STATUS, 2, 3⟩
def WAGON_STATUS_CFG_ERR : Fld := ⟨WAGON_STATUS, 8, 1⟩
def WAGON_STATUS_MOVE_FAIL : Fld := ⟨WAGON_STATUS, 9, 1⟩
def WAGON_STATUS_HINT_DROP : Fld := ⟨WAGON_STATUS, 10, 1⟩
def WAGON_DEEP_CFG : Nat := 0xf00000060008
def WAGON_DEEP_CFG_PORTS : Fld := ⟨WAGON_DEEP_CFG, 0, 8⟩
def WAGON_DEEP_CFG_PORT_GIB : Fld := ⟨WAGON_DEEP_CFG, 8, 16⟩
def WAGON_DIR_BASE : Nat := 0xf00000060010
def WAGON_DIR_BASE_BASE : Fld := ⟨WAGON_DIR_BASE, 21, 27⟩
def WAGON_POOL_CFG : Nat := 0xf00000060018
def WAGON_POOL_CFG_PER_STACK : Fld := ⟨WAGON_POOL_CFG, 0, 16⟩
def WAGON_POOL_CFG_OFF : Fld := ⟨WAGON_POOL_CFG, 16, 16⟩
def WAGON_EPOCH : Nat := 0xf0000006001c
def WAGON_EPOCH_TICKS : Fld := ⟨WAGON_EPOCH, 0, 32⟩
def WAGON_POLICY : Nat := 0xf00000060020
def WAGON_POLICY_PROMOTE_HEAT : Fld := ⟨WAGON_POLICY, 0, 16⟩
def WAGON_POLICY_FREE_LOW : Fld := ⟨WAGON_POLICY, 16, 16⟩
def WAGON_DEEP_LATE : Nat := 0xf00000060024
def WAGON_DEEP_LATE_TICKS : Fld := ⟨WAGON_DEEP_LATE, 0, 32⟩
def WAGON_DEEP_FAIL : Nat := 0xf00000060028
def WAGON_DEEP_FAIL_TICKS : Fld := ⟨WAGON_DEEP_FAIL, 0, 32⟩
def WAGON_HINT : Nat := 0xf00000060030
def WAGON_HINT_OP : Fld := ⟨WAGON_HINT, 0, 3⟩
def WAGON_HINT_PAGE : Fld := ⟨WAGON_HINT, 21, 31⟩
def WAGON_HINT_COUNT : Fld := ⟨WAGON_HINT, 52, 12⟩
def WAGON_POOL_FREE : Nat := 0xf00000060038
def WAGON_POOL_FREE_COUNT : Fld := ⟨WAGON_POOL_FREE, 0, 32⟩
def WAGON_MOVES : Nat := 0xf0000006003c
def WAGON_MOVES_COUNT : Fld := ⟨WAGON_MOVES, 0, 32⟩
def WAGON_BYTES : Nat := 0xf00000060040
def WAGON_BYTES_COUNT : Fld := ⟨WAGON_BYTES, 0, 64⟩
def WAGON_DISCARDED : Nat := 0xf00000060048
def WAGON_DISCARDED_COUNT : Fld := ⟨WAGON_DISCARDED, 0, 32⟩
def WAGON_MOVE_FAILS : Nat := 0xf0000006004c
def WAGON_MOVE_FAILS_COUNT : Fld := ⟨WAGON_MOVE_FAILS, 0, 32⟩
def WAGON_HINT_DROPS : Nat := 0xf00000060050
def WAGON_HINT_DROPS_COUNT : Fld := ⟨WAGON_HINT_DROPS, 0, 32⟩
def WAGON_LATE_DISCARD : Nat := 0xf00000060054
def WAGON_LATE_DISCARD_COUNT : Fld := ⟨WAGON_LATE_DISCARD, 0, 32⟩
def WAGON_POOL_STACKS : Nat := 0xf00000060058
def WAGON_POOL_STACKS_MASK : Fld := ⟨WAGON_POOL_STACKS, 0, 12⟩
def WAGON_LOST_PAGES : Nat := 0xf0000006005c
def WAGON_LOST_PAGES_COUNT : Fld := ⟨WAGON_LOST_PAGES, 0, 32⟩
def WAGON_RSRC_REQ : Nat := 0xf00000060060
def WAGON_RSRC_REQ_VALID : Fld := ⟨WAGON_RSRC_REQ, 0, 1⟩
def WAGON_RSRC_REQ_PAGE : Fld := ⟨WAGON_RSRC_REQ, 21, 27⟩
def WAGON_RSRC_DONE : Nat := 0xf00000060068
def WAGON_RSRC_DONE_PAGE : Fld := ⟨WAGON_RSRC_DONE, 21, 27⟩
def WAGON_RSRC_LIMIT : Nat := 0xf00000060070
def WAGON_RSRC_LIMIT_TICKS : Fld := ⟨WAGON_RSRC_LIMIT, 0, 32⟩
def WAGON_RSRC_COUNT : Nat := 0xf00000060074
def WAGON_RSRC_COUNT_COUNT : Fld := ⟨WAGON_RSRC_COUNT, 0, 32⟩
def WAGON_RSRC_FAILS : Nat := 0xf00000060078
def WAGON_RSRC_FAILS_COUNT : Fld := ⟨WAGON_RSRC_FAILS, 0, 32⟩
def WAGON_RSRC_QWAIT : Nat := 0xf0000006007c
def WAGON_RSRC_QWAIT_COUNT : Fld := ⟨WAGON_RSRC_QWAIT, 0, 32⟩
def PORT_CTRL (p : Nat) : Nat := 0xf00000400000 + p * 0x10000
def PORT_CTRL_ENABLE (p : Nat) : Fld := ⟨PORT_CTRL p, 0, 1⟩
def PORT_CTRL_RESET (p : Nat) : Fld := ⟨PORT_CTRL p, 1, 1⟩
def PORT_STATUS (p : Nat) : Nat := 0xf00000400004 + p * 0x10000
def PORT_STATUS_STATE (p : Nat) : Fld := ⟨PORT_STATUS p, 0, 3⟩
def PORT_STATUS_TX_LANES (p : Nat) : Fld := ⟨PORT_STATUS p, 8, 5⟩
def PORT_STATUS_RX_LANES (p : Nat) : Fld := ⟨PORT_STATUS p, 13, 5⟩
def PORT_STATUS_TX_SPARES (p : Nat) : Fld := ⟨PORT_STATUS p, 18, 2⟩
def PORT_STATUS_RX_SPARES (p : Nat) : Fld := ⟨PORT_STATUS p, 20, 2⟩
def PORT_STATUS_SWAPPED (p : Nat) : Fld := ⟨PORT_STATUS p, 24, 1⟩
def PORT_STATUS_DROPPED (p : Nat) : Fld := ⟨PORT_STATUS p, 25, 1⟩
def PORT_STATUS_LINK_DOWN (p : Nat) : Fld := ⟨PORT_STATUS p, 26, 1⟩
def PORT_GEN (p : Nat) : Nat := 0xf00000400008 + p * 0x10000
def PORT_GEN_GEN (p : Nat) : Fld := ⟨PORT_GEN p, 0, 16⟩
def PORT_LMAP_TX0 (p : Nat) : Nat := 0xf00000400010 + p * 0x10000
def PORT_LMAP_TX0_LANE (p : Nat) : Fld := ⟨PORT_LMAP_TX0 p, 0, 64⟩
def PORT_LMAP_TX1 (p : Nat) : Nat := 0xf00000400018 + p * 0x10000
def PORT_LMAP_TX1_LANE (p : Nat) : Fld := ⟨PORT_LMAP_TX1 p, 0, 64⟩
def PORT_LMAP_RX0 (p : Nat) : Nat := 0xf00000400020 + p * 0x10000
def PORT_LMAP_RX0_LANE (p : Nat) : Fld := ⟨PORT_LMAP_RX0 p, 0, 64⟩
def PORT_LMAP_RX1 (p : Nat) : Nat := 0xf00000400028 + p * 0x10000
def PORT_LMAP_RX1_LANE (p : Nat) : Fld := ⟨PORT_LMAP_RX1 p, 0, 64⟩
def PORT_WL_TX (p : Nat) : Nat := 0xf00000400030 + p * 0x10000
def PORT_WL_TX_WL (p : Nat) : Fld := ⟨PORT_WL_TX p, 0, 36⟩
def PORT_WL_RX (p : Nat) : Nat := 0xf00000400038 + p * 0x10000
def PORT_WL_RX_WL (p : Nat) : Fld := ⟨PORT_WL_RX p, 0, 36⟩
def PORT_MON_WINDOW (p : Nat) : Nat := 0xf00000400040 + p * 0x10000
def PORT_MON_WINDOW_TICKS (p : Nat) : Fld := ⟨PORT_MON_WINDOW p, 0, 32⟩
def PORT_FEC_LIMIT (p : Nat) : Nat := 0xf00000400044 + p * 0x10000
def PORT_FEC_LIMIT_SYMBOLS (p : Nat) : Fld := ⟨PORT_FEC_LIMIT p, 0, 32⟩
def PORT_RETRY_LIMIT (p : Nat) : Nat := 0xf00000400048 + p * 0x10000
def PORT_RETRY_LIMIT_COUNT (p : Nat) : Fld := ⟨PORT_RETRY_LIMIT p, 0, 8⟩
def PORT_LINK_TIMEOUT (p : Nat) : Nat := 0xf0000040004c + p * 0x10000
def PORT_LINK_TIMEOUT_TICKS (p : Nat) : Fld := ⟨PORT_LINK_TIMEOUT p, 0, 32⟩
def PORT_TX_BYTES (p : Nat) : Nat := 0xf00000400050 + p * 0x10000
def PORT_TX_BYTES_COUNT (p : Nat) : Fld := ⟨PORT_TX_BYTES p, 0, 64⟩
def PORT_RX_BYTES (p : Nat) : Nat := 0xf00000400058 + p * 0x10000
def PORT_RX_BYTES_COUNT (p : Nat) : Fld := ⟨PORT_RX_BYTES p, 0, 64⟩
def PORT_FEC_CORR (p : Nat) : Nat := 0xf00000400060 + p * 0x10000
def PORT_FEC_CORR_COUNT (p : Nat) : Fld := ⟨PORT_FEC_CORR p, 0, 64⟩
def PORT_FEC_UNCORR (p : Nat) : Nat := 0xf00000400068 + p * 0x10000
def PORT_FEC_UNCORR_COUNT (p : Nat) : Fld := ⟨PORT_FEC_UNCORR p, 0, 32⟩
def PORT_CRC_ERRORS (p : Nat) : Nat := 0xf0000040006c + p * 0x10000
def PORT_CRC_ERRORS_COUNT (p : Nat) : Fld := ⟨PORT_CRC_ERRORS p, 0, 32⟩
def PORT_REPLAYS (p : Nat) : Nat := 0xf00000400070 + p * 0x10000
def PORT_REPLAYS_COUNT (p : Nat) : Fld := ⟨PORT_REPLAYS p, 0, 32⟩
def PORT_LINK_DOWNS (p : Nat) : Nat := 0xf00000400074 + p * 0x10000
def PORT_LINK_DOWNS_COUNT (p : Nat) : Fld := ⟨PORT_LINK_DOWNS p, 0, 32⟩
def PORT_SWAPS (p : Nat) : Nat := 0xf00000400078 + p * 0x10000
def PORT_SWAPS_COUNT (p : Nat) : Fld := ⟨PORT_SWAPS p, 0, 32⟩
def PORT_DROPS (p : Nat) : Nat := 0xf0000040007c + p * 0x10000
def PORT_DROPS_COUNT (p : Nat) : Fld := ⟨PORT_DROPS p, 0, 32⟩
def PORT_UNROUTABLE (p : Nat) : Nat := 0xf00000400080 + p * 0x10000
def PORT_UNROUTABLE_COUNT (p : Nat) : Fld := ⟨PORT_UNROUTABLE p, 0, 32⟩
def PORT_WL_CORR (p i : Nat) : Nat := 0xf00000400100 + p * 0x10000 + i * 4
def PORT_WL_CORR_COUNT (p i : Nat) : Fld := ⟨PORT_WL_CORR p i, 0, 32⟩
def CHAIN_STATUS : Nat := 0xf00000030000
def CHAIN_STATUS_IN_UP : Fld := ⟨CHAIN_STATUS, 0, 1⟩
def CHAIN_STATUS_OUT_UP : Fld := ⟨CHAIN_STATUS, 1, 1⟩
def CHAIN_STATUS_HEAD : Fld := ⟨CHAIN_STATUS, 2, 1⟩
def CHAIN_STATUS_OVERLONG : Fld := ⟨CHAIN_STATUS, 8, 1⟩
def CHAIN_STATUS_LATE_UPSTREAM : Fld := ⟨CHAIN_STATUS, 9, 1⟩
def CHAIN_STATUS_LINK_LOST : Fld := ⟨CHAIN_STATUS, 10, 1⟩
def CHAIN_ADDR : Nat := 0xf00000030004
def CHAIN_ADDR_ADDRESS : Fld := ⟨CHAIN_ADDR, 0, 6⟩
def CHAIN_START : Nat := 0xf00000030008
def CHAIN_START_PHASE : Fld := ⟨CHAIN_START, 0, 4⟩
def CHAIN_START_MODE : Fld := ⟨CHAIN_START, 4, 2⟩
def CHAIN_START_FW_FALLBACK : Fld := ⟨CHAIN_START, 6, 1⟩
def CHAIN_START_CFG_SLOT : Fld := ⟨CHAIN_START, 7, 1⟩
def CHAIN_STAGE_BASE : Nat := 0xf00000030010
def CHAIN_STAGE_BASE_BASE : Fld := ⟨CHAIN_STAGE_BASE, 21, 27⟩
def CHAIN_XFER_STATUS : Nat := 0xf00000030018
def CHAIN_XFER_STATUS_RESULT : Fld := ⟨CHAIN_XFER_STATUS, 0, 4⟩
def CHAIN_XFER_STATUS_KIND : Fld := ⟨CHAIN_XFER_STATUS, 4, 3⟩
def CHAIN_XFER_STATUS_VALID : Fld := ⟨CHAIN_XFER_STATUS, 7, 1⟩
def CHAIN_FW_INFO : Nat := 0xf0000003001c
def CHAIN_FW_INFO_ACTIVE : Fld := ⟨CHAIN_FW_INFO, 0, 1⟩
def CHAIN_FW_INFO_ARMED : Fld := ⟨CHAIN_FW_INFO, 1, 1⟩
def CHAIN_FW_INFO_SAVE_COMPAT : Fld := ⟨CHAIN_FW_INFO, 16, 16⟩
def CHAIN_ACT_TICK : Nat := 0xf00000030020
def CHAIN_ACT_TICK_TICK : Fld := ⟨CHAIN_ACT_TICK, 0, 64⟩
def CHAIN_FW_SERIAL : Nat := 0xf00000030028
def CHAIN_FW_SERIAL_SERIAL : Fld := ⟨CHAIN_FW_SERIAL, 0, 64⟩
def CHAIN_FW_FLOOR : Nat := 0xf00000030030
def CHAIN_FW_FLOOR_SERIAL : Fld := ⟨CHAIN_FW_FLOOR, 0, 64⟩
def CHAIN_FRAMES_TX : Nat := 0xf00000030038
def CHAIN_FRAMES_TX_COUNT : Fld := ⟨CHAIN_FRAMES_TX, 0, 32⟩
def CHAIN_FRAMES_RX : Nat := 0xf0000003003c
def CHAIN_FRAMES_RX_COUNT : Fld := ⟨CHAIN_FRAMES_RX, 0, 32⟩
def CHAIN_CRC_ERRORS : Nat := 0xf00000030040
def CHAIN_CRC_ERRORS_COUNT : Fld := ⟨CHAIN_CRC_ERRORS, 0, 32⟩
def CHAIN_RETRIES : Nat := 0xf00000030044
def CHAIN_RETRIES_COUNT : Fld := ⟨CHAIN_RETRIES, 0, 32⟩
def CHAIN_HISTORY_BAD : Nat := 0xf00000030048
def CHAIN_HISTORY_BAD_COUNT : Fld := ⟨CHAIN_HISTORY_BAD, 0, 32⟩
def RESET_REQ : Nat := 0xf00000010000
def RESET_REQ_DOMAIN : Fld := ⟨RESET_REQ, 0, 4⟩
def RESET_REQ_UNIT : Fld := ⟨RESET_REQ, 4, 9⟩
def RESET_STATUS : Nat := 0xf00000010004
def RESET_STATUS_BUSY : Fld := ⟨RESET_STATUS, 0, 1⟩
def RESET_STATUS_ESCALATED : Fld := ⟨RESET_STATUS, 8, 1⟩
def RESET_STATUS_REFUSE_FAIL : Fld := ⟨RESET_STATUS, 9, 1⟩
def RESET_STATUS_BAD_UNIT : Fld := ⟨RESET_STATUS, 10, 1⟩
def RESET_PROGRESS_WINDOW : Nat := 0xf00000010008
def RESET_PROGRESS_WINDOW_TICKS : Fld := ⟨RESET_PROGRESS_WINDOW, 0, 32⟩
def RESET_REFUSE_LIMIT : Nat := 0xf0000001000c
def RESET_REFUSE_LIMIT_TICKS : Fld := ⟨RESET_REFUSE_LIMIT, 0, 32⟩
def RESET_TR_BASE : Nat := 0xf00000010010
def RESET_TR_BASE_BASE : Fld := ⟨RESET_TR_BASE, 6, 42⟩
def RESET_TR_CFG : Nat := 0xf00000010018
def RESET_TR_CFG_EN : Fld := ⟨RESET_TR_CFG, 0, 1⟩
def RESET_TR_CFG_LOG2_SIZE : Fld := ⟨RESET_TR_CFG, 1, 5⟩
def RESET_TR_WR : Nat := 0xf00000010020
def RESET_TR_WR_COUNT : Fld := ⟨RESET_TR_WR, 0, 64⟩
def RESET_HANGS : Nat := 0xf00000010028
def RESET_HANGS_COUNT : Fld := ⟨RESET_HANGS, 0, 32⟩
def RESET_COALESCED : Nat := 0xf0000001002c
def RESET_COALESCED_COUNT : Fld := ⟨RESET_COALESCED, 0, 32⟩
def RESET_ESCALATIONS : Nat := 0xf00000010030
def RESET_ESCALATIONS_COUNT : Fld := ⟨RESET_ESCALATIONS, 0, 32⟩
def RESET_REFUSALS : Nat := 0xf00000010034
def RESET_REFUSALS_COUNT : Fld := ⟨RESET_REFUSALS, 0, 32⟩
def RESET_STALE_REPLIES : Nat := 0xf00000010038
def RESET_STALE_REPLIES_COUNT : Fld := ⟨RESET_STALE_REPLIES, 0, 32⟩
def RESET_GEN_OX (i : Nat) : Nat := 0xf00000011000 + i * 4
def RESET_GEN_OX_GEN (i : Nat) : Fld := ⟨RESET_GEN_OX i, 0, 16⟩
def RESET_GEN_OX_RESETTING (i : Nat) : Fld := ⟨RESET_GEN_OX i, 16, 1⟩
def RESET_GEN_CORE (i : Nat) : Nat := 0xf00000011400 + i * 4
def RESET_GEN_CORE_GEN (i : Nat) : Fld := ⟨RESET_GEN_CORE i, 0, 16⟩
def RESET_GEN_CORE_RESETTING (i : Nat) : Fld := ⟨RESET_GEN_CORE i, 16, 1⟩
def RESET_GEN_CTX (i : Nat) : Nat := 0xf00000011500 + i * 4
def RESET_GEN_CTX_GEN (i : Nat) : Fld := ⟨RESET_GEN_CTX i, 0, 16⟩
def RESET_GEN_CTX_RESETTING (i : Nat) : Fld := ⟨RESET_GEN_CTX i, 16, 1⟩
def RESET_GEN_IOD (i : Nat) : Nat := 0xf00000011540 + i * 4
def RESET_GEN_IOD_GEN (i : Nat) : Fld := ⟨RESET_GEN_IOD i, 0, 16⟩
def RESET_GEN_IOD_RESETTING (i : Nat) : Fld := ⟨RESET_GEN_IOD i, 16, 1⟩
def RESET_GEN_STACK (i : Nat) : Nat := 0xf00000011550 + i * 4
def RESET_GEN_STACK_GEN (i : Nat) : Fld := ⟨RESET_GEN_STACK i, 0, 16⟩
def RESET_GEN_STACK_RESETTING (i : Nat) : Fld := ⟨RESET_GEN_STACK i, 16, 1⟩
def RESET_GEN_DIE (i : Nat) : Nat := 0xf00000011580 + i * 4
def RESET_GEN_DIE_GEN (i : Nat) : Fld := ⟨RESET_GEN_DIE i, 0, 16⟩
def RESET_GEN_DIE_RESETTING (i : Nat) : Fld := ⟨RESET_GEN_DIE i, 16, 1⟩
def RESET_GEN_DEVICE : Nat := 0xf00000011588
def RESET_GEN_DEVICE_GEN : Fld := ⟨RESET_GEN_DEVICE, 0, 16⟩
def RESET_GEN_DEVICE_RESETTING : Fld := ⟨RESET_GEN_DEVICE, 16, 1⟩
def PWR_STATUS : Nat := 0xf00000020000
def PWR_STATUS_TRIPPED : Fld := ⟨PWR_STATUS, 0, 1⟩
def PWR_STATUS_THERMAL_TRIP : Fld := ⟨PWR_STATUS, 8, 1⟩
def PWR_STATUS_POWER_TRIP : Fld := ⟨PWR_STATUS, 9, 1⟩
def PWR_STATUS_RAIL_FAULT : Fld := ⟨PWR_STATUS, 10, 1⟩
def PWR_STATUS_THROTTLED : Fld := ⟨PWR_STATUS, 11, 1⟩
def PWR_STATUS_HBM_LOST : Fld := ⟨PWR_STATUS, 12, 1⟩
def PWR_LIMIT : Nat := 0xf00000020004
def PWR_LIMIT_WATTS : Fld := ⟨PWR_LIMIT, 0, 16⟩
def PWR_WINDOW : Nat := 0xf00000020008
def PWR_WINDOW_TICKS : Fld := ⟨PWR_WINDOW, 0, 32⟩
def PWR_THROTTLE : Nat := 0xf0000002000c
def PWR_THROTTLE_LEVEL : Fld := ⟨PWR_THROTTLE, 0, 2⟩
def PWR_POWER_NOW : Nat := 0xf00000020010
def PWR_POWER_NOW_WATTS : Fld := ⟨PWR_POWER_NOW, 0, 16⟩
def PWR_POWER_AVG : Nat := 0xf00000020014
def PWR_POWER_AVG_WATTS : Fld := ⟨PWR_POWER_AVG, 0, 16⟩
def PWR_TRIP_TJ : Nat := 0xf00000020018
def PWR_TRIP_TJ_CELSIUS : Fld := ⟨PWR_TRIP_TJ, 0, 8⟩
def PWR_TRIP_HBM : Nat := 0xf0000002001c
def PWR_TRIP_HBM_CELSIUS : Fld := ⟨PWR_TRIP_HBM, 0, 8⟩
def PWR_TRIP_INFO : Nat := 0xf00000020020
def PWR_TRIP_INFO_CODE : Fld := ⟨PWR_TRIP_INFO, 0, 3⟩
def PWR_TRIP_INFO_UNIT : Fld := ⟨PWR_TRIP_INFO, 8, 8⟩
def PWR_TRIP_INFO_READING : Fld := ⟨PWR_TRIP_INFO, 16, 16⟩
def PWR_THROTTLE_WINDOWS : Nat := 0xf00000020024
def PWR_THROTTLE_WINDOWS_COUNT : Fld := ⟨PWR_THROTTLE_WINDOWS, 0, 32⟩
def PWR_RAIL (i : Nat) : Nat := 0xf00000020100 + i * 4
def PWR_RAIL_MILLIVOLTS (i : Nat) : Fld := ⟨PWR_RAIL i, 0, 16⟩
def PWR_RAIL_AMPS (i : Nat) : Fld := ⟨PWR_RAIL i, 16, 16⟩
def CXL_CTRL (x : Nat) : Nat := 0xf00000600000 + x * 0x10000
def CXL_CTRL_ENABLE (x : Nat) : Fld := ⟨CXL_CTRL x, 0, 1⟩
def CXL_STATUS (x : Nat) : Nat := 0xf00000600004 + x * 0x10000
def CXL_STATUS_STATE (x : Nat) : Fld := ⟨CXL_STATUS x, 0, 3⟩
def CXL_STATUS_WIDTH (x : Nat) : Fld := ⟨CXL_STATUS x, 8, 5⟩
def CXL_STATUS_RATE (x : Nat) : Fld := ⟨CXL_STATUS x, 13, 2⟩
def CXL_STATUS_LINK_DOWN (x : Nat) : Fld := ⟨CXL_STATUS x, 16, 1⟩
def CXL_STATUS_POISON_IN (x : Nat) : Fld := ⟨CXL_STATUS x, 17, 1⟩
def CXL_CAP_GIB (x : Nat) : Nat := 0xf00000600008 + x * 0x10000
def CXL_CAP_GIB_GIB (x : Nat) : Fld := ⟨CXL_CAP_GIB x, 0, 32⟩
def CXL_RD_LINES (x : Nat) : Nat := 0xf00000600010 + x * 0x10000
def CXL_RD_LINES_COUNT (x : Nat) : Fld := ⟨CXL_RD_LINES x, 0, 64⟩
def CXL_WR_LINES (x : Nat) : Nat := 0xf00000600018 + x * 0x10000
def CXL_WR_LINES_COUNT (x : Nat) : Fld := ⟨CXL_WR_LINES x, 0, 64⟩
def CXL_LATE (x : Nat) : Nat := 0xf00000600020 + x * 0x10000
def CXL_LATE_COUNT (x : Nat) : Fld := ⟨CXL_LATE x, 0, 32⟩
def CXL_FAILED (x : Nat) : Nat := 0xf00000600024 + x * 0x10000
def CXL_FAILED_COUNT (x : Nat) : Fld := ⟨CXL_FAILED x, 0, 32⟩
def CXL_POISONED (x : Nat) : Nat := 0xf00000600028 + x * 0x10000
def CXL_POISONED_COUNT (x : Nat) : Fld := ⟨CXL_POISONED x, 0, 32⟩
def CXL_RETRAINS (x : Nat) : Nat := 0xf0000060002c + x * 0x10000
def CXL_RETRAINS_COUNT (x : Nat) : Fld := ⟨CXL_RETRAINS x, 0, 32⟩
def PORT_NODE : Nat := 0xf00000408000
def PORT_NODE_NODE : Fld := ⟨PORT_NODE, 0, 18⟩
def PORT_ROUTE_CTRL : Nat := 0xf00000408004
def PORT_ROUTE_CTRL_NEXT : Fld := ⟨PORT_ROUTE_CTRL, 0, 2⟩
def PORT_ROUTE_CTRL_ARM : Fld := ⟨PORT_ROUTE_CTRL, 2, 1⟩
def PORT_SWITCH_AT : Nat := 0xf00000408008
def PORT_SWITCH_AT_TICK : Fld := ⟨PORT_SWITCH_AT, 0, 64⟩
def PORT_ROUTE_STATUS : Nat := 0xf00000408010
def PORT_ROUTE_STATUS_CURRENT : Fld := ⟨PORT_ROUTE_STATUS, 0, 2⟩
def PORT_ROUTE_STATUS_ARMED : Fld := ⟨PORT_ROUTE_STATUS, 2, 1⟩
def PORT_ROUTE_STATUS_PAGE_BUSY : Fld := ⟨PORT_ROUTE_STATUS, 8, 1⟩
def PORT_PAGE_INFLIGHT : Nat := 0xf00000408014
def PORT_PAGE_INFLIGHT_COUNT_0 : Fld := ⟨PORT_PAGE_INFLIGHT, 0, 8⟩
def PORT_PAGE_INFLIGHT_COUNT_1 : Fld := ⟨PORT_PAGE_INFLIGHT, 8, 8⟩
def PORT_PAGE_INFLIGHT_COUNT_2 : Fld := ⟨PORT_PAGE_INFLIGHT, 16, 8⟩
def PORT_PAGE_INFLIGHT_COUNT_3 : Fld := ⟨PORT_PAGE_INFLIGHT, 24, 8⟩
def PORT_VC_WEIGHT : Nat := 0xf00000408018
def PORT_VC_WEIGHT_W_1 : Fld := ⟨PORT_VC_WEIGHT, 0, 4⟩
def PORT_VC_WEIGHT_W_2 : Fld := ⟨PORT_VC_WEIGHT, 4, 4⟩
def PORT_VC_WEIGHT_W_3 : Fld := ⟨PORT_VC_WEIGHT, 8, 4⟩
def PORT_VC_WEIGHT_W_4 : Fld := ⟨PORT_VC_WEIGHT, 12, 4⟩
def PORT_VC_WEIGHT_W_5 : Fld := ⟨PORT_VC_WEIGHT, 16, 4⟩
def PORT_E2E_TIMEOUT : Nat := 0xf0000040801c
def PORT_E2E_TIMEOUT_TICKS : Fld := ⟨PORT_E2E_TIMEOUT, 0, 32⟩
def PORT_XFER_RING : Nat := 0xf00000408020
def PORT_XFER_RING_EN : Fld := ⟨PORT_XFER_RING, 0, 1⟩
def PORT_XFER_RING_LOG2_SIZE : Fld := ⟨PORT_XFER_RING, 1, 5⟩
def PORT_XFER_RING_BASE : Fld := ⟨PORT_XFER_RING, 10, 38⟩
def PORT_XFER_CFG : Nat := 0xf00000408028
def PORT_XFER_CFG_CLASS : Fld := ⟨PORT_XFER_CFG, 0, 2⟩
def PORT_XFER_CFG_CFG_REJECT : Fld := ⟨PORT_XFER_CFG, 2, 1⟩
def PORT_RTS_DROPS : Nat := 0xf0000040802c
def PORT_RTS_DROPS_COUNT : Fld := ⟨PORT_RTS_DROPS, 0, 32⟩
def PORT_ROUTE0 (i : Nat) : Nat := 0xf00000409000 + i * 8
def PORT_ROUTE0_ENTRY0 (i : Nat) : Fld := ⟨PORT_ROUTE0 i, 0, 16⟩
def PORT_ROUTE0_ENTRY1 (i : Nat) : Fld := ⟨PORT_ROUTE0 i, 16, 16⟩
def PORT_ROUTE0_ENTRY2 (i : Nat) : Fld := ⟨PORT_ROUTE0 i, 32, 16⟩
def PORT_ROUTE0_ENTRY3 (i : Nat) : Fld := ⟨PORT_ROUTE0 i, 48, 16⟩
def PORT_MCAST (i : Nat) : Nat := 0xf0000040d000 + i * 8
def PORT_MCAST_ENTRY (i : Nat) : Fld := ⟨PORT_MCAST i, 0, 64⟩
def PORT_ROUTE1 (i : Nat) : Nat := 0xf0000040a000 + i * 8
def PORT_ROUTE1_ENTRY0 (i : Nat) : Fld := ⟨PORT_ROUTE1 i, 0, 16⟩
def PORT_ROUTE1_ENTRY1 (i : Nat) : Fld := ⟨PORT_ROUTE1 i, 16, 16⟩
def PORT_ROUTE1_ENTRY2 (i : Nat) : Fld := ⟨PORT_ROUTE1 i, 32, 16⟩
def PORT_ROUTE1_ENTRY3 (i : Nat) : Fld := ⟨PORT_ROUTE1 i, 48, 16⟩
def PORT_ROUTE2 (i : Nat) : Nat := 0xf0000040b000 + i * 8
def PORT_ROUTE2_ENTRY0 (i : Nat) : Fld := ⟨PORT_ROUTE2 i, 0, 16⟩
def PORT_ROUTE2_ENTRY1 (i : Nat) : Fld := ⟨PORT_ROUTE2 i, 16, 16⟩
def PORT_ROUTE2_ENTRY2 (i : Nat) : Fld := ⟨PORT_ROUTE2 i, 32, 16⟩
def PORT_ROUTE2_ENTRY3 (i : Nat) : Fld := ⟨PORT_ROUTE2 i, 48, 16⟩
def PORT_ROUTE3 (i : Nat) : Nat := 0xf0000040c000 + i * 8
def PORT_ROUTE3_ENTRY0 (i : Nat) : Fld := ⟨PORT_ROUTE3 i, 0, 16⟩
def PORT_ROUTE3_ENTRY1 (i : Nat) : Fld := ⟨PORT_ROUTE3 i, 16, 16⟩
def PORT_ROUTE3_ENTRY2 (i : Nat) : Fld := ⟨PORT_ROUTE3 i, 32, 16⟩
def PORT_ROUTE3_ENTRY3 (i : Nat) : Fld := ⟨PORT_ROUTE3 i, 48, 16⟩
def SEC_STATUS : Nat := 0xf00000040000
def SEC_STATUS_IDENTITY : Fld := ⟨SEC_STATUS, 0, 2⟩
def SEC_STATUS_VERIFY_FAIL : Fld := ⟨SEC_STATUS, 8, 1⟩
def SEC_STATUS_VERIFY_OVF : Fld := ⟨SEC_STATUS, 9, 1⟩
def SEC_FP_DIST : Nat := 0xf00000040004
def SEC_FP_DIST_DIST : Fld := ⟨SEC_FP_DIST, 0, 12⟩
def SEC_DEVICE_ID0 : Nat := 0xf00000040008
def SEC_DEVICE_ID0_ID : Fld := ⟨SEC_DEVICE_ID0, 0, 64⟩
def SEC_DEVICE_ID1 : Nat := 0xf00000040010
def SEC_DEVICE_ID1_ID : Fld := ⟨SEC_DEVICE_ID1, 0, 64⟩
def SEC_KEY_CMD : Nat := 0xf00000040020
def SEC_KEY_CMD_CTX : Fld := ⟨SEC_KEY_CMD, 0, 4⟩
def SEC_KEY_CMD_GO : Fld := ⟨SEC_KEY_CMD, 4, 1⟩
def SEC_KEY_CMD_ERASE : Fld := ⟨SEC_KEY_CMD, 5, 1⟩
def SEC_KEY_SRC : Nat := 0xf00000040028
def SEC_KEY_SRC_ADDR : Fld := ⟨SEC_KEY_SRC, 8, 40⟩
def SEC_KEY_STATUS : Nat := 0xf00000040030
def SEC_KEY_STATUS_RESULT : Fld := ⟨SEC_KEY_STATUS, 0, 4⟩
def SEC_KEY_LOADED : Nat := 0xf00000040034
def SEC_KEY_LOADED_MASK : Fld := ⟨SEC_KEY_LOADED, 0, 16⟩
def SEC_VERIFY_FIRST : Nat := 0xf00000040040
def SEC_VERIFY_FIRST_LINE : Fld := ⟨SEC_VERIFY_FIRST, 0, 40⟩
def SEC_VERIFY_COUNT : Nat := 0xf00000040048
def SEC_VERIFY_COUNT_LINES : Fld := ⟨SEC_VERIFY_COUNT, 0, 40⟩
def SEC_VERIFY_CMD : Nat := 0xf00000040050
def SEC_VERIFY_CMD_CTX : Fld := ⟨SEC_VERIFY_CMD, 0, 4⟩
def SEC_VERIFY_CMD_ENTRY : Fld := ⟨SEC_VERIFY_CMD, 4, 4⟩
def SEC_VERIFY_STATUS : Nat := 0xf00000040054
def SEC_VERIFY_STATUS_QUEUED : Fld := ⟨SEC_VERIFY_STATUS, 0, 5⟩
def SEC_VERIFY_DONE : Nat := 0xf00000040058
def SEC_VERIFY_DONE_CTX : Fld := ⟨SEC_VERIFY_DONE, 0, 4⟩
def SEC_VERIFY_DONE_ENTRY : Fld := ⟨SEC_VERIFY_DONE, 4, 4⟩
def SEC_VERIFY_DONE_VALID : Fld := ⟨SEC_VERIFY_DONE, 8, 1⟩
def SEC_VERIFY_DONE_FAIL : Fld := ⟨SEC_VERIFY_DONE, 9, 1⟩
def SEC_VERIFY_DONE_FIRST_BAD : Fld := ⟨SEC_VERIFY_DONE, 16, 40⟩
def SEC_VERIFY_DONE_BAD : Fld := ⟨SEC_VERIFY_DONE, 56, 8⟩
def SEC_VERIFY_LINES : Nat := 0xf00000040060
def SEC_VERIFY_LINES_COUNT : Fld := ⟨SEC_VERIFY_LINES, 0, 64⟩
def SEC_VERIFY_FAILS : Nat := 0xf00000040068
def SEC_VERIFY_FAILS_COUNT : Fld := ⟨SEC_VERIFY_FAILS, 0, 32⟩

end Sys2Proof.Machine
end

