-- ==== Sys2Proof/Machine/State.lean ====
section
/-!
DEFINITION. Machine/State.lean: everything the spec gives the block, as plain data, and the state after reset. The
registers are one sparse map from their addresses, with Machine/Regs.lean giving every register's reset value; what
the registers do not hold stands in the structures below.
-/

namespace Sys2Proof.Machine

/-! ## The tick's source (01_tick_and_islands.md) -/

/-- Consecutive missing edges, the holdover's length, whether UNALIGNED was set in it (R22-R24), whether a count is to be
loaded at the next tick frame (R608), whether the running count outlasts the start under way (a warm reset of the tick
master), the ranks of the events taken at this tick, the microseconds since the PTP epoch as the latest start found them for
its load and the ticks since have counted them on (R19), and whether the device slews its tick to an upstream tick that has returned (R26). -/
structure TimeSt where
  missing : Nat
  holdLen : Nat
  unaligned : Bool
  load : Bool
  keep : Bool
  ranks : List Nat
  ptp : Nat
  slew : Bool
  deriving DecidableEq, Repr

def TimeSt.start : TimeSt := ⟨0, 0, false, false, false, [], 0, false⟩

/-- What left the block at its boundary. -/
inductive OutMsg where
  /-- The value a register read returned to its requester. -/
  | regValue (addr value : Nat)
  /-- Bytes a read returned, and whether they carried poison. -/
  | bytes (addr : Nat) (bs : List Byte) (poison : Bool)
  /-- A request that was answered with an error status (R7, R687). -/
  | errorStatus (addr : Nat)
  /-- A reset refusal with its generation (R660). -/
  | refusal (addr gen : Nat)
  /-- A context's access that was not performed because its context faults. -/
  | notPerformed (addr : Nat)
  /-- A Collie's interrupt was raised. -/
  | collieIrq (core collie : Nat)
  /-- A packet sent on a port with its LSEQ (R511). -/
  | packet (port lseq : Nat) (p : Packet)
  /-- A request of a replay from an LSEQ (R512). -/
  | replayRequest (port lseq : Nat)
  /-- A cumulative acknowledgement of every packet up to an LSEQ (R513). -/
  | linkAck (port lseq : Nat)
  /-- The messages of a swap (Table 12.3); no spare: a drop. -/
  | swapReq (port lane : Nat) (spare : Option Nat)
  | swapAck (port : Nat)
  | swapGo (port : Nat)
  | marker (port : Nat)
  /-- A reply over a UCIe module: TAG, STATUS, GEN and bytes (Table 16.7). -/
  | linkReply (module : Bool) (tag status gen : Nat) (bs : List Byte)
  /-- A frame sent on the chain's OUT or IN link, with its HSEQ (R600). -/
  | chain (out : Bool) (hseq : Nat) (f : Frame)
  /-- A chain message handed to control-die firmware (Table 14.2, MGMT). -/
  | chainMgmt (f : Frame)
  /-- An attestation report (R594). -/
  | report (bs : List Byte)
  /-- An Ethernet frame received or sent on E0 or E1, with its hardware timestamp if it is an event message (R690). -/
  | ethernet (port rx : Bool) (bs : List Byte) (stamp : Option Nat)
  /-- A test-port instruction of a stack (Table 9.9). -/
  | testPort (stack instr data : Nat)
  /-- A trouble or condition record that reached the control die (R651, R486). -/
  | record (bs : List Byte)
  /-- The pulse of the tick pair of OUT at a tick edge, by its width in ns (R607). -/
  | tickPulse (ns : Nat)
  /-- A management packet handed to control-die firmware (R508). -/
  | mgmt (p : Packet)
  deriving DecidableEq, Repr

/-! ## Parts (R1, Table 0.1) -/

/-- The three assemblies. -/
inductive Part where
  | ty4180 | ty4181 | ty4182
  deriving DecidableEq, Repr

/-! ## The Oxen (02_ox_and_yoke.md) -/

/-- A pass descriptor: its four words (Table 2.2). -/
structure PassD where
  w0 : Nat
  w1 : Nat
  w2 : Nat
  w3 : Nat
  deriving DecidableEq, Repr

/-- A queued pass, whether its check at the head of the queue has been made (R59), and whether the loader has read its
stationary tile into the shadow half (R67, Table 7.7). -/
structure QPass where
  d : PassD
  checked : Bool
  loaded : Bool
  deriving DecidableEq, Repr

/-- One Yoke row: its segment, its number in the segment, its request tag with the tag's poison, its E8S scale code and
its elements. -/
structure YRow where
  seg : Nat
  idx : Nat
  tag : Elem
  scale : Nat
  elems : List Elem
  deriving DecidableEq, Repr

/-- A column register with the poison of the operands it has taken. -/
structure ColP where
  col : Col
  poison : Bool
  deriving DecidableEq, Repr

/-- The results of one Yoke row of a WS or IS pass, one column register per active column. -/
structure OutRow where
  tag : Elem
  cols : List ColP
  deriving DecidableEq, Repr

/-- A rounded row of results on its way to the Mule. -/
structure OutFp where
  tag : Elem
  vals : List FpP
  deriving DecidableEq, Repr

/-- Where a DRAIN stream's tensor places the results of a pass's group (R163, R296). -/
structure DrainAt where
  row : Nat
  col : Nat
  len : Nat
  deriving DecidableEq, Repr

/-- A pass whose first Yoke row has entered the array: the rows taken, the rows of results that the Mule has been given
(DEST = 1, R183), the finished row results (WS, IS), the cell sums (OS), and the Ox slot it runs in with its group's place
in the output tensor. -/
structure RunPass where
  d : PassD
  taken : Nat
  given : Nat
  out : List OutRow
  sums : List (List ColP)
  slot : Nat
  at? : Option DrainAt
  deriving DecidableEq, Repr

/-- A logical row of a weight buffer half: its operands, their format and the per-column scale codes. -/
structure TRow where
  fmt : Nat
  elems : List Elem
  scales : List Nat
  deriving DecidableEq, Repr

/-- One half of a weight buffer, logical row 0 first; what is not listed is zero. -/
abbrev Tile := List TRow

/-- A Yoke row issued to an Ox that has not taken it: it stands in the side buffer (R82), or the feeder reads it again
(R84). -/
structure LagRow where
  row : YRow
  stored : Bool
  deriving DecidableEq, Repr

/-- An Ox beyond its registers: queue, passes, weight buffer halves, the rows by which it lags in issue order (R82-R85),
flags. -/
structure Ox where
  queue : List QPass
  run : Option RunPass
  drain : List RunPass
  live : Tile
  shadow : Tile
  liveRec : PassD
  lag : List LagRow
  detached : Bool
  holding : Bool
  deriving DecidableEq, Repr

/-- The descriptor of no pass. -/
def PassD.zero : PassD := ⟨0, 0, 0, 0⟩

/-- An Ox that holds nothing. -/
def Ox.idle : Ox := ⟨[], none, [], [], [], .zero, [], false, false⟩

/-! ## A core (02, 05, 06, 07, 08, 15) -/

/-- A Yoke segment: its header (R291) and the rows not yet issued. -/
structure Seg where
  num : Nat
  mode : Nat
  mask : Nat
  tags : Bool
  fmt : Nat
  total : Nat
  lastTile : Nat
  rows : List YRow
  deriving DecidableEq, Repr

/-- A hand-off of a COLLIE stream (R302), and whether a read of CQ has removed it from the queue. -/
structure Handoff where
  slot : Nat
  tile : Nat
  row : Nat
  col : Nat
  arg : Nat
  taken : Bool
  deriving DecidableEq, Repr

/-- A closed span waiting for REDUCE (R299): whether of the COL slots, its index among the spans of its axis, and the
finished vector of each enabled slot of that axis. -/
structure SpanVec where
  col : Bool
  index : Nat
  vecs : List (Nat × List FpP)
  deriving DecidableEq, Repr

/-- A request of the control die that waits for its reply (R687), with the reply it will get. -/
structure LinkReq where
  module : Bool
  tag : Nat
  write : Bool
  status : Nat
  gen : Nat
  bs : List Byte
  deriving DecidableEq, Repr

/-- A write to a Mule program or table held under R187: its register, its value, and the request of the die link that
waits for it. -/
structure MuleHeld where
  reg : Nat
  value : Nat
  ack : Option LinkReq
  deriving DecidableEq, Repr

/-- The Mule between tiles: the program with a tile under way, the open spans' per-tile results slot by slot, their
program and shape, spans closed of the ROW and of the COL slots, closed spans waiting, writes held under R187, and the
rows of IN0 that a begun tile takes as the drains deliver them (R183). -/
structure MuleSt where
  busy : Option Nat
  prog : Nat
  parts : List (List (List FpP))
  spanR : Nat
  spanW : Nat
  rowSpans : Nat
  colSpans : Nat
  closed : List SpanVec
  held : List MuleHeld
  takes : Nat
  deriving DecidableEq, Repr

def MuleSt.idle : MuleSt := ⟨none, 0, [[], [], [], []], 0, 0, 0, 0, [], [], 0⟩

/-- A window access that waits for a bank to wake (R235): who made it, its address, the bank, the offset in it, its length, what it
writes, and the request of the die link that waits for its reply. -/
structure WinReq where
  who : Who
  addr : Nat
  bank : Nat
  off : Nat
  len : Nat
  data : Option (List Byte)
  ack : Option LinkReq
  deriving DecidableEq, Repr

/-- An access of the core's own units that waits for a bank to wake (R235): its unit (a stream slot, 16 + k for the start of
a pass of OXk, 20 + k for its results, 24 + k for its top operand), the bank and the offset in it. -/
structure BankWait where
  unit : Nat
  bank : Nat
  off : Nat
  deriving DecidableEq, Repr

/-- The counts of an encode that its core has still to add to its partial record (R152, R154): tensor, and the record of
the counts. -/
structure OwedStat where
  tid : Nat
  counts : List Byte
  deriving DecidableEq, Repr

/-- A bank's power transition: whether one is under way, the state being reached, a latched target (R238-R240), and whether
a restore has left the bank OFF and nothing has woken it since (R248). -/
structure BankTr where
  going : Bool
  reach : Nat
  latched : Option Nat
  left : Bool
  deriving DecidableEq, Repr

def BankTr.none : BankTr := ⟨false, 0, Option.none, false⟩

/-- Why a tile of a station is held after its start. -/
inductive HoldWhy where
  /-- An open recompute request of that number (R447). -/
  | recomp (req : Nat)
  /-- A page locked for re-sourcing (R584). -/
  | rsrc (page : Nat)
  /-- A page being retired (R469). -/
  | retire (page : Nat)
  /-- A page in transit (R420). -/
  | move (page : Nat)
  /-- A request refused by a unit in reset (R661), with its address as it was issued. -/
  | refused (domain unit addr : Nat)
  /-- A deep access outstanding on a port that does not answer (R433). -/
  | deep (port : Nat)
  deriving DecidableEq, Repr

/-- A tile held in one of the waits of Table 15.1; `noRecomp`: read again without recompute requests (R453); `again`:
read again without re-source requests, what still refuses being delivered poisoned (R588, R661). -/
structure HeldTile where
  tile : Nat
  why : HoldWhy
  since : Nat
  noRecomp : Bool
  again : Bool
  deriving DecidableEq, Repr

/-- A stream of the running program (R265, Table 7.9): its descriptor, next tile, tiles complete per event, fills
exchanged, state (0 unused, 1 running, 2 done), Yoke rows gathered for the segment being formed, and held tiles. -/
structure Stream where
  desc : List Nat
  addr : Nat
  next : Nat
  done0 : Nat
  done1 : Nat
  fills : Nat
  state : Nat
  rows : List YRow
  held : List HeldTile
  deriving DecidableEq, Repr

def Stream.unused : Stream := ⟨[], 0, 0, 0, 0, 0, 0, [], []⟩

/-- The task a core runs or holds saved: its place in the roster, its entry, placement tick, the values of R144, run
ticks and windows (R640-R643), budget left, the generation slot bound (R576), tensors whose counts collided (R156). -/
structure Task where
  ctx : Nat
  roster : Nat
  entry : Nat
  words : List Nat
  placed : Nat
  begun : Bool
  ended : Bool
  step : Nat
  seed : Nat
  statBase : Nat
  statCfg : Nat
  run : Nat
  budget : Nat
  missed : Bool
  winOpen : Nat
  winLen : Nat
  moved : Bool
  still : Nat
  gslot : Option Nat
  collided : List Nat
  deriving DecidableEq, Repr

/-- A waiting ACTIVATION encode (R148): the slot of its stream and the tile. -/
structure EncWait where
  slot : Nat
  tile : Nat
  deriving DecidableEq, Repr

/-- A cached translation of the walker: context, generation window use, 2 MiB virtual page, physical page and rights. -/
structure Xlate where
  ctx : Nat
  gslot : Option Nat
  vpage : Nat
  ppage : Nat
  w : Bool
  refetch : Bool
  leaf2 : Bool
  deriving DecidableEq, Repr

/-- A sentinel pass in progress: the Ox tested, the Oxen that run a confirmation beside it (R481), the pattern, the
junction temperature and activity at its start (R479), and its start tick. -/
structure SentRun where
  ox : Nat
  conf : List Nat
  pattern : Nat
  temp : Nat
  act : Nat
  since : Nat
  deriving DecidableEq, Repr

/-- A teed image waiting for its record in the Trail (R541): RECV slot and tile, source, tag, sender's tile, the tick
its last packet was written, its bytes, and the TRAIL streams whose rings hold it (R301). -/
structure TrailIm where
  slot : Nat
  tile : Nat
  src : Nat
  tag : Nat
  image : Nat
  tick : Nat
  data : List (Byte × Bool)
  wrote : List Nat
  deriving DecidableEq, Repr

/-- A core beyond its registers and memories. `stopped`: 0 running, 1 stopping, 2 stopped for save, 3 for restore.
`fence` is the mask of fenced Oxen in force, `modeF` the mask by which the running program's Ox slots are counted (R94); `toMule` holds
the rows that DEST = 1 passes have delivered and the Mule has not taken, by Ox slot (R183); `progBad` says that the running program has faulted (R307);
`lastProg` is the progress counter at the last tick edge (R642); `past` holds the headers of segments issued whole of which
an Ox still lags by rows (R59), and `trailAt` the ring offsets of TRAIL streams other than the program's first (R301). -/
structure CoreSt where
  segs : List Seg
  issue : Option Seg
  task : Option Task
  streams : List Stream
  bindWait : List (Nat × Nat)
  hand0 : List Handoff
  hand1 : List Handoff
  mule : MuleSt
  banks : List BankTr
  deferred : List (Nat × Nat)
  stopped : Nat
  fence : Nat
  modeF : Nat
  toMule : List (List OutFp)
  sent : Option SentRun
  hot : Bool
  reload : Bool
  xlate : List Xlate
  encWait : List EncWait
  progBad : Bool
  trailQ : List TrailIm
  lastProg : Nat
  past : List Seg
  winWait : List WinReq
  bankWaits : List BankWait
  statDue : List OwedStat
  trailAt : List (Nat × Nat)
  deriving DecidableEq, Repr

def CoreSt.idle : CoreSt :=
  ⟨[], none, none, List.replicate 16 .unused, [], [], [], .idle, List.replicate 12 .none, [], 0, 0, 0,
   [[], [], [], []], none, false, false, [], [], false, [], 0, [], [], [], [], []⟩

/-! ## Contexts (08, 04, 11, 13) -/

/-- The head entry of a roster as fetched: its words and the tick at which it became ready. -/
structure Head where
  idx : Nat
  words : List Nat
  readyAt : Option Nat
  deriving DecidableEq, Repr

/-- The dispatcher's view of a roster (R323-R330): TAKEN and DONE, the last PUB sampled and the tick and value before
it, whether it is enabled in force, whether TAKEN and DONE are to be read again, the fetched head, final entries that
are not yet leading, entries placed with their cores, and words not yet written to memory, by address. -/
structure Roster where
  taken : Nat
  done : Nat
  pub : Nat
  pubTick : Nat
  pubOld : Nat
  en : Bool
  fresh : Bool
  head : Option Head
  final : List Nat
  placed : List (Nat × Nat)
  writes : List (Nat × Nat)
  deriving DecidableEq, Repr

def Roster.idle : Roster := ⟨0, 0, 0, 0, 0, false, true, none, [], [], []⟩

/-- A save or restore under way (R343-R351): its tick, the cores by slot, the cores whose image is copied, whether
FLAGS.VALID = 0 is written, and what the header holds: STEP, SR_SEED, STAT_BASE, STAT_CFG, and the pens as slot masks. -/
structure SaveOp where
  tick : Nat
  cores : List Nat
  copied : List Nat
  begun : Bool
  vals : List Nat
  pens : List Nat
  deriving DecidableEq, Repr

/-- An open recompute request (R447-R449): its number, context page, the physical page it translated to (R432), and
the tick it opened. -/
structure Recomp where
  num : Nat
  page : Nat
  ppage : Nat
  opened : Nat
  deriving DecidableEq, Repr

/-- What the device keeps of a saved task beside its image: the SAVE_TICK, roster and entry that name it, the values of
R144, the open spans' per-tile results (R202), and the rows that the drains have delivered to the Mule. -/
structure KeptTask where
  tick : Nat
  roster : Nat
  entry : Nat
  vals : List Nat
  parts : List (List (List FpP))
  fed : List (List OutFp)
  deriving DecidableEq, Repr

/-- A context beyond its registers: the values in force of the registers that take effect at a tick edge, rosters, the
save, restore or kill under way, recompute requests and the next number, the context key, and the roster words that a
reset of the context left unwritten, each with the table base and the context address that it goes to, and what the device
keeps of the tasks that the last save has saved. -/
structure CtxSt where
  step : Nat
  seed : Nat
  statBase : Nat
  statCfg : Nat
  pens : List Nat
  rosterGen : Nat
  rosters : List Roster
  save : Option SaveOp
  restore : Option SaveOp
  kill : Option Bool
  recomp : List Recomp
  recompNext : Nat
  key : Option (Nat × Nat)
  owed : List (Nat × Nat × Nat)
  kept : List KeptTask
  deriving DecidableEq, Repr

/-- STAT_CFG resets to SLOT_BITS = 10 (Table 4.10). -/
def CtxSt.empty : CtxSt :=
  ⟨0, 0, 0, 160, [0, 0, 0], 0, List.replicate 8 .idle, none, none, none, [], 0, none, [], []⟩

/-! ## Control events (01, 15) -/

/-- A trouble record before it is written (Table 15.2); `ctx` 0xFF, `core` 0xFF and `unit` 0xFFFF mean none. -/
structure Trouble where
  kind : Nat
  code : Nat
  ctx : Nat
  core : Nat
  unit : Nat
  task : Option (Nat × Nat × Nat)
  d32 : Nat
  addr : Nat
  detail : Nat
  deriving DecidableEq, Repr

/-- What a latched control event does when it is taken. -/
inductive EvKind where
  /-- A reset request for a unit of a domain (rank 2). -/
  | reset (domain unit : Nat)
  /-- A fault of contexts, with its trouble record (rank 3). -/
  | fault (t : Trouble)
  /-- A job fault raised (rank 3, R669). -/
  | jobFault (ctx origin : Nat)
  /-- A task's completion on a core (rank 6). -/
  | taskDone (core : Nat)
  /-- A trip (rank 1): CODE, UNIT and reading. -/
  | trip (code unit reading : Nat)
  /-- A task is declared hung (rank 4): CODE of R645. -/
  | hang (core code : Nat)
  /-- A deep access fails (rank 4, R434). -/
  | deepFail (port id : Nat)
  /-- A recompute request expires (rank 4, R452), or its acknowledgement is taken (rank 6, R451). -/
  | recompExpiry (ctx q : Nat)
  | recompAck (ctx q : Nat)
  /-- A re-source request expires (rank 4, R588), or is done (rank 6, R587). -/
  | rsrcExpiry (page : Nat)
  | rsrcDone (page : Nat)
  /-- A request held beyond REFUSE_LIMIT fails (rank 4, R661): of a stream's tile, or of another unit at a stack. -/
  | refuseExpiry (core slot : Nat)
  | turnedExpiry (stack req line : Nat) (write : Bool)
  /-- A core has not stopped in time (rank 4, R345). -/
  | saveStop (ctx : Nat)
  /-- An image, or a transfer, not acknowledged in time (rank 4, R538, R548). -/
  | e2eImage (core slot tile : Nat)
  | e2eXfer (idx : Nat)
  /-- A port whose packets are not acknowledged in time (rank 4, R514). -/
  | linkDown (port : Nat)
  /-- A Wagon move's completion, with what its reads meet (rank 6, R423). -/
  | moveDone (page : Nat) (errs : List LineErr)
  /-- A save's or a restore's completion (rank 6, R344, R351). -/
  | saveDone (ctx : Nat)
  | restoreDone (ctx : Nat)
  /-- A reset has not completed in time (rank 4, R657). -/
  | escalate (domain unit : Nat)
  /-- A context command at its tick (rank 5). -/
  | command (ctx code : Nat) (wipe : Bool)
  /-- A route-page switch at its tick (rank 5). -/
  | routeSwitch
  /-- A weight-generation switch at its tick (rank 5). -/
  | genSwitch (ctx : Nat)
  /-- A firmware activation at its tick (rank 5). -/
  | firmware
  deriving DecidableEq, Repr

/-- A latched control event with what R34 sorts by: rank, context (none: device-wide), unit index, member index. -/
structure Ev where
  rank : Nat
  member : Nat
  ctx : Option Nat
  unit : Nat
  kind : EvKind
  deriving DecidableEq, Repr

/-! ## HBM (09, 11) -/

/-- An entry of the write-combining buffer (R377): the storage line, its data and bit mask as 2,048-bit numbers,
whether poisoned data was written into it, and the requesters whose bits it holds. -/
structure Wcb where
  line : Nat
  data : Nat
  mask : Nat
  poison : Bool
  reqs : List Nat
  deriving DecidableEq, Repr

/-- A retirement under way (R467-R470): the page, the spare slot, and whether it waits for a Wagon move (R471). -/
structure RetireOp where
  page : Nat
  slot : Nat
  waits : Bool
  deriving DecidableEq, Repr

/-- A request at a stack's controller, or at its requester for want of a slot (R370-R375): requester, class, device-physical
address, the data, mask and poison it writes (none: a read), and whether it has waited AGE_LIMIT cycles. -/
structure HbmReq where
  req : Nat
  cls : Nat
  addr : Nat
  write : Option (Nat × Nat × Bool)
  aged : Bool
  deriving DecidableEq, Repr

/-- A request that a stack in reset has refused and that a unit other than a core holds (R661): requester, the context it is
for, the address as its requester issued it, its line, whether it writes, the tick it was refused, and whether it has failed. -/
structure Turned where
  req : Nat
  ctx : Option Nat
  va : Nat
  line : Nat
  write : Bool
  since : Nat
  failed : Bool
  deriving DecidableEq, Repr

/-- A stack beyond its registers and contents: the write-combining buffer oldest first, class-0 lines and all lines served
in the window of each pseudo-channel, requests pending at the controller and requests without a slot, each in arrival
order, the retirement under way, mode registers written, soft and hard row repairs (channel,
pseudo-channel, bank, row as one number each), failing rows not yet read, the tick of the last scrub group, whether
the stack goes to MAINT when its training stops, and the requests that it has refused and their units hold. -/
structure StackSt where
  wcb : List Wcb
  served0 : List (Nat × Nat)
  served : List (Nat × Nat)
  queue : List HbmReq
  waits : List HbmReq
  retire : Option RetireOp
  modeRegs : List (Nat × Nat)
  soft : List Nat
  hard : List Nat
  mbist : List Nat
  lastScrub : Nat
  toMaint : Bool
  turned : List Turned
  deriving DecidableEq, Repr

def StackSt.fresh : StackSt := ⟨[], [], [], [], [], none, [], [], [], [], 0, false, []⟩


/-! ## The deep tier and the Wagon (10) -/

/-- A deep access not yet answered, or failed (R433-R435): its number, its offset in the window, its context address,
its issue tick, its context (none: not a context's), its requester, the data and mask it writes, the tick its answer
comes (none: never), whether it was counted late or has failed, whether it goes through a 1 GiB leaf (R402), and whether
its requester waits for it and takes its outcome itself. -/
structure DeepAcc where
  id : Nat
  off : Nat
  va : Nat
  issued : Nat
  ctx : Option Nat
  req : Nat
  write : Option (Nat × Nat)
  due : Option Nat
  late : Bool
  failed : Bool
  leaf1 : Bool
  polled : Bool
  deriving DecidableEq, Repr

/-- A DEEP_ACCESS that waits for its page (R420, R584): its operands. -/
structure DeepWait where
  req : Nat
  ctx : Option Nat
  addr : Nat
  va : Nat
  leaf2 : Bool
  data : Option (Nat × Nat)
  reply : Option Nat
  deriving DecidableEq, Repr

/-- A CXL port beyond its registers. -/
structure CxlSt where
  out : List DeepAcc
  deriving DecidableEq, Repr

/-- A hint of the queue (R413): operation, the context and core whose addresses it names (none: device-physical), the pages
not yet disposed of, and whether they are translated to deep indices. -/
structure Hint where
  op : Nat
  ctx : Option (Nat × Nat)
  pages : List Nat
  ready : Bool
  deriving DecidableEq, Repr

/-- A move under way (R419-R424): deep index, pool frame, direction, whether a PIN asked for it. -/
structure Move where
  page : Nat
  frame : Nat
  promote : Bool
  pin : Bool
  deriving DecidableEq, Repr

/-- A hint request held while its page is in transit (R418). -/
structure HeldReq where
  op : Nat
  page : Nat
  deriving DecidableEq, Repr

/-- An open re-source request (R583-R588): the page's device-physical base, the context and the tick that opened it. -/
structure Rsrc where
  page : Nat
  ctx : Nat
  opened : Nat
  deriving DecidableEq, Repr

/-- The Wagon beyond its registers: hints, held requests, heat by deep index, the accesses that the next tick edge adds to it
(R410), moves, re-source requests, EPOCH in force, the tick of the last halving, accesses that wait for their page, the
directory words whose value for the device is not the one in memory, by device-physical address (R406), those of them that
the device has still to write, oldest first, and the pages that the device has marked LOST (R431). -/
structure WagonSt where
  hints : List Hint
  held : List HeldReq
  heat : SMap Nat
  touched : SMap Nat
  moves : List Move
  rsrc : List Rsrc
  epoch : Nat
  halved : Nat
  waiting : List DeepWait
  dir : List (Nat × Nat)
  dirDue : List Nat
  lost : List Nat
  deriving DecidableEq, Repr

def WagonSt.start : WagonSt := ⟨[], [], [], [], [], [], 1000, 0, [], [], [], []⟩


/-! ## The repair history (14) -/

/-- An entry of the repair history (Tables 14.7a and 14.7b), whether it is in force (R616), its MAC, and whether the latest
start has ignored it (R613). -/
structure RepEnt where
  kind : Nat
  unit : Nat
  data : Nat
  tick : Nat
  seq : Nat
  live : Bool
  mac : List Byte
  bad : Bool
  deriving DecidableEq, Repr

/-! ## Trouble records on their way (15) -/

/-- A trouble record whose event has been taken and which is written when the command ends: its tick, SEQ and GEN, the
first event it discarded (R652) and whether there were more. -/
structure PendRec where
  t : Trouble
  tick : Nat
  seq : Nat
  gen : Nat
  sup : Nat
  more : Bool
  deriving DecidableEq, Repr

/-- A reset under way (R653-R660): its domain and unit, the cores of a context's reset, the tick it was taken,
and the first event it discarded (R652). -/
structure ResetOp where
  domain : Nat
  unit : Nat
  cores : List Nat
  since : Nat
  sup : Nat
  more : Bool
  deriving DecidableEq, Repr


/-! ## The fabric (12) -/

/-- A swap or drop at its receiver (R501): the lane, the degraded wavelength, the spare (none: a drop), and its phase:
0 SWAP_REQ sent, 1 the spare is being compared, 2 SWAP_GO sent; with the tick it entered the phase. -/
structure RxSwap where
  lane : Nat
  old : Nat
  spare : Option Nat
  phase : Nat
  since : Nat
  deriving DecidableEq, Repr

/-- A swap or drop at its transmitter: the lane, and the spare it is bridged onto (none: a drop). -/
structure TxSwap where
  lane : Nat
  spare : Option Nat
  deriving DecidableEq, Repr

/-- An optical port beyond its registers: the LSEQ expected next and whether packets are discarded until a replay
(R512), the LSEQ to send next, the retry buffer (R511), packets waiting to be sent, the tick of the last
acknowledgement, the LSEQ at which the latest replays began and how many in a row, swaps under way, wavelengths that
degraded meanwhile, the tick of the last marker (R504), and the tick at which its monitoring window opened (R499). -/
structure PortSt where
  rxNext : Nat
  rxHold : Bool
  txNext : Nat
  retry : List (Nat × Packet)
  queue : List Packet
  ackTick : Nat
  replayAt : Option Nat
  replayN : Nat
  rxSwap : Option RxSwap
  txSwap : Option TxSwap
  degraded : List Nat
  swapTick : Nat
  monAt : Nat
  deriving DecidableEq, Repr

def PortSt.start : PortSt := ⟨0, false, 0, [], [], 0, none, 0, none, none, [], 0, 0⟩

/-- An offer that has arrived (R534, R536): source, tag, job, image, bytes, virtual channel and GEN. -/
structure RtsEnt where
  src : Nat
  tag : Nat
  job : Nat
  image : Nat
  bytes : Nat
  vc : Nat
  gen : Nat
  deriving DecidableEq, Repr

/-- An image offered by a SEND stream (R533): core, slot, tile, the core's generation, the route page of its RTS, the
tick of its first RTS, grants and acknowledgements received, its phase (0 offered, 1 granted and not yet read, 2 sent, 3
refused) and the tick of the refusal. -/
structure Offer where
  core : Nat
  slot : Nat
  tile : Nat
  gen : Nat
  page : Nat
  first : Nat
  grants : Nat
  acks : Nat
  phase : Nat
  refusedAt : Nat
  deriving DecidableEq, Repr

/-- A tile that a RECV stream has started: core, slot, tile, the offer it granted, the core's generation then, the bytes
received, whether every packet has arrived, whether its image is written, and whether its core has reset since the
grant (R664). -/
structure RecvIm where
  core : Nat
  slot : Nat
  tile : Nat
  rts : Option RtsEnt
  gen : Nat
  data : List (Byte × Bool)
  complete : Bool
  dead : Bool
  deriving DecidableEq, Repr

/-- An active memory transfer (R546): entry index, the entry's words, its phase (0 offered or not yet matched, 1 granted
and not yet sent, 2 sent, or receiving), the tick of its RTS, its route page, bytes received, and the offer it matched. -/
structure Xfer where
  idx : Nat
  words : List Nat
  phase : Nat
  first : Nat
  page : Nat
  got : Nat
  rts : Option RtsEnt
  deriving DecidableEq, Repr

/-- The fabric beyond its ports: offers that nothing has matched, images offered, tiles being received, active
transfers, the transfer ring as the device sees it, and packets of this device for itself. -/
structure FabSt where
  rts : List RtsEnt
  offers : List Offer
  recvs : List RecvIm
  xfers : List Xfer
  ring : Roster
  loop : List Packet
  deriving DecidableEq, Repr

def FabSt.start : FabSt := ⟨[], [], [], [], .idle, []⟩

/-! ## Keys and verification (13) -/

/-- A queued verification (R567): context, seal entry, first line within the entry and lines. -/
structure Verif where
  ctx : Nat
  entry : Nat
  first : Nat
  count : Nat
  deriving DecidableEq, Repr

/-- A completed verification (R570). -/
structure VerDone where
  ctx : Nat
  entry : Nat
  fail : Bool
  firstBad : Nat
  bad : Nat
  deriving DecidableEq, Repr

/-- The security block beyond its registers; the context keys stand in the contexts. -/
structure SecSt where
  queue : List Verif
  done : List VerDone
  deriving DecidableEq, Repr

def SecSt.start : SecSt := ⟨[], []⟩

/-! ## The flash (14) -/

/-- The directory (Table 14.4), as the device reads it at a start (R611): the copy it read it from, SEQ, and its fields. -/
structure Dir where
  copy : Nat
  seq : Nat
  fwActive : Nat
  armed : Bool
  actTick : Nat
  actDigest : List Byte
  fwFloor : Nat
  cfgFloor : Nat
  fwSerial : List Nat
  deriving DecidableEq, Repr

/-- What the device takes where no copy is valid (R611); it then writes copy 0 first (log 13, DESIGN CHOICE). -/
def Dir.none : Dir := ⟨1, 0, 0, false, 0, [], 0, 0, [0, 0]⟩

/-- An object being written to a region of the flash (R629): its KIND, the slot, its bytes, and the transfer number its
RESULT names. -/
structure FlashWrite where
  kind : Nat
  slot : Nat
  obj : List Byte
  xfer : Nat
  deriving DecidableEq, Repr

/-- The flash: the directory in use, its two copies, firmware and configuration slots and identity record (empty: nothing valid), event log, and
the writes that wait, the first one under way (R692). -/
structure FlashSt where
  dir : Dir
  copies : List (List Byte)
  fw : List (List Byte)
  cfg : List (List Byte)
  ident : List Byte
  log : List (List Byte)
  writing : List FlashWrite
  deriving DecidableEq, Repr

def FlashSt.blank : FlashSt := ⟨.none, [[], []], [[], []], [[], []], [], [], []⟩

/-! ## The Doloma chain (14) -/

/-- One hop of the chain: the HSEQ expected next and to be sent next, frames not acknowledged (oldest first), frames
that wait for room among 16, and the tick of the last acknowledgement or resend. -/
structure HopSt where
  rxNext : Nat
  txNext : Nat
  unacked : List (Nat × Frame)
  queue : List Frame
  sent : Nat
  deriving DecidableEq, Repr

def HopSt.start : HopSt := ⟨0, 0, [], [], 0⟩

/-- An object offered to the device (R625-R627): its OFFER, the bytes received, requests made for it, the bytes
themselves where no staging area in HBM holds them, whether it is complete and when, and writes to the staging area that
wait, by offset (R661). -/
structure Stage where
  xfer : Nat
  kind : Nat
  first : Nat
  last : Nat
  len : Nat
  digest : List Byte
  got : Nat
  tries : Nat
  data : List Byte
  whole : Bool
  since : Nat
  owed : List (Nat × List Byte)
  deriving DecidableEq, Repr

/-- The chain: its two hops, the staged object, the node assignment table, the number of the next transfer that a head
starts, what the latest start found, and the device secret S that it recovered (R589). -/
structure ChainSt where
  inHop : HopSt
  outHop : HopSt
  stage : Option Stage
  table : List (List Byte × Nat)
  xferNext : Nat
  found : StartInput
  secret : List Byte
  deriving DecidableEq, Repr

def ChainSt.start : ChainSt := ⟨.start, .start, none, [], 0, .clean, []⟩

/-! ## Power, pins and die links (16) -/

/-- Power and temperature: whether anything has been measured since the start (R708), the tick the power window opened,
its sum and count, the power of the last measured ticks, newest first, the readings of IOD0-IOD3 and the control die,
the sensors that the last judgement found at their thresholds, whether the average was above the power trip's limit then,
whether VDDC_HBM and VDDQ_HBM are up, and whether THERMTRIP_N is low. -/
structure PwrSt where
  measured : Bool
  winOpen : Nat
  winSum : Nat
  winN : Nat
  last : List Nat
  dieTemp : List Nat
  hot : List Nat
  overTdp : Bool
  hbmRails : Bool
  thermtrip : Bool
  deriving DecidableEq, Repr

def PwrSt.start : PwrSt := ⟨false, 0, 0, 0, [], [0, 0, 0, 0, 0], [], false, true, false⟩

/-- The UCIe modules: requests outstanding, records on their way to the control die (true: a condition record), the
modules out of service, and records on their way to their rings, by address (R661). -/
structure LinkSt where
  out : List LinkReq
  mirror : List (Bool × List Byte)
  down : List Bool
  rings : List (Nat × List Byte)
  deriving DecidableEq, Repr

def LinkSt.start : LinkSt := ⟨[], [], [], []⟩


/-! ## The state -/

/-- The whole block. -/
structure State where
  /-- The assembly (Table 0.1). -/
  part : Part
  /-- The commands that wait, first in first out. -/
  pending : List Instr
  /-- The model's own: how many free values have been drawn. -/
  freeCtr : Nat
  /-- The register file: what is not listed holds its reset value. -/
  regs : SMap Word
  /-- HBM, deep memory and the SRAM windows, one byte per storage address; unlisted bytes are 0. -/
  mem : List Host.Cell
  /-- Stored word XOR check word of each HBM line, by storage address of the line; all ones marks poison, also for a deep line, a Hamper word and an accumulator value, by their addresses. -/
  syn : SMap (BitVec 32)
  /-- The draw counters of bank A7 (R164), row j of CORE_n at 512 n + j. -/
  draw : SMap Nat
  /-- TICK_NOW. -/
  tick : Nat
  /-- The tick's source (R17-R28). -/
  time : TimeSt
  /-- Control events latched for the next tick edge (R29). -/
  latched : List Ev
  /-- Control events sampled at the tick being taken and not taken yet, in order (R33); empty between commands. -/
  due : List Ev
  /-- Errors that reads of the command being carried out meet; empty between commands. -/
  lineErrs : List LineErr
  /-- Ox 4n + k is OXk of CORE_n. -/
  oxen : SMap Ox
  /-- The cores. -/
  cores : SMap CoreSt
  /-- The contexts. -/
  ctxs : SMap CtxSt
  /-- The HBM stacks. -/
  hbm : SMap StackSt
  /-- The control die's copies of trouble records, oldest first (R651). -/
  trouble : List (List Byte)
  /-- The control die's copies of condition records, oldest first (R486). -/
  cond : List (List Byte)
  /-- What has left the block at its boundary, newest first; the model's own record of outputs. -/
  outbox : List OutMsg
  /-- The CXL ports. -/
  cxls : SMap CxlSt
  /-- The Wagon. -/
  wagon : WagonSt
  /-- The number of the next deep access. -/
  deepNext : Nat
  /-- The repair history in flash (R613). -/
  history : List RepEnt
  /-- Trouble records taken in this command and not yet written; empty between commands. -/
  trPend : List PendRec
  /-- Resets under way, oldest first. -/
  resets : List ResetOp
  /-- The optical ports. -/
  ports : SMap PortSt
  /-- The fabric. -/
  fab : FabSt
  /-- The security block. -/
  sec : SecSt
  /-- The flash (log 13, DESIGN CHOICE). -/
  flash : FlashSt
  /-- The Doloma chain. -/
  chain : ChainSt
  /-- Power, temperature and pins. -/
  pwr : PwrSt
  /-- The UCIe links. -/
  link : LinkSt
  deriving DecidableEq, Repr

/-- The block has no fault of its own: a fault the spec describes is an effect on the state. No meaning raises this. -/
inductive Fault where
  deriving DecidableEq, Repr

/-- Why a command is not carried out. -/
inductive Refusal where
  /-- The command has no meaning in this model yet; raised by the dispatcher. Safe: nothing is claimed of it. -/
  | notModelled (mnemonic : String)
  deriving DecidableEq, Repr

/-- The block right after reset: every register at its reset value (logs 2 to 5, 12 and 13, DESIGN CHOICE, for the values the spec leaves open). -/
def State.reset : State where
  part := .ty4180
  pending := []
  freeCtr := 0
  regs := []
  mem := []
  syn := []
  draw := []
  tick := 0
  time := .start
  latched := []
  due := []
  lineErrs := []
  oxen := []
  cores := []
  ctxs := []
  hbm := []
  trouble := []
  cond := []
  outbox := []
  cxls := []
  wagon := .start
  deepNext := 0
  history := []
  trPend := []
  resets := []
  ports := []
  fab := .start
  sec := .start
  flash := .blank
  chain := .start
  pwr := .start
  link := .start

end Sys2Proof.Machine
end

