-- ==== Sys2Proof/Machine/Access.lean ====
section
/-!
DEFINITION. Machine/Access.lean: which register an address names, its reset value and the bits it can hold (R8-R13),
and copying within the sparse memory.
-/

namespace Sys2Proof.Machine

/-- HBM stacks populated (Table 0.1). -/
def Part.nStacks : Part → Nat
  | .ty4181 => 12
  | _ => 8
/-- I/O dies populated. -/
def Part.iods : Part → Nat
  | .ty4182 => 4
  | _ => 2
/-- Optical ports populated. -/
def Part.ports (p : Part) : Nat := 8 * p.iods
/-- CXL ports populated. -/
def Part.cxls (p : Part) : Nat := 2 * p.iods
/-- Package TDP in W. -/
def Part.tdp : Part → Nat
  | .ty4180 => 1400
  | .ty4181 => 1700
  | .ty4182 => 1600
/-- PART of the capability record (Table 11.5). -/
def Part.code : Part → Nat
  | .ty4180 => 0x4180
  | .ty4181 => 0x4181
  | .ty4182 => 0x4182

/-- The registers of the block at an address of Table 0.7, the offset in the block, and whether the block's unit is
populated (R8). -/
def blockOf (p : Part) (a : Nat) : Option (List RegDef × Nat × Bool) :=
  if a < 0xF00000000000 ∨ a ≥ 0xF00010000000 then none
  else
    let o := a % 0x100000000000
    if o < 0x10000 then some (timeRegs, o, true)
    else if o < 0x20000 then some (resetRegsT, o % 0x10000, true)
    else if o < 0x30000 then some (pwrRegs, o % 0x10000, true)
    else if o < 0x40000 then some (chainRegs, o % 0x10000, true)
    else if o < 0x50000 then some (secRegs, o % 0x10000, true)
    else if o < 0x60000 then some (dispRegs, o % 0x10000, true)
    else if o < 0x70000 then some (wagonRegs, o % 0x10000, true)
    else if 0x100000 ≤ o ∧ o < 0x200000 then some (ctxRegs, o % 0x10000, true)
    else if 0x200000 ≤ o ∧ o < 0x2C0000 then some (hbmRegs, o % 0x10000, o / 0x10000 < 0x20 + p.nStacks)
    else if 0x400000 ≤ o ∧ o < 0x410000 then some (portRegs ++ port0Regs, o % 0x10000, true)
    else if 0x400000 ≤ o ∧ o < 0x600000 then some (portRegs, o % 0x10000, o / 0x10000 < 0x40 + p.ports)
    else if 0x600000 ≤ o ∧ o < 0x680000 then some (cxlRegs, o % 0x10000, o / 0x10000 < 0x60 + p.cxls)
    else if 0x1000000 ≤ o ∧ o < 0x2000000 then
      let q := o % 0x40000
      if q < 0x20000 then some (coreRegs, q, true) else some (oxRegs, q % 0x8000, true)
    else none

/-- Whether a definition covers an offset. -/
def RegDef.covers (d : RegDef) (off : Nat) : Bool :=
  if d.count = 1 then off = d.off
  else d.off ≤ off && off % d.stride = d.off % d.stride && off < d.off + d.stride * d.count

/-- The register at an address, where its unit is populated; the flag says whether a register is defined there. -/
def regAt (p : Part) (a : Nat) : Option RegDef :=
  match blockOf p a with
  | some (ds, off, true) => ds.find? (fun d => d.covers off)
  | _ => none

/-- The reset value the fields of a register give. -/
def RegDef.resetVal (d : RegDef) : Nat := d.fields.foldl (fun n f => n + f.reset * 2 ^ f.lo) 0

/-- The value of a register after power-on; PWR.LIMIT resets to the part's TDP (Table 16.10). -/
def resetNat (p : Part) (a : Nat) : Nat :=
  if a = PWR_LIMIT then p.tdp
  else match regAt p a with
    | some d => d.resetVal
    | none => 0

def resetWord (p : Part) (a : Nat) : Word := BitVec.ofNat 64 (resetNat p a)

/-- The register an address names on some assembly. -/
def regAny (a : Nat) : Option RegDef :=
  match blockOf .ty4180 a with
  | some (ds, off, _) => ds.find? (fun d => d.covers off)
  | none => none

/-- The bits of a value that a register can hold: those of its fields that are not RsvdZ. -/
def RegDef.mask (d : RegDef) : Nat :=
  d.fields.foldl (fun n f => if f.acc = .z then n else n + (2 ^ f.w - 1) * 2 ^ f.lo) 0

/-- A value as the register at an address keeps it: reserved-zero bits and everything outside its fields read 0. -/
def regKeep (a v : Nat) : Word :=
  match regAny a with
  | some d => BitVec.ofNat 64 (Nat.land v d.mask)
  | none => 0

/-- Copy `len` bytes from `src` to `dst` in the sparse memory. -/
def mcopy (m : List Host.Cell) (src dst len : Nat) : List Host.Cell :=
  let moved := (m.filter (fun e => src ≤ e.1 && e.1 < src + len)).map (fun e => (e.1 - src + dst, e.2))
  msetAll (fun _ => 0) (mreset (fun a => dst ≤ a && a < dst + len) m) moved

end Sys2Proof.Machine
end

