-- ==== Sys2Proof/Machine/Act.lean ====
section
/-!
DEFINITION. Machine/Act.lean: what a command does, as data. Every meaning is an action: a sequence of primitive
changes, each to one field of the state, chosen by reading the state on the way. One induction over actions proves
what every command keeps.
-/

namespace Sys2Proof.Machine

/-- The primitive changes: each changes one field. -/
inductive Prim where
  | modFreeCtr (f : Nat → Nat)
  | modTick (f : Nat → Nat)
  | modTime (f : TimeSt → TimeSt)
  | modLatched (f : (List Ev) → (List Ev))
  | modDue (f : (List Ev) → (List Ev))
  | modLineErrs (f : (List LineErr) → (List LineErr))
  | modOx (i : Nat) (f : Ox → Ox)
  | modCore (i : Nat) (f : CoreSt → CoreSt)
  | modCtx (i : Nat) (f : CtxSt → CtxSt)
  | modStack (i : Nat) (f : StackSt → StackSt)
  | modTrouble (f : (List (List Byte)) → (List (List Byte)))
  | modCond (f : (List (List Byte)) → (List (List Byte)))
  | modOutbox (f : (List OutMsg) → (List OutMsg))
  | modCxl (i : Nat) (f : CxlSt → CxlSt)
  | modWagon (f : WagonSt → WagonSt)
  | modDeepNext (f : Nat → Nat)
  | modHistory (f : (List RepEnt) → (List RepEnt))
  | modTrPend (f : (List PendRec) → (List PendRec))
  | modResets (f : (List ResetOp) → (List ResetOp))
  | modPort (i : Nat) (f : PortSt → PortSt)
  | modFab (f : FabSt → FabSt)
  | modSec (f : SecSt → SecSt)
  | modFlash (f : FlashSt → FlashSt)
  | modChain (f : ChainSt → ChainSt)
  | modPwr (f : PwrSt → PwrSt)
  | modLink (f : LinkSt → LinkSt)
  | setReg (a : Nat) (v : Nat)
  | resetRegs (p : Nat → Bool)
  | setMem (a : Nat) (bs : List Byte)
  | clearMem (p : Nat → Bool)
  | copyMem (src dst len : Nat)
  | setSyn (a : Nat) (v : BitVec 32)
  | clearSyn (p : Nat → Bool)
  | setDraw (a v : Nat)
  | clearDraw (p : Nat → Bool)

/-- What a primitive change does. -/
def Prim.apply : Prim → State → State
  | .modFreeCtr f, s => { s with freeCtr := f s.freeCtr }
  | .modTick f, s => { s with tick := f s.tick }
  | .modTime f, s => { s with time := f s.time }
  | .modLatched f, s => { s with latched := f s.latched }
  | .modDue f, s => { s with due := f s.due }
  | .modLineErrs f, s => { s with lineErrs := f s.lineErrs }
  | .modOx i f, s => { s with oxen := mmod (fun _ => .idle) s.oxen i f }
  | .modCore i f, s => { s with cores := mmod (fun _ => .idle) s.cores i f }
  | .modCtx i f, s => { s with ctxs := mmod (fun _ => .empty) s.ctxs i f }
  | .modStack i f, s => { s with hbm := mmod (fun _ => .fresh) s.hbm i f }
  | .modTrouble f, s => { s with trouble := f s.trouble }
  | .modCond f, s => { s with cond := f s.cond }
  | .modOutbox f, s => { s with outbox := f s.outbox }
  | .modCxl i f, s => { s with cxls := mmod (fun _ => ⟨[]⟩) s.cxls i f }
  | .modWagon f, s => { s with wagon := f s.wagon }
  | .modDeepNext f, s => { s with deepNext := f s.deepNext }
  | .modHistory f, s => { s with history := f s.history }
  | .modTrPend f, s => { s with trPend := f s.trPend }
  | .modResets f, s => { s with resets := f s.resets }
  | .modPort i f, s => { s with ports := mmod (fun _ => .start) s.ports i f }
  | .modFab f, s => { s with fab := f s.fab }
  | .modSec f, s => { s with sec := f s.sec }
  | .modFlash f, s => { s with flash := f s.flash }
  | .modChain f, s => { s with chain := f s.chain }
  | .modPwr f, s => { s with pwr := f s.pwr }
  | .modLink f, s => { s with link := f s.link }
  | .setReg a v, s => { s with regs := mset (resetWord s.part) s.regs a (regKeep a v) }
  | .resetRegs p, s => { s with regs := mreset p s.regs }
  | .setMem a bs, s => { s with mem := msetRun (fun _ => 0) s.mem a bs }
  | .clearMem p, s => { s with mem := mreset p s.mem }
  | .copyMem src dst len, s => { s with mem := mcopy s.mem src dst len }
  | .setSyn a v, s => { s with syn := mset (fun _ => 0) s.syn a v }
  | .clearSyn p, s => { s with syn := mreset p s.syn }
  | .setDraw a v, s => { s with draw := mset (fun _ => 0) s.draw a v }
  | .clearDraw p, s => { s with draw := mreset p s.draw }

/-- An action: done, a primitive change and then the rest, or the rest chosen by the state. -/
inductive Act where
  | done
  | prim (p : Prim) (k : Act)
  | read (k : State → Act)

/-- The state an action leaves. -/
def Act.run : Act → State → State
  | .done, s => s
  | .prim p k, s => k.run (p.apply s)
  | .read k, s => (k s).run s

/-- Actions that give a value, written in do-notation. -/
abbrev M (α : Type) := ContT Act Id α

/-- Read the state. -/
def getS : M State := fun k => Act.read k

/-- Make a primitive change. -/
def prim (p : Prim) : M Unit := fun k => Act.prim p (k ())

/-- The action of a sequence. -/
def M.act (m : M Unit) : Act := m (fun _ => Act.done)

/-- Carry a sequence out: every meaning ends in a next state. -/
def runM (m : M Unit) (s : State) : Host.Outcome State Fault Refusal := .next (m.act.run s)

def modFreeCtr (f : Nat → Nat) : M Unit := prim (.modFreeCtr f)
def modTick (f : Nat → Nat) : M Unit := prim (.modTick f)
def modTime (f : TimeSt → TimeSt) : M Unit := prim (.modTime f)
def modLatched (f : (List Ev) → (List Ev)) : M Unit := prim (.modLatched f)
def modDue (f : (List Ev) → (List Ev)) : M Unit := prim (.modDue f)
def modLineErrs (f : (List LineErr) → (List LineErr)) : M Unit := prim (.modLineErrs f)
def modOx (i : Nat) (f : Ox → Ox) : M Unit := prim (.modOx i f)
def modCore (i : Nat) (f : CoreSt → CoreSt) : M Unit := prim (.modCore i f)
def modCtx (i : Nat) (f : CtxSt → CtxSt) : M Unit := prim (.modCtx i f)
def modStack (i : Nat) (f : StackSt → StackSt) : M Unit := prim (.modStack i f)
def modTrouble (f : (List (List Byte)) → (List (List Byte))) : M Unit := prim (.modTrouble f)
def modCond (f : (List (List Byte)) → (List (List Byte))) : M Unit := prim (.modCond f)
def modOutbox (f : (List OutMsg) → (List OutMsg)) : M Unit := prim (.modOutbox f)
def modCxl (i : Nat) (f : CxlSt → CxlSt) : M Unit := prim (.modCxl i f)
def modWagon (f : WagonSt → WagonSt) : M Unit := prim (.modWagon f)
def modDeepNext (f : Nat → Nat) : M Unit := prim (.modDeepNext f)
def modHistory (f : (List RepEnt) → (List RepEnt)) : M Unit := prim (.modHistory f)
def modTrPend (f : (List PendRec) → (List PendRec)) : M Unit := prim (.modTrPend f)
def modResets (f : (List ResetOp) → (List ResetOp)) : M Unit := prim (.modResets f)
def modPort (i : Nat) (f : PortSt → PortSt) : M Unit := prim (.modPort i f)
def modFab (f : FabSt → FabSt) : M Unit := prim (.modFab f)
def modSec (f : SecSt → SecSt) : M Unit := prim (.modSec f)
def modFlash (f : FlashSt → FlashSt) : M Unit := prim (.modFlash f)
def modChain (f : ChainSt → ChainSt) : M Unit := prim (.modChain f)
def modPwr (f : PwrSt → PwrSt) : M Unit := prim (.modPwr f)
def modLink (f : LinkSt → LinkSt) : M Unit := prim (.modLink f)
def setReg (a : Nat) (v : Nat) : M Unit := prim (.setReg a v)
def resetRegs (p : Nat → Bool) : M Unit := prim (.resetRegs p)
def setMem (a : Nat) (bs : List Byte) : M Unit := prim (.setMem a bs)
def clearMem (p : Nat → Bool) : M Unit := prim (.clearMem p)
def copyMem (src dst len : Nat) : M Unit := prim (.copyMem src dst len)
def setSyn (a : Nat) (v : BitVec 32) : M Unit := prim (.setSyn a v)
def clearSyn (p : Nat → Bool) : M Unit := prim (.clearSyn p)
def setDraw (a v : Nat) : M Unit := prim (.setDraw a v)
def clearDraw (p : Nat → Bool) : M Unit := prim (.clearDraw p)

end Sys2Proof.Machine
end

