-- ==== Sys2Proof/Machine/Ops.lean ====
section
/-!
DEFINITION. Machine/Ops.lean: the named operations every meaning is written with: registers and their fields, free
values, units, the control events of a tick, and trouble records before they are written.
-/

namespace Sys2Proof.Machine

/-! ## Registers -/

/-- The stored value of a register. -/
def rg (s : State) (a : Nat) : Nat := (mget (resetWord s.part) s.regs a).toNat
/-- The stored value of a field. -/
def fv (s : State) (f : Fld) : Nat := bits (rg s f.addr) f.lo f.w
/-- Whether a field is not 0. -/
def fb (s : State) (f : Fld) : Bool := fv s f != 0

def reg (a : Nat) : M Nat := do return rg (← getS) a
def fld (f : Fld) : M Nat := do return fv (← getS) f

/-- Write a field, leaving the register's other fields. -/
def setFld (f : Fld) (v : Nat) : M Unit := do
  let s ← getS
  setReg f.addr (withBits (rg s f.addr) f.lo f.w v)

/-- Set a sticky bit. -/
def flag (f : Fld) : M Unit := setFld f 1

/-- Count `n` events in a field, saturating at its width (R16). -/
def bumpBy (f : Fld) (n : Nat) : M Unit := do
  if n ≠ 0 then setFld f (min (2 ^ f.w - 1) ((← fld f) + n))

/-- Count one event. -/
def bump (f : Fld) : M Unit := bumpBy f 1

/-- Add modulo the field's width. -/
def addMod (f : Fld) (n : Nat) : M Unit := do setFld f (((← fld f) + n) % 2 ^ f.w)

/-- Return every register that `p` selects to its reset value. -/
def resetWhere (p : Nat → Bool) : M Unit := resetRegs p

/-! ## Free values (log 3, DESIGN CHOICE) -/

/-- Draw a free byte. -/
def freeByte : M Byte := do
  let s ← getS
  modFreeCtr (· + 1)
  return Config.freeByte s.freeCtr

/-- Draw a free 64-bit value. -/
def freeWord : M Nat := do
  let s ← getS
  modFreeCtr (· + 1)
  return (Config.freeWord s.freeCtr).toNat

/-- Draw `n` free bytes. -/
def freeBytes (n : Nat) : M (List Byte) := do
  let s ← getS
  modFreeCtr (· + n)
  return (List.range n).map (fun i => Config.freeByte (s.freeCtr + i))

/-! ## Units -/

def theOx (s : State) (o : Nat) : Ox := mget (fun _ => Ox.idle) s.oxen o
def theCore (s : State) (n : Nat) : CoreSt := mget (fun _ => CoreSt.idle) s.cores n
def theCtx (s : State) (c : Nat) : CtxSt := mget (fun _ => CtxSt.empty) s.ctxs c
def theStack (s : State) (i : Nat) : StackSt := mget (fun _ => StackSt.fresh) s.hbm i
def theCxl (s : State) (x : Nat) : CxlSt := mget (fun _ => ⟨[]⟩) s.cxls x

def emit (m : OutMsg) : M Unit := modOutbox (m :: ·)

/-- The device is stopped by a trip (R684). -/
def tripped (s : State) : Bool := fb s PWR_STATUS_TRIPPED

/-- The state of a context (Table 8.1). -/
def ctxState (s : State) (c : Nat) : Nat := fv s (CTX_STATE_STATE c)

/-- The contexts, ascending. -/
def ctxNums : List Nat := List.range 16
/-- The cores, ascending. -/
def coreNums : List Nat := List.range 64

/-- The cores a context holds. -/
def coresOf (s : State) (c : Nat) : List Nat := maskList (rg s (CTX_CORES c))

/-- The context that holds a core, if any. -/
def holderOf (s : State) (n : Nat) : Option Nat := ctxNums.find? (fun c => bit (rg s (CTX_CORES c)) n)

/-- The context a core works for: its task's, else the one that holds it. -/
def ctxOfCore (s : State) (n : Nat) : Option Nat :=
  match (theCore s n).task with
  | some t => some t.ctx
  | none => holderOf s n

/-- The task fields of a trouble record for a core (Table 15.2): TASK_ID, entry index, roster. -/
def taskRef (s : State) (n : Nat) : Option (Nat × Nat × Nat) :=
  (theCore s n).task.map (fun t => (t.words.getD 4 0, t.entry, t.roster))

/-! ## Control events -/

/-- Latch a control event for the next tick edge (R29). -/
def latch (e : Ev) : M Unit := modLatched (· ++ [e])

/-- Latch a context's fault (rank 3); a poison bite comes first in the rank (Table 1.5). -/
def faultEv (t : Trouble) : M Unit :=
  latch ⟨3, if t.kind = 7 then 0 else 1, if t.ctx = 0xFF then none else some t.ctx, t.core, .fault t⟩

/-- A trouble record that names a core's task and context. -/
def troubleOf (s : State) (n kind code unit d32 addr detail : Nat) : Trouble :=
  ⟨kind, code, (ctxOfCore s n).getD 0xFF, n, unit, taskRef s n, d32, addr, detail⟩

/-- Fault the context of a core. -/
def faultCore (n kind code unit d32 addr detail : Nat) : M Unit := do
  let s ← getS
  faultEv (troubleOf s n kind code unit d32 addr detail)

/-- Fault a context for an access that no core's task makes. -/
def faultCtxAs (c kind code unit d32 addr detail : Nat) : M Unit :=
  faultEv ⟨kind, code, c, 0xFF, unit, none, d32, addr, detail⟩

/-- Run an action with the line errors that its reads meet. -/
def withErrs (errs : List LineErr) (m : M Unit) : M Unit := do
  modLineErrs (fun _ => errs)
  m
  modLineErrs (fun _ => [])

/-! ## Loops over lists -/

/-- Do `f` for each element, in order. -/
def each {α : Type} (l : List α) (f : α → M Unit) : M Unit :=
  match l with
  | [] => pure ()
  | x :: xs => do f x; each xs f

/-- Do `f` for each element and gather the answers. -/
def gather {α β : Type} (l : List α) (f : α → M β) : M (List β) :=
  match l with
  | [] => pure []
  | x :: xs => do
    let y ← f x
    let ys ← gather xs f
    return y :: ys

/-- `m` where the condition holds. -/
def when' (c : Bool) (m : M Unit) : M Unit := if c then m else pure ()

end Sys2Proof.Machine
end

