-- ==== Sys2Proof/Machine/Memory.lean ====
section
/-!
DEFINITION. Machine/Memory.lean: lines of HBM and of the deep tier: where an address lies (Table 0.6), page retirement,
the line check and its outcomes (Table 11.1), the error logs, the write-combining buffer and homes of deep pages
(09_hbm_subsystem.md, 10_deep_tier_and_wagon.md, 11_data_integrity.md).
-/

namespace Sys2Proof.Machine

/-! ## Where an address lies -/

/-- The parts of the device-physical map (Table 0.6). -/
inductive Region where
  | hbm (stack off : Nat)
  | deep (off : Nat)
  | sram (core off : Nat)
  | regs
  | reserved
  deriving DecidableEq, Repr

def stackBytes : Nat := 0x2000000000
def usableBytes : Nat := 0x1F60000000
def spareBase : Nat := 0x1F60000000
def checkBase : Nat := 0x1F80000000
def deepBase : Nat := 0x100000000000
def sramBase : Nat := 0xE00000000000
def page2M : Nat := 0x200000

def regionOf (p : Part) (a : Nat) : Region :=
  if a < p.nStacks * stackBytes then .hbm (a / stackBytes) (a % stackBytes)
  else if deepBase ≤ a ∧ a < deepBase + p.iods * 0x80000000000 then .deep ((a / deepBase - 1) * deepBase + a % deepBase)
  else if sramBase ≤ a ∧ a < sramBase + 0x40000000 then .sram (a % 0x40000000 / 0x1000000) (a % 0x1000000)
  else if 0xF00000000000 ≤ a ∧ a < 0xF00010000000 then .regs
  else .reserved

/-- The ports of the interleave, ascending (R398). -/
def deepPorts (s : State) : List Nat := maskList (fv s WAGON_DEEP_CFG_PORTS)

/-- Whether DEEP_CFG breaks R399: interleave, ports, or size. -/
def deepBad (s : State) : Bool :=
  let ps := deepPorts s
  let iw := ps.length
  ps != [] &&
    (!(iw = 1 || iw = 2 || iw = 4 || iw = 8)
      || ps.any (fun x => x ≥ s.part.cxls || fv s (CXL_STATUS_STATE x) = 4 || fv s (CXL_STATUS_STATE x) = 0)
      || iw * fv s WAGON_DEEP_CFG_PORT_GIB > 8192 * s.part.iods)

/-- Bytes of fitted deep memory (R399). -/
def deepFitted (s : State) : Nat :=
  if deepPorts s = [] || deepBad s then 0
  else (deepPorts s).length * fv s WAGON_DEEP_CFG_PORT_GIB * 0x40000000

/-- The port a deep-window offset lies on (R398). -/
def deepPort (s : State) (off : Nat) : Nat :=
  let ps := deepPorts s
  ps.getD ((off / 4096) % ps.length) 0

/-- Where the byte at a deep-window offset is stored: its port's own space, at the port-local address (R398). -/
def deepCell (s : State) (off : Nat) : Nat :=
  2 ^ 56 + deepPort s off * 2 ^ 48 + off / 4096 / (deepPorts s).length * 4096 + off % 4096

/-- The storage places of the 4 KiB granules of a 2 MiB page of the deep window. -/
def deepGranules (s : State) (off : Nat) : List Nat := (List.range 512).map (fun i => deepCell s (off + 4096 * i))

/-! ## Retired pages (R467-R473) -/

/-- The valid remap entries of a stack, ascending. -/
def remaps (s : State) (st : Nat) : List (Nat × Nat) :=
  (s.regs.filter (fun e => HBM_REMAP st 0 ≤ e.1 && e.1 < HBM_REMAP st 512)).filterMap
    (fun e => let v := e.2.toNat; if bit v 31 then some (bits v 0 16, bits v 16 9) else none)

/-- The spare slot that stands for a page, if it is retired; an entry filled later stands for the earlier (R473). -/
def remapSlot (s : State) (st page : Nat) : Option Nat :=
  ((remaps s st).filter (fun e => e.1 = page)).getLast?.map Prod.snd

/-- Where the line at a stack offset is stored: none when its page was retired without a spare (R472). -/
def storageOff (s : State) (st off : Nat) : Option Nat :=
  if off < usableBytes then
    match remapSlot s st (off / page2M) with
    | some 0x1FF => none
    | some slot => some (spareBase + slot * page2M + off % page2M)
    | none => some off
  else some off

/-- The pseudo-channel of line L of a stack (R365). -/
def pcOf (l : Nat) : Nat :=
  let x (k : Nat) := l / 2 ^ k % 64
  Nat.xor (Nat.xor (Nat.xor (x 0) (x 6)) (Nat.xor (x 12) (x 18))) (x 24)

/-- Where a line of a stack lies (Table 9.4): channel, pseudo-channel of the channel, and the fields of the local line. -/
structure LineLoc where
  channel : Nat
  pc : Nat
  row : Nat
  bank : Nat
  inRow : Nat
  deriving DecidableEq, Repr

/-- The place of line L of a stack (R365). -/
def lineLoc (l : Nat) : LineLoc :=
  let j := bits l 6 23
  ⟨pcOf l / 2, pcOf l % 2, bits j 7 16, bits j 2 5, bits j 0 2⟩

/-! ## Bytes and poison as stored -/

/-- `n` bytes as stored from a storage address. -/
def rawBytes (s : State) (a n : Nat) : List Byte := mgetRun (fun _ => 0) s.mem a n

/-- The syndrome of a line or marked unit at a storage address. -/
def synAt (s : State) (a : Nat) : BitVec 32 := mget (fun _ => 0) s.syn a

def poisonSyn : BitVec 32 := 0xFFFFFFFF

/-- A storage address's mark is poison. -/
def poisonedAt (s : State) (a : Nat) : Bool := synAt s a = poisonSyn

def setPoison (a : Nat) (p : Bool) : M Unit := setSyn a (if p then poisonSyn else 0)

/-! ## The error logs (R460, R461) -/

/-- Enter an event in the log at `w0`/`w1` of `size` entries; `source` as Table 11.7. -/
def logEvent (w0 w1 : Nat → Nat) (size line source : Nat) (lost full : Fld) : M Unit := do
  let s ← getS
  let idx := List.range size
  let t32 := s.tick % 2 ^ 32
  match idx.find? (fun i => bit (rg s (w0 i)) 0 && bits (rg s (w0 i)) 8 29 = line) with
  | some i =>
    let v := rg s (w0 i)
    setReg (w0 i) (withBits v 48 16 (min 65535 (bits v 48 16 + 1)))
    setReg (w1 i) (withBits (rg s (w1 i)) 32 32 t32)
  | none =>
    match idx.find? (fun i => !bit (rg s (w0 i)) 0) with
    | some i =>
      setReg (w0 i) (1 + source * 2 + line * 256 + 2 ^ 48)
      setReg (w1 i) (t32 + t32 * 2 ^ 32)
    | none =>
      bump lost
      flag full

def logCe (st line source : Nat) : M Unit := do
  bump (HBM_CE_COUNT_COUNT st)
  logEvent (HBM_CE_LOG_W0 st) (HBM_CE_LOG_W1 st) 32 line source (HBM_CE_LOST_COUNT st) (HBM_RAS_STATUS_CE_FULL st)

def logUe (st line source : Nat) : M Unit := do
  bump (HBM_UE_COUNT_COUNT st)
  logEvent (HBM_UE_LOG_W0 st) (HBM_UE_LOG_W1 st) 16 line source (HBM_UE_LOST_COUNT st) (HBM_RAS_STATUS_UE_FULL st)

/-! ## One line of a stack -/

/-- The outcome of a line's reads (Table 11.1). -/
inductive LineGot where
  | good
  | poisoned
  | uncorrectable
  deriving DecidableEq, Repr

/-- A syndrome's class (R442). -/
def synClass (v : BitVec 32) : LineGot :=
  if v = 0 then .good else if v = poisonSyn then .poisoned else .uncorrectable

/-- The errors the command brings for a line's two reads. -/
def errOf (s : State) (a : Nat) : LineErr := (s.lineErrs.find? (fun e => e.line = a)).getD ⟨a, 0, 0⟩

/-- Read the line stored at address `a` of a stack under Table 11.1, counting and logging; `source` as Table 11.7. -/
def readStored (st a source : Nat) : M LineGot := do
  let s ← getS
  let e := errOf s a
  let line := a % stackBytes / 256
  bump (HBM_RD_LINES_COUNT st)
  let first := synClass (synAt s a ^^^ BitVec.ofNat 32 e.e1)
  match first with
  | .good => return .good
  | .poisoned =>
    bump (HBM_POISON_READS_COUNT st)
    return .poisoned
  | .uncorrectable =>
    bump (HBM_RD_LINES_COUNT st)
    match synClass (synAt s a ^^^ BitVec.ofNat 32 e.e2) with
    | .good =>
      logCe st line source
      return .good
    | .poisoned =>
      logCe st line source
      bump (HBM_POISON_READS_COUNT st)
      return .poisoned
    | .uncorrectable =>
      logUe st line source
      return .uncorrectable

/-- Write a full line with its check word, or its complement for a poisoned line (R441). -/
def writeStored (st a : Nat) (bs : List Byte) (poison : Bool) : M Unit := do
  setMem a bs
  setPoison a poison
  bump (HBM_WR_LINES_COUNT st)

/-- The data of a line that no read returned good is not given by the spec: free bytes (log 3, DESIGN CHOICE). -/
def lineData (a : Nat) (g : LineGot) : M (List Byte) := do
  match g with
  | .uncorrectable => freeBytes 256
  | _ => return rawBytes (← getS) a 256

/-! ## The write-combining buffer (R376-R383) -/

def fullMask : Nat := 2 ^ 2048 - 1

/-- Old bits where the mask is 0, new bits where it is 1. -/
def mergeBits (old new mask : Nat) : Nat := Nat.lor (Nat.land old (Nat.xor fullMask mask)) (Nat.land new mask)

/-- Take an entry out of the buffer. -/
def dropWcb (st line : Nat) : M Unit := modStack st (fun k => { k with wcb := k.wcb.filter (fun e => e.line != line) })

/-- Complete one entry (R378, R379, R445). -/
def completeEntry (st : Nat) (e : Wcb) : M Unit := do
  dropWcb st e.line
  if e.mask = fullMask then
    bump (HBM_WCB_FULLMASK_COUNT st)
    writeStored st e.line (natLe 256 e.data) e.poison
  else
    let got ← readStored st e.line 1
    let old ← lineData e.line got
    let p := e.poison || got != .good
    bump (HBM_RMW_COUNT st)
    writeStored st e.line (natLe 256 (mergeBits (leNat old) e.data e.mask)) p
    when' (got != .good) (flag (HBM_STATUS_WCB_POISON st))

/-- Complete the entry of a line, if the buffer holds one. -/
def completeLine (st line : Nat) : M Unit := do
  match (theStack (← getS) st).wcb.find? (fun e => e.line = line) with
  | some e => completeEntry st e
  | none => pure ()

/-- Complete every entry that `p` selects, oldest first. -/
def completeWhere (st : Nat) (p : Wcb → Bool) : M Unit := do
  each ((theStack (← getS) st).wcb.filter p) (completeEntry st)

/-- A fence from a requester (R382): every entry holding its bits is completed. -/
def fenceOf (req : Nat) : M Unit := do
  let s ← getS
  each (List.range s.part.nStacks) (fun st => completeWhere st (fun e => e.reqs.contains req))

/-- A partial write of a storage line (R377, R378). -/
def partialStored (st line req data mask : Nat) (poison : Bool) : M Unit := do
  let k := theStack (← getS) st
  match k.wcb.find? (fun e => e.line = line) with
  | some e =>
    let e' : Wcb := ⟨line, mergeBits e.data data mask, Nat.lor e.mask mask, e.poison || poison,
      if e.reqs.contains req then e.reqs else e.reqs ++ [req]⟩
    if e'.mask = fullMask then completeEntry st e'
    else modStack st (fun k => { k with wcb := k.wcb.map (fun x => if x.line = line then e' else x) })
  | none =>
    if k.wcb.length ≥ 512 then
      match k.wcb with
      | o :: _ =>
        bump (HBM_WCB_EVICT_COUNT st)
        completeEntry st o
      | [] => pure ()
    modStack st (fun k => { k with wcb := k.wcb ++ [⟨line, Nat.land data mask, mask, poison, [req]⟩] })

/-- Read the line stored at an address: an entry of the buffer for it is completed, and the merged line is the answer
(R367, R378, R380); else the line is read under Table 11.1. -/
def readMerged (st a source : Nat) : M (LineGot × List Byte) := do
  if (theStack (← getS) st).wcb.any (fun e => e.line = a) then
    completeLine st a
    let s ← getS
    return (synClass (synAt s a), rawBytes s a 256)
  else
    let got ← readStored st a source
    return (got, ← lineData a got)

/-- Write bits of the line stored at an address (R376, R377). -/
def writeMerged (st a req data mask : Nat) (poison : Bool) : M Unit := do
  if mask = fullMask then
    dropWcb st a
    writeStored st a (natLe 256 data) poison
  else partialStored st a req data mask poison

/-! ## Pending requests (R366, R370, R374) -/

/-- The storage line of a pending request. -/
def reqLine (s : State) (st : Nat) (q : HbmReq) : Nat :=
  match storageOff s st (q.addr % stackBytes) with
  | some o => st * stackBytes + o - o % 256
  | none => 0

/-- Slots in use, and their peak: every pending request holds one, and so does a request while it is served (R374). -/
def noteSlots (st now : Nat) : M Unit := do
  setFld (HBM_INFLIGHT_NOW st) (theStack (← getS) st).queue.length
  when' (decide ((← fld (HBM_INFLIGHT_PEAK st)) < now)) (setFld (HBM_INFLIGHT_PEAK st) now)

/-- The pseudo-channel of a storage line. -/
def pcAt (a : Nat) : Nat := pcOf (a % stackBytes / 256)

/-- A count kept by pseudo-channel. -/
def pcCount (l : List (Nat × Nat)) (pc : Nat) : Nat := ((l.find? (fun e => e.1 = pc)).getD (pc, 0)).2
def pcBump (l : List (Nat × Nat)) (pc : Nat) : List (Nat × Nat) := (pc, pcCount l pc + 1) :: l.filter (fun e => e.1 != pc)

/-- An access takes a slot while it is served, and a line of its pseudo-channel's window (R374). -/
def noteSlot (st a : Nat) : M Unit := do
  noteSlots st ((theStack (← getS) st).queue.length + 1)
  modStack st (fun k => { k with served := pcBump k.served (pcAt a) })

/-- Class-0 lines that a pseudo-channel serves in a window before every other class (R370). -/
def class0Limit (s : State) (st : Nat) : Nat := 145 * min 64 (fv s (HBM_PRIO_CLASS0_SHARE st)) / 128

/-- Class 0 is past its limit in the window of a pseudo-channel (R370). -/
def class0Spent (s : State) (st pc : Nat) : Bool := decide (class0Limit s st ≤ pcCount (theStack s st).served0 pc)

/-- Class 0 within its window's limit (R370): beyond it the request is served as class 1 and counted. -/
def noteClass (st a cls : Nat) : M Unit := do
  if cls = 0 then
    if class0Spent (← getS) st (pcAt a) then bump (HBM_CLASS0_CAPPED_COUNT st)
    else modStack st (fun k => { k with served0 := pcBump k.served0 (pcAt a) })

/-- Carry a request out: a read's bytes go to its requester. -/
def serveReq (st a : Nat) (q : HbmReq) : M Unit := do
  modStack st (fun k => { k with queue := k.queue.erase q })
  noteSlot st a
  noteClass st a q.cls
  match q.write with
  | some w => writeMerged st a q.req w.1 w.2.1 w.2.2
  | none =>
    let r ← readMerged st a 0
    emit (.bytes (q.addr - q.addr % 256) r.2 (r.1 != .good))

/-- An access to a line comes after the requests for the line that wait at its controller (R366). -/
def serveLine (st a : Nat) : M Unit := do
  let s ← getS
  each ((theStack s st).queue.filter (fun q => reqLine s st q = a)) (serveReq st a)

/-! ## Requests to a stack -/

/-- The control die's requester number (Table 9.5). -/
def reqDie : Nat := 72
def reqDisp : Nat := 64
def reqWagon : Nat := 65
def reqScrub : Nat := 66

/-- What stands between a request and its storage line. -/
inductive Gate where
  /-- The storage address of the line. -/
  | at (st a : Nat)
  /-- Not performed: ACCESS with this CODE (R7, R472). -/
  | absent (code : Nat)
  /-- Waits. -/
  | hold (w : HoldWhy)
  /-- The check words, for the control die (R364). -/
  | check (st off : Nat)
  deriving DecidableEq, Repr

/-- Judge an HBM address for a requester: the stack's state, the reserved ranges, retirement (R363, R364, R386, R389,
R469, R472, R660). -/
def gateHbm (s : State) (req st off : Nat) : Gate :=
  let state := fv s (HBM_STATUS_STATE st)
  if state = 5 || state = 0 then .absent 0
  else if state != 2 then .hold (.refused 6 st (st * stackBytes + off))
  else if off ≥ usableBytes && req < 72 then .absent 0
  else if off ≥ checkBase then .check st off
  else
    let page := off / page2M
    match (theStack s st).retire with
    | some r =>
      if r.page = page && !r.waits && off < usableBytes then .hold (.retire page)
      else match storageOff s st off with
        | some o => .at st (st * stackBytes + o - o % 256)
        | none => .absent 4
    | none => match storageOff s st off with
      | some o => .at st (st * stackBytes + o - o % 256)
      | none => .absent 4

/-- A line as a requester receives it. -/
inductive LineOut where
  | data (bs : List Byte) (poison : Bool)
  | uncorr (bs : List Byte)
  | absent (code : Nat)
  | hold (w : HoldWhy)
  deriving DecidableEq, Repr

/-- The word that a stack holds for a line, by storage address: the check word, its complement for a poisoned line, what it
is where they differ, with what this command's read adds (R364, R441). -/
def checkWord (s : State) (a : Nat) : BitVec 32 :=
  BitVec.ofNat 32 (crc32c (rawBytes s a 256 ++ natLe 8 a)) ^^^ synAt s a ^^^ BitVec.ofNat 32 (errOf s a).e1

/-- The 64 check words that a line of the check-word range holds. -/
def checkLine (s : State) (st off : Nat) : List Byte :=
  let k := (off - off % 256 - checkBase) / 4
  (List.range 64).flatMap (fun i => natLe 4 (checkWord s (st * stackBytes + (k + i) * 256)).toNat)

/-- Read the 256 B line of an HBM address (R366, R367, R378, R380, R443). -/
def readHbm (req cls st off source : Nat) : M LineOut := do
  match gateHbm (← getS) req st off with
  | .absent c => return .absent c
  | .hold w => return .hold w
  | .check st off => return .data (checkLine (← getS) st off) false
  | .at st a =>
    serveLine st a
    noteSlot st a
    noteClass st a cls
    let r ← readMerged st a source
    match r.1 with
    | .good => return .data r.2 false
    | .poisoned => return .data r.2 true
    | .uncorrectable => return .uncorr r.2

/-- The outcome of a write. -/
inductive WrOut where
  | ok
  | absent (code : Nat)
  | hold (w : HoldWhy)
  /-- A deep write that is never answered (R434). -/
  | failed
  deriving DecidableEq, Repr

/-- The value an 8-byte word in HBM has after every buffered write to it: the buffer's bits over the stored ones. -/
def peek8 (s : State) (pa : Nat) : Nat :=
  let st := pa / stackBytes
  match storageOff s st (pa % stackBytes) with
  | none => 0
  | some o =>
    let a := st * stackBytes + o
    let line := a - a % 256
    let w := leNat (rawBytes s a 8)
    match (theStack s st).wcb.find? (fun e => e.line = line) with
    | some e => let sh := 8 * (a % 256); mergeBits w (e.data / 2 ^ sh % 2 ^ 64) (e.mask / 2 ^ sh % 2 ^ 64)
    | none => w

/-- The deep index of an offset of the window. -/
def deepIdx (off : Nat) : Nat := off / page2M

/-- Deep pages fitted (D of R403). -/
def deepPages (s : State) : Nat := deepFitted s / page2M

/-- The stacks of the pool, ascending. -/
def poolStacks (s : State) : List Nat := maskList (fv s WAGON_POOL_STACKS_MASK)

/-- How many pool frames there are (R403). -/
def poolFrames (s : State) : Nat := (poolStacks s).length * fv s WAGON_POOL_CFG_PER_STACK

/-- Whether a word of HBM is an entry of the directory (R403). -/
def inDir (s : State) (pa : Nat) : Bool :=
  decide (rg s WAGON_DIR_BASE ≤ pa) && decide (pa < rg s WAGON_DIR_BASE + 8 * (deepPages s + poolFrames s))

/-- A write by another than the Wagon while it is not DISABLED: the device keeps the value it had for each directory entry
of the line (R406). -/
def guardDir (req pa mask : Nat) : M Unit := do
  let s ← getS
  let line := pa - pa % 256
  when' (req != reqWagon && fv s WAGON_STATUS_STATE != 0) (
    each (((List.range 32).map (fun i => line + 8 * i)).filter (fun a =>
        inDir s a && mask / 2 ^ (8 * (a % 256)) % 2 ^ 64 != 0 && !s.wagon.dir.any (fun e => e.1 = a)))
      (fun a => modWagon (fun w => { w with dir := w.dir ++ [(a, peek8 s a)] })))

/-- Write bits of the line of an HBM address (R366, R376, R377); the check words are not written (R364). -/
def writeHbm (req st off data mask : Nat) (poison : Bool) : M WrOut := do
  match gateHbm (← getS) req st off with
  | .absent c => return .absent c
  | .hold w => return .hold w
  | .check _ _ => return .ok
  | .at st' a =>
    guardDir req (st * stackBytes + off) mask
    serveLine st' a
    noteSlot st' a
    writeMerged st' a req data mask poison
    return .ok

/-! ## The deep tier -/

/-- The stack and stack offset of pool frame f (R403). -/
def frameAt (s : State) (f : Nat) : Nat × Nat :=
  let ps := poolStacks s
  (ps.getD (f % ps.length) 0, (fv s WAGON_POOL_CFG_OFF + f / ps.length) * page2M)

/-- The device-physical address of pool frame f. -/
def frameAddr (s : State) (f : Nat) : Nat := (frameAt s f).1 * stackBytes + (frameAt s f).2

/-- The device-physical address of the directory entry of deep page d, and of pool frame f. -/
def dirAddr (s : State) (d : Nat) : Nat := rg s WAGON_DIR_BASE + 8 * d
def dirFrameAddr (s : State) (f : Nat) : Nat := rg s WAGON_DIR_BASE + 8 * (deepPages s + f)

/-- A directory entry of a deep page (Table 10.3). -/
structure DirEnt where
  promoted : Bool
  pinned : Bool
  lost : Bool
  frame : Nat
  heat : Nat
  deriving DecidableEq, Repr

def DirEnt.of (v : Nat) : DirEnt := ⟨bit v 0, bit v 1, bit v 2, bits v 4 20, bits v 48 16⟩
def DirEnt.word (e : DirEnt) : Nat :=
  b2n e.promoted + 2 * b2n e.pinned + 4 * b2n e.lost + 16 * (e.frame % 2 ^ 20) + (e.heat % 2 ^ 16) * 2 ^ 48

/-- A directory word as the device has it: its own value where it is not the one in memory (R406). -/
def dirWord (s : State) (pa : Nat) : Nat :=
  match s.wagon.dir.find? (fun e => e.1 = pa) with
  | some e => e.2
  | none => peek8 s pa

/-- The Wagon has a directory: it is not DISABLED, or DIR_BASE names where it will stand. -/
def dirThere (s : State) : Bool := fv s WAGON_STATUS_STATE != 0 || rg s WAGON_DIR_BASE != 0

/-- The directory entry of a deep page; while the Wagon is DISABLED every page is at its named frame (R407), and those that
it has marked LOST stay so (R431, R432). -/
def dirOf (s : State) (d : Nat) : DirEnt :=
  if fv s WAGON_STATUS_STATE = 0 then ⟨false, false, s.wagon.lost.contains d, 0, 0⟩ else DirEnt.of (dirWord s (dirAddr s d))

/-- Whether a page waits under R420: it is in transit, or the Wagon is RESUMING (R429). -/
def inTransit (s : State) (d : Nat) : Bool :=
  fv s WAGON_STATUS_STATE = 3 || s.wagon.moves.any (fun m => m.page = d)

/-- Where an access to a deep page goes. -/
inductive Home where
  | named (off : Nat) (lost : Bool)
  | pool (st off : Nat)
  | waits (d : Nat)
  deriving DecidableEq, Repr

def homeOf (s : State) (off : Nat) : Home :=
  let d := deepIdx off
  if inTransit s d then .waits d
  else
    let e := dirOf s d
    if e.promoted then let f := frameAt s e.frame; .pool f.1 (f.2 + off % page2M)
    else .named off e.lost

/-- Whether a port answers. -/
def portUp (s : State) (x : Nat) : Bool := fv s (CXL_STATUS_STATE x) = 2

/-- Count a failed access to a port (R434). -/
def countFailed (x : Nat) (ctx : Option Nat) : M Unit := do
  bump (CXL_FAILED_COUNT x)
  match ctx with
  | some c => bump (CTX_DEEP_FAIL_N_COUNT c)
  | none => pure ()

/-- How a requester reaches memory: its number, class, its context (none: not on behalf of one), whether through a
level-2 leaf, whether through a 1 GiB leaf (R402, R409, R703), whether a page locked for re-sourcing is open to it
(R586, R587), and the context address, where a context makes the access. -/
structure Via where
  req : Nat
  cls : Nat
  ctx : Option Nat
  leaf2 : Bool
  leaf1 : Bool
  lockOk : Bool
  va : Nat
  deriving DecidableEq, Repr

/-! ## Requests that a unit in reset refuses (R661) -/

/-- The units that hold a refused request themselves: the dispatcher and the I/O dies. A core holds its tile, the work of the
Wagon and of the scrubber waits for the stack (Table 15.6), and the control die is told. -/
def holdsRefused (req : Nat) : Bool := req = reqDisp || (decide (68 ≤ req) && decide (req < reqDie))

/-- The request of a unit for a line that a stack has refused. -/
def turnedOf (s : State) (st req line : Nat) (write : Bool) : Option Turned :=
  (theStack s st).turned.find? (fun t => t.req = req && t.line = line && t.write == write)

/-- A stack's refused requests without one. -/
def dropTurned (st req line : Nat) (write : Bool) : M Unit :=
  modStack st (fun k => { k with turned := k.turned.filter (fun t => !(t.req = req && t.line = line && t.write == write)) })

/-- A request of a unit is refused: the unit holds it. Answers whether it has failed, which ends it. -/
def turnAway (v : Via) (st line : Nat) (write : Bool) : M Bool := do
  let s ← getS
  match turnedOf s st v.req line write with
  | some t =>
    when' t.failed (dropTurned st v.req line write)
    return t.failed
  | none =>
    modStack st (fun k => { k with
      turned := k.turned ++ [⟨v.req, v.ctx, if v.ctx.isSome then v.va else line, line, write, s.tick, false⟩] })
    bump RESET_REFUSALS_COUNT
    return false

/-- Read the line of an HBM address for a unit under a requester's number; a read that a unit has held too long is delivered
with a poison mark (R661), its data free (log 3, DESIGN CHOICE). -/
def unitRead (v : Via) (req cls st off : Nat) : M LineOut := do
  match ← readHbm req cls st off 0 with
  | .hold (.refused d u a) =>
    let failed ← if holdsRefused v.req then turnAway v st (st * stackBytes + (off - off % 256)) false else pure false
    if failed then return .data (← freeBytes 256) true else return .hold (.refused d u a)
  | o => return o

/-- Write bits of the line of an HBM address for a unit; a write that a unit has held too long is over, and has faulted its
context (R661). -/
def unitWrite (v : Via) (req st off data mask : Nat) (poison : Bool) : M WrOut := do
  match ← writeHbm req st off data mask poison with
  | .hold (.refused d u a) =>
    let failed ← if holdsRefused v.req then turnAway v st (st * stackBytes + (off - off % 256)) true else pure false
    if failed then return if v.ctx.isSome then .ok else .failed else return .hold (.refused d u a)
  | o => return o

/-! ## Lines of the deep tier -/

/-- An I/O die that is being reset refuses every request (R660). -/
def iodRefuses (s : State) (x : Nat) : Bool := fb s (RESET_GEN_IOD_RESETTING (x / 2))

/-- An access to a port is outstanding: the next number, its port, its context address, its data, and the tick of its
answer, if one comes. -/
def deepOut (x off va req : Nat) (ctx : Option Nat) (data : Option (Nat × Nat)) (due : Option Nat) (leaf1 polled : Bool) : M Unit := do
  let s ← getS
  modDeepNext (· + 1)
  modCxl x (fun c => { c with out := c.out ++ [⟨s.deepNext, off, va, s.tick, ctx, req, data, due, false, false, leaf1, polled⟩] })

/-- The accesses that a requester waits for on a port, reads or writes. -/
def polledOf (s : State) (x req : Nat) (write : Bool) : List DeepAcc :=
  (theCxl s x).out.filter (fun a => a.polled && a.req = req && a.write.isSome == write)

/-- An access has failed and its requester may still take the outcome (log 48, DESIGN CHOICE). -/
def failedNow (s : State) (a : DeepAcc) : Bool :=
  a.failed && decide (s.tick ≤ a.issued + 2 * (fv s WAGON_DEEP_FAIL_TICKS + 1))

/-- A requester no longer waits on a port. -/
def dropPolled (x req : Nat) (write : Bool) : M Unit := do
  when' (polledOf (← getS) x req write != []) (modCxl x (fun c => { c with
    out := c.out.filter (fun a => !(a.polled && a.req = req && a.write.isSome == write)) }))

/-- An access to a port that does not answer (R433, R434): `none`, it waits until it is late and then fails; `some`: it has
failed. The Wagon's own accesses are over when its move is. -/
def deepDown (v : Via) (x off : Nat) (data : Option (Nat × Nat)) : M (Option Unit) := do
  let s ← getS
  let mine := polledOf s x v.req data.isSome
  if v.req = reqWagon then
    countFailed x v.ctx
    return some ()
  else if mine.any (failedNow s) then
    when' (!mine.any (fun a => a.failed && a.off / 256 = off / 256)) (countFailed x v.ctx)
    return some ()
  else
    when' (!mine.any (fun a => !a.failed)) (do
      dropPolled x v.req data.isSome
      deepOut x off (if v.ctx.isSome then v.va else deepBase + off) v.req v.ctx data none v.leaf1 true)
    return none

/-- Read a line at its named place in the deep tier. A line with CXL poison, of a LOST page, or on a port that does not
answer in time is uncorrectable (Table 11.1, R431, R434). -/
def readDeepLine (v : Via) (off : Nat) (lost : Bool) : M LineOut := do
  let s ← getS
  let x := deepPort s off
  if iodRefuses s x then return .hold (.refused 5 (x / 2) (deepBase + off))
  else if !portUp s x then
    match ← deepDown v x off none with
    | none => return .hold (.deep x)
    | some _ => return .uncorr (← freeBytes 256)
  else
    dropPolled x v.req false
    bump (CXL_RD_LINES_COUNT x)
    let a := deepCell s (off - off % 256)
    if synAt s a ^^^ BitVec.ofNat 32 (errOf s (deepBase + off - off % 256)).e1 != 0 then
      bump (CXL_POISONED_COUNT x)
      flag (CXL_STATUS_POISON_IN x)
      return .uncorr (← freeBytes 256)
    else if lost then return .uncorr (← freeBytes 256)
    else return .data (rawBytes s a 256) false

/-- Write bits of a line at its named place in the deep tier: MemWr for a full line, MemWrPtl with byte enables for
less, which leaves a poisoned line poisoned (R701). On a port that does not answer in time the write fails and the line is
undefined (R434): free bytes (log 3, DESIGN CHOICE); a context's failed write has faulted it when it failed. -/
def writeDeepLine (v : Via) (off data mask : Nat) (poison : Bool) : M WrOut := do
  let s ← getS
  let x := deepPort s off
  let a := deepCell s (off - off % 256)
  if iodRefuses s x then return .hold (.refused 5 (x / 2) (deepBase + off))
  else if !portUp s x then
    match ← deepDown v x off (some (data, mask)) with
    | none => return .hold (.deep x)
    | some _ =>
      setMem a (← freeBytes 256)
      return if v.ctx.isSome then .ok else .failed
  else
    dropPolled x v.req true
    bump (CXL_WR_LINES_COUNT x)
    if mask = fullMask then
      setMem a (natLe 256 data)
      setPoison a poison
    else
      setMem a (natLe 256 (mergeBits (leNat (rawBytes s a 256)) data mask))
      when' poison (setPoison a true)
    return .ok

/-- An access that adds heat to a deep page (R409): the tick edge that samples it adds it (R410). -/
def addHeat (d : Nat) : M Unit := do
  let s ← getS
  modWagon (fun w => { w with touched := mset (fun _ => 0) w.touched d (mget (fun _ => 0) s.wagon.touched d + 1) })

/-! ## A line of any memory -/

/-- The open re-source request of the page of a device-physical address (R583, R584). -/
def rsrcOf (s : State) (pa : Nat) : Option Rsrc := s.wagon.rsrc.find? (fun r => r.page = pa - pa % page2M)

/-- The unit that serves an access by device-physical address reads the page's directory entry at class 1 (R703, R408). What
holds or forbids that read does so to the access; the home is the one that the device has (log 48, DESIGN CHOICE: also where
the entry's line is poisoned). The Wagon addresses frames directly. -/
def dirGate (v : Via) (d : Nat) : M (Option LineOut) := do
  let s ← getS
  if v.leaf2 || v.req = reqWagon || fv s WAGON_STATUS_STATE = 0 || inTransit s d then return none
  else
    let pa := dirAddr s d
    match ← unitRead v v.req 1 (pa / stackBytes) (pa % stackBytes) with
    | .hold w => return some (.hold w)
    | .absent c => return some (.absent c)
    | _ => return none

/-- An access through a level-2 leaf that is not held adds heat, whatever the page's home (R409). -/
def heatIf (v : Via) (off : Nat) (held : Bool) : M Unit := when' (v.leaf2 && !held) (addHeat (deepIdx off))

def LineOut.held : LineOut → Bool
  | .hold _ => true
  | _ => false

def WrOut.held : WrOut → Bool
  | .hold _ => true
  | _ => false

/-- Read the line of an offset of fitted deep memory at its page's home. -/
def readHome (v : Via) (off : Nat) : M LineOut := do
  match homeOf (← getS) off with
  | .waits d => return .hold (.move d)
  | .pool st o => unitRead v reqWagon v.cls st o
  | .named o lost => readDeepLine v o lost

/-- Write bits of it there. -/
def writeHome (v : Via) (off data mask : Nat) (poison : Bool) : M WrOut := do
  match homeOf (← getS) off with
  | .waits d => return .hold (.move d)
  | .pool st o => unitWrite v reqWagon st o data mask poison
  | .named o _ => writeDeepLine v o data mask poison

/-- Read the line of a device-physical address in HBM or the deep tier. -/
def readLine (v : Via) (pa : Nat) : M LineOut := do
  let s ← getS
  if !v.lockOk && (rsrcOf s pa).isSome then return .hold (.rsrc (pa - pa % page2M))
  else match regionOf s.part pa with
  | .hbm st off => unitRead v v.req v.cls st off
  | .deep off =>
    if off ≥ deepFitted s then return .absent 0
    else if v.leaf1 then readDeepLine v off false
    else
      match ← dirGate v (deepIdx off) with
      | some o => return o
      | none =>
        let r ← readHome v off
        heatIf v off r.held
        return r
  | _ => return .absent 0

/-- Write bits of the line of a device-physical address. -/
def writeLine (v : Via) (pa data mask : Nat) (poison : Bool) : M WrOut := do
  let s ← getS
  if !v.lockOk && (rsrcOf s pa).isSome then return .hold (.rsrc (pa - pa % page2M))
  else match regionOf s.part pa with
  | .hbm st off => unitWrite v v.req st off data mask poison
  | .deep off =>
    if off ≥ deepFitted s then return .absent 0
    else if v.leaf1 then writeDeepLine v off data mask poison
    else
      match ← dirGate v (deepIdx off) with
      | some (.hold w) => return .hold w
      | some _ => return .absent 0
      | none =>
        let r ← writeHome v off data mask poison
        heatIf v off r.held
        return r
  | _ => return .absent 0

/-! ## Runs of bytes -/

/-- The pieces of a run of bytes by 256 B line: address of the piece and its length. -/
def lineSplit : Nat → Nat → Nat → List (Nat × Nat)
  | 0, _, _ => []
  | fuel + 1, a, n =>
    if n = 0 then []
    else
      let k := min n (256 - a % 256)
      (a, k) :: lineSplit fuel (a + k) (n - k)

def linePieces (a n : Nat) : List (Nat × Nat) := lineSplit (n / 256 + 2) a n

/-- The data and bit mask that place bytes in their line. -/
def bitsOf (a : Nat) (bs : List Byte) : Nat × Nat :=
  let sh := 2 ^ (8 * (a % 256))
  (leNat bs * sh, (2 ^ (8 * bs.length) - 1) * sh)

/-- The result of reading a run of bytes. -/
structure Run where
  bs : List Byte
  poison : Bool
  stop : Option LineOut
  deriving DecidableEq, Repr

/-- Read a run of device-physical bytes line by line; an uncorrectable line is delivered poisoned, and a line that is
absent or held stops the run. -/
def readRun (v : Via) : List (Nat × Nat) → M Run
  | [] => pure ⟨[], false, none⟩
  | (a, k) :: rest => do
    let o ← readLine v a
    match o with
    | .data bs p =>
      let r ← readRun v rest
      return ⟨(bs.drop (a % 256)).take k ++ r.bs, p || r.poison, r.stop⟩
    | .uncorr bs =>
      let r ← readRun v rest
      return ⟨(bs.drop (a % 256)).take k ++ r.bs, true, r.stop⟩
    | o => return ⟨[], false, some o⟩

/-- Read `n` bytes at a device-physical address. -/
def readPhys (v : Via) (pa n : Nat) : M Run := readRun v (linePieces pa n)

/-- Write bytes at a device-physical address, line by line; the first write that is not performed is the answer. A run that
begins in a populated range and goes on into one that is not has its lines before it written, and a read is not answered
(log 47, DESIGN CHOICE: R7 does not say whether any byte of such an access is performed). -/
def writePhys (v : Via) (pa : Nat) (bs : List Byte) (poison : Bool) : M WrOut :=
  go (linePieces pa bs.length) bs
where
  go : List (Nat × Nat) → List Byte → M WrOut
    | [], _ => pure .ok
    | (a, k) :: rest, bs => do
      let d := bitsOf a (bs.take k)
      match ← writeLine v a d.1 d.2 poison with
      | .ok => go rest (bs.drop k)
      | o => return o

/-- The control die, and the dispatcher. -/
def viaDie : Via := ⟨reqDie, 2, none, false, false, false, 0⟩
def viaDisp : Via := ⟨reqDisp, 1, none, false, false, false, 0⟩

/-- The Wagon's traffic, at the class of CTRL.CLASS (R422). -/
def viaWagon (s : State) : Via := ⟨reqWagon, fv s WAGON_CTRL_CLASS, none, false, false, false, 0⟩

/-! ## The directory's writer (R406, R423) -/

/-- Write the entries that are due, oldest first, until one is held. -/
def flushDir : List Nat → M Unit
  | [] => pure ()
  | pa :: rest => do
    let s ← getS
    match ← writePhys (viaWagon s) pa (natLe 8 (dirWord s pa)) false with
    | .hold _ => pure ()
    | _ =>
      modWagon (fun w => { w with dir := w.dir.filter (fun e => e.1 != pa), dirDue := w.dirDue.filter (· != pa) })
      flushDir rest

/-- Write a directory entry; the Wagon is its only writer (R406). The device has the new value at once; a write that is held
is made later, in order. -/
def writeDir (pa v : Nat) : M Unit := do
  modWagon (fun w => { w with
    dir := w.dir.filter (fun e => e.1 != pa) ++ [(pa, v)], dirDue := w.dirDue.filter (· != pa) ++ [pa] })
  flushDir (← getS).wagon.dirDue

end Sys2Proof.Machine
end

