-- ==== Sys2Proof/Machine/Banks.lean ====
section
/-!
DEFINITION. Machine/Banks.lean: the banks of a core: their place in the SRAM window, poison marks, power states and
bindings (06_core_memory.md), and the capability record and repair history that changes of a core's resources reach.
-/

namespace Sys2Proof.Machine

/-! ## Places and contents -/

/-- Bytes of a bank: 0-3 are H0-H3, 4-11 are A0-A7. -/
def bankBytes (b : Nat) : Nat := if b < 4 then 0x200000 else 0x40000

/-- Window offset of a bank (Table 6.1). -/
def bankOff (b : Nat) : Nat := if b < 4 then b * 0x200000 else 0x800000 + (b - 4) * 0x40000

def winBase (n : Nat) : Nat := sramBase + n * 0x1000000

/-- Device-physical address of a byte of a bank. -/
def bankAddr (n b off : Nat) : Nat := winBase n + bankOff b + off

/-- The bytes that share one poison bit (R227, R229). -/
def poisonUnit (b : Nat) : Nat := if b < 4 then 32 else 4

/-- The poison bit of a byte of a bank. -/
def bankPoison (s : State) (n b off : Nat) : Bool := poisonedAt s (bankAddr n b off - off % poisonUnit b)

/-- Bytes of a bank. -/
def bankRead (s : State) (n b off len : Nat) : List Byte := rawBytes s (bankAddr n b off) len

/-- Whether any byte of a run in a bank is poisoned. -/
def bankRunPoison (s : State) (n b off len : Nat) : Bool :=
  let u := poisonUnit b
  let first := off / u
  (List.range ((off + len + u - 1) / u - first)).any (fun i => bankPoison s n b ((first + i) * u))

/-- Write bytes of a bank; `ps` marks the poisoned bytes (R227, R229). -/
def bankWrite (n b off : Nat) (bs : List Byte) (ps : List Bool) : M Unit := do
  let u := poisonUnit b
  let first := off / u
  setMem (bankAddr n b off) bs
  each (List.range ((off + bs.length + u - 1) / u - first)) (fun i => do
    let lo := (first + i) * u
    let a := max lo off
    let z := min (lo + u) (off + bs.length)
    let p := ((ps.drop (a - off)).take (z - a)).any id
    if z - a = u then setPoison (bankAddr n b lo) p
    else when' p (setPoison (bankAddr n b lo) true))

/-- An FP32 value of an accumulator bank. -/
def accRead (s : State) (n a row i : Nat) : FpP :=
  ⟨leNat (bankRead s n (4 + a) (row * 512 + 4 * i) 4), bankPoison s n (4 + a) (row * 512 + 4 * i)⟩

def accWrite (n a row i : Nat) (v : FpP) : M Unit :=
  bankWrite n (4 + a) (row * 512 + 4 * i) (natLe 4 v.v) (List.replicate 4 v.poison)

/-! ## Power -/

/-- The power register of a bank. -/
def bankReg (n b : Nat) : Nat := if b < 4 then CORE_HPWR n b else CORE_APWR n (b - 4)
def bankTarget (n b : Nat) : Fld := ⟨bankReg n b, 0, 2⟩
def bankState (n b : Nat) : Fld := ⟨bankReg n b, 4, 3⟩
def bankRetired (n b : Nat) : Fld := ⟨bankReg n b, 8, 1⟩

/-- How an access to a bank is judged (R235, R236). -/
inductive BankGate where
  | on
  | waits
  | refused
  deriving DecidableEq, Repr

def bankGate (s : State) (n b : Nat) : BankGate :=
  if fv s (bankTarget n b) != 0 then .refused
  else if fv s (bankState n b) = 0 then .on
  else .waits

/-- The judgement of accesses to several banks: one refused bank refuses, one that wakes waits. -/
def banksGate (s : State) (n : Nat) (bs : List Nat) : BankGate :=
  if bs.any (fun b => bankGate s n b = .refused) then .refused
  else if bs.any (fun b => bankGate s n b = .waits) then .waits
  else .on

/-- Count an access refused under R236. -/
def bankRefused (n b : Nat) : M Unit := do
  flag ⟨bankReg n b, 9, 1⟩
  bump (CORE_BANK_FAULTS_COUNT n)

/-- A unit of the core accesses a bank that refuses (R236): kind BANK, CODE 0. -/
def bankFault (n b off : Nat) : M Unit := do
  bankRefused n b
  faultCore n 2 0 b 0 (bankAddr n b off) 0

/-- A unit of the core waits for the banks of a list that wake (R235); what it waited for before is dropped. -/
def bankHold (n unit : Nat) (bs : List (Nat × Nat)) : M Unit := do
  let s ← getS
  let ws := (bs.filter (fun b => bankGate s n b.1 = .waits)).map (fun b => (⟨unit, b.1, b.2⟩ : BankWait))
  modCore n (fun c => { c with bankWaits := c.bankWaits.filter (fun w => w.unit != unit) ++ ws })

/-- A unit waits for no bank. -/
def bankFree (n unit : Nat) : M Unit := do
  when' ((theCore (← getS) n).bankWaits.any (fun w => w.unit = unit)) (bankHold n unit [])

/-- Fault for the first refused bank of a list. -/
def bankFaultOf (n : Nat) (bs : List (Nat × Nat)) : M Unit := do
  let s ← getS
  match bs.find? (fun b => bankGate s n b.1 = .refused) with
  | some (b, off) => bankFault n b off
  | none => pure ()

/-- The master code that holds a Hamper bank (Table 6.2). -/
def bindOf (s : State) (n b : Nat) : Nat := bits (rg s (CORE_HBIND n)) (4 * b) 4

def setBind (n b code : Nat) : M Unit := setFld ⟨CORE_HBIND n, 4 * b, 4⟩ code

/-- The lines' zeroing when a bank leaves OFF (R231), and at a clearing (R257, R316). -/
def clearBank (n b : Nat) : M Unit := do
  let lo := bankAddr n b 0
  let hi := lo + bankBytes b
  clearMem (fun a => lo ≤ a && a < hi)
  clearSyn (fun a => lo ≤ a && a < hi)
  when' (b = 11) (clearDraw (fun k => 512 * n ≤ k && k < 512 * n + 512))

/-! ## Modes of a core (R90-R94) -/

/-- The mode a mask of fenced Oxen gives (Table 2.10). -/
def modeOf (f : Nat) : Nat :=
  if f % 16 = 0 then 0
  else if f % 4 = 0 then 1
  else if f / 4 % 4 = 0 then 2
  else 3

/-- CORE_MODE: it follows a fence at once (R90-R93). -/
def coreMode (s : State) (n : Nat) : Nat := modeOf (theCore s n).fence

/-- The mode by which the Ox slots of the running program are counted: that of its start (R94, log 11, DEDUCED). -/
def slotMode (s : State) (n : Nat) : Nat := modeOf (theCore s n).modeF

/-- The Ox indices of the mode's slots, ascending (R94). -/
def slotOxen (m : Nat) : List Nat := if m = 0 then [0, 1, 2, 3] else if m = 1 then [0, 1] else if m = 2 then [2, 3] else []

/-- Whether OXk of a core is parked (R91). -/
def parked (s : State) (n k : Nat) : Bool :=
  !(slotOxen (coreMode s n)).contains k && !bit (theCore s n).fence k

/-- Whether OXk runs passes: neither fenced nor parked. -/
def oxAvail (s : State) (n k : Nat) : Bool := (slotOxen (coreMode s n)).contains k && !bit (theCore s n).fence k

/-- The Oxen, by index, that a mask of Ox slots names; a fenced Ox is no participant (R89), nor is a parked one (R91). -/
def oxenOfMask (s : State) (n mask : Nat) : List Nat :=
  (((slotOxen (slotMode s n)).zipIdx.filter (fun p => bit mask p.2)).map Prod.fst).filter (oxAvail s n)

/-- The Ox slot of OXk. -/
def slotOf (s : State) (n k : Nat) : Nat := (slotOxen (slotMode s n)).findIdx (· = k)

/-! ## The capability record (R487, R488) -/

/-- Usable MiB of a stack: what training found, less the pages retired without a spare (R472). -/
def stackMib (s : State) (i : Nat) : Nat :=
  if fv s (HBM_STATUS_STATE i) = 2 then 128512 - 2 * ((remaps s i).filter (fun e => e.2 = 0x1FF)).length else 0

/-- Spare slots of a stack that no remap entry names. -/
def sparesLeft (s : State) (i : Nat) : Nat := 256 - ((remaps s i).filter (fun e => e.2 ≠ 0x1FF)).length

/-- Wavelengths in service and spares left of a port: the smaller of its two directions (R550). -/
def portWaves (s : State) (p : Nat) : Nat := min (fv s (PORT_STATUS_TX_LANES p)) (fv s (PORT_STATUS_RX_LANES p))
def portSpares (s : State) (p : Nat) : Nat := min (fv s (PORT_STATUS_TX_SPARES p)) (fv s (PORT_STATUS_RX_SPARES p))

/-- A port that carries packets: UP or DEGRADED (Table 12.2). -/
def portCarries (s : State) (p : Nat) : Bool := fv s (PORT_STATUS_STATE p) = 2 || fv s (PORT_STATUS_STATE p) = 3

/-- Core n's two bytes. -/
def capCore (s : State) (n : Nat) : Nat :=
  let inServ := ((List.range 12).filter (fun b => !fb s (bankRetired n b))).foldl (fun v b => v + 2 ^ (b + 4)) 0
  coreMode s n + 4 * b2n (fv s (CORE_RESTRICT_CEIL n) != 0) + inServ

/-- Bytes 0x000-0x1FB of the record. -/
def capBody (s : State) (gen tick : Nat) : List Byte :=
  let up (f : Nat → Nat) (k : Nat) : Nat := ((List.range k).map f).sum
  natLe 4 1 ++ natLe 4 gen ++ natLe 8 tick ++ natLe 2 s.part.code ++ natLe 1 0xB0 ++ natLe 1 0
    ++ natLe 4 (up (fun n => ((List.range 4).filter (oxAvail s n)).length) 64)
    ++ natLe 4 (up (stackMib s) s.part.nStacks)
    ++ natLe 4 (up (fun p => if portCarries s p then 25 * portWaves s p else 0) s.part.ports)
    ++ natLe 4 (deepFitted s / 0x40000000) ++ natLe 1 (deepPorts s).length ++ natLe 3 0 ++ natLe 4 (poolFrames s) ++ natLe 4 0
    ++ (List.range 64).flatMap (fun n => natLe 2 (capCore s n))
    ++ (List.range 64).flatMap (fun n => natLe 1 (fv s (CORE_RESTRICT_CEIL n)))
    ++ (List.range 12).flatMap (fun i => if i < s.part.nStacks then
        natLe 1 (fv s (HBM_STATUS_STATE i)) ++ natLe 1 0 ++ natLe 2 (sparesLeft s i) ++ natLe 4 (stackMib s i) else natLe 8 0)
    ++ (List.range 32).flatMap (fun p => if p < s.part.ports then
        natLe 1 (fv s (PORT_STATUS_STATE p)) ++ natLe 1 (portWaves s p) ++ natLe 1 (portSpares s p) ++ natLe 1 0
        else natLe 4 0)
    ++ (List.range 8).flatMap (fun x => if x < s.part.cxls then
        natLe 1 (fv s (CXL_STATUS_STATE x)) ++ natLe 1 (fv s (CXL_STATUS_WIDTH x)) ++ natLe 1 (fv s (CXL_STATUS_RATE x)) ++ natLe 1 0
        else natLe 4 0)
    ++ natLe 12 0

/-- Write the record anew: GEN goes odd and, after the last change, even (R488). -/
def capUpdate : M Unit := do
  let s ← getS
  let gen := (bits (rg s (DISP_CAP 0)) 32 32 + 2) % 2 ^ 32
  let body := capBody s (gen - gen % 2) s.tick
  let all := body ++ natLe 4 (crc32c body)
  each (List.range 64) (fun w => setReg (DISP_CAP w) (leNat ((all.drop (8 * w)).take 8)))

/-! ## The repair history (R613, R614) -/

/-- Two entries stand for one repair: a later PAGE entry of a page supersedes an earlier one (R615). -/
def sameRepair (a b : RepEnt) : Bool :=
  a.kind = b.kind && a.unit = b.unit && (if a.kind = 5 then a.data % 65536 = b.data % 65536 else a.data = b.data)

/-- The entries that no later entry of the list supersedes. -/
def lastRepairs : List RepEnt → List RepEnt
  | [] => []
  | e :: es => if es.any (sameRepair e) then lastRepairs es else e :: lastRepairs es

/-- The SEQ after the last one. -/
def nextSeq (l : List RepEnt) : Nat := (l.getLast?.map (fun e => e.seq + 1)).getD 0

/-- Entries of one half of the history (Table 14.3). -/
def halfEntries : Nat := 65536

/-- K_RH (R613). -/
def repairKey (s : State) : List Byte :=
  (List.range 32).map (Config.hkdf384 (natLe 8 (rg s SEC_DEVICE_ID0) ++ natLe 8 (rg s SEC_DEVICE_ID1)) s.chain.secret
    ("TY-418x repair history".toList.map (fun c => BitVec.ofNat 8 c.toNat)))

/-- Bytes 0x00 to 0x1F of an entry (Table 14.7a). -/
def RepEnt.bytes (e : RepEnt) : List Byte :=
  natLe 1 e.kind ++ natLe 1 0 ++ natLe 2 e.unit ++ natLe 4 e.data ++ natLe 8 e.tick ++ natLe 8 e.seq ++ natLe 8 0

/-- The MAC of an entry (R613). -/
def repairMac (s : State) (e : RepEnt) : List Byte := (List.range 32).map (Config.hmac384 (repairKey s) e.bytes)

/-- An entry with its MAC. -/
def sealRepair (s : State) (e : RepEnt) : RepEnt := { e with mac := repairMac s e, bad := false }

/-- An entry counts and is in force. -/
def RepEnt.inForce (e : RepEnt) : Bool := e.live && !e.bad

/-- The other half, once the active half is full: one entry for each repair still in force, with fresh SEQ and MAC (R615). -/
def otherHalf (s : State) (l : List RepEnt) : List RepEnt :=
  (lastRepairs (l.filter RepEnt.inForce)).zipIdx.map (fun x => sealRepair s { x.1 with seq := nextSeq l + x.2 })

/-- Append an entry with the next SEQ. -/
def historyAdd (kind unit data : Nat) : M Unit := do
  let s ← getS
  modHistory (fun l =>
    let l := if l.length < halfEntries then l else otherHalf s l
    l ++ [sealRepair s ⟨kind, unit, data, s.tick, nextSeq l, true, [], false⟩])

end Sys2Proof.Machine
end

