-- ==== Sys2Proof/Machine/Desc.lean ====
section
/-!
DEFINITION. Machine/Desc.lean: stream descriptors and their places (Tables 7.3-7.5), the walk of a stream, tile images
in the banks (R258-R261, R282, R283), and the passes an OX stream forms (R293).
-/

namespace Sys2Proof.Machine

/-! ## Descriptor fields -/

/-- Word w of a descriptor. -/
def dw (d : List Nat) (w : Nat) : Nat := d.getD w 0

def dStation (d : List Nat) : Nat := bits (dw d 0) 0 4
def dExch (d : List Nat) : Nat := bits (dw d 0) 5 2
def dExchPair (d : List Nat) : Nat := bits (dw d 0) 7 1
def dBind (d : List Nat) : Nat := bits (dw d 0) 8 4
def dExchPeer (d : List Nat) : Nat := bits (dw d 0) 12 4
/-- E of R276. -/
def dExchTiles (d : List Nat) : Nat := bits (dw d 0) 16 12 + 1
def dTiles (d : List Nat) : Nat := bits (dw d 0) 32 32
/-- Rows of a tile. -/
def dRows (d : List Nat) : Nat := bits (dw d 1) 0 7 + 1
/-- Elements of a tile's row. -/
def dWidth (d : List Nat) : Nat := bits (dw d 1) 7 9 + 1
def dN0 (d : List Nat) : Nat := bits (dw d 1) 16 16 + 1
def dN1 (d : List Nat) : Nat := bits (dw d 1) 32 16 + 1
def dDr (d : List Nat) (k : Nat) : Nat := bits (dw d 2) (20 * k) 20
def dDc (d : List Nat) (k : Nat) : Nat := bits (dw d 3) (20 * k) 20
/-- C: the tensor's row length. -/
def dC (d : List Nat) : Nat := bits (dw d 4) 0 32
def dRowBase (d : List Nat) : Nat := bits (dw d 4) 32 32

/-- Word 8-15 fields. -/
def df (d : List Nat) (w lo n : Nat) : Nat := bits (dw d w) lo n

/-! Station codes (Table 7.6). -/
def stLoad : Nat := 1
def stYoke : Nat := 2
def stOx : Nat := 3
def stDrain : Nat := 4
def stMule : Nat := 5
def stReduce : Nat := 6
def stStore : Nat := 7
def stSend : Nat := 8
def stRecv : Nat := 9
def stTrail : Nat := 10
def stCollie : Nat := 11
def stMuleAux : Nat := 12

/-- The master class of a station (Table 7.6); 0 where it has none. -/
def stClass (st : Nat) : Nat :=
  if st = 1 || st = 9 then 4 else if st = 2 then 1 else if st = 3 then 2 else if st = 4 then 7
  else if st = 5 || st = 6 || st = 12 then 3 else if st = 7 || st = 8 then 5 else if st = 11 then 6 else 0

/-- A wait of a stream (R271): whether it is enabled, its counter, divisor, increment and initial target. -/
structure WaitD where
  en : Bool
  hc : Nat
  div : Nat
  inc : Nat
  init : Nat
  deriving DecidableEq, Repr

def dWait (d : List Nat) (k : Nat) : WaitD :=
  let w := dw d (5 + k)
  ⟨bit w 4, bits w 0 4, bits w 8 8 + 1, bits w 16 16, bits w 32 32⟩

/-- The target T of a wait for tile i, modulo 2^32 (R271). -/
def WaitD.target (w : WaitD) (i : Nat) : Nat := ((i / w.div) * w.inc + w.init) % 2 ^ 32

/-- Whether a wait holds for a counter's value. -/
def WaitD.holds (w : WaitD) (i v : Nat) : Bool := !w.en || signed ((v + 2 ^ 32 - w.target i) % 2 ^ 32) 32 ≥ 0

/-- An advance of a stream (R273). -/
structure AdvD where
  en : Bool
  hc : Nat
  event : Nat
  every : Nat
  add : Nat
  deriving DecidableEq, Repr

def dAdv (d : List Nat) (k : Nat) : AdvD :=
  let w := bits (dw d 7) (32 * k) 32
  ⟨bit w 4, bits w 0 4, bits w 5 2, bits w 8 8 + 1, bits w 16 16⟩

/-- The walk indices of tile i (R282). -/
def walkIdx (d : List Nat) (i : Nat) : Nat × Nat × Nat := (i % dN0 d, i / dN0 d % dN1 d, i / (dN0 d * dN1 d))

/-- The origin of tile i: row and column of the tensor (R282). -/
def origin (d : List Nat) (i : Nat) : Nat × Nat :=
  let w := walkIdx d i
  (dRowBase d + w.1 * dDr d 0 + w.2.1 * dDr d 1 + w.2.2 * dDr d 2, w.1 * dDc d 0 + w.2.1 * dDc d 1 + w.2.2 * dDc d 2)

/-! ## Places -/

/-- A place (Table 7.4), with RING counted in slots. -/
structure Place where
  type : Nat
  alt : Bool
  sel : Nat
  line : Nat
  step : Nat
  ring : Nat
  fmt : Nat
  deriving DecidableEq, Repr

def placeOf (w : Nat) : Place :=
  ⟨bits w 0 2, bit w 2, bits w 8 8, bits w 16 13, bits w 29 13, bits w 42 16 + 1, bits w 58 3⟩

/-- The reserved bits of a place word (Table 7.4). -/
def placeRsvd (w : Nat) : Bool :=
  bits w 3 5 != 0 || bits w 61 3 != 0 || (bits w 0 2 = 1 && bits w 10 6 != 0)

/-- A short place of the MULE stream, with the STEP and RING common to all its places. -/
def shortPlace (w step ring : Nat) : Place :=
  ⟨bits w 0 2, bit w 2, if bits w 0 2 = 1 then bits w 4 2 else bits w 4 8, bits w 12 13, step, ring, bits w 25 3⟩

def shortRsvd (w : Nat) : Bool := bit w 3 || bits w 28 4 != 0

/-- The banks of an accumulator mask, as bank numbers 4-11, ascending. -/
def accBanks (mask : Nat) : List Nat := ((List.range 8).filter (bit mask)).map (· + 4)

/-- A mask rotated left by 4 within 8 bits. -/
def rot4 (m : Nat) : Nat := (m * 16 + m / 16) % 256

/-- An image in the banks: its place for one tile, its format, rows and column blocks, and whether it alternates. -/
structure Img where
  type : Nat
  banks : List Nat
  line : Nat
  alt : Bool
  fmt : Fmt
  rows : Nat
  ncb : Nat
  deriving DecidableEq, Repr

/-- Where ring slot q of a place lies, for an image of some rows and width (R283). -/
def Place.img (p : Place) (i rows width : Nat) : Img :=
  let odd := p.alt && (i / p.ring) % 2 = 1
  let l := p.line + (i % p.ring) * p.step
  let sel := if p.type = 2 then (if odd then rot4 p.sel else p.sel) else if odd then Nat.xor (p.sel % 4) 1 else p.sel % 4
  let banks := if p.type = 2 then accBanks sel else [sel]
  ⟨p.type, banks, l, p.alt, fmtOf p.fmt, rows, ceilDiv width 128⟩

/-- Bytes of a row of one block (R259). -/
def Img.rowBytes (m : Img) : Nat := 128 * m.fmt.bitsPer / 8
/-- BL: lines of a block. -/
def Img.blockLines (m : Img) : Nat := ceilDiv (m.rows * m.rowBytes) 256
/-- Lines of the image. -/
def Img.lines (m : Img) : Nat := m.ncb * m.blockLines + (if m.fmt.scaled then m.ncb else 0)

/-- The bank and the byte offset in it of line l of an image (R261, R283). -/
def Img.lineAt (m : Img) (l : Nat) : Nat × Nat :=
  if m.type = 2 then
    if m.fmt.code = 6 then
      let k := l % m.blockLines
      (m.banks.getD (l / m.blockLines) 4, (m.line + k / 2) * 512 + k % 2 * 256)
    else
      let q := l / 2
      let nb := m.banks.length
      (m.banks.getD (q % nb) 4, (m.line + q / nb) * 512 + l % 2 * 256)
  else ((m.banks.getD 0 0) + (m.line + l) / 8192, ((m.line + l) % 8192) * 256)

/-- PLACE_RANGE (Table 7.10) does not hold: the image has a place, and stays within its bank, row 511, and the last
Hamper bank. -/
def Img.inRange (m : Img) : Bool :=
  if m.type = 0 then false
  else if m.type = 2 then
    let nb := m.banks.length
    if m.fmt.code = 6 then m.line + m.rows ≤ 512 && m.ncb ≤ nb
    else nb != 0 && m.line + ceilDiv (ceilDiv m.lines 2) nb ≤ 512
  else if m.alt then m.line + m.lines ≤ 8192
  else m.banks.getD 0 0 * 8192 + m.line + m.lines ≤ 4 * 8192

/-- The banks an image touches. -/
def Img.touches (m : Img) : List Nat := ((List.range m.lines).map (fun l => (m.lineAt l).1)).dedup

/-- Bytes of an image with the poison of each. -/
def imgBytes (s : State) (n : Nat) (m : Img) (off len : Nat) : List (Byte × Bool) :=
  (List.range len).map (fun x =>
    let a := m.lineAt ((off + x) / 256)
    let o := a.2 + (off + x) % 256
    (mget (fun _ => 0) s.mem (bankAddr n a.1 o), bankPoison s n a.1 o))

/-- Write a line of an image. -/
def imgWriteLine (n : Nat) (m : Img) (l : Nat) (bs : List (Byte × Bool)) : M Unit :=
  let a := m.lineAt l
  bankWrite n a.1 a.2 (bs.map Prod.fst) (bs.map Prod.snd)

/-- The image offset of row r of block j. -/
def Img.rowOff (m : Img) (j r : Nat) : Nat := j * m.blockLines * 256 + r * m.rowBytes

/-- The image offset of scale line j. -/
def Img.scaleOff (m : Img) (j : Nat) : Nat := (m.ncb * m.blockLines + j) * 256

/-- The elements of a run of bytes in a format: an element of several bytes is poisoned when any of them is. -/
def elemsOf (f : Fmt) (bs : List (Byte × Bool)) (k : Nat) : List Elem :=
  let codes := unpackCodes f (bs.map Prod.fst) k
  let ps := bs.map Prod.snd
  codes.zipIdx.map (fun c => ⟨c.1, if f.bitsPer ≥ 8 then
      ((ps.drop (c.2 * (f.bitsPer / 8))).take (f.bitsPer / 8)).any id else ps.getD (c.2 / 2) false⟩)

/-- The 128 elements of row r of block j. -/
def imgRow (s : State) (n : Nat) (m : Img) (j r : Nat) : List Elem :=
  elemsOf m.fmt (imgBytes s n m (m.rowOff j r) m.rowBytes) 128

/-- The elements of row r over every block. -/
def imgFullRow (s : State) (n : Nat) (m : Img) (width r : Nat) : List Elem :=
  ((List.range m.ncb).flatMap (fun j => imgRow s n m j r)).take width

/-- Byte x of scale line j, as an E8S code with its poison. -/
def imgScale (s : State) (n : Nat) (m : Img) (j x : Nat) : Elem :=
  if m.fmt.scaled then
    match imgBytes s n m (m.scaleOff j + x) 1 with
    | [(b, p)] => ⟨b.toNat, p⟩
    | _ => ⟨127, false⟩
  else ⟨127, false⟩

/-- An element row as image bytes, filled with zeros to a block row. -/
def rowBytesOf (f : Fmt) (es : List Elem) : List (Byte × Bool) :=
  let es := es ++ List.replicate (128 - es.length) ⟨0, false⟩
  let bs := packCodes f (es.map Elem.code)
  bs.zipIdx.map (fun b => (b.1, if f.bitsPer ≥ 8 then (es.getD (b.2 / (f.bitsPer / 8)) ⟨0, false⟩).poison
    else (es.getD (2 * b.2) ⟨0, false⟩).poison || (es.getD (2 * b.2 + 1) ⟨0, false⟩).poison))

/-- A scale line: 128 codes and 128 zero-block bits (R260). -/
def scaleLine (scales : List Elem) (zb : List Bool) : List (Byte × Bool) :=
  let s := scales.map (fun e => (BitVec.ofNat 8 e.code, e.poison))
  let z := (List.range 16).map (fun k =>
    (BitVec.ofNat 8 (((List.range 8).map (fun b => b2n (zb.getD (8 * k + b) false) * 2 ^ b)).sum), false))
  (s ++ List.replicate (128 - s.length) (0, false)) ++ z ++ List.replicate 112 (0, false)

/-- A tile ready to be written: its rows, one list of elements each, and per block its scale codes and zero-block bits. -/
structure TileData where
  rows : List (List Elem)
  scales : List (List Elem)
  zb : List (List Bool)
  deriving DecidableEq, Repr

/-- Write a whole image (R259, R260). -/
def imgWrite (n : Nat) (m : Img) (t : TileData) : M Unit := do
  each (List.range m.ncb) (fun j => do
    let bs := t.rows.flatMap (fun r => rowBytesOf m.fmt ((r.drop (128 * j)).take 128))
    let bs := bs ++ List.replicate (m.blockLines * 256 - bs.length) (0, false)
    each (List.range m.blockLines) (fun k => imgWriteLine n m (j * m.blockLines + k) ((bs.drop (256 * k)).take 256))
    when' m.fmt.scaled (imgWriteLine n m (m.ncb * m.blockLines + j) (scaleLine (t.scales.getD j []) (t.zb.getD j []))))

/-- FP32 vector of `k` values at a place: block j of 128 values lies 512 B further (an FP32 tile of one row). -/
def vecAt (s : State) (n : Nat) (m : Img) (k : Nat) : List FpP :=
  (imgFullRow s n m k 0).map (fun e => ⟨e.code, e.poison⟩)

/-- A run of `len` raw bytes from the first byte of an image, line by line. -/
def rawAt (s : State) (n : Nat) (m : Img) (len : Nat) : List (Byte × Bool) := imgBytes s n m 0 len

/-! ## Passes (R56, R293) -/

namespace PassField
def mode (d : PassD) : Nat := bits d.w0 0 3
def newStat (d : PassD) : Bool := bit d.w0 3
def fmtY (d : PassD) : Nat := bits d.w0 4 4
def fmtS (d : PassD) : Nat := bits d.w0 8 4
def acc (d : PassD) : Bool := bit d.w0 12
def rowTags (d : PassD) : Bool := bit d.w0 13
def statEn (d : PassD) : Bool := bit d.w0 14
def last (d : PassD) : Bool := bit d.w0 15
/-- Ka. -/
def ka (d : PassD) : Nat := bits d.w0 16 7 + 1
/-- Na. -/
def na (d : PassD) : Nat := bits d.w0 23 7 + 1
def rows (d : PassD) : Nat := bits d.w0 32 16
def seg (d : PassD) : Nat := bits d.w0 48 16
def sBank (d : PassD) : Nat := bits d.w1 0 2
def sLine (d : PassD) : Nat := bits d.w1 2 13
def sStride (d : PassD) : Nat := bits d.w1 15 16
def cBank (d : PassD) : Nat := bits d.w1 32 2
def cLine (d : PassD) : Nat := bits d.w1 34 13
def toMule (d : PassD) : Bool := bit d.w2 0
def aBank (d : PassD) : Nat := bits d.w2 1 3
def aRow (d : PassD) : Nat := bits d.w2 4 9
def tensor (d : PassD) : Nat := bits d.w2 32 32
def passId (d : PassD) : Nat := bits d.w3 0 16
/-- Reserved bits of Table 2.2, with NEW_STAT of an OS pass. -/
def rsvd (d : PassD) : Bool :=
  bits d.w0 30 2 != 0 || bit d.w1 31 || bits d.w1 47 17 != 0 || bits d.w2 13 19 != 0 || bits d.w3 16 48 != 0
    || (mode d = 1 && newStat d)
end PassField

/-- The template of an OX stream. -/
def oxTmpl (d : List Nat) : PassD := ⟨dw d 8, dw d 9, dw d 10, dw d 11⟩
def oxMask (d : List Nat) : Nat := df d 12 0 4
def oxG (d : List Nat) : Nat := df d 12 4 12 + 1

/-- Pass i for Ox slot k (R293). -/
def makePass (d : List Nat) (i k : Nat) : PassD :=
  let t := oxTmpl d
  let g := oxG d
  let ring := df d 12 32 16 + 1
  let grp := i / g
  let pos := i % g
  let slot := i % ring
  let flip := if df d 12 17 1 = 1 && (i / ring) % 2 = 1 then 1 else 0
  let sl := slot * df d 13 0 13
  let w0 := withBits t.w0 12 1 (if pos != 0 then 1 else b2n (PassField.acc t))
  let w0 := withBits w0 15 1 (b2n (pos + 1 = g))
  let w0 := withBits w0 48 16 (PassField.seg t + i)
  let w1 := withBits t.w1 0 2 (Nat.xor (PassField.sBank t) flip)
  let w1 := withBits w1 32 2 (Nat.xor (PassField.cBank t) flip)
  let w1 := withBits w1 2 13 (PassField.sLine t + sl + k * df d 13 13 13)
  let w1 := withBits w1 34 13 (PassField.cLine t + sl + k * df d 13 26 13)
  let w2 := withBits t.w2 1 3 (PassField.aBank t + k + (if df d 12 16 1 = 1 && grp % 2 = 1 then 4 else 0))
  ⟨w0, w1, w2, withBits t.w3 0 16 (PassField.passId t + i)⟩

/-! ## Places and segments of a program -/

/-- Tiles per segment of a YOKE stream. -/
def yokeTps (d : List Nat) : Nat := df d 9 0 9 + 1

/-- The number of the segment of tile i. -/
def yokeSeg (d : List Nat) (i : Nat) : Nat := (df d 9 32 16 + i / yokeTps d) % 65536

/-- The place of slot k of the REDUCE stream. -/
def rdPlace (d : List Nat) (k : Nat) : Place := placeOf (dw d (8 + k))

/-- STEP, RING and PROG of a MULE stream. -/
def muleStep (d : List Nat) : Nat := df d 15 16 13
def muleRing (d : List Nat) : Nat := df d 15 29 16 + 1
def muleP (d : List Nat) : Nat := df d 12 32 5
def muleShort (d : List Nat) (w lo : Nat) : Place := shortPlace (df d w lo 32) (muleStep d) (muleRing d)
/-- The places of IN0-IN3, ROWV, COLV and OUT0-OUT2. -/
def muleIn (d : List Nat) (j : Nat) : Place := muleShort d (8 + j / 2) (32 * (j % 2))

/-! ## The running program -/

/-- The slots of the running program that hold a station. -/
def slotsOf (s : State) (n station : Nat) : List Nat :=
  (List.range 16).filter (fun k => let x := (theCore s n).streams.getD k .unused; x.state != 0 && dStation x.desc = station)

def theStream (s : State) (n k : Nat) : Stream := (theCore s n).streams.getD k .unused
def modStream (n k : Nat) (f : Stream → Stream) : M Unit := modCore n (fun c => { c with streams := modNth c.streams k f })

/-- Whether a stream program runs. -/
def progRuns (s : State) (n : Nat) : Bool := (theCore s n).streams.any (fun x => x.state != 0)

/-- Whether the images that a stream writes at a Hamper place hold a line of a bank: `lines` lines each, in every ring
slot. -/
def Place.holds (p : Place) (lines bank line : Nat) : Bool :=
  let sel := p.sel % 4
  let pos := if p.alt then line else (bank - sel) * 8192 + line
  let q := if p.step = 0 then 0 else min ((pos - p.line) / p.step) (p.ring - 1)
  p.type = 1 && (if p.alt then bank = sel || bank = Nat.xor sel 1 else decide (sel ≤ bank))
    && decide (p.line ≤ pos) && decide (pos - p.line - q * p.step < lines)

/-- A scaled image that a stream writes: its place, whether its scales have the COL axis (R263), and its tile. -/
structure AxisOut where
  place : Place
  col : Bool
  rows : Nat
  width : Nat
  deriving DecidableEq, Repr

/-- The scaled images that a stream writes (R263): those of LOAD, of DRAIN's encodes and of the Mule's outputs, whose WEIGHT
encodes have the COL axis. -/
def axisOuts (d : List Nat) : List AxisOut :=
  let st := dStation d
  let of' (c : Bool) (p : Place) (col : Bool) : List AxisOut :=
    if c && (fmtOf p.fmt).scaled then [⟨p, col, dRows d, dWidth d⟩] else []
  if st = stLoad then of' true (placeOf (dw d 12)) (xor (df d 8 55 2 = 2) (df d 8 53 1 = 1))
  else if st = stDrain then
    of' (df d 10 3 1 = 1) (placeOf (dw d 9)) (df d 10 0 3 = 0) ++ of' (df d 10 11 1 = 1) (placeOf (dw d 12)) (df d 10 8 3 = 0)
  else if st = stMule then
    [(11, 0, bits (dw d 14) 32 16), (11, 32, bits (dw d 14) 48 16), (12, 0, bits (dw d 15) 0 16)].flatMap (fun o =>
      let q := shortPlace (df d o.1 o.2.1 32) (df d 15 16 13) (df d 15 29 16 + 1)
      of' (bit o.2.2 13) { q with fmt := bits o.2.2 3 3 } (bits o.2.2 6 3 = 0))
  else []

/-- The axis of the scaled image that a program's streams write where a line of a Hamper bank lies; none: no stream of the
program writes there (log 21, DEDUCED). -/
def axisOfLine (ds : List (List Nat)) (bank line : Nat) : Option Bool :=
  (ds.flatMap axisOuts).findSome? (fun a =>
    if a.place.holds (a.place.img 0 a.rows a.width).lines bank line then some a.col else none)

/-- The axis of the scaled image that a program's streams write at a place. -/
def axisIn (ds : List (List Nat)) (p : Place) : Option Bool :=
  let same (q : Place) := q.type = p.type && q.sel = p.sel && q.line = p.line && q.fmt = p.fmt
  ((ds.flatMap axisOuts).find? (fun a => same a.place)).elim
    (if p.type = 1 then axisOfLine ds (p.sel % 4 + p.line / 8192) (p.line % 8192) else none) (fun a => some a.col)

/-- The descriptors of the running program. -/
def runningDescs (s : State) (n : Nat) : List (List Nat) :=
  ((theCore s n).streams.filter (fun x => x.state != 0)).map Stream.desc

/-- Where the DRAIN stream's tensor places the results of a pass (R296): the pass's index comes from its segment. -/
def drainAt (s : State) (n : Nat) (d : PassD) : Option DrainAt :=
  match slotsOf s n stOx, slotsOf s n stDrain with
  | ox :: _, dr :: _ =>
    let o := theStream s n ox
    let base := (PassField.seg d + 65536 - PassField.seg (oxTmpl o.desc)) % 65536
    let i := base + (o.next - 1 - base) / 65536 * 65536
    let x := theStream s n dr
    let at' := origin x.desc ((df x.desc 10 16 8 + 1) * (i / oxG o.desc))
    some ⟨at'.1, at'.2, dC x.desc⟩
  | _, _ => none

/-! ## Open spans (R201) -/

/-- Whether the Mule holds an open span of an axis. -/
def spanOpen (s : State) (n : Nat) (col : Bool) : Bool :=
  let m := (theCore s n).mule
  m.parts.zipIdx.any (fun x => x.1 != [] && bit (rg s (CORE_PROG n (32 * m.prog))) (8 * x.2 + 9) == col)

/-- Abandon the Mule's open spans. -/
def abandonSpans (n : Nat) : M Unit := do
  let s ← getS
  let open' := b2n (spanOpen s n false) + b2n (spanOpen s n true)
  if open' ≠ 0 then
    flag (CORE_MULE_STATUS_SPAN_LOST n)
    bumpBy (CORE_MULE_SPAN_LOST_COUNT n) open'
    modCore n (fun c => { c with mule := { c.mule with parts := [[], [], [], []] } })

end Sys2Proof.Machine
end

