-- ==== Sys2Proof/Machine/Ox.lean ====
section
/-!
DEFINITION. Machine/Ox.lean: the Oxen and the Yoke (02_ox_and_yoke.md): the pass queue and its checks, segments, the
rows of the Yoke, side buffers and replay, the sums of a pass and their rounding (03_number_formats.md), and fences.
-/

namespace Sys2Proof.Machine

open PassField

/-- The core of an Ox, and its index in the core. -/
def oxCore (o : Nat) : Nat := o / 4
def oxIdx (o : Nat) : Nat := o % 4

/-- A unit in reset refuses a request (R660). -/
def refuseAt (addr gen : Nat) : M Unit := do
  bump RESET_REFUSALS_COUNT
  emit (.refusal addr gen)

def oxResetting (s : State) (o : Nat) : Bool := fb s (RESET_GEN_OX_RESETTING o)
def coreResetting (s : State) (n : Nat) : Bool := fb s (RESET_GEN_CORE_RESETTING n)

/-- A request to an Ox at an address of its registers; an Ox being reset refuses it with the generation that it will have
at completion (R660). -/
def atOx (o addr : Nat) (m : M Unit) : M Unit := do
  let s ← getS
  if oxResetting s o then refuseAt addr ((fv s (RESET_GEN_OX_GEN o) + 1) % 65536) else m

/-- A request to a core at an address of its registers (R660). -/
def atCore (n addr : Nat) (m : M Unit) : M Unit := do
  let s ← getS
  if coreResetting s n then refuseAt addr ((fv s (RESET_GEN_CORE_GEN n) + 1) % 65536) else m

/-! ## Checks of a pass (R58, R59, Table 2.4) -/

/-- The passes of an Ox that name a segment: queued, and running with rows to come. -/
def passesOfSeg (s : State) (o g : Nat) : List PassD :=
  let x := theOx s o
  let q := x.queue.map QPass.d
  let r := match x.run with
    | some p => if p.taken < rows p.d then [p.d] else []
    | none => []
  (r ++ q).filter (fun d => seg d = g)

/-- Whether an Ox still lags by a row of a segment. -/
def lagsBy (s : State) (o g : Nat) : Bool := (theOx s o).lag.any (fun l => l.row.seg = g)

/-- The header of a segment as an Ox meets it: of a segment issued whole by whose rows it still lags, else of the one
being issued, else of one that is formed. -/
def headerOf (s : State) (o g : Nat) : Option Seg :=
  let c := theCore s (oxCore o)
  ((if lagsBy s o g then c.past else []) ++ (match c.issue with | some i => [i] | none => []) ++ c.segs).find?
    (fun x => x.num = g)

/-- The Oxen, other than OXk, that are no fenced Ox. -/
def peersOf (s : State) (n k : Nat) : List Nat :=
  (List.range 4).filter (fun j => j ≠ k && !bit (theCore s n).fence j)

def agree (a b : PassD) : Bool := mode a = mode b && fmtY a = fmtY b && rows a = rows b && rowTags a = rowTags b

/-- SEG_MISMATCH: R58 is broken. -/
def segMismatch (s : State) (o : Nat) (d : PassD) : Bool :=
  let n := oxCore o
  (peersOf s n (oxIdx o)).any (fun j => (passesOfSeg s (4 * n + j) (seg d)).any (fun e => !agree d e))
    || (match headerOf s o (seg d) with
        | some h => h.mode != mode d || h.total != rows d || h.tags != rowTags d
        | none => false)

/-- Bytes of an operand row of 128 elements. -/
def operandBytes (f : Nat) : Nat := 128 * (fmtOf f).bitsPer / 8

/-- HAMPER_RANGE: an operand row that the pass reads ends beyond its bank; a scale line always lies in its bank. -/
def hamperRange (d : PassD) : Bool :=
  if mode d = 1 ∨ newStat d then
    let k := if mode d = 1 then rows d else ka d
    decide (sLine d * 256 + (k - 1) * sStride d * 32 + operandBytes (fmtS d) > 0x200000)
  else false

/-- The code of the first condition of Table 2.4 that holds for a pass at the head of an Ox's queue. -/
def passCheck (s : State) (o : Nat) (d : PassD) : Option Nat :=
  let n := oxCore o
  let fenced := bit (theCore s n).fence (oxIdx o)
  if mode d ≥ 3 then some 1
  else if fmtY d ≥ 6 ∨ fmtS d ≥ 6 then some 2
  else if rsvd d then some 3
  else if rows d = 0 then some 4
  else if !toMule d && decide (aRow d + (if mode d = 1 then ka d else rows d) > 512) then some 5
  else if hamperRange d then some 6
  else if !fenced && segMismatch s o d then some 7
  else if !fenced && mode d = 1 && (match headerOf s o (seg d) with
      | some h => h.mode = 1 && (oxenOfMask s n h.mask).length = 3
      | none => false) then some 8
  else if fenced then some 9
  else none

/-- Record a pass fault and fault the core's context (R60). -/
def passFault (o code : Nat) (d : PassD) : M Unit := do
  setFld (OX_FAULT_CODE o) code
  setFld (OX_FAULT_PASS_ID o) (passId d)
  flag (OX_STATUS_PASS_FAULT o)
  faultCore (oxCore o) 3 code o (passId d) 0 0

/-- Fault the pass at the head of a queue: it and every pass behind it are discarded; the other participants of a
mismatched segment fault too (R60). -/
def headFault (o code : Nat) (d : PassD) : M Unit := do
  let s ← getS
  modOx o (fun x => { x with queue := [] })
  passFault o code d
  when' (code = 7) (each (peersOf s (oxCore o) (oxIdx o)) (fun j => do
    let p := 4 * oxCore o + j
    match ((theOx s p).queue.map QPass.d).find? (fun e => seg e = seg d) with
    | some e =>
      modOx p (fun x => { x with queue := x.queue.takeWhile (fun q => seg q.d != seg d) })
      passFault p 7 e
    | none => pure ()))

/-- Check the pass at the head of a queue (R59); whether it may run. -/
def checkHead (o : Nat) : M Bool := do
  let s ← getS
  match (theOx s o).queue with
  | [] => return false
  | q :: rest =>
    match passCheck s o q.d with
    | some code =>
      headFault o code q.d
      return false
    | none =>
      modOx o (fun x => { x with queue := { q with checked := true } :: rest })
      return true

/-- PASS_HEAD_CHECK (R59). -/
def execPassHeadCheck (ox : Fin 256) (s : State) : Host.Outcome State Fault Refusal := runM (do
  let s ← getS
  match (theOx s ox).queue with
  | q :: _ => if !q.checked then let _ ← checkHead ox
  | [] => pure ()) s

/-! ## The pass queue (R61-R64) -/

/-- Push a pass, or drop it when the queue is full (R62, R63). -/
def pushPass (o : Nat) (d : PassD) : M Unit := do
  if (theOx (← getS) o).queue.length ≥ 4 then flag (OX_STATUS_PUSH_OVF o)
  else modOx o (fun x => { x with queue := x.queue ++ [⟨d, false, false⟩] })

/-- A write of PASS_W3 pushes the four words. -/
def passWrite (o w3 : Nat) : M Unit := do
  setReg (OX_PASS_W3 o) w3
  let s ← getS
  pushPass o ⟨rg s (OX_PASS_W0 o), rg s (OX_PASS_W1 o), rg s (OX_PASS_W2 o), rg s (OX_PASS_W3 o)⟩

/-- PASS_PUSH (R62). -/
def execPassPush (ox : Fin 256) (w3 : Nat) (s : State) : Host.Outcome State Fault Refusal :=
  runM (atOx ox (OX_PASS_W3 ox) (passWrite ox w3)) s

/-! ## Operands and sums -/

/-- A row of 128 operands of a Hamper bank. -/
def operandRow (s : State) (n b off f : Nat) : List Elem :=
  let len := operandBytes f
  elemsOf (fmtOf f) ((bankRead s n b off len).zipIdx.map (fun p => (p.1, bankPoison s n b (off + p.2)))) 128

/-- The column scale codes of a pass's stationary or top operand, with their poison (Table 2.2). -/
def scaleCodes (s : State) (n : Nat) (d : PassD) : List Elem :=
  if (fmtOf (fmtS d)).scaled then
    (bankRead s n (cBank d) (cLine d * 256) 128).zipIdx.map (fun p =>
      ⟨p.1.toNat, bankPoison s n (cBank d) (cLine d * 256 + p.2)⟩)
  else List.replicate 128 ⟨127, false⟩

/-- An operand row with the poison of its column scales folded in. -/
def statRow (s : State) (n : Nat) (d : PassD) (k : Nat) : TRow :=
  let sc := scaleCodes s n d
  let es := operandRow s n (sBank d) (sLine d * 256 + k * sStride d * 32) (fmtS d)
  ⟨fmtS d, (es.zip sc).map (fun p => ⟨p.1.code, p.1.poison || p.2.poison⟩), sc.map Elem.code⟩

/-- The stationary tile that a pass names. -/
def loadTile (s : State) (n : Nat) (d : PassD) : Tile := (List.range (ka d)).map (statRow s n d)

/-- The shadow half once a tile is loaded: rows the load does not fill keep what the half held. -/
def fillHalf (half new : Tile) : Tile := new ++ half.drop new.length

def tzero : TRow := ⟨0, [], []⟩

/-- The operand at column j of a row of a half, decoded, with its poison. -/
def tElem (r : TRow) (j : Nat) : Val × Bool :=
  let e := r.elems.getD j ⟨0, false⟩
  (decodeCode (fmtOf r.fmt) e.code (r.scales.getD j 127), e.poison)

/-- The elements of a Yoke row, decoded under FMT_Y. No rule compares FMT_Y with the FMT of the YOKE stream's SRC, under
which the row's codes were unpacked: where they differ, each code is taken as it stands (log 44, DESIGN CHOICE). -/
def yVals (f : Nat) (r : YRow) : List (Val × Bool) :=
  r.elems.map (fun e => (decodeCode (fmtOf f) e.code r.scale, e.poison))

/-- The column sum of logical rows 0 to Ka - 1, in that order (R50, R51), with its poison (R88). -/
def colSum (ys : List (Val × Bool)) (t : Tile) (k j : Nat) : ColP :=
  (List.range k).foldl (fun c i =>
    let y := ys.getD i (Val.zeroVal, false)
    let w := tElem (t.getD i tzero) j
    ⟨addTerm c.col (product y.1 w.1), c.poison || y.2 || w.2⟩) ⟨Col.start, false⟩

/-- Add one Yoke row and one top row to the cells of an OS pass (Table 2.1). -/
def osAdd (sums : List (List ColP)) (ys : List (Val × Bool)) (b : TRow) (k m : Nat) : List (List ColP) :=
  (List.range k).map (fun i =>
    let y := ys.getD i (Val.zeroVal, false)
    (List.range m).map (fun j =>
      let c := (sums.getD i []).getD j ⟨Col.start, false⟩
      let w := tElem b j
      ⟨addTerm c.col (product y.1 w.1), c.poison || y.2 || w.2⟩))

/-! ## Results on their way out (R79, R80, R183) -/

/-- The rows of a pass's results: for WS and IS its Yoke rows, for OS its cells' rows. -/
def outRows (p : RunPass) : List OutRow := if mode p.d = 1 then p.sums.map (fun r => ⟨⟨0, false⟩, r⟩) else p.out

/-- The pass whose results leave next: the oldest that drains, or the running one. -/
def oldestPass (x : Ox) : Option RunPass :=
  match x.drain with
  | p :: _ => some p
  | [] => x.run

/-- The oldest pass of an Ox after a change of it. -/
def setOldest (x : Ox) (p : RunPass) : Ox :=
  match x.drain with
  | _ :: rest => { x with drain := p :: rest }
  | [] => { x with run := some p }

/-- Whether the Mule accepts a row from the drain of a slot (R183): its buffer holds 32 rows of IN0 beyond those that a
begun tile takes. -/
def muleRoom (s : State) (n slot : Nat) : Bool :=
  let c := theCore s n
  decide ((c.toMule.getD slot []).length < 32 + c.mule.takes)

/-- Hand one row of results to the Mule (R123: RNE). -/
def placeMule (n slot : Nat) (row : OutRow) : M Unit :=
  let r : OutFp := ⟨row.tag, row.cols.map (fun x => ⟨toFp32 x.col.result .rne, x.poison⟩)⟩
  modCore n (fun c => { c with toMule := modNth c.toMule slot (· ++ [r]) })

/-- The oldest pass of an Ox hands its next row to the Mule, where the Mule accepts it. -/
def giveRow (o : Nat) : M Unit := do
  let s ← getS
  let n := oxCore o
  match oldestPass (theOx s o) with
  | some p =>
    match (outRows p)[p.given]? with
    | some row =>
      when' (toMule p.d && muleRoom s n p.slot) (do
        placeMule n p.slot row
        modOx o (fun x => setOldest x { p with given := p.given + 1 }))
    | none => pure ()
  | none => pure ()

/-- Rows that have entered the array since the oldest row of results that a DEST = 1 pass of WS or IS has not handed
over. -/
def behind (x : Ox) : Nat :=
  match oldestPass x with
  | some p => if toMule p.d && mode p.d != 1 then (x.drain.map RunPass.taken).sum + (x.run.map RunPass.taken).getD 0 - p.given else 0
  | none => 0

/-- Whether the column links are full (R79): the result of the row 128 back has no free entry among the 8 of its link. -/
def linksFull (x : Ox) : Bool := decide (136 ≤ behind x)

/-! ## Taking rows -/

/-- The bank accesses of an OS pass's next top row. -/
def topBanks (p : RunPass) : List (Nat × Nat) :=
  (sBank p.d, sLine p.d * 256 + p.taken * sStride p.d * 32)
    :: (if (fmtOf (fmtS p.d)).scaled then [(cBank p.d, cLine p.d * 256)] else [])

/-- Whether the running pass takes a Yoke row next: it has begun, the row is its next, its column links have room, and in OS
the loader's banks serve. -/
def takes (s : State) (o : Nat) (r : YRow) : Bool :=
  match (theOx s o).run with
  | some p => seg p.d = r.seg && p.taken = r.idx && p.taken < rows p.d && !linksFull (theOx s o)
      && (mode p.d != 1 || banksGate s (oxCore o) ((topBanks p).map Prod.fst) = .on)
  | none => false

/-- A top row of an OS pass meets its banks: one refused faults (R236) and ends the take, one that wakes waits (R235).
Answers whether the row is read. -/
def topGate (o : Nat) (p : RunPass) : M Bool := do
  let s ← getS
  let n := oxCore o
  if mode p.d != 1 then return true
  else match banksGate s n ((topBanks p).map Prod.fst) with
    | .refused => do
      bankFaultOf n (topBanks p)
      bankFree n (24 + oxIdx o)
      return false
    | .waits => do
      bankHold n (24 + oxIdx o) (topBanks p)
      return false
    | .on => do
      bankFree n (24 + oxIdx o)
      return true

/-- The running pass takes a row: in WS and IS its results form (R65), in OS its products are added (R71). -/
def takeRow (o : Nat) (r : YRow) : M Unit := do
  let s ← getS
  match (theOx s o).run with
  | some p =>
    let ys := yVals (fmtY p.d) r
    if mode p.d = 1 then
      let b := statRow s (oxCore o) p.d p.taken
      modOx o (fun x => { x with run := some { p with taken := p.taken + 1, sums := osAdd p.sums ys b (ka p.d) (na p.d) } })
    else
      let row : OutRow := ⟨r.tag, (List.range (na p.d)).map (colSum ys (theOx s o).live (ka p.d))⟩
      modOx o (fun x => { x with run := some { p with taken := p.taken + 1, out := p.out ++ [row] } })
  | none => pure ()

/-- Rows issued but not taken (R82). -/
def lagOf (x : Ox) : Nat := x.lag.length

/-- Rows in the side buffer. -/
def sideRows (x : Ox) : Nat := (x.lag.filter LagRow.stored).length

/-- The bank bytes that an Ox's next owed row needs: none from the side buffer, else a whole row (R84). -/
def replayBytes (x : Ox) (l : LagRow) : Nat :=
  if l.stored then 0 else match x.run with | some p => operandBytes (fmtY p.d) | none => 513

/-- One Ox's take of a row it lags by, the oldest first (R82, R84, R85): a row of its side buffer, or a replayed row when
`spare` bytes allow. Answers whether it took a row and the bytes the replay used. -/
def takeOld (o spare : Nat) : M (Bool × Nat) := do
  let s ← getS
  let x := theOx s o
  match x.lag with
  | l :: rest =>
    let need := replayBytes x l
    if takes s o l.row && decide (need ≤ spare) then
      takeRow o l.row
      modOx o (fun x => { x with lag := rest })
      when' (!l.stored) (bump (CORE_YOKE_REPLAY_ROWS_COUNT (oxCore o)))
      return (true, need)
    else return (false, 0)
  | [] => return (false, 0)

/-- Every lagging Ox's take in one cycle, in ascending index, sharing the spare bytes. Answers which took a row. -/
def takeAll (n hold : Nat) : List Nat → Nat → M Nat
  | [], _ => pure 0
  | k :: ks, spare => do
    if bit hold k then takeAll n hold ks spare
    else
      let r ← takeOld (4 * n + k) spare
      let rest ← takeAll n hold ks (spare - r.2)
      return rest + b2n r.1 * 2 ^ k

/-- A detached Ox whose lag is 32 rows or fewer is attached again (R85). -/
def attach (o : Nat) : M Unit := do
  let x := theOx (← getS) o
  when' (x.detached && decide (lagOf x ≤ 32)) (modOx o (fun x => { x with detached := false }))

/-- Place an issued row at one participant (R82, R83). -/
def placeRow (n hold took k : Nat) (r : YRow) : M Unit := do
  let s ← getS
  let o := 4 * n + k
  let x := theOx s o
  if x.detached then modOx o (fun x => { x with lag := x.lag ++ [⟨r, false⟩] })
  else if lagOf x = 0 && !bit took k && !bit hold k && takes s o r then takeRow o r
  else if 32 ≤ sideRows x then
    bump (OX_DETACHES_COUNT o)
    modOx o (fun x => { x with detached := true, lag := x.lag ++ [⟨r, false⟩] })
  else
    bump (CORE_YOKE_SIDEBUF_ROWS_COUNT n)
    modOx o (fun x => { x with lag := x.lag ++ [⟨r, true⟩] })

/-- Whether an Ox holds in this cycle: under R79 as the command says or because its column links are full, or under
R86. -/
def holdsNow (s : State) (o hold : Nat) : Bool :=
  let x := theOx s o
  let busy := x.drain != [] || (match x.run with | some _ => true | none => false)
  let waits := !x.detached && (match x.lag with
    | l :: _ => l.row.idx = 0 && !takes s o l.row && (match x.run with | some p => p.taken = rows p.d | none => true)
    | [] => false)
  ((bit hold (oxIdx o) || linksFull x) && busy) || waits

/-- Count an Ox's hold (R79, R86). -/
def noteHold (o hold : Nat) : M Unit := do
  let s ← getS
  let h := holdsNow s o hold
  if h then
    bump (OX_STALL_CYCLES_COUNT o)
    when' (!(theOx s o).holding) (bump (OX_STALL_EVENTS_COUNT o))
  when' (h != (theOx s o).holding) (modOx o (fun x => { x with holding := h }))

/-- Keep the largest lag. -/
def noteLag (o : Nat) : M Unit := do
  let s ← getS
  let l := min 65535 (lagOf (theOx s o))
  when' (decide (l > fv s (OX_LAG_PEAK o))) (setFld (OX_LAG_PEAK o) l)

/-- The top operand of an Ox whose OS pass would take a row in this cycle: a refused bank faults, and one that wakes
waits. -/
def topCheck (o : Nat) (issue : Bool) : M Unit := do
  let x := theOx (← getS) o
  match x.run with
  | some p => when' (mode p.d = 1 && decide (p.taken < rows p.d) && (issue || x.lag != [])) (do let _ ← topGate o p)
  | none => pure ()

/-- The headers of segments issued whole that an Ox of the core still lags by (R59). -/
def keepPast (s : State) (n : Nat) (hs : List Seg) : List Seg :=
  hs.filter (fun h => (List.range 4).any (fun k => lagsBy s (4 * n + k) h.num))

/-- One arith cycle of a core's Yoke: results that the array pushes out reach the Mule at one row of a drain (R80), lagging
Oxen take a row, then the Yoke issues a row to every participant. -/
def yokeCycle (n : Nat) (issue : Bool) (hold : Nat) : M Unit := do
  each [0, 1, 2, 3] (fun k => do
    when' (decide (128 < behind (theOx (← getS) (4 * n + k)))) (giveRow (4 * n + k))
    topCheck (4 * n + k) issue)
  let s ← getS
  let g := if issue then (theCore s n).issue else none
  let used := match g with | some g => operandBytes g.fmt | none => 0
  let took ← takeAll n hold [0, 1, 2, 3] (512 - used)
  each [0, 1, 2, 3] (fun k => attach (4 * n + k))
  match g with
  | some g =>
    match g.rows with
    | r :: rest =>
      bump (CORE_YOKE_ROWS_COUNT n)
      setFld (CORE_YOKE_SEG_SEG n) g.num
      each (oxenOfMask s n g.mask) (fun k => placeRow n hold took k r)
      if rest = [] then
        modCore n (fun c => { c with issue := none, past := c.past ++ [{ g with rows := [] }] })
        setFld (CORE_YOKE_SEG_ACTIVE n) 0
      else modCore n (fun c => { c with issue := some { g with rows := rest } })
    | [] => modCore n (fun c => { c with issue := none })
  | none => pure ()
  let s ← getS
  when' ((theCore s n).past != []) (modCore n (fun c => { c with past := keepPast s n c.past }))
  each [0, 1, 2, 3] (fun k => do
    noteHold (4 * n + k) hold
    noteLag (4 * n + k))

/-- YOKE_ROW_ISSUE (R82): one cycle of the Yoke; `hold` names the Oxen that R79 holds in it. -/
def execYokeRowIssue (core : Fin 64) (issue : Bool) (hold : Nat) (s : State) : Host.Outcome State Fault Refusal :=
  runM (yokeCycle core issue hold) s

/-- OX_ATTACH (R85). -/
def execOxAttach (ox : Fin 256) (s : State) : Host.Outcome State Fault Refusal := runM (attach ox) s

/-! ## Segments -/

/-- Whether the last row of the Ox's running pass has entered. -/
def runDone (x : Ox) : Bool := match x.run with | some p => p.taken = rows p.d | none => true

/-- R74 for one participant: it holds the segment's pass and, attached with no lag, can take row 0. -/
def canBegin (s : State) (o g : Nat) (ready : Bool) : Bool :=
  let x := theOx s o
  let holds := x.queue.any (fun q => seg q.d = g)
  let free := x.detached || lagOf x != 0
  holds && (free || (ready && runDone x && (match x.queue with | q :: _ => seg q.d = g | [] => false)))

/-- Whether the loader has read the stationary tile of a queued pass of a segment, on some Ox of a core. -/
def segLoaded (s : State) (n g : Nat) : Bool :=
  (List.range 4).any (fun k => (theOx s (4 * n + k)).queue.any (fun q => seg q.d = g && q.loaded))

/-- Whether a core lets its next segment begin: it runs, or it stops and the load of a pass of that segment has begun
(Table 7.8). -/
def segGoes (s : State) (n : Nat) : Bool :=
  let c := theCore s n
  c.stopped = 0 || (c.stopped = 1 && (match c.segs with | g :: _ => segLoaded s n g.num | [] => false))

/-- SEGMENT_BEGIN (R74): `ready` says that R66, R69, R70 and R73 let every attached participant take row 0 now. -/
def segmentBegin (n : Nat) (ready : Bool) : M Unit := do
  let s ← getS
  let c := theCore s n
  if c.issue = none && segGoes s n then
    match c.segs with
    | g :: rest =>
      let ks := oxenOfMask s n g.mask
      each ks (fun k => do
        match (theOx (← getS) (4 * n + k)).queue with
        | q :: _ => if seg q.d = g.num then let _ ← checkHead (4 * n + k)
        | [] => pure ())
      let s ← getS
      if ks.all (fun k => canBegin s (4 * n + k) g.num ready) then
        modCore n (fun c => { c with segs := rest, issue := some g })
        setFld (CORE_YOKE_SEG_ACTIVE n) 1
      else bump (CORE_YOKE_START_WAIT_COUNT n)
    | [] => pure ()

/-- SEGMENT_BEGIN (R74). -/
def execSegmentBegin (core : Fin 64) (ready : Bool) (s : State) : Host.Outcome State Fault Refusal :=
  runM (segmentBegin core ready) s

/-! ## Starting and completing a pass -/

/-- Whether row 0 of a segment has been issued to an Ox, or is about to be. -/
def rowComes (s : State) (o g : Nat) : Bool :=
  let x := theOx s o
  (match (theCore s (oxCore o)).issue with
    | some i => i.num = g && (oxenOfMask s (oxCore o) i.mask).contains (oxIdx o) | none => false)
    || x.lag.any (fun l => l.row.seg = g && l.row.idx = 0)

/-- The Hamper banks a pass reads at its start, with the offset of its first access in each. -/
def startBanks (d : PassD) : List (Nat × Nat) :=
  if mode d = 1 || newStat d then
    (sBank d, sLine d * 256) :: (if (fmtOf (fmtS d)).scaled then [(cBank d, cLine d * 256)] else [])
  else []

/-- Record a stream fault, abandon open spans and fault the context (R201, R307). -/
def streamFault (n code slot tile : Nat) : M Unit := do
  setFld (CORE_STREAM_FAULT_CODE n) code
  setFld (CORE_STREAM_FAULT_SLOT n) slot
  setFld (CORE_FAULT_TILE_TILE n) tile
  flag (CORE_STREAM_STATUS_FAULT n)
  setReg (CORE_HBIND n) 0
  modCore n (fun c => { c with progBad := true, bindWait := [] })
  abandonSpans n
  faultCore n 5 code 0xFFFF tile 0 0

/-- The Oxen of a core whose pass of a segment reloads the stationary tile. -/
def reloading (s : State) (n g : Nat) : Nat :=
  ((List.range 4).filter (fun k => (passesOfSeg s (4 * n + k) g).any (fun d => newStat d && mode d != 1))).length

/-- The bubble of R69 before a pass that follows one of `x`: none for a pass that keeps its tile. -/
def bubbleOf (s : State) (o : Nat) (d : PassD) : Nat :=
  match (theOx s o).run with
  | some p => if newStat d && mode d != 1 then max 128 (64 * reloading s (oxCore o) (seg d)) - rows p.d else 0
  | none => 0

/-- The loader reads the stationary tile of the pass at the head of an Ox's queue into the shadow half (R67): a pass that
reloads, of a segment, whose check and banks allow it. -/
def loadHead (o g : Nat) : M Unit := do
  let s ← getS
  let n := oxCore o
  match (theOx s o).queue with
  | q :: rest =>
    if seg q.d = g && newStat q.d && mode q.d != 1 && !q.loaded && (theCore s n).stopped = 0 then
      if ← (if q.checked then pure true else checkHead o) then
        match banksGate s n ((startBanks q.d).map Prod.fst) with
        | .refused => bankFaultOf n (startBanks q.d)
        | .waits => bankHold n (16 + oxIdx o) (startBanks q.d)
        | .on =>
          bankFree n (16 + oxIdx o)
          modOx o (fun x => { x with
            queue := { q with checked := true, loaded := true } :: rest
            shadow := fillHalf x.shadow (loadTile s n q.d) })
  | [] => pure ()

/-- Move the head of an Ox's queue into the array: its first Yoke row enters (R61, R66, R67, R251). `bubble` is the cycles
that it waited; those of R69's bubble count. -/
def startPass (o bubble : Nat) : M Unit := do
  let s ← getS
  let n := oxCore o
  let x := theOx s o
  match x.queue with
  | q :: rest =>
    if runDone x && oxAvail s n (oxIdx o) && rowComes s o (seg q.d) && (theCore s n).stopped < 2 then
      if ← (if q.checked then pure true else checkHead o) then
        match (if q.loaded then .on else banksGate s n ((startBanks q.d).map Prod.fst)) with
        | .refused => bankFaultOf n (startBanks q.d)
        | .waits => bankHold n (16 + oxIdx o) (startBanks q.d)
        | .on =>
          bankFree n (16 + oxIdx o)
          let at' := drainAt s n q.d
          if !toMule q.d && aBank q.d = 7 && at' = none then streamFault n 10 0 (2 ^ 32 - 1)
          else
            bumpBy (OX_BUBBLE_CYCLES_COUNT o) (min bubble (bubbleOf s o q.d))
            let new := newStat q.d && mode q.d != 1
            let tile := if q.loaded then x.shadow else fillHalf x.shadow (loadTile s n q.d)
            modOx o (fun x => { x with
              queue := rest
              drain := match x.run with | some p => x.drain ++ [p] | none => x.drain
              run := some ⟨q.d, 0, 0, [], [], slotOf s n (oxIdx o), at'⟩
              live := if new then tile else x.live
              shadow := if new then x.live else x.shadow
              liveRec := if new then q.d else x.liveRec })
  | [] => pure ()

/-- PASS_START (R66, R69): `bubble` is the reload bubble the Ox waited. -/
def execPassStart (ox : Fin 256) (bubble : Nat) (s : State) : Host.Outcome State Fault Refusal := runM (startPass ox bubble) s

/-- The pass whose last result leaves next: the oldest that drains, or the running one when all its rows are taken. -/
def nextOut (x : Ox) : Option RunPass :=
  match x.drain with
  | p :: _ => some p
  | [] => match x.run with
    | some p => if p.taken = rows p.d then some p else none
    | none => none

/-- The SR_SEED of a core's task (R163). -/
def seedOf (s : State) (n : Nat) : Nat := match (theCore s n).task with | some t => t.seed | none => 0

/-- A column's result at an accumulator bank (R120-R123, R88): the exact sum with the destination under ACC, rounded once. -/
def accValue (s : State) (n a row j : Nat) (acc : Bool) (c : ColP) (r : Round) : FpP :=
  if acc then
    let old := accRead s n a row j
    ⟨toFp32 ((ofFp32 old.v).add c.col.result) r, c.poison || old.poison⟩
  else ⟨toFp32 c.col.result r, c.poison⟩

/-- The draw a write into row `row` of A7 uses (R164). -/
def drawOf (s : State) (n row : Nat) (acc : Bool) : Nat := if acc then mget (fun _ => 0) s.draw (512 * n + row) else 0

/-- Place one row of results in an accumulator bank. -/
def placeAcc (n : Nat) (p : RunPass) (r : Nat) (row : OutRow) : M Unit := do
  let s ← getS
  let a := aBank p.d
  let ar := aRow p.d + r
  let draw := drawOf s n ar (acc p.d)
  let at' := p.at?.getD ⟨0, 0, 0⟩
  each row.cols.zipIdx (fun c => do
    let idx := (at'.row + r) * at'.len + at'.col + 128 * p.slot + c.2
    let m := if a = 7 then .sr (srBits (seedOf s n) (tensor p.d) idx draw) else .rne
    accWrite n a ar c.2 (accValue s n a ar c.2 (acc p.d) c.1 m))
  when' (a = 7) (setDraw (512 * n + ar) ((draw + 1) % 65536))

/-- Take the completed pass out of the Ox. -/
def dropOut (x : Ox) : Ox :=
  match x.drain with
  | _ :: rest => { x with drain := rest }
  | [] => { x with run := none }

/-- The last result of a pass leaves its column link (R65, R71, R80); a pass of which the Mule does not yet accept every row
goes on draining (R183). -/
def completePass (o : Nat) : M Unit := do
  let s ← getS
  let n := oxCore o
  match nextOut (theOx s o) with
  | some p =>
    if toMule p.d then
      each (List.range ((outRows p).length - p.given)) (fun _ => giveRow o)
      let left := match oldestPass (theOx (← getS) o) with | some q => (outRows q).length - q.given | none => 0
      if left = 0 then
        modOx o dropOut
        bump (OX_PASSES_COUNT o)
    else
      match bankGate s n (4 + aBank p.d) with
      | .refused =>
        bankFault n (4 + aBank p.d) (aRow p.d * 512)
        modOx o dropOut
        bump (OX_PASSES_COUNT o)
      | .waits => bankHold n (20 + oxIdx o) [(4 + aBank p.d, aRow p.d * 512)]
      | .on =>
        bankFree n (20 + oxIdx o)
        each (outRows p).zipIdx (fun r => placeAcc n p r.2 r.1)
        modOx o dropOut
        bump (OX_PASSES_COUNT o)
  | none => pure ()

/-- PASS_COMPLETE (R65). -/
def execPassComplete (ox : Fin 256) (s : State) : Host.Outcome State Fault Refusal := runM (completePass ox) s

/-! ## Fences (R89-R96) -/

/-- The rows of accumulator bank or destination that an ended pass leaves undefined (R89): free values. The draw counters of
A7 do not advance for an ended pass: no rule says how many of its writes were made (log 3, DESIGN CHOICE). -/
def undefRows (o : Nat) (p : RunPass) : M Unit := do
  let n := oxCore o
  if !toMule p.d then
    let k := if mode p.d = 1 then ka p.d else rows p.d
    each (List.range k) (fun r => each (List.range (na p.d)) (fun j => do
      let v ← freeWord
      accWrite n (aBank p.d) (aRow p.d + r) j ⟨v % 2 ^ 32, false⟩))

/-- End the passes of an Ox (R89): results not yet placed are lost, and every pass is discarded. Answers the passes. -/
def endPasses (o : Nat) : M (List PassD) := do
  let x := theOx (← getS) o
  let live := x.drain ++ (match x.run with | some p => [p] | none => [])
  each live (undefRows o)
  modOx o (fun x => { x with queue := [], run := none, drain := [], lag := [], detached := false })
  return live.map RunPass.d ++ x.queue.map QPass.d

/-- An Ox becomes fenced at run time; `data` is the repair history's DATA (R89-R92, R614): each pass that it held is faulted.
A task that runs keeps its count of Ox slots. -/
def fenceOx (o data : Nat) : M Unit := do
  let s ← getS
  let n := oxCore o
  if !fb s (OX_CTRL_FENCE o) || !bit (theCore s n).fence (oxIdx o) then
    setFld (OX_CTRL_FENCE o) 1
    historyAdd 3 o data
    let held ← endPasses o
    let bad := (theCore s n).fence
    let f := if bit bad (oxIdx o) then bad else bad + 2 ^ oxIdx o
    modCore n (fun c => { c with fence := f, modeF := if c.task = none then f else c.modeF })
    each held (passFault o 9)
    capUpdate

/-- OX_FENCE (R89, R96): a write of 1 to FENCE. -/
def execOxFence (ox : Fin 256) (s : State) : Host.Outcome State Fault Refusal := runM (atOx ox (OX_CTRL ox) (fenceOx ox 0)) s

/-- FENCE_LIFT (R96): a write of 0 to FENCE; the fence in force is lifted from the core's next task. -/
def execFenceLift (ox : Fin 256) (s : State) : Host.Outcome State Fault Refusal :=
  runM (atOx ox (OX_CTRL ox) (setFld (OX_CTRL_FENCE ox) 0)) s

/-- The fences and the mode of a core as its next task finds them (R90, R96). -/
def nextTaskMode (n : Nat) : M Unit := do
  let s ← getS
  let f := ((List.range 4).map (fun k => fv s (OX_CTRL_FENCE (4 * n + k)) * 2 ^ k)).sum
  if f ≠ (theCore s n).fence ∨ f ≠ (theCore s n).modeF then
    modCore n (fun c => { c with fence := f, modeF := f })
    capUpdate

/-- What a reset of an Ox clears (Table 15.4): queue, passes, weight buffers, links and side buffer. -/
def clearOx (o : Nat) : M Unit := do
  let x := theOx (← getS) o
  let live := x.drain ++ (match x.run with | some p => [p] | none => [])
  each live (undefRows o)
  modOx o (fun _ => Ox.idle)

end Sys2Proof.Machine
end

