-- ==== Sys2Proof/Machine/Records.lean ====
section
/-!
DEFINITION. Machine/Records.lean: trouble records and condition records: their bytes and their rings (R486, R650-R652,
Tables 11.4 and 15.2).
-/

namespace Sys2Proof.Machine

/-- The generation field of a unit of a reset domain (Table 15.10); none for a number that is no unit. -/
def genFld (domain unit : Nat) : Fld :=
  if domain = 1 then RESET_GEN_OX_GEN unit
  else if domain = 2 then RESET_GEN_CORE_GEN unit
  else if domain = 3 then RESET_GEN_CTX_GEN unit
  else if domain = 4 then PORT_GEN_GEN unit
  else if domain = 5 then RESET_GEN_IOD_GEN unit
  else if domain = 6 then RESET_GEN_STACK_GEN unit
  else if domain = 7 then RESET_GEN_DIE_GEN unit
  else RESET_GEN_DEVICE_GEN

/-- GEN of a record: the generation of its UNIT, where UNIT has one. -/
def recGen (s : State) (t : Trouble) : Nat :=
  if t.kind = 3 then fv s (genFld 1 t.unit)
  else if t.kind = 18 || t.kind = 19 then fv s (genFld t.d32 (if t.d32 = 8 then 0 else t.unit))
  else 0

/-- The 64 bytes of a trouble record (Table 15.2). -/
def recBytes (r : PendRec) : List Byte :=
  let t := r.t
  let k := t.task.getD (0, 0, 0)
  let body := natLe 1 t.kind ++ natLe 1 t.code ++ natLe 1 t.ctx ++ natLe 1 t.core ++ natLe 2 t.unit
    ++ natLe 2 (b2n t.task.isSome + 2 * b2n r.more) ++ natLe 8 r.tick ++ natLe 8 k.1
    ++ natLe 4 (k.2.1 % 2 ^ 24 + k.2.2 % 8 * 2 ^ 24) ++ natLe 4 t.d32 ++ natLe 8 t.addr ++ natLe 8 t.detail
    ++ natLe 8 r.seq ++ natLe 2 r.sup ++ natLe 2 r.gen
  body ++ natLe 4 (crc32c body)

/-- The device's own writes of records, at class 1. -/
def viaRec : Via := ⟨reqDisp, 1, none, false, false, false, 0⟩

/-- Take a trouble record: give it its SEQ and count it (R650). Answers its SEQ. -/
def takeRecord (t : Trouble) : M Nat := do
  let s ← getS
  let seq := rg s RESET_TR_WR
  modTrPend (· ++ [⟨t, s.tick, seq, recGen s t, 0, false⟩])
  setReg RESET_TR_WR (seq + 1)
  return seq

/-- How a record names a discarded event (R652): rank, member index and core. -/
def Ev.name (e : Ev) : Nat :=
  let core := match e.kind with
    | .taskDone n => n
    | .hang n _ => n
    | .refuseExpiry n _ => n
    | .e2eImage n _ _ => n
    | .fault t => t.core
    | .reset d u => if d = 1 then u / 4 else if d = 2 then u else 0xFF
    | .deepFail _ _ => if e.unit < 64 then e.unit else 0xFF
    | _ => 0xFF
  e.rank + (if e.rank = 2 then 0 else e.member) * 16 + core * 256

/-- Discard the events of this tick that `p` selects (R36). Answers the name of the first, and whether there were more. -/
def supersede (p : Ev → Bool) : M (Nat × Bool) := do
  let gone := (← getS).due.filter p
  modDue (fun l => l.filter (fun e => !p e))
  bumpBy TIME_SUPERSEDED_COUNT gone.length
  return match gone with
    | [] => (0, false)
    | e :: rest => (e.name, !rest.isEmpty)

/-- Name discarded events in the record with a SEQ. -/
def nameInRecord (seq : Nat) (x : Nat × Bool) : M Unit :=
  modTrPend (fun l => l.map (fun r => if r.seq = seq then { r with sup := x.1, more := x.2 } else r))

/-- Write the records that wait, in order, until one is held (R650, R661). -/
def flushRings : List (Nat × List Byte) → M Unit
  | [] => modLink (fun l => { l with rings := [] })
  | (a, bs) :: rest => do
    match ← writePhys viaRec a bs false with
    | .hold _ => modLink (fun l => { l with rings := (a, bs) :: rest })
    | _ => flushRings rest

/-- Write a record to its ring, after those before it. -/
def ringRecord (a : Nat) (bs : List Byte) : M Unit := do
  let ws := (← getS).link.rings
  flushRings (ws ++ [(a, bs)])

/-- Write one record to the ring, and send the control die its copy over the die link (R650, R651). -/
def writeRecord (r : PendRec) : M Unit := do
  let s ← getS
  let bs := recBytes r
  modLink (fun l => { l with mirror := l.mirror ++ [(false, bs)] })
  let k := fv s RESET_TR_CFG_LOG2_SIZE
  if fb s RESET_TR_CFG_EN && decide (4 ≤ k) && decide (k ≤ 16) then
    ringRecord (rg s RESET_TR_BASE + r.seq % 2 ^ k * 64) bs

/-- Write the records taken, in order. -/
def flushRecords : M Unit := do
  let s ← getS
  each s.trPend writeRecord
  modTrPend (fun _ => [])

/-- Carry a meaning out and write the records it took. -/
def runT (m : M Unit) (s : State) : Host.Outcome State Fault Refusal := runM (do m; flushRecords) s

/-- A record that faults no context. -/
def note (t : Trouble) : M Unit := do
  let _ ← takeRecord t

/-- The 64 bytes of a condition record (Table 11.4). -/
structure Cond where
  kind : Nat
  core : Nat
  ox : Nat
  pattern : Nat
  temp : Nat
  act : Nat
  t0 : Nat
  a0 : Nat
  expect : Nat
  got : Nat
  sim : Nat
  ooc : Nat
  deriving DecidableEq, Repr

/-- Write a condition record (R486). -/
def writeCond (c : Cond) : M Unit := do
  let s ← getS
  let seq := rg s DISP_COND_WR
  let body := natLe 1 c.kind ++ natLe 1 c.core ++ natLe 1 c.ox ++ natLe 1 c.pattern ++ natLe 1 c.temp ++ natLe 1 c.act
    ++ natLe 1 c.t0 ++ natLe 1 c.a0 ++ natLe 8 s.tick ++ natLe 4 c.expect ++ natLe 4 c.got ++ natLe 2 c.sim ++ natLe 2 c.ooc
    ++ natLe 1 (coreMode s c.core) ++ natLe 1 (fv s (CORE_RESTRICT_CEIL c.core)) ++ natLe 2 0 ++ natLe 8 seq ++ natLe 20 0
  let bs := body ++ natLe 4 (crc32c body)
  setReg DISP_COND_WR (seq + 1)
  modLink (fun l => { l with mirror := l.mirror ++ [(true, bs)] })
  let k := fv s DISP_COND_CFG_LOG2_SIZE
  if 4 ≤ k ∧ k ≤ 16 then
    ringRecord (rg s DISP_COND_BASE + seq % 2 ^ k * 64) bs

end Sys2Proof.Machine
end

