-- ==== Sys2Proof/Machine/Walker.lean ====
section
/-!
DEFINITION. Machine/Walker.lean: translation of context addresses (R317-R320, R572-R577), accesses of a context's
units to memory through it, and re-source requests (R583-R585).
-/

namespace Sys2Proof.Machine

/-- Who accesses memory by context address: the requester, the core whose walker translates (none: the dispatcher's), the
context, the class of the access, and the generation slot that the task is bound to. -/
structure CtxAcc where
  req : Nat
  core : Option Nat
  ctx : Nat
  cls : Nat
  gslot : Option Nat
  deriving DecidableEq, Repr

/-- The access of a core's task at a class. -/
def taskAcc (s : State) (n cls : Nat) : CtxAcc :=
  ⟨n, some n, (ctxOfCore s n).getD 0, cls, match (theCore s n).task with | some t => t.gslot | none => none⟩

/-- The dispatcher's access at class 1. -/
def dispAcc (c : Nat) : CtxAcc := ⟨reqDisp, none, c, 1, none⟩

/-- Why an access by context address is not performed. -/
inductive Stop where
  /-- A fault: KIND, CODE and ADDR of its record. -/
  | fault (kind code addr : Nat)
  /-- It waits. -/
  | hold (w : HoldWhy)
  /-- An uncorrectable or, for a sealed read, a poisoned line that the access does not take, by its context address. -/
  | line (va : Nat)
  deriving DecidableEq, Repr

/-- A translation: the physical address, and whether through a level-2 leaf with REFETCH, or a 1 GiB leaf. -/
structure Xl where
  pa : Nat
  refetch : Bool
  leaf2 : Bool
  deriving DecidableEq, Repr

inductive XRes where
  | ok (x : Xl)
  | stop (w : Stop)
  deriving DecidableEq, Repr

/-- Read an 8-byte entry at class 1: a page-table entry or a directory entry. A poisoned or uncorrectable entry bites the
walker (Table 11.3), naming the physical address of the entry. -/
def walkRead (a : CtxAcc) (pa : Nat) : M (Nat × Option Stop) := do
  let r ← readPhys ⟨a.req, 1, none, false, false, false, 0⟩ pa 8
  match r.stop with
  | some (.absent code) => return (0, some (.fault 1 code pa))
  | some (.hold w) => return (0, some (.hold w))
  | _ => if r.poison then return (0, some (.fault 7 4 pa)) else return (leNat r.bs, none)

/-- Whether a table's entry lies in the usable range of a stack in service (R318). -/
def tableOk (s : State) (pa : Nat) : Bool :=
  match regionOf s.part pa with
  | .hbm st off => off + 8 ≤ usableBytes && fv s (HBM_STATUS_STATE st) != 5 && fv s (HBM_STATUS_STATE st) != 0
  | _ => false

/-- A valid entry without nonzero reserved bits (Table 8.3). -/
def pteOk (e : Nat) : Bool := bit e 0 && bits e 4 8 = 0 && bits e 48 16 = 0

def pteAddr (e : Nat) : Nat := bits e 12 36 * 4096

/-- Read one table entry. -/
def tableEntry (a : CtxAcc) (va base idx : Nat) : M (Nat × Option Stop) := do
  let s ← getS
  if !tableOk s (base + 8 * idx) then return (0, some (.fault 1 1 va))
  else
    match ← walkRead a (base + 8 * idx) with
    | (e, none) => return (e, if pteOk e then none else some (.fault 1 1 va))
    | (e, some (.fault 1 code _)) => return (e, some (.fault 1 code va))
    | r => return r

/-- Whether a context address lies in its context's weight window (R572). -/
def inWindow (s : State) (c va : Nat) : Bool :=
  fb s (CTX_GEN_WIN_EN c) && fv s (CTX_GEN_WIN_L0_INDEX c) = va / 2 ^ 39

/-- The level-1 table of an address by the level-0 entry of the tables at a base. -/
def level0 (a : CtxAcc) (base va : Nat) : M (Nat × Option Stop) := do
  match ← tableEntry a va base (va / 2 ^ 39) with
  | (_, some w) => return (0, some w)
  | (e, none) => return (pteAddr e, if bit e 1 then some (.fault 1 1 va) else none)

/-- The level-1 table of an address: from the bound slot in the weight window, else from the level-0 entry. -/
def level1 (a : CtxAcc) (va : Nat) : M (Nat × Option Stop) := do
  let s ← getS
  if inWindow s a.ctx va then
    match a.gslot with
    | none => return (0, some (.fault 1 5 va))
    | some k =>
      let st := fv s (CTX_GSLOTk_STATE a.ctx k)
      if st = 0 || st = 1 then return (0, some (.fault 1 5 va))
      else return (rg s (CTX_GSLOTk_L1 a.ctx k), none)
  else level0 a (rg s (CTX_PT_BASE a.ctx)) va

/-- A leaf's translation. -/
def leafOf' (va e size : Nat) (write leaf2 : Bool) : XRes :=
  if pteAddr e % size != 0 then .stop (.fault 1 1 va)
  else if write && !bit e 2 then .stop (.fault 1 2 va)
  else .ok ⟨pteAddr e + va % size, leaf2 && bit e 3, leaf2⟩

/-- Walk the tables from a level-1 table (R317, R318). Answers the leaf entry's translation and the leaf. -/
def walkFrom (a : CtxAcc) (va : Nat) (write : Bool) (b1 : Nat) : M (XRes × Nat) := do
  match ← tableEntry a va b1 (bits va 30 9) with
  | (_, some w) => return (.stop w, 0)
  | (e1, none) =>
    if bit e1 1 then return (leafOf' va e1 0x40000000 write false, e1)
    else
      match ← tableEntry a va (pteAddr e1) (bits va 21 9) with
      | (_, some w) => return (.stop w, 0)
      | (e2, none) =>
        if bit e2 1 then return (leafOf' va e2 page2M write true, e2)
        else return (.stop (.fault 1 1 va), 0)

/-- Walk the tables of a context. -/
def walkTables (a : CtxAcc) (va : Nat) (write : Bool) : M (XRes × Nat) := do
  match ← level1 a va with
  | (_, some w) => return (.stop w, 0)
  | (b1, none) => walkFrom a va write b1

/-- The window slot a cached translation is kept under (R572). -/
def cacheSlot (s : State) (a : CtxAcc) (va : Nat) : Option Nat := if inWindow s a.ctx va then a.gslot else none

/-- Translate a context address, using and filling the walker's cached translations (R320; log 14, DESIGN CHOICE). -/
def translate (a : CtxAcc) (va : Nat) (write : Bool) : M XRes := do
  if va ≥ 2 ^ 52 then return .stop (.fault 1 1 va)
  else
    let s ← getS
    let slot := cacheSlot s a va
    let cached : Option Xlate := match a.core with
      | some n => (theCore s n).xlate.find? (fun x => x.ctx = a.ctx && x.gslot = slot && x.vpage = va / page2M)
      | none => none
    match cached with
    | some x =>
      if write && !x.w then return .stop (.fault 1 2 va)
      else return .ok ⟨x.ppage * page2M + va % page2M, x.refetch, x.leaf2⟩
    | none =>
      match ← walkTables a va write with
      | (.ok x, e) =>
        match a.core with
        | some n =>
          modCore n (fun c => { c with xlate := c.xlate ++ [(⟨a.ctx, slot, va / page2M, x.pa / page2M, bit e 2, x.refetch, x.leaf2⟩ : Xlate)] })
        | none => pure ()
        return .ok x
      | (w, _) => return w

/-- Read the directory entry of a deep page that a level-2 leaf names (R408); the entry bites when it is poisoned. -/
def dirWalk (a : CtxAcc) (x : Xl) : M (Option Stop) := do
  let s ← getS
  match regionOf s.part x.pa with
  | .deep off =>
    if x.leaf2 && fv s WAGON_STATUS_STATE != 0 && decide (off < deepFitted s) && !inTransit s (deepIdx off) then
      return (← walkRead a (dirAddr s (deepIdx off))).2
    else return none
  | _ => return none

/-- How an access at a context address reaches memory once translated. -/
def viaOf (a : CtxAcc) (x : Xl) (va : Nat) : Via := ⟨a.req, a.cls, some a.ctx, x.leaf2, !x.leaf2, false, va⟩

/-- Open or join a re-source request for the page of a line (R583, R585). -/
def openRsrc (a : CtxAcc) (pa : Nat) : M Unit := do
  let s ← getS
  let page := pa - pa % page2M
  if (rsrcOf s pa).isNone && s.wagon.rsrc.length < 16 then
    modWagon (fun w => { w with rsrc := w.rsrc ++ [⟨page, a.ctx, s.tick⟩] })
    bump WAGON_RSRC_COUNT_COUNT
    note ⟨13, 0, a.ctx, a.core.getD 0xFF, 0xFFFF, match a.core with | some n => taskRef s n | none => none, 0, page, 0⟩

/-- A line as an access by context address receives it. -/
inductive CLine where
  | data (bs : List Byte) (poison : Bool)
  | uncorr (bs : List Byte)
  | stop (w : Stop)
  deriving DecidableEq, Repr

/-- What holds an access by context address names that address (Table 15.14, REFUSED). -/
def holdAt (w : HoldWhy) (va : Nat) : HoldWhy :=
  match w with
  | .refused d u _ => .refused d u va
  | w => w

/-- Read the line of a context address. `again` reads without opening re-source requests (R588). -/
def ctxLine (a : CtxAcc) (va : Nat) (again : Bool) : M CLine := do
  match ← translate a va false with
  | .stop w => return .stop w
  | .ok x =>
    match ← dirWalk a x with
    | some w => return .stop w
    | none =>
      match ← readLine (viaOf a x va) x.pa with
      | .data bs p => return .data bs p
      | .absent code => return .stop (.fault 1 code va)
      | .hold w => return .stop (.hold (holdAt w va))
      | .uncorr bs =>
        if x.refetch && !again then
          openRsrc a x.pa
          return .stop (.hold (.rsrc (x.pa - x.pa % page2M)))
        else return .uncorr bs

/-- Read bytes by context address, line by line; an uncorrectable line is delivered poisoned (R446), or stops the read
where `strict` says so. -/
def ctxReadAll (a : CtxAcc) (strict again : Bool) : List (Nat × Nat) → M (Except Stop (List (Byte × Bool)))
  | [] => pure (.ok [])
  | (va, k) :: rest => do
    let cut (bs : List Byte) (p : Bool) := ((bs.drop (va % 256)).take k).map (fun b => (b, p))
    let more (head : List (Byte × Bool)) : M (Except Stop (List (Byte × Bool))) := do
      match ← ctxReadAll a strict again rest with
      | .ok tail => return .ok (head ++ tail)
      | .error w => return .error w
    match ← ctxLine a va again with
    | .data bs p => more (cut bs p)
    | .uncorr bs => if strict then return .error (.line va) else more (cut bs true)
    | .stop w => return .error w

def ctxRead (a : CtxAcc) (va n : Nat) : M (Except Stop (List (Byte × Bool))) :=
  ctxReadAll a false false (linePieces va n)

/-- Write bytes of one line at a context address that is translated. -/
def writeXl (a : CtxAcc) (x : Xl) (va : Nat) (bs : List (Byte × Bool)) : M (Option Stop) := do
  match ← dirWalk a x with
  | some w => return some w
  | none =>
    let d := bitsOf x.pa (bs.map Prod.fst)
    match ← writeLine (viaOf a x va) x.pa d.1 d.2 (bs.any Prod.snd) with
    | .ok => return none
    | .absent code => return some (.fault 1 code va)
    | .hold w => return some (.hold (holdAt w va))
    | .failed => return some (.fault 9 0 va)

/-- Write bytes by context address, line by line. -/
def ctxWriteAll (a : CtxAcc) : List (Nat × Nat) → List (Byte × Bool) → M (Option Stop)
  | [], _ => pure none
  | (va, k) :: rest, bs => do
    match ← translate a va true with
    | .stop w => return some w
    | .ok x =>
      match ← writeXl a x va (bs.take k) with
      | none => ctxWriteAll a rest (bs.drop k)
      | w => return w

def ctxWrite (a : CtxAcc) (va : Nat) (bs : List (Byte × Bool)) : M (Option Stop) :=
  ctxWriteAll a (linePieces va bs.length) bs

/-- Bytes without poison. -/
def clean (bs : List Byte) : List (Byte × Bool) := bs.map (fun b => (b, false))

/-- Count an access of a context that waits on a page in transit (R420). -/
def noteWait (c : Nat) (w : HoldWhy) : M Unit := do
  match w with
  | .move _ => bump (CTX_LOCK_WAITS_COUNT c)
  | _ => pure ()

/-- Fault the context of an access for its stop; a wait faults nothing. -/
def faultFor (a : CtxAcc) (w : Stop) : M Unit := do
  match w with
  | .fault kind code addr =>
    match a.core with
    | some n => faultCore n kind code 0xFFFF 0 addr 0
    | none => faultCtxAs a.ctx kind code 0xFFFF 0 addr 0
  | .hold w => noteWait a.ctx w
  | .line _ => pure ()

/-- Whether a page's memory is absent for a core, with the CODE of its fault (R318). -/
def pageAbsent (s : State) (n pa : Nat) : Option Nat :=
  match regionOf s.part pa with
  | .hbm st off => match gateHbm s n st off with
    | .absent code => some code
    | _ => none
  | .deep off => if off ≥ deepFitted s then some 0 else none
  | _ => some 0

/-- An access's address is walked, and what the walk refuses faults the context. -/
def walkFor (a : CtxAcc) (n va : Nat) (write : Bool) : M Unit := do
  match ← translate a va write with
  | .stop w => faultFor a w
  | .ok x =>
    match ← dirWalk a x with
    | some w => faultFor a w
    | none =>
      match pageAbsent (← getS) n x.pa with
      | some code => faultFor a (.fault 1 code va)
      | none => pure ()

/-- PAGE_WALK (R317, R318): a core's walker translates an address for its context. -/
def execPageWalk (core : Fin 64) (ctx : Fin 16) (va : Nat) (write : Bool) (errs : List LineErr) (s : State) :
    Host.Outcome State Fault Refusal := runT (withErrs errs (do
  walkFor { taskAcc (← getS) core 1 with ctx := ctx } core va write)) s

/-- Drop the translations a predicate selects in every walker. -/
def dropXlate (p : Xlate → Bool) : M Unit := do
  let s ← getS
  each (mkeys s.cores) (fun n => modCore n (fun c => { c with xlate := c.xlate.filter (fun x => !p x) }))

end Sys2Proof.Machine
end

