-- ==== Sys2Proof/Machine/Fabric.lean ====
section
/-!
DEFINITION. Machine/Fabric.lean: the optical ports and the routing of packets (12_fabric.md): sending under the retry
buffer and the order of R519, routes and groups, acceptance of arriving packets, training results and swaps.
-/

namespace Sys2Proof.Machine

def thePort (s : State) (p : Nat) : PortSt := mget (fun _ => PortSt.start) s.ports p

/-- This device's node address (R520). -/
def nodeOf (s : State) : Nat := fv s PORT_NODE_NODE

/-- The page current now (R526). -/
def curPage (s : State) : Nat := fv s PORT_ROUTE_STATUS_CURRENT

/-! ## Sending on a link (R511, R519) -/

/-- Bytes of a packet on the link. -/
def pktBytes (p : Packet) : Nat := 64 + p.payload.length

/-- Bytes of the retry buffer in use. -/
def retryUsed (x : PortSt) : Nat := (x.retry.map (fun e => pktBytes e.2)).sum

/-- Whether the retry buffer of 512 KiB has room for a packet. -/
def retryRoom (x : PortSt) (p : Packet) : Bool := retryUsed x + pktBytes p ≤ 0x80000

/-- Put a packet on a port's link. -/
def transmit (port : Nat) (p : Packet) : M Unit := do
  let s ← getS
  let x := thePort s port
  bumpBy (PORT_TX_BYTES_COUNT port) p.payload.length
  modPort port (fun y => { y with
    retry := y.retry ++ [(y.txNext, p)]
    txNext := (y.txNext + 1) % 65536
    ackTick := if y.retry = [] then s.tick else y.ackTick })
  emit (.packet port x.txNext p)

/-- Packets of the response class (R516). -/
def pktResponse (p : Packet) : Bool := 1 ≤ p.kind && p.kind ≤ 4

/-- The packets at the front of a list that a number of bytes lets go, and the rest. -/
def takeBytes : Nat → List Packet → List Packet × List Packet
  | _, [] => ([], [])
  | n, p :: ps => if pktBytes p ≤ n then let r := takeBytes (n - pktBytes p) ps; (p :: r.1, r.2) else ([], p :: ps)

/-- Rounds over VC1-VC5, each taking up to its weight times 4,096 bytes (R519). -/
def rounds (w : Nat → Nat) : Nat → List (Nat × List Packet) → List Packet
  | 0, _ => []
  | fuel + 1, qs =>
    let cut := qs.map (fun q => (q.1, takeBytes (w q.1 * 4096) q.2))
    cut.flatMap (fun q => q.2.1) ++ rounds w fuel (cut.map (fun q => (q.1, q.2.2)))

/-- The order in which an output sends the packets it holds (R519). -/
def txOrder (w : Nat → Nat) (q : List Packet) : List Packet :=
  let plain := q.filter (fun p => !pktResponse p)
  q.filter pktResponse ++ plain.filter (fun p => p.vc = 0)
    ++ rounds w q.length ([1, 2, 3, 4, 5].map (fun v => (v, plain.filter (fun p => p.vc = v))))
    ++ plain.filter (fun p => 5 < p.vc)

/-- W_v, where 0 acts as 1 (Table 12.18). -/
def vcWeight (s : State) (v : Nat) : Nat := max 1 (bits (rg s PORT_VC_WEIGHT) (4 * v - 4) 4)

/-- Send packets in order while the buffer has room; the rest stay queued. -/
def sendMany (port : Nat) : List Packet → M Unit
  | [] => modPort port (fun x => { x with queue := [] })
  | p :: ps => do
    if retryRoom (thePort (← getS) port) p then
      transmit port p
      sendMany port ps
    else modPort port (fun x => { x with queue := p :: ps })

/-- Send what a port holds, if it carries packets. -/
def pumpPort (port : Nat) : M Unit := do
  let s ← getS
  let q := (thePort s port).queue
  if portCarries s port && q != [] then sendMany port (txOrder (vcWeight s) q)

/-- Queue a packet at an output and send what can go (R523). -/
def enqueue (port : Nat) (p : Packet) : M Unit := do
  modPort port (fun x => { x with queue := x.queue ++ [p] })
  pumpPort port

/-- Discard a packet that no route takes (R523), at the port it arrived on. -/
def unroutable (port : Nat) : M Unit := bump (PORT_UNROUTABLE_COUNT port)

/-- Send a packet to output `out`, which it takes or which discards it (R523). -/
def sendOut (inPort out : Nat) (p : Packet) : M Unit := do
  let s ← getS
  let st := fv s (PORT_STATUS_STATE out)
  if out ≥ s.part.ports || st = 0 || st = 5 then unroutable inPort else enqueue out p

/-! ## Routes (R521-R529) -/

/-- Address of the register that holds an entry of a page: group entry g, or local entry 1,024 + l. -/
def routeReg (page e : Nat) : Nat := PORT_ROUTE0 0 + 0x1000 * page + 8 * (e / 4)

/-- The entry a unicast packet is routed by (R521). -/
def routeEntry (s : State) (p : Packet) : Nat :=
  let e := if p.dest / 256 = nodeOf s / 256 then 1024 + p.dest % 256 else p.dest / 256
  bits (rg s (routeReg p.page e)) (16 * (e % 4)) 16

/-- Move a packet to sub-class 1 at a dateline hop (R517). -/
def pktHop (p : Packet) (dateline : Bool) : Packet := if dateline then { p with sub := true } else p

/-- Route a packet from an input port (its own packets: port 0). Answers whether it is to be delivered here. -/
def routePacket (inPort : Nat) (p : Packet) : M Bool := do
  let s ← getS
  if p.mcast then
    let e := rg s (PORT_MCAST p.dest)
    if p.dest ≥ 1024 || !bit e 33 then
      unroutable inPort
      return false
    else
      each ((List.range 32).filter (bit e)) (fun out => sendOut inPort out (pktHop p (bit e 34)))
      return bit e 32
  else if p.dest = nodeOf s then return true
  else
    let e := routeEntry s p
    if !bit e 9 then unroutable inPort
    else sendOut inPort ((bits e 0 5 + p.tag % 2 ^ bits e 5 3) % 32) (pktHop p (bit e 8))
    return false

/-- Send a packet of this device; one for itself is taken at the next tick edge. A device without a node address sends
nothing (R520). -/
def inject (p : Packet) : M Unit := do
  if nodeOf (← getS) ≠ 0 then
    if ← routePacket 0 p then modFab (fun f => { f with loop := f.loop ++ [p] })

/-- A packet without payload, under the page current now (R526). -/
def control (s : State) (kind dest vc tag job image gen info : Nat) : Packet :=
  ⟨dest, false, vc, false, curPage s, kind, nodeOf s, tag, job, image, 0, true, gen, info, [], 0⟩

/-- Packets of a route page held in the I/O dies: waiting, or in retry buffers (R527). -/
def pageInflight (s : State) (page : Nat) : Nat :=
  (s.ports.map (fun e => (e.2.queue.filter (fun p => p.page = page && !p.mcast)).length
    + (e.2.retry.filter (fun r => r.2.page = page && !r.2.mcast)).length)).sum

/-! ## Acceptance (R509, R512, R513) -/

/-- Whether a packet that arrives with an LSEQ is accepted; otherwise it is discarded and a replay requested. -/
def acceptPacket (port : Nat) (crcOk : Bool) (lseq : Nat) : M Bool := do
  let s ← getS
  let x := thePort s port
  if !portCarries s port then return false
  else
    when' (!crcOk) (bump (PORT_CRC_ERRORS_COUNT port))
    if crcOk && lseq = x.rxNext then
      modPort port (fun y => { y with rxNext := (y.rxNext + 1) % 65536, rxHold := false })
      emit (.linkAck port lseq)
      return true
    else
      when' (!x.rxHold || lseq = x.rxNext) (emit (.replayRequest port x.rxNext))
      modPort port (fun y => { y with rxHold := true })
      return false

/-- How far LSEQ b lies after a, modulo 65,536. -/
def seqDist (a b : Nat) : Nat := (b + 65536 - a % 65536) % 65536

/-- Drop the packets up to an LSEQ from the retry buffer (R513). -/
def dropAcked (lseq : Nat) (x : PortSt) : PortSt :=
  { x with retry := x.retry.filter (fun e => e.1 != lseq && decide (32768 ≤ seqDist e.1 lseq)) }

/-- Resend every packet of the retry buffer from an LSEQ on. -/
def resendFrom (port lseq : Nat) : M Unit := do
  let x := thePort (← getS) port
  each (x.retry.filter (fun e => seqDist lseq e.1 < 32768)) (fun e => emit (.packet port e.1 e.2))

/-- REPLAY_REQUEST (R512). -/
def execReplayRequest (port : Fin 32) (lseq : Nat) (s : State) : Host.Outcome State Fault Refusal := runM (do
  let s ← getS
  if portCarries s port then
    bump (PORT_REPLAYS_COUNT port)
    modPort port (fun x => { x with
      replayAt := some (lseq % 65536)
      replayN := if x.replayAt = some (lseq % 65536) then x.replayN + 1 else 1 })
    resendFrom port (lseq % 65536)) s

/-- LINK_ACK (R513): every packet up to an LSEQ is acknowledged. -/
def execLinkAck (port : Fin 32) (lseq : Nat) (s : State) : Host.Outcome State Fault Refusal := runM (do
  let s ← getS
  if portCarries s port then
    modPort port (fun x => { dropAcked (lseq % 65536) x with ackTick := s.tick, replayAt := none, replayN := 0 })
    pumpPort port) s

/-- The context that a unit of a reset's domain works for, if any. -/
def ctxOfUnit (s : State) (domain unit : Nat) : Option Nat :=
  if domain = 1 then ctxOfCore s (unit / 4) else if domain = 2 then ctxOfCore s unit else if domain = 3 then some unit else none

/-- Request a reset of a unit of a domain for the next tick edge (rank 2). -/
def requestReset (domain unit : Nat) : M Unit := do
  latch ⟨2, 8 - domain, ctxOfUnit (← getS) domain unit, unit, .reset domain unit⟩

/-- A port loses its link and retrains under a port reset (R514). -/
def portDown (port : Nat) : M Unit := do
  setFld (PORT_STATUS_STATE port) 4
  flag (PORT_STATUS_LINK_DOWN port)
  bump (PORT_LINK_DOWNS_COUNT port)
  requestReset 4 port
  capUpdate

/-- A port has had no acknowledgement of the packets that it keeps for LINK_TIMEOUT ticks (R40, R514). -/
def linkLate (s : State) (port : Nat) : Bool :=
  let x := thePort s port
  portCarries s port && x.retry != [] && decide (x.ackTick + fv s (PORT_LINK_TIMEOUT_TICKS port) < s.tick)

/-- LINK_DOWN (R514): RETRY_LIMIT replays in a row at one LSEQ, or no acknowledgement for LINK_TIMEOUT ticks. -/
def execLinkDown (port : Fin 32) (s : State) : Host.Outcome State Fault Refusal := runM (do
  let s ← getS
  when' (linkLate s port
    || (portCarries s port && decide (max 1 (fv s (PORT_RETRY_LIMIT_COUNT port)) ≤ (thePort s port).replayN))) (portDown port)) s

/-! ## Lanes -/

/-- The lane map of a direction, lane 0 first; 0xFF: no lane. -/
def laneMap (s : State) (r0 r1 : Nat) : List Nat :=
  ((List.range 8).map (fun j => bits (rg s r0) (8 * j) 8)) ++ ((List.range 8).map (fun j => bits (rg s r1) (8 * j) 8))

/-- The word of eight lanes. -/
def laneWord (l : List Nat) : Nat := ((List.range 8).map (fun j => l.getD j 0xFF * 2 ^ (8 * j))).sum

/-- Write a lane map of up to 16 wavelengths. -/
def setLanes (r0 r1 : Nat) (l : List Nat) : M Unit := do
  let l := l.take 16
  setReg r0 (laneWord l)
  setReg r1 (laneWord (l.drop 8))

/-- The state of a wavelength in WL_TX or WL_RX (Table 12.1). -/
def waveOf (s : State) (r w : Nat) : Nat := bits (rg s r) (2 * w) 2
def setWave (r w v : Nat) : M Unit := setFld ⟨r, 2 * w, 2⟩ v

/-- Wavelengths assigned by training: the first 16 that pass are lanes, the next two spares (R497). -/
def passing (mask : Nat) : List Nat := (List.range 18).filter (bit mask)

/-- The word of wavelength states that training leaves. -/
def waveWord (mask : Nat) : Nat :=
  let p := passing mask
  ((List.range 18).map (fun w =>
    (if (p.take 16).contains w then 0 else if (p.drop 16).contains w then 1 else 3) * 2 ^ (2 * w))).sum

/-- UP with 16 lanes in each direction, else DEGRADED (Table 12.2). -/
def laneState (tx rx : Nat) : Nat := if tx = 16 && rx = 16 then 2 else 3

/-- The tick at which a port's monitoring window closes (R37, R499). -/
def monClose (s : State) (port : Nat) : Nat := (thePort s port).monAt + max 1 (fv s (PORT_MON_WINDOW_TICKS port))

/-- A port out of service: nothing of it is lit and its buffers are discarded (R497, R498); the packets that waited for it
count in UNROUTABLE (R523). -/
def portOut (port : Nat) : M Unit := do
  bumpBy (PORT_UNROUTABLE_COUNT port) (thePort (← getS) port).queue.length
  let drop : PortSt → PortSt := fun x => { x with
    retry := [], queue := [], rxHold := false, rxSwap := none, txSwap := none, degraded := [], replayAt := none, replayN := 0 }
  setFld (PORT_STATUS_STATE port) 5
  setFld (PORT_STATUS_TX_LANES port) 0
  setFld (PORT_STATUS_RX_LANES port) 0
  setFld (PORT_STATUS_TX_SPARES port) 0
  setFld (PORT_STATUS_RX_SPARES port) 0
  setLanes (PORT_LMAP_TX0 port) (PORT_LMAP_TX1 port) []
  setLanes (PORT_LMAP_RX0 port) (PORT_LMAP_RX1 port) []
  setReg (PORT_WL_TX port) (2 ^ 36 - 1)
  setReg (PORT_WL_RX port) (2 ^ 36 - 1)
  modPort port drop

/-- The end of a port's training: the wavelengths that passed in each direction and the LSEQ that the far end accepted
last (R496-R498). -/
def trainPort (port tx rx peer : Nat) : M Unit := do
  let s ← getS
  let nt := min 16 (passing tx).length
  let nr := min 16 (passing rx).length
  if !fb s (PORT_CTRL_ENABLE port) || nt < 8 || nr < 8 then portOut port
  else
    setFld (PORT_STATUS_STATE port) (laneState nt nr)
    setFld (PORT_STATUS_TX_LANES port) nt
    setFld (PORT_STATUS_RX_LANES port) nr
    setFld (PORT_STATUS_TX_SPARES port) ((passing tx).length - nt)
    setFld (PORT_STATUS_RX_SPARES port) ((passing rx).length - nr)
    setLanes (PORT_LMAP_TX0 port) (PORT_LMAP_TX1 port) (passing tx)
    setLanes (PORT_LMAP_RX0 port) (PORT_LMAP_RX1 port) (passing rx)
    setReg (PORT_WL_TX port) (waveWord tx)
    setReg (PORT_WL_RX port) (waveWord rx)
    modPort port (fun x => { dropAcked (peer % 65536) x with
      rxHold := false, rxSwap := none, txSwap := none, degraded := [], replayAt := none, replayN := 0, ackTick := s.tick
      monAt := s.tick })
    resendFrom port ((peer + 1) % 65536)
    pumpPort port
  capUpdate

/-! ## Watching wavelengths and swaps (R499-R505) -/

/-- The lowest-indexed SPARE of the received direction. -/
def rxSpare (s : State) (port : Nat) : Option Nat := (List.range 18).find? (fun w => waveOf s (PORT_WL_RX port) w = 1)

/-- Begin the swap, or the drop, of a degraded wavelength (R501, R503). -/
def beginSwap (port w : Nat) : M Unit := do
  let s ← getS
  let lane := (laneMap s (PORT_LMAP_RX0 port) (PORT_LMAP_RX1 port)).findIdx (· = w)
  let spare := rxSpare s port
  if spare = none && decide (fv s (PORT_STATUS_RX_LANES port) ≤ 8) then portDown port
  else
    modPort port (fun x => { x with rxSwap := some ⟨lane, w, spare, 0, s.tick⟩ })
    emit (.swapReq port lane spare)

/-- A spare fails (R500); the capability record changes with it (R487). -/
def failSpare (port w : Nat) : M Unit := do
  setWave (PORT_WL_RX port) w 2
  setFld (PORT_STATUS_RX_SPARES port) ((← fld (PORT_STATUS_RX_SPARES port)) - 1)
  capUpdate

/-- A wavelength degrades (R500, R501, R504, R505). -/
def degrade (port w : Nat) : M Unit := do
  let s ← getS
  let x := thePort s port
  let st := waveOf s (PORT_WL_RX port) w
  if st = 1 then
    failSpare port w
    match x.rxSwap with
    | some q => if q.spare = some w then
        modPort port (fun x => { x with rxSwap := none })
        beginSwap port q.old
    | none => pure ()
  else if st = 0 then
    match x.rxSwap with
    | some q =>
      if q.old != w && !x.degraded.contains w then
        modPort port (fun x => { x with degraded := insertBy (fun a b => decide (a < b)) w x.degraded })
    | none =>
      if x.swapTick = s.tick && s.tick != 0 || x.degraded != [] then
        modPort port (fun x => { x with degraded := insertBy (fun a b => decide (a < b)) w x.degraded })
      else beginSwap port w

/-- WAVELENGTH_DEGRADE (R499): a monitoring window closes with a count of corrected symbols, at its closing tick, or an
uncorrectable codeword is sampled. -/
def execWavelengthDegrade (port : Fin 32) (w : Fin 18) (corr : Nat) (uncorr : Bool) (s : State) :
    Host.Outcome State Fault Refusal := runM (do
  let s ← getS
  if portCarries s port && decide (waveOf s (PORT_WL_RX port) w ≤ 1) then
    if uncorr then
      bump (PORT_FEC_UNCORR_COUNT port)
      degrade port w
    else if monClose s port ≤ s.tick then
      setFld (PORT_WL_CORR_COUNT port w) (min (2 ^ 32 - 1) corr)
      bumpBy (PORT_FEC_CORR_COUNT port) corr
      when' (decide (corr > fv s (PORT_FEC_LIMIT_SYMBOLS port))) (degrade port w)) s

/-- SWAP_REQ (R501): the transmitter begins to bridge, or prepares a drop, and answers. -/
def execSwapReq (port : Fin 32) (lane : Fin 16) (spare : Option (Fin 18)) (s : State) : Host.Outcome State Fault Refusal :=
  runM (do
    let s ← getS
    if portCarries s port then
      modPort port (fun x => { x with txSwap := some ⟨lane, spare.map Fin.val⟩ })
      emit (.swapAck port)) s

/-- SWAP_ACK (R501): the receiver compares the spare with the lane; a drop goes on at once. -/
def execSwapAck (port : Fin 32) (s : State) : Host.Outcome State Fault Refusal := runM (do
  let s ← getS
  match (thePort s port).rxSwap with
  | some q =>
    if q.phase = 0 then
      if q.spare = none then
        modPort port (fun x => { x with rxSwap := some { q with phase := 2, since := s.tick } })
        emit (.swapGo port)
      else modPort port (fun x => { x with rxSwap := some { q with phase := 1, since := s.tick } })
  | none => pure ()) s

/-- The tick after the units have matched, the receiver sends SWAP_GO; a waiting degradation begins the tick after the
marker (Table 12.3, R504). -/
def swapTick (port : Nat) : M Unit := do
  let s ← getS
  let x := thePort s port
  match x.rxSwap with
  | some q =>
    if q.phase = 1 && decide (q.since < s.tick) then
      modPort port (fun x => { x with rxSwap := some { q with phase := 2, since := s.tick } })
      emit (.swapGo port)
  | none =>
    match x.degraded with
    | w :: rest =>
      if portCarries s port && decide (x.swapTick < s.tick) then
        modPort port (fun x => { x with degraded := rest })
        when' (waveOf s (PORT_WL_RX port) w = 0) (beginSwap port w)
    | [] => pure ()

/-- Move a lane onto its spare, or remove it, in one direction's map, states and counts. -/
def applySwap (r0 r1 wl : Nat) (lanes spares : Fld) (lane : Nat) (spare : Option Nat) : M Unit := do
  let s ← getS
  let m := (laneMap s r0 r1).filter (· != 0xFF)
  let old := m.getD lane 0xFF
  when' (decide (old < 18)) (setWave wl old 2)
  match spare with
  | some w =>
    setLanes r0 r1 (m.set lane w)
    setWave wl w 0
    setFld spares ((← fld spares) - 1)
  | none =>
    setLanes r0 r1 (m.eraseIdx lane)
    setFld lanes (fv s lanes - 1)

/-- The port's state after its lanes changed. -/
def noteLanes (port : Nat) : M Unit := do
  let s ← getS
  setFld (PORT_STATUS_STATE port) (laneState (fv s (PORT_STATUS_TX_LANES port)) (fv s (PORT_STATUS_RX_LANES port)))
  capUpdate

/-- SWAP_GO (R501): the transmitter sends the marker; from it on the lane runs on the spare only, or is gone. -/
def execSwapGo (port : Fin 32) (s : State) : Host.Outcome State Fault Refusal := runM (do
  let s ← getS
  match (thePort s port).txSwap with
  | some q =>
    if portCarries s port then
      emit (.marker port)
      modPort port (fun x => { x with txSwap := none })
      applySwap (PORT_LMAP_TX0 port) (PORT_LMAP_TX1 port) (PORT_WL_TX port) (PORT_STATUS_TX_LANES port)
        (PORT_STATUS_TX_SPARES port) q.lane q.spare
      noteLanes port
  | none => pure ()) s

/-- SWITCH_MARKER (R501, R503): the receiver takes the marker. -/
def execSwitchMarker (port : Fin 32) (s : State) : Host.Outcome State Fault Refusal := runM (do
  let s ← getS
  match (thePort s port).rxSwap with
  | some q =>
    if q.phase = 2 && portCarries s port then
      modPort port (fun x => { x with rxSwap := none, swapTick := s.tick })
      applySwap (PORT_LMAP_RX0 port) (PORT_LMAP_RX1 port) (PORT_WL_RX port) (PORT_STATUS_RX_LANES port)
        (PORT_STATUS_RX_SPARES port) q.lane q.spare
      if q.spare = none then
        bump (PORT_DROPS_COUNT port)
        flag (PORT_STATUS_DROPPED port)
      else
        bump (PORT_SWAPS_COUNT port)
        flag (PORT_STATUS_SWAPPED port)
      noteLanes port
  | none => pure ()) s

/-! ## Route pages (R525-R528) -/

/-- A switch of route pages at its tick: page NEXT becomes current. -/
def routeSwitchNow : M Unit := do
  let s ← getS
  setFld PORT_ROUTE_STATUS_CURRENT (fv s PORT_ROUTE_CTRL_NEXT)
  setFld PORT_ROUTE_STATUS_ARMED 0

/-- ROUTE_SWITCH (R525): an armed switch at its tick. -/
def execRouteSwitch (s : State) : Host.Outcome State Fault Refusal := runM (do
  let s ← getS
  when' (fb s PORT_ROUTE_STATUS_ARMED && decide (rg s PORT_SWITCH_AT ≤ s.tick)) routeSwitchNow) s

/-- Whether R527 drops a write to an entry of a page. -/
def pageBusy (s : State) (page : Nat) : Bool :=
  page = curPage s || (fb s PORT_ROUTE_STATUS_ARMED && page = fv s PORT_ROUTE_CTRL_NEXT) || pageInflight s page != 0

/-- A write of a register of four route entries. -/
def routeWrite (page e data : Nat) : M Unit := do
  if pageBusy (← getS) page then flag PORT_ROUTE_STATUS_PAGE_BUSY
  else setReg (routeReg page (4 * e)) data

/-- ROUTE_ENTRY_WRITE (R527), by the control die (R551). -/
def execRouteEntryWrite (page : Fin 4) (e : Fin 320) (data : Nat) (s : State) : Host.Outcome State Fault Refusal :=
  runM (routeWrite page e data) s

end Sys2Proof.Machine
end

