-- ==== Sys2Proof/Machine/Encode.lean ====
section
/-!
DEFINITION. Machine/Encode.lean: encodes of FP32 tiles into stored formats with their recipes and statistics, as DRAIN
and the Mule make them (04_scales_and_statistics.md), and stored elements read as FP32 (R172, R173).
-/

namespace Sys2Proof.Machine

/-! ## Stored elements as FP32 -/

/-- The FP32 code a stored element converts to (R172, R173). -/
def toFp (f : Fmt) (code scale : Nat) : Nat :=
  if f.code = 6 then canon code
  else
    let v := decodeCode f code scale
    match v.cls with
    | .zero => if f.code ≤ 1 && bit code 15 then 0x80000000 else 0
    | .fin => toFp32 (.fin v.s v.m (v.e - 10)) .rne
    | .inf => if v.s then 0xFF800000 else 0x7F800000
    | .nan => 0x7FC00000

/-- An element and its scale, with the poison of both. -/
def toFpP (f : Fmt) (e sc : Elem) : FpP := ⟨toFp f e.code sc.code, e.poison || (f.scaled && sc.poison)⟩

/-- Whether the scaled image at a place has the COL axis, where a stream of the running program writes it (R263). -/
def axisAt (s : State) (n : Nat) (p : Place) : Option Bool := axisIn (runningDescs s n) p

/-- An image's scaled elements as FP32 rows; `col` is the axis of its scales. -/
def imgFp (s : State) (n : Nat) (m : Img) (width : Nat) (col : Bool) : List (List FpP) :=
  (List.range m.rows).map (fun r =>
    ((List.range m.ncb).flatMap (fun j =>
      (imgRow s n m j r).zipIdx.map (fun e => toFpP m.fmt e.1 (imgScale s n m j (if col then e.2 else r))))).take width)

/-! ## The values of a task (R144) -/

/-- STEP, SR_SEED, STAT_BASE and STAT_CFG of a core's task. -/
structure TaskVals where
  step : Nat
  seed : Nat
  base : Nat
  cfg : Nat
  deriving DecidableEq, Repr

def taskVals (s : State) (n : Nat) : TaskVals :=
  match (theCore s n).task with
  | some t => ⟨t.step, t.seed, t.statBase, t.statCfg⟩
  | none => ⟨0, 0, 0, 0⟩

/-- The class of a core's reads; a LOAD in a slot of C0_SLOTS reads at class 0 (R340). -/
def readClass (s : State) (n : Nat) (slot : Option Nat) : Nat :=
  match (theCore s n).task, slot with
  | some t, some k => if bit (t.words.getD 1 0) (48 + k) then 0 else fv s (CTX_HBM_CLASS_CLASS t.ctx)
  | some t, none => fv s (CTX_HBM_CLASS_CLASS t.ctx)
  | none, _ => 1

/-- The outcome of a tile's work. -/
inductive TRes where
  /-- Done. -/
  | ok
  /-- Held in a wait of Table 15.1. -/
  | hold (w : HoldWhy)
  /-- Not begun: a bank, a queue or a row is not there yet. -/
  | wait
  /-- Waiting for a merged record (R148). -/
  | record
  /-- Its context has been faulted. -/
  | bad
  deriving DecidableEq, Repr

/-- A stop of a core's access as the outcome of its tile; a fault is raised. -/
def stopRes (a : CtxAcc) (w : Stop) : M TRes := do
  match w with
  | .hold h => return .hold h
  | w =>
    faultFor a w
    return .bad

/-! ## One encode -/

/-- An encode of a tile: the image it writes, KIND, tensor, whether it takes statistics, the maximum vector of a WEIGHT
encode, the rounding mode of each element, and whether it is a weight-update write (R192). -/
structure EncSpec where
  img : Img
  kind : Nat
  tid : Nat
  stat : Bool
  maxv : List FpP
  mode : Nat → Nat → Round
  wu : Bool

/-- What an encode finds before it writes: its recipe, and whether it fell back (R147). -/
structure EncPrep where
  recipe : Recipe
  fell : Bool
  deriving DecidableEq, Repr

inductive PrepRes where
  | ready (p : EncPrep)
  | not (r : TRes)
  deriving DecidableEq, Repr

/-- The recipe of an ACTIVATION encode (R146-R148, R160, R704). -/
def actRecipe (n tid : Nat) : M (Recipe × Bool × TRes) := do
  let s ← getS
  let v := taskVals s n
  let a := taskAcc s n (readClass s n none)
  match statBits v.cfg with
  | none => return (.own 0, true, .ok)
  | some b =>
    if v.step = 0 then return (.own 0, true, .ok)
    else
      let va := mergedAt v.base b tid (v.step - 1)
      match ← ctxRead a va 512 with
      | .error w => return (.own 0, false, ← stopRes a w)
      | .ok bs =>
        match actTest (bs.map Prod.fst) (bs.any Prod.snd) tid v.step with
        | .fallBack => return (.own 0, true, .ok)
        | .poisoned =>
          flag (CTX_STAT_STATUS_REC_POISON a.ctx)
          faultCore n 15 3 0xFFFF 0 va 0
          return (.own 0, false, .bad)
        | .wait => return (.own 0, false, .record)
        | .badCrc =>
          flag (CTX_STAT_STATUS_CRC_FAIL a.ctx)
          faultCore n 15 2 0xFFFF 0 va 0
          return (.own 0, false, .bad)
        | .amax x => return (.given x, false, .ok)

/-- Find an encode's recipe; nothing is written. -/
def prepEncode (n : Nat) (e : EncSpec) : M PrepRes := do
  if e.kind = 4 && e.img.fmt.code != 6 then
    faultCore n 15 1 0xFFFF 0 0 0
    return .not .bad
  else
    let r ← (if !e.img.fmt.scaled then pure (Recipe.unscaled, false, TRes.ok)
      else if e.kind = 0 then pure (Recipe.unscaled, false, TRes.ok)
      else if e.kind = 1 then actRecipe n e.tid
      else pure (Recipe.own (if e.kind = 3 then 1 else 0), false, TRes.ok))
    return if r.2.2 != .ok then .not r.2.2 else .ready ⟨r.1, r.2.1⟩

/-- Encode the row blocks of one row, counting into `st`. -/
def encRowBlocks (f : Fmt) (r : Recipe) (mode : Nat → Round) : Nat → List (List FpP) → StatRec → List EncBlock × StatRec
  | _, [], st => ([], st)
  | c, b :: bs, st =>
    let x := encodeBlock f r (fun i => mode (c + i)) b st
    let rest := encRowBlocks f r mode (c + b.length) bs x.stat
    (x :: rest.1, rest.2)

/-- Encode rows by row blocks (R129). The blocks are those of the tile's image, which R260 gives one code each: a tile whose
column origin is no multiple of 128 holds parts of the tensor's blocks, and each part gets the code of its own (log 45,
DESIGN CHOICE). -/
def encRows (f : Fmt) (r : Recipe) (mode : Nat → Nat → Round) : Nat → List (List FpP) → StatRec → List (List EncBlock) × StatRec
  | _, [], st => ([], st)
  | i, row :: rows, st =>
    let x := encRowBlocks f r (mode i) 0 (chunks 128 row.length row) st
    let rest := encRows f r mode (i + 1) rows x.2
    (x.1 :: rest.1, rest.2)

/-- Encode columns, each a channel with its maximum (R140, R698). -/
def encCols (f : Fmt) (maxv : List FpP) (mode : Nat → Nat → Round) : Nat → List (List FpP) → StatRec → List EncBlock × StatRec
  | _, [], st => ([], st)
  | c, col :: cols, st =>
    let x := encodeBlock f (.channel (entryMax (maxv.getD c ⟨0, false⟩))) (fun i => mode i c) col st
    let rest := encCols f maxv mode (c + 1) cols x.stat
    (x :: rest.1, rest.2)

/-- An encoded tile, with the scale code of every element. The scale line of a COL tile has no zero-block bits (R260). -/
structure EncOut where
  tile : TileData
  col : Bool
  stat : StatRec
  /-- The elements that a weight-update write leaves as they were (R192). -/
  kept : List (List Bool)
  deriving DecidableEq, Repr

/-- Encode a tile of a width. -/
def encodeData (e : EncSpec) (r : Recipe) (width : Nat) (rows : List (List FpP)) : EncOut :=
  let f := e.img.fmt
  if e.kind = 0 && f.scaled then
    let x := encCols f e.maxv e.mode 0 (columns width rows) StatRec.empty
    let out := (List.range rows.length).map (fun i => x.1.map (fun b => b.elems.getD i ⟨0, false⟩))
    ⟨⟨out, chunks 128 width (x.1.map (fun b => (⟨b.scale, false⟩ : Elem))), []⟩, true, x.2, []⟩
  else
    let x := encRows f r e.mode 0 rows StatRec.empty
    let blk (j : Nat) (row : List EncBlock) := row.getD j ⟨[], 127, false, StatRec.empty⟩
    ⟨⟨x.1.map (fun row => row.flatMap EncBlock.elems),
      (List.range e.img.ncb).map (fun j => x.1.map (fun row => ⟨(blk j row).scale, false⟩)),
      (List.range e.img.ncb).map (fun j => x.1.map (fun row => (blk j row).zero))⟩, false, x.2, []⟩

/-- Add the counts of an encode to the core's partial record of its tensor and write the record (R154-R156): the record as
the encode before it left it. The bytes of a record that arrive poisoned or uncorrectable are used, and the record is
written without poison (log 45, DESIGN CHOICE). Answers false where the record's memory holds the access. -/
def addStat (n : Nat) (o : OwedStat) : M Bool := do
  let s ← getS
  let v := taskVals s n
  let a := taskAcc s n (readClass s n none)
  let seen := match (theCore s n).task with | some t => t.collided.contains o.tid | none => false
  match statBits v.cfg with
  | none => return true
  | some b =>
    if seen then return true
    else
      let va := partialAt v.base b o.tid v.step n
      match ← ctxRead a va 512 with
      | .error (.hold _) => return false
      | .error w =>
        faultFor a w
        return true
      | .ok bs =>
        match addToPartial (StatRec.ofBytes (bs.map Prod.fst)) (StatRec.ofBytes o.counts) n with
        | some r =>
          when' r.sat (flag (CTX_STAT_STATUS_COUNT_SAT a.ctx))
          match ← ctxWrite a va (clean r.bytes) with
          | some (.hold _) => return false
          | some w =>
            faultFor a w
            return true
          | none => return true
        | none =>
          flag (CTX_STAT_STATUS_COLLIDE a.ctx)
          bump (CTX_STAT_COLLISIONS_COUNT a.ctx)
          modCore n (fun c => { c with task := c.task.map (fun t => { t with collided := t.collided ++ [o.tid] }) })
          return true

/-- Add counts in their order, up to the first that must wait; answers those left. -/
def addStats (n : Nat) : List OwedStat → M (List OwedStat)
  | [] => pure []
  | o :: os => do
    if ← addStat n o then addStats n os else return o :: os

/-- The core adds the counts it still owes (R152, R154). -/
def drainStats (n : Nat) : M Unit := do
  let l := (theCore (← getS) n).statDue
  when' (l != []) (do
    let rest ← addStats n l
    modCore n (fun c => { c with statDue := rest }))

/-- An encode's counts, in the order of the encodes: they never delay its result (R152). -/
def writeStat (n : Nat) (e : EncSpec) (new : StatRec) : M Unit := do
  let v := taskVals (← getS) n
  when' (statBits v.cfg).isSome (do
    let r := { new with tensor := e.tid, step := v.step, fmt := e.img.fmt.code, kind := e.kind }
    modCore n (fun c => { c with statDue := c.statDue ++ [⟨e.tid, r.bytes⟩] })
    drainStats n)

/-- The destination's elements as they stand. -/
def oldRows (s : State) (n : Nat) (m : Img) (width : Nat) : List (List Elem) :=
  (List.range m.rows).map (imgFullRow s n m width)

/-- A tile whose poisoned elements keep the destination's elements (R192). -/
def keepPoisoned (old new : List (List Elem)) : List (List Elem) :=
  (new.zip old).map (fun r => (r.1.zip r.2).map (fun x => if x.1.poison then x.2 else x.1))

/-- Write an encode that has been prepared; answers the elements written and their scales. -/
def commitEncode (n width : Nat) (e : EncSpec) (p : EncPrep) (rows : List (List FpP)) : M EncOut := do
  let s ← getS
  when' p.fell (bump (CTX_STAT_FALLBACKS_COUNT ((ctxOfCore s n).getD 0)))
  let x := encodeData e p.recipe width rows
  let t := if e.wu then { x.tile with rows := keepPoisoned (oldRows s n e.img width) x.tile.rows } else x.tile
  imgWrite n e.img t
  when' e.stat (writeStat n e x.stat)
  return { x with tile := t, kept := if e.wu then x.tile.rows.map (·.map Elem.poison) else [] }

/-- Wake-free access to every bank an image touches. -/
def imgGate (s : State) (n : Nat) (ms : List Img) : BankGate := banksGate s n (ms.flatMap Img.touches)

/-- The banks that images touch, each with the offset of its first access there. -/
def imgBanks (ms : List Img) : List (Nat × Nat) :=
  let all := ms.flatMap (fun m => (List.range m.lines).map m.lineAt)
  (ms.flatMap Img.touches).dedup.map (fun b => (b, (all.find? (fun x => x.1 = b)).elim 0 Prod.snd))

/-- A tile of slot k waits for banks that its images touch (R235). -/
def imgHold (n k : Nat) (ms : List Img) : M TRes := do
  bankHold n k (imgBanks ms)
  return .wait

/-- Fault for the first refused bank that images touch. -/
def imgFault (n : Nat) (ms : List Img) : M Unit :=
  bankFaultOf n (ms.flatMap (fun m => (List.range m.lines).map m.lineAt))

end Sys2Proof.Machine
end

