-- ==== Sys2Proof/Machine/Tiles.lean ====
section
/-!
DEFINITION. Machine/Tiles.lean: the tiles of LOAD and STORE streams: rows of a tensor in memory, sidecars, decryption
and recompute requests on the way in (R286-R290, R447-R453, R553-R561), images in the banks on the other side.
-/

namespace Sys2Proof.Machine

/-! ## Decryption (R553-R560) -/

/-- Seal entry e of a context covers an address for a task's slot (R558). -/
def sealCovers (s : State) (c va : Nat) (gslot : Option Nat) (e : Nat) : Bool :=
  let w0 := rg s (CTX_SEAL_W0 c e)
  let w1 := rg s (CTX_SEAL_W1 c e)
  let base := bits w0 21 31 * page2M
  bit w0 0 && (!bit w0 1 || gslot = some (bits w0 2 2)) && decide (base ≤ va) && decide (va < base + (bits w1 48 16 + 1) * page2M)

/-- The first seal entry that applies. -/
def sealOf (s : State) (c va : Nat) (gslot : Option Nat) : Option Nat := (List.range 16).find? (sealCovers s c va gslot)

/-- The IV of object line j of an object and generation (R553). -/
def sealIv (obj gen j : Nat) : List Byte := natLe 4 obj ++ natLe 2 gen ++ natLe 6 j

/-- The object line that a context address lies on under a seal entry (R555). -/
def sealLine (s : State) (c e va : Nat) : Nat :=
  bits (rg s (CTX_SEAL_W2 c e)) 0 48 + (va - bits (rg s (CTX_SEAL_W0 c e)) 21 31 * page2M) / 256

def sealObj (s : State) (c e : Nat) : Nat := bits (rg s (CTX_SEAL_W1 c e)) 0 32
def sealGen (s : State) (c e : Nat) : Nat := bits (rg s (CTX_SEAL_W1 c e)) 32 16

/-- The bytes of a context's key; what a context without a key decrypts under is not given: free bytes (log 16, DESIGN CHOICE). -/
def keyBytes (c : Nat) : M (List Byte) := do
  match (theCtx (← getS) c).key with
  | some k => return natLe 32 k.1
  | none => freeBytes 32

/-- Byte b of the keystream of an object line (R553, R554). -/
def keystream (key iv : List Byte) (b : Nat) : Byte :=
  Config.aes256 key (iv ++ (natLe 4 (2 + b / 16)).reverse) (b % 16)

/-- Decrypt bytes that begin at offset `off` of a line. -/
def decryptBytes (key iv : List Byte) (off : Nat) (bs : List Byte) : List Byte :=
  bs.zipIdx.map (fun x => x.1 ^^^ keystream key iv (off + x.2))

/-! ## Reading for a LOAD -/

/-- How a LOAD reads: its accesses, DECRYPT, RECOMP, and what a held tile's reread leaves out. -/
structure LoadVia where
  acc : CtxAcc
  decrypt : Bool
  recomp : Bool
  again : Bool
  deriving DecidableEq, Repr

/-- Why a LOAD stops. -/
inductive LoadStop where
  | stop (w : Stop)
  | sealRange (va : Nat)
  | sealLost (va : Nat)
  | recomp (va pa : Nat)
  deriving DecidableEq, Repr

/-- Whether a line can neither open nor join a recompute request: eight are open, for other pages (R448). -/
def recompFull (s : State) (c va : Nat) : Bool :=
  let l := (theCtx s c).recomp
  decide (8 ≤ l.length) && !l.any (fun r => r.page = va - va % page2M)

/-- The line of a context address as a LOAD takes it (R446, R447, R559, R561, R588). -/
def loadLine (v : LoadVia) (va : Nat) : M (Except LoadStop (List Byte × Bool)) := do
  let s ← getS
  let c := v.acc.ctx
  let entry := if v.decrypt then sealOf s c va v.acc.gslot else none
  if v.decrypt && entry = none then return .error (.sealRange va)
  else
    match ← ctxLine v.acc va v.again with
    | .data bs p =>
      match entry with
      | some e =>
        if p then return .error (.sealLost va)
        else
          let key ← keyBytes c
          return .ok (decryptBytes key (sealIv (sealObj s c e) (sealGen s c e) (sealLine s c e va)) 0 bs, false)
      | none => return .ok (bs, p)
    | .uncorr bs =>
      if v.decrypt then return .error (.sealLost va)
      else if v.recomp then
        match ← translate v.acc va false with
        | .ok x =>
          if v.again && x.refetch then return .ok (bs, true)
          else if recompFull s c va then
            bump (CTX_RECOMP_FULL_COUNT c)
            return .ok (bs, true)
          else return .error (.recomp va x.pa)
        | .stop w => return .error (.stop w)
      else return .ok (bs, true)
    | .stop (.hold (.refused d u w)) =>
      if v.again then return .ok (← freeBytes 256, true) else return .error (.stop (.hold (.refused d u w)))
    | .stop w => return .error (.stop w)

/-- Bytes of a LOAD's tensor. -/
def loadPieces (v : LoadVia) : List (Nat × Nat) → M (Except LoadStop (List (Byte × Bool)))
  | [] => pure (.ok [])
  | (va, k) :: rest => do
    match ← loadLine v va with
    | .error w => return .error w
    | .ok (bs, p) =>
      match ← loadPieces v rest with
      | .ok tail => return .ok (((bs.drop (va % 256)).take k).map (fun b => (b, p)) ++ tail)
      | .error w => return .error w

def loadBytes (v : LoadVia) (va n : Nat) : M (Except LoadStop (List (Byte × Bool))) := loadPieces v (linePieces va n)

/-- Elements of several runs, one after another. -/
def loadRuns (v : LoadVia) : List (Nat × Nat) → M (Except LoadStop (List (List (Byte × Bool))))
  | [] => pure (.ok [])
  | (va, n) :: rest => do
    match ← loadBytes v va n with
    | .error w => return .error w
    | .ok bs =>
      match ← loadRuns v rest with
      | .ok tail => return .ok (bs :: tail)
      | .error w => return .error w

/-- Blocks of a row of C columns (R132). -/
def blocksPerRow (c : Nat) : Nat := ceilDiv c 128

/-- The source rows of a LOAD's tile: from the gather list, or the walk's row onward (R286, R287). `k` is their number;
a poisoned list entry poisons its row. -/
def sourceRows (s : State) (n : Nat) (d : List Nat) (i k row : Nat) : List (Nat × Bool) :=
  if df d 8 54 1 = 1 && df d 8 53 1 = 0 then
    let m : Img := ⟨1, [df d 11 0 2], df d 11 2 13 + 2 * (i % (placeOf (dw d 12)).ring), false, fp32, 1, 1⟩
    (List.range k).map (fun r =>
      let b := imgBytes s n m (4 * r) 4
      (leNat (b.map Prod.fst), b.any Prod.snd))
  else (List.range k).map (fun r => (row + r, false))

/-- Whether an element of a place is read from the list's bank. -/
def listImg (d : List Nat) (i : Nat) : List Img :=
  if df d 8 54 1 = 1 && df d 8 53 1 = 0 then
    [⟨1, [df d 11 0 2], df d 11 2 13 + 2 * (i % (placeOf (dw d 12)).ring), false, fp32, 1, 1⟩]
  else []

/-- Transpose rows of elements to `w` rows. -/
def turn (w : Nat) (rows : List (List Elem)) : List (List Elem) :=
  (List.range w).map (fun c => rows.map (fun r => r.getD c ⟨0, false⟩))

/-- One scale code per run of bytes. -/
def codesOf (bs : List (Byte × Bool)) : List Elem := bs.map (fun b => ⟨b.1.toNat, b.2⟩)

/-- Open or join a recompute request for the page of a line (R447, R448). Answers the request. -/
def openRecomp (n c va pa : Nat) : M Nat := do
  let s ← getS
  let x := theCtx s c
  let page := va - va % page2M
  match x.recomp.find? (fun r => r.page = page) with
  | some r => return r.num
  | none =>
    modCtx c (fun y => { y with
      recomp := y.recomp ++ [⟨x.recompNext, page, pa - pa % page2M, s.tick⟩]
      recompNext := (x.recompNext + 1) % 65536 })
    bump (CTX_RECOMPUTES_COUNT c)
    note ⟨10, 0, c, n, 0xFFFF, taskRef s n, x.recompNext, page, 0⟩
    return x.recompNext

/-- What a LOAD's stop does to its tile. -/
def loadStopped (n : Nat) (v : LoadVia) (w : LoadStop) : M TRes := do
  match w with
  | .stop w => stopRes v.acc w
  | .sealRange va =>
    faultCore n 11 0 0xFFFF 0 (va - va % 256) 0
    return .bad
  | .sealLost va =>
    faultCore n 12 0 0xFFFF 0 (va - va % 256) 0
    return .bad
  | .recomp va pa => return .hold (.recomp (← openRecomp n v.acc.ctx va pa))

/-- The runs of bytes of a LOAD's tile: its rows of elements, with the elements of a run's first byte that lie before its
row (an F4 row at an odd column, R103), then its scale codes. -/
structure LoadPlan where
  skip : Nat
  rows : List (Nat × Nat)
  scales : List (Nat × Nat)
  poison : List Bool
  deriving DecidableEq, Repr

/-- Where the rows and scale codes of tile i lie (R132, R263, R286, R287). -/
def loadPlan (s : State) (n : Nat) (d : List Nat) (i : Nat) (f : Fmt) : LoadPlan :=
  let o := origin d i
  let tr := df d 8 53 1 = 1
  let k := if tr then dWidth d else dRows d
  let w := if tr then dRows d else dWidth d
  let src := sourceRows s n d i k o.1
  let base := df d 8 0 52
  let pitch := df d 9 0 40
  let sc := df d 10 0 52
  let axis := df d 8 55 2
  let skip := o.2 * f.bitsPer % 8 / f.bitsPer
  let runs := src.map (fun r => (base + r.1 * pitch + o.2 * f.bitsPer / 8, ceilDiv ((skip + w) * f.bitsPer) 8))
  let scales := if !f.scaled || axis = 0 then []
    else if axis = 1 then src.map (fun r => (sc + r.1 * blocksPerRow (dC d) + o.2 / 128, ceilDiv w 128))
    else [(sc + o.2, w)]
  ⟨skip, runs, scales, src.map Prod.snd⟩

/-- The tile that the runs of a plan give. -/
def loadData (d : List Nat) (f : Fmt) (p : LoadPlan) (rows scs : List (List (Byte × Bool))) : TileData :=
  let tr := df d 8 53 1 = 1
  let w := if tr then dRows d else dWidth d
  let axis := df d 8 55 2
  let es := (rows.zip p.poison).map (fun r => ((elemsOf f r.1 (p.skip + w)).drop p.skip).map (fun e => (⟨e.code, e.poison || r.2⟩ : Elem)))
  let codes := scs.map codesOf
  let nb := ceilDiv (dWidth d) 128
  let plain : List (List Elem) := if tr then chunks 128 (dWidth d) (List.replicate (dWidth d) ⟨127, false⟩)
    else List.replicate nb (List.replicate (dRows d) ⟨127, false⟩)
  let scales := if !f.scaled then []
    else if axis = 0 then plain
    else if axis = 1 then
      if tr then chunks 128 (dWidth d) (codes.map (fun c => c.getD 0 ⟨127, false⟩))
      else (List.range nb).map (fun j => codes.map (fun c => c.getD j ⟨127, false⟩))
    else
      let l := codes.getD 0 []
      if tr then List.replicate nb l else chunks 128 (dWidth d) l
  ⟨if tr then turn (dRows d) es else es, scales, []⟩

/-- The work of a LOAD's tile: everything is read before anything is written (R447, R559, R561). -/
def loadTileWork (n k i : Nat) (noRecomp again : Bool) : M TRes := do
  let s ← getS
  let d := (theStream s n k).desc
  let m := (placeOf (dw d 12)).img i (dRows d) (dWidth d)
  match imgGate s n (m :: listImg d i) with
  | .refused =>
    imgFault n (m :: listImg d i)
    return .bad
  | .waits => imgHold n k (m :: listImg d i)
  | .on =>
    let v : LoadVia := ⟨taskAcc s n (readClass s n (some k)), df d 8 52 1 = 1, df d 8 57 1 = 1 && !noRecomp, again⟩
    let p := loadPlan s n d i m.fmt
    match ← loadRuns v p.rows with
    | .error w => loadStopped n v w
    | .ok rows =>
      match ← loadRuns v p.scales with
      | .error w => loadStopped n v w
      | .ok scs =>
        imgWrite n m (loadData d m.fmt p rows scs)
        return .ok

/-! ## STORE (R289, R290) -/

/-- Write bits of memory by context address: `len` bytes of data and mask from `va`, each byte with its poison. -/
def ctxWriteBits (a : CtxAcc) : List (Nat × Nat) → Nat → Nat → List Bool → M (Option Stop)
  | [], _, _, _ => pure none
  | (va, k) :: rest, data, mask, ps => do
    match ← translate a va true with
    | .stop w => return some w
    | .ok x =>
      match ← dirWalk a x with
      | some w => return some w
      | none =>
        let sh := 2 ^ (8 * (x.pa % 256))
        let cut := 2 ^ (8 * k)
        match ← writeLine (viaOf a x va) x.pa (data % cut * sh) (mask % cut * sh) ((ps.take k).any id) with
        | .ok => ctxWriteBits a rest (data / cut) (mask / cut) (ps.drop k)
        | .absent code => return some (.fault 1 code va)
        | .hold w => return some (.hold (holdAt w va))
        | .failed => return some (.fault 9 0 va)

/-- Write `w` bits at a bit position of memory. -/
def ctxPutBits (a : CtxAcc) (bitPos w data : Nat) (ps : List Bool) : M (Option Stop) :=
  let off := bitPos % 8
  ctxWriteBits a (linePieces (bitPos / 8) (ceilDiv (off + w) 8)) (data % 2 ^ w * 2 ^ off) ((2 ^ w - 1) * 2 ^ off) ps

/-- A run of bits to write: position, width, data, and the poison of its bytes. -/
structure PutRun where
  pos : Nat
  w : Nat
  data : Nat
  ps : List Bool
  deriving DecidableEq, Repr

/-- Write runs in order; the first stop ends them. -/
def putRuns (a : CtxAcc) : List PutRun → M (Option Stop)
  | [] => pure none
  | r :: rest => do
    match ← ctxPutBits a r.pos r.w r.data r.ps with
    | some w => return some w
    | none => putRuns a rest

/-- What a STORE's tile writes: its rows, then its scale codes, then its zero-block bits (R132, R289). A COL image holds no
zero-block bits (R260): a channel's is 1 where its code is 127 and its elements in the tile are all zero (R137; log 21,
DEDUCED). -/
def storeRuns (s : State) (n : Nat) (d : List Nat) (i : Nat) (m : Img) : List PutRun :=
  let o := origin d i
  let w := dWidth d
  let f := m.fmt
  let base := df d 8 0 52
  let pitch := df d 9 0 40
  let rows := (List.range m.rows).map (fun r =>
    let es := imgFullRow s n m w r
    let bs := rowBytesOf f es
    (⟨(base + (o.1 + r) * pitch) * 8 + o.2 * f.bitsPer, w * f.bitsPer, leNat (packCodes f (es.map Elem.code)), bs.map Prod.snd⟩ : PutRun))
  if !f.scaled then rows
  else
    let col := (axisAt s n (placeOf (dw d 12))).getD false
    let sc := df d 10 0 52
    let zb := df d 11 0 52
    if col then
      let cs := (List.range w).map (fun c => imgScale s n m (c / 128) (c % 128))
      let es := (List.range m.rows).map (imgFullRow s n m w)
      let zs := (List.range w).map (fun c => (cs.getD c ⟨127, false⟩).code = 127
        && es.all (fun r => isZero32 (toFp f (r.getD c ⟨0, false⟩).code 127)))
      rows ++ [⟨(sc + o.2) * 8, 8 * w, leNat (cs.map (fun e => BitVec.ofNat 8 e.code)), cs.map Elem.poison⟩,
        ⟨zb * 8 + o.2, w, (zs.zipIdx.map (fun z => b2n z.1 * 2 ^ z.2)).sum, []⟩]
    else
      let blk (r : Nat) := (o.1 + r) * blocksPerRow (dC d) + o.2 / 128
      rows ++ (List.range m.rows).map (fun r =>
          let cs := (List.range m.ncb).map (fun j => imgScale s n m j r)
          (⟨(sc + blk r) * 8, 8 * m.ncb, leNat (cs.map (fun e => BitVec.ofNat 8 e.code)), cs.map Elem.poison⟩ : PutRun))
        ++ (List.range m.rows).map (fun r =>
          let zs := (List.range m.ncb).map (fun j => bit (imgScale s n m j (128 + r / 8)).code (r % 8))
          (⟨zb * 8 + blk r, m.ncb, (zs.zipIdx.map (fun z => b2n z.1 * 2 ^ z.2)).sum, []⟩ : PutRun))

/-- The context address of the first poisoned element a STORE would write. -/
def firstPoison (s : State) (n : Nat) (d : List Nat) (i : Nat) (m : Img) : Option Nat :=
  let o := origin d i
  (List.range m.rows).findSome? (fun r =>
    let es := imgFullRow s n m (dWidth d) r
    if es.any Elem.poison then
      some (df d 8 0 52 + (o.1 + r) * df d 9 0 40 + (o.2 + es.findIdx Elem.poison) * m.fmt.bitsPer / 8)
    else none)

/-- The work of a STORE's tile. -/
def storeTileWork (n k i : Nat) : M TRes := do
  let s ← getS
  let d := (theStream s n k).desc
  let m := (placeOf (dw d 12)).img i (dRows d) (dWidth d)
  match imgGate s n [m] with
  | .refused =>
    imgFault n [m]
    return .bad
  | .waits => imgHold n k [m]
  | .on =>
    match (if df d 8 52 1 = 1 then firstPoison s n d i m else none) with
    | some va =>
      faultCore n 7 2 0xFFFF 0 va 0
      return .bad
    | none =>
      let a := taskAcc s n (readClass s n none)
      match ← putRuns a (storeRuns s n d i m) with
      | some w => stopRes a w
      | none => return .ok

end Sys2Proof.Machine
end

