-- ==== Sys2Proof/Machine/Images.lean ====
section
/-!
DEFINITION. Machine/Images.lean: images between stations over the fabric (R533-R543): what SEND and RECV streams offer,
grant, send and receive, and the records of the Trail.
-/

namespace Sys2Proof.Machine

/-- A core's generation, and whether it is being reset (R659, R662). -/
def coreGen (s : State) (n : Nat) : Nat := fv s (RESET_GEN_CORE_GEN n)

/-- FABRIC_JOB of the context a core works for. -/
def jobOf (s : State) (n : Nat) : Nat := match ctxOfCore s n with | some c => fv s (CTX_FABRIC_JOB_JOB c) | none => 0

/-! ## SEND -/

def sendDest (d : List Nat) : Nat := df d 8 0 18
def sendMcast (d : List Nat) : Bool := df d 8 18 1 = 1
def sendVc (d : List Nat) : Nat := df d 8 19 3
def sendStrict (d : List Nat) : Bool := df d 8 22 1 = 1
def fabTag (d : List Nat) : Nat := df d 8 32 16

/-- Grants and acknowledgements an image awaits (R531). -/
def acksNeeded (s : State) (d : List Nat) : Nat :=
  if sendMcast d then bits (rg s (PORT_MCAST (sendDest d % 1024))) 48 16 else 1

/-- The image of a tile of a stream whose place is word 12. -/
def tileImg (s : State) (n k i : Nat) : Img :=
  let d := (theStream s n k).desc
  (placeOf (dw d 12)).img i (dRows d) (dWidth d)

/-- Whether an offer is the one of a tile. -/
def Offer.isOf (o : Offer) (n k i : Nat) : Bool := o.core = n && o.slot = k && o.tile = i

def modOffer (n k i : Nat) (f : Offer → Offer) : M Unit :=
  modFab (fun x => { x with offers := x.offers.map (fun o => if o.isOf n k i then f o else o) })

def dropOffer (n k i : Nat) : M Unit := modFab (fun x => { x with offers := x.offers.filter (fun o => !o.isOf n k i) })

/-- Split bytes into the payloads of packets (R537), with the poison bit of each 32 B word (R510). -/
def payloads (bs : List (Byte × Bool)) : List (List Byte × Nat) :=
  (chunks 4032 bs.length bs).map (fun c =>
    (c.map Prod.fst, ((chunks 32 c.length c).zipIdx.map (fun w => b2n (w.1.any Prod.snd) * 2 ^ w.2)).sum))

/-- Form the RTS of an image under the route page current now (R526, R533). -/
def sendRts (n k i : Nat) : M Unit := do
  let s ← getS
  let d := (theStream s n k).desc
  let m := tileImg s n k i
  modOffer n k i (fun o => { o with page := curPage s, phase := 0, grants := 0, acks := 0 })
  inject { control s 1 (sendDest d) (sendVc d) (fabTag d) (jobOf s n) i (coreGen s n) (m.lines * 256) with
    mcast := sendMcast d }

/-- Read a granted image and send it (R537); a strict SEND sends nothing of a poisoned image (R457). An image whose
banks are not ON waits. -/
def sendImage (o : Offer) : M Unit := do
  let s ← getS
  let n := o.core
  let d := (theStream s n o.slot).desc
  let m := tileImg s n o.slot o.tile
  match imgGate s n [m] with
  | .refused =>
    imgFault n [m]
    dropOffer n o.slot o.tile
  | .waits => bankHold n o.slot (imgBanks [m])
  | .on =>
    bankFree n o.slot
    let bs := imgBytes s n m 0 (m.lines * 256)
    if sendStrict d && bs.any Prod.snd then
      let x := bs.findIdx Prod.snd
      let a := m.lineAt (x / 256)
      let off := a.2 + x % 256
      faultCore n 7 3 0xFFFF 0 (bankAddr n a.1 (off - off % poisonUnit a.1)) 0
      dropOffer n o.slot o.tile
    else
      let ps := payloads bs
      modOffer n o.slot o.tile (fun o => { o with phase := 2 })
      each ps.zipIdx (fun p => inject
        ⟨sendDest d, sendMcast d, sendVc d, false, o.page, 0, nodeOf s, fabTag d, jobOf s n, o.tile, 126 * p.2,
         p.2 + 1 = ps.length, coreGen s n, 0, p.1.1, p.1.2⟩)
      when' (acksNeeded s d = 0) (dropOffer n o.slot o.tile)

/-- Offer a tile of a SEND stream; eight images may be offered and not acknowledged (R533). -/
def offerTile (n k i : Nat) : M TRes := do
  let s ← getS
  if (s.fab.offers.filter (fun o => o.core = n && o.slot = k)).length ≥ 8 then return .wait
  else
    modFab (fun x => { x with offers := x.offers ++ [⟨n, k, i, coreGen s n, curPage s, s.tick, 0, 0, 0, 0⟩] })
    sendRts n k i
    if acksNeeded s (theStream s n k).desc = 0 then
      match (← getS).fab.offers.find? (fun o => o.isOf n k i) with
      | some o => sendImage o
      | none => pure ()
    return .ok

/-- The offer that a GRANT, ACK or REFUSE names, offered under its core's current generation (R665). -/
def offerFor (s : State) (p : Packet) : Option Offer :=
  s.fab.offers.find? (fun o =>
    let d := (theStream s o.core o.slot).desc
    o.tile % 2 ^ 32 = p.image && fabTag d = p.tag && jobOf s o.core = p.job && (sendMcast d || sendDest d = p.src)
      && o.gen = coreGen s o.core && !coreResetting s o.core)

/-- A GRANT arrives (R531, R537). -/
def grantArrives (p : Packet) : M Unit := do
  let s ← getS
  match offerFor s p with
  | some o =>
    if o.phase = 0 then
      let need := acksNeeded s (theStream s o.core o.slot).desc
      let o' := { o with grants := o.grants + 1, phase := if need ≤ o.grants + 1 then 1 else 0 }
      modOffer o.core o.slot o.tile (fun _ => o')
      when' (o'.phase = 1) (sendImage o')
  | none => pure ()

/-- An ACK arrives: with the last one event 1 of the SEND has occurred (R531, R537). -/
def ackArrives (p : Packet) : M Unit := do
  let s ← getS
  match offerFor s p with
  | some o =>
    if o.phase = 2 then
      if acksNeeded s (theStream s o.core o.slot).desc ≤ o.acks + 1 then dropOffer o.core o.slot o.tile
      else modOffer o.core o.slot o.tile (fun o => { o with acks := o.acks + 1 })
  | none => pure ()

/-- A REFUSE arrives: the image is offered again 1,000 ticks later (R665). -/
def refuseArrives (p : Packet) : M Unit := do
  let s ← getS
  match offerFor s p with
  | some o => modOffer o.core o.slot o.tile (fun o => { o with phase := 3, refusedAt := s.tick })
  | none => pure ()

/-- What a tick does to an offer: a refused image is offered again, a granted one that waited for its banks is sent. -/
def offerTick (o : Offer) : M Unit := do
  let s ← getS
  if o.phase = 3 && decide (o.refusedAt + 1000 ≤ s.tick) then sendRts o.core o.slot o.tile
  else if o.phase = 1 then sendImage o

/-! ## RECV -/

/-- Whether a RECV stream's tile can take an offer (R534). -/
def recvTakes (s : State) (r : RecvIm) (e : RtsEnt) : Bool :=
  let d := (theStream s r.core r.slot).desc
  r.rts = none && !r.dead && e.tag = fabTag d && e.job = jobOf s r.core && (df d 8 0 18 = e.src || df d 8 0 18 = 0x3FFFF)

def RecvIm.isOf (r : RecvIm) (n k i : Nat) : Bool := r.core = n && r.slot = k && r.tile = i && !r.dead

def modRecv (n k i : Nat) (f : RecvIm → RecvIm) : M Unit :=
  modFab (fun x => { x with recvs := x.recvs.map (fun r => if r.isOf n k i then f r else r) })

/-- Give an offer to a tile and grant it. -/
def grantTile (r : RecvIm) (e : RtsEnt) : M Unit := do
  let s ← getS
  modRecv r.core r.slot r.tile (fun r => { r with rts := some e, gen := coreGen s r.core })
  inject (control s 2 e.src e.vc e.tag e.job e.image (coreGen s r.core) 0)

/-- A RECV starts a tile: it grants the oldest matching offer, or waits for one (R534). -/
def recvTile (n k i : Nat) : M TRes := do
  let s ← getS
  let r : RecvIm := ⟨n, k, i, none, coreGen s n, [], false, false⟩
  modFab (fun x => { x with recvs := x.recvs ++ [r] })
  match s.fab.rts.find? (recvTakes s r) with
  | some e =>
    modFab (fun x => { x with rts := x.rts.erase e })
    grantTile r e
  | none => pure ()
  return .ok

/-- An offer for a stream arrives (R534, R536). -/
def rtsArrives (e : RtsEnt) : M Unit := do
  let s ← getS
  match s.fab.recvs.find? (fun r => recvTakes s r e) with
  | some r => grantTile r e
  | none =>
    if s.fab.rts.length ≥ 1024 then bump PORT_RTS_DROPS_COUNT
    else modFab (fun x => { x with rts := x.rts ++ [e] })

/-- The bytes that arrive from off on, cut to the lines of an image. -/
def imgPut (n : Nat) (m : Img) : List (Nat × Nat) → List (Byte × Bool) → M Unit
  | [], _ => pure ()
  | (off, k) :: rest, bs => do
    let a := m.lineAt (off / 256)
    bankWrite n a.1 (a.2 + off % 256) ((bs.take k).map Prod.fst) ((bs.take k).map Prod.snd)
    imgPut n m rest (bs.drop k)

def recvWiden (d : List Nat) : Bool := df d 8 48 1 = 1
def recvTee (d : List Nat) : Bool := df d 8 49 1 = 1

/-- An F8P image with COL-axis scales as F16W elements (R300, R539). -/
def widenImage (rows width : Nat) (bs : List (Byte × Bool)) : TileData :=
  let ncb := ceilDiv width 128
  let bl := ceilDiv (rows * 128) 256
  let sc (c : Nat) := bs.getD ((ncb * bl + c / 128) * 256 + c % 128) (0, false)
  let row (r : Nat) : List Elem := (List.range width).map (fun c =>
    let e := bs.getD (c / 128 * bl * 256 + r * 128 + c % 128) (0, false)
    let x := toFp f8p e.1.toNat (sc c).1.toNat
    ⟨(encodeCode f16w x 0 .rne).1, e.2 || (sc c).2⟩)
  ⟨(List.range rows).map row, [], []⟩

/-- The image that a RECV tile is written as: under WIDEN one of F16W, whatever FMT its place names (R300). -/
def recvImg (s : State) (n k i : Nat) : Img :=
  let d := (theStream s n k).desc
  (if recvWiden d then { placeOf (dw d 12) with fmt := 0 } else placeOf (dw d 12)).img i (dRows d) (dWidth d)

/-- A tile whose packets have all arrived: its image is written whole, acknowledged, and put before the Trail under TEE
(R537, R540). An image whose banks are not ON waits. -/
def finishRecv (r : RecvIm) : M Unit := do
  let s ← getS
  let n := r.core
  let d := (theStream s n r.slot).desc
  let m := recvImg s n r.slot r.tile
  match r.rts with
  | some e =>
    if r.complete && !r.dead then
      match imgGate s n [m] with
      | .refused => imgFault n [m]
      | .waits => bankHold n r.slot (imgBanks [m])
      | .on =>
        bankFree n r.slot
        if recvWiden d then imgWrite n m (widenImage (dRows d) (dWidth d) r.data)
        else imgPut n m (linePieces 0 r.data.length) r.data
        inject (control s 3 e.src e.vc e.tag e.job e.image (coreGen s n) 0)
        modFab (fun x => { x with recvs := x.recvs.filter (fun q => !q.isOf n r.slot r.tile) })
        when' (recvTee d) (modCore n (fun c => { c with
          trailQ := c.trailQ ++ [⟨r.slot, r.tile, e.src, e.tag, e.image, s.tick, r.data, []⟩] }))
  | none => pure ()

/-- The tile that a DATA packet is for. -/
def recvFor (s : State) (p : Packet) : Option RecvIm :=
  s.fab.recvs.find? (fun r => match r.rts with
    | some e => e.src = p.src && e.tag = p.tag && e.job = p.job && e.image = p.image && !r.complete
    | none => false)

/-- The words of a packet with their poison (R510). -/
def packetBytes (p : Packet) : List (Byte × Bool) := p.payload.zipIdx.map (fun b => (b.1, bit p.poison (b.2 / 32)))

/-- A DATA packet arrives (R537, R663, R664); one whose bank refuses it faults the context (R236). -/
def dataArrives (p : Packet) : M Unit := do
  let s ← getS
  match recvFor s p with
  | none => pure ()
  | some r =>
    let n := r.core
    if r.dead || coreResetting s n || r.gen != coreGen s n then
      inject (control s 4 p.src p.vc p.tag p.job p.image (coreGen s n) 0)
      when' p.last (modFab (fun x => { x with recvs := x.recvs.erase r }))
    else if (match r.rts with | some e => e.gen != p.gen | none => true) then bump RESET_STALE_REPLIES_COUNT
    else
      let bs := packetBytes p
      let r' := { r with data := r.data ++ bs, complete := p.last }
      let m := recvImg s n r.slot r.tile
      modRecv n r.slot r.tile (fun _ => r')
      when' (!p.last && imgGate s n [m] = .refused) (imgFault n [m])
      when' (!recvWiden (theStream s n r.slot).desc && imgGate s n [m] = .on && decide (p.off * 32 + bs.length ≤ m.lines * 256))
        (imgPut n m (linePieces (p.off * 32) bs.length) bs)
      when' p.last (finishRecv r')

/-- Images of a core that have all arrived and were not written are tried again. -/
def recvTick (r : RecvIm) : M Unit := when' r.complete (finishRecv r)

/-! ## E2E_TIMEOUT of images (R538) -/

/-- An image not acknowledged in time faults its context. -/
def offerExpired (o : Offer) : M Unit := do
  let s ← getS
  if decide (o.first + fv s PORT_E2E_TIMEOUT_TICKS < s.tick) then
    let n := o.core
    dropOffer n o.slot o.tile
    match ctxOfCore s n with
    | some c => bump (CTX_FAB_TIMEOUTS_COUNT c)
    | none => pure ()
    faultCore n 16 0 0xFFFF (o.tile % 2 ^ 32) (sendDest (theStream s n o.slot).desc) 0

/-! ## The Trail (R540-R543) -/

/-- The 64 B header of a Trail record (Table 12.11). -/
def trailHeader (magic len src tag slot tile image step tick : Nat) : List Byte :=
  let b := natLe 4 magic ++ natLe 4 len ++ natLe 4 src ++ natLe 2 tag ++ natLe 1 slot ++ natLe 1 0 ++ natLe 4 tile
    ++ natLe 4 image ++ natLe 8 step ++ natLe 8 tick ++ natLe 20 0
  b ++ natLe 4 (crc32c b)

/-- How an I/O die writes into a core's Trail ring: class 2 (R540). -/
def trailAcc (s : State) (n : Nat) : CtxAcc := { taskAcc s n 2 with req := 68 }

/-- The ring offset of a TRAIL stream: TRAIL_WR for the program's first, and one of its own for every other (R301; log 28,
DEDUCED). -/
def trailOff (s : State) (n k : Nat) : Nat :=
  if (slotsOf s n stTrail).head? = some k then rg s (CORE_TRAIL_WR n)
  else (((theCore s n).trailAt.find? (fun x => x.1 = k)).elim 0 Prod.snd)

/-- The next record of a TRAIL stream's ring begins at an offset. -/
def setTrailOff (n k v : Nat) : M Unit := do
  if (slotsOf (← getS) n stTrail).head? = some k then setReg (CORE_TRAIL_WR n) v
  else modCore n (fun c => { c with trailAt := c.trailAt.filter (fun x => x.1 != k) ++ [(k, v)] })

/-- A TRAIL stream has written an image; one that every TRAIL stream has written is kept no longer. -/
def trailWrote (n k : Nat) (im : TrailIm) : M Unit := do
  let all := slotsOf (← getS) n stTrail
  modCore n (fun c => { c with
    trailQ := (c.trailQ.map (fun q => if q = im then { q with wrote := q.wrote ++ [k] } else q)).filter
      (fun q => !all.all q.wrote.contains) })

/-- A TRAIL stream writes the record of the oldest teed image that its ring does not hold. Answers whether it was written. -/
def writeTrail (n k : Nat) : M Bool := do
  let s ← getS
  match (theCore s n).trailQ.find? (fun q => !q.wrote.contains k) with
  | some im =>
    let d := (theStream s n k).desc
    let base := df d 8 0 52
    let ring := df d 9 0 40
    let len := im.data.length
    let size := ceilDiv (64 + len) 256 * 256
    let a := trailAcc s n
    let at' := trailOff s n k
    let wrap := decide (at' + size > ring)
    let off := if wrap then 0 else at'
    let pad := trailHeader 0x44415054 (ring - at' - 64) 0 0 0 0 0 0 0
    match ← (if wrap && decide (at' < ring) then ctxWrite a (base + at') (clean pad) else pure none) with
    | some w =>
      faultFor a w
      return false
    | none =>
      let body := im.data ++ List.replicate (size - 64 - len) (0, false)
      match ← ctxWrite a (base + off + 64) body with
      | some w =>
        faultFor a w
        return false
      | none =>
        match ← ctxWrite a (base + off)
            (clean (trailHeader 0x4C494154 len im.src im.tag im.slot im.tile im.image (taskVals s n).step im.tick)) with
        | some w =>
          faultFor a w
          return false
        | none =>
          let next := off + size
          let full := decide (next ≥ ring)
          setTrailOff n k (if full then 0 else next)
          bumpBy (CORE_TRAIL_WRAPS_COUNT n) (b2n wrap + b2n full)
          trailWrote n k im
          return true
  | none => return false

/-- What a core's reset leaves of its images (R552, R664): granted tiles answer REFUSE, the rest is gone. -/
def dropImages (n : Nat) : M Unit := do
  modFab (fun x => { x with
    offers := x.offers.filter (fun o => o.core != n)
    recvs := (x.recvs.filter (fun r => r.core != n || r.rts.isSome)).map (fun r => if r.core = n then { r with dead := true } else r) })
  modCore n (fun c => { c with trailQ := [] })

end Sys2Proof.Machine
end

