-- ==== Sys2Proof/Machine/Streams.lean ====
section
/-!
DEFINITION. Machine/Streams.lean: what every stream of a program shares: hand-over counters, waits, advances and events
(R270-R279), the end of a stream, and the Mule's open spans (R201).
-/

namespace Sys2Proof.Machine

/-! ## Hand-over counters -/

def hcVal (s : State) (n h : Nat) : Nat := fv s (CORE_HC_VALUE n h)

/-- Add to a hand-over counter, modulo 2^32 (R273-R275). -/
def addHc (n h v : Nat) : M Unit := addMod (CORE_HC_VALUE n h) v

/-- Whether every enabled wait of a stream holds for tile i (R271). -/
def waitsHold (s : State) (n : Nat) (d : List Nat) (i : Nat) : Bool :=
  (dWait d 0).holds i (hcVal s n (dWait d 0).hc) && (dWait d 1).holds i (hcVal s n (dWait d 1).hc)

/-- Whether the exchange rule lets tile i start (R278). -/
def exchOk (x : Stream) (i : Nat) : Bool :=
  let f := i / dExchTiles x.desc
  if dExch x.desc = 1 then decide (f ≤ x.fills) else if dExch x.desc = 2 then decide (f < x.fills) else true

/-- Whether the next tile of a stream has begun: it is held, or its encode waits for a merged record. -/
def tileBegun (s : State) (n k : Nat) : Bool :=
  (theStream s n k).held != [] || (theCore s n).encWait.any (fun w => w.slot = k)

/-- Whether a stream's next tile runs while its core stops for save (R205, Table 7.8): one that has begun; the spans already
closed of REDUCE; the images already teed of TRAIL; a Yoke tile of a segment whose load has begun; and a Mule tile whose
rows the drains have begun to deliver. -/
def stopGoes (s : State) (n k : Nat) : Bool :=
  let c := theCore s n
  let x := theStream s n k
  let st := dStation x.desc
  tileBegun s n k || st = stReduce
    || (st = stTrail && decide (c.trailQ.any (fun q => !q.wrote.contains k)))
    || (st = stYoke && segLoaded s n (yokeSeg x.desc x.next))
    || (st = stMule && (muleIn x.desc 0).type = 3 && (c.toMule.any (fun l => l != []) || c.mule.takes != 0))

/-- Whether a stream may start its next tile, but for its waits: it runs, its bindings are made, and the core neither
stops for save nor has faulted; after a fault of the program, tiles already begun are finished (R307). -/
def streamOpen (s : State) (n k : Nat) : Bool :=
  let c := theCore s n
  let x := theStream s n k
  x.state = 1 && (c.stopped = 0 || (c.stopped = 1 && stopGoes s n k)) && (!c.progBad || tileBegun s n k)
    && decide (x.next < dTiles x.desc) && !c.bindWait.any (fun b => b.1 = k)

/-! ## Events -/

/-- Whether a stream's tiles have an event 1 (Table 7.7). -/
def hasEvent1 (d : List Nat) : Bool :=
  dStation d = stStore || dStation d = stSend || (dStation d = stRecv && recvTee d)

/-- Whether a stream has completed the last event of its last tile (R268). An OX stream's event 1 belongs to its LAST
passes. -/
def streamDone (x : Stream) : Bool :=
  let t := dTiles x.desc
  dStation x.desc = stMuleAux ||
    (decide (t ≤ x.done0) && (if hasEvent1 x.desc then decide (t ≤ x.done1)
      else if dStation x.desc = stOx then decide (t / oxG x.desc * oxG x.desc ≤ x.done1) else true))

/-- Event `ev` of tile i completes: counters advance, event 0 moves the progress counter, and the stream may be done
(R268, R273, R639); the end of the Mule's stream abandons its open spans (R201). -/
def completeEvent (n k i : Nat) (ev : Bool) : M Unit := do
  let x := theStream (← getS) n k
  let e := b2n ev
  modStream n k (fun y => if ev then { y with done1 := i + 1 } else { y with done0 := i + 1 })
  when' (!ev) (addMod (CORE_PROGRESS_COUNT n) 1)
  each [0, 1] (fun j =>
    let a := dAdv x.desc j
    when' (a.en && a.event = e && ((i + 1) % a.every = 0 || i + 1 = dTiles x.desc)) (addHc n a.hc a.add))
  let y := theStream (← getS) n k
  if streamDone y then
    modStream n k (fun y => { y with state := 2 })
    setFld ⟨CORE_STREAM_STATUS n, k, 1⟩ 0
    when' (dStation x.desc = stMule) (abandonSpans n)

/-! ## Tiles begun -/

/-- The failed deep accesses of a core have been taken by the tile that waited for them. -/
def dropFailed (n : Nat) : M Unit := do
  let s ← getS
  each ((mkeys s.cxls).filter (fun x => (polledOf s x n false).any DeepAcc.failed || (polledOf s x n true).any DeepAcc.failed))
    (fun x => modCxl x (fun c => { c with out := c.out.filter (fun a => !(a.polled && a.req = n && a.failed)) }))

/-- Record the outcome of tile i of a stream: done and counted as begun, held, waiting for a record, or faulted. -/
def noteTile (n k i : Nat) (r : TRes) : M Unit := do
  let s ← getS
  when' (match r with | .hold _ | .wait => false | _ => true) (dropFailed n)
  when' (match r with | .wait => false | _ => true) (bankFree n k)
  let old := (theStream s n k).held.find? (fun h => h.tile = i)
  match r with
  | .ok =>
    modStream n k (fun x => { x with next := i + 1, held := [] })
    modCore n (fun c => { c with encWait := c.encWait.filter (fun w => w.slot != k) })
    setReg (CORE_NEXT_TILE n k) (i + 1)
  | .hold w =>
    when' (old.all (fun h => h.why != w)) (noteWait ((ctxOfCore s n).getD 0) w)
    modStream n k (fun x => { x with held := [⟨i, w, match old with | some h => (if h.why = w then h.since else s.tick) | none => s.tick,
      match old with | some h => h.noRecomp | none => false, match old with | some h => h.again | none => false⟩] })
    modCore n (fun c => { c with encWait := c.encWait.filter (fun w => w.slot != k) })
  | .record => modCore n (fun c => { c with encWait := c.encWait.filter (fun w => w.slot != k) ++ [⟨k, i⟩] })
  | .wait => pure ()
  | .bad =>
    modStream n k (fun x => { x with held := [] })
    modCore n (fun c => { c with progBad := true, bindWait := [], encWait := c.encWait.filter (fun w => w.slot != k) })

/-! ## Tiles that fault -/

/-- A stream of the running program faults at a tile (R307): every stream starts no other tile, and open spans are
abandoned. -/
def stationFault (n code k i : Nat) : M Unit := streamFault n code k i

/-- WALK_RANGE of a tile that names no image. -/
def tileWalk (d : List Nat) (i : Nat) : Option Nat :=
  if (origin d i).1 > 2 ^ 32 - 1 || (origin d i).2 > 2 ^ 32 - 1 then some 11 else none

/-- The checks of a tile (Table 7.10): its images lie in their banks, its origin in range, C where it is needed. -/
def tileCheck (d : List Nat) (i : Nat) (ms : List Img) (needsC : Bool) : Option Nat :=
  let o := origin d i
  if ms.any (fun m => !m.inRange) then some 8
  else if o.1 > 2 ^ 32 - 1 || o.2 > 2 ^ 32 - 1 || (needsC && dC d = 0) then some 11
  else none

end Sys2Proof.Machine
end

