-- ==== Sys2Proof/Machine/Mule.lean ====
section
/-!
DEFINITION. Machine/Mule.lean: the tiles of the MULE stream and the REDUCE station (05_mule_and_reduction.md): operands,
checks, rows, outputs, spans, and writes to programs and tables.
-/

namespace Sys2Proof.Machine

/-! ## The station's settings (Table 7.5) -/

/-- Program p of a core, from its registers (R175). -/
def muleProg (s : State) (n p : Nat) : Prog :=
  (List.range 16).map (fun j => (rg s (CORE_PROG n (32 * p + 2 * j)), rg s (CORE_PROG n (32 * p + 2 * j + 1))))

/-- The register of word w of table k. -/
def tblReg (n k w : Nat) : Nat :=
  if k = 0 then CORE_TBL0 n w else if k = 1 then CORE_TBL1 n w else if k = 2 then CORE_TBL2 n w else CORE_TBL3 n w

/-- Table k of a core (R186). -/
def muleTbl (s : State) (n k : Nat) : Tbl := Tbl.ofBytes ((List.range 386).flatMap (fun w => natLe 8 (rg s (tblReg n k w))))

def muleRowv (d : List Nat) : Place := muleShort d 10 0
def muleColv (d : List Nat) : Place := muleShort d 10 32
def muleOut (d : List Nat) (o : Nat) : Place := muleShort d (11 + o / 2) (32 * (o % 2))
/-- The control word of output o. -/
def muleOc (d : List Nat) (o : Nat) : Nat := if o = 0 then df d 14 32 16 else if o = 1 then df d 14 48 16 else df d 15 0 16
def muleTid (d : List Nat) (o : Nat) : Nat := if o = 0 then df d 13 0 32 else if o = 1 then df d 13 32 32 else df d 14 0 32

/-- A place that names a bank. -/
def Place.inBank (p : Place) : Bool := p.type = 1 || p.type = 2

/-- The image of a vector of FP32 values at a place, for tile i. -/
def vecImg (p : Place) (i k : Nat) : Img := { p with fmt := 6 }.img i 1 k

/-- The image of raw bytes at a place, for tile i. -/
def rawImg (p : Place) (i len : Nat) : Img := { p with fmt := 0 }.img i (ceilDiv len 256) 128

/-- Unsigned numbers of `b` bytes each at a place, with their poison. -/
def numsAt (s : State) (n : Nat) (p : Place) (i b k : Nat) : List FpP :=
  let bs := rawAt s n (rawImg p i (b * k)) (b * k)
  (chunks b bs.length bs).map (fun c => ⟨leNat (c.map Prod.fst), c.any Prod.snd⟩)

/-- The descriptors of the MULE and the MULE_AUX stream; without the latter all its places are TYPE 0. -/
structure MuleD where
  d : List Nat
  aux : List Nat
  /-- The OX stream's section, where IN0 is a drain. -/
  ox : List Nat
  deriving DecidableEq, Repr

def muleD (s : State) (n k : Nat) : MuleD :=
  ⟨(theStream s n k).desc,
   match slotsOf s n stMuleAux with | a :: _ => (theStream s n a).desc | [] => [],
   match slotsOf s n stOx with | o :: _ => (theStream s n o).desc | [] => []⟩

/-- The places of MULE_AUX. -/
def MuleD.mask (m : MuleD) : Place := placeOf (dw m.aux 8)
def MuleD.rtag (m : MuleD) : Place := placeOf (dw m.aux 9)
def MuleD.rpos (m : MuleD) : Place := placeOf (dw m.aux 10)
def MuleD.cpos (m : MuleD) : Place := placeOf (dw m.aux 11)
def MuleD.ctag (m : MuleD) : Place := placeOf (dw m.aux 12)
def MuleD.maxv (m : MuleD) : Place := placeOf (dw m.aux 13)

/-- Whether IN0 is a drain, and one of passes with ROW_TAGS. -/
def MuleD.drain (m : MuleD) : Bool := (muleIn m.d 0).type = 3
def MuleD.drainTags (m : MuleD) : Bool := m.drain && PassField.rowTags (oxTmpl m.ox)

/-- What the station supplies to a program (Table 5.11). -/
def MuleD.cfg (m : MuleD) : MuleCfg :=
  ⟨(List.range 4).map (fun j => (muleIn m.d j).inBank || (j = 0 && m.drain)), (muleRowv m.d).inBank, (muleColv m.d).inBank,
   m.mask.inBank, m.drainTags || m.rtag.inBank, m.ctag.inBank,
   (List.range 3).map (fun o =>
     let c := muleOc m.d o
     (bit c 13, bits c 0 3, bits c 9 2, bit c 11))⟩

/-! ## The images of a tile -/

def MuleD.rows (m : MuleD) : Nat := dRows m.d
def MuleD.width (m : MuleD) : Nat := dWidth m.d

/-- The image of input j. -/
def MuleD.inImg (m : MuleD) (i j : Nat) : Img := (muleIn m.d j).img i m.rows m.width
/-- The image of output o, in the format of its control. -/
def MuleD.outImg (m : MuleD) (i o : Nat) : Img := { muleOut m.d o with fmt := bits (muleOc m.d o) 3 3 }.img i m.rows m.width

def imgIf (c : Bool) (m : Img) : List Img := if c then [m] else []

/-- Whether an output takes the maximum vector (R140, R699). -/
def needsMax (kind : Nat) (f : Fmt) : Bool := kind = 0 && f.scaled

/-- The images that tile i reads and writes. -/
def MuleD.imgs (m : MuleD) (i : Nat) : List Img :=
  let c := m.cfg
  (List.range 4).flatMap (fun j => imgIf (muleIn m.d j).inBank (m.inImg i j))
    ++ imgIf c.rowv (vecImg (muleRowv m.d) i m.width) ++ imgIf c.colv (vecImg (muleColv m.d) i m.rows)
    ++ imgIf c.mask (rawImg m.mask i (ceilDiv (m.rows * m.width) 8))
    ++ imgIf m.rtag.inBank (rawImg m.rtag i (2 * m.rows)) ++ imgIf m.rpos.inBank (rawImg m.rpos i (4 * m.rows))
    ++ imgIf m.cpos.inBank (rawImg m.cpos i (4 * m.width)) ++ imgIf c.ctag (rawImg m.ctag i (2 * m.width))
    ++ (List.range 3).flatMap (fun o => imgIf (bit (muleOc m.d o) 13) (m.outImg i o))
    ++ imgIf ((List.range 3).any (fun o => bit (muleOc m.d o) 13 && needsMax (bits (muleOc m.d o) 6 3) (fmtOf (bits (muleOc m.d o) 3 3)))
        && m.maxv.inBank) (vecImg m.maxv i m.width)

/-! ## Operands of a tile (Table 5.1, R171-R173, R185) -/

/-- The Ox slots whose drains feed IN0, ascending. -/
def MuleD.feeds (m : MuleD) : List Nat := (List.range 4).filter (bit (oxMask m.ox))

/-- Whether the drains have delivered every row of a tile. -/
def MuleD.fed (m : MuleD) (s : State) (n : Nat) : Bool :=
  !m.drain || m.feeds.all (fun k => decide (m.rows ≤ ((theCore s n).toMule.getD k []).length))

/-- The rows the drains deliver: 128 columns of each Ox slot at its place (R54), and the tag of each row. Columns that no Ox
slot drains, and those beyond a pass's N_ACT, read +0 (R52 gives them no value; log 46, DESIGN CHOICE). -/
def MuleD.drained (m : MuleD) (s : State) (n : Nat) : List (List FpP × Elem) :=
  (List.range m.rows).map (fun r =>
    let row (k : Nat) : OutFp := ((theCore s n).toMule.getD k []).getD r ⟨⟨0, false⟩, []⟩
    (((List.range 4).flatMap (fun k =>
        let vs := if m.feeds.contains k then (row k).vals else []
        vs.map (fun v => ⟨canon v.v, v.poison⟩) ++ List.replicate (128 - vs.length) ⟨0, false⟩)).take m.width,
     match m.feeds with | k :: _ => (row k).tag | [] => ⟨0, false⟩))

/-- Input j of tile i as FP32 rows; nothing where the station supplies none. The scales of a scaled image that no stream of
the running program writes at its place lie along its rows: no rule gives its axis (log 45, DESIGN CHOICE). -/
def MuleD.input (m : MuleD) (s : State) (n i j : Nat) : List (List FpP) :=
  if j = 0 && m.drain then (m.drained s n).map Prod.fst
  else if (muleIn m.d j).inBank then imgFp s n (m.inImg i j) m.width ((axisAt s n (muleIn m.d j)).getD false)
  else []

/-- An FP32 vector operand: NaNs take their one pattern (R173). -/
def fpVec (s : State) (n : Nat) (p : Place) (i k : Nat) : List FpP :=
  (vecAt s n (vecImg p i k) k).map (fun v => ⟨canon v.v, v.poison⟩)

/-- The operands shared by the tile's rows. -/
def MuleD.cols (m : MuleD) (s : State) (n i : Nat) : MuleCols :=
  ⟨if m.cfg.rowv then fpVec s n (muleRowv m.d) i m.width else [],
   if m.cpos.inBank then numsAt s n m.cpos i 4 m.width else (List.range m.width).map (fun c => ⟨(origin m.d i).2 + c, false⟩),
   if m.cfg.ctag then numsAt s n m.ctag i 2 m.width else []⟩

/-- The operands of the tile's rows. -/
def MuleD.rowOps (m : MuleD) (s : State) (n i : Nat) : List MuleRow :=
  let ins := (List.range 4).map (m.input s n i)
  let colv := if m.cfg.colv then fpVec s n (muleColv m.d) i m.rows else []
  let rpos := if m.rpos.inBank then numsAt s n m.rpos i 4 m.rows else []
  let rtag := if m.rtag.inBank then numsAt s n m.rtag i 2 m.rows else []
  let tags := (m.drained s n).map Prod.snd
  let bytes := rawAt s n (rawImg m.mask i (ceilDiv (m.rows * m.width) 8)) (ceilDiv (m.rows * m.width) 8)
  (List.range m.rows).map (fun r =>
    { ins := ins.map (fun l => l.getD r [])
      colv := colv.getD r ⟨0, false⟩
      rpos := if m.rpos.inBank then rpos.getD r ⟨0, false⟩ else ⟨(origin m.d i).1 + r, false⟩
      rtag := if m.drainTags then (let t := tags.getD r ⟨0, false⟩; ⟨t.code, t.poison⟩) else rtag.getD r ⟨0, false⟩
      mask := if m.cfg.mask then (List.range m.width).map (fun c =>
          let x := r * m.width + c
          let b := bytes.getD (x / 8) (0, false)
          ⟨b2n (bit b.1.toNat (x % 8)), b.2⟩) else [] })

/-! ## Time (R179-R182) -/

/-- The group schedule while it is played: the cycle, bubbles, and the last tap cycle of each slot by row. -/
structure Sched where
  t : Nat
  bubbles : Nat
  taps : List (List Nat)
  deriving DecidableEq, Repr

/-- Issue operation j for row r of a group. -/
def Sched.issue (p : Prog) (j : Nat) (x : Sched) (r : Nat) : Sched :=
  let rds := (opReads p j).filterMap (fun q => if 16 ≤ q ∧ q ≤ 19 then some (q - 16) else none)
  let first := rds.foldl (fun a k => max a ((x.taps.getD k []).getD r 0 + 16)) 0
  let at' := max x.t (if rds = [] then 0 else first)
  let w := opPasses (opOpc p j)
  ⟨at' + w, x.bubbles + (at' - x.t),
   if opTapEn p j then modNth x.taps (opTapSlot p j) (fun l => l.set r (at' + w - 1)) else x.taps⟩

/-- Bubbles of a group of g rows (R181). -/
def groupBubbles (p : Prog) (g : Nat) : Nat :=
  ((opList p).foldl (fun x j => (List.range g).foldl (Sched.issue p j) x)
    ⟨0, 0, List.replicate 4 (List.replicate g 0)⟩).bubbles

/-- Bubbles of a tile of R rows. -/
def tileBubbles (p : Prog) (r : Nat) : Nat :=
  r / 16 * groupBubbles p 16 + (if r % 16 = 0 then 0 else groupBubbles p (r % 16))

/-- Bytes of a run of an image that lie in Hamper bank b. -/
def runIn (m : Img) (b off len : Nat) : Nat :=
  if m.type = 1 then ((linePieces off len).map (fun p => if (m.lineAt (p.1 / 256)).1 = b then p.2 else 0)).sum else 0

/-- Bytes of row r of an image of some width that lie in Hamper bank b, block by block. -/
def rowIn (m : Img) (width b r : Nat) : Nat :=
  ((List.range m.ncb).map (fun j => runIn m b (m.rowOff j r) (ceilDiv (min 128 (width - 128 * j) * m.fmt.bitsPer) 8))).sum

/-- Whether a program reads the mask bitmap. -/
def readsBitmap (p : Prog) : Bool := (opList p).any (fun j => opOpc p j = 7 && opMask p j = 0)

/-- Bytes that row r of tile i moves in Hamper bank b (R182). -/
def MuleD.traffic (m : MuleD) (p : Prog) (i r b : Nat) : Nat :=
  let reads := (opList p).flatMap (opReads p)
  ((List.range 4).map (fun j => if reads.contains (8 + j) then rowIn (m.inImg i j) m.width b r else 0)).sum
    + ((List.range 3).map (fun o => if bit (muleOc m.d o) 13 then rowIn (m.outImg i o) m.width b r else 0)).sum
    + (if readsBitmap p then runIn (rawImg m.mask i (ceilDiv (m.rows * m.width) 8)) b (r * m.width / 8) (ceilDiv m.width 8) else 0)

/-- Cycles that tile i waits for its banks' rate (R182). -/
def MuleD.outWait (m : MuleD) (p : Prog) (i : Nat) : Nat :=
  ((List.range m.rows).map (fun r =>
    ((List.range 4).foldl (fun a b => max a (ceilDiv (m.traffic p i r b) 512)) (progPasses p)) - progPasses p)).sum

/-! ## Faults (R203, R204) -/

/-- A Mule tile faults: the rest of the Mule's stream is discarded, open spans are abandoned, the context faults. -/
def muleFault (n k code p op : Nat) : M Unit := do
  setReg (CORE_MULE_FAULT n) (code + p * 2 ^ 4 + op * 2 ^ 9)
  flag (CORE_MULE_STATUS_PROG_FAULT n)
  modStream n k (fun x => { x with state := 2 })
  setFld ⟨CORE_STREAM_STATUS n, k, 1⟩ 0
  abandonSpans n
  modCore n (fun c => { c with progBad := true })
  faultCore n 4 code 0xFFFF 0 0 0

/-! ## Outputs (R188-R193) -/

/-- The rounding mode of an element of output o: SR takes the inputs of R162. -/
def MuleD.round (m : MuleD) (seed i o r c : Nat) : Round :=
  let mode := bits (muleOc m.d o) 9 2
  let og := origin m.d i
  if mode = 1 then .trn
  else if mode = 2 then .sr (srBits seed (muleTid m.d o) ((og.1 + r) * dC m.d + og.2 + c) 0)
  else .rne

def MuleD.spec (m : MuleD) (s : State) (n i o : Nat) : EncSpec :=
  let c := muleOc m.d o
  let g := m.outImg i o
  ⟨g, bits c 6 3, muleTid m.d o, bit c 12,
   if needsMax (bits c 6 3) g.fmt && m.maxv.inBank then fpVec s n m.maxv i m.width else [],
   m.round (taskVals s n).seed i o, bit c 11⟩

/-- The enabled outputs. -/
def MuleD.outs (m : MuleD) : List Nat := (List.range 3).filter (fun o => bit (muleOc m.d o) 13)

/-- Prepare every output; nothing is written. -/
def prepAll (n : Nat) : List EncSpec → M (Except TRes (List EncPrep))
  | [] => pure (.ok [])
  | e :: es => do
    match ← prepEncode n e with
    | .not r => return .error r
    | .ready p =>
      match ← prepAll n es with
      | .ok ps => return .ok (p :: ps)
      | .error r => return .error r

/-- The values that an output's written codes decode to, scale included; none where an element is not written (R193). -/
def tapValues (f : Fmt) (x : EncOut) : List (List (Option FpP)) :=
  x.tile.rows.zipIdx.map (fun row => row.1.zipIdx.map (fun e =>
    let sc := if f.scaled then (if x.col then (x.tile.scales.getD (e.2 / 128) []).getD (e.2 % 128) ⟨127, false⟩
      else (x.tile.scales.getD (e.2 / 128) []).getD row.2 ⟨127, false⟩) else ⟨127, false⟩
    if (x.kept.getD row.2 []).getD e.2 false then none else some (toFpP f e.1 sc)))

/-- A weight-update write met poison: the bite names the first element in row-major order (R192, Table 15.14). -/
def biteUpdate (n i o : Nat) (m : MuleD) (rows : List (List FpP)) : M Unit := do
  let flat := rows.zipIdx.flatMap (fun r => r.1.zipIdx.map (fun v => (r.2, v.2, v.1.poison)))
  match flat.find? (fun v => v.2.2) with
  | some (r, c, _) =>
    let g := m.outImg i o
    let off := g.rowOff (c / 128) r + c % 128 * g.fmt.bitsPer / 8
    let a := g.lineAt (off / 256)
    let at' := a.2 + off % 256
    let og := origin m.d i
    flag (CORE_MULE_STATUS_POISON_BITE n)
    faultCore n 7 1 0xFFFF 0 (bankAddr n a.1 (at' - at' % poisonUnit a.1)) ((og.1 + r) * dC m.d + og.2 + c)
  | none => pure ()

/-- Write the outputs in order; answers what each output's taps see. -/
def writeOuts (n i : Nat) (m : MuleD) (regs : List (List (List FpP))) :
    List (Nat × EncSpec × EncPrep) → M (List (Nat × List (List (Option FpP))))
  | [] => pure []
  | (o, e, p) :: rest => do
    let rows := regs.map (fun l => l.getD (bits (muleOc m.d o) 0 3) [])
    let x ← commitEncode n m.width e p rows
    when' e.wu (biteUpdate n i o m rows)
    let tail ← writeOuts n i m regs rest
    return (o, tapValues e.img.fmt x) :: tail

/-! ## Spans (R197-R201, R299) -/

/-- The enabled slots of an axis. -/
def axisSlots (p : Prog) (col : Bool) : List Nat := (List.range 4).filter (fun k => slotEn p k && slotCol p k == col)

/-- Whether the next tile under a program closes a span of an axis that REDUCE writes. -/
def closesSpan (m : MuleSt) (d : List Nat) (p : Prog) (col : Bool) : Bool :=
  let ks := axisSlots p col
  let len := if col then colSpan p else rowSpan p
  match ks with
  | k :: _ => decide ((m.parts.getD k []).length + 1 = len + 1) && ks.any (fun j => (rdPlace d j).inBank)
  | [] => false

/-- Whether REDUCE can start the tiles of the spans that a Mule tile closes. -/
def reduceFree (s : State) (n cnt : Nat) : Bool :=
  match slotsOf s n stReduce with
  | k :: _ =>
    let x := theStream s n k
    cnt = 0 || ((theCore s n).mule.closed.isEmpty && streamOpen s n k && waitsHold s n x.desc (x.next + cnt - 1))
  | [] => true

/-- A span of an axis closed, if its length is reached. -/
def closeAxis (m : MuleSt) (red : Option (List Nat)) (p : Prog) (col : Bool) : MuleSt :=
  let ks := axisSlots p col
  let len := (if col then colSpan p else rowSpan p) + 1
  match ks with
  | [] => m
  | k :: _ =>
    if (m.parts.getD k []).length < len then m
    else
      let idx := if col then m.colSpans else m.rowSpans
      let v : SpanVec := ⟨col, idx, ks.map (fun j => (j, spanVector p j (m.parts.getD j [])))⟩
      let written := match red with | some d => ks.any (fun j => (rdPlace d j).inBank) | none => false
      { m with
        parts := ks.foldl (fun l j => l.set j []) m.parts
        rowSpans := if col then m.rowSpans else m.rowSpans + 1
        colSpans := if col then m.colSpans + 1 else m.colSpans
        closed := if written then m.closed ++ [v] else m.closed }

/-- The Mule after a tile: its taps added to their spans. -/
def addTaps (m : MuleSt) (p : Prog) (r w : Nat) (taps : Nat → List (List FpP)) : MuleSt :=
  { m with
    spanR := r
    spanW := w
    parts := (List.range 4).foldl (fun l k => if slotEn p k then modNth l k (· ++ [tileReduce p k w (taps k)]) else l) m.parts }

/-! ## A tile -/

/-- Whether a tile breaks R199 against the open spans. -/
def badShape (m : MuleSt) (p : Prog) (r w : Nat) : Bool :=
  (List.range 4).any (fun k => slotEn p k && (m.parts.getD k []) != [] && (if slotCol p k then m.spanW != w else m.spanR != r))

/-- The work of Mule tile i: it is checked, read, run and written. A tile that breaks both Table 7.10 and Table 5.11 faults
under Table 7.10 (log 46, DESIGN CHOICE). One whose rows a drain still owes has begun and takes them as they come (R183). -/
def muleTileWork (n k i : Nat) : M TRes := do
  let s ← getS
  let m := muleD s n k
  let pn := muleP m.d
  let p := muleProg s n pn
  let tables := (List.range 4).map (muleTbl s n)
  when' ((theCore s n).mule.prog != pn) (abandonSpans n)
  let x := (theCore (← getS) n).mule
  match tileCheck m.d i (m.imgs i) (m.outs.any (fun o => bit (muleOc m.d o) 11)) with
  | some code =>
    stationFault n code k i
    return .bad
  | none =>
    match muleCheck m.cfg p tables (badShape x p m.rows m.width) with
    | some (code, op) =>
      setFld (CORE_MULE_STATUS_PROG n) pn
      muleFault n k code pn op
      return .bad
    | none =>
      let red := match slotsOf s n stReduce with | q :: _ => some (theStream s n q).desc | [] => none
      let cnt := match red with | some d => b2n (closesSpan x d p false) + b2n (closesSpan x d p true) | none => 0
      if !m.fed s n then
        modCore n (fun c => { c with mule := { c.mule with takes := m.rows } })
        bump (CORE_MULE_IN_WAIT_COUNT n)
        setFld (CORE_MULE_STATUS_STATE n) 2
        return .wait
      else if !reduceFree s n cnt then return .wait
      else
        match imgGate s n (m.imgs i) with
        | .refused =>
          imgFault n (m.imgs i)
          return .bad
        | .waits =>
          setFld (CORE_MULE_STATUS_STATE n) 2
          imgHold n k (m.imgs i)
        | .on =>
          let specs := m.outs.map (m.spec s n i)
          match ← prepAll n specs with
          | .error r => return r
          | .ok preps =>
            let ls := (m.rowOps s n i).map (runRow p tables (m.cols s n i) m.width)
            let taps ← writeOuts n i m (ls.map LaneState.regs) (m.outs.zip (specs.zip preps))
            let tapOf (j : Nat) : List (List FpP) :=
              if slotOutTap p j != 0 then
                ((taps.find? (fun t => t.1 = slotOutTap p j - 1)).getD (0, [])).2.map (·.map (·.getD (neutral (slotFunc p j))))
              else ls.map (fun l => l.taps.getD j [])
            let y := addTaps { x with prog := pn, busy := some pn, takes := 0 } p m.rows m.width tapOf
            let z := closeAxis (closeAxis y red p false) red p true
            modCore n (fun c => { c with
              mule := z
              toMule := if m.drain then m.feeds.foldl (fun l q => modNth l q (List.drop m.rows)) c.toMule else c.toMule })
            setFld (CORE_MULE_STATUS_STATE n) 1
            setFld (CORE_MULE_STATUS_PROG n) pn
            bumpBy (CORE_MULE_ROWS_COUNT n) m.rows
            bumpBy (CORE_MULE_BUSY_COUNT n) (progPasses p * m.rows)
            bumpBy (CORE_MULE_BUBBLE_COUNT n) (tileBubbles p m.rows)
            bumpBy (CORE_MULE_OUT_WAIT_COUNT n) (m.outWait p i)
            return .ok

/-! ## Writes to programs and tables (R187) -/

/-- Whether a register of PROG or TABLE is one that a program under way uses. -/
def muleUses (s : State) (n a : Nat) : Bool :=
  match (theCore s n).mule.busy with
  | none => false
  | some p =>
    let prog := muleProg s n p
    (decide (CORE_PROG n (32 * p) ≤ a) && decide (a < CORE_PROG n (32 * p + 32)))
      || (opList prog).any (fun j => opOpc prog j = 13 && decide (tblReg n (opTbl prog j) 0 ≤ a) && decide (a < tblReg n (opTbl prog j) 386))

/-- Write a word of a program or table; a write to what the current tile uses is held, and its writer waits. -/
def muleWrite (n a v : Nat) : M Unit := do
  let s ← getS
  if muleUses s n a then modCore n (fun c => { c with mule := { c.mule with held := c.mule.held ++ [⟨a, v, none⟩] } })
  else setReg a v

/-- A held write takes effect, and its writer goes on. -/
def heldDone (h : MuleHeld) : M Unit := do
  setReg h.reg h.value
  match h.ack with
  | some q => modLink (fun l => { l with out := l.out ++ [q] })
  | none => pure ()

/-- The Mule finishes its tile: held writes take effect. -/
def muleTileDone (n : Nat) : M Unit := do
  let s ← getS
  let m := (theCore s n).mule
  modCore n (fun c => { c with mule := { c.mule with busy := none, held := [] } })
  setFld (CORE_MULE_STATUS_STATE n) 0
  each m.held heldDone

/-- MULE_PROG_WRITE (R187): a write at an offset of CORE_n within PROG or TABLE; elsewhere it writes nothing. -/
def execMuleProgWrite (core : Fin 64) (off data : Nat) (s : State) : Host.Outcome State Fault Refusal := runM (do
  let a := 0xF00001000000 + 0x40000 * core.val + off
  if off % 8 = 0 && ((decide (0x4000 ≤ off) && decide (off < 0x6000))
      || (decide (0x8000 ≤ off) && decide (off < 0xC000) && decide (off % 0x1000 < 3088))) then atCore core a (muleWrite core a data)) s

/-! ## REDUCE (R200, R299) -/

/-- Write the vectors of the oldest closed span at the ring slot of its index. Answers the tile's outcome. -/
def reduceWork (n k i : Nat) : M TRes := do
  let s ← getS
  let d := (theStream s n k).desc
  match (theCore s n).mule.closed with
  | [] => return .wait
  | v :: rest =>
    let outs := v.vecs.filter (fun e => (rdPlace d e.1).inBank)
    let img (e : Nat × List FpP) : Img := vecImg (rdPlace d e.1) v.index e.2.length
    match tileCheck d i (outs.map img) false with
    | some code =>
      stationFault n code k i
      return .bad
    | none =>
      match imgGate s n (outs.map img) with
      | .refused =>
        imgFault n (outs.map img)
        return .bad
      | .waits => imgHold n k (outs.map img)
      | .on =>
        each outs (fun e => imgWrite n (img e) ⟨[e.2.map (fun x => ⟨x.v, x.poison⟩)], [], []⟩)
        modCore n (fun c => { c with mule := { c.mule with closed := rest } })
        return .ok

end Sys2Proof.Machine
end

