-- ==== Sys2Proof/Machine/Program.lean ====
section
/-!
DEFINITION. Machine/Program.lean: the start and the end of a stream program (R265-R268, R276, R306, R307): reading the
descriptors, the checks of Table 7.10, and the bindings.
-/

namespace Sys2Proof.Machine

/-! ## Reserved fields (Tables 7.3-7.5) -/

/-- A word is 0 outside the listed fields, each its lowest bit and its width. -/
def onlyIn (w : Nat) (fs : List (Nat × Nat)) : Bool :=
  Nat.land w (fs.foldl (fun m f => Nat.lor m ((2 ^ f.2 - 1) * 2 ^ f.1)) 0) = w

/-- The reserved fields of words 0-7, and the reserved codes of EXCH and of an enabled advance's event. -/
def headerRsvd (d : List Nat) : Bool :=
  bit (dw d 0) 4 || bits (dw d 0) 28 4 != 0 || dExch d = 3 || bits (dw d 1) 48 16 != 0 || bits (dw d 2) 60 4 != 0
    || bits (dw d 3) 60 4 != 0 || bits (dw d 5) 5 3 != 0 || bits (dw d 6) 5 3 != 0 || bit (dw d 7) 7 || bit (dw d 7) 39
    || ((dAdv d 0).en && decide ((dAdv d 0).event ≥ 2)) || ((dAdv d 1).en && decide ((dAdv d 1).event ≥ 2))

/-- A place word with a reserved field or type; TYPE 3 is for a short place of IN0 alone. -/
def placeBad (w : Nat) : Bool := placeRsvd w || bits w 0 2 = 3
def shortBad (w : Nat) (in0 : Bool) : Bool := shortRsvd w || (bits w 0 2 = 3 && !in0)

/-- A reserved KIND or rounding mode of an enabled encode. -/
def encBad (en : Bool) (kind mode : Nat) : Bool := en && (decide (kind ≥ 5) || mode = 3)

/-- The fields that Table 7.5 names in words 8-15 of a station; places are listed whole. -/
def sectionFields (st : Nat) : List (List (Nat × Nat)) :=
  let p : List (Nat × Nat) := [(0, 64)]
  let z : List (Nat × Nat) := []
  if st = stLoad then [[(0, 58)], [(0, 40)], [(0, 52)], [(0, 15)], p, z, z, z]
  else if st = stStore then [[(0, 53)], [(0, 40)], [(0, 52)], [(0, 52)], p, z, z, z]
  else if st = stYoke then [p, [(0, 13), (16, 4), (32, 16)], p, z, z, z, z, z]
  else if st = stOx then [p, p, p, p, [(0, 18), (32, 16)], [(0, 39)], z, z]
  else if st = stDrain then [p, p, [(0, 7), (8, 7), (16, 8)], p, p, p, p, z]
  else if st = stMule then [p, p, p, p, [(0, 37)], p, p, [(0, 45)]]
  else if st = stMuleAux then [p, p, p, p, p, p, z, z]
  else if st = stReduce then [p, p, p, p, z, z, z, z]
  else if st = stSend then [[(0, 23), (32, 16)], z, z, z, p, z, z, z]
  else if st = stRecv then [[(0, 18), (32, 18)], z, z, z, p, z, z, z]
  else if st = stTrail then [[(0, 52)], [(0, 40)], z, z, z, z, z, z]
  else if st = stCollie then [[(0, 1), (32, 32)], z, z, z, z, z, z, z]
  else []

/-- The words that hold places. -/
def placeWords (st : Nat) : List Nat :=
  if st = stLoad || st = stStore || st = stSend || st = stRecv then [12]
  else if st = stYoke then [8, 10]
  else if st = stDrain then [8, 9, 12, 13, 14]
  else if st = stMuleAux then [8, 9, 10, 11, 12, 13]
  else if st = stReduce then [8, 9, 10, 11]
  else []

/-- A reserved field or code in the section of a station. -/
def sectionRsvd (d : List Nat) : Bool :=
  let st := dStation d
  (sectionFields st).zipIdx.any (fun f => !onlyIn (dw d (8 + f.2)) f.1)
    || (placeWords st).any (fun w => placeBad (dw d w))
    || (st = stLoad && df d 8 55 2 = 3)
    || (st = stYoke && decide (df d 9 9 3 ≥ 3))
    || (st = stOx && PassField.rsvd (oxTmpl d))
    || (st = stDrain && (encBad (df d 10 3 1 = 1) (df d 10 0 3) (df d 10 5 2) || encBad (df d 10 11 1 = 1) (df d 10 8 3) (df d 10 13 2)))
    || (st = stMule && ((List.range 6).any (fun j => shortBad (df d (8 + j / 2) (32 * (j % 2)) 32) (j = 0))
        || (List.range 3).any (fun o => shortBad (df d (11 + o / 2) (32 * (o % 2)) 32) false
            || bits (muleOc d o) 14 2 != 0 || encBad (bit (muleOc d o) 13) (bits (muleOc d o) 6 3) (bits (muleOc d o) 9 2))))
    || (st = stSend && decide (sendVc d ≥ 6))

/-! ## The checks of Table 7.10 at a program's start -/

/-- The slots of a program that hold a station. -/
def withSt (ds : List (List Nat)) (st : Nat) : List Nat :=
  (List.range ds.length).filter (fun k => dStation (ds.getD k []) = st)

/-- The slots of a program that are used. -/
def usedSlots (ds : List (List Nat)) : List Nat := (List.range ds.length).filter (fun k => dStation (ds.getD k []) != 0)

/-- The bank a stream exchanges, lower of its pair. -/
def exchLower (d : List Nat) : Nat := 2 * dExchPair d

/-- Whether a stream's exchanged data is placed as Table 7.4's rule asks. A COLLIE stream names no place that could break
it. -/
def exchPlace (d : List Nat) : Bool :=
  let ok (p : Place) : Bool := p.type = 1 && p.sel % 4 = exchLower d && p.alt && p.ring = dExchTiles d
  let st := dStation d
  if st = stLoad || st = stStore || st = stSend || st = stRecv then ok (placeOf (dw d 12))
  else if st = stYoke then ok (placeOf (dw d 8))
  else if st = stOx then
    PassField.sBank (oxTmpl d) = exchLower d && df d 12 17 1 = 1 && df d 12 32 16 + 1 = dExchTiles d
  else if st = stMule then
    (List.range 6).any (fun j => ok (muleShort d (8 + j / 2) (32 * (j % 2)))) || (List.range 3).any (fun o => ok (muleOut d o))
  else if st = stReduce then (List.range 4).any (fun k => ok (rdPlace d k))
  else st = stCollie

/-- The streams of an exchange pair on one side. -/
def exchSide (ds : List (List Nat)) (pair side : Nat) : List Nat :=
  (usedSlots ds).filter (fun k => dExch (ds.getD k []) = side && dExchPair (ds.getD k []) = pair)

/-- EXCH_CFG for a slot. -/
def exchBad (ds : List (List Nat)) (k : Nat) : Bool :=
  let d := ds.getD k []
  if dExch d = 0 then false
  else
    let ps := exchSide ds (dExchPair d) 1
    let cs := exchSide ds (dExchPair d) 2
    match ps, cs with
    | [p], [c] => dExchPeer (ds.getD p []) != stClass (dStation (ds.getD c [])) || !exchPlace d
    | _, _ => true

/-- BIND_CONFLICT for a slot. -/
def bindBad (ds : List (List Nat)) (k : Nat) : Bool :=
  let d := ds.getD k []
  let c := stClass (dStation d)
  (List.range 4).any (fun b => bit (dBind d) b
    && (c = 0 || c = 7
      || (usedSlots ds).any (fun j => bit (dBind (ds.getD j [])) b && stClass (dStation (ds.getD j [])) != c)
      || (usedSlots ds).any (fun j => dExch (ds.getD j []) != 0 && dExchPair (ds.getD j []) = b / 2)))

/-- R264 is broken by a Yoke tile at a place. -/
def yokeAxisBad (ds : List (List Nat)) (p : Place) : Bool := (fmtOf p.fmt).scaled && axisIn ds p = some true

/-- R264 is broken by the stationary or top operand of a pass: a stream writes an image of ROW axis where its operand or its
scale line lies. -/
def oxAxisBad (ds : List (List Nat)) (p : PassD) : Bool :=
  (fmtOf (PassField.fmtS p)).scaled && (PassField.mode p = 1 || PassField.newStat p)
    && (axisOfLine ds (PassField.sBank p) (PassField.sLine p) = some false
      || axisOfLine ds (PassField.cBank p) (PassField.cLine p) = some false)

/-- SCALE_AXIS for a slot (R264). -/
def axisBad (ds : List (List Nat)) (k : Nat) : Bool :=
  let d := ds.getD k []
  if dStation d = stYoke then
    (fmtOf (placeOf (dw d 8)).fmt).scaled && (yokeAxisBad ds (placeOf (dw d 8)) || dWidth d != 128)
  else if dStation d = stOx then ((List.range 4).filter (bit (oxMask d))).any (fun k => oxAxisBad ds (makePass d 0 k))
  else false

/-- The accumulator banks that an OX stream's passes name; A_ALT turns only where an odd group runs. -/
def oxBanks (d : List Nat) : List Nat :=
  ((List.range 4).filter (bit (oxMask d))).flatMap (fun k =>
    let a := PassField.aBank (oxTmpl d) + k
    a % 8 :: (if df d 12 16 1 = 1 && decide (oxG d < dTiles d) then [(a + 4) % 8] else []))

/-- Whether a program's passes write A7. -/
def writesA7 (d : List Nat) : Bool := !PassField.toMule (oxTmpl d) && (oxBanks d).contains 7

/-- NO_WMAX for a slot (R699). -/
def maxBad (ds : List (List Nat)) (k : Nat) : Bool :=
  let d := ds.getD k []
  let need (kind fmt : Nat) := kind = 0 && (fmtOf fmt).scaled
  if dStation d = stDrain then
    (df d 10 3 1 = 1 && need (df d 10 0 3) (placeOf (dw d 9)).fmt && (placeOf (dw d 13)).type = 0)
      || (df d 10 11 1 = 1 && need (df d 10 8 3) (placeOf (dw d 12)).fmt && (placeOf (dw d 14)).type = 0)
  else if dStation d = stMule then
    (List.range 3).any (fun o => bit (muleOc d o) 13 && need (bits (muleOc d o) 6 3) (bits (muleOc d o) 3 3)
      && (match withSt ds stMuleAux with
        | a :: _ => (placeOf (dw (ds.getD a []) 13)).type = 0
        | [] => true))
  else false

/-- R294 is broken. -/
def segBad (ds : List (List Nat)) : Bool :=
  match withSt ds stYoke, withSt ds stOx with
  | y :: _, o :: _ =>
    let d := ds.getD y []
    let t := oxTmpl (ds.getD o [])
    (df d 9 0 9 + 1) * dRows d != PassField.rows t || PassField.seg t != df d 9 32 16
  | _, _ => false

/-- Whether a slot breaks the condition of a code of Table 7.10, for a core with `ox` Ox slots. -/
def startBad (ox : Nat) (ds : List (List Nat)) (code k : Nat) : Bool :=
  let d := ds.getD k []
  let st := dStation d
  if code = 2 then decide (st ≥ 13) || (st = stMuleAux && (withSt ds stMule).isEmpty)
  else if code = 3 then headerRsvd d || sectionRsvd d
  else if code = 4 then
    [stYoke, stOx, stDrain, stMule, stMuleAux, stReduce].contains st && (withSt ds st).head? != some k
  else if code = 5 then bindBad ds k
  else if code = 6 then exchBad ds k
  else if code = 7 then
    dTiles d = 0 || (st = stYoke && (dWidth d != 128 || segBad ds)) || (st = stMuleAux && dTiles d != 1)
  else if code = 9 then axisBad ds k
  else if code = 10 then
    (st = stOx && writesA7 d && (withSt ds stDrain).isEmpty)
      || (st = stDrain && ((df d 10 3 1 = 1 && df d 10 5 2 = 2) || (df d 10 11 1 = 1 && df d 10 13 2 = 2)))
  else if code = 12 then st = stRecv && recvTee d && (withSt ds stTrail).isEmpty
  else if code = 13 then st = stLoad && df d 8 52 1 = 1 && df d 8 57 1 = 1
  else if code = 14 then
    (st = stOx && (List.range 4).any (fun j => bit (oxMask d) j && decide (ox ≤ j)))
      || (st = stYoke && (List.range 4).any (fun j => bit (df d 9 16 4) j && decide (ox ≤ j)))
  else if code = 15 then maxBad ds k
  else false

/-- The first condition of Table 7.10 that a program breaks at its start, with the slot. -/
def progCheck (ox : Nat) (ds : List (List Nat)) : Option (Nat × Nat) :=
  (List.range 16).findSome? (fun code => ((usedSlots ds).find? (startBad ox ds code)).map (fun k => (code, k)))

/-! ## Start -/

/-- Split the bytes of a program into the words of its descriptors. -/
def descsOf (bs : List Byte) : List (List Nat) := (chunks 128 bs.length bs).map (fun c => (chunks 8 c.length c).map leNat)

/-- Read the descriptors of a task's program; an error or poison is DESC_FETCH for its slot. -/
def fetchDescs (a : CtxAcc) (prog : Nat) : Nat → M (Except (Option Nat) (List (List Nat)))
  | 0 => pure (.ok [])
  | k + 1 => do
    match ← fetchDescs a prog k with
    | .error e => return .error e
    | .ok ds =>
      match ← ctxRead a (prog + 128 * k) 128 with
      | .error (.hold _) => return .error none
      | .error _ => return .error (some k)
      | .ok bs =>
        if bs.any Prod.snd then return .error (some k)
        else return .ok (ds ++ descsOf (bs.map Prod.fst))

/-- Bind a bank to a class for a slot, or have the slot wait for it (R222); a bank that serves no access refuses (R236). -/
def bindBank (n k b code : Nat) : M Unit := do
  let s ← getS
  if bankGate s n b = .refused then bankFault n b 0
  else if bindOf s n b = 0 || bindOf s n b = code then setBind n b code
  else modCore n (fun c => { c with bindWait := c.bindWait ++ [(k, b)] })

/-- The bindings of a program: slot, bank and class, lower classes first (R222, R267, R276). -/
def programBinds (ds : List (List Nat)) : List (Nat × Nat × Nat) :=
  let all := (usedSlots ds).flatMap (fun k =>
    let d := ds.getD k []
    ((List.range 4).filter (bit (dBind d))).map (fun b => (k, b, stClass (dStation d)))
      ++ (if dExch d = 1 then [(k, exchLower d, stClass (dStation d)), (k, exchLower d + 1, dExchPeer d)] else []))
  sortBy (fun x y => decide (x.2.2 < y.2.2)) all

/-- The streams of a program at its start. -/
def startStreams (prog : Nat) (ds : List (List Nat)) : List Stream :=
  (List.range 16).map (fun k =>
    let d := ds.getD k []
    let st := dStation d
    if st = 0 then Stream.unused
    else { Stream.unused with desc := d, addr := prog + 128 * k, state := if st = stMuleAux then 2 else 1 })

/-- The ACTIVE mask of streams. -/
def activeMask (xs : List Stream) : Nat := (xs.zipIdx.map (fun x => if x.1.state = 1 then 2 ^ x.2 else 0)).sum

/-- A task's stream program starts (R267, R270, R276, R306). -/
def programStart (n : Nat) : M Unit := do
  let s ← getS
  let c := theCore s n
  match c.task with
  | none => pure ()
  | some t =>
    if !t.begun && c.stopped = 0 && c.sent.isNone then
      let w0 := t.words.getD 0 0
      let prog := bits w0 0 52
      match ← fetchDescs (taskAcc s n (readClass s n none)) prog (bits w0 52 4 + 1) with
      | .error none => pure ()
      | .error (some k) =>
        modCore n (fun c => { c with task := c.task.map (fun t => { t with begun := true }) })
        streamFault n 1 k 0xFFFFFFFF
      | .ok ds =>
        modCore n (fun c => { c with task := c.task.map (fun t => { t with begun := true }) })
        match progCheck (slotOxen (coreMode s n)).length ds with
        | some (code, k) => streamFault n code k 0xFFFFFFFF
        | none =>
          let xs := startStreams prog ds
          modCore n (fun c => { c with
            streams := xs, bindWait := [], hand0 := [], hand1 := [], encWait := [], progBad := false, trailQ := []
            mule := { MuleSt.idle with prog := c.mule.prog }, toMule := [[], [], [], []], modeF := c.fence, trailAt := [] })
          each (List.range 16) (fun h => setReg (CORE_HC n h) 0)
          each (List.range 16) (fun k => setReg (CORE_NEXT_TILE n k) 0)
          setFld (CORE_STREAM_STATUS_ACTIVE n) (activeMask xs)
          setFld (CORE_STREAM_STATUS_RUNNING n) 1
          each (programBinds ds) (fun b => bindBank n b.1 b.2.1 b.2.2)

/-- STREAM_PROGRAM_START (R267). -/
def execStreamProgramStart (core : Fin 64) (errs : List LineErr) (s : State) : Host.Outcome State Fault Refusal :=
  runT (withErrs errs (programStart core)) s

/-- A waiting stream binds the banks that no other class holds now; a cycle in which it goes on waiting counts once (R222). A
program that has faulted binds none (R307). -/
def bindTry (n k : Nat) : M Unit := do
  let s ← getS
  if !(theCore s n).progBad then
    each ((theCore s n).bindWait.filter (fun b => b.1 = k)) (fun b => do
      let s ← getS
      let d := (theStream s n k).desc
      let code := if dExch d = 1 && b.2 = exchLower d + 1 then dExchPeer d else stClass (dStation d)
      if bankGate s n b.2 = .refused then bankFault n b.2 0
      else when' (bindOf s n b.2 = 0 || bindOf s n b.2 = code) (do
        setBind n b.2 code
        modCore n (fun c => { c with bindWait := c.bindWait.erase b })))
    let s ← getS
    when' ((theCore s n).bindWait.any (fun b => b.1 = k && bankGate s n b.2 != .refused)) (bump (CORE_BIND_WAIT_COUNT n))

/-- BANK_BIND (R222). -/
def execBankBind (core : Fin 64) (slot : Fin 16) (s : State) : Host.Outcome State Fault Refusal := runT (bindTry core slot) s

/-! ## End -/

/-- Take a program off its core: bindings released, streams unused, open spans abandoned (R201, R267). -/
def programEnd (n : Nat) : M Unit := do
  setReg (CORE_HBIND n) 0
  abandonSpans n
  setFld (CORE_STREAM_STATUS_ACTIVE n) 0
  setFld (CORE_STREAM_STATUS_RUNNING n) 0
  modCore n (fun c => { c with
    streams := List.replicate 16 .unused, bindWait := [], encWait := [], mule := { c.mule with busy := none, takes := 0 } })

/-- Every stream of a core's program has completed its last event (R268), and its statistics are in memory (R154). -/
def programDone (s : State) (n : Nat) : Bool :=
  let c := theCore s n
  match c.task with
  | some t => t.begun && !t.ended && c.stopped = 0 && !c.progBad && c.statDue.isEmpty && c.streams.all (fun x => x.state != 1)
  | none => false

/-- STREAM_PROGRAM_END (R268): the program ends and its task's completion is latched for the next tick edge. -/
def execStreamProgramEnd (core : Fin 64) (s : State) : Host.Outcome State Fault Refusal := runT (do
  let n : Nat := core
  drainStats n
  let s ← getS
  when' (programDone s n) (do
    programEnd n
    modCore n (fun c => { c with task := c.task.map (fun t => { t with ended := true }) })
    latch ⟨6, 0, ctxOfCore s n, n, .taskDone n⟩)) s

end Sys2Proof.Machine
end

