-- ==== Sys2Proof/Machine/Stations.lean ====
section
/-!
DEFINITION. Machine/Stations.lean: the tiles of every station, their events, exchanges and hand-offs (R271-R303).
-/

namespace Sys2Proof.Machine

/-! ## YOKE and OX (R291-R294) -/

/-- The images a Yoke tile reads: its rows and, under ROW_TAGS, its tags. -/
def yokeImgs (d : List Nat) (i : Nat) : List Img :=
  (placeOf (dw d 8)).img i (dRows d) 128
    :: (if df d 9 12 1 = 1 then [rawImg (placeOf (dw d 10)) i (2 * dRows d)] else [])

/-- The Yoke rows of tile i (R292). -/
def yokeRows (s : State) (n : Nat) (d : List Nat) (i : Nat) : List YRow :=
  let m := (placeOf (dw d 8)).img i (dRows d) 128
  let tags := if df d 9 12 1 = 1 then numsAt s n (placeOf (dw d 10)) i 2 (dRows d) else []
  (List.range (dRows d)).map (fun r =>
    let sc := imgScale s n m 0 r
    ⟨yokeSeg d i, i % yokeTps d * dRows d + r, (let t := tags.getD r ⟨0, false⟩; ⟨t.v, t.poison⟩), sc.code,
     (imgRow s n m 0 r).map (fun e => ⟨e.code, e.poison || (m.fmt.scaled && sc.poison)⟩)⟩)

/-- The segment whose last tile is i. -/
def yokeSegment (d : List Nat) (i : Nat) (rows : List YRow) : Seg :=
  ⟨yokeSeg d i, df d 9 9 3, df d 9 16 4, df d 9 12 1 = 1, (placeOf (dw d 8)).fmt, yokeTps d * dRows d, i, rows⟩

/-- The work of a Yoke tile: its rows are read, and the last tile of a segment hands the segment to the Yoke. -/
def yokeTileWork (n k i : Nat) : M TRes := do
  let s ← getS
  let x := theStream s n k
  let d := x.desc
  match imgGate s n (yokeImgs d i) with
  | .refused =>
    imgFault n (yokeImgs d i)
    return .bad
  | .waits => imgHold n k (yokeImgs d i)
  | .on =>
    let rows := (if i % yokeTps d = 0 then [] else x.rows) ++ yokeRows s n d i
    if i % yokeTps d + 1 = yokeTps d then
      modCore n (fun c => { c with segs := c.segs ++ [yokeSegment d i rows] })
      modStream n k (fun x => { x with rows := [] })
    else modStream n k (fun x => { x with rows := rows })
    return .ok

/-- The slots and Oxen of an OX stream. -/
def oxParts (s : State) (n : Nat) (d : List Nat) : List (Nat × Nat) :=
  ((slotOxen (slotMode s n)).zipIdx.filter (fun p => bit (oxMask d) p.2 && oxAvail s n p.1)).map (fun p => (p.2, 4 * n + p.1))

/-- Push pass i to every participant (R293); a full queue makes the stream wait. -/
def oxTileWork (n k i : Nat) : M TRes := do
  let s ← getS
  let d := (theStream s n k).desc
  let ps := oxParts s n d
  if ps.any (fun p => decide ((theOx s p.2).queue.length ≥ 4)) then return .wait
  else
    each ps (fun p => pushPass p.2 (makePass d i p.1))
    return .ok

/-! ## DRAIN (R295-R298) -/

/-- The encodes that a DRAIN stream makes. -/
def drainEncs (d : List Nat) : List Nat :=
  (if df d 10 3 1 = 1 then [0] else []) ++ (if df d 10 11 1 = 1 then [1] else [])

def drainPlace (d : List Nat) (e : Nat) : Place := placeOf (dw d (if e = 0 then 9 else 12))
def drainKind (d : List Nat) (e : Nat) : Nat := df d 10 (8 * e) 3
def drainMax (d : List Nat) (e : Nat) : Place := placeOf (dw d (13 + e))

def drainImg (d : List Nat) (i e : Nat) : Img := (drainPlace d e).img i (dRows d) (dWidth d)

/-- Whether the LAST pass of a DRAIN tile's group enables statistics (STAT_EN, Table 2.2); a program without an OX stream has
no such pass, and its encodes' own STAT decides (log 21, DEDUCED). -/
def lastStat (s : State) (n : Nat) (d : List Nat) (i : Nat) : Bool :=
  match slotsOf s n stOx with
  | o :: _ =>
    let x := (theStream s n o).desc
    let p := makePass x ((i / (df d 10 16 8 + 1) + 1) * oxG x - 1) 0
    PassField.last p && PassField.statEn p
  | [] => true

/-- Encode e of a DRAIN tile; a DRAIN encode never uses SR (R298), and takes statistics where its STAT and the group's LAST
pass enable them (R150). -/
def drainSpec (s : State) (n : Nat) (d : List Nat) (i e : Nat) : EncSpec :=
  let g := drainImg d i e
  ⟨g, drainKind d e, df d 11 (32 * e) 32, df d 10 (8 * e + 4) 1 = 1 && lastStat s n d i,
   if needsMax (drainKind d e) g.fmt then fpVec s n (drainMax d e) i (dWidth d) else [],
   fun _ _ => if df d 10 (8 * e + 5) 2 = 1 then .trn else .rne, false⟩

def drainSrc (d : List Nat) (i : Nat) : Img := { placeOf (dw d 8) with fmt := 6 }.img i (dRows d) (dWidth d)

/-- The images of a DRAIN tile. -/
def drainImgs (d : List Nat) (i : Nat) : List Img :=
  drainSrc d i :: (drainEncs d).flatMap (fun e =>
    drainImg d i e :: (if needsMax (drainKind d e) (drainImg d i e).fmt then [vecImg (drainMax d e) i (dWidth d)] else []))

/-- Whether event 1 of the last pass of a DRAIN tile's group has occurred (R297). -/
def drainReady (s : State) (n : Nat) (d : List Nat) (i : Nat) : Bool :=
  match slotsOf s n stOx with
  | o :: _ =>
    let x := theStream s n o
    decide ((i / (df d 10 16 8 + 1) + 1) * oxG x.desc ≤ x.done1)
  | [] => true

/-- Commit prepared encodes in order. -/
def commitAll (n width : Nat) (rows : List (List FpP)) : List (EncSpec × EncPrep) → M Unit
  | [] => pure ()
  | (e, p) :: rest => do
    let _ ← commitEncode n width e p rows
    commitAll n width rows rest

/-- The work of a DRAIN tile. -/
def drainTileWork (n k i : Nat) : M TRes := do
  let s ← getS
  let d := (theStream s n k).desc
  if !drainReady s n d i then return .wait
  else
    match imgGate s n (drainImgs d i) with
    | .refused =>
      imgFault n (drainImgs d i)
      return .bad
    | .waits => imgHold n k (drainImgs d i)
    | .on =>
      let specs := (drainEncs d).map (drainSpec s n d i)
      match ← prepAll n specs with
      | .error r => return r
      | .ok preps =>
        commitAll n (dWidth d) (imgFp s n (drainSrc d i) (dWidth d) false) (specs.zip preps)
        return .ok

/-! ## COLLIE and TRAIL (R301-R303) -/

/-- The queue of a Collie. -/
def handOf (c : CoreSt) (col : Nat) : List Handoff := if col = 0 then c.hand0 else c.hand1
def modHand (n col : Nat) (f : List Handoff → List Handoff) : M Unit :=
  modCore n (fun c => if col = 0 then { c with hand0 := f c.hand0 } else { c with hand1 := f c.hand1 })

/-- Place tile i in its Collie's queue of 8 and raise the interrupt; a full queue makes the tile wait (R302). -/
def collieTileWork (n k i : Nat) : M TRes := do
  let s ← getS
  let d := (theStream s n k).desc
  let col := df d 8 0 1
  if ((handOf (theCore s n) col).filter (fun h => !h.taken)).length ≥ 8 then return .wait
  else
    let o := origin d i
    modHand n col (· ++ [⟨k, i, o.1, o.2, df d 8 32 32, false⟩])
    emit (.collieIrq n col)
    return .ok

/-! ## Any station's tile -/

/-- The images of a tile that its start checks, and whether C is needed (Table 7.10, codes 8 and 11). -/
def tileNeeds (s : State) (n k : Nat) (d : List Nat) (i : Nat) : List Img × Bool :=
  let st := dStation d
  let at12 : Img := (placeOf (dw d 12)).img i (dRows d) (dWidth d)
  if st = stLoad then (at12 :: listImg d i, at12.fmt.scaled && df d 8 55 2 = 1)
  else if st = stStore then ([at12], at12.fmt.scaled && (axisAt s n (placeOf (dw d 12))).getD false = false)
  else if st = stSend then ([at12], false)
  else if st = stRecv then ([recvImg s n k i], false)
  else if st = stYoke then (yokeImgs d i, false)
  else if st = stDrain then (drainImgs d i, match slotsOf s n stOx with
    | o :: _ => writesA7 (theStream s n o).desc
    | [] => false)
  else ([], false)

/-- SCALE_AXIS for a tile of YOKE or OX (R264, R306). -/
def tileAxisBad (s : State) (n : Nat) (d : List Nat) (i : Nat) : Bool :=
  let ds := runningDescs s n
  if dStation d = stYoke then
    let m := (placeOf (dw d 8)).img i (dRows d) 128
    let a := m.lineAt 0
    m.fmt.scaled && axisOfLine ds a.1 (a.2 / 256) = some true
  else if dStation d = stOx then (oxParts s n d).any (fun p => oxAxisBad ds (makePass d i p.1))
  else false

/-- The first condition of Table 7.10 that a tile breaks at its start, but for the Mule's. -/
def startCheck (s : State) (n k : Nat) (d : List Nat) (i : Nat) : Option Nat :=
  let st := dStation d
  let need := tileNeeds s n k d i
  let c := if st = stOx || st = stCollie || st = stTrail then tileWalk d i else tileCheck d i need.1 need.2
  if c != some 8 && tileAxisBad s n d i then some 9 else c

/-- The work of tile i of a stream. -/
def tileWork (n k i : Nat) (noRecomp again : Bool) : M TRes := do
  let s ← getS
  let d := (theStream s n k).desc
  let st := dStation d
  if st = stMule then muleTileWork n k i
  else if st = stReduce then reduceWork n k i
  else
    match startCheck s n k d i with
    | some code =>
      stationFault n code k i
      return .bad
    | none =>
      if st = stLoad then loadTileWork n k i noRecomp again
      else if st = stYoke then yokeTileWork n k i
      else if st = stOx then oxTileWork n k i
      else if st = stDrain then drainTileWork n k i
      else if st = stStore then storeTileWork n k i
      else if st = stSend then offerTile n k i
      else if st = stRecv then recvTile n k i
      else if st = stCollie then collieTileWork n k i
      else if st = stTrail then
        return (if decide (((theCore s n).trailQ.filter (fun q => !q.wrote.contains k)).length > i - (theStream s n k).done0) then .ok else .wait)
      else return .wait

/-- Whether what holds a tile still does. -/
def stillHeld (s : State) (n : Nat) (h : HeldTile) : Bool :=
  match h.why with
  | .recomp r => !h.noRecomp && (theCtx s ((ctxOfCore s n).getD 0)).recomp.any (fun q => q.num = r)
  | .rsrc p => !h.again && s.wagon.rsrc.any (fun q => q.page = p)
  | _ => false

/-- Whether the Mule has finished its tile: it runs one at a time. -/
def muleReady (s : State) (n k : Nat) : Bool :=
  let x := theStream s n k
  dStation x.desc != stMule || x.done0 = x.next

/-- The banks that tile i of a stream accesses. -/
def tileBanks (s : State) (n k i : Nat) : List Nat :=
  let d := (theStream s n k).desc
  let st := dStation d
  if st = stMule then ((muleD s n k).imgs i).flatMap Img.touches
  else if st = stReduce then
    match (theCore s n).mule.closed with
    | v :: _ => (v.vecs.filter (fun e => (rdPlace d e.1).inBank)).flatMap (fun e => (vecImg (rdPlace d e.1) v.index e.2.length).touches)
    | [] => []
  else if st = stOx then (oxParts s n d).flatMap (fun p => (startBanks (makePass d i p.1)).map Prod.fst)
  else (tileNeeds s n k d i).1.flatMap Img.touches

/-- Whether a tile accesses a bank of its stream's exchange pair that is bound to the other side (R279). -/
def exchHeld (s : State) (n k i : Nat) : Bool :=
  let d := (theStream s n k).desc
  dExch d != 0 && (tileBanks s n k i).any (fun b => b / 2 = dExchPair d && bindOf s n b != stClass (dStation d))

/-- Try tile i of a stream. -/
def tryTile (n k i : Nat) (noRecomp again : Bool) : M (Option TRes) := do
  let r ← tileWork n k i noRecomp again
  noteTile n k i r
  return some r

/-- A stream starts its next tile, once its waits hold, or tries a held one again (R271, R272, R278, R279). `reread` is
for an encode that waits for a merged record. Answers what a tile that was tried met. -/
def startTile (n k : Nat) (reread : Bool) : M (Option TRes) := do
  let s ← getS
  let x := theStream s n k
  let i := x.next
  let waiting := (theCore s n).encWait.any (fun w => w.slot = k)
  if streamOpen s n k && muleReady s n k && waiting == reread then
    match x.held with
    | h :: _ => if stillHeld s n h then return none else tryTile n k i h.noRecomp h.again
    | [] =>
      if !waitsHold s n x.desc i then
        bump (CORE_WAIT_COUNT n k)
        return none
      else if !exchOk x i || exchHeld s n k i then
        bump (CORE_EXCH_WAIT_COUNT n)
        return none
      else tryTile n k i false false
  else return none

/-- STATION_TILE_START (R271). -/
def execStationTileStart (core : Fin 64) (slot : Fin 16) (errs : List LineErr) (s : State) :
    Host.Outcome State Fault Refusal := runT (withErrs errs (do let _ ← startTile core slot false)) s

/-- The stream of a station starts its next tile. -/
def startOf (n station : Nat) : M Unit := do
  match slotsOf (← getS) n station with
  | k :: _ => let _ ← startTile n k false
  | [] => pure ()

/-- DRAIN_ENCODE (R297). -/
def execDrainEncode (core : Fin 64) (errs : List LineErr) (s : State) : Host.Outcome State Fault Refusal :=
  runT (withErrs errs (startOf core stDrain)) s

/-- MULE_TILE_START (R203). -/
def execMuleTileStart (core : Fin 64) (errs : List LineErr) (s : State) : Host.Outcome State Fault Refusal :=
  runT (withErrs errs (startOf core stMule)) s

/-- REDUCE_TILE (R299). -/
def execReduceTile (core : Fin 64) (s : State) : Host.Outcome State Fault Refusal := runT (startOf core stReduce) s

/-- COLLIE_HANDOFF (R302). -/
def execCollieHandoff (core : Fin 64) (slot : Fin 16) (s : State) : Host.Outcome State Fault Refusal := runT (do
  when' (dStation (theStream (← getS) core slot).desc = stCollie) (do let _ ← startTile core slot false)) s

/-- MERGED_RECORD_REREAD (R148): each waiting encode reads its merged record again; one that it finds open is counted. -/
def execMergedRecordReread (core : Fin 64) (errs : List LineErr) (s : State) : Host.Outcome State Fault Refusal :=
  runT (withErrs errs (do
    let n : Nat := core
    let s ← getS
    each (theCore s n).encWait (fun w => do
      if (← startTile n w.slot true) = some .record then
        bump (CTX_STAT_WAIT_TICKS_COUNT ((ctxOfCore (← getS) n).getD 0))))) s

/-! ## Events (Table 7.7) -/

/-- Whether an Ox still holds the pass of a segment; `queued` asks for one whose tile the loader has not read (Table 7.7). -/
def oxHolds (x : Ox) (g : Nat) (queued : Bool) : Bool :=
  x.queue.any (fun q => PassField.seg q.d = g && !(queued && q.loaded))
    || (!queued && ((match x.run with | some p => PassField.seg p.d = g | none => false)
      || x.drain.any (fun p => PassField.seg p.d = g)))

/-- Whether rows of a segment are still to be issued or taken. -/
def yokeOwes (s : State) (n g : Nat) : Bool :=
  let c := theCore s n
  c.segs.any (fun q => q.num = g) || (match c.issue with | some q => q.num = g | none => false)
    || (List.range 4).any (fun k =>
      let x := theOx s (4 * n + k)
      x.lag.any (fun l => l.row.seg = g))

/-- The tile of a stream whose event comes next. -/
def nextEvent (x : Stream) (ev : Bool) : Nat :=
  if !ev then x.done0
  else if dStation x.desc = stOx then x.done1 / oxG x.desc * oxG x.desc + oxG x.desc - 1
  else x.done1

/-- Whether event 0 of tile i of a stream has occurred. -/
def event0 (s : State) (n k i : Nat) : Bool :=
  let x := theStream s n k
  let d := x.desc
  let st := dStation d
  if st = stYoke then decide ((i / yokeTps d + 1) * yokeTps d ≤ x.next || dTiles d ≤ x.next) && !yokeOwes s n (yokeSeg d i)
  else if st = stOx then
    (oxParts s n d).all (fun p => !oxHolds (theOx s p.2) (PassField.seg (makePass d i p.1)) true)
  else if st = stSend then
    (match s.fab.offers.find? (fun o => o.isOf n k i) with | some o => o.phase = 2 | none => true)
  else if st = stRecv then !s.fab.recvs.any (fun r => r.isOf n k i)
  else if st = stCollie then
    let c := theCore s n
    !(c.hand0 ++ c.hand1).any (fun h => h.slot = k && h.tile = i)
  else true

/-- Whether event 1 of tile i of a stream has occurred. -/
def event1 (s : State) (n k i : Nat) : Bool :=
  let x := theStream s n k
  let d := x.desc
  let st := dStation d
  if st = stOx then (oxParts s n d).all (fun p => !oxHolds (theOx s p.2) (PassField.seg (makePass d i p.1)) false)
  else if st = stSend then !s.fab.offers.any (fun o => o.isOf n k i)
  else if st = stRecv then
    decide (i < x.done0) && !(theCore s n).trailQ.any (fun q => q.slot = k && q.tile = i)
  else if st = stStore then true
  else false

/-- The loader reads the stationary tiles of a pass that stands at the head of its Oxen's queues (R67, Table 7.7). -/
def loadPass (n k i : Nat) : M Unit := do
  let s ← getS
  let d := (theStream s n k).desc
  each (oxParts s n d) (fun p => loadHead p.2 (PassField.seg (makePass d i p.1)))

/-- Complete the next event of a stream, if it has occurred. -/
def tileEvent (n k : Nat) (ev : Bool) : M Unit := do
  let x := theStream (← getS) n k
  let st := dStation x.desc
  let i := nextEvent x ev
  when' (st = stOx && !ev && x.state = 1 && decide (i < x.next)) (loadPass n k i)
  let s ← getS
  if x.state = 1 && decide ((theCore s n).stopped < 2) && decide (i < x.next) && (if ev then event1 s n k i else event0 s n k i) then
    if st = stTrail && !ev then
      if ← writeTrail n k then completeEvent n k i ev
    else
      when' (st = stStore && ev) (fenceOf n)
      when' (st = stMule && !ev) (muleTileDone n)
      completeEvent n k i ev

/-- TILE_EVENT_COMPLETE (R273). -/
def execTileEventComplete (core : Fin 64) (slot : Fin 16) (event : Bool) (s : State) : Host.Outcome State Fault Refusal :=
  runT (tileEvent core slot event) s

/-- A write of HC_ADD (R275). -/
def hcAddWrite (n h v : Nat) : M Unit := do
  setReg (CORE_HC_ADD n) (h + v % 65536 * 2 ^ 16)
  addHc n h (v % 65536)

/-- HC_ADD (R275). -/
def execHcAdd (core : Fin 64) (hc : Fin 16) (add : Nat) (s : State) : Host.Outcome State Fault Refusal :=
  runM (atCore core (CORE_HC_ADD core) (hcAddWrite core hc add)) s

/-! ## Exchanges (R276-R279) -/

/-- The stream of a running program on one side of an exchange pair. -/
def exchStream (s : State) (n pair side : Nat) : Option Nat :=
  (List.range 16).find? (fun k =>
    let x := theStream s n k
    x.state != 0 && dExch x.desc = side && dExchPair x.desc = pair)

/-- Whether exchange f is due (R277). -/
def exchDue (p c : Stream) : Bool :=
  let f := p.fills
  let e := dExchTiles p.desc
  decide (f * e < dTiles p.desc) && decide (min ((f + 1) * e) (dTiles p.desc) ≤ p.done0)
    && (f = 0 || decide (min (f * dExchTiles c.desc) (dTiles c.desc) ≤ c.done0))

/-- EXCHANGE (R277): the two banks of the pair exchange bindings when the exchange is due. -/
def execExchange (core : Fin 64) (pair : Bool) (s : State) : Host.Outcome State Fault Refusal := runM (do
  let n : Nat := core
  let s ← getS
  match exchStream s n (b2n pair) 1, exchStream s n (b2n pair) 2 with
  | some a, some b =>
    if exchDue (theStream s n a) (theStream s n b) && !(theCore s n).progBad then
      let lo := 2 * b2n pair
      let x := bindOf s n lo
      setBind n lo (bindOf s n (lo + 1))
      setBind n (lo + 1) x
      modStream n a (fun y => { y with fills := y.fills + 1 })
      modStream n b (fun y => { y with fills := y.fills + 1 })
  | _, _ => pure ()) s

/-! ## The Collies' queues (R302, R303) -/

/-- A read of CQ0 or CQ1 returns and removes the oldest hand-off. -/
def cqRead (n col : Nat) : M Nat := do
  let s ← getS
  match (handOf (theCore s n) col).find? (fun h => !h.taken) with
  | some h =>
    let mark (x : Handoff) : Handoff := if x.slot = h.slot && x.tile = h.tile then { x with taken := true } else x
    modHand n col (·.map mark)
    return h.tile % 2 ^ 32 + h.slot * 2 ^ 32 + 2 ^ 36
  | none => return 0

/-- CQ_READ (R302). -/
def execCqRead (core : Fin 64) (collie : Bool) (s : State) : Host.Outcome State Fault Refusal := runM (do
  let a := if collie then CORE_CQ1 core else CORE_CQ0 core
  atCore core a (do emit (.regValue a (← cqRead core (b2n collie))))) s

/-- A write of CDONE completes the oldest hand-off of a slot (R303). -/
def cdoneWrite (n col slot : Nat) : M Unit := do
  setReg (if col = 0 then CORE_CDONE0 n else CORE_CDONE1 n) slot
  let s ← getS
  match (handOf (theCore s n) col).find? (fun h => h.slot = slot) with
  | some h => modHand n col (fun l => l.erase h)
  | none => pure ()

/-- CDONE (R303). -/
def execCdone (core : Fin 64) (collie : Bool) (slot : Fin 16) (s : State) : Host.Outcome State Fault Refusal :=
  runM (atCore core (if collie then CORE_CDONE1 core else CORE_CDONE0 core) (cdoneWrite core (b2n collie) slot)) s

end Sys2Proof.Machine
end

