-- ==== Sys2Proof/Machine/Deliver.lean ====
section
/-!
DEFINITION. Machine/Deliver.lean: memory transfers (R544-R548), and what arrives in packets for this device.
-/

namespace Sys2Proof.Machine

/-! ## The transfer ring (R544, R545) -/

def ringSize (s : State) : Nat := 2 ^ fv s PORT_XFER_RING_LOG2_SIZE
def ringBase (s : State) : Nat := fv s PORT_XFER_RING_BASE * 1024
/-- Whether the ring is sampled: EN, with a size of 16 to 65,536 entries. -/
def ringOn (s : State) : Bool :=
  fb s PORT_XFER_RING_EN && decide (4 ≤ fv s PORT_XFER_RING_LOG2_SIZE) && decide (fv s PORT_XFER_RING_LOG2_SIZE ≤ 16)

/-- An I/O die's accesses for transfers: requester IOD0, at a class. -/
def viaXfer (cls : Nat) : Via := ⟨68, cls, none, false, false, false, 0⟩

def modRing (f : Roster → Roster) : M Unit := modFab (fun x => { x with ring := f x.ring })

/-- Write the words that wait, in order, until one is held. -/
def flushRing : List (Nat × Nat) → M Unit
  | [] => modRing (fun r => { r with writes := [] })
  | (a, v) :: rest => do
    match ← writePhys (viaXfer 1) a (natLe 8 v) false with
    | .hold _ => modRing (fun r => { r with writes := (a, v) :: rest })
    | _ => flushRing rest

/-- Write a word of the ring; words are written in order (R330). -/
def ringPut (a v : Nat) : M Unit := do
  let ws := (← getS).fab.ring.writes
  flushRing (ws ++ [(a, v)])

/-- Read a word of the ring. -/
def ringGet (off : Nat) : M (Option Nat) := do
  let r ← readPhys (viaXfer 1) (ringBase (← getS) + off) 8
  return if r.stop.isSome || r.poison then none else some (leNat r.bs)

def ringEntry (s : State) (i : Nat) : Nat := 0x400 + 64 * (i % ringSize s)

/-- Write an entry's state with this tick. -/
def ringState (i st : Nat) : M Unit := do
  let s ← getS
  ringPut (ringBase s + ringEntry s i + 56) (st + s.tick % 2 ^ 48 * 2 ^ 16)

/-- DONE past every leading entry in a final state. -/
def advance : Nat → Nat → List Nat → Nat
  | 0, d, _ => d
  | fuel + 1, d, l => if l.contains d then advance fuel (d + 1) l else d

/-- Entry i reaches a final state (2 DONE, 3 FAILED): its state and then DONE are written. -/
def ringFinal (i st : Nat) : M Unit := do
  ringState i st
  let s ← getS
  let r := s.fab.ring
  let fin := r.final ++ [i]
  let d := advance fin.length r.done fin
  modRing (fun r => { r with done := d, final := fin.filter (fun j => decide (d ≤ j)) })
  when' (d != r.done) (ringPut (ringBase s + 0x200) d)

/-! ## Transfers (R546-R548) -/

namespace Xfer
def op (x : Xfer) : Nat := bits (x.words.getD 0 0) 0 2
def mcast (x : Xfer) : Bool := bit (x.words.getD 0 0) 2
def vc (x : Xfer) : Nat := bits (x.words.getD 0 0) 3 3
def node (x : Xfer) : Nat := bits (x.words.getD 0 0) 8 18
def tag (x : Xfer) : Nat := bits (x.words.getD 0 0) 32 16
def addr (x : Xfer) : Nat := bits (x.words.getD 1 0) 0 48
def len (x : Xfer) : Nat := bits (x.words.getD 2 0) 0 40
end Xfer

/-- A reserved field or operation of a transfer entry (Table 12.12). -/
def xferBad (w : List Nat) : Bool :=
  let w0 := w.getD 0 0
  bits w0 0 2 = 0 || bits w0 0 2 = 3 || bits w0 6 2 != 0 || bits w0 26 6 != 0 || bits w0 48 16 != 0
    || decide (bits w0 3 3 ≥ 6) || bits (w.getD 1 0) 48 16 != 0 || bits (w.getD 1 0) 0 8 != 0
    || bits (w.getD 2 0) 40 24 != 0 || bits (w.getD 2 0) 0 8 != 0 || w.getD 2 0 = 0
    || w.getD 4 0 != 0 || w.getD 5 0 != 0 || w.getD 6 0 != 0

/-- Whether a range stays in the populated HBM or the fitted deep memory (R548). -/
def xferRange (s : State) (a n : Nat) : Bool :=
  match regionOf s.part a with
  | .hbm _ _ => decide (a + n ≤ s.part.nStacks * stackBytes)
  | .deep off => decide (off + n ≤ deepFitted s)
  | _ => false

/-- GEN of an I/O die's packets. -/
def iodGen (s : State) : Nat := fv s (RESET_GEN_IOD_GEN 0)

def modXfer (i : Nat) (f : Xfer → Xfer) : M Unit :=
  modFab (fun y => { y with xfers := y.xfers.map (fun x => if x.idx = i then f x else x) })

/-- End an active transfer. -/
def xferEnd (i st : Nat) : M Unit := do
  modFab (fun y => { y with xfers := y.xfers.filter (fun x => x.idx != i) })
  ringFinal i st

/-- Match a RECV transfer with an offer, and grant it; lengths that differ fail it (R546, R548). -/
def xferMatch (x : Xfer) (e : RtsEnt) : M Unit := do
  let s ← getS
  if e.bytes ≠ Xfer.len x then xferEnd x.idx 3
  else
    modXfer x.idx (fun y => { y with phase := 2, first := s.tick, rts := some e })
    inject (control s 2 e.src e.vc e.tag 0xFFFF e.image (iodGen s) 0)

def xferTakes (x : Xfer) (e : RtsEnt) : Bool :=
  Xfer.op x = 2 && x.phase = 0 && e.job = 0xFFFF && Xfer.node x = e.src && Xfer.tag x = e.tag

/-- Start entry i, whose words are given: it is ACTIVE, and offers itself or takes an offer that waits. -/
def xferStart (i : Nat) (w : List Nat) : M Unit := do
  let s ← getS
  let x : Xfer := ⟨i, w, 0, s.tick, curPage s, 0, none⟩
  modRing (fun r => { r with taken := i + 1 })
  if xferBad w || !xferRange s (Xfer.addr x) (Xfer.len x) then
    ringPut (ringBase s + 0x100) (i + 1)
    ringFinal i 3
  else
    modFab (fun y => { y with xfers := y.xfers ++ [x] })
    ringState i 1
    ringPut (ringBase s + 0x100) (i + 1)
    if Xfer.op x = 1 then
      inject { control s 1 (Xfer.node x) (Xfer.vc x) (Xfer.tag x) 0xFFFF (i % 2 ^ 32) (iodGen s) (Xfer.len x) with mcast := Xfer.mcast x }
    else
      match s.fab.rts.find? (xferTakes x) with
      | some e =>
        modFab (fun y => { y with rts := y.rts.erase e })
        xferMatch x e
      | none => pure ()

/-- Start published transfers in ring order while fewer than 64 are active (R325, R546). -/
def xferPump : Nat → M Unit
  | 0 => pure ()
  | fuel + 1 => do
    let s ← getS
    let r := s.fab.ring
    let avail := if r.pubTick < s.tick then r.pub else r.pubOld
    if ringOn s && !r.fresh && decide (r.taken < avail) && decide (s.fab.xfers.length < 64) then
      let e ← readPhys (viaXfer 1) (ringBase s + ringEntry s r.taken) 64
      if e.stop.isNone && !e.poison then
        xferStart r.taken ((chunks 8 64 e.bs).map leNat)
        xferPump fuel

/-- Read PUB of the ring, and TAKEN and DONE where they are to be read anew (R326, R544, R545). A PUB that R326 does not
allow publishes nothing and is recorded. -/
def ringSample : M Unit := do
  let s ← getS
  if ringOn s then
    if s.fab.ring.fresh then
      match ← ringGet 0x100, ← ringGet 0x200 with
      | some t, some d => modRing (fun r => { r with taken := t, done := d, pub := t, pubOld := t, pubTick := s.tick, fresh := false, final := [] })
      | _, _ => pure ()
    let s ← getS
    let r := s.fab.ring
    if !r.fresh then
      match ← ringGet 0 with
      | none => pure ()
      | some p =>
        if decide (p < r.pub) || decide (p > r.done + ringSize s) then note ⟨6, 1, 0xFF, 0xFF, 0xFFFF, none, 0, 0, 0⟩
        else when' (decide (r.pub < p)) (modRing (fun r => { r with
          pub := p, pubTick := s.tick, pubOld := if r.pubTick < s.tick then r.pub else r.pubOld }))

/-- XFER_PUB_SAMPLE (R544). -/
def execXferPubSample (errs : List LineErr) (s : State) : Host.Outcome State Fault Refusal := runT (withErrs errs (do
  ringSample
  xferPump 64)) s

/-- XFER_RING_WRITE (R545, R551): from the control die only; a change of geometry while the ring is enabled or busy drops
the whole write. -/
def xferRingWrite (who : Who) (data : Nat) : M Unit := do
  let s ← getS
  let geo (v : Nat) := (bits v 1 5, bits v 10 38)
  let old := rg s PORT_XFER_RING
  if who = .controlDie then
    if geo data = geo old then setReg PORT_XFER_RING data
    else if bit old 0 || s.fab.xfers != [] then flag PORT_XFER_CFG_CFG_REJECT
    else
      setReg PORT_XFER_RING data
      modRing (fun r => { r with fresh := true })

def execXferRingWrite (who : Who) (data : Nat) (s : State) : Host.Outcome State Fault Refusal :=
  runM (xferRingWrite who data) s

/-! ## Sending a transfer (R547) -/

/-- Read the lines of a range with the poison of each byte; none while a line is held or absent. -/
def xferLines (cls : Nat) : List Nat → M (Option (List (Byte × Bool)))
  | [] => pure (some [])
  | a :: rest => do
    match ← readLine (viaXfer cls) a with
    | .data bs p =>
      match ← xferLines cls rest with
      | some t => return some (bs.map (fun b => (b, p)) ++ t)
      | none => return none
    | .uncorr bs =>
      match ← xferLines cls rest with
      | some t => return some (bs.map (fun b => (b, true)) ++ t)
      | none => return none
    | _ => return none

/-- Read a granted transfer's range and send it; a range that is held waits. -/
def xferSend (x : Xfer) : M Unit := do
  let s ← getS
  let n := Xfer.len x / 256
  match ← xferLines (fv s PORT_XFER_CFG_CLASS) ((List.range n).map (fun l => Xfer.addr x + 256 * l)) with
  | none => pure ()
  | some bs =>
    let ps := payloads bs
    modXfer x.idx (fun y => { y with phase := 2, got := 0 })
    each ps.zipIdx (fun p => inject
      ⟨Xfer.node x, Xfer.mcast x, Xfer.vc x, false, x.page, 5, nodeOf s, Xfer.tag x, 0xFFFF, x.idx % 2 ^ 32, 126 * p.2,
       p.2 + 1 = ps.length, iodGen s, 0, p.1.1, p.1.2⟩)

def xferNeed (s : State) (x : Xfer) : Nat :=
  if Xfer.mcast x then bits (rg s (PORT_MCAST (Xfer.node x % 1024))) 48 16 else 1

/-- The SEND transfer that a GRANT or ACK names. -/
def xferFor (s : State) (p : Packet) : Option Xfer :=
  s.fab.xfers.find? (fun x => Xfer.op x = 1 && x.idx % 2 ^ 32 = p.image && Xfer.tag x = p.tag
    && (Xfer.mcast x || Xfer.node x = p.src))

/-- A GRANT of a transfer arrives. -/
def xferGrant (p : Packet) : M Unit := do
  let s ← getS
  match xferFor s p with
  | some x =>
    if x.phase = 0 then
      if xferNeed s x ≤ x.got + 1 then
        let y := { x with phase := 1, got := 0 }
        modXfer x.idx (fun _ => y)
        xferSend y
      else modXfer x.idx (fun y => { y with got := y.got + 1 })
  | none => pure ()

/-- The ACK of a transfer's last packet arrives. -/
def xferAck (p : Packet) : M Unit := do
  let s ← getS
  match xferFor s p with
  | some x =>
    if x.phase = 2 then
      if xferNeed s x ≤ x.got + 1 then xferEnd x.idx 2
      else modXfer x.idx (fun y => { y with got := y.got + 1 })
  | none => pure ()

/-! ## Receiving a transfer (R547, R663) -/

/-- Write lines from an address; the first one that is not performed ends the writing, and is answered. A page locked for
re-sourcing is open to it: pieces of a line meet in the write-combining buffer and are written as a full line (R586). -/
def xferPut (cls : Nat) : Nat → List (List (Byte × Bool)) → M WrOut
  | _, [] => pure .ok
  | a, l :: rest => do
    let d := bitsOf a (l.map Prod.fst)
    match ← writeLine { viaXfer cls with lockOk := true } a d.1 d.2 (l.any Prod.snd) with
    | .ok => xferPut cls (a + l.length) rest
    | .failed => xferPut cls (a + l.length) rest
    | o => return o

/-- Pieces of bytes that end at 256 B lines. -/
def lineCuts : List (Nat × Nat) → List (Byte × Bool) → List (List (Byte × Bool))
  | [], _ => []
  | (_, k) :: rest, bs => bs.take k :: lineCuts rest (bs.drop k)

/-- An XDATA packet arrives: it is written from the RECV transfer's address; a packet whose page waits is tried again. -/
def xdataArrives (p : Packet) : M Unit := do
  let s ← getS
  match s.fab.xfers.find? (fun x => Xfer.op x = 2 && x.phase = 2 && Xfer.node x = p.src && Xfer.tag x = p.tag) with
  | none => pure ()
  | some x =>
    if (match x.rts with | some e => e.gen != p.gen | none => true) then bump RESET_STALE_REPLIES_COUNT
    else
      let bs := packetBytes p
      let a := Xfer.addr x + 32 * p.off
      if 32 * p.off + bs.length > Xfer.len x then xferEnd x.idx 3
      else
        match ← xferPut (fv s PORT_XFER_CFG_CLASS) a (lineCuts (linePieces a bs.length) bs) with
        | .hold _ => modFab (fun y => { y with loop := y.loop ++ [p] })
        | .absent _ => xferEnd x.idx 3
        | _ =>
          let got := x.got + bs.length
          modXfer x.idx (fun y => { y with got := got })
          if Xfer.len x ≤ got then
            match x.rts with
            | some e => inject (control s 3 e.src e.vc e.tag 0xFFFF e.image (iodGen s) 0)
            | none => pure ()
            xferEnd x.idx 2

/-- A granted transfer that waited for its range is sent. -/
def xferTick (x : Xfer) : M Unit := when' (Xfer.op x = 1 && x.phase = 1) (xferSend x)

/-- E2E_TIMEOUT ticks after its RTS a transfer without its last ACK has failed (R548). -/
def xferExpired (x : Xfer) : M Unit := do
  let s ← getS
  when' ((Xfer.op x = 1 || x.phase = 2) && decide (x.first + fv s PORT_E2E_TIMEOUT_TICKS < s.tick)) (xferEnd x.idx 3)

/-! ## Packets for this device (Table 12.5) -/

/-- An RTS arrives. -/
def rtsPacket (p : Packet) : M Unit := do
  let s ← getS
  let e : RtsEnt := ⟨p.src, p.tag, p.job, p.image, p.info % 2 ^ 40, p.vc, p.gen⟩
  match s.fab.xfers.find? (fun x => xferTakes x e) with
  | some x => xferMatch x e
  | none => rtsArrives e

/-- Take a packet that is for this device; `port` is where it arrived. -/
def deliver (port : Nat) (p : Packet) : M Unit :=
  if p.kind = 0 then dataArrives p
  else if p.kind = 1 then rtsPacket p
  else if p.kind = 2 then (if p.job = 0xFFFF then xferGrant p else grantArrives p)
  else if p.kind = 3 then (if p.job = 0xFFFF then xferAck p else ackArrives p)
  else if p.kind = 4 then refuseArrives p
  else if p.kind = 5 then xdataArrives p
  else if p.kind = 6 then emit (.mgmt p)
  else unroutable port

/-- A packet arrives on a port (R509, R512, R521, R529); a device without a node address accepts none (R520). -/
def arrives (port : Nat) (crcOk : Bool) (lseq : Nat) (p : Packet) : M Unit := do
  if nodeOf (← getS) = 0 then pure ()
  else if ← acceptPacket port crcOk lseq then
    bumpBy (PORT_RX_BYTES_COUNT port) p.payload.length
    if ← routePacket port p then deliver port p

/-- A packet of a type arrives. -/
def typed (kind : Nat) (port : Fin 32) (crcOk : Bool) (lseq : Nat) (p : Packet) (errs : List LineErr) (s : State) :
    Host.Outcome State Fault Refusal := runT (withErrs errs (arrives port crcOk lseq { p with kind := kind })) s

/-- DATA (R537). -/
def execDataPacket (port : Fin 32) (crcOk : Bool) (lseq : Nat) (p : Packet) (errs : List LineErr) (s : State) :
    Host.Outcome State Fault Refusal := typed 0 port crcOk lseq p errs s
/-- RTS (R534). -/
def execRts (port : Fin 32) (crcOk : Bool) (lseq : Nat) (p : Packet) (errs : List LineErr) (s : State) :
    Host.Outcome State Fault Refusal := typed 1 port crcOk lseq p errs s
/-- GRANT (R537). -/
def execGrant (port : Fin 32) (crcOk : Bool) (lseq : Nat) (p : Packet) (errs : List LineErr) (s : State) :
    Host.Outcome State Fault Refusal := typed 2 port crcOk lseq p errs s
/-- ACK (R537). -/
def execAck (port : Fin 32) (crcOk : Bool) (lseq : Nat) (p : Packet) (errs : List LineErr) (s : State) :
    Host.Outcome State Fault Refusal := typed 3 port crcOk lseq p errs s
/-- REFUSE (R665). -/
def execRefuse (port : Fin 32) (crcOk : Bool) (lseq : Nat) (p : Packet) (errs : List LineErr) (s : State) :
    Host.Outcome State Fault Refusal := typed 4 port crcOk lseq p errs s
/-- XDATA (R547). -/
def execXdata (port : Fin 32) (crcOk : Bool) (lseq : Nat) (p : Packet) (errs : List LineErr) (s : State) :
    Host.Outcome State Fault Refusal := typed 5 port crcOk lseq p errs s
/-- MGMT (R508). -/
def execMgmt (port : Fin 32) (crcOk : Bool) (lseq : Nat) (p : Packet) (errs : List LineErr) (s : State) :
    Host.Outcome State Fault Refusal := typed 6 port crcOk lseq p errs s

/-- What a tick edge does in the fabric: packets of this device for itself, images and transfers that waited. -/
def fabricTick : M Unit := do
  let s ← getS
  modFab (fun f => { f with loop := [] })
  each s.fab.loop (deliver 0)
  each (← getS).fab.offers offerTick
  each (← getS).fab.recvs recvTick
  each (← getS).fab.xfers xferTick
  each (List.range s.part.ports) swapTick
  let ws := (← getS).fab.ring.writes
  flushRing ws
  xferPump 64

end Sys2Proof.Machine
end

