-- ==== Sys2Proof/Machine/CoreMem.lean ====
section
/-!
DEFINITION. Machine/CoreMem.lean: power transitions of banks and their retirement (R230-R243, R250, R702), and accesses
through a core's SRAM window (R208-R210, R247).
-/

namespace Sys2Proof.Machine

/-! ## What waits for a bank (R235-R237) -/

/-- An access is not performed: its context faults, or the control die receives an error status (R7, R209, R687). -/
def notDone (who : Who) (addr kind code unit : Nat) : M Unit :=
  match who with
  | .controlDie => emit (.errorStatus addr)
  | .collie n => do
    faultCore n kind code unit 0 addr 0
    emit (.notPerformed addr)

/-- A write of bytes, or a read that returns them; a Collie's load of a poisoned unit does not complete (R457). -/
def winAnswer (who : Who) (addr : Nat) (bs : List Byte) (poison : Bool) : M Unit :=
  match who with
  | .controlDie => emit (.bytes addr bs poison)
  | .collie n => if poison then faultCore n 7 0 0xFFFF 0 addr 0 else emit (.bytes addr bs false)

/-- Count the guest slots of an access to a bank that another class holds (R217). -/
def noteGuest (s : State) (n b len : Nat) : M Unit :=
  when' (decide (b < 4) && bindOf s n b != 0 && bindOf s n b != 6) (bumpBy (CORE_GUEST_ACCESSES_COUNT n) (ceilDiv len 512))

/-- Whether a module is out of service. -/
def moduleDown (s : State) (m : Bool) : Bool := s.link.down.getD (b2n m) false

/-- The module a request takes: its own, or the other where its own is out of service (R688). -/
def moduleFor (s : State) (m : Bool) : Option Bool :=
  if !moduleDown s m then some m else if !moduleDown s (!m) then some (!m) else none

/-- A request of the die link gets its reply; where its module has gone out of service, over the other one (R688). -/
def linkAnswer (q : LinkReq) (status : Nat) (bs : List Byte) : M Unit := do
  let m := (moduleFor (← getS) q.module).getD q.module
  modLink (fun l => { l with out := l.out ++ [{ q with module := m, status := status, bs := bs }] })

/-- A window access is performed on its bank, which is ON. -/
def winServe (n : Nat) (w : WinReq) : M Unit := do
  let s ← getS
  noteGuest s n w.bank w.len
  let bad := bankRunPoison s n w.bank w.off w.len
  let got := bankRead s n w.bank w.off w.len
  match w.data, w.ack with
  | some bs, none => bankWrite n w.bank w.off bs (bs.map (fun _ => false))
  | some bs, some q =>
    bankWrite n w.bank w.off bs (bs.map (fun _ => false))
    linkAnswer q 0 []
  | none, some q => linkAnswer q (if bad then 2 else 0) got
  | none, none => winAnswer w.who w.addr got bad

/-- A window access that its bank refuses (R236). -/
def winRefuse (n : Nat) (w : WinReq) : M Unit := do
  bankRefused n w.bank
  match w.ack with
  | some q => linkAnswer q 1 []
  | none => notDone w.who w.addr 2 0 w.bank

/-- The access of a unit of the core that waited for a bank is refused: the bank faults, a stream's program ends, and a
pass's results are lost. -/
def unitRefuse (n : Nat) (w : BankWait) : M Unit := do
  bankFault n w.bank w.off
  if w.unit < 16 then modCore n (fun c => { c with progBad := true })
  else when' (decide (20 ≤ w.unit) && decide (w.unit < 24)) (do
    modOx (4 * n + (w.unit - 20)) dropOut
    bump (OX_PASSES_COUNT (4 * n + (w.unit - 20))))

/-- The accesses that wait for a bank are judged: served when it is ON, refused when its TARGET is not (R235-R237). A unit
of the core makes its access again by itself. -/
def bankJudge (n b : Nat) : M Unit := do
  let s ← getS
  let c := theCore s n
  when' (c.winWait.any (fun w => w.bank = b) || c.bankWaits.any (fun w => w.bank = b)) (
    match bankGate s n b with
    | .waits => pure ()
    | .on => do
      modCore n (fun c => { c with winWait := c.winWait.filter (fun w => w.bank != b) })
      each (c.winWait.filter (fun w => w.bank = b)) (winServe n)
    | .refused => do
      modCore n (fun c => { c with
        winWait := c.winWait.filter (fun w => w.bank != b)
        bankWaits := c.bankWaits.filter (fun w => w.bank != b) })
      each (c.winWait.filter (fun w => w.bank = b)) (winRefuse n)
      each (c.bankWaits.filter (fun w => w.bank = b)) (unitRefuse n))

/-- The window accesses and the writes to the Mule that wait in a core when its reset is taken are refused (Table 15.7). -/
def refuseWaiting (n : Nat) : M Unit := do
  let s ← getS
  let g := (coreGen s n + 1) % 65536
  let c := theCore s n
  let reply (addr : Nat) (ack : Option LinkReq) : M Unit := match ack with
    | some q => do
      bump RESET_REFUSALS_COUNT
      linkAnswer q 3 []
    | none => refuseAt addr g
  each c.winWait (fun w => reply w.addr w.ack)
  each c.mule.held (fun w => reply w.reg w.ack)
  modCore n (fun c => { c with winWait := [], mule := { c.mule with held := [] } })

/-! ## Power requests -/

def theTr (s : State) (n b : Nat) : BankTr := (theCore s n).banks.getD b .none
def modTr (n b : Nat) (f : BankTr → BankTr) : M Unit := modCore n (fun c => { c with banks := modNth c.banks b f })

/-- Set a bank's TARGET and STATE. -/
def bankSet (n b target state : Nat) : M Unit := do
  setFld (bankTarget n b) target
  setFld (bankState n b) state

/-- Begin to go down to a state. -/
def bankDown (n b t : Nat) : M Unit := do
  modTr n b (fun _ => ⟨true, t, none, false⟩)
  bankSet n b t 3

/-- Begin to wake from a state. -/
def bankWake (n b from' : Nat) : M Unit := do
  modTr n b (fun _ => ⟨true, from', none, false⟩)
  bankSet n b 0 4

/-- What a request for ON (0), RETENTION (1) or OFF (2) does to a bank (R232-R241, R702). -/
def bankTurn (n b t : Nat) : M Unit := do
  let s ← getS
  let st := fv s (bankState n b)
  let tr := theTr s n b
  if t ≥ 3 || (t = 0 && fb s (bankRetired n b)) then pure ()
  else if st = 0 then when' (t != 0) (bankDown n b t)
  else if st = 1 then
    if t = 0 then bankWake n b 1 else when' (t = 2) (bankDown n b 2)
  else if st = 2 then when' (t = 0) (bankWake n b 2)
  else if st = 3 then
    if t = 0 then
      modTr n b (fun x => { x with latched := some 0 })
      bankSet n b 0 5
    else bankDown n b (max tr.reach t)
  else if st = 4 then
    when' (t != 0) (do
      modTr n b (fun x => { x with latched := some t })
      bankSet n b t 6)
  else if st = 5 then when' (t != 0) (bankDown n b (max tr.reach t))
  else if t = 0 then
    modTr n b (fun x => { x with latched := none })
    bankSet n b 0 4
  else
    let l := max t (tr.latched.getD t)
    modTr n b (fun x => { x with latched := some l })
    setFld (bankTarget n b) l

/-- A request for ON (0), RETENTION (1) or OFF (2) reaches the core: what waits for the bank is judged again when the TARGET
changes (R237). -/
def bankRequest (n b t : Nat) : M Unit := do
  bankTurn n b t
  bankJudge n b

/-- A bank retires: OFF is requested, and requests for ON are ignored from then on (R242, R243). -/
def bankRetireNow (n b : Nat) : M Unit := do
  let s ← getS
  if !fb s (bankRetired n b) then
    setFld (bankRetired n b) 1
    bankRequest n b 2
    historyAdd 4 n b
    capUpdate

/-- A write of TARGET or of RETIRED (as 4); while the core is stopped for save or restore it takes effect later (R250). -/
def bankWriteReq (n b t : Nat) : M Unit := do
  let s ← getS
  if 2 ≤ (theCore s n).stopped then modCore n (fun c => { c with deferred := c.deferred ++ [(b, t)] })
  else if t = 4 then bankRetireNow n b
  else bankRequest n b t

/-- What was written while the core was stopped takes effect. -/
def bankDeferred (n : Nat) : M Unit := do
  let l := (theCore (← getS) n).deferred
  modCore n (fun c => { c with deferred := [] })
  each l (fun w => if w.2 = 4 then bankRetireNow n w.1 else bankRequest n w.1 w.2)

/-- BANK_POWER_REQUEST (R232): a write of TARGET. -/
def execBankPowerRequest (core : Fin 64) (bank : Fin 12) (target : Fin 4) (s : State) : Host.Outcome State Fault Refusal :=
  runM (atCore core (bankReg core bank) (bankWriteReq core bank target)) s

/-- BANK_RETIRE (R242). -/
def execBankRetire (core : Fin 64) (bank : Fin 12) (s : State) : Host.Outcome State Fault Refusal :=
  runM (atCore core (bankReg core bank) (bankWriteReq core bank 4)) s

/-- A wake completes: a bank that leaves OFF holds zeros (R231). -/
def bankAwake (n b : Nat) : M Unit := do
  when' ((theTr (← getS) n b).reach = 2) (clearBank n b)

/-- The end of a transition, and the start of a latched request (R232, R238, R240). -/
def bankArrive (n b : Nat) : M Unit := do
  let s ← getS
  let st := fv s (bankState n b)
  let tr := theTr s n b
  if st = 3 then
    when' (tr.reach = 2) (clearBank n b)
    modTr n b (fun _ => .none)
    setFld (bankState n b) tr.reach
  else if st = 5 then
    when' (tr.reach = 2) (clearBank n b)
    bankWake n b tr.reach
  else if st = 4 then
    bankAwake n b
    modTr n b (fun _ => .none)
    setFld (bankState n b) 0
  else if st = 6 then
    bankAwake n b
    bankDown n b (tr.latched.getD 1)

/-- A transition under way completes; what waits for the bank is served when it is ON (R235). -/
def bankComplete (n b : Nat) : M Unit := do
  bankArrive n b
  bankJudge n b

/-- BANK_TRANSITION_COMPLETE (R232). -/
def execBankTransitionComplete (core : Fin 64) (bank : Fin 12) (s : State) : Host.Outcome State Fault Refusal :=
  runM (bankComplete core bank) s

/-! ## The SRAM window -/

/-- The bank and bank offset of a window offset. -/
def winBank (off : Nat) : Nat × Nat :=
  if off < 0x800000 then (off / 0x200000, off % 0x200000) else (4 + (off / 0x40000 - 0x20), off % 0x40000)

/-- An access to a bank (R211, R223, R235, R236); one to a bank that wakes waits until it is ON or its TARGET changes. The
bank of its first byte judges it whole (log 47, DESIGN CHOICE). A bank that a restore left OFF holds zeros and is read as it
is until it is woken (R248 over R236: log 32, DEDUCED). -/
def winBankAccess (n : Nat) (w : WinReq) : M Unit := do
  let s ← getS
  match bankGate s n w.bank with
  | .refused => if w.data.isNone && (theTr s n w.bank).left then winServe n w else winRefuse n w
  | .waits => modCore n (fun c => { c with winWait := c.winWait ++ [w] })
  | .on => winServe n w

/-- Whether a byte of a core's window is closed now: the state area beyond the Collies' memories, unless the core is
stopped (R247). -/
def winShut (s : State) (n off : Nat) : Bool :=
  decide (0xA20000 ≤ off) && decide (off < 0xA40000) && decide ((theCore s n).stopped < 2)

/-- What a write leaves in bytes of the window beyond the banks. -/
def winPut (s : State) (n off : Nat) (bs : List Byte) : List Byte :=
  bs.zipIdx.map (fun b => if winShut s n (off + b.2) then (rawBytes s (winBase n + off + b.2) 1).headD 0 else b.1)

/-- What a read of bytes of the window beyond the banks returns. -/
def winGet (s : State) (n off len : Nat) : List Byte :=
  (rawBytes s (winBase n + off) len).zipIdx.map (fun b => if winShut s n (off + b.2) then 0 else b.1)

/-- An access within a core's window; `ack` is the die link's request that waits for its reply. Its first byte says what part
of the window it meets (log 47, DESIGN CHOICE). -/
def winAccess (who : Who) (n off addr len : Nat) (data : Option (List Byte)) (ack : Option LinkReq) : M Unit := do
  let s ← getS
  let plain : M Unit := match data with
    | some bs => setMem (winBase n + off) (winPut s n off bs)
    | none => winAnswer who addr (winGet s n off len) false
  if coreResetting s n then refuseAt addr ((coreGen s n + 1) % 65536)
  else if off < 0xA00000 then
    let b := winBank off
    winBankAccess n ⟨who, addr, b.1, b.2, len, data, ack⟩
  else if off < 0xA40000 then plain
  else if off < 0xA60000 then
    match who, data with
    | .collie _, some _ => notDone who addr 1 3 0xFFFF
    | _, _ => plain
  else notDone who addr 1 0 0xFFFF

/-- SRAM_WINDOW_ACCESS (R208): `data` is written, or `len` bytes are read. A reserved address is not performed (R7); one of
another part of the address map is no access of this row and reaches nothing. -/
def execSramWindowAccess (who : Who) (addr len : Nat) (data : Option (List Byte)) (s : State) :
    Host.Outcome State Fault Refusal := runT (do
  let s ← getS
  match regionOf s.part addr with
  | .sram n off => winAccess who n off addr len data none
  | .reserved => notDone who addr 1 0 0xFFFF
  | _ => pure ()) s

end Sys2Proof.Machine
end

