-- ==== Sys2Proof/Machine/Rosters.lean ====
section
/-!
DEFINITION. Machine/Rosters.lean: rosters in context memory (R322-R332, R338): sampling PUB, fetching heads, an entry's
states, TAKEN and DONE, and the pens (R314).
-/

namespace Sys2Proof.Machine

/-! ## Pens and modes -/

/-- The cores of pen k of a context in force (R314, R315). -/
def penCores (s : State) (c k : Nat) : List Nat :=
  let own := coresOf s c
  let pens := (theCtx s c).pens
  if k = 0 then own.filter (fun n => !pens.any (fun m => bit m n)) else own.filter (fun n => bit (pens.getD (k - 1) 0) n)

/-- The mask of a list of unit numbers. -/
def maskOf (l : List Nat) : Nat := l.foldl (fun m n => if bit m n then m else m + 2 ^ n) 0

/-- The fences that a core's next task finds (R96), and its mode then. -/
def nextFences (s : State) (n : Nat) : Nat := ((List.range 4).map (fun k => fv s (OX_CTRL_FENCE (4 * n + k)) * 2 ^ k)).sum
def nextMode (s : State) (n : Nat) : Nat := modeOf (nextFences s n)

/-- Whether a core has a CORE entry in the repair history (R618). -/
def coreDead (s : State) (n : Nat) : Bool := s.history.any (fun e => e.kind = 7 && e.unit = n && e.inForce)

/-! ## An entry's fields (Table 8.5) -/

def enPen (w : List Nat) : Nat := bits (w.getD 0 0) 56 2
def enBudget (w : List Nat) : Nat := bits (w.getD 1 0) 0 32
def enPrio (w : List Nat) : Nat := bits (w.getD 1 0) 32 8
def enOx4 (w : List Nat) : Bool := bit (w.getD 1 0) 40
def enHNeed (w : List Nat) : Nat := bits (w.getD 1 0) 41 4
def enDepDone (w : List Nat) : Nat := bits (w.getD 2 0) 0 32
def enDepRoster (w : List Nat) : Nat := bits (w.getD 2 0) 32 3
def enDepEn (w : List Nat) : Bool := bit (w.getD 2 0) 35

/-- A reserved field of an entry, or PROG[6:0], is not 0. -/
def entryRsvd (w : List Nat) : Bool :=
  bits (w.getD 0 0) 0 7 != 0 || bits (w.getD 0 0) 58 6 != 0 || bits (w.getD 1 0) 45 3 != 0 || bits (w.getD 2 0) 36 28 != 0
    || w.getD 5 0 != 0 || w.getD 6 0 != 0 || bits (w.getD 7 0) 10 6 != 0

/-- Whether a core meets an entry's OX4 and H_NEED. -/
def coreMeets (s : State) (n : Nat) (w : List Nat) : Bool :=
  let m := nextMode s n
  m != 3 && !coreDead s n && (!enOx4 w || m = 0) && (List.range 4).all (fun b => !bit (enHNeed w) b || !fb s (bankRetired n b))

/-- Whether a core meets an entry's OX4 and H_NEED in its capability record (Table 8.7). -/
def capMeets (s : State) (n : Nat) (w : List Nat) : Bool :=
  (!enOx4 w || coreMode s n = 0) && (List.range 4).all (fun b => !bit (enHNeed w) b || !fb s (bankRetired n b))

/-! ## A roster in memory (Table 8.4) -/

def theRoster (s : State) (c r : Nat) : Roster := (theCtx s c).rosters.getD r .idle
def modRoster (c r : Nat) (f : Roster → Roster) : M Unit := modCtx c (fun x => { x with rosters := modNth x.rosters r f })

def rosSize (s : State) (c r : Nat) : Nat := 2 ^ fv s (CTX_ROSTER_LOG2_SIZE c r)
def rosBase (s : State) (c r : Nat) : Nat := fv s (CTX_ROSTER_BASE c r) * 1024
/-- LOG2_SIZE from 4 to 16; another value acts as EN = 0. -/
def rosSizeOk (s : State) (c r : Nat) : Bool :=
  decide (4 ≤ fv s (CTX_ROSTER_LOG2_SIZE c r)) && decide (fv s (CTX_ROSTER_LOG2_SIZE c r) ≤ 16)
def rosOn (s : State) (c r : Nat) : Bool := (theRoster s c r).en && rosSizeOk s c r
def rosEntry (s : State) (c r i : Nat) : Nat := rosBase s c r + 0x400 + 64 * (i % rosSize s c r)

/-- Write the words that a reset of the context left, in order, through the tables they went through, until one is held
(R330, R661). -/
def flushOwed (c : Nat) : List (Nat × Nat × Nat) → M Unit
  | [] => do
    modCtx c (fun x => { x with owed := [] })
    fenceOf reqDisp
  | (pt, va, v) :: rest => do
    let a := dispAcc c
    let r ← (do
      match ← level0 a pt va with
      | (_, some w) => return some w
      | (b1, none) =>
        match ← walkFrom a va true b1 with
        | (.ok x, _) => writeXl a x va (clean (natLe 8 v))
        | (.stop w, _) => return some w)
    match r with
    | some (.hold _) => modCtx c (fun x => { x with owed := (pt, va, v) :: rest })
    | _ => flushOwed c rest

/-- Write the words that wait, in order, until one is held; a write that is not performed faults the context. -/
def flushRoster (c r : Nat) : List (Nat × Nat) → M Unit
  | [] => do
    modRoster c r (fun x => { x with writes := [] })
    fenceOf reqDisp
  | (a, v) :: rest => do
    match ← ctxWrite (dispAcc c) a (clean (natLe 8 v)) with
    | some (.hold w) =>
      noteWait c w
      modRoster c r (fun x => { x with writes := (a, v) :: rest })
    | some w =>
      faultFor (dispAcc c) w
      flushRoster c r rest
    | none => flushRoster c r rest

/-- Write a word of a roster after the words before it (R330). -/
def rosterPut (c r a v : Nat) : M Unit := do
  let ws := (theRoster (← getS) c r).writes
  flushRoster c r (ws ++ [(a, v)])

/-- Write an entry's word 7: its state, its core and this tick. -/
def rosterState (c r i st core : Nat) : M Unit := do
  let s ← getS
  rosterPut c r (rosEntry s c r i + 56) (st + core * 16 + s.tick % 2 ^ 48 * 2 ^ 16)

/-- An entry reaches a final state: word 7, then DONE past every leading final entry (R330, R338). -/
def rosterFinal (c r i st : Nat) : M Unit := do
  let s ← getS
  let x := theRoster s c r
  rosterState c r i st ((x.placed.find? (fun p => p.1 = i)).getD (0, 0)).2
  let fin := x.final ++ [i]
  let d := advance fin.length x.done fin
  modRoster c r (fun x => { x with
    placed := x.placed.filter (fun p => p.1 != i), done := d, final := fin.filter (fun j => decide (d ≤ j)) })
  when' (d != x.done) (rosterPut c r (rosBase s c r + 0x200) d)

/-! ## Sampling (R323-R328) -/

/-- Read an 8-byte counter of a roster; what stops it but a wait faults the context (R332, Table 11.3). -/
def rosterGet (c r va : Nat) : M (Option Nat) := do
  match ← ctxRead (dispAcc c) va 8 with
  | .error w =>
    faultFor (dispAcc c) w
    return none
  | .ok bs =>
    if bs.any Prod.snd then
      setReg (CTX_ROSTER_FAULT c) (2 + 16 * r)
      faultCtxAs c 7 5 0xFFFF 0 va 0
      return none
    else return some (leNat (bs.map Prod.fst))

/-- A fault of an entry or a counter (Table 8.7). -/
def rosterFault (c r code : Nat) : M Unit := do
  setReg (CTX_ROSTER_FAULT c) (code + 16 * r)
  faultCtxAs c 6 code 0xFFFF 0 0 0

/-- TAKEN and DONE are read where the roster's geometry is new, and TAKEN is the last PUB (R328). -/
def rosterFresh (c r : Nat) : M Unit := do
  let s ← getS
  if (theRoster s c r).fresh then
    match ← rosterGet c r (rosBase s c r + 0x100) with
    | none => pure ()
    | some t =>
      match ← rosterGet c r (rosBase s c r + 0x200) with
      | none => pure ()
      | some d => modRoster c r (fun x => { x with
          taken := t, done := d, pub := t, pubOld := t, pubTick := s.tick, fresh := false, final := [], head := none })

/-- A control event of a rank is taken at this tick; the second rank of a tick is counted in SAME_TICK. -/
def noteRank (k : Nat) : M Unit := do
  let l := (← getS).time.ranks
  if !l.contains k then
    when' (l.length = 1) (bump TIME_SAME_TICK_COUNT)
    modTime (fun t => { t with ranks := k :: l })

/-- Whether PUB is sampled: in a RUNNING or HELD context, and at the SAVE tick (R323, Table 8.9). -/
def samples (s : State) (c : Nat) : Bool :=
  ctxState s c = 1 || ctxState s c = 2 || (ctxState s c = 3 && (theCtx s c).save.elim false (fun o => decide (o.tick = s.tick)))

/-- The dispatcher's read of PUB returns (R323, R325, R326). -/
def rosterSample (c r : Nat) : M Unit := do
  let s ← getS
  if rosOn s c r && samples s c then
    rosterFresh c r
    let s ← getS
    if !(theRoster s c r).fresh then
      match ← rosterGet c r (rosBase s c r) with
      | none => pure ()
      | some p =>
        let x := theRoster s c r
        if p < x.pub || x.done + rosSize s c r < p then rosterFault c r 1
        else if x.pub < p then
          noteRank 7
          modRoster c r (fun x => { x with
            pub := p, pubTick := s.tick, pubOld := if x.pubTick < s.tick then x.pub else x.pubOld })

/-- ROSTER_PUB_SAMPLE (R323). -/
def execRosterPubSample (ctx : Fin 16) (roster : Fin 8) (errs : List LineErr) (s : State) :
    Host.Outcome State Fault Refusal := runT (withErrs errs (rosterSample ctx roster)) s

/-- No head of a context has been ready since it began to run (R333, R335). -/
def unready (c : Nat) : M Unit := modCtx c (fun x => { x with
  rosters := x.rosters.map (fun r => { r with head := r.head.map (fun h => { h with readyAt := none }) }) })

/-! ## Fetching (R332) -/

/-- The first condition of Table 8.7 that an entry meets. -/
def entryFault (s : State) (c : Nat) (w : List Nat) : Option Nat :=
  if entryRsvd w then some 3
  else if penCores s c (enPen w) = [] then some 4
  else if enDepEn w && !rosOn s c (enDepRoster w) then some 5
  else if !(penCores s c (enPen w)).any (fun n => capMeets s n w) then some 6
  else none

/-- The dispatcher fetches the head of a roster. -/
def fetchHead (c r : Nat) : M Unit := do
  let s ← getS
  let x := theRoster s c r
  if rosOn s c r && (ctxState s c = 1 || ctxState s c = 2) && !x.fresh && x.head.isNone && decide (x.taken < x.pub) then
    let va := rosEntry s c r x.taken
    match ← ctxRead (dispAcc c) va 64 with
    | .error w => faultFor (dispAcc c) w
    | .ok bs =>
      if bs.any Prod.snd then
        setReg (CTX_ROSTER_FAULT c) (2 + 16 * r)
        faultCtxAs c 7 5 0xFFFF 0 va 0
      else
        let w := (chunks 8 64 (bs.map Prod.fst)).map leNat
        match entryFault s c w with
        | some code => rosterFault c r code
        | none => modRoster c r (fun x => { x with head := some ⟨x.taken, w, none⟩ })

/-- ENTRY_FETCH (R332). -/
def execEntryFetch (ctx : Fin 16) (roster : Fin 8) (errs : List LineErr) (s : State) :
    Host.Outcome State Fault Refusal := runT (withErrs errs (fetchHead ctx roster)) s

/-! ## The end of a task -/

/-- A core's task leaves it with its entry in a final state (Table 8.6). -/
def endTask (n st : Nat) : M Unit := do
  match (theCore (← getS) n).task with
  | none => pure ()
  | some t =>
    modCore n (fun c => { c with task := none })
    setFld (CORE_TASK_INFO_VALID n) 0
    rosterFinal t.ctx t.roster t.entry st

/-- Entries of a context that are PLACED, by roster, with their cores. -/
def placedOf (s : State) (c : Nat) : List (Nat × Nat × Nat) :=
  (List.range 8).flatMap (fun r => (theRoster s c r).placed.map (fun p => (r, p)))

/-- The completion of a core's task is taken (R338): its entry is DONE, DONE advances, and the core is free. -/
def completeTask (n : Nat) : M Unit := do
  match (theCore (← getS) n).task with
  | none => pure ()
  | some t =>
    if t.ended then
      fenceOf n
      endTask n 2
      bump (CTX_COMPLETED_COUNT t.ctx)
      bump DISP_SENT_COUNT_COUNT

end Sys2Proof.Machine
end

