-- ==== Sys2Proof/Machine/Recover.lean ====
section
/-!
DEFINITION. Machine/Recover.lean: what a context's fault does (R646-R648), what a reset covers, clears and returns to its
reset values (R653-R660), hangs (R639-R645), escalations and refusals (R657, R661, R662).
-/

namespace Sys2Proof.Machine

/-! ## What a reset covers (Table 15.4) -/

/-- The die of a stack (R361). -/
def dieOfStack (i : Nat) : Nat := if i < 4 || i = 8 || i = 9 then 0 else 1

/-- Whether a reset under way covers a unit of a domain. -/
def ResetOp.covers (op : ResetOp) (d u : Nat) : Bool :=
  op.domain = 8 || (op.domain = d && op.unit = u)
    || (op.domain = 7 && ((d = 2 && u / 32 = op.unit) || (d = 1 && u / 128 = op.unit) || (d = 6 && dieOfStack u = op.unit)))
    || (op.domain = 5 && d = 4 && u / 8 = op.unit)
    || (op.domain = 3 && ((d = 2 && op.cores.contains u) || (d = 1 && op.cores.contains (u / 4))))
    || (op.domain = 2 && d = 1 && u / 4 = op.unit)

/-- Whether the assembly has a unit of a domain (R658). -/
def unitOk (p : Part) (d u : Nat) : Bool :=
  (d = 1 && decide (u < 256)) || (d = 2 && decide (u < 64)) || (d = 3 && decide (u < 16)) || (d = 4 && decide (u < p.ports))
    || (d = 5 && decide (u < p.iods)) || (d = 6 && decide (u < p.nStacks)) || (d = 7 && decide (u < 2)) || d = 8

/-- Every unit of the assembly, by domain. -/
def allUnits (p : Part) : List (Nat × Nat) :=
  (List.range 9).flatMap (fun d => ((List.range (if d = 8 then 1 else 256)).filter (unitOk p d)).map (fun u => (d, u)))

/-- The units that a reset covers. -/
def ResetOp.units (p : Part) (op : ResetOp) : List (Nat × Nat) := (allUnits p).filter (fun x => op.covers x.1 x.2)

/-- RESETTING of a unit's generation register. -/
def resettingFld (d u : Nat) : Fld := { genFld d u with lo := 16, w := 1 }

/-- The cores a reset of a domain covers. -/
def resetCores (s : State) (d u : Nat) : List Nat :=
  if d = 2 then [u] else if d = 3 then coresOf s u else if d = 7 then (List.range 32).map (· + 32 * u) else []

/-! ## What a reset does to each unit (Tables 15.4, 15.5, 15.7) -/

/-- The registers of OX_k that its reset returns: all but CTRL, REPAIR and those of Table 11.10. -/
def oxRegsReset (o a : Nat) : Bool :=
  let b := OX_PASS_W0 o
  decide (b ≤ a) && decide (a < b + 0x8000) && a != b + 0x24 && a != b + 0x28 && !(decide (b + 0x48 ≤ a) && decide (a < b + 0x60))

/-- The registers of CORE_n that its reset returns: all but HPWR, APWR, RESTRICT, TJ and THROTTLE_CYCLES. -/
def coreRegsReset (n a : Nat) : Bool :=
  let b := 0xF00001000000 + n * 0x40000
  decide (b ≤ a) && decide (a < b + 0x20000) && !(decide (b + 0x3000 ≤ a) && decide (a < b + 0x3030))
    && !(decide (b + 0x7100 ≤ a) && decide (a < b + 0x710C))

def ctxRegs' (c a : Nat) : Bool := decide (0xF00000100000 + c * 0x10000 ≤ a) && decide (a < 0xF00000110000 + c * 0x10000)

/-- One Ox (R89, R654). -/
def resetOxNow (o : Nat) : M Unit := do
  clearOx o
  resetWhere (oxRegsReset o)

/-- A core: its Oxen, Yoke, Mule, stations, cached translations and images; its banks stay as they are, and power requests
that waited for a save or a restore to complete are dropped with it (R207, R250, R256, R308, R552; log 24, DEDUCED). -/
def resetCoreNow (n : Nat) : M Unit := do
  refuseWaiting n
  each (List.range 4) (fun k => do
    modOx (4 * n + k) (fun _ => Ox.idle)
    resetWhere (oxRegsReset (4 * n + k)))
  dropImages n
  modCore n (fun c => { CoreSt.idle with
    task := c.task, banks := c.banks, fence := c.fence, modeF := c.fence, hot := c.hot, reload := c.reload })
  resetWhere (coreRegsReset n)

/-- Place every bank of a core that is not retired in ON with nothing in it (R257, R316). -/
def banksFresh (n : Nat) : M Unit := do
  each (List.range 12) (fun b => do
    if !fb (← getS) (bankRetired n b) then
      clearBank n b
      bankSet n b 0 0
      modTr n b (fun _ => .none))

/-- Clear a core (R316): its banks, Collie data memories and core state area hold nothing, its bindings are released. Writes
held for the Mule take effect first, and window accesses that waited for a bank are judged. -/
def clearCore (n : Nat) : M Unit := do
  muleTileDone n
  banksFresh n
  let lo := winBase n + 0xA00000
  clearMem (fun a => decide (lo ≤ a) && decide (a < lo + 0x40000))
  each (List.range 4) (fun k => modOx (4 * n + k) (fun _ => Ox.idle))
  modCore n (fun c => { CoreSt.idle with
    sent := c.sent, deferred := c.deferred, fence := c.fence, modeF := c.modeF, hot := c.hot, reload := c.reload
    winWait := c.winWait })
  setReg (CORE_HBIND n) 0
  let b := 0xF00001000000 + n * 0x40000
  resetWhere (fun a => decide (b + 0x4000 ≤ a) && decide (a < b + 0x20000) && !(decide (b + 0x7000 ≤ a) && decide (a < b + 0x8000)))
  each (List.range 16) (fun h => setReg (CORE_HC n h) 0)
  each (List.range 16) (fun k => setReg (CORE_NEXT_TILE n k) 0)
  setReg (CORE_STREAM_STATUS n) 0
  setFld (CORE_TASK_INFO_VALID n) 0
  each (List.range 12) (bankJudge n)
  bankDeferred n

/-- Clear every core of a context, and let it hold none (R316). -/
def clearCores (c : Nat) : M Unit := do
  each (coresOf (← getS) c) clearCore
  setReg (CTX_CORES c) 0
  each (List.range 3) (fun k => setReg (CTX_PEN c k) 0)
  modCtx c (fun x => { x with pens := [0, 0, 0] })

/-- A context's reset: its cores are reset and cleared, its registers, key, seal entries, slots and open requests go
(R359, R439, R489, R564, R596). Roster words that wait to be written stay due (R330). -/
def resetCtxNow (c : Nat) : M Unit := do
  let s ← getS
  let cs := coresOf s c
  each (List.range s.part.nStacks) (fun i => modStack i (fun k => { k with
    turned := k.turned.filter (fun t => t.write || t.ctx != some c) }))
  let words := (theCtx s c).rosters.flatMap (fun r => r.writes.map (fun w => (rg s (CTX_PT_BASE c), w.1, w.2)))
  each cs resetCoreNow
  each cs clearCore
  dropXlate (fun x => x.ctx = c)
  resetWhere (ctxRegs' c)
  modCtx c (fun x => { CtxSt.empty with owed := x.owed ++ words })

/-- A port goes to training; a swap is abandoned, and the retry buffer stays (R495, R498, R506). -/
def resetPortNow (p : Nat) : M Unit := do
  setReg (PORT_STATUS p) 0
  setFld (PORT_STATUS_STATE p) 1
  modPort p (fun x => { x with rxHold := false, rxSwap := none, txSwap := none, degraded := [], replayAt := none, replayN := 0 })

/-- An I/O die: its ports and CXL ports go to training, and what it holds is refused (Table 15.7). -/
def resetIodNow (i : Nat) : M Unit := do
  let s ← getS
  each ((List.range 8).map (· + 8 * i)) (fun p => do
    resetPortNow p
    modPort p (fun x => { x with retry := [], queue := [] }))
  each ((List.range 2).map (· + 2 * i)) (fun x => do
    setReg (CXL_STATUS x) 0
    setFld (CXL_STATUS_STATE x) 1
    let held := (theCxl s x).out
    bumpBy RESET_REFUSALS_COUNT (held.filter DeepAcc.polled).length
    each (held.filter (fun a => !a.polled)) (fun a => refuseAt a.va ((fv s (genFld 5 i) + 1) % 65536))
    modCxl x (fun c => { c with out := [] }))

/-- What a stack holds when its reset is taken: requests that it has accepted are served, and the rest are refused (R660,
R661, Table 15.7). -/
def endRequests (i : Nat) : M Unit := do
  let k := theStack (← getS) i
  each k.queue (fun q => do serveReq i (reqLine (← getS) i q) q)
  each k.waits (fun q => do refuseAt q.addr ((fv (← getS) (genFld 6 i) + 1) % 65536))
  modStack i (fun k => { k with queue := [], waits := [] })

/-- A stack: requests accepted and every buffer entry are completed, and it trains in self-refresh (R383, R393). -/
def resetStackNow (i : Nat) : M Unit := do
  endRequests i
  completeWhere i (fun _ => true)
  setReg (HBM_STATUS i) 0
  setFld (HBM_STATUS_STATE i) 3
  setReg (HBM_INFLIGHT i) 0
  setReg (HBM_MAINT_CMD i) 0
  setReg (HBM_MAINT_STATUS i) 0
  setReg (HBM_MAINT_ADDR i) 0
  setReg (HBM_MAINT_DATA i) 0
  modStack i (fun k => { k with wcb := [], served0 := [], served := [], mbist := [], toMaint := false })

/-- What a reset of a domain smaller than the device does. -/
def resetNow (d u : Nat) : M Unit := do
  let s ← getS
  if d = 1 then resetOxNow u
  else if d = 2 then resetCoreNow u
  else if d = 3 then resetCtxNow u
  else if d = 4 then resetPortNow u
  else if d = 5 then resetIodNow u
  else if d = 6 then resetStackNow u
  else if d = 7 then
    each (resetCores s 7 u) resetCoreNow
    each ((List.range s.part.nStacks).filter (fun i => dieOfStack i = u)) resetStackNow

/-- A reset taken now. -/
def ResetOp.now (s : State) (d u : Nat) : ResetOp := ⟨d, u, if d = 3 then coresOf s u else [], s.tick, 0, false⟩

/-- A reset begins: it absorbs what it covers, its units answer with refusals, and it acts (R653, R656, R660). -/
def beginReset (d u : Nat) : M Unit := do
  let s ← getS
  let op := ResetOp.now s d u
  let absorb (x : ResetOp) : Option ResetOp :=
    if op.covers x.domain x.unit then none else some { x with cores := x.cores.filter (fun n => !op.covers 2 n) }
  modResets (fun l => l.filterMap absorb ++ [op])
  setFld RESET_STATUS_BUSY 1
  each (op.units s.part) (fun x => setFld (resettingFld x.1 x.2) 1)
  resetNow d u
  when' (decide (4 ≤ d)) capUpdate

/-- Whether a reset under way covers a unit. -/
def inReset (s : State) (d u : Nat) : Bool := s.resets.any (fun op => op.covers d u)

/-- Reset a core for its context's fault (R646). -/
def faultReset (n : Nat) : M Unit := do
  if !inReset (← getS) 2 n then beginReset 2 n

/-! ## A context's fault (R646-R649) -/

/-- The cores of a context that a fault of it resets: those with a task, and those that stop or have stopped. -/
def coresToReset (s : State) (c : Nat) : List Nat :=
  coreNums.filter (fun n =>
    (match (theCore s n).task with | some t => t.ctx = c | none => false)
      || (decide (0 < (theCore s n).stopped) && (coresOf s c).contains n))

/-- The entry state of the task whose fault a record is (R645, R648, Table 8.6). -/
def ownState (t : Trouble) : Nat := if t.kind = 8 then 4 else if t.kind = 18 || t.kind = 14 && t.code = 4 then 5 else 3

/-- End every task of a context: the one of the record in its own state, the others ENDED. -/
def endTasks (c : Nat) (t : Trouble) : M Unit := do
  let s ← getS
  each (coreNums.filter (fun n => match (theCore s n).task with | some k => k.ctx = c | none => false))
    (fun n => endTask n (if n = t.core && t.task.isSome then ownState t else 7))
  each (placedOf (← getS) c) (fun p => rosterFinal c p.1 p.2.1 7)

/-- FAULT_INFO and FAULT_SEQ of a context that a record has made FAULTED. -/
def noteFault (c : Nat) (t : Trouble) (seq : Nat) : M Unit := do
  setReg (CTX_FAULT_INFO c) (t.kind + 256 * t.code + 2 ^ 16)
  setReg (CTX_FAULT_SEQ c) seq

/-- Whether a fault finds a context in a state that it ends. -/
def faultable (s : State) (c : Nat) : Bool := [1, 2, 3, 5].contains (ctxState s c)

/-- A context becomes FAULTED by a record of a given number; `resets`: its busy cores are reset. -/
def faultCtx (c : Nat) (t : Trouble) (seq : Nat) (resets : Bool) : M Unit := do
  let s ← getS
  let cs := coresToReset s c
  endTasks c t
  when' (ctxState s c = 3) (setReg (CTX_SAVE_STATUS c) (if t.kind = 14 && t.code = 3 then 3 else 4))
  setFld (CTX_STATE_STATE c) 6
  modCtx c (fun x => { x with save := none, restore := none })
  noteFault c t seq
  when' resets (each cs faultReset)

/-- Whether an event concerns a context (R36): a fault, an action or a request of it, or a task of it. -/
def concerns (s : State) (c : Nat) (e : Ev) : Bool :=
  match e.kind with
  | .fault t => t.ctx = c
  | .jobFault k _ => k = c
  | .taskDone n => ctxOfCore s n = some c
  | .hang n _ => ctxOfCore s n = some c
  | .refuseExpiry n _ => ctxOfCore s n = some c
  | .command k _ _ => k = c
  | .genSwitch k => k = c
  | .recompExpiry k _ => k = c
  | .recompAck k _ => k = c
  | .saveStop k => k = c
  | .saveDone k => k = c
  | .restoreDone k => k = c
  | .deepFail _ _ => e.ctx = some c
  | .turnedExpiry _ _ _ _ => e.ctx = some c
  | .e2eImage n _ _ => ctxOfCore s n = some c
  | _ => false

/-- Whether Table 8.2 allows a command in a state. -/
def cmdAllowed (code st : Nat) : Bool :=
  (code = 1 && (st = 0 || st = 2)) || (code = 2 && st = 1) || (code = 3 && (st = 1 || st = 2))
    || (code = 4 && (st = 4 || st = 0)) || (code = 5 && st != 0) || (code = 6 && (st = 1 || st = 2))

/-- Whether a command armed for this tick is refused in the state that a fault or a reset of its context leaves
(R36, R310, R675). -/
def refusesCmd (s : State) (c st : Nat) : Bool :=
  s.due.any (fun e => match e.kind with | .command k code _ => k = c && !cmdAllowed code st | _ => false)

/-- A fault is taken (R646, R647). -/
def takeFault (t : Trouble) : M Unit := do
  let s ← getS
  if t.ctx = 0xFF then note t
  else
    bump (CTX_FAULTS_COUNT t.ctx)
    when' (t.kind = 7) (bump (CTX_POISON_BITES_COUNT t.ctx))
    if faultable s t.ctx then
      let seq ← takeRecord t
      nameInRecord seq (← supersede (concerns s t.ctx))
      faultCtx t.ctx t seq true
      when' (refusesCmd s t.ctx 6) (flag (CTX_STATE_CMD_REJECT t.ctx))
    else note t

/-! ## Requests of a reset (R648, R655, R658) -/

/-- The tasks that a reset of a domain ends, by core, and the cores whose save or holding it ends. -/
def resetEnds (s : State) (d u : Nat) : List Nat :=
  if d = 1 then
    (if passesOn (theOx s u) && (theCore s (u / 4)).task.isSome then [u / 4] else [])
  else if d = 2 || d = 7 then
    (resetCores s d u).filter (fun n => (theCore s n).task.isSome || decide (0 < (theCore s n).stopped)
      || (match holderOf s n with | some c => ctxState s c = 3 || d = 7 | none => false))
  else []
where
  /-- Passes queued or running on an Ox. -/
  passesOn (x : Ox) : Bool := x.queue != [] || x.run.isSome || x.drain != []

/-- The records of the contexts that a reset faults: each names the task on the lowest of its cores. -/
def resetFaults (s : State) (d u : Nat) : List Trouble :=
  ctxNums.filterMap (fun c =>
    match (resetEnds s d u).find? (fun n => ctxOfCore s n = some c) with
    | some n =>
      let saving := ctxState s c = 3
      some (if saving then ⟨14, 4, c, n, 0xFFFF, taskRef s n, 0, 0, 0⟩ else ⟨18, 3, c, n, u, taskRef s n, d, 0, 0⟩)
    | none => none)

/-- Whether an event of the tick concerns a unit that a reset covers (R36); a SAVE concerns every core of its context (Table
8.9). -/
def ResetOp.concerns (s : State) (op : ResetOp) (e : Ev) : Bool :=
  match e.kind with
  | .taskDone n => op.covers 2 n
  | .hang n _ => op.covers 2 n
  | .refuseExpiry n _ => op.covers 2 n
  | .e2eImage n _ _ => op.covers 2 n
  | .deepFail x _ => op.covers 5 (x / 2) || (decide (e.unit < 64) && op.covers 2 e.unit)
  | .linkDown p => op.covers 4 p
  | .command c code _ => code = 3 && (coresOf s c).any (op.covers 2)
  | _ => false

/-- A reset of a domain smaller than the device is taken; one that a reset under way covers is counted. -/
def takeReset (d u : Nat) : M Unit := do
  let s ← getS
  if d = 0 || !unitOk s.part d u then flag RESET_STATUS_BAD_UNIT
  else if inReset s d u then bump RESET_COALESCED_COUNT
  else
    let ends := resetEnds s d u
    let faults := resetFaults s d u
    let op := ResetOp.now s d u
    let sup ← if d = 3 then supersede (fun e => concerns s u e || op.concerns s e) else pure (0, false)
    if d = 3 then
      each (coresOf s u) (fun n => endTask n 5)
      each (placedOf (← getS) u) (fun p => rosterFinal u p.1 p.2.1 5)
    else each ends (fun n => endTask n 5)
    beginReset d u
    each faults takeFault
    let sup ← if d = 3 then pure sup else supersede (op.concerns s)
    modResets (fun l => l.map (fun op => if op.domain = d && op.unit = u then { op with sup := sup.1, more := sup.2 } else op))
    when' (d = 3 && refusesCmd s u 0) (flag (CTX_STATE_CMD_REJECT u))
    when' (d = 1) (each ends faultReset)

/-- OX_RESET (R653). -/
def execOxReset (unit : Fin 512) (s : State) : Host.Outcome State Fault Refusal := runT (takeReset 1 unit) s
/-- CORE_RESET (R653). -/
def execCoreReset (unit : Fin 512) (s : State) : Host.Outcome State Fault Refusal := runT (takeReset 2 unit) s
/-- CONTEXT_RESET (R653). -/
def execContextReset (unit : Fin 512) (s : State) : Host.Outcome State Fault Refusal := runT (takeReset 3 unit) s
/-- PORT_RESET (R653). -/
def execPortReset (unit : Fin 512) (s : State) : Host.Outcome State Fault Refusal := runT (takeReset 4 unit) s
/-- IOD_RESET (R653). -/
def execIodReset (unit : Fin 512) (s : State) : Host.Outcome State Fault Refusal := runT (takeReset 5 unit) s
/-- STACK_RESET (R393). -/
def execStackReset (unit : Fin 512) (s : State) : Host.Outcome State Fault Refusal := runT (takeReset 6 unit) s
/-- DIE_RESET (R653). -/
def execDieReset (unit : Fin 512) (s : State) : Host.Outcome State Fault Refusal := runT (takeReset 7 unit) s

/-! ## Completion and escalation (R653, R657, R659) -/

/-- Whether a unit of a reset runs again, is absent, or is out of service. -/
def unitReady (s : State) (d u : Nat) : Bool :=
  if d = 4 then fv s (PORT_STATUS_STATE u) != 1
  else if d = 5 then ((List.range 2).map (· + 2 * u)).all (fun x => fv s (CXL_STATUS_STATE x) != 1)
  else if d = 6 then fv s (HBM_STATUS_STATE u) != 1 && fv s (HBM_STATUS_STATE u) != 3
  else if d = 8 then fv s CHAIN_START_PHASE = 9 || fv s CHAIN_START_MODE != 0
  else true

/-- A reset completes: generations advance once, RESETTING falls, and its record is written (R656, R659). -/
def completeReset (d u : Nat) : M Unit := do
  let s ← getS
  match s.resets.find? (fun op => op.domain = d && op.unit = u) with
  | none => pure ()
  | some op =>
    let us := op.units s.part
    if (if d = 8 then unitReady s 8 0 else us.all (fun x => unitReady s x.1 x.2)) then
      let rest := s.resets.filter (fun x => x != op)
      modResets (fun _ => rest)
      each (us.filter (fun x => !rest.any (fun y => y.covers x.1 x.2))) (fun x => do
        addMod (genFld x.1 x.2) 1
        setFld (resettingFld x.1 x.2) 0)
      setFld RESET_STATUS_BUSY (b2n (rest != []))
      let t : Trouble := ⟨18, 1, if d = 3 then u else 0xFF, if d = 2 then u else if d = 1 then u / 4 else 0xFF,
        if d = 8 then 0xFFFF else u, none, d, 0, 0⟩
      note t
      modTrPend (fun l => l.map (fun r => if r.t = t && r.sup = 0 then { r with sup := op.sup, more := op.more } else r))
      capUpdate

/-- RESET_COMPLETE (R659). -/
def execResetComplete (domain : Fin 9) (unit : Fin 512) (s : State) : Host.Outcome State Fault Refusal :=
  runT (completeReset domain unit) s

/-- The recovery time of a domain in ticks (Table 15.4). -/
def recoveryTicks (d : Nat) : Nat := [0, 20, 200, 1000, 300000, 800000, 1500000, 3000000, 6000000].getD d 0

/-- A reset's recovery time has passed (R657). -/
def resetLate (s : State) (op : ResetOp) : Bool := decide (op.since + recoveryTicks op.domain < s.tick)

/-- The domains that a late reset escalates to. -/
def escalatesTo (op : ResetOp) : List (Nat × Nat) :=
  if op.domain = 1 then [(2, op.unit / 4)]
  else if op.domain = 2 then [(7, op.unit / 32)]
  else if op.domain = 3 then (if op.cores.any (fun n => n < 32) then [(7, 0)] else []) ++ (if op.cores.any (fun n => 32 ≤ n) then [(7, 1)] else [])
  else if op.domain = 4 then [(5, op.unit / 8)]
  else if op.domain = 5 || op.domain = 7 then [(8, 0)]
  else if op.domain = 6 then [(7, dieOfStack op.unit)]
  else []

/-- A late reset escalates: its record is written, and the larger reset is taken, the device's at the next tick edge. -/
def escalateReset (d u : Nat) : M Unit := do
  let s ← getS
  match s.resets.find? (fun op => op.domain = d && op.unit = u && resetLate s op) with
  | none => pure ()
  | some op =>
    when' (escalatesTo op != []) (do
      note ⟨18, 2, if d = 3 then u else 0xFF, if d = 2 then u else if d = 1 then u / 4 else 0xFF, u, none, d, 0, 0⟩
      bump RESET_ESCALATIONS_COUNT
      flag RESET_STATUS_ESCALATED
      each (escalatesTo op) (fun x => if x.1 = 8 then requestReset 8 0 else takeReset x.1 x.2))

/-- RESET_ESCALATION (R657). -/
def execResetEscalation (domain : Fin 9) (unit : Fin 512) (s : State) : Host.Outcome State Fault Refusal :=
  runT (escalateReset domain unit) s

/-! ## Hangs (R639-R645) -/

/-- Whether a hold is a wait of Table 15.1 from its start: a deep access counts once it is late. -/
def HoldWhy.moves : HoldWhy → Bool
  | .deep _ => false
  | _ => true

/-- Whether a station of a core is held in a wait of Table 15.1. -/
def waitMoves (s : State) (n : Nat) : Bool :=
  (theCore s n).streams.any (fun x => x.state = 1 && x.held.any (fun h => h.why.moves))
    || s.cxls.any (fun e => e.2.out.any (fun a => a.req = n && a.late && !a.failed))

/-- The counter of a stream's first unmet wait, 0xFF where there is none. -/
def unmetHc (s : State) (n k : Nat) : Nat :=
  let x := theStream s n k
  let unmet (j : Nat) := !(dWait x.desc j).holds x.next (hcVal s n (dWait x.desc j).hc)
  if unmet 0 then (dWait x.desc 0).hc else if unmet 1 then (dWait x.desc 1).hc else 0xFF

/-- DETAIL of a hang's record: [7:0] the lowest slot still running, [39:8] its next tile, [47:40] the counter of its first
unmet wait (log 23, DESIGN CHOICE). -/
def hangDetail (s : State) (n : Nat) : Nat :=
  match (List.range 16).find? (fun k => (theStream s n k).state = 1) with
  | some k => k + (theStream s n k).next % 2 ^ 32 * 2 ^ 8 + unmetHc s n k * 2 ^ 40
  | none => 0xFF + 0xFF * 2 ^ 40

/-- The condition of R643 that a task meets at a window's close, if any: 1 budget, 2 stillness. -/
def hangCode (t : Task) (moved : Bool) : Option Nat :=
  let still := if moved then 0 else t.still + 1
  if t.budget != 0 && t.missed && !moved then some 1 else if 8 ≤ still then some 2 else none

/-- A hang is declared (R645). -/
def takeHang (n code : Nat) : M Unit := do
  let s ← getS
  match (theCore s n).task with
  | none => pure ()
  | some t =>
    bump RESET_HANGS_COUNT
    takeFault ⟨8, code, t.ctx, n, 0xFFFF, taskRef s n, 0, 0, hangDetail s n⟩

def modTask (n : Nat) (f : Task → Task) : M Unit := modCore n (fun c => { c with task := c.task.map f })

/-- Whether a core's task counts run ticks: its context is not being saved or restored (R347). -/
def taskRuns (s : State) (n : Nat) : Bool :=
  match (theCore s n).task with
  | some t => ctxState s t.ctx != 3 && ctxState s t.ctx != 5 && (theCore s n).stopped = 0
  | none => false

/-- A core's task reaches the close of a progress window: its stillness is counted and a new window opens at once (R38,
R641, R643). Answers the code of a hang. -/
def closeWindow (n : Nat) : M (Option Nat) := do
  let s ← getS
  match (theCore s n).task with
  | none => return none
  | some t =>
    if taskRuns s n && decide (t.winOpen + t.winLen ≤ t.run) then
      let still := if t.moved then 0 else min 8 (t.still + 1)
      modTask n (fun t => { t with
        winOpen := t.run, winLen := max 1 (fv s RESET_PROGRESS_WINDOW_TICKS), moved := false, still := still })
      setReg (CORE_STILL n) still
      return hangCode t t.moved
    else return none

/-- The tick at which a SAVE acts does not count in the run ticks of a core's task (R347). -/
def uncountTick (n : Nat) : M Unit := do
  match (theCore (← getS) n).task with
  | none => pure ()
  | some t =>
    modTask n (fun t => { t with run := t.run - 1, missed := t.budget != 0 && decide (t.budget < t.run - 1) })
    setReg (CORE_RUN_TICKS n) (min (t.run - 1) (2 ^ 32 - 1))

/-- HANG_DECLARATION (R643): the window that closes now is judged. -/
def execHangDeclaration (core : Fin 64) (s : State) : Host.Outcome State Fault Refusal := runT (do
  match ← closeWindow core with
  | some code => do
    noteRank 4
    takeHang core code
  | none => pure ()) s

/-! ## Refusals (R660-R662) -/

/-- The refusal that a requester on the device meets: the tile is held (R661). -/
def holdRefused (n k d u : Nat) : M Unit := do
  let s ← getS
  let x := theStream s n k
  if x.state = 1 && decide (x.next < dTiles x.desc) then
    when' (x.held = []) (bump RESET_REFUSALS_COUNT)
    noteTile n k x.next (.hold (.refused d u 0))

/-- REQUEST_REFUSED (R661): a unit in reset refuses the requests of a stream's next tile. -/
def execRequestRefused (core : Fin 64) (slot : Fin 16) (domain : Fin 9) (unit : Fin 512) (s : State) :
    Host.Outcome State Fault Refusal := runM (do
  when' (inReset (← getS) domain unit) (holdRefused core slot domain unit)) s

/-- A stream's tile that a refusal has held longer than REFUSE_LIMIT. -/
def refuseLate (s : State) (n k : Nat) : Option (HeldTile × Nat × Nat × Nat) :=
  (theStream s n k).held.findSome? (fun h => match h.why with
    | .refused d u a => if h.since + fv s RESET_REFUSE_LIMIT_TICKS < s.tick && !h.again then some (h, d, u, a) else none
    | _ => none)

/-- A request held too long fails: a LOAD's read is delivered poisoned, a write faults its context (R661). -/
def refuseExpires (n k : Nat) : M Unit := do
  let s ← getS
  match refuseLate s n k with
  | none => pure ()
  | some (_, d, u, a) =>
    flag RESET_STATUS_REFUSE_FAIL
    if dStation (theStream s n k).desc = stLoad then
      modStream n k (fun x => { x with held := x.held.map (fun h => { h with again := true }) })
    else takeFault (troubleOf s n 19 0 u d a 0)

/-- A unit's request that a stack has refused has been held longer than REFUSE_LIMIT. -/
def turnedLate (s : State) (t : Turned) : Bool := !t.failed && decide (t.since + fv s RESET_REFUSE_LIMIT_TICKS < s.tick)

/-- It fails: its requester takes a read poisoned, and a write faults the context it is for (R661). -/
def turnedExpires (st req line : Nat) (write : Bool) : M Unit := do
  let s ← getS
  match turnedOf s st req line write with
  | none => pure ()
  | some t =>
    if turnedLate s t then
      flag RESET_STATUS_REFUSE_FAIL
      modStack st (fun k => { k with turned := k.turned.map (fun x => if x = t then { x with failed := true } else x) })
      match t.ctx with
      | some c => when' write (takeFault ⟨19, 0, c, 0xFF, st, none, 6, t.va, 0⟩)
      | none => pure ()

/-- REFUSE_LIMIT_EXPIRY (R661). -/
def execRefuseLimitExpiry (core : Fin 64) (slot : Fin 16) (s : State) : Host.Outcome State Fault Refusal :=
  runT (refuseExpires core slot) s

/-- STALE_REPLY (R662): a reply that echoes a generation of its requester is discarded where the requester is being reset
or has another generation. -/
def execStaleReply (domain : Fin 9) (unit : Fin 512) (gen : Nat) (s : State) : Host.Outcome State Fault Refusal := runM (do
  let s ← getS
  when' (fb s (resettingFld domain unit) || fv s (genFld domain unit) != gen % 65536) (bump RESET_STALE_REPLIES_COUNT)) s

/-! ## Job faults (R669) -/

/-- A write of RAISE from the control die: the context faults at the next tick edge. -/
def jobFaultWrite (who : Who) (c origin : Nat) : M Unit := do
  if who = .controlDie then
    setFld (CTX_JOB_FAULT_ORIGIN c) origin
    latch ⟨3, 1, some c, 0, .jobFault c (origin % 2 ^ 18)⟩

/-- JOB_FAULT_RAISE (R669). -/
def execJobFaultRaise (who : Who) (ctx : Fin 16) (origin : Nat) (s : State) : Host.Outcome State Fault Refusal :=
  runM (jobFaultWrite who ctx origin) s

end Sys2Proof.Machine
end

