-- ==== Sys2Proof/Machine/Contexts.lean ====
section
/-!
DEFINITION. Machine/Contexts.lean: the commands of a context, its cores, pens and rosters, and saving, restoring and
killing it (08_dispatch_and_contexts.md; Tables 6.7, 7.8, 7.9, 8.8).
-/

namespace Sys2Proof.Machine

/-! ## Writes of a context's own registers (R312-R315, R327, R145) -/

/-- A write to CORES (0), PT_BASE (1) or SAVE_BASE (2). -/
def coresWrite (c which data : Nat) : M Unit := do
  let s ← getS
  let st := ctxState s c
  if st != 0 && st != 4 then flag (CTX_STATE_CFG_REJECT c)
  else if which = 0 then
    let taken := ctxNums.any (fun k => k != c && Nat.land (rg s (CTX_CORES k)) (data % 2 ^ 64) != 0)
    if taken then flag (CTX_STATE_CFG_REJECT c) else setReg (CTX_CORES c) data
  else if which = 1 then setReg (CTX_PT_BASE c) data
  else setReg (CTX_SAVE_BASE c) data

/-- CORES_WRITE (R312, R313). -/
def execCoresWrite (ctx : Fin 16) (which : Fin 3) (data : Nat) (s : State) : Host.Outcome State Fault Refusal :=
  runM (coresWrite ctx which data) s

/-- A write to PEN1 + k; it takes effect at the next tick edge (R314, R315). -/
def penWrite (c k data : Nat) : M Unit := do
  let s ← getS
  let own := rg s (CTX_CORES c)
  let others := (List.range 3).filter (fun j => j != k)
  if others.any (fun j => Nat.land (Nat.land (rg s (CTX_PEN c j)) own) (data % 2 ^ 64) != 0) then flag (CTX_STATE_CFG_REJECT c)
  else setReg (CTX_PEN c k) data

/-- PEN_WRITE (R315). -/
def execPenWrite (ctx : Fin 16) (pen : Fin 3) (data : Nat) (s : State) : Host.Outcome State Fault Refusal :=
  runM (penWrite ctx pen data) s

/-- A write to ROSTERr (R327); EN takes effect at the next tick edge. -/
def rosterCfgWrite (c r data : Nat) : M Unit := do
  let s ← getS
  let v := data % 2 ^ 64
  let moves := bits v 10 42 != fv s (CTX_ROSTER_BASE c r) || bits v 1 5 != fv s (CTX_ROSTER_LOG2_SIZE c r)
  if moves && (fb s (CTX_ROSTER_EN c r) || (theRoster s c r).placed != []) then flag (CTX_STATE_CFG_REJECT c)
  else
    setReg (CTX_ROSTER c r) v
    when' moves (modRoster c r (fun x => { x with fresh := true }))
    when' (bits v 1 5 < 4 || 16 < bits v 1 5) (flag (CTX_STATE_CFG_REJECT c))

/-- ROSTER_CFG_WRITE (R327). -/
def execRosterCfgWrite (ctx : Fin 16) (roster : Fin 8) (data : Nat) (s : State) : Host.Outcome State Fault Refusal :=
  runM (rosterCfgWrite ctx roster data) s

/-- The register of STEP (0), SR_SEED (1), STAT_BASE (2) or STAT_CFG (3). -/
def stepReg (c which : Nat) : Nat :=
  if which = 0 then CTX_STEP c else if which = 1 then CTX_SR_SEED c else if which = 2 then CTX_STAT_BASE c else CTX_STAT_CFG c

/-- A write to one of them; a SLOT_BITS outside 8-16 sets CFG_ERR (Table 4.10). -/
def stepWrite (c which data : Nat) : M Unit := do
  setReg (stepReg c which) data
  when' (which = 3 && (decide (bits data 4 5 < 8) || decide (16 < bits data 4 5))) (flag (CTX_STAT_STATUS_CFG_ERR c))

/-- CTX_STEP_PARAMS_WRITE (R145): the register holds the value at once; tasks see it from the next tick edge. -/
def execCtxStepParamsWrite (ctx : Fin 16) (which : Fin 4) (data : Nat) (s : State) : Host.Outcome State Fault Refusal :=
  runM (stepWrite ctx which data) s

/-! ## The core state area (Tables 6.7 and 7.9) -/

/-- Window address of a byte of the core state area of CORE_n. -/
def areaAt (n off : Nat) : Nat := winBase n + 0xA00000 + off

/-- Put bytes into the core state area. -/
def areaPut (n off : Nat) (bs : List Byte) : M Unit := setMem (areaAt n off) bs

/-- Bytes and a little-endian number of the core state area. -/
def areaGet (s : State) (n off len : Nat) : List Byte := rawBytes s (areaAt n off) len
def areaNat (s : State) (n off len : Nat) : Nat := leNat (areaGet s n off len)

/-- Set a bit of the core state area. -/
def areaBit (n off k : Nat) : M Unit := do
  let s ← getS
  areaPut n (off + k / 8) (natLe 1 (Nat.lor (areaNat s n (off + k / 8) 1) (2 ^ (k % 8))))

/-- The addresses in a range that carry a poison mark. -/
def poisonMarks (s : State) (lo len : Nat) : List Nat :=
  (s.syn.filter (fun e => decide (lo ≤ e.1) && decide (e.1 < lo + len) && e.2 = poisonSyn)).map Prod.fst

/-- The poison bits of the Hamper banks and of the accumulator banks. -/
def putPoison (n : Nat) : M Unit := do
  let s ← getS
  each (poisonMarks s (winBase n) 0x800000) (fun a => areaBit n 0x20000 (a % 0x1000000 / 32))
  each (poisonMarks s (winBase n + 0x800000) 0x200000) (fun a => areaBit n 0x28000 (a % 0x200000 / 4))

/-- The one partial vector that an open span of a slot is saved as: its tiles so far combined (R206; log 24, DEDUCED). -/
def spanPartial (p : Prog) (k : Nat) (tiles : List (List FpP)) : List FpP :=
  (columns (tiles.headD []).length tiles).map (fun l => pw (slotFunc p k) l)

/-- The Mule's part: programs, tables, open spans (R206). -/
def putMule (n : Nat) : M Unit := do
  let s ← getS
  let m := (theCore s n).mule
  let p := muleProg s n m.prog
  areaPut n 0x38000 ((List.range 1024).flatMap (fun w => natLe 8 (rg s (CORE_PROG n w))))
  each (List.range 4) (fun k => do
    areaPut n (0x3A000 + 3088 * k) ((List.range 386).flatMap (fun w => natLe 8 (rg s (tblReg n k w))))
    let tiles := m.parts.getD k []
    let v := spanPartial p k tiles
    areaPut n (0x3D040 + 2048 * k) (v.flatMap (fun x => natLe 4 x.v))
    areaPut n (0x3F440 + 80 * k)
      (natLe 64 (v.zipIdx.map (fun x => b2n x.1.poison * 2 ^ x.2)).sum ++ natLe 4 tiles.length))

/-- The draw counters of A7 (R165). -/
def putDraws (n : Nat) : M Unit := do
  let s ← getS
  areaPut n 0x3F040 ((List.range 512).flatMap (fun j => natLe 2 (mget (fun _ => 0) s.draw (512 * n + j))))

/-- A pass descriptor as Table 2.2 lays it out. -/
def PassD.bytes (d : PassD) : List Byte := natLe 8 d.w0 ++ natLe 8 d.w1 ++ natLe 8 d.w2 ++ natLe 8 d.w3

/-- The pass queues and the live-tile records. -/
def putPasses (n : Nat) : M Unit := do
  let s ← getS
  each (List.range 4) (fun k => do
    let x := theOx s (4 * n + k)
    areaPut n (0x3F580 + 128 * k) (x.queue.flatMap (fun q => q.d.bytes))
    areaPut n (0x3F780 + 32 * k) x.liveRec.bytes)

/-- The banks' power states and the bindings. -/
def putBanks (n : Nat) : M Unit := do
  let s ← getS
  areaPut n 0x3F800 ((List.range 12).map (fun b =>
      BitVec.ofNat 8 (fv s (bankTarget n b) + 4 * fv s (bankState n b) + 16 * fv s (bankRetired n b)))
    ++ (List.range 4).map (fun b => BitVec.ofNat 8 (bindOf s n b)))

/-- The tile at which a stream resumes: YOKE and RECV start again what they have not completed (R305, Table 7.8). -/
def resumeTile (x : Stream) : Nat :=
  if dStation x.desc = stYoke || dStation x.desc = stRecv then x.done0 else x.next

/-- The 32 B of progress of a slot (Table 7.9); no hand-off: all ones (log 24, DEDUCED). -/
def slotProgress (s : State) (n k : Nat) : List Byte :=
  let c := theCore s n
  let st := dStation (theStream s n k).desc
  if st = stMule then natLe 4 ((c.mule.parts.map List.length).foldl max 0) ++ natLe 28 0
  else if st = stCollie then
    let q := (c.hand0 ++ c.hand1).filter (fun h => h.slot = k && !h.taken)
    (List.range 8).flatMap (fun i => natLe 4 ((q[i]?).elim 0xFFFFFFFF Handoff.tile))
  else natLe 32 0

/-- The station state (Table 7.9). -/
def putStations (n : Nat) : M Unit := do
  let s ← getS
  areaPut n 0x3F840 ((List.range 16).flatMap (fun h => natLe 4 (rg s (CORE_HC n h))))
  each (List.range 16) (fun k => do
    let x := theStream s n k
    areaPut n (0x3F880 + 64 * k) (natLe 8 x.addr ++ natLe 4 (resumeTile x) ++ natLe 4 x.done0 ++ natLe 4 x.done1
      ++ natLe 4 x.fills ++ natLe 1 x.state ++ natLe 3 0 ++ slotProgress s n k))
  match (slotsOf s n stYoke).head? with
  | some k =>
    let x := theStream s n k
    areaPut n 0x3FC80 (natLe 2 (yokeSeg x.desc (resumeTile x)))
  | none => pure ()

/-- The core state area as the stopped core holds it (R246). -/
def putArea (n : Nat) : M Unit := do
  let lo := areaAt n 0x20000
  clearMem (fun a => decide (lo ≤ a) && decide (a < lo + 0x20000))
  putPoison n
  putMule n
  putDraws n
  putPasses n
  putBanks n
  putStations n

/-! ## Stopping a core for save (R304, R205, R250) -/

/-- An event of a stream that has occurred is not recorded yet. -/
def eventDue (s : State) (n k : Nat) : Bool :=
  let x := theStream s n k
  let has (ev : Bool) : Bool := decide (nextEvent x ev < x.next) && (if ev then event1 s n k (nextEvent x ev) else event0 s n k (nextEvent x ev))
  x.state = 1 && (has false || ((hasEvent1 x.desc || dStation x.desc = stOx) && has true))

/-- Whether a station stands at its stop point (Table 7.8). -/
def stationStopped (s : State) (n k : Nat) : Bool :=
  let x := theStream s n k
  let st := dStation x.desc
  x.state != 1
    || (!eventDue s n k
      && (if [stLoad, stDrain, stMule, stReduce, stStore, stSend, stTrail].contains st then
            decide (x.next ≤ x.done0) && (!hasEvent1 x.desc || decide (x.next ≤ x.done1))
          else true))

/-- Whether the drains have delivered every row of the Mule's next tile. -/
def muleFed (s : State) (n : Nat) : Bool :=
  match slotsOf s n stMule with
  | k :: _ =>
    let x := theStream s n k
    (muleD s n k).drain && x.state = 1 && decide (x.next < dTiles x.desc) && (muleD s n k).fed s n
  | [] => false

/-- Whether every begun work of a stopping core is done (Table 7.8, R154, R205). -/
def stopReady (s : State) (n : Nat) : Bool :=
  let c := theCore s n
  c.sent.isNone && c.issue.isNone && c.mule.busy.isNone && c.mule.closed.isEmpty && c.trailQ.isEmpty && c.statDue.isEmpty
    && !muleFed s n
    && (List.range 4).all (fun k =>
      let x := theOx s (4 * n + k)
      x.run.isNone && x.drain.isEmpty && x.lag.isEmpty && !x.queue.any QPass.loaded)
    && s.fab.recvs.all (fun r => r.core != n || r.dead || r.data.isEmpty)
    && (List.range 16).all (stationStopped s n)
    && (List.range 12).all (fun b => decide (fv s (bankState n b) ≤ 2))

/-- A core stands: its memory is visible, and its state area holds what it holds. -/
def standCore (n : Nat) : M Unit := do
  fenceOf n
  putArea n
  modFab (fun f => { f with recvs := f.recvs.filter (fun r => r.core != n || r.dead) })
  modCore n (fun c => { c with stopped := 2, segs := [] })
  setFld (CORE_STREAM_STATUS_STOPPED n) 1
  setFld (CORE_MULE_STATUS_STATE n) 3

/-! ## Save (R343-R346) -/

/-- The context address of the save area, and of slot k's image. -/
def saveBase (s : State) (c : Nat) : Nat := fv s (CTX_SAVE_BASE_BASE c) * page2M
def slotBase (s : State) (c k : Nat) : Nat := saveBase s c + 0x200000 + k * 0xA40000

/-- The accesses of a core's save and restore copies (Tables 9.5 and 9.6). -/
def copyAcc (n c : Nat) : CtxAcc := ⟨n, some n, c, 1, none⟩

/-- Write runs of bytes by context address, in order; the first stop is the answer. -/
def putAll (a : CtxAcc) : List (Nat × List Byte) → M (Option Stop)
  | [] => pure none
  | (va, bs) :: rest => do
    match ← ctxWrite a va (clean bs) with
    | some w => return some w
    | none => putAll a rest

/-- The regions of a core's window that an image holds: its banks that are not OFF, and the state area (R245, R248). -/
def imageParts (banks : List Nat) : List (Nat × Nat) := banks.map (fun b => (bankOff b, bankBytes b)) ++ [(0xA00000, 0x40000)]

/-- The banks of a core that are not OFF. -/
def banksOn (s : State) (n : Nat) : List Nat := (List.range 12).filter (fun b => fv s (bankState n b) != 2)

/-- Copy a stopped core's image to its slot (R343); what stops the copy faults the context (R346), and a wait leaves it to
be made later. -/
def copyImage (n c k : Nat) : M Unit := do
  let s ← getS
  let base := slotBase s c k
  match ← putAll (copyAcc n c) ((imageParts (banksOn s n)).map (fun p => (base + p.1, rawBytes s (winBase n + p.1) p.2))) with
  | some w => faultFor (copyAcc n c) w
  | none =>
    fenceOf n
    modCtx c (fun x => { x with save := x.save.map (fun o => { o with copied := o.copied ++ [n] }) })

/-- FLAGS.VALID = 0 is written first (R343). -/
def saveBegins (c : Nat) : M Unit := do
  let s ← getS
  match ← ctxWrite (dispAcc c) (saveBase s c + 4) (clean (natLe 4 0)) with
  | some w => faultFor (dispAcc c) w
  | none =>
    fenceOf reqDisp
    modCtx c (fun x => { x with save := x.save.map (fun o => { o with begun := true }) })

/-- The values of the header that are taken when SAVE acts. -/
def saveVals (s : State) (c : Nat) : List Nat := (List.range 4).map (fun w => rg s (stepReg c w))

/-- The pens of a context as masks of the slots of its cores. -/
def penSlots (s : State) (c : Nat) : List Nat :=
  (theCtx s c).pens.map (fun m => ((coresOf s c).zipIdx.map (fun x => if bit m x.1 then 2 ^ x.2 else 0)).sum)

/-- SAVE acts (R343). -/
def saveActs (c : Nat) : M Unit := do
  let s ← getS
  let cs := coresOf s c
  setFld (CTX_STATE_STATE c) 3
  modCtx c (fun x => { x with save := some ⟨s.tick, cs, [], false, saveVals s c, penSlots s c⟩ })
  each cs (fun n => do
    modCore n (fun k => { k with stopped := 1 })
    uncountTick n)
  saveBegins c

/-- A core stops for save and its image is copied; a copy that waited is made again. -/
def coreStops (n : Nat) : M Unit := do
  let s ← getS
  match holderOf s n with
  | none => pure ()
  | some c =>
    match (theCtx s c).save with
    | none => pure ()
    | some op =>
      when' (!op.begun) (saveBegins c)
      when' ((theCore s n).stopped = 1 && stopReady s n) (standCore n)
      let s ← getS
      match (theCtx s c).save with
      | some op =>
        when' (op.begun && (theCore s n).stopped = 2 && op.cores.contains n && !op.copied.contains n)
          (copyImage n c (op.cores.findIdx (· = n)))
      | none => pure ()

/-- CORE_STOPPED_FOR_SAVE (R304). -/
def execCoreStoppedForSave (core : Fin 64) (s : State) : Host.Outcome State Fault Refusal := runT (coreStops core) s

/-- Budget left of a task, 0 where its entry gives none. -/
def budgetLeft (t : Task) : Nat := t.budget - t.run

/-- The 64 bytes of slot k of the header (Table 8.8). -/
def slotBytes (s : State) (n : Nat) : List Byte :=
  let t := (theCore s n).task
  let oxen := (slotOxen (coreMode s n)).length
  let banks := ((banksOn s n).map (fun b => 2 ^ b)).sum
  natLe 1 oxen ++ natLe 1 (coreMode s n) ++ natLe 2 banks ++ natLe 1 (b2n t.isSome)
    ++ natLe 1 (t.elim 0 Task.roster) ++ natLe 2 0 ++ natLe 8 (t.elim 0 Task.entry) ++ natLe 4 (t.elim 0 budgetLeft)
    ++ natLe 4 (t.elim 0 Task.run) ++ natLe 40 0

/-- Bytes 0x000-0x107F of the header, with VALID = 1. -/
def headerBody (s : State) (op : SaveOp) : List Byte :=
  natLe 4 0x56535954 ++ natLe 4 1 ++ natLe 8 op.tick ++ natLe 8 (op.vals.getD 0 0) ++ natLe 8 (op.vals.getD 1 0)
    ++ natLe 8 (op.vals.getD 2 0) ++ natLe 4 (op.vals.getD 3 0) ++ natLe 1 op.cores.length ++ natLe 3 0
    ++ (List.range 3).flatMap (fun k => natLe 8 (op.pens.getD k 0)) ++ natLe 56 0
    ++ (List.range 64).flatMap (fun k => match op.cores[k]? with | some n => slotBytes s n | none => natLe 64 0)

/-- What the device keeps of the tasks that a save takes: Table 8.8 has one set of the values of R144 for all of them, and
Table 6.7 one vector for an open span and no place for the Mule's buffer (log 43, DEDUCED). -/
def keptTasks (s : State) (op : SaveOp) : List KeptTask :=
  op.cores.filterMap (fun n =>
    let c := theCore s n
    c.task.map (fun t => ⟨op.tick, t.roster, t.entry, [t.step, t.seed, t.statBase, t.statCfg], c.mule.parts, c.toMule⟩))

/-- Every image is copied: the header is written, FLAGS last, the cores are cleared, and the context is SAVED (R344). -/
def saveCompletes (c : Nat) : M Unit := do
  let s ← getS
  match (theCtx s c).save with
  | none => pure ()
  | some op =>
    if ctxState s c = 3 && op.begun && op.cores.all op.copied.contains then
      let body := headerBody s op
      let base := saveBase s c
      match ← putAll (dispAcc c) [(base, body.take 4), (base + 8, body.drop 8 ++ natLe 4 (crc32c body))] with
      | some w => faultFor (dispAcc c) w
      | none =>
        fenceOf reqDisp
        match ← ctxWrite (dispAcc c) (base + 4) (clean (natLe 4 1)) with
        | some w => faultFor (dispAcc c) w
        | none =>
          fenceOf reqDisp
          let kept := keptTasks (← getS) op
          clearCores c
          setFld (CTX_STATE_STATE c) 4
          setReg (CTX_SAVE_STATUS c) 1
          modCtx c (fun x => { x with save := none, kept := kept })
          noteRank 6

/-- Every byte of a save but FLAGS can be written: its completion comes at the next tick edge. -/
def saveDue (s : State) (c : Nat) : Bool :=
  ctxState s c = 3 && (theCtx s c).save.elim false (fun op => op.begun && op.cores.all op.copied.contains)

/-- SAVE_COMPLETE (R344). -/
def execSaveComplete (ctx : Fin 16) (s : State) : Host.Outcome State Fault Refusal := runT (saveCompletes ctx) s

/-- A core that has not stopped in time, if the save has one (R345). -/
def saveLate (s : State) (c : Nat) : Option Nat :=
  match (theCtx s c).save with
  | some op =>
    if ctxState s c = 3 && decide (op.tick + fv s DISP_STOP_LIMIT_TICKS < s.tick) then
      op.cores.find? (fun n => (theCore s n).stopped = 1)
    else none
  | none => none

/-- The save ends and the context faults (R345). -/
def saveTimesOut (c : Nat) : M Unit := do
  let s ← getS
  match saveLate s c with
  | some n =>
    noteRank 4
    takeFault ⟨14, 3, c, n, 0xFFFF, taskRef s n, 0, 0, 0⟩
  | none => pure ()

/-- SAVE_STOP_TIMEOUT (R345). -/
def execSaveStopTimeout (ctx : Fin 16) (s : State) : Host.Outcome State Fault Refusal := runT (saveTimesOut ctx) s

/-! ## Restore (R348-R351) -/

/-- A slot of a header as RESTORE reads it. -/
structure SlotHdr where
  oxen : Nat
  mode : Nat
  banks : Nat
  task : Bool
  roster : Nat
  entry : Nat
  left : Nat
  run : Nat
  deriving DecidableEq, Repr

def slotHdr (h : List Byte) (k : Nat) : SlotHdr :=
  let o := 0x80 + 64 * k
  ⟨fieldAt h o 1, fieldAt h (o + 1) 1 % 4, fieldAt h (o + 2) 2 % 4096, fieldAt h (o + 4) 1 = 1, fieldAt h (o + 5) 1 % 8,
    fieldAt h (o + 8) 8, fieldAt h (o + 0x10) 4, fieldAt h (o + 0x14) 4⟩

/-- Whether a header's MAGIC, VALID and CRC are right. -/
def headerOk (h : List Byte) : Bool :=
  fieldAt h 0 4 = 0x56535954 && fieldAt h 4 4 % 2 = 1 && fieldAt h 0x1080 4 = crc32c (h.take 0x1080)

/-- Whether a core meets a slot (R349). -/
def meetsSlot (s : State) (n : Nat) (x : SlotHdr) : Bool :=
  let m := nextMode s n
  decide (x.oxen ≤ (slotOxen m).length) && (x.oxen != 4 || m = 0)
    && (List.range 12).all (fun b => !bit x.banks b || !fb s (bankRetired n b))

/-- Fill one region of a core's window from its image; a line that is not good leaves its bank units poisoned. -/
def fillRegion (n c va off len : Nat) : M (Option Stop) := do
  match ← ctxRead (copyAcc n c) va len with
  | .error w => return some w
  | .ok bs =>
    if off < 0xA00000 then
      let b := winBank off
      bankWrite n b.1 b.2 (bs.map Prod.fst) (bs.map Prod.snd)
    else setMem (winBase n + off) (bs.map Prod.fst)
    return none

def fillRegions (n c base : Nat) : List (Nat × Nat) → M (Option Stop)
  | [] => pure none
  | (off, len) :: rest => do
    match ← fillRegion n c (base + off) off len with
    | some w => return some w
    | none => fillRegions n c base rest

/-- The bits set in a run of bytes, ascending. -/
def setBits (bs : List Byte) : List Nat :=
  bs.zipIdx.flatMap (fun x => if x.1 = 0 then [] else ((List.range 8).filter (bit x.1.toNat)).map (fun j => 8 * x.2 + j))

/-- Place the poison bits that an image holds. -/
def takePoison (n : Nat) : M Unit := do
  let s ← getS
  each (setBits (areaGet s n 0x20000 0x8000)) (fun w => setPoison (winBase n + 32 * w) true)
  each (setBits (areaGet s n 0x28000 0x10000)) (fun v => setPoison (winBase n + 0x800000 + 4 * v) true)

/-- Fill a core from its slot (R248, R249): what its image leaves out is OFF. -/
def fillCore (n c k banks : Nat) : M Unit := do
  let s ← getS
  match ← fillRegions n c (slotBase s c k) (imageParts ((List.range 12).filter (bit banks))) with
  | some w => faultFor (copyAcc n c) w
  | none =>
    takePoison n
    let s ← getS
    each (List.range 512) (fun j => setDraw (512 * n + j) (areaNat s n (0x3F040 + 2 * j) 2))
    each (List.range 12) (fun b => do
      modTr n b (fun _ => .none)
      if !bit banks b then
        clearBank n b
        modTr n b (fun x => { x with left := true })
        bankSet n b 2 2
      else if areaNat s n (0x3F800 + b) 1 % 4 = 1 then bankSet n b 1 1
      else bankSet n b 0 0)
    modCtx c (fun x => { x with restore := x.restore.map (fun o => { o with copied := o.copied ++ [n] }) })

/-- Read the header of a context's save area. -/
def readHeader (c : Nat) : M (Except Stop (List Byte)) := do
  let s ← getS
  match ← ctxRead (dispAcc c) (saveBase s c) 0x1084 with
  | .error w => return .error w
  | .ok bs => return .ok (bs.map Prod.fst)

/-- Fill the cores that are still to be filled. -/
def fillCores (c : Nat) : M Unit := do
  match (theCtx (← getS) c).restore with
  | none => pure ()
  | some op =>
    match ← readHeader c with
    | .error w => faultFor (dispAcc c) w
    | .ok h =>
      each op.cores.zipIdx (fun x =>
        when' (!op.copied.contains x.1) (fillCore x.1 c x.2 (slotHdr h x.2).banks))

/-- The restore of a header's image to cores in slot order (R349, R350). -/
def restoreOf (tick : Nat) (cores : List Nat) (h : List Byte) : SaveOp :=
  ⟨tick, cores, [], true, [fieldAt h 0x10 8, fieldAt h 0x18 8, fieldAt h 0x20 8, fieldAt h 0x28 4],
    (List.range 3).map (fun k => fieldAt h (0x30 + 8 * k) 8)⟩

/-- A restore begins: its cores stand until it completes. -/
def restoreBegins (c : Nat) (op : SaveOp) : M Unit := do
  setFld (CTX_STATE_STATE c) 5
  modCtx c (fun x => { x with restore := some op })
  each op.cores (fun n => do
    nextTaskMode n
    modCore n (fun k => { k with stopped := 3 })
    setFld (CORE_STREAM_STATUS_STOPPED n) 1)

/-- RESTORE acts (R348-R350): a failed check leaves the state, a header that waits leaves the command armed. -/
def restoreActs (c : Nat) : M Unit := do
  match ← readHeader c with
  | .error (.hold _) => when' (fv (← getS) (CTX_CMD_CODE c) = 4) (setFld (CTX_STATE_CMD_ARMED c) 1)
  | .error w =>
    faultFor (dispAcc c) w
    setReg (CTX_SAVE_STATUS c) 5
  | .ok h =>
    let s ← getS
    let cnt := fieldAt h 0x2C 1
    let cs := coresOf s c
    if !headerOk h then setReg (CTX_SAVE_STATUS c) 5
    else if cs.length < cnt || !(cs.take cnt).zipIdx.all (fun x => meetsSlot s x.1 (slotHdr h x.2)) then
      setReg (CTX_SAVE_STATUS c) 6
    else
      restoreBegins c (restoreOf s.tick (cs.take cnt) h)
      fillCores c

/-- The pass that 32 bytes of the area hold, if any. -/
def areaPass (s : State) (n off : Nat) : Option PassD :=
  let d : PassD := ⟨areaNat s n off 8, areaNat s n (off + 8) 8, areaNat s n (off + 16) 8, areaNat s n (off + 24) 8⟩
  if d = .zero then none else some d

/-- Give Ox slot k of a core the queue and live tile of the image's Ox slot k (R350, R252). -/
def takeOxSlot (n mode k : Nat) : M Unit := do
  let s ← getS
  match (slotOxen mode)[k]?, (slotOxen (coreMode s n))[k]? with
  | some src, some dst =>
    let q := (List.range 4).filterMap (fun i => areaPass s n (0x3F580 + 128 * src + 32 * i))
    let rec' := (areaPass s n (0x3F780 + 32 * src)).getD .zero
    modOx (4 * n + dst) (fun _ => { Ox.idle with
      queue := q.map (fun d => ⟨d, false, false⟩), liveRec := rec', live := if rec' = .zero then [] else fillHalf [] (loadTile s n rec') })
  | _, _ => pure ()

/-- The hand-offs of a COLLIE slot: its tiles begun and not completed; those the image does not list were read (R303). -/
def takeHands (s : State) (n k : Nat) (d : List Nat) (done next : Nat) : List Handoff :=
  let listed := (List.range 8).map (fun i => areaNat s n (0x3F880 + 64 * k + 0x1C + 4 * i) 4)
  (List.range (next - done)).map (fun j =>
    let i := done + j
    let o := origin d i
    ⟨k, i, o.1, o.2, df d 8 32 32, !listed.contains i⟩)

/-- Read the descriptor of each saved slot again (R305). -/
def takeStreams (n : Nat) (a : CtxAcc) : List Nat → M (Except Stop (List Stream))
  | [] => pure (.ok [])
  | k :: rest => do
    let s ← getS
    let o := 0x3F880 + 64 * k
    let st := areaNat s n (o + 0x18) 1 % 4
    let one : Except Stop Stream ← (do
      if st = 0 then return .ok Stream.unused
      else
        match ← ctxRead a (areaNat s n o 8) 128 with
        | .error w => return .error w
        | .ok bs =>
          return .ok { Stream.unused with
            desc := (descsOf (bs.map Prod.fst)).headD [], addr := areaNat s n o 8, state := st
            next := areaNat s n (o + 8) 4, done0 := areaNat s n (o + 0xC) 4, done1 := areaNat s n (o + 0x10) 4
            fills := areaNat s n (o + 0x14) 4 })
    match one with
    | .error w => return .error w
    | .ok x =>
      match ← takeStreams n a rest with
      | .error w => return .error w
      | .ok xs => return .ok (x :: xs)

/-- The open spans of a restored Mule from its image alone: the saved partial, and no tile for the rest of those it stands for (log 24, DEDUCED). -/
def takeParts (s : State) (n : Nat) (p : Prog) (r w : Nat) : List (List (List FpP)) :=
  (List.range 4).map (fun k =>
    let cnt := areaNat s n (0x3F440 + 80 * k + 64) 4
    let len := if slotCol p k then w else r
    let bad := areaNat s n (0x3F440 + 80 * k) 64
    if cnt = 0 then []
    else (List.range len).map (fun i => ⟨areaNat s n (0x3D040 + 2048 * k + 4 * i) 4, bit bad i⟩)
      :: List.replicate (cnt - 1) (List.replicate len (neutral (slotFunc p k))))

/-- The generation slot that a task of a roster is bound to when it is placed (R576, R577). -/
def bindSlot (s : State) (c r : Nat) : Option Nat :=
  let sel := bits (theCtx s c).rosterGen (4 * r) 3
  if 4 ≤ sel then some (sel - 4)
  else if fb s (CTX_GEN_STATUS_HAS_CURRENT c) then some (fv s (CTX_GEN_STATUS_CURRENT c)) else none

/-- The task registers of a core (Table 8.17). -/
def showTask (n : Nat) (t : Task) : M Unit := do
  setReg (CORE_TASK_ID n) (t.words.getD 4 0)
  setReg (CORE_TASK_ARG n) (t.words.getD 3 0)
  setReg (CORE_TASK_INFO n) (t.ctx + 16 * t.roster + 128 + t.entry % 2 ^ 24 * 256)

/-- What the device has kept of the task of a slot of the save of a SAVE_TICK. -/
def keptOf (s : State) (c saved : Nat) (x : SlotHdr) : Option KeptTask :=
  if x.task then (theCtx s c).kept.find? (fun k => k.tick = saved && k.roster = x.roster && k.entry = x.entry) else none

/-- The task of a slot of the save of a SAVE_TICK, from its entry in the roster, with the values of its placement (R144); its progress window is the one its run ticks lie in (log 24, DEDUCED). -/
def takeTask (c saved : Nat) (x : SlotHdr) (op : SaveOp) (begun : Bool) : M (Except Stop Task) := do
  let s ← getS
  match ← ctxRead (dispAcc c) (rosEntry s c x.roster x.entry) 64 with
  | .error w => return .error w
  | .ok bs =>
    let w := (chunks 8 64 (bs.map Prod.fst)).map leNat
    let win := max 1 (fv s RESET_PROGRESS_WINDOW_TICKS)
    let budget := if enBudget w = 0 then 0 else x.run + x.left
    let vals := (keptOf s c saved x).elim op.vals KeptTask.vals
    return .ok ⟨c, x.roster, x.entry, w, s.tick, begun, false, vals.getD 0 0, vals.getD 1 0, vals.getD 2 0,
      vals.getD 3 0, x.run, budget, enBudget w != 0 && x.left = 0, x.run - x.run % win, win, true, 0,
      bindSlot s c x.roster, []⟩

/-- What a core resumes with, read through the walker: its streams and its task. -/
def readCore (n c saved : Nat) (x : SlotHdr) (op : SaveOp) : M (Except Stop (List Stream × Option Task)) := do
  match ← takeStreams n { copyAcc n c with gslot := bindSlot (← getS) c x.roster } (List.range 16) with
  | .error w => return .error w
  | .ok xs =>
    if x.task then
      match ← takeTask c saved x op (xs.any (fun y => y.state != 0)) with
      | .error w => return .error w
      | .ok t => return .ok (xs, some t)
    else return .ok (xs, none)

/-- The core's state from its area, from what was read for it and from what the device has kept of its task: it resumes. -/
def resumeCore (n c : Nat) (x : SlotHdr) (kept : Option KeptTask) (xs : List Stream) (t : Option Task) : M Unit := do
  each (List.range 1024) (fun w => do setReg (CORE_PROG n w) (areaNat (← getS) n (0x38000 + 8 * w) 8))
  each (List.range 4) (fun t => each (List.range 386) (fun w => do
    setReg (tblReg n t w) (areaNat (← getS) n (0x3A000 + 3088 * t + 8 * w) 8)))
  each (List.range 4) (takeOxSlot n x.mode)
  each (List.range 4) (fun b => do setBind n b (areaNat (← getS) n (0x3F80C + b) 1 % 16))
  each (List.range 16) (fun h => do setReg (CORE_HC n h) (areaNat (← getS) n (0x3F840 + 4 * h) 4))
  each xs.zipIdx (fun y => setReg (CORE_NEXT_TILE n y.2) y.1.next)
  setFld (CORE_STREAM_STATUS_ACTIVE n) (activeMask xs)
  setFld (CORE_STREAM_STATUS_RUNNING n) (b2n (t.any Task.begun))
  let s ← getS
  let hands (col : Nat) := xs.zipIdx.flatMap (fun y =>
    if dStation y.1.desc = stCollie && df y.1.desc 8 0 1 = col && y.1.state = 1 then
      takeHands s n y.2 y.1.desc y.1.done0 y.1.next else [])
  let mule := match xs.find? (fun y => dStation y.desc = stMule) with
    | some y =>
      let p := muleProg s n (muleP y.desc)
      { MuleSt.idle with
        prog := muleP y.desc, parts := kept.elim (takeParts s n p (dRows y.desc) (dWidth y.desc)) KeptTask.parts, spanR := dRows y.desc, spanW := dWidth y.desc
        rowSpans := y.next / (rowSpan p + 1), colSpans := y.next / (colSpan p + 1) }
    | none => MuleSt.idle
  let wait := ((programBinds (xs.map Stream.desc)).filter (fun b => bindOf s n b.2.1 = 0)).map (fun b => (b.1, b.2.1))
  modCore n (fun q => { q with
    streams := xs, task := t, hand0 := hands 0, hand1 := hands 1, mule := mule, bindWait := wait, segs := [], issue := none,
    encWait := [], trailQ := [], progBad := false, stopped := 0, toMule := kept.elim [[], [], [], []] KeptTask.fed
    modeF := q.fence })
  match t with
  | some t =>
    showTask n t
    modRoster c x.roster (fun r => { r with
      placed := if r.placed.any (fun p => p.1 = x.entry) then r.placed else r.placed ++ [(x.entry, n)] })
  | none => pure ()
  setFld (CORE_STREAM_STATUS_STOPPED n) 0
  setFld (CORE_MULE_STATUS_STATE n) 0
  let lo := areaAt n 0x20000
  clearMem (fun a => decide (lo ≤ a) && decide (a < lo + 0x20000))
  bankDeferred n

/-- Read what every core of a restore resumes with, in slot order; the first stop is the answer. -/
def readCores (c : Nat) (h : List Byte) (op : SaveOp) :
    List (Nat × Nat) → M (Except Stop (List (Nat × SlotHdr × List Stream × Option Task)))
  | [] => pure (.ok [])
  | (n, k) :: rest => do
    match ← readCore n c (fieldAt h 8 8) (slotHdr h k) op with
    | .error w => return .error w
    | .ok r =>
      match ← readCores c h op rest with
      | .error w => return .error w
      | .ok rs => return .ok ((n, slotHdr h k, r) :: rs)

/-- Every image is written back: the context runs, and every saved task resumes, all at this completion (R351). -/
def restoreCompletes (c : Nat) : M Unit := do
  let s ← getS
  if ctxState s c = 5 then
    fillCores c
    match (theCtx (← getS) c).restore with
    | none => pure ()
    | some op =>
      if op.cores.all op.copied.contains then
        match ← readHeader c with
        | .error w => faultFor (dispAcc c) w
        | .ok h =>
          match ← readCores c h op op.cores.zipIdx with
          | .error w => faultFor (dispAcc c) w
          | .ok rs =>
            each rs (fun r => resumeCore r.1 c r.2.1 (keptOf s c (fieldAt h 8 8) r.2.1) r.2.2.1 r.2.2.2)
            let masks := op.pens.map (fun m => ((op.cores.zipIdx.filter (fun x => bit m x.2)).map (fun x => 2 ^ x.1)).sum)
            each (List.range 3) (fun k => setReg (CTX_PEN c k) (masks.getD k 0))
            modCtx c (fun x => { x with pens := masks, restore := none })
            unready c
            setFld (CTX_STATE_STATE c) 1
            setReg (CTX_SAVE_STATUS c) 2
            noteRank 6

/-- Every image of a restore is written back: its completion comes at the next tick edge. -/
def restoreDue (s : State) (c : Nat) : Bool :=
  ctxState s c = 5 && (theCtx s c).restore.elim false (fun op => op.cores.all op.copied.contains)

/-- RESTORE_COMPLETE (R351). -/
def execRestoreComplete (ctx : Fin 16) (s : State) : Host.Outcome State Fault Refusal := runT (restoreCompletes ctx) s

/-! ## Kill (R353, R316, R426) -/

/-- A core of a killed context stops what it does; its banks stay until it is cleared. -/
def haltCore (n : Nat) : M Unit := do
  muleTileDone n
  each (List.range 4) (fun k => modOx (4 * n + k) (fun _ => Ox.idle))
  dropImages n
  modCore n (fun c => { CoreSt.idle with
    sent := c.sent, banks := c.banks, deferred := c.deferred, fence := c.fence, modeF := c.modeF, hot := c.hot, reload := c.reload
    winWait := c.winWait })
  setReg (CORE_STREAM_STATUS n) 0

/-- KILL acts: the tasks end KILLED, a save or restore under way is given up, and later events of the tick that concern the
context are discarded (R36). -/
def killActs (c : Nat) (wipe : Bool) : M Unit := do
  let s ← getS
  let _ ← supersede (concerns s c)
  each (coresOf s c) (fun n => endTask n 6)
  each (placedOf (← getS) c) (fun p => rosterFinal c p.1 p.2.1 6)
  each (coresOf s c) haltCore
  setFld (CTX_STATE_STATE c) 7
  modCtx c (fun x => { x with save := none, restore := none, kill := some (wipe || x.kill = some true) })

/-- The valid entries of the lines of a table at a base, from index `i`; none: a line waits. A poisoned line bites and maps
nothing (Table 11.3), and so does what is absent map nothing. -/
def tableLines (a : CtxAcc) : List (Nat × Nat) → M (Option (List Nat))
  | [] => pure (some [])
  | (pa, k) :: rest => do
    let here : Option (List Nat) ← (do
      if !tableOk (← getS) pa then return some []
      else
        match ← readLine ⟨a.req, 1, none, false, false, false, 0⟩ pa with
        | .data bs p =>
          when' p (faultFor a (.fault 7 4 pa))
          return some (if p then [] else (chunks 8 k ((bs.drop (pa % 256)).take k)).map leNat)
        | .uncorr _ =>
          faultFor a (.fault 7 4 pa)
          return some []
        | .hold _ => return none
        | .absent _ => return some [])
    match here with
    | none => return none
    | some es =>
      match ← tableLines a rest with
      | none => return none
      | some more => return some (es.filter pteOk ++ more)

/-- The valid entries of a table of `n` entries. -/
def tableOf (a : CtxAcc) (base n : Nat) : M (Option (List Nat)) := tableLines a (linePieces base (8 * n))

/-- The valid entries of several tables; none: one waits. -/
def tablesOf (a : CtxAcc) (bases : List Nat) (n : Nat) : M (Option (List Nat)) := do
  let l ← gather bases (fun b => tableOf a b n)
  return if l.any Option.isNone then none else some (l.filterMap id).flatten

/-- Every 2 MiB page that a context's tables map, as a device-physical base (R353); none: a table waits. A leaf that is not
aligned to its page maps nothing (Table 8.3). -/
def mappedPages (c : Nat) : M (Option (List Nat)) := do
  let s ← getS
  let a := dispAcc c
  let aligned (size : Nat) (l : List Nat) : List Nat := ((l.filter (bit · 1)).map pteAddr).filter (· % size = 0)
  match ← tableOf a (rg s (CTX_PT_BASE c)) 8192 with
  | none => return none
  | some l0 =>
    match ← tablesOf a ((l0.filter (fun e => !bit e 1)).map pteAddr) 512 with
    | none => return none
    | some l1 =>
      match ← tablesOf a ((l1.filter (fun e => !bit e 1)).map pteAddr) 512 with
      | none => return none
      | some l2 =>
        let big := (aligned 0x40000000 l1).flatMap (fun p => (List.range 512).map (fun i => p + i * page2M))
        return some (big ++ aligned page2M l2).dedup

/-- Zero a run of stored lines, with their marks. -/
def zeroRun (a len : Nat) : M Unit := do
  clearMem (fun x => decide (a ≤ x) && decide (x < a + len))
  clearSyn (fun x => decide (a ≤ x) && decide (x < a + len))

/-- Zero a 2 MiB page of a stack where it is stored (R386, R469, R472). -/
def zeroHbm (st off : Nat) : M Unit := do
  match gateHbm (← getS) reqDisp st off with
  | .at _ a =>
    modStack st (fun k => { k with wcb := k.wcb.filter (fun e => !(decide (a ≤ e.line) && decide (e.line < a + page2M))) })
    zeroRun a page2M
    bumpBy (HBM_WR_LINES_COUNT st) 8192
  | _ => pure ()

/-- Zero 4 KiB of the deep tier at an offset of the window; on a port that does not answer the writes fail and leave the lines
undefined (R434): free bytes (log 3, DESIGN CHOICE). -/
def zeroDeep (off : Nat) : M Unit := do
  let s ← getS
  let x := deepPort s off
  let a := deepCell s off
  if portUp s x then
    zeroRun a 4096
    bumpBy (CXL_WR_LINES_COUNT x) 16
  else
    setMem a (← freeBytes 4096)
    bumpBy (CXL_FAILED_COUNT x) 16

/-- Zero one mapped page wherever its home, with both entries of a deep page (R353, R426). -/
def zeroPage (pa : Nat) : M Unit := do
  let s ← getS
  match regionOf s.part pa with
  | .hbm st off => zeroHbm st off
  | .deep off =>
    if off < deepFitted s then
      let d := deepIdx off
      let e := dirOf s d
      each (List.range 512) (fun i => zeroDeep (off + 4096 * i))
      when' e.promoted (do
        let f := frameAt s e.frame
        zeroHbm f.1 f.2
        writeDir (dirFrameAddr s e.frame) 0)
      when' (dirThere s) (writeDir (dirAddr s d) 0)
      modWagon (fun w => { w with
        heat := mset (fun _ => 0) w.heat d 0, touched := mset (fun _ => 0) w.touched d 0, lost := w.lost.filter (· != d) })
  | _ => pure ()

/-- A page of a stack waits: its stack is in reset or in MAINT, or it is being retired (R389, R469, R661). -/
def hbmWaits (s : State) (st off : Nat) : Bool :=
  match gateHbm s reqDisp st off with
  | .hold _ => true
  | _ => false

/-- The zeroing of a page waits: for its move, or for its stack or that of its frame. -/
def pageWaits (s : State) (pa : Nat) : Bool :=
  match regionOf s.part pa with
  | .hbm st off => hbmWaits s st off
  | .deep off => decide (off < deepFitted s) && (inTransit s (deepIdx off)
      || (let e := dirOf s (deepIdx off); e.promoted && hbmWaits s (frameAt s e.frame).1 (frameAt s e.frame).2))
  | _ => false

/-- Erase a context's key (R564). -/
def eraseKey (c : Nat) : M Unit := modCtx c (fun x => { x with key := none })

/-- The cores of a KILLING context are cleared and, with WIPE, its pages zeroed once its tables can be read and none of them
waits: it is EMPTY. -/
def killCompletes (c : Nat) : M Unit := do
  let s ← getS
  if ctxState s c = 7 then
    match ← (if (theCtx s c).kill = some true then mappedPages c else pure (some [])) with
    | none => pure ()
    | some pages =>
      if !pages.any (pageWaits (← getS)) then
        each pages zeroPage
        clearCores c
        dropXlate (fun x => x.ctx = c)
        eraseKey c
        setFld (CTX_STATE_STATE c) 0
        modCtx c (fun x => { x with kill := none })
        noteRank 6

/-- KILL_COMPLETE (R353). -/
def execKillComplete (ctx : Fin 16) (s : State) : Host.Outcome State Fault Refusal := runT (killCompletes ctx) s

/-! ## Commands (R309-R311) -/

/-- A command acts at its tick; one that is not allowed is discarded (R310), and SAFE refuses every command (R623). -/
def ctxCommand (c code : Nat) (wipe : Bool) : M Unit := do
  let s ← getS
  noteRank 5
  when' (fv s (CTX_CMD_CODE c) = code) (setFld (CTX_STATE_CMD_ARMED c) 0)
  if code = 0 || tripped s then pure ()
  else if !cmdAllowed code (ctxState s c) || fv s CHAIN_START_MODE = 1 then flag (CTX_STATE_CMD_REJECT c)
  else if code = 1 then
    unready c
    setFld (CTX_STATE_STATE c) 1
  else if code = 2 then setFld (CTX_STATE_STATE c) 2
  else if code = 3 then saveActs c
  else if code = 4 then restoreActs c
  else if code = 5 then killActs c wipe
  else dropXlate (fun x => x.ctx = c)

/-- A write of CMD arms it; it replaces one that waits (R309, R311). -/
def cmdWrite (c data : Nat) : M Unit := do
  setReg (CTX_CMD c) data
  setFld (CTX_STATE_CMD_ARMED c) (b2n (bits data 0 3 != 0))

/-- START (R309). -/
def execStartCmd (ctx : Fin 16) (s : State) : Host.Outcome State Fault Refusal := runT (ctxCommand ctx 1 false) s
/-- HOLD (R309). -/
def execHoldCmd (ctx : Fin 16) (s : State) : Host.Outcome State Fault Refusal := runT (ctxCommand ctx 2 false) s
/-- SAVE (R343). -/
def execSave (ctx : Fin 16) (s : State) : Host.Outcome State Fault Refusal := runT (ctxCommand ctx 3 false) s
/-- RESTORE (R348). -/
def execRestore (ctx : Fin 16) (errs : List LineErr) (s : State) : Host.Outcome State Fault Refusal :=
  runT (withErrs errs (ctxCommand ctx 4 false)) s
/-- KILL (R353). -/
def execKill (ctx : Fin 16) (wipe : Bool) (s : State) : Host.Outcome State Fault Refusal := runT (ctxCommand ctx 5 wipe) s
/-- FLUSH_XLATE (R320). -/
def execFlushXlate (ctx : Fin 16) (s : State) : Host.Outcome State Fault Refusal := runT (ctxCommand ctx 6 false) s

/-! ## Completions (R338) -/

/-- TASK_COMPLETION (R338): a completion that is latched is taken. -/
def execTaskCompletion (core : Fin 64) (s : State) : Host.Outcome State Fault Refusal := runT (do
  let s ← getS
  when' (s.latched.any (fun e => e.kind = .taskDone core)) (do
    modLatched (fun l => l.filter (fun e => e.kind != .taskDone core))
    noteRank 6
    completeTask core)) s

end Sys2Proof.Machine
end

