-- ==== Sys2Proof/Machine/Integrity.lean ====
section
/-!
DEFINITION. Machine/Integrity.lean: sentinel passes (R354-R358, R474-R486), recompute requests (R447-R454), the scrubber
(R463-R466) and the retirement of pages (R467-R473).
-/

namespace Sys2Proof.Machine

/-! ## The known answer (R475-R477) -/

/-- The formats of pattern p, Yoke by stationary. -/
def sentFmts (p : Nat) : Nat × Nat :=
  if p % 4 = 0 then (0, 0) else if p % 4 = 1 then (1, 2) else if p % 4 = 2 then (3, 4) else (2, 5)

/-- A code of the pattern generator: NaN and infinity give way to zero. -/
def sentCode (f p tensor idx : Nat) : Nat :=
  let code := srBits (0x53454E5400000000 + p) tensor idx 0 % 2 ^ (fmtOf f).bitsPer
  match (decodeCode (fmtOf f) code 127).cls with
  | .inf => 0
  | .nan => 0
  | _ => code

/-- Yoke row m and the stationary tile of pattern p. -/
def sentRow (p m : Nat) : YRow :=
  ⟨0, m, ⟨0, false⟩, 127, (List.range 128).map (fun k => ⟨sentCode (sentFmts p).1 p 0x5E01 (m * 128 + k), false⟩)⟩
def sentTile (p : Nat) : Tile :=
  (List.range 128).map (fun k => ⟨(sentFmts p).2,
    (List.range 128).map (fun n => ⟨sentCode (sentFmts p).2 p 0x5E02 (k * 128 + n), false⟩), List.replicate 128 127⟩)

/-- The CRC-32C that a sound Ox obtains for pattern p. -/
def sentCrc (p : Nat) : Nat :=
  let t := sentTile p
  crc32c ((List.range 1024).flatMap (fun m =>
    let ys := yVals (sentFmts p).1 (sentRow p m)
    (List.range 128).flatMap (fun n => natLe 4 (toFp32 (colSum ys t 128 n).col.result .rne))))

/-! ## Rounds and passes (R354-R358, R479, R481) -/

/-- The pattern of the last round begun. -/
def sentPattern (s : State) : Nat := (fv s DISP_SENT_ROUNDS_COUNT + 2 ^ 32 - 1) % 2 ^ 32 % 16

/-- A round is due at this tick. -/
def roundDue (s : State) : Bool :=
  fb s DISP_SENT_CFG_EN && fv s CHAIN_START_PHASE = 9
    && ((s.tick = rg s DISP_SENT_LAST + fv s DISP_SENT_INTERVAL_TICKS && rg s DISP_SENT_LAST != s.tick)
      || decide (fv s DISP_SENT_TASKS_COUNT ≤ fv s DISP_SENT_COUNT_COUNT))

/-- A round begins: every core with an Ox able to run passes owes a pass (R354, R357, R474). -/
def beginRound : M Unit := do
  let s ← getS
  let able := coreNums.filter (fun n => (List.range 4).any (oxAvail s n) && !coreDead s n)
  let old := maskList (rg s DISP_SENT_PENDING)
  bumpBy DISP_SENT_LATE_COUNT old.length
  setReg DISP_SENT_LAST s.tick
  setReg DISP_SENT_COUNT 0
  setReg DISP_SENT_PENDING (maskOf (old ++ able))
  bump DISP_SENT_ROUNDS_COUNT

/-- SENTINEL_ROUND (R354). -/
def execSentinelRound (s : State) : Host.Outcome State Fault Refusal := runM (do
  when' (roundDue (← getS)) beginRound) s

/-- The pointer field of core n: the Ox last tested. -/
def sentPtr (n : Nat) : Fld := ⟨if n < 32 then DISP_SENT_PTR0 else DISP_SENT_PTR1, 2 * (n % 32), 2⟩

/-- The next Ox after the one last tested, in ascending index with wrap-around (R356). -/
def nextOx (s : State) (n : Nat) : Option Nat :=
  let last := fv s (sentPtr n)
  ((List.range 4).map (fun i => (last + 1 + i) % 4)).find? (oxAvail s n)

/-- Whether a core is free (R334), or belongs to no context. -/
def coreFree (s : State) (n : Nat) : Bool :=
  let c := theCore s n
  c.task.isNone && c.sent.isNone && c.stopped = 0 && !inReset s 2 n && !tripped s

/-- Record the condition of a pass at its start (R479). -/
def noteCondition (o p temp act : Nat) (confirm : Bool) : M Unit := do
  setFld (OX_SENT_LAST_TEMP o) temp
  setFld (OX_SENT_LAST_ACT o) act
  setFld (OX_SENT_LAST_PATTERN o) p
  setFld (OX_SENT_LAST_CONFIRM o) (b2n confirm)

/-- A core's state of an Ox is SUSPECT. -/
def suspect (s : State) (o : Nat) : Bool := fv s (OX_SENT_STATE_STATE o) = 1

/-- A pending core that is free begins its pass, with confirmation passes on its SUSPECT Oxen (R355, R356, R481). -/
def beginPass (n : Nat) : M Unit := do
  let s ← getS
  if bit (rg s DISP_SENT_PENDING) n && coreFree s n && !coreDead s n then
    match nextOx s n with
    | none => pure ()
    | some k =>
      let conf := (List.range 4).filter (fun j => j != k && suspect s (4 * n + j))
      let temp := fv s (CORE_TJ_NOW n)
      let act := fv s (CORE_TJ_ACTIVITY n)
      let p := sentPattern s
      setFld (sentPtr n) k
      setFld ⟨DISP_SENT_PENDING, n, 1⟩ 0
      modCore n (fun c => { c with sent := some ⟨k, conf, p, temp, act, s.tick⟩ })
      each (k :: conf) (fun j => noteCondition (4 * n + j) p temp act (suspect s (4 * n + j)))

/-- SENTINEL_PASS (R355). -/
def execSentinelPass (core : Fin 64) (s : State) : Host.Outcome State Fault Refusal := runM (beginPass core) s

/-! ## Completion (R477, R480-R482) -/

/-- The condition record of an Ox's pass. -/
def passCond (s : State) (kind n k : Nat) (r : SentRun) (got : Nat) : Cond :=
  let o := 4 * n + k
  ⟨kind, n, k, r.pattern, r.temp, r.act, fv s (OX_SENT_STATE_T0 o), fv s (OX_SENT_STATE_A0 o),
    fv s (DISP_SENT_EXPECT_CRC r.pattern), got, fv s (OX_SIM_PASSES_COUNT o), fv s (OX_OUT_OF_COND_COUNT o)⟩

/-- Whether two values differ by at most a bound. -/
def within (a b d : Nat) : Bool := decide (a ≤ b + d) && decide (b ≤ a + d)

/-- A mismatch on an Ox whose state is OK (R480). -/
def newSuspect (n k : Nat) (r : SentRun) (got : Nat) : M Unit := do
  let o := 4 * n + k
  fenceOx o 1
  setFld (OX_SENT_STATE_STATE o) 1
  setFld (OX_SENT_STATE_T0 o) r.temp
  setFld (OX_SENT_STATE_A0 o) r.act
  setReg (OX_SIM_PASSES o) 0
  setReg (OX_OUT_OF_COND o) 0
  writeCond (passCond (← getS) 1 n k r got)

/-- The outcome of a confirmation pass (R482). -/
def confirmed (n k : Nat) (r : SentRun) (got : Nat) (ok : Bool) : M Unit := do
  let s ← getS
  let o := 4 * n + k
  let alike := within r.temp (fv s (OX_SENT_STATE_T0 o)) (fv s DISP_SENT_SIM_TEMP)
    && within r.act (fv s (OX_SENT_STATE_A0 o)) (fv s DISP_SENT_SIM_ACT)
  if !alike then bump (OX_OUT_OF_COND_COUNT o)
  else if ok then bump (OX_SIM_PASSES_COUNT o)
  else
    setFld (OX_SENT_STATE_STATE o) 2
    writeCond (passCond (← getS) 2 n k r got)

/-- The result of one Ox: `defect` is what its defects change in the CRC. -/
def oxResult (n k : Nat) (r : SentRun) (defect : Nat) : M Unit := do
  let s ← getS
  let o := 4 * n + k
  let got := Nat.xor (sentCrc r.pattern) (defect % 2 ^ 32)
  let ok := got = fv s (DISP_SENT_EXPECT_CRC r.pattern)
  setFld (OX_SENT_LAST_MATCH o) (b2n ok)
  bump (if ok then OX_SENT_PASS_COUNT o else OX_SENT_FAIL_COUNT o)
  when' (!ok) (bump DISP_SENT_MISMATCH_COUNT)
  if suspect s o then confirmed n k r got ok
  else when' (!ok && fv s (OX_SENT_STATE_STATE o) = 0) (newSuspect n k r got)

/-- A sentinel pass's completion is taken; the core's live halves hold zero after it (R358, R337). -/
def sentDone (n : Nat) (defects : List (Fin 4 × Nat)) : M Unit := do
  match (theCore (← getS) n).sent with
  | none => pure ()
  | some r =>
    noteRank 6
    modCore n (fun c => { c with sent := none })
    each (r.ox :: r.conf) (fun k => oxResult n k r ((defects.find? (fun d => d.1.val = k)).elim 0 Prod.snd))
    each (List.range 4) (fun k => modOx (4 * n + k) (fun x => { x with live := [], liveRec := .zero }))

/-- SENTINEL_COMPLETION (R480). -/
def execSentinelCompletion (core : Fin 64) (defects : List (Fin 4 × Nat)) (s : State) : Host.Outcome State Fault Refusal :=
  runT (sentDone core defects) s

/-- SENT_STATE_CLEAR (R483). -/
def execSentStateClear (ox : Fin 256) (s : State) : Host.Outcome State Fault Refusal := runM (setFld (OX_SENT_STATE_STATE ox) 0) s

/-- The condition record of a core above its ceiling (R485). -/
def ceilingCheck (n : Nat) : M Unit := do
  let s ← getS
  let ceil := fv s (CORE_RESTRICT_CEIL n)
  let t := fv s (CORE_TJ_NOW n)
  if ceil = 0 || decide (t ≤ ceil) then when' (theCore s n).hot (modCore n (fun c => { c with hot := false }))
  else if ceil + 10 < t && !(theCore s n).hot then
    modCore n (fun c => { c with hot := true })
    writeCond ⟨3, n, 0xFF, 0, t, fv s (CORE_TJ_ACTIVITY n), 0, 0, 0, 0, 0, 0⟩

/-! ## Recompute requests (R449-R453) -/

/-- The tiles of a context's streams that wait on a request are read again, without recompute (R453). -/
def rereadRecomp (c q : Nat) : M Unit := do
  let s ← getS
  each (coreNums.filter (fun n => ctxOfCore s n = some c)) (fun n =>
    each (List.range 16) (fun k => when' ((theStream s n k).held.any (fun h => h.why = .recomp q))
      (modStream n k (fun x => { x with held := x.held.map (fun h => if h.why = .recomp q then { h with noRecomp := true } else h) }))))

/-- LOST of a deep page by its index is cleared, in its entry where the Wagon has a directory. -/
def clearLostOf (d : Nat) : M Unit := do
  let s ← getS
  when' (dirThere s) (writeDir (dirAddr s d) ({ DirEnt.of (dirWord s (dirAddr s d)) with lost := false } : DirEnt).word)
  modWagon (fun w => { w with lost := w.lost.filter (· != d) })

/-- LOST of a deep page is cleared (R432). -/
def clearLost (pa : Nat) : M Unit := do
  let s ← getS
  match regionOf s.part pa with
  | .deep off =>
    let d := deepIdx off
    let e := dirOf s d
    when' (decide (off < deepFitted s) && e.lost) (clearLostOf d)
  | _ => pure ()

/-- A request is closed. -/
def closeRecomp (c q : Nat) : M Unit := do
  rereadRecomp c q
  modCtx c (fun x => { x with recomp := x.recomp.filter (fun r => r.num != q) })

/-- A write of RECOMP_ACK: the acknowledgement is sampled at the next tick edge (R451). -/
def recompAckWrite (c q : Nat) : M Unit := do
  setReg (CTX_RECOMP_ACK c) q
  latch ⟨6, 1, some c, 0, .recompAck c (q % 65536)⟩

/-- RECOMP_ACK (R451). -/
def execRecompAck (ctx : Fin 16) (q : Nat) (s : State) : Host.Outcome State Fault Refusal := runM (recompAckWrite ctx q) s

/-- An acknowledgement is taken; the page is no longer LOST (R432). -/
def recompAcked (c q : Nat) : M Unit := do
  match (theCtx (← getS) c).recomp.find? (fun r => r.num = q) with
  | some r =>
    clearLost r.ppage
    closeRecomp c q
  | none => pure ()

/-- Whether a request's limit has passed (R452). -/
def recompLate (s : State) (c q : Nat) : Bool :=
  (theCtx s c).recomp.any (fun r => r.num = q && decide (r.opened + fv s (CTX_RECOMP_LIMIT_TICKS c) < s.tick))

/-- A request expires; an acknowledgement of the same tick is discarded. -/
def recompExpires (c q : Nat) : M Unit := do
  if recompLate (← getS) c q then
    noteRank 4
    bump (CTX_RECOMP_TIMEOUTS_COUNT c)
    let _ ← supersede (fun e => e.kind = .recompAck c q)
    closeRecomp c q

/-- RECOMP_EXPIRY (R452). -/
def execRecompExpiry (ctx : Fin 16) (q : Nat) (s : State) : Host.Outcome State Fault Refusal := runM (recompExpires ctx q) s

/-! ## The scrubber (R463-R466) -/

/-- Groups of a stack. -/
def scrubGroups : Nat := 8257536

/-- One line of a group, by its storage address; it is read after the requests for it that wait (R366). -/
def scrubLine (st a : Nat) : M Unit := do
  serveLine st a
  let s ← getS
  if (theStack s st).wcb.any (fun e => e.line = a) then bump (HBM_SCRUB_SKIPPED_COUNT st)
  else
    let first := synClass (synAt s a ^^^ BitVec.ofNat 32 (errOf s a).e1)
    noteSlot st a
    let got ← readStored st a 2
    when' (first = .uncorrectable && got != .uncorrectable) (do
      writeStored st a (rawBytes s a 256) (got = .poisoned)
      bump (HBM_SCRUB_CURED_COUNT st))

/-- Whether a stack's next group is due. -/
def scrubDue (s : State) (st : Nat) : Bool :=
  fv s (HBM_STATUS_STATE st) = 2 && fb s (HBM_SCRUB_CFG_EN st)
    && decide ((theStack s st).lastScrub + max 1 (fv s (HBM_SCRUB_INTERVAL_TICKS st)) ≤ s.tick)

/-- The scrubber reads one group. -/
def scrubGroup (st : Nat) : M Unit := do
  let s ← getS
  if scrubDue s st then
    let g := fv s (HBM_SCRUB_POS_GROUP st)
    modStack st (fun k => { k with lastScrub := s.tick })
    each (List.range 64) (fun i => scrubLine st (st * stackBytes + (64 * g + i) * 256))
    if g + 1 = scrubGroups then
      setReg (HBM_SCRUB_POS st) 0
      bump (HBM_SCRUB_PASSES_COUNT st)
    else setReg (HBM_SCRUB_POS st) (g + 1)

/-- SCRUB_GROUP (R463). -/
def execScrubGroup (stack : Fin 12) (errs : List LineErr) (s : State) : Host.Outcome State Fault Refusal :=
  runM (withErrs errs (scrubGroup stack)) s

/-! ## Retirement (R467-R473) -/

/-- A spare slot that a retirement may take: none, or one that no remap entry names. -/
def slotFree (s : State) (st slot : Nat) : Bool :=
  slot = 0x1FF || (decide (slot < 256) && !(remaps s st).any (fun e => e.2 = slot))

/-- Whether a usable page of a stack is the pool frame of a move in transit (R471). -/
def frameMoves (s : State) (st page : Nat) : Bool :=
  s.wagon.moves.any (fun m => frameAt s m.frame = (st, page * page2M))

/-- A write of RETIRE (R467, R468). -/
def retireWrite (who : Who) (st page slot : Nat) : M Unit := do
  if who = .controlDie && decide (st < (← getS).part.nStacks) then
    setReg (HBM_RETIRE st) (page % 65536 + slot % 512 * 2 ^ 16)
    let s ← getS
    let p := page % 65536
    let q := slot % 512
    if decide (64256 ≤ p) || !slotFree s st q || decide (512 ≤ (remaps s st).length) || (theStack s st).retire.isSome then
      setFld (HBM_RETIRE_STATUS_RESULT st) 3
    else
      setFld (HBM_RETIRE_STATUS_RESULT st) 1
      modStack st (fun k => { k with retire := some ⟨p, q, frameMoves s st p⟩ })

/-- RETIRE (R467). -/
def execRetire (who : Who) (stack : Fin 12) (page slot : Nat) (s : State) : Host.Outcome State Fault Refusal :=
  runM (retireWrite who stack page slot) s

/-- The lines of a page whose reads may not be good: marked in memory, or met by an error of this command. -/
def oddLines (s : State) (a : Nat) : List Nat :=
  (((s.syn.map Prod.fst) ++ s.lineErrs.map LineErr.line).filter (fun x => decide (a ≤ x) && decide (x < a + page2M) && x % 256 = 0)).dedup

/-- Copy a page's 8,192 lines from one storage place to another (R469). -/
def copyPage (st src dst : Nat) : M Unit := do
  let odd := oddLines (← getS) src
  copyMem src dst page2M
  clearSyn (fun x => decide (dst ≤ x) && decide (x < dst + page2M))
  bumpBy (HBM_RD_LINES_COUNT st) (8192 - odd.length)
  bumpBy (HBM_WR_LINES_COUNT st) (8192 - odd.length)
  each odd (fun a => do
    let got ← readStored st a 3
    writeStored st (a - src + dst) (← lineData a got) (got != .good))

/-- The page at offset `off` of stack `st`: its entries complete (R469), and its lines move to the spare page of `slot`,
where there is one (R470). -/
def movePage (st slot : Nat) (off : Option Nat) : M Unit :=
  match off with
  | some o => do
    let src := st * stackBytes + o
    completeWhere st (fun e => decide (src ≤ e.line) && decide (e.line < src + page2M))
    when' (slot != 0x1FF) (copyPage st src (st * stackBytes + spareBase + slot * page2M))
  | none => pure ()

/-- A retirement completes: its remap entry is filled, and the lock is released (R470, R472, R473). -/
def retireDone (st : Nat) : M Unit := do
  let s ← getS
  match (theStack s st).retire with
  | some r =>
    if !r.waits && fv s (HBM_STATUS_STATE st) = 2 then
      movePage st r.slot (storageOff s st (r.page * page2M))
      match (List.range 512).find? (fun e => !fb s (HBM_REMAP_VALID st e)) with
      | some e => setReg (HBM_REMAP st e) (r.page + r.slot * 2 ^ 16 + 2 ^ 31)
      | none => pure ()
      modStack st (fun k => { k with retire := none })
      setFld (HBM_RETIRE_STATUS_RESULT st) 2
      setFld (HBM_RETIRE_STATUS_SPARES_LEFT st) (sparesLeft (← getS) st)
      historyAdd 5 st (r.page + r.slot * 2 ^ 16)
      when' (r.slot = 0x1FF) capUpdate
  | none => pure ()

/-- RETIRE_COMPLETE (R470). -/
def execRetireComplete (stack : Fin 12) (errs : List LineErr) (s : State) : Host.Outcome State Fault Refusal :=
  runM (withErrs errs (retireDone stack)) s

end Sys2Proof.Machine
end

