-- ==== Sys2Proof/Machine/Hbm.lean ====
section
/-!
DEFINITION. Machine/Hbm.lean: requests to HBM and the deep tier by a requester's number, the write-combining buffer's own
completions, and the maintenance path of a stack (R360-R395, R440-R446).
-/

namespace Sys2Proof.Machine

/-! ## Requests -/

/-- A requester's access by device-physical address; memory transfers of the I/O dies may write a page locked for
re-sourcing, as full lines (R586). -/
def viaReq (req cls mask : Nat) : Via :=
  ⟨req, cls, none, false, false, decide (68 ≤ req) && decide (req < 72) && mask = fullMask, 0⟩

/-- What a request that is held answers: a refusal of a unit in reset names its generation (R660); other holds wait. -/
def heldAnswer (addr : Nat) (w : HoldWhy) : M Unit := do
  match w with
  | .refused d u _ => do
    refuseAt addr ((fv (← getS) (genFld d u) + 1) % 65536)
  | _ => pure ()

/-- A request that is not performed: a core's context faults, another requester receives an error status (R7, R687). -/
def notPerformed (req code addr : Nat) : M Unit := do
  if req < 64 then
    faultCore req 1 code 0xFFFF 0 addr 0
    emit (.notPerformed addr)
  else emit (.errorStatus addr)

/-- A read by device-physical address. -/
def readReq (req cls addr : Nat) : M Unit := do
  match ← readLine (viaReq req cls 0) addr with
  | .data bs p => emit (.bytes (addr - addr % 256) bs p)
  | .uncorr bs => emit (.bytes (addr - addr % 256) bs true)
  | .absent code => notPerformed req code addr
  | .hold w => heldAnswer addr w

/-- A load of a Collie by context address: poisoned bytes bite, and the load does not complete (R446, R457). -/
def readCtxReq (n cls va : Nat) : M Unit := do
  let a := taskAcc (← getS) n cls
  let bite : M Unit := do
    faultCore n 7 0 0xFFFF 0 va 0
    emit (.notPerformed va)
  match ← ctxLine a va false with
  | .data bs p => if p then bite else emit (.bytes (va - va % 256) bs false)
  | .uncorr _ => bite
  | .stop w =>
    match w with
    | .hold h => do
      noteWait a.ctx h
      heldAnswer va h
    | w => do
      faultFor a w
      emit (.notPerformed va)

/-- A read of a line of the next tile of a LOAD stream: an uncorrectable line is re-sourced, recomputed, or poisoned, and
a line that stops the LOAD holds the tile or faults (R446, R447, R561). -/
def readLoadReq (n k va : Nat) : M Unit := do
  let s ← getS
  let x := theStream s n k
  if streamOpen s n k && dStation x.desc = stLoad then
    let d := x.desc
    let h := x.held.head?
    let v : LoadVia := ⟨taskAcc s n (readClass s n (some k)), df d 8 52 1 = 1,
      df d 8 57 1 = 1 && !(h.elim false HeldTile.noRecomp), h.elim false HeldTile.again⟩
    match ← loadRuns v [(va - va % 256, 256)] with
    | .error w => noteTile n k x.next (← loadStopped n v w)
    | .ok rows => emit (.bytes (va - va % 256) ((rows.headD []).map Prod.fst) ((rows.headD []).any Prod.snd))

/-! ## A stack's window and its pending requests (R366-R375) -/

/-- Lines that a pseudo-channel moves in a window (R370). -/
def windowLines : Nat := 145

/-- A pseudo-channel may still serve a line in its window, and no request waits there. -/
def pcOpen (s : State) (st pc : Nat) : Bool :=
  decide (pcCount (theStack s st).served pc < windowLines) && !(theStack s st).queue.any (fun q => pcAt (reqLine s st q) = pc)

/-- The slots of a class's reservation that pending requests of the class do not use. -/
def unusedRes (s : State) (st cls : Nat) : Nat :=
  fv s (if cls = 0 then HBM_SLOTS_CLASS0_RES st else HBM_SLOTS_CLASS1_RES st)
    - ((theStack s st).queue.filter (fun q => q.cls = cls)).length

/-- Whether a request of a class finds a slot (R374, R375): the reservations of other classes are not for it. -/
def slotFor (s : State) (st cls : Nat) : Bool :=
  let others := (if cls = 0 then 0 else unusedRes s st 0) + (if cls = 1 then 0 else unusedRes s st 1)
  decide (others + (theStack s st).queue.length < 5120)

/-- A request reaches a stack: it is served at once (`m`) while its pseudo-channel is open to it, and else waits in a slot, or
at its requester for one (R374, R375; log 42, DESIGN CHOICE). What stops an access to the address is for `m` to say. -/
def submit (q : HbmReq) (m : M Unit) : M Unit := do
  let s ← getS
  match regionOf s.part q.addr with
  | .hbm st off =>
    match if (rsrcOf s q.addr).isSome then Gate.absent 0 else gateHbm s q.req st off with
    | .at _ a =>
      if pcOpen s st (pcAt a) then m
      else
        match q.write with
        | some w => guardDir q.req q.addr w.2.1
        | none => pure ()
        if slotFor s st q.cls then
          modStack st (fun k => { k with queue := k.queue ++ [q] })
          noteSlots st ((theStack s st).queue.length + 1)
        else
          modStack st (fun k => { k with waits := k.waits ++ [q] })
          bump (HBM_SLOT_WAIT_COUNT st)
    | _ => m
  | _ => m

/-- The class that a pending request is served in: class 0 beyond its limit is class 1 for the rest of the window (R370). -/
def servedAs (s : State) (st : Nat) (q : HbmReq) : Nat :=
  if q.cls = 0 && class0Spent s st (pcAt (reqLine s st q)) then 1 else q.cls

/-- The requests that a pseudo-channel may serve next, in arrival order: not held, and none behind an earlier one for its
line (R366). -/
def servable (s : State) (st pc : Nat) : List HbmReq :=
  let mine := (theStack s st).queue.filter (fun q => pcAt (reqLine s st q) = pc)
  let first (q : HbmReq) : Bool := mine.find? (fun p => reqLine s st p = reqLine s st q) == some q
  mine.filter (fun q => first q && (match gateHbm s q.req st (q.addr % stackBytes) with | .at _ _ => true | _ => false))

/-- Lines per round of classes 1 to 3; 0 acts as 1 (R371). -/
def roundOf (s : State) (st : Nat) : List Nat :=
  [fv s (HBM_PRIO_W1 st), fv s (HBM_PRIO_W2 st), fv s (HBM_PRIO_W3 st)].map (max 1)

/-- The oldest request of the first of classes 1 to 3 that has lines left in a round, and the round after it. -/
def takeTurn (s : State) (st : Nat) (qs : List HbmReq) (round : List Nat) : Option (HbmReq × List Nat) :=
  (List.range 3).findSome? (fun k => if round.getD k 0 = 0 then none
    else (qs.find? (fun q => servedAs s st q = k + 1)).map (fun q => (q, round.set k (round.getD k 0 - 1))))

/-- The request that a pseudo-channel serves next (R370-R372): class 0 within its limit, then the oldest that has aged, then
classes 1 to 3 in turn; a round ends when no class with lines left has a request. -/
def pickReq (s : State) (st pc : Nat) (round : List Nat) : Option (HbmReq × List Nat) :=
  let qs := servable s st pc
  match qs.find? (fun q => servedAs s st q = 0) with
  | some q => some (q, round)
  | none =>
    match qs.find? HbmReq.aged with
    | some q => some (q, round)
    | none =>
      match takeTurn s st qs round with
      | some x => some x
      | none => takeTurn s st qs (roundOf s st)

/-- Serve up to a number of lines of a pseudo-channel. -/
def serveWindow (st pc : Nat) : Nat → List Nat → M Unit
  | 0, _ => pure ()
  | n + 1, round => do
    let s ← getS
    match pickReq s st pc round with
    | some (q, round) =>
      serveReq st (reqLine s st q) q
      serveWindow st pc n round
    | none => pure ()

/-- A pending request whose page no longer exists is not performed (R472). -/
def dropAbsent (st : Nat) : M Unit := do
  let s ← getS
  each (theStack s st).queue (fun q => match gateHbm s q.req st (q.addr % stackBytes) with
    | .absent code => do
      modStack st (fun k => { k with queue := k.queue.erase q })
      noteSlots st 0
      notPerformed q.req code q.addr
    | _ => pure ())

/-- Requests that wait for a slot of a stack are offered again, in their order. -/
def offerWaits (st : Nat) : M Unit := do
  let l := (theStack (← getS) st).waits
  when' (l != []) (do
    modStack st (fun k => { k with waits := [] })
    each l (fun q => submit q (do
      let s ← getS
      match gateHbm s q.req st (q.addr % stackBytes) with
      | .at _ a => serveReq st a q
      | .absent code => notPerformed q.req code q.addr
      | _ => modStack st (fun k => { k with waits := k.waits ++ [q] }))))

/-- A pseudo-channel's window opens (R368, R370): every pending class-0 request is class 0 again, up to 145 lines are served,
and requests without a slot are offered again. -/
def openWindow (st pc : Nat) : M Unit := do
  modStack st (fun k => { k with served0 := k.served0.filter (fun e => e.1 != pc), served := k.served.filter (fun e => e.1 != pc) })
  dropAbsent st
  serveWindow st pc windowLines (roundOf (← getS) st)
  offerWaits st

/-- The pseudo-channels of a stack that have served lines in their window or have requests pending. -/
def busyPcs (s : State) (st : Nat) : List Nat :=
  let k := theStack s st
  (k.served.map Prod.fst ++ k.queue.map (fun q => pcAt (reqLine s st q)) ++ k.waits.map (fun q => pcAt (reqLine s st q))).dedup

/-- A tick is longer than a window (R369): at a tick edge a new window opens at every pseudo-channel (log 42, DESIGN CHOICE). -/
def tickWindows : M Unit := do
  let s ← getS
  each (List.range s.part.nStacks) (fun st => each (busyPcs s st) (openWindow st))

/-- HBM_READ (R443). -/
def execHbmRead (req : Fin 73) (cls : Fin 4) (addr : Nat) (via : ReadVia) (errs : List LineErr) (s : State) :
    Host.Outcome State Fault Refusal := runT (withErrs errs (do
  let read : M Unit := submit ⟨req, cls, addr, none, false⟩ (readReq req cls addr)
  match via with
  | .physical => read
  | .context => if req.val < 64 then readCtxReq req cls addr else read
  | .load slot => if req.val < 64 then readLoadReq req slot addr else read)) s

/-- The class of a requester's writes (Table 9.6; the I/O dies and the control die: class 2). -/
def writeClass (s : State) (req : Nat) : Nat :=
  if req < 64 then (match ctxOfCore s req with | some c => fv s (CTX_HBM_CLASS_CLASS c) | none => 2)
  else if req = reqDisp then 1 else if req = reqWagon then fv s WAGON_CTRL_CLASS else if req = reqScrub then 3 else 2

/-- A write of bits of one line. -/
def writeNow (req addr data mask : Nat) (poison : Bool) : M Unit := do
  match ← writeLine (viaReq req 2 mask) addr data mask poison with
  | .ok => pure ()
  | .absent code => notPerformed req code addr
  | .hold w => heldAnswer addr w
  | .failed => if req < 64 then faultCore req 9 0 0xFFFF 0 addr 0 else emit (.errorStatus addr)

/-- A write request reaches its unit. -/
def writeReq (req addr data mask : Nat) (poison : Bool) : M Unit := do
  submit ⟨req, writeClass (← getS) req, addr, some (data, mask, poison), false⟩ (writeNow req addr data mask poison)

/-- FULL_LINE_WRITE (R376): the line that holds an address is written whole. -/
def execFullLineWrite (req : Fin 73) (addr data : Nat) (poison : Bool) (s : State) : Host.Outcome State Fault Refusal :=
  runT (writeReq req (addr - addr % 256) (data % 2 ^ 2048) fullMask poison) s

/-- PARTIAL_WRITE (R377): the bits of the line that a mask selects are written. -/
def execPartialWrite (req : Fin 73) (addr data mask : Nat) (poison : Bool) (errs : List LineErr) (s : State) :
    Host.Outcome State Fault Refusal := runT (withErrs errs (
  when' (mask % 2 ^ 2048 != 0) (writeReq req (addr - addr % 256) (data % 2 ^ 2048) (mask % 2 ^ 2048) poison))) s

/-- WCB_ENTRY_COMPLETE (R378, R379): the entry of a storage line of a stack, by its line index, is completed. -/
def execWcbEntryComplete (stack : Fin 12) (line : Nat) (errs : List LineErr) (s : State) : Host.Outcome State Fault Refusal :=
  runM (withErrs errs (completeLine stack (stack * stackBytes + line * 256))) s

/-- FENCE (R382). -/
def execFence (req : Fin 73) (errs : List LineErr) (s : State) : Host.Outcome State Fault Refusal :=
  runM (withErrs errs (fenceOf req)) s

/-- CLASS0_WINDOW (R368, R370): a new window of a pseudo-channel opens. -/
def execClass0Window (stack : Fin 12) (pc : Fin 64) (s : State) : Host.Outcome State Fault Refusal :=
  runT (openWindow stack pc) s

/-- The oldest pending request of class 1, 2 or 3 that has not aged is marked. -/
def ageOldest (s : State) (st : Nat) : List HbmReq → List HbmReq
  | [] => []
  | q :: qs => if !q.aged && servedAs s st q != 0 then { q with aged := true } :: qs else q :: ageOldest s st qs

/-- REQUEST_AGED (R372): a request has waited AGE_LIMIT cycles: it is counted, and is served before those that have not; 0
disables ageing. -/
def execRequestAged (stack : Fin 12) (s : State) : Host.Outcome State Fault Refusal := runM (do
  let s ← getS
  when' (fv s (HBM_STATUS_STATE stack) = 2 && fb s (HBM_AGE_LIMIT_CYCLES stack)) (do
    bump (HBM_AGED_COUNT stack)
    modStack stack (fun k => { k with queue := ageOldest s stack k.queue }))) s

/-! ## Maintenance (R388-R392, Table 9.9) -/

/-- A write of 1 to CTRL.MAINT: while TRAINING the stack enters MAINT when its training stops, and OUT_OF_SERVICE its
training has stopped. -/
def maintEnter (who : Who) (st : Nat) : M Unit := do
  let s ← getS
  let state := fv s (HBM_STATUS_STATE st)
  if who = .controlDie && decide (st < s.part.nStacks) && (state = 1 || state = 5) then
    setFld (HBM_CTRL_MAINT st) 1
    if state = 5 then
      setFld (HBM_STATUS_STATE st) 4
      capUpdate
    else modStack st (fun k => { k with toMaint := true })

/-- MAINT_ENTER (R388). -/
def execMaintEnter (who : Who) (stack : Fin 12) (s : State) : Host.Outcome State Fault Refusal := runM (maintEnter who stack) s

/-- A write of 0 to CTRL.MAINT: a stack in MAINT trains again. -/
def maintExit (who : Who) (st : Nat) : M Unit := do
  let s ← getS
  if who = .controlDie && decide (st < s.part.nStacks) then
    setFld (HBM_CTRL_MAINT st) 0
    modStack st (fun k => { k with toMaint := false })
    when' (fv s (HBM_STATUS_STATE st) = 4) (do
      setFld (HBM_STATUS_STATE st) 1
      capUpdate)

/-- MAINT_EXIT (R391). -/
def execMaintExit (who : Who) (stack : Fin 12) (s : State) : Host.Outcome State Fault Refusal := runM (maintExit who stack) s

/-- A maintenance command of code `op` on a pseudo-channel (R390). -/
def maintCmd (who : Who) (st op ch : Nat) (pc : Bool) (m : M Unit) : M Unit := do
  let s ← getS
  if who = .controlDie && fv s (HBM_STATUS_STATE st) = 4 then
    setReg (HBM_MAINT_CMD st) (op + ch * 16 + b2n pc * 512)
    m
    setFld (HBM_MAINT_STATUS_RESULT st) 2
  else when' (decide (st < s.part.nStacks)) (setFld (HBM_MAINT_STATUS_RESULT st) 3)

/-- A row of a pseudo-channel as the repair history numbers it, channel, pseudo-channel, bank and row (Table 14.7b). -/
def rowId (s : State) (st ch : Nat) (pc : Bool) : Nat :=
  ch + b2n pc * 32 + fv s (HBM_MAINT_ADDR_BANK st) * 64 + fv s (HBM_MAINT_ADDR_ROW st) * 2048

/-- The number of a mode register: its channel and MAINT_ADDR[7:0]. -/
def modeId (s : State) (st ch : Nat) : Nat := ch * 256 + fv s (HBM_MAINT_ADDR_MR st)

/-- The value of a mode register; one that no MR_WRITE set is a free value (log 3, DESIGN CHOICE), the same at every read until the next
training. -/
def modeReg (st ch : Nat) : M Nat := do
  let s ← getS
  let i := modeId s st ch
  match (theStack s st).modeRegs.find? (fun e => e.1 = i) with
  | some e => return e.2
  | none =>
    let v ← freeWord
    modStack st (fun k => { k with modeRegs := (i, v) :: k.modeRegs })
    return v

/-- What each maintenance command does (Table 9.9): MR_READ, MR_WRITE, SOFT_PPR (kept until power-off), HARD_PPR (R392:
permanent, with its entry in the repair history), SOFT_PPR_UNDO, MBIST and IEEE1500. MBIST returns the rows found failing
one per read of MAINT_DATA; the model leaves contents as they are (log 26, DESIGN CHOICE). -/
def maintOp (who : Who) (st op ch : Nat) (pc : Bool) (rows : List Nat) : M Unit := maintCmd who st op ch pc (do
  let s ← getS
  let mode := modeId s st ch
  let row := rowId s st ch pc
  let data := rg s (HBM_MAINT_DATA st)
  if op = 1 then
    setReg (HBM_MAINT_DATA st) (← modeReg st ch)
    modStack st (fun k => { k with mbist := [] })
  else if op = 2 then
    modStack st (fun k => { k with modeRegs := (mode, bits data 0 32) :: k.modeRegs.filter (fun e => e.1 != mode) })
  else if op = 3 then modStack st (fun k => { k with soft := row :: k.soft.filter (· != row) })
  else if op = 4 then
    modStack st (fun k => { k with hard := row :: k.hard.filter (· != row) })
    historyAdd 6 st row
  else if op = 5 then modStack st (fun k => { k with soft := k.soft.filter (fun i => i % 64 != ch + b2n pc * 32) })
  else if op = 6 then modStack st (fun k => { k with mbist := rows })
  else emit (.testPort st (bits data 0 16) (bits data 16 48)))

/-- MR_READ (R390). -/
def execMrRead (who : Who) (stack : Fin 12) (ch : Fin 32) (pc : Bool) (s : State) : Host.Outcome State Fault Refusal :=
  runM (maintOp who stack 1 ch pc []) s
/-- MR_WRITE (R390). -/
def execMrWrite (who : Who) (stack : Fin 12) (ch : Fin 32) (pc : Bool) (s : State) : Host.Outcome State Fault Refusal :=
  runM (maintOp who stack 2 ch pc []) s
/-- SOFT_PPR (R390). -/
def execSoftPpr (who : Who) (stack : Fin 12) (ch : Fin 32) (pc : Bool) (s : State) : Host.Outcome State Fault Refusal :=
  runM (maintOp who stack 3 ch pc []) s
/-- HARD_PPR (R390). -/
def execHardPpr (who : Who) (stack : Fin 12) (ch : Fin 32) (pc : Bool) (s : State) : Host.Outcome State Fault Refusal :=
  runM (maintOp who stack 4 ch pc []) s
/-- SOFT_PPR_UNDO (R390). -/
def execSoftPprUndo (who : Who) (stack : Fin 12) (ch : Fin 32) (pc : Bool) (s : State) : Host.Outcome State Fault Refusal :=
  runM (maintOp who stack 5 ch pc []) s
/-- MBIST (R390). -/
def execMbist (who : Who) (stack : Fin 12) (ch : Fin 32) (pc : Bool) (rows : List Nat) (s : State) :
    Host.Outcome State Fault Refusal := runM (maintOp who stack 6 ch pc rows) s
/-- IEEE1500 (R390): the test port receives the instruction and its data. -/
def execIeee1500 (who : Who) (stack : Fin 12) (ch : Fin 32) (pc : Bool) (s : State) : Host.Outcome State Fault Refusal :=
  runM (maintOp who stack 7 ch pc []) s

/-- A read of MAINT_DATA: the oldest failing row of the last MBIST that no read has returned, else the register. -/
def maintDataRead (st : Nat) : M Nat := do
  let s ← getS
  match (theStack s st).mbist with
  | r :: rest =>
    modStack st (fun k => { k with mbist := rest })
    return r % 2 ^ 64
  | [] => return rg s (HBM_MAINT_DATA st)

end Sys2Proof.Machine
end

