-- ==== Sys2Proof/Machine/Wagon.lean ====
section
/-!
DEFINITION. Machine/Wagon.lean: accesses to the deep tier by device-physical address, late and failed ones, heat, hints, and
the moves of deep pages between the deep tier and the pool (R396-R439, R701-R705).
-/

namespace Sys2Proof.Machine

/-! ## Deep accesses (R703, R420, R433-R435) -/

def modDeep (x id : Nat) (f : DeepAcc → DeepAcc) : M Unit :=
  modCxl x (fun c => { c with out := c.out.map (fun a => if a.id = id then f a else a) })
def dropDeep (x id : Nat) : M Unit := modCxl x (fun c => { c with out := c.out.filter (fun a => a.id != id) })

/-- A line is delivered: poisoned bytes bite at the load of a core, which does not complete (R457). -/
def deepGives (req : Nat) (ctx : Option Nat) (va : Nat) (bs : List Byte) (poison : Bool) : M Unit := do
  if poison && decide (req < 64) && ctx.isSome then
    faultCore req 7 0 0xFFFF 0 va 0
    emit (.notPerformed va)
  else emit (.bytes (va - va % 256) bs poison)

/-- What a line's read brings its requester. -/
def deepLine (req : Nat) (ctx : Option Nat) (va : Nat) (o : LineOut) : M Unit := do
  match o with
  | .data bs p => deepGives req ctx va bs p
  | .uncorr bs => deepGives req ctx va bs true
  | .absent code => notPerformed req code va
  | .hold w => heldAnswer va w

/-- What a line's write brings its requester. -/
def deepWrote (req : Nat) (va : Nat) (o : WrOut) : M Unit := do
  match o with
  | .absent code => notPerformed req code va
  | .hold w => heldAnswer va w
  | _ => pure ()

/-- The path of a DEEP_ACCESS, whose outcome its own command and the tick bring (R433-R435). -/
def viaDeep (req : Nat) (ctx : Option Nat) (va : Nat) (leaf2 : Bool) : Via :=
  ⟨req, 2, ctx, leaf2, ctx.isSome && !leaf2, false, va⟩

/-- An access of the named place of a line is answered: it reads or writes there. -/
def deepServe (off va req : Nat) (ctx : Option Nat) (lost : Bool) (data : Option (Nat × Nat)) : M Unit := do
  match data with
  | some w => deepWrote req va (← writeDeepLine (viaDeep req ctx va false) off w.1 w.2 false)
  | none => deepLine req ctx va (← readDeepLine (viaDeep req ctx va false) off lost)

/-- An access to a line's named place: answered at once, or outstanding on its port for as many ticks as `reply` says. -/
def deepNamed (q : DeepWait) (off : Nat) (lost leaf1 : Bool) : M Unit := do
  let s ← getS
  let x := deepPort s off
  if q.reply = some 0 && portUp s x then deepServe off q.va q.req q.ctx lost q.data
  else deepOut x off q.va q.req q.ctx q.data (if portUp s x then q.reply.map (s.tick + ·) else none) leaf1 false

/-- The access waits until its page is free, and is counted (R420, R584). -/
def deepWaitsFor (q : DeepWait) (again : Bool) : M Unit := do
  modWagon (fun w => { w with waiting := w.waiting ++ [q] })
  match q.ctx with
  | some c => when' (!again) (bump (CTX_LOCK_WAITS_COUNT c))
  | none => pure ()

/-- The directory entry is read at class 1 before the access goes to the home that it names (R408, R703): the walker's read
bites where the entry is poisoned; what stops the read stops the access. -/
def deepDir (q : DeepWait) (d : Nat) : M Bool := do
  let s ← getS
  match q.ctx with
  | none =>
    match ← dirGate (viaDeep q.req none q.va false) d with
    | none => return true
    | some o =>
      deepLine q.req none q.va o
      return false
  | some c =>
    if fv s WAGON_STATUS_STATE = 0 then return true
    else
      let a : CtxAcc := ⟨q.req, if q.req < 64 then some q.req else none, c, 1, none⟩
      match (← walkRead a (dirAddr s d)).2 with
      | none => return true
      | some (.hold w) =>
        heldAnswer q.va w
        return false
      | some w =>
        faultFor a w
        emit (.notPerformed q.va)
        return false

/-- An access to fitted deep memory follows its page's home; through a level-2 leaf it adds heat (R402, R409, R703). `again`:
it has waited for its page. -/
def deepFollow (q : DeepWait) (off : Nat) (again : Bool) : M Unit := do
  let s ← getS
  if q.ctx.isSome && !q.leaf2 then deepNamed q off false true
  else if (rsrcOf s q.addr).isSome || inTransit s (deepIdx off) then deepWaitsFor q again
  else if ← deepDir q (deepIdx off) then
    match homeOf (← getS) off with
    | .waits _ => deepWaitsFor q again
    | .named o lost =>
      when' q.leaf2 (addHeat (deepIdx off))
      deepNamed q o lost false
    | .pool st o =>
      match q.data with
      | some w =>
        let r ← writeHbm reqWagon st o w.1 w.2 false
        when' (q.leaf2 && !r.held) (addHeat (deepIdx off))
        deepWrote q.req q.va r
      | none =>
        let r ← readHbm reqWagon 2 st o 0
        when' (q.leaf2 && !r.held) (addHeat (deepIdx off))
        deepLine q.req q.ctx q.va r

/-- A DEEP_ACCESS: an address that is reserved, absent or not fitted is not accessed (R7); one of another unit is none of the
deep tier. -/
def deepAccess (q : DeepWait) (again : Bool) : M Unit := do
  let s ← getS
  let bad : M Unit := match q.ctx with
    | some c => do
      faultCtxAs c 1 0 0xFFFF 0 q.va 0
      emit (.notPerformed q.va)
    | none => notPerformed q.req 0 q.va
  match regionOf s.part q.addr with
  | .deep off => if off ≥ deepFitted s then bad else deepFollow q off again
  | .reserved => bad
  | _ => pure ()

/-- DEEP_ACCESS (R703): `data` and its bit mask are written, or the line is read; `va` is the context address it was made
by, where a context makes it; `reply` says how many ticks after its issue the expander answers, if it does. -/
def execDeepAccess (req : Fin 73) (ctx : Option (Fin 16)) (addr va : Nat) (leaf2 : Bool) (data : Option (Nat × Nat))
    (reply : Option Nat) (errs : List LineErr) (s : State) : Host.Outcome State Fault Refusal :=
  runT (withErrs errs (deepAccess ⟨req, ctx.map Fin.val, addr, if ctx.isSome then va else addr, leaf2,
    data.map (fun w => (w.1 % 2 ^ 2048, w.2 % 2 ^ 2048)), reply⟩ false)) s

/-- Accesses whose page is free again go to its home (R420). -/
def deepRetry : M Unit := do
  let l := (← getS).wagon.waiting
  when' (l != []) (do
    modWagon (fun w => { w with waiting := [] })
    each l (fun q => deepAccess q true))

/-- An access without an answer in time is late (R433). -/
def deepLate (x : Nat) (a : DeepAcc) : M Unit := do
  let s ← getS
  when' (!a.late && !a.failed && decide (a.issued + fv s WAGON_DEEP_LATE_TICKS < s.tick)) (do
    modDeep x a.id (fun a => { a with late := true })
    bump (CXL_LATE_COUNT x)
    match a.ctx with
    | some c => bump (CTX_DEEP_LATE_N_COUNT c)
    | none => pure ())

/-- The access of a port with a number. -/
def deepOf (s : State) (x id : Nat) : Option DeepAcc := (theCxl s x).out.find? (fun a => a.id = id)

/-- DEEP_ACCESS_LATE (R433). -/
def execDeepAccessLate (port : Fin 8) (id : Nat) (s : State) : Host.Outcome State Fault Refusal := runM (do
  match deepOf (← getS) port id with
  | some a => deepLate port a
  | none => pure ()) s

/-- Whether an access has failed (R434). -/
def deepFailDue (s : State) (a : DeepAcc) : Bool :=
  !a.failed && decide (a.issued + fv s WAGON_DEEP_FAIL_TICKS < s.tick)

/-- An access fails: a read returns poison, a write faults its context and leaves its line undefined (log 3, DESIGN CHOICE). -/
def deepFails (x id : Nat) : M Unit := do
  let s ← getS
  match deepOf s x id with
  | none => pure ()
  | some a =>
    if deepFailDue s a then
      noteRank 4
      modDeep x id (fun a => { a with failed := true })
      bump (CXL_FAILED_COUNT x)
      match a.ctx with
      | some c => bump (CTX_DEEP_FAIL_N_COUNT c)
      | none => pure ()
      let taken : M Unit := match a.ctx with
        | some c => takeFault ⟨9, 0, c, if a.req < 64 then a.req else 0xFF, 0xFFFF, if a.req < 64 then taskRef s a.req else none, 0,
            a.va - a.va % 256, 0⟩
        | none => emit (.errorStatus a.va)
      match a.write with
      | none => if !a.polled then deepGives a.req a.ctx a.va (← freeBytes 256) true
      | some _ =>
        setMem (deepCell s (a.off - a.off % 256)) (← freeBytes 256)
        when' (a.ctx.isSome || !a.polled) taken

/-- DEEP_ACCESS_FAIL (R434). -/
def execDeepAccessFail (port : Fin 8) (id : Nat) (s : State) : Host.Outcome State Fault Refusal := runT (deepFails port id) s

/-- An answer arrives: it serves its access, or is discarded where the access has failed (R435). A port that has gone down
brings no answer (R434). -/
def deepAnswers (x : Nat) (a : DeepAcc) : M Unit := do
  let s ← getS
  if a.failed then
    dropDeep x a.id
    bump WAGON_LATE_DISCARD_COUNT
  else if !portUp s x then modDeep x a.id (fun a => { a with due := none })
  else
    dropDeep x a.id
    let lost := match homeOf s a.off with | .named _ l => l && !a.leaf1 | _ => false
    deepServe a.off a.va a.req a.ctx lost a.write

/-- LATE_ANSWER_DISCARD (R435): the answer of a failed access arrives. -/
def execLateAnswerDiscard (port : Fin 8) (id : Nat) (s : State) : Host.Outcome State Fault Refusal := runT (do
  match deepOf (← getS) port id with
  | some a => when' a.failed (deepAnswers port a)
  | none => pure ()) s

/-! ## Heat (R409, R410) -/

/-- Halve every heat. -/
def halveHeat : M Unit := do
  let s ← getS
  modWagon (fun w => { w with
    heat := msetAll (fun _ => 0) [] (w.heat.map (fun e => (e.1, e.2 / 2))), halved := s.tick })

/-- Add the accesses sampled at a tick edge to the heat of their pages (R409, R410). -/
def countHeat : M Unit := do
  let s ← getS
  each s.wagon.touched (fun e => modWagon (fun w => { w with
    heat := mset (fun _ => 0) w.heat e.1 (min 65535 (mget (fun _ => 0) w.heat e.1 + e.2)) }))
  modWagon (fun w => { w with touched := [] })

/-- Whether a halving is due at this tick. -/
def halveDue (s : State) : Bool := s.tick % max 1 s.wagon.epoch = 0 && s.wagon.halved != s.tick

/-- HEAT_EPOCH (R410). -/
def execHeatEpoch (s : State) : Host.Outcome State Fault Refusal := runM (do when' (halveDue (← getS)) halveHeat) s

/-! ## Hints (R413, R414) -/

/-- Hints are dropped (R414). A page that a hint skips is only counted. -/
def hintDrop (n : Nat) : M Unit := do
  when' (n != 0) (flag WAGON_STATUS_HINT_DROP)
  bumpBy WAGON_HINT_DROPS_COUNT n

/-- A write of HINT; a reserved OP is dropped and only counted (Table 10.4). -/
def hintWrite (who : Who) (op page count : Nat) : M Unit := do
  let s ← getS
  let state := fv s WAGON_STATUS_STATE
  when' (decide (op < 5)) (setReg WAGON_HINT (op + page % 2 ^ 31 * 2 ^ 21 + count * 2 ^ 52))
  if op = 0 then pure ()
  else if 5 ≤ op then bump WAGON_HINT_DROPS_COUNT
  else if state = 0 || state = 2 || decide (64 ≤ s.wagon.hints.length) then hintDrop 1
  else
    let pages := (List.range (count + 1)).map (fun i => page % 2 ^ 31 + i)
    match who with
    | .controlDie => modWagon (fun w => { w with hints := w.hints ++ [⟨op, none, pages, false⟩] })
    | .collie n =>
      match ctxOfCore s n with
      | some c => modWagon (fun w => { w with hints := w.hints ++ [⟨op, some (c, n), pages, false⟩] })
      | none => hintDrop 1

/-- PROMOTE (R413). -/
def execPromote (who : Who) (page : Nat) (count : Fin 4096) (s : State) : Host.Outcome State Fault Refusal :=
  runM (hintWrite who 1 page count) s
/-- EVICT (R413). -/
def execEvict (who : Who) (page : Nat) (count : Fin 4096) (s : State) : Host.Outcome State Fault Refusal :=
  runM (hintWrite who 2 page count) s
/-- PIN (R413). -/
def execPin (who : Who) (page : Nat) (count : Fin 4096) (s : State) : Host.Outcome State Fault Refusal :=
  runM (hintWrite who 3 page count) s
/-- UNPIN (R413). -/
def execUnpin (who : Who) (page : Nat) (count : Fin 4096) (s : State) : Host.Outcome State Fault Refusal :=
  runM (hintWrite who 4 page count) s

/-- The device-physical page that a page of a hint names, if any; `none` inside: its walk waits. Translating a hint faults
nothing (R414). -/
def hintPage (ctx : Option (Nat × Nat)) (page : Nat) : M (Option (Option Nat)) := do
  let fitted (s : State) (pa : Nat) : Option Nat :=
    match regionOf s.part pa with
    | .deep off => if off < deepFitted s then some (deepIdx off) else none
    | _ => none
  match ctx with
  | none => return some (fitted (← getS) (page * page2M))
  | some (c, n) =>
    let s ← getS
    let a : CtxAcc := { taskAcc s n 1 with ctx := c }
    match ← translate a (page * page2M) false with
    | .ok x => return some (if x.leaf2 then fitted s x.pa else none)
    | .stop (.hold _) => return none
    | .stop _ => return some none

/-- Translate the pages of the hints that are new, as deep indices; what does not translate is skipped (R414). A hint whose
walk waits stays as it is. -/
def prepHint (h : Hint) : M (Bool × Hint) := do
  let ps ← gather (if h.ready then [] else h.pages) (hintPage h.ctx)
  if h.ready then return (true, h)
  else if ps.any Option.isNone then return (false, h)
  else
    let good := (ps.filterMap id).filterMap id
    bumpBy WAGON_HINT_DROPS_COUNT (h.pages.length - good.length)
    return (true, { h with ready := true, pages := good })

/-! ## The pool -/

/-- The entry word of pool frame f. -/
def frameWord (s : State) (f : Nat) : Nat := dirWord s (dirFrameAddr s f)

/-- Every promoted page, as (frame, deep index). -/
def promotedPages (s : State) : List (Nat × Nat) :=
  if fv s WAGON_STATUS_STATE = 0 then []
  else (List.range (poolFrames s)).filterMap (fun f => let w := frameWord s f; if bit w 0 then some (f, bits w 1 24) else none)

/-- Frames homing no page. -/
def poolFreeCount (s : State) : Nat := poolFrames s - (promotedPages s).length

/-- Whether a promotion under way fills a frame. -/
def frameFilling (s : State) (f : Nat) : Bool := s.wagon.moves.any (fun m => m.promote && m.frame = f)

/-- Whether a frame may take a page: it homes none, no move fills it, its stack serves, and it is not being retired (R419,
R430, R471). -/
def frameFree (s : State) (f : Nat) : Bool :=
  let p := frameAt s f
  !bit (frameWord s f) 0 && !frameFilling s f && fv s (HBM_STATUS_STATE p.1) = 2
    && !(match (theStack s p.1).retire with | some r => r.page = p.2 / page2M | none => false)

/-- The lowest free frame. -/
def freeFrame (s : State) : Option Nat := (List.range (poolFrames s)).find? (frameFree s)

def heatOf (s : State) (d : Nat) : Nat := mget (fun _ => 0) s.wagon.heat d

/-- Whether a page is in transit or locked for re-sourcing (R420, R584). -/
def pageLocked (s : State) (d : Nat) : Bool := inTransit s d || (rsrcOf s (deepBase + d * page2M)).isSome

/-! ## Granting moves (R411-R419) -/

/-- A move is granted: its page is in transit. -/
def grantMove (d f : Nat) (promote pin : Bool) : M Unit := modWagon (fun w => { w with moves := w.moves ++ [⟨d, f, promote, pin⟩] })

/-- Set or clear PINNED of a page. -/
def setPinned (d : Nat) (p : Bool) : M Unit := do
  let s ← getS
  let e := dirOf s d
  when' (e.pinned != p) (writeDir (dirAddr s d) ({ e with pinned := p, heat := heatOf s d } : DirEnt).word)

/-- Promotions by policy, by descending heat and ascending index (R411, R419). -/
def policyPromos (s : State) : List Nat :=
  let lim := fv s WAGON_POLICY_PROMOTE_HEAT
  if lim = 0 then []
  else
    let l := s.wagon.heat.filter (fun e => decide (lim ≤ e.2) && decide (e.1 < deepPages s) && !pageLocked s e.1
      && !(dirOf s e.1).promoted && !(dirOf s e.1).lost)
    (sortBy (fun a b => decide (b.2 < a.2) || (a.2 = b.2 && decide (a.1 < b.1))) l).map Prod.fst

/-- Unpinned promoted pages not in transit, by ascending heat and frame (R412), as (frame, page). -/
def coldPages (s : State) (pinned : Bool) : List (Nat × Nat) :=
  sortBy (fun a b => decide (heatOf s a.2 < heatOf s b.2) || (heatOf s a.2 = heatOf s b.2 && decide (a.1 < b.1)))
    ((promotedPages s).filter (fun p => (pinned || !(dirOf s p.2).pinned) && !inTransit s p.2))

/-- Evictions by policy (R412). -/
def policyEvicts (s : State) : List (Nat × Nat) :=
  let free := poolFreeCount s + (s.wagon.moves.filter (fun m => !m.promote)).length
    - (s.wagon.moves.filter (fun m => m.promote)).length
  (coldPages s false).take (fv s WAGON_POLICY_FREE_LOW - free)

/-- A promotion or eviction that a hint's page asks for and that needs a move. -/
def needsMove (s : State) (op d : Nat) : Bool :=
  let e := dirOf s d
  !pageLocked s d && (if op = 2 then e.promoted && !e.pinned else (op = 1 || op = 3) && !e.promoted && !e.lost)

/-- The hints that this tick takes, the one that stays at the head included (R415). -/
def reached (s : State) : Nat → Nat → List Hint → List Hint
  | _, _, [] => []
  | slots, frames, h :: rest =>
    if !h.ready then []
    else
      let n := (h.pages.filter (needsMove s h.op)).length
      if slots < n || (h.op != 2 && frames < n) then [h]
      else h :: reached s (slots - n) (if h.op = 2 then frames else frames - n) rest

/-- Judge one page of a hint; whether it is disposed of. `promos`: the pages with a promotion request at this tick. -/
def judgePage (promos : List Nat) (op d : Nat) : M Bool := do
  let s ← getS
  let e := dirOf s d
  if op = 2 && promos.contains d then
    bump WAGON_DISCARDED_COUNT
    return true
  else if pageLocked s d then
    modWagon (fun w => { w with held := w.held ++ [⟨op, d⟩] })
    return true
  else if op = 4 then
    setPinned d false
    return true
  else if op = 2 then
    if e.promoted && e.pinned then
      bump WAGON_HINT_DROPS_COUNT
      return true
    else if !e.promoted then return true
    else if s.wagon.moves.length < 4 then
      grantMove d e.frame false false
      return true
    else return false
  else if e.promoted then
    when' (op = 3) (setPinned d true)
    return true
  else if e.lost then
    bump WAGON_HINT_DROPS_COUNT
    return true
  else
    match freeFrame s with
    | some f =>
      if s.wagon.moves.length < 4 then
        grantMove d f true (op = 3)
        return true
      else return false
    | none => return false

/-- The pages of a hint that stay. -/
def judgePages (promos : List Nat) (op : Nat) : List Nat → M (List Nat)
  | [] => pure []
  | d :: ds => do
    let gone ← judgePage promos op d
    let rest ← judgePages promos op ds
    return if gone then rest else d :: rest

/-- Take hints, oldest first, until one stays at the head. -/
def judgeHints (promos : List Nat) : List Hint → M Unit
  | [] => modWagon (fun w => { w with hints := [] })
  | h :: rest => do
    if !h.ready then modWagon (fun w => { w with hints := h :: rest })
    else
      match ← judgePages promos h.op h.pages with
      | [] => judgeHints promos rest
      | ps => modWagon (fun w => { w with hints := { h with pages := ps } :: rest })

/-- Held requests whose page is no longer in transit come first; one without a free slot or frame stays. -/
def judgeHeld (promos : List Nat) (l : List HeldReq) : M Unit :=
  each l (fun r => do
    if !(← judgePage promos r.op r.page) then modWagon (fun w => { w with held := w.held ++ [r] }))

/-- Grant promotions of the policy while slots and frames last. -/
def grantPromos : List Nat → M Unit
  | [] => pure ()
  | d :: ds => do
    let s ← getS
    match freeFrame s with
    | some f => when' (decide (s.wagon.moves.length < 4) && !pageLocked s d) (grantMove d f true false)
    | none => pure ()
    grantPromos ds

/-- Grant evictions while slots last; one whose page has a promotion request is discarded (R416). -/
def grantEvicts (promos : List Nat) : List (Nat × Nat) → M Unit
  | [] => pure ()
  | (f, d) :: ds => do
    let s ← getS
    if promos.contains d then bump WAGON_DISCARDED_COUNT
    else when' (decide (s.wagon.moves.length < 4) && !pageLocked s d) (grantMove d f false false)
    grantEvicts promos ds

/-- The drain is over: no page is promoted and no move runs (R407). -/
def drainOver (s : State) : Bool :=
  fv s WAGON_STATUS_STATE = 2 && !fb s WAGON_CTRL_EN && s.wagon.moves.isEmpty && (promotedPages s).isEmpty

/-- The Wagon judges a tick's requests once the tick's events are taken (R416). -/
def wagonJudges : M Unit := do
  let s ← getS
  if fv s WAGON_STATUS_STATE = 1 then
    let hs ← gather s.wagon.hints prepHint
    modWagon (fun w => { w with hints := hs.map Prod.snd, held := w.held.filter (fun r => pageLocked s r.page) })
    let free := s.wagon.held.filter (fun r => !pageLocked s r.page)
    let s ← getS
    let taken := reached s (4 - s.wagon.moves.length) ((List.range (poolFrames s)).filter (frameFree s)).length s.wagon.hints
    let asks (op d : Nat) : List Nat := if op = 1 || op = 3 then [d] else []
    let byHint := free.flatMap (fun r => asks r.op r.page) ++ taken.flatMap (fun h => h.pages.flatMap (asks h.op))
    let byHeat := policyPromos s
    let cold := policyEvicts s
    judgeHeld (byHint ++ byHeat) free
    judgeHints (byHint ++ byHeat) s.wagon.hints
    grantPromos byHeat
    grantEvicts byHint cold
  else if fv s WAGON_STATUS_STATE = 2 && !fb s WAGON_CTRL_EN then grantEvicts [] (coldPages s true)

/-! ## Moves (R421-R425) -/

/-- The port of a granule of a deep page, by the offset in the window, answers. -/
def offUp (s : State) (off : Nat) : Bool := portUp s (deepPort s off)

/-- The offsets in a deep page of its lines that are marked, or that an error of this command meets. -/
def oddDeep (s : State) (d : Nat) : List Nat :=
  ((deepGranules s (d * page2M)).zipIdx.flatMap (fun g =>
    ((s.syn.map Prod.fst).filter (fun x => decide (g.1 ≤ x) && decide (x < g.1 + 4096) && x % 256 = 0)).map (fun x => x - g.1 + 4096 * g.2)))
  ++ ((s.lineErrs.map LineErr.line).filter (fun x => decide (deepBase + d * page2M ≤ x) && decide (x < deepBase + (d + 1) * page2M)
      && x % 256 = 0)).map (· - (deepBase + d * page2M))

/-- Lines of a promotion's page that are copied one by one: those that may not be good, and those of a port that does not
answer. -/
def oddOffs (s : State) (d : Nat) : List Nat :=
  (oddDeep s d
    ++ (if (deepPorts s).all (portUp s) then [] else (List.range 8192).filterMap (fun i =>
        if offUp s (d * page2M + 256 * i) then none else some (256 * i)))).dedup

/-- The deep page of an index stands with no mark on its lines. -/
def clearDeepMarks (d : Nat) : M Unit := do
  let gs := deepGranules (← getS) (d * page2M)
  clearSyn (fun x => gs.any (fun g => decide (g ≤ x) && decide (x < g + 4096)))

/-- Count the lines that a port moves of `k` of a page's lines, spread evenly over the interleave. -/
def bumpPorts (f : Nat → Fld) (k : Nat) : M Unit := do
  let ps := deepPorts (← getS)
  each ps (fun x => bumpBy (f x) (k / ps.length))

/-- Copy a page from the deep tier to a pool frame's storage (R421, R425). -/
def copyUp (d st dst : Nat) : M Unit := do
  let s ← getS
  let odd := oddOffs s d
  modStack st (fun k => { k with wcb := k.wcb.filter (fun e => !(decide (dst ≤ e.line) && decide (e.line < dst + page2M))) })
  each (deepGranules s (d * page2M)).zipIdx (fun g => copyMem g.1 (dst + 4096 * g.2) 4096)
  clearSyn (fun x => decide (dst ≤ x) && decide (x < dst + page2M))
  bumpPorts CXL_RD_LINES_COUNT (8192 - odd.length)
  bumpBy (HBM_WR_LINES_COUNT st) (8192 - odd.length)
  each odd (fun o => do
    match ← readDeepLine (viaWagon s) (d * page2M + o) false with
    | .data bs p => writeStored st (dst + o) bs p
    | .uncorr bs => writeStored st (dst + o) bs true
    | _ => pure ())

/-- Copy a pool frame's storage to the deep tier (R421). -/
def copyDown (d st src : Nat) : M Unit := do
  completeWhere st (fun e => decide (src ≤ e.line) && decide (e.line < src + page2M))
  let s ← getS
  let odd := (oddLines s src).map (· - src)
  each (deepGranules s (d * page2M)).zipIdx (fun g => copyMem (src + 4096 * g.2) g.1 4096)
  clearDeepMarks d
  bumpBy (HBM_RD_LINES_COUNT st) (8192 - odd.length)
  bumpPorts CXL_WR_LINES_COUNT (8192 - odd.length)
  each odd (fun o => do
    let got ← readStored st (src + o) 0
    let bs ← lineData (src + o) got
    let _ ← writeDeepLine (viaWagon s) (d * page2M + o) (leNat bs) fullMask (got != .good))

/-- A move ends: its lock is released, and a retirement that waited for it begins (R423, R471). -/
def endMove (m : Move) : M Unit := do
  let s ← getS
  let p := frameAt s m.frame
  modWagon (fun w => { w with moves := w.moves.filter (fun x => x != m) })
  modStack p.1 (fun k => { k with retire := k.retire.map (fun r => if r.page = p.2 / page2M then { r with waits := false } else r) })

/-- The Wagon enters DISABLED. -/
def enterDisabled : M Unit := setFld WAGON_STATUS_STATE 0

/-- A move is abandoned: its page keeps its pool frame (R424). The write that failed is counted at its port, the lowest of
the interleave that does not answer (R434). -/
def moveFails (m : Move) : M Unit := do
  let s ← getS
  bump (CXL_FAILED_COUNT (((deepPorts s).find? (fun x => !portUp s x)).getD ((deepPorts s).headD 0)))
  endMove m
  flag WAGON_STATUS_MOVE_FAIL
  bump WAGON_MOVE_FAILS_COUNT

/-- Whether an access to a page's named place is not answered yet (R421). -/
def deepBusy (s : State) (d : Nat) : Bool := s.cxls.any (fun e => e.2.out.any (fun a => !a.failed && deepIdx a.off = d))

/-- A move that has its copy to make copies its page and writes the directory. -/
def moveCopies (m : Move) (st a : Nat) : M Unit := do
  let s ← getS
  let h := heatOf s m.page
  if m.promote then copyUp m.page st a else copyDown m.page st a
  writeDir (dirAddr s m.page) (DirEnt.mk m.promote (m.promote && m.pin) false (if m.promote then m.frame else 0) h).word
  writeDir (dirFrameAddr s m.frame) (if m.promote then 1 + m.page % 2 ^ 24 * 2 else 0)
  endMove m
  bump WAGON_MOVES_COUNT
  bumpBy WAGON_BYTES_COUNT page2M
  noteRank 6
  when' (drainOver (← getS)) enterDisabled

/-- A move's last line is written: both directory entries are written and its lock is released (R423). A move whose write
into the deep tier fails is abandoned. -/
def moveDone (m : Move) : M Unit := do
  let s ← getS
  let p := frameAt s m.frame
  if fv s (HBM_STATUS_STATE p.1) = 2 && !deepBusy s m.page then
    match storageOff s p.1 p.2 with
    | none => if !m.promote then moveFails m
    | some o =>
      if !m.promote && !(deepPorts s).all (portUp s) then moveFails m
      else moveCopies m p.1 (p.1 * stackBytes + o)

/-- The move of a deep page, by its deep index. -/
def moveOf (s : State) (d : Nat) : Option Move := s.wagon.moves.find? (fun m => m.page = d)

/-- The completion of a page's move is taken (R423), with what its reads meet. -/
def moveCompletes (page : Nat) (errs : List LineErr) : M Unit := withErrs errs (do
  match moveOf (← getS) page with
  | some m => moveDone m
  | none => pure ())

/-- MOVE_COMPLETE (R423): the last line of the move of the deep page of an index is written; its completion is an event of
rank 6 at the next tick edge. -/
def execMoveComplete (page : Nat) (errs : List LineErr) (s : State) : Host.Outcome State Fault Refusal := runM (do
  when' (moveOf (← getS) page).isSome (latch ⟨6, 2, none, 0, .moveDone page errs⟩)) s

/-- MOVE_FAIL (R424): a write of an eviction into the deep tier has failed. -/
def execMoveFail (page : Nat) (s : State) : Host.Outcome State Fault Refusal := runM (do
  match moveOf (← getS) page with
  | some m => when' (!m.promote) (moveFails m)
  | none => pure ()) s

/-! ## Enabling and draining (R407, R429-R431) -/

/-- The stacks in service. -/
def stacksUp (s : State) : List Nat := (List.range s.part.nStacks).filter (fun i => fv s (HBM_STATUS_STATE i) = 2)

/-- A write of 1 to CTRL.EN: DISABLED it runs at once with the stacks then in service, DRAINING from the next tick edge. -/
def wagonEnable : M Unit := do
  let s ← getS
  if fv s WAGON_STATUS_STATE = 0 && !fb s WAGON_CTRL_EN then
    modWagon (fun w => { w with dir := w.dir.filter (fun e => w.dirDue.contains e.1) })
    setFld WAGON_POOL_STACKS_MASK (maskOf (stacksUp s))
    setFld WAGON_STATUS_STATE 1
    setFld WAGON_CTRL_EN 1
    let s ← getS
    modWagon (fun w => { w with lost := w.lost.filter (fun d => (dirOf s d).lost) })
    capUpdate
  else setFld WAGON_CTRL_EN 1

/-- WAGON_ENABLE (R430). -/
def execWagonEnable (s : State) : Host.Outcome State Fault Refusal := runM wagonEnable s

/-- A write of 0 to CTRL.EN. -/
def wagonDisable : M Unit := do
  setFld WAGON_CTRL_EN 0
  when' (fv (← getS) WAGON_STATUS_STATE = 1) (setFld WAGON_STATUS_STATE 2)

/-- WAGON_DISABLE (R407). -/
def execWagonDisable (s : State) : Host.Outcome State Fault Refusal := runM wagonDisable s

/-- WAGON_DRAIN_COMPLETE (R407). -/
def execWagonDrainComplete (s : State) : Host.Outcome State Fault Refusal := runM (do
  when' (drainOver (← getS)) enterDisabled) s

/-- What a tick edge does to a Wagon that drains: EN = 1 returns it to RUNNING, an ended drain disables it. -/
def drainTick : M Unit := do
  let s ← getS
  if fv s WAGON_STATUS_STATE = 2 && fb s WAGON_CTRL_EN then setFld WAGON_STATUS_STATE 1
  else when' (drainOver s) enterDisabled

/-- A page homed in a pool stack out of service is LOST, and its frame is free (R431). -/
def markLost (f d : Nat) : M Unit := do
  let s ← getS
  writeDir (dirAddr s d) (DirEnt.mk false false true 0 (heatOf s d)).word
  writeDir (dirFrameAddr s f) 0
  modWagon (fun w => { w with lost := if w.lost.contains d then w.lost else w.lost ++ [d] })
  bump WAGON_LOST_PAGES_COUNT

/-- A RESUMING Wagon has read the directory: heat comes from its entries, and it runs or drains (R429, R413). -/
def resumeDone : M Unit := do
  let s ← getS
  if fv s WAGON_STATUS_STATE = 3 then
    let d := deepPages s
    let r ← readPhys (viaWagon s) (rg s WAGON_DIR_BASE) (8 * (d + poolFrames s))
    match r.stop with
    | some (.hold _) => pure ()
    | _ =>
      let es := (List.range (d + poolFrames s)).map (fun i => dirWord s (rg s WAGON_DIR_BASE + 8 * i))
      let heat := (es.take d).zipIdx.map (fun e => (e.2, (DirEnt.of e.1).heat))
      modWagon (fun w => { w with heat := msetAll (fun _ => 0) [] heat })
      setFld WAGON_STATUS_STATE (if fb s WAGON_CTRL_EN then 1 else 2)
      let homes := (es.drop d).zipIdx.filterMap (fun e => if bit e.1 0 then some (e.2, bits e.1 1 24) else none)
      each (homes.filter (fun p => fv s (HBM_STATUS_STATE (frameAt s p.1).1) = 5)) (fun p => markLost p.1 p.2)
      when' (!fb s WAGON_CTRL_EN) (do
        hintDrop s.wagon.hints.length
        modWagon (fun w => { w with hints := [] }))

/-- WAGON_RESUME_COMPLETE (R429). -/
def execWagonResumeComplete (errs : List LineErr) (s : State) : Host.Outcome State Fault Refusal :=
  runM (withErrs errs resumeDone) s

end Sys2Proof.Machine
end

