-- ==== Sys2Proof/Machine/Objects.lean ====
section
/-!
DEFINITION. Machine/Objects.lean: signed objects (Table 13.9, R591-R593) and the bodies of firmware images, configuration
blocks, identity records, activation records and attestation reports (Tables 13.8, 13.10, 14.5, 14.6).
-/

namespace Sys2Proof.Machine

/-- `n` bytes that a function gives. -/
def takeFn (n : Nat) (f : Nat → Byte) : List Byte := (List.range n).map f

/-- SHA-384. -/
def sha384 (m : List Byte) : List Byte := takeFn 48 (Config.sha384 m)

/-! ## The envelope (Table 13.9) -/

def envType (o : List Byte) : Nat := fieldAt o 4 2
def envLen (o : List Byte) : Nat := fieldAt o 8 4
def envDevice (o : List Byte) : List Byte := (o.drop 0x10).take 16
def envSerial (o : List Byte) : Nat := fieldAt o 0x20 8
def envBody (o : List Byte) : List Byte := (o.drop 0x40).take (envLen o)

/-- Bytes of both signatures. -/
def sigBytes : Nat := 384 + 16224

/-- Bytes that are all zero. -/
def zeros (bs : List Byte) : Bool := bs.all (· = 0)

/-- The reserved ranges of a body, by TYPE: offset and length. -/
def bodyRsvd (type : Nat) : List (Nat × Nat) :=
  if type = 2 then [(0x0B, 1), (0x51, 175)]
  else if type = 3 then (List.range 7).map (fun i => (0x10 + 12 * i + 11, 1)) ++ [(0x126, 122)]
  else if type = 4 then [(56, 8)]
  else []

/-- MAGIC, TYPE, VERSION, SIGNER, the length and the reserved fields of an object for the device are right (R592, R593). -/
def envForm (o : List Byte) : Bool :=
  fieldAt o 0 4 = 0x4F535954 && decide (1 ≤ envType o) && decide (envType o ≤ 4) && fieldAt o 6 2 = 1 && fieldAt o 0xC 4 = 0
    && o.length = 0x40 + envLen o + sigBytes && zeros ((o.drop 0x28).take 24)
    && (bodyRsvd (envType o)).all (fun r => zeros (((envBody o).drop r.1).take r.2))

/-- This device's DEVICE_ID. -/
def ownId (s : State) : List Byte := natLe 8 (rg s SEC_DEVICE_ID0) ++ natLe 8 (rg s SEC_DEVICE_ID1)

/-- DEVICE_ID of an object is zero or a device's own. -/
def envMine (own o : List Byte) : Bool := zeros (envDevice o) || envDevice o = own

/-- The device accepts an object (R593). -/
def envAccepted (own o : List Byte) : Bool := envForm o && envMine own o && Config.sigOk o

/-! ## Bodies -/

/-- MIN_SERIAL of a firmware image or configuration block. -/
def minSerial (o : List Byte) : Nat := fieldAt (envBody o) 0 8

/-- SAVE_COMPAT of a firmware image. -/
def saveCompat (o : List Byte) : Nat := fieldAt (envBody o) 8 4

/-- The component of a firmware image with an ID of Table 14.5. -/
def fwComp (o : List Byte) (id : Nat) : List Byte :=
  let b := envBody o
  match (List.range (min 4 (fieldAt b 0xC 4))).find? (fun c => fieldAt b (0x10 + 64 * c) 4 = id) with
  | some c => (b.drop (fieldAt b (0x10 + 64 * c + 4) 4)).take (fieldAt b (0x10 + 64 * c + 8) 8)
  | none => []

/-- IMAGE_DIGEST and ACT_TICK of an activation record (R630). -/
def actDigest (o : List Byte) : List Byte := (envBody o).take 48
def actTick (o : List Byte) : Nat := fieldAt (envBody o) 48 8

/-- The identity record's DEVICE_ID, which is also that of its body (Table 13.8). -/
def identId (o : List Byte) : List Byte := (envBody o).take 16

/-! ## Reports (R594) -/

/-- The active firmware image and the configuration block in use. -/
def activeFw (s : State) : List Byte := s.flash.fw.getD s.flash.dir.fwActive []
def activeCfg (s : State) : List Byte := s.flash.cfg.getD (fv s CHAIN_START_CFG_SLOT) []

/-- The body of a report (Table 13.10). -/
def reportBody (s : State) (nonce : List Byte) : List Byte :=
  let fw := activeFw s
  (nonce ++ natLe 32 0).take 32 ++ natLe 8 s.tick ++ natLe 2 (fv s SEC_FP_DIST_DIST) ++ natLe 1 (fv s SEC_STATUS_IDENTITY)
    ++ natLe 5 0 ++ sha384 s.flash.ident ++ [2, 3, 4, 1].flatMap (fun id => sha384 (fwComp fw id)) ++ sha384 (activeCfg s)
    ++ (List.range 64).flatMap (fun w => natLe 8 (rg s (DISP_CAP w)))
    ++ ctxNums.flatMap (fun c => natLe 1 (ctxState s c) ++ natLe 1 (b2n (theCtx s c).key.isSome)
      ++ natLe 2 (fv s (CTX_FABRIC_JOB_JOB c)) ++ natLe 4 0 ++ natLe 8 ((theCtx s c).key.elim 0 Prod.snd))
    ++ natLe 208 0

/-- A report, signed with the device's keys; its SERIAL is not given by the spec (log 3, DESIGN CHOICE). -/
def report (s : State) (serial : Nat) (nonce : List Byte) : List Byte :=
  let m := natLe 4 0x4F535954 ++ natLe 2 5 ++ natLe 2 1 ++ natLe 4 1312 ++ natLe 4 1 ++ ownId s ++ natLe 8 serial ++ natLe 24 0
    ++ reportBody s nonce
  m ++ takeFn sigBytes (Config.sign m)

end Sys2Proof.Machine
end

