-- ==== Sys2Proof/Machine/Sec.lean ====
section
/-!
DEFINITION. Machine/Sec.lean: context keys, verification of sealed ranges, weight generations, re-sourcing and attestation
(13_weights_keys_attestation.md, R562-R596).
-/

namespace Sys2Proof.Machine

/-! ## Keys (R562-R566) -/

/-- A blob's bytes as the result of reading it, and the code that refuses it (Table 13.6), if any: its form first, then
whose it is and its last tick, before anything is decapsulated (R566). -/
def blobCode (s : State) (b : List Byte) (bad : Bool) : Option Nat :=
  if bad || fieldAt b 0 4 != 0x4B575954 || fieldAt b 4 4 != 1 then some 3
  else if (b.drop 8).take 16 != ownId s then some 5
  else if fieldAt b 0x20 8 != 0 && decide (fieldAt b 0x20 8 < s.tick) then some 6
  else none

/-- KEK of a blob (R565). -/
def blobKek (b : List Byte) : List Byte :=
  let pub := (b.drop 0x660).take 97
  let ikm := takeFn 32 (Config.mlkemDecap ((b.drop 0x40).take 1568)) ++ takeFn 48 (Config.ecdhShared pub)
  takeFn 32 (Config.hkdf384 ((b.drop 8).take 16) ikm (b.take 0x6D0))

/-- The key of a blob: its GCM plaintext where its shared point and its tag check (R565). -/
def openBlob (b : List Byte) : Option Nat :=
  let kek := blobKek b
  let iv := natLe 12 0
  let ct := (b.drop 0x6D0).take 32
  if Config.ecdhOk ((b.drop 0x660).take 97) && takeFn 16 (Config.gcmTag kek iv (b.take 0x40) ct) = (b.drop 0x6F0).take 16 then
    some (leNat (decryptBytes kek iv 0 ct))
  else none

/-- KEY_CMD.GO: the key of a context is installed, or the code of what refuses it is reported. -/
def keyInstall (who : Who) (c : Nat) : M Unit := do
  if who = .controlDie then
    setFld SEC_KEY_CMD_CTX c
    let s ← getS
    if ctxState s c != 0 && ctxState s c != 4 then setFld SEC_KEY_STATUS_RESULT 8
    else if fv s SEC_STATUS_IDENTITY != 1 then setFld SEC_KEY_STATUS_RESULT 7
    else
      let r ← readPhys viaDie (rg s SEC_KEY_SRC) 1792
      match blobCode s r.bs (r.poison || r.stop.isSome) with
      | some code => setFld SEC_KEY_STATUS_RESULT code
      | none =>
        match openBlob r.bs with
        | some k =>
          modCtx c (fun x => { x with key := some (k, fieldAt r.bs 0x18 8) })
          setFld SEC_KEY_STATUS_RESULT 2
        | none => setFld SEC_KEY_STATUS_RESULT 4

/-- KEY_INSTALL (R563, R565). -/
def execKeyInstall (who : Who) (ctx : Fin 16) (errs : List LineErr) (s : State) : Host.Outcome State Fault Refusal :=
  runM (withErrs errs (keyInstall who ctx)) s

/-- KEY_CMD.ERASE (R564). -/
def keyErase (who : Who) (c : Nat) : M Unit := do
  if who = .controlDie then
    setFld SEC_KEY_CMD_CTX c
    eraseKey c

/-- KEY_ERASE (R564). -/
def execKeyErase (who : Who) (ctx : Fin 16) (s : State) : Host.Outcome State Fault Refusal := runM (keyErase who ctx) s

/-! ## Verification (R567-R570) -/

/-- A write of VERIFY_CMD queues a verification of the lines that VERIFY_FIRST and VERIFY_COUNT name. -/
def verifyQueue (who : Who) (c e : Nat) : M Unit := do
  if who = .controlDie then
    let s ← getS
    if decide (16 ≤ s.sec.queue.length) then flag SEC_STATUS_VERIFY_OVF
    else
      setReg SEC_VERIFY_CMD (c + 16 * e)
      modSec (fun x => { x with queue := x.queue ++ [⟨c, e, fv s SEC_VERIFY_FIRST_LINE, fv s SEC_VERIFY_COUNT_LINES⟩] })
      setFld SEC_VERIFY_STATUS_QUEUED (s.sec.queue.length + 1)

/-- VERIFY_QUEUE (R567). -/
def execVerifyQueue (who : Who) (ctx entry : Fin 16) (s : State) : Host.Outcome State Fault Refusal :=
  runM (verifyQueue who ctx entry) s

/-- Translate an address of a seal entry for the verify engine: in the weight window by the entry's own slot, in whatever
state it is (R575). -/
def verifyXlate (c e va : Nat) : M XRes := do
  let s ← getS
  let a := dispAcc c
  let w0 := rg s (CTX_SEAL_W0 c e)
  if inWindow s c va then
    if bit w0 1 then return (← walkFrom a va false (rg s (CTX_GSLOTk_L1 c (bits w0 2 2)))).1
    else return .stop (.fault 1 5 va)
  else translate a va false

/-- What the verify engine reads. -/
inductive VLine where
  | good (bs : List Byte)
  | bad
  | waits
  deriving DecidableEq, Repr

/-- Read the line of a context address under Table 11.1 at class 1, open to a page that is being re-sourced (R568, R587).
A translation that fails faults the context (R318). -/
def verifyRead (c e va : Nat) : M VLine := do
  let a := dispAcc c
  let stopped (w : Stop) : M VLine := do
    match w with
    | .hold _ => return .waits
    | w =>
      faultFor a w
      return .bad
  match ← verifyXlate c e va with
  | .stop w => stopped w
  | .ok x =>
    match ← dirWalk a x with
    | some w => stopped w
    | none =>
      match ← readLine { viaOf a x va with lockOk := true } x.pa with
      | .data bs p => return if p then .bad else .good bs
      | .uncorr _ => return .bad
      | .absent code => stopped (.fault 1 code va)
      | .hold w => stopped (.hold w)

/-- The tag of a ciphertext line under a key (R553). -/
def lineTag (key : List Byte) (s : State) (c e i : Nat) (ct : List Byte) : List Byte :=
  takeFn 16 (Config.gcmTag key (sealIv (sealObj s c e) (sealGen s c e) (bits (rg s (CTX_SEAL_W2 c e)) 0 48 + i)) [] ct)

/-- Judge line i of a seal entry: whether it fails; none: it waits. -/
def verifyLine (c e i : Nat) : M (Option Bool) := do
  let s ← getS
  let va := bits (rg s (CTX_SEAL_W0 c e)) 21 31 * page2M + 256 * i
  let ta := bits (rg s (CTX_SEAL_W3 c e)) 4 48 * 16 + 16 * i
  match ← verifyRead c e va with
  | .waits => return none
  | l =>
    match ← verifyRead c e ta with
    | .waits => return none
    | t =>
      match l, t with
      | .good ct, .good tl =>
        let key ← keyBytes c
        return some ((tl.drop (ta % 256)).take 16 != lineTag key s c e i ct)
      | _, _ => return some true

/-- Judge n lines from line i: the failing ones; none: one waits. -/
def verifyLines (c e : Nat) : Nat → Nat → M (Option (List Nat))
  | 0, _ => pure (some [])
  | n + 1, i => do
    match ← verifyLine c e i with
    | none => return none
    | some bad =>
      match ← verifyLines c e n (i + 1) with
      | none => return none
      | some l => return some (if bad then i :: l else l)

/-- The oldest verification completes; one that meets a request that waits completes later. -/
def verifyComplete : M Unit := do
  let s ← getS
  match s.sec.queue with
  | [] => pure ()
  | v :: rest =>
    match ← verifyLines v.ctx v.entry v.count v.first with
    | none => pure ()
    | some bad =>
      modSec (fun x => { x with
        queue := rest, done := x.done ++ [⟨v.ctx, v.entry, !bad.isEmpty, bad.headD 0, min 255 bad.length⟩] })
      setFld SEC_VERIFY_STATUS_QUEUED rest.length
      bumpBy SEC_VERIFY_LINES_COUNT v.count
      when' (!bad.isEmpty) (do
        bump SEC_VERIFY_FAILS_COUNT
        flag SEC_STATUS_VERIFY_FAIL)

/-- VERIFY_COMPLETE (R568, R570). -/
def execVerifyComplete (errs : List LineErr) (s : State) : Host.Outcome State Fault Refusal :=
  runT (withErrs errs verifyComplete) s

/-- A read of VERIFY_DONE returns and removes the oldest completed verification; none: 0. -/
def verifyDoneRead : M Nat := do
  let s ← getS
  match s.sec.done with
  | [] => return 0
  | d :: rest =>
    modSec (fun x => { x with done := rest })
    return d.ctx + 16 * d.entry + 256 + 512 * b2n d.fail + d.firstBad % 2 ^ 40 * 2 ^ 16 + d.bad * 2 ^ 56

/-- VERIFY_DONE_READ (R570). -/
def execVerifyDoneRead (s : State) : Host.Outcome State Fault Refusal :=
  runM (do emit (.regValue SEC_VERIFY_DONE (← verifyDoneRead))) s

/-! ## Weight generations (R573-R581) -/

/-- HOLDERS of a slot (R581): tasks bound to it, and enabled rosters that pin it. -/
def holders (s : State) (c k : Nat) : Nat :=
  (coreNums.filter (fun n => match (theCore s n).task with
    | some t => t.ctx = c && t.gslot = some k
    | none => false)).length
  + ((List.range 8).filter (fun r => (theRoster s c r).en && bits (theCtx s c).rosterGen (4 * r) 3 = 4 + k)).length

/-- A write of 1 to LOAD (0), READY (1) or ABANDON (2) of a slot (R573). -/
def gslotWrite (who : Who) (c k op : Nat) : M Unit := do
  if who = .controlDie then
    let s ← getS
    let st := fv s (CTX_GSLOTk_STATE c k)
    if op = 0 then when' (st = 0) (setFld (CTX_GSLOTk_STATE c k) 1)
    else if op = 1 then when' (st = 1) (setFld (CTX_GSLOTk_STATE c k) 2)
    else when' ((st = 1 || st = 2) && holders s c k = 0) (setFld (CTX_GSLOTk_STATE c k) 0)

/-- GSLOT_LOAD (R573). -/
def execGslotLoad (who : Who) (ctx : Fin 16) (k : Fin 4) (s : State) : Host.Outcome State Fault Refusal :=
  runM (gslotWrite who ctx k 0) s
/-- GSLOT_READY (R573). -/
def execGslotReady (who : Who) (ctx : Fin 16) (k : Fin 4) (s : State) : Host.Outcome State Fault Refusal :=
  runM (gslotWrite who ctx k 1) s
/-- GSLOT_ABANDON (R573). -/
def execGslotAbandon (who : Who) (ctx : Fin 16) (k : Fin 4) (s : State) : Host.Outcome State Fault Refusal :=
  runM (gslotWrite who ctx k 2) s

/-- ROSTER_GEN_WRITE (R578): the tick edge puts the register in force. -/
def execRosterGenWrite (who : Who) (ctx : Fin 16) (data : Nat) (s : State) : Host.Outcome State Fault Refusal :=
  runM (when' (who = .controlDie) (setReg (CTX_ROSTER_GEN ctx) data)) s

/-- A weight-generation switch acts (R580). -/
def genSwitchNow (c : Nat) : M Unit := do
  noteRank 5
  setFld (CTX_GEN_STATUS_ARMED c) 0
  let s ← getS
  let k := fv s (CTX_GEN_SWITCH_SLOT c)
  let st := fv s (CTX_GSLOTk_STATE c k)
  if st = 2 then
    when' (fb s (CTX_GEN_STATUS_HAS_CURRENT c)) (setFld (CTX_GSLOTk_STATE c (fv s (CTX_GEN_STATUS_CURRENT c))) 4)
    setFld (CTX_GSLOTk_STATE c k) 3
    setFld (CTX_GEN_STATUS_CURRENT c) k
    setFld (CTX_GEN_STATUS_HAS_CURRENT c) 1
  else when' (st != 3) (flag (CTX_GEN_STATUS_SWITCH_REJECT c))

/-- A switch is armed and its tick has come (R579). -/
def genDue (s : State) (c : Nat) : Bool := fb s (CTX_GEN_STATUS_ARMED c) && decide (rg s (CTX_GEN_AT c) ≤ s.tick)

/-- GEN_SWITCH (R580). -/
def execGenSwitch (ctx : Fin 16) (s : State) : Host.Outcome State Fault Refusal := runM (do
  when' (genDue (← getS) ctx) (genSwitchNow ctx)) s

/-- A RETIRING slot without holders becomes FREE after a tick's events (R581). -/
def retireSlots : M Unit :=
  each ctxNums (fun c => each (List.range 4) (fun k => do
    let s ← getS
    when' (fv s (CTX_GSLOTk_STATE c k) = 4 && holders s c k = 0) (do
      setFld (CTX_GSLOTk_STATE c k) 0
      flag (CTX_GEN_STATUS_RETIRED c))))

/-! ## Re-sourcing (R583-R588) -/

/-- The value of RSRC_REQ: the oldest open request, which stays open. -/
def rsrcReqValue (s : State) : Nat :=
  match s.wagon.rsrc with
  | [] => 0
  | r :: _ => 1 + r.page % 2 ^ 48

/-- RSRC_REQ_READ (R583). -/
def execRsrcReqRead (s : State) : Host.Outcome State Fault Refusal :=
  runM (do emit (.regValue WAGON_RSRC_REQ (rsrcReqValue (← getS)))) s

/-- Close a request: its page is unlocked, and every access that waits on it reads again. -/
def closeRsrc (page : Nat) : M Unit := modWagon (fun w => { w with rsrc := w.rsrc.filter (fun r => r.page != page) })

/-- A write of RSRC_DONE is a completion at the first tick edge after it (R587). -/
def rsrcDoneWrite (page : Nat) : M Unit := do
  let base := page % 2 ^ 48 - page % page2M
  setReg WAGON_RSRC_DONE base
  latch ⟨6, 2, none, 0, .rsrcDone base⟩

/-- RSRC_DONE (R587). -/
def execRsrcDone (page : Nat) (s : State) : Host.Outcome State Fault Refusal := runM (rsrcDoneWrite page) s

/-- A re-source is done: the page is no longer LOST (R432). -/
def rsrcCompletes (page : Nat) : M Unit := do
  let s ← getS
  if s.wagon.rsrc.any (fun r => r.page = page) then
    closeRsrc page
    clearLost page

/-- The open request of a page whose limit has passed (R588). -/
def rsrcLate (s : State) (page : Nat) : Option Rsrc :=
  s.wagon.rsrc.find? (fun r => r.page = page && decide (r.opened + fv s WAGON_RSRC_LIMIT_TICKS < s.tick))

/-- A request expires: its record is written, and what waits on it reads without a further request (R588); a completion of
the same tick is discarded. -/
def rsrcExpires (page : Nat) : M Unit := do
  match rsrcLate (← getS) page with
  | none => pure ()
  | some r =>
    noteRank 4
    bump WAGON_RSRC_FAILS_COUNT
    let seq ← takeRecord ⟨13, 1, r.ctx, 0xFF, 0xFFFF, none, 0, page, 0⟩
    nameInRecord seq (← supersede (fun e => e.kind = .rsrcDone page))
    let s ← getS
    each coreNums (fun n => each (List.range 16) (fun k =>
      when' ((theStream s n k).held.any (fun h => h.why = .rsrc page))
        (modStream n k (fun x => { x with held := x.held.map (fun h => if h.why = .rsrc page then { h with again := true } else h) }))))
    closeRsrc page

/-- RSRC_EXPIRY (R588). -/
def execRsrcExpiry (page : Nat) (s : State) : Host.Outcome State Fault Refusal := runT (rsrcExpires page) s

/-- An access waits for a free queue entry at this tick (R585). -/
def rsrcFull (s : State) : Bool :=
  decide (16 ≤ s.wagon.rsrc.length)
    && coreNums.any (fun n => (theCore s n).streams.any (fun x => x.held.any (fun h => match h.why with
      | .rsrc p => !h.again && !s.wagon.rsrc.any (fun r => r.page = p)
      | _ => false)))

/-! ## Attestation (R594) -/

/-- ATTEST_REQUEST (R594): a report; a device without identity refuses it (R590). -/
def execAttestRequest (nonce : List Byte) (s : State) : Host.Outcome State Fault Refusal := runM (do
  when' (fv (← getS) SEC_STATUS_IDENTITY = 1) (do
    let serial ← freeWord
    emit (.report (report (← getS) serial nonce)))) s

end Sys2Proof.Machine
end

