-- ==== Sys2Proof/Machine/Start.lean ====
section
/-!
DEFINITION. Machine/Start.lean: the start sequence (R597-R623, Table 14.8), what a device reset keeps and clears (Table
15.5), training of stacks and ports, firmware activation (R630-R636), and loss of power.
-/

namespace Sys2Proof.Machine

/-! ## The device secret (R589) -/

/-- This device's DEVICE_ID as its identity record in flash gives it. -/
def flashId (s : State) : List Byte := (identId s.flash.ident ++ natLe 16 0).take 16

/-- F XOR H for a fingerprint F, with the helper string H of the identity record; bit 0 is the least significant bit of the
first byte (log 13, DESIGN CHOICE). -/
def printXor (s : State) (f : List Byte) : Nat :=
  leNat ((f ++ natLe 480 0).take 480) ^^^ leNat (((envBody s.flash.ident).drop 0x1A0).take 480)

/-- How many of the 15 bits are set that give bit `i` of S. -/
def printOnes (x i : Nat) : Nat := ((List.range 15).filter (fun j => x.testBit (15 * i + j))).length

/-- The device secret S: each bit by majority (R589). -/
def secretOf (x : Nat) : List Byte :=
  (List.range 32).map (fun k => BitVec.ofNat 8 ((List.range 8).map (fun j => b2n (decide (8 ≤ printOnes x (8 * k + j))) * 2 ^ j)).sum)

/-- The fingerprint distance: bits of F XOR H that differ from their majority (R589). -/
def printDist (x : Nat) : Nat := ((List.range 256).map (fun i => min (printOnes x i) (15 - printOnes x i))).sum

/-! ## The directory and its registers (R610, R611, Table 14.13) -/

/-- K_D (R610). -/
def stateKey (s : State) : List Byte :=
  takeFn 32 (Config.hkdf384 (flashId s) s.chain.secret ("TY-418x flash state".toList.map (fun c => BitVec.ofNat 8 c.toNat)))

/-- MAC of a directory copy's first 256 bytes (Table 14.4). -/
def dirMac (s : State) (b : List Byte) : List Byte := takeFn 32 (Config.hmac384 (stateKey s) b)

/-- A directory copy that holds `d` (Table 14.4). -/
def dirBytes (s : State) (d : Dir) : List Byte :=
  let b := natLe 4 0x44495254 ++ natLe 4 0 ++ natLe 8 d.seq ++ natLe 1 d.fwActive ++ natLe 1 (b2n d.armed) ++ natLe 6 0
    ++ natLe 8 d.actTick ++ (d.actDigest ++ natLe 48 0).take 48 ++ natLe 8 d.fwFloor ++ natLe 8 d.cfgFloor
    ++ natLe 8 (d.fwSerial.getD 0 0) ++ natLe 8 (d.fwSerial.getD 1 0) ++ natLe 144 0
  b ++ dirMac s b

/-- What copy `k` holds, where it is valid (R611). -/
def readCopy (s : State) (k : Nat) : Option Dir :=
  let b := s.flash.copies.getD k []
  if fieldAt b 0 4 = 0x44495254 && (b.drop 0x100).take 32 = dirMac s (b.take 0x100) then
    some ⟨k, fieldAt b 8 8, fieldAt b 0x10 1 % 2, fieldAt b 0x11 1 % 2 = 1, fieldAt b 0x18 8, (b.drop 0x20).take 48, fieldAt b 0x50 8,
      fieldAt b 0x58 8, [fieldAt b 0x60 8, fieldAt b 0x68 8]⟩
  else none

/-- The directory that the device uses: the valid copy with the higher SEQ (R611), copy 0 of two equal ones (log 13, DESIGN
CHOICE). -/
def readDir (s : State) : Dir :=
  match readCopy s 0, readCopy s 1 with
  | some a, some b => if a.seq < b.seq then b else a
  | some a, none => a
  | none, some b => b
  | none, none => .none

/-- The directory is changed: the other copy is overwritten with SEQ + 1 (R611). -/
def modDir (f : Dir → Dir) : M Unit := do
  let s ← getS
  let d := { f s.flash.dir with copy := 1 - s.flash.dir.copy, seq := s.flash.dir.seq + 1 }
  modFlash (fun x => { x with dir := d, copies := x.copies.set d.copy (dirBytes s d) })

/-- The firmware object of a slot. -/
def fwSlot (s : State) (k : Nat) : List Byte := s.flash.fw.getD k []

/-- The registers that show the directory and the active image. -/
def showDir : M Unit := do
  let s ← getS
  let d := s.flash.dir
  let o := fwSlot s d.fwActive
  setReg CHAIN_FW_INFO (d.fwActive + 2 * b2n d.armed + saveCompat o % 65536 * 65536)
  setReg CHAIN_ACT_TICK d.actTick
  setReg CHAIN_FW_SERIAL (d.fwSerial.getD d.fwActive 0)
  setReg CHAIN_FW_FLOOR d.fwFloor

/-! ## Phases 1 and 2 -/

/-- A slot's image passes R593. -/
def fwOk (s : State) (k : Nat) : Bool := envAccepted (flashId s) (fwSlot s k) && envType (fwSlot s k) = 1

/-- The slot whose boot stage the boot ROM runs (R621); none: RECOVERY. -/
def bootSlot (s : State) : Option Nat :=
  let a := s.flash.dir.fwActive
  if fwOk s a then some a
  else if fwOk s (1 - a) && decide (s.flash.dir.fwFloor ≤ envSerial (fwSlot s (1 - a))) then some (1 - a)
  else none

/-- A configuration slot qualifies (R612). -/
def cfgOk (s : State) (k : Nat) : Bool :=
  let o := s.flash.cfg.getD k []
  envAccepted (flashId s) o && envType o = 2 && envDevice o = flashId s && decide (s.flash.dir.cfgFloor ≤ envSerial o)
    && fieldAt (envBody o) 8 2 = s.part.code

/-- The configuration slot in use: among those that qualify, the one with the higher SERIAL (R612). -/
def cfgSlot (s : State) : Option Nat :=
  let ser (k : Nat) := envSerial (s.flash.cfg.getD k [])
  if cfgOk s 0 && (!cfgOk s 1 || decide (ser 1 ≤ ser 0)) then some 0 else if cfgOk s 1 then some 1 else none

/-- The start sequence from phase 1 to the wait of phase 3: the secret is recovered and the directory read, the boot stage is
chosen, records are read, die links train. -/
def startFrom (found : StartInput) : M Unit := do
  let x := printXor (← getS) found.print
  modChain (fun _ => { ChainSt.start with found := found, secret := secretOf x })
  let d := readDir (← getS)
  modFlash (fun f => { f with dir := d })
  resetWhere (fun a => decide (CHAIN_STATUS ≤ a) && decide (a < CHAIN_STATUS + 0x10000))
  each [TIME_STATUS_LOCKED, TIME_STATUS_HOLDOVER, TIME_STATUS_MASTER] (fun f => setFld f 0)
  modTime (fun t => { t with missing := 0, holdLen := 0, unaligned := false, load := false, slew := false, ptp := found.ptp % 2 ^ 64 })
  setFld TIME_STATUS_PTP_LOCK (b2n found.ptpLock)
  setFld CHAIN_START_PHASE 1
  let s ← getS
  match bootSlot s with
  | none =>
    setFld CHAIN_START_MODE 2
    showDir
  | some k =>
    when' (k != s.flash.dir.fwActive) (do
      modDir (fun d => { d with fwActive := k })
      flag CHAIN_START_FW_FALLBACK)
    setFld CHAIN_START_PHASE 2
    showDir
    setReg SEC_DEVICE_ID0 (leNat ((flashId s).take 8))
    setReg SEC_DEVICE_ID1 (leNat ((flashId s).drop 8))
    setFld SEC_FP_DIST_DIST (printDist x)
    modLink (fun l => { l with down := [found.badModules.getD 0 false, found.badModules.getD 1 false] })
    match cfgSlot s with
    | some c =>
      setFld CHAIN_START_CFG_SLOT c
      let low := minSerial (s.flash.cfg.getD c [])
      when' (decide ((← getS).flash.dir.cfgFloor < low)) (modDir (fun d => { d with cfgFloor := low }))
    | none => pure ()
    setFld CHAIN_START_PHASE 3

/-! ## Phases 4 and 5: self-test and the repair map (R614, R616-R618) -/

/-- What self-test found of an Ox: physical rows and columns. -/
def oxFound (f : StartInput) (o : Nat) : List Nat × List Nat :=
  match f.oxDefects.find? (fun d => d.1.val = o) with
  | some d => (d.2.1.dedup, d.2.2.dedup)
  | none => ([], [])

/-- Enter a repair that the history does not hold yet. -/
def historyNew (kind unit data : Nat) : M Unit := do
  let s ← getS
  when' (!s.history.any (fun e => e.kind = kind && e.unit = unit && e.data = data && e.inForce)) (historyAdd kind unit data)

/-- Self-test's findings enter the history, and sentinel fences that they explain stop being in force (R614, R616). -/
def enterFound (f : StartInput) : M Unit := do
  each f.oxDefects (fun d => do
    let r := oxFound f d.1
    when' (decide (1 ≤ r.1.length + r.2.length) && decide (r.1.length ≤ 2) && decide (r.2.length ≤ 2))
      (modHistory (fun l => l.map (fun e => if e.kind = 3 && e.unit = d.1.val && e.data = 1 then { e with live := false } else e)))
    each r.1 (historyNew 1 d.1)
    each r.2 (historyNew 2 d.1))
  each f.badBanks (fun b => historyNew 4 b.1 b.2)
  each f.badCores (fun n => historyNew 7 n 0)

/-- The skipped rows or columns of an Ox: the defective ones ascending, then 129 and 128 (R616). -/
def skips (bad : List Nat) : List Nat :=
  match sortBy (fun a b => decide (a < b)) bad with
  | [] => [128, 129]
  | [a] => [a, if a = 129 then 128 else 129]
  | l => l

/-- The repair map of one Ox. -/
def mapOx (f : StartInput) (o : Nat) : M Unit := do
  let s ← getS
  let of' (k : Nat) := (s.history.filter (fun e => e.kind = k && e.unit = o && e.inForce)).map RepEnt.data
  let rows := ((oxFound f o).1 ++ of' 1).dedup
  let cols := ((oxFound f o).2 ++ of' 2).dedup
  let fenced := s.history.any (fun e => e.inForce && ((e.kind = 3 && e.unit = o) || (e.kind = 7 && e.unit = o / 4)))
  if decide (2 < rows.length) || decide (2 < cols.length) || fenced then setFld (OX_CTRL_FENCE o) 1
  else
    let r := skips rows
    let c := skips cols
    setReg (OX_REPAIR o) (r.getD 0 0 + r.getD 1 0 * 2 ^ 8 + c.getD 0 0 * 2 ^ 16 + c.getD 1 0 * 2 ^ 24)

/-- Replay a PAGE entry (R617). -/
def replayPage (e : RepEnt) : M Unit := do
  let s ← getS
  let st := e.unit
  let v := e.data % 2 ^ 25 + 2 ^ 31
  if st < s.part.nStacks then
    match (List.range 512).find? (fun i => fb s (HBM_REMAP_VALID st i) && bits (rg s (HBM_REMAP st i)) 0 16 = e.data % 65536) with
    | some i => setReg (HBM_REMAP st i) v
    | none =>
      match (List.range 512).find? (fun i => !fb s (HBM_REMAP_VALID st i)) with
      | some i => setReg (HBM_REMAP st i) v
      | none => pure ()
    setFld (HBM_RETIRE_STATUS_SPARES_LEFT st) (sparesLeft (← getS) st)

/-- A bank out of service at the start. -/
def bankOut (n b : Nat) : M Unit := do
  setFld (bankRetired n b) 1
  bankSet n b 2 2

/-- Read the repair history: an entry whose MAC is not right is counted and ignored, and so are damaged entries that flash
holds beside them (R613). -/
def readHistory (damaged : Nat) : M Unit := do
  let s ← getS
  modHistory (fun l => l.map (fun e => { e with bad := e.mac != repairMac s e }))
  bumpBy CHAIN_HISTORY_BAD_COUNT (((← getS).history.filter RepEnt.bad).length + damaged)

/-- The repair map: REPAIR, FENCE, RETIRED and REMAP. -/
def repairMap (f : StartInput) : M Unit := do
  readHistory f.historyBad
  enterFound f
  each (List.range 256) (mapOx f)
  each coreNums nextTaskMode
  let s ← getS
  each (s.history.filter (fun e => e.kind = 4 && e.inForce)) (fun e => bankOut e.unit e.data)
  each (s.history.filter (fun e => e.kind = 7 && e.inForce)) (fun e => each (List.range 12) (bankOut e.unit))
  each (s.history.filter (fun e => e.kind = 5 && e.inForce)) replayPage

/-! ## Phase 6: training -/

/-- The WAGON registers of R428. -/
def wagonKept (a : Nat) : Bool :=
  [WAGON_CTRL, WAGON_STATUS, WAGON_DEEP_CFG, WAGON_DIR_BASE, WAGON_POOL_CFG, WAGON_POOL_STACKS, WAGON_EPOCH, WAGON_POLICY,
    WAGON_DEEP_LATE, WAGON_DEEP_FAIL].contains a

/-- Contents lost with the rails: every line is written with zeros (R685). -/
def zeroStacks : M Unit := do
  let s ← getS
  each (List.range s.part.nStacks) (fun i => zeroRun (i * stackBytes) checkBase)
  flag PWR_STATUS_HBM_LOST
  resetWhere wagonKept
  modWagon (fun _ => .start)
  modPwr (fun p => { p with hbmRails := true })

/-- Every stack and port begins to train. -/
def trainAll : M Unit := do
  let s ← getS
  setFld CHAIN_START_PHASE 6
  when' (!s.pwr.hbmRails) zeroStacks
  each (List.range s.part.nStacks) (fun i => setFld (HBM_STATUS_STATE i) 1)
  each (List.range s.part.ports) (fun p => setFld (PORT_STATUS_STATE p) 1)
  each (List.range s.part.cxls) (fun x => setFld (CXL_STATUS_STATE x) 1)

/-! ## Phases 7 and 8 -/

/-- The lines that the Collie component of a firmware image takes. -/
def collieLines (o : List Byte) : Nat := ((fwComp o 3).length + 255) / 256

/-- Load a core's Collie instruction memories with a component (R620, R632). -/
def loadCollies (comp : List Byte) (n : Nat) : M Unit := do
  let lo := winBase n + 0xA40000
  clearMem (fun a => decide (lo ≤ a) && decide (a < lo + 0x20000))
  setMem lo (comp.take 0x20000)
  modCore n (fun c => { c with reload := false })

/-- Every check of R590 holds. -/
def identityOk (s : State) : Bool :=
  envAccepted (flashId s) s.flash.ident && envType s.flash.ident = 3
    && fieldAt (envBody s.flash.ident) 0x124 2 = s.part.code && s.chain.found.idChecks
    && (sha384 s.chain.secret).take 16 = ((envBody s.flash.ident).drop 0x380).take 16

/-- The RWL fields that the configuration block gives (Table 14.6). -/
def cfgFields : M Unit := do
  let s ← getS
  let b := envBody (activeCfg s)
  setFld TIME_CTRL_PTP_EN (fieldAt b 0xA 1)
  each (List.range s.part.ports) (fun p => setFld (PORT_CTRL_ENABLE p) (fieldAt b 0xC 4 / 2 ^ p))
  each (List.range 16) (fun k => setReg (DISP_SENT_EXPECT k) (fieldAt b (0x10 + 4 * k) 4))
  each (List.range s.part.cxls) (fun x => setFld (CXL_CTRL_ENABLE x) (fieldAt b 0x50 1 / 2 ^ x))

/-- Whether every controller's training has ended. -/
def allTrained (s : State) : Bool :=
  (List.range s.part.nStacks).all (fun i => fv s (HBM_STATUS_STATE i) != 1 && fv s (HBM_STATUS_STATE i) != 3)
    && (List.range s.part.ports).all (fun p => fv s (PORT_STATUS_STATE p) != 1)
    && (List.range s.part.cxls).all (fun x => fv s (CXL_STATUS_STATE x) != 1)

/-- Whether a repair map skips one row or column twice, or names one that does not exist (R46). -/
def mapBad (s : State) (o : Nat) : Bool :=
  let k (i : Nat) := bits (rg s (OX_REPAIR o)) (8 * i) 8
  k 0 = k 1 || k 2 = k 3 || (List.range 4).any (fun i => decide (129 < k i))

/-- The device fences every Ox with a bad repair map at the end of the start sequence (R46). -/
def fenceMaps : M Unit := do
  let s ← getS
  each ((List.range 256).filter (mapBad s)) (fun o => setFld (OX_CTRL_FENCE o) 1)
  each coreNums nextTaskMode

/-- The end of phase 6 once all have trained: phases 7 and 8, and with them the start sequence (R619, R429, R354). -/
def startTry : M Unit := do
  let s ← getS
  if fv s CHAIN_START_PHASE = 6 && allTrained s then
    setFld CHAIN_START_PHASE 7
    each coreNums (loadCollies (fwComp (activeFw s) 3))
    setFld SEC_STATUS_IDENTITY (if identityOk s then 1 else 2)
    setFld CHAIN_START_PHASE 8
    cfgFields
    fenceMaps
    capUpdate
    setFld CHAIN_START_PHASE 9
    let w := fv s WAGON_STATUS_STATE
    when' (w = 1 || w = 2) (setFld WAGON_STATUS_STATE 3)
    beginRound

/-! ## Activation (R630-R635) -/

/-- The armed image becomes active (R631). -/
def activateFw : M Unit := do
  let s ← getS
  let k := 1 - s.flash.dir.fwActive
  modDir (fun d => { d with fwActive := k, armed := false, fwFloor := max d.fwFloor (minSerial (fwSlot s k)) })
  showDir

/-- A start over from phase 1 with what the latest start found; PTP lock and PTP time are as they stand. -/
def restart : M Unit := do
  let s ← getS
  modTime (fun t => { t with keep := fb s TIME_STATUS_MASTER })
  startFrom { s.chain.found with ptpLock := fb s TIME_STATUS_PTP_LOCK, ptp := s.time.ptp }

/-- The end of phase 3: the count is loaded (R635, R623). -/
def leavePhase3 : M Unit := do
  let s ← getS
  if fv s CHAIN_START_PHASE = 3 && fv s CHAIN_START_MODE = 0 && !tripped s then
    if s.flash.dir.armed && decide (s.flash.dir.actTick ≤ s.tick) then
      activateFw
      restart
    else if (cfgSlot s).isNone || s.link.down = [true, true] then setFld CHAIN_START_MODE 1
    else
      setFld CHAIN_START_PHASE 4
      repairMap s.chain.found
      trainAll
      startTry

/-- An armed activation's tick has come, outside phases 1 to 3 (R631, R635) and RECOVERY. -/
def fwDue (s : State) : Bool :=
  s.flash.dir.armed && decide (s.flash.dir.actTick ≤ s.tick)
    && (decide (4 ≤ fv s CHAIN_START_PHASE) || fv s CHAIN_START_MODE = 1)

/-- The activation acts: cores reload their Collies before their next task (Table 14.11). -/
def firmwareActs : M Unit := do
  if fwDue (← getS) then
    noteRank 5
    activateFw
    each coreNums (fun n => modCore n (fun c => { c with reload := true }))

/-- FIRMWARE_ACTIVATION (R631). -/
def execFirmwareActivation (s : State) : Host.Outcome State Fault Refusal := runM firmwareActs s

/-! ## Cold start, device reset, loss of power -/

/-- COLD_START (R619, R678): power-good of a device that has not started. -/
def execColdStart (i : StartInput) (s : State) : Host.Outcome State Fault Refusal := runM (do
  when' (fv (← getS) CHAIN_START_PHASE = 0) (startFrom i)) s

/-- What a device reset keeps (Table 15.5); PWR.STATUS and WAGON.STATUS are kept in part. -/
def keptByReset (a : Nat) : Bool :=
  [TIME_TICK_NOW, TIME_HOLDOVER_LIMIT, TIME_HOP_DELAY, TIME_OFFSET, TIME_HOLDOVER_TICKS, TIME_SAME_TICK, TIME_SUPERSEDED].contains a
    || (decide (RESET_GEN_OX 0 ≤ a) && decide (a ≤ RESET_GEN_DEVICE)) || (List.range 32).any (fun p => a = PORT_GEN p)
    || a = PWR_STATUS || a = PWR_TRIP_INFO || (wagonKept a && a != WAGON_STATUS)
    || (List.range 12).any (fun i => a = HBM_RAS_STATUS i || (decide (HBM_CE_LOG_W0 i 0 ≤ a) && decide (a < HBM_UE_LOG_W0 i 16)))

/-- A flash write that is interrupted leaves its region invalid (R692). -/
def cutFlash : M Unit := modFlash (fun x =>
  match x.writing with
  | [] => x
  | w :: _ =>
    let x := { x with writing := [] }
    if w.kind = 1 then { x with fw := x.fw.set w.slot [] }
    else if w.kind = 2 then { x with cfg := x.cfg.set w.slot [] }
    else if w.kind = 3 then { x with ident := [] }
    else x)

/-- What units hold beyond their registers is gone: cores and their memories, contexts, fabric, queues (Table 15.7, R257,
R427, R428, R564). -/
def clearDevice : M Unit := do
  let s ← getS
  each (mkeys s.oxen) (fun o => modOx o (fun _ => .idle))
  each (mkeys s.cores) (fun n => modCore n (fun _ => .idle))
  each (mkeys s.ctxs) (fun c => modCtx c (fun _ => .empty))
  each (mkeys s.ports) (fun p => modPort p (fun _ => .start))
  each (mkeys s.cxls) (fun x => modCxl x (fun _ => ⟨[]⟩))
  each (mkeys s.hbm) (fun i => modStack i (fun k => { StackSt.fresh with soft := k.soft, hard := k.hard }))
  clearMem (fun a => decide (sramBase ≤ a))
  clearSyn (fun a => decide (sramBase ≤ a))
  clearDraw (fun _ => true)
  modWagon (fun w => { WagonSt.start with epoch := w.epoch, dir := w.dir, dirDue := w.dirDue, lost := w.lost })
  modFab (fun _ => .start)
  modSec (fun _ => .start)
  cutFlash
  modLatched (fun _ => [])
  modPwr (fun p => { PwrSt.start with hbmRails := p.hbmRails })
  modLink (fun l => { l with out := [], rings := [] })

/-- The sensors: reading and trip threshold (R682, Table 16.5); thresholds above their reset value act as it. -/
def sensors (s : State) : List (Nat × Nat) :=
  let tj := min 115 (fv s PWR_TRIP_TJ_CELSIUS)
  let th := min 105 (fv s PWR_TRIP_HBM_CELSIUS)
  coreNums.map (fun n => (fv s (CORE_TJ_NOW n), tj)) ++ (List.range s.part.nStacks).map (fun i => (fv s (HBM_TEMP_NOW i), th))
    ++ s.pwr.dieTemp.map (fun t => (t, tj))

/-- A device stopped by a trip ignores a reset while a sensor reads within 15 °C of its threshold (R684). -/
def tooHot (s : State) : Bool := tripped s && s.pwr.measured && (sensors s).any (fun x => decide (x.2 ≤ x.1 + 15))

/-- A device reset is taken (Table 15.4): every task ends in RESET, every buffer entry is completed, and the start sequence
runs (R394, R648). -/
def takeDevice (found : StartInput) : M Unit := do
  let s ← getS
  if tooHot s then pure ()
  else if inReset s 8 0 then bump RESET_COALESCED_COUNT
  else
    let sup ← supersede (fun _ => true)
    each coreNums (fun n => endTask n 5)
    each ctxNums (fun c => do each (placedOf (← getS) c) (fun p => rosterFinal c p.1 p.2.1 5))
    each (List.range s.part.nStacks) (fun i => completeWhere i (fun _ => true))
    modTime (fun t => { t with keep := fb s TIME_STATUS_MASTER })
    let status := rg (← getS) PWR_STATUS
    clearDevice
    resetWhere (fun a => !keptByReset a)
    setFld WAGON_STATUS_STATE (fv s WAGON_STATUS_STATE)
    setReg PWR_STATUS (Nat.land status 0x1700)
    let op : ResetOp := ⟨8, 0, [], s.tick, sup.1, sup.2⟩
    modResets (fun _ => [op])
    setFld RESET_STATUS_BUSY 1
    each (op.units s.part) (fun x => setFld (resettingFld x.1 x.2) 1)
    startFrom found

/-- DEVICE_RESET (R653). -/
def execDeviceReset (i : StartInput) (s : State) : Host.Outcome State Fault Refusal := runT (takeDevice i) s

/-- Whether the device has a tick: it masters it, follows it, slews toward it, or holds it over. -/
def hasTick (s : State) : Bool :=
  fb s TIME_STATUS_MASTER || fb s TIME_STATUS_LOCKED || fb s TIME_STATUS_HOLDOVER || s.time.slew

/-- RESET_N (R676): a low pulse requests a device warm reset at the next tick edge, or takes it at once without a tick. -/
def execResetN (s : State) : Host.Outcome State Fault Refusal := runT (do
  let s ← getS
  if hasTick s then requestReset 8 0
  else when' (fv s CHAIN_START_PHASE != 0) (takeDevice s.chain.found)) s

/-- POWER_LOSS (R462): all is lost but the flash and the permanent repairs of the stacks. -/
def execPowerLoss (s : State) : Host.Outcome State Fault Refusal := runM (do
  let s ← getS
  clearDevice
  resetWhere (fun _ => true)
  clearMem (fun _ => true)
  clearSyn (fun _ => true)
  each (mkeys s.hbm) (fun i => modStack i (fun k => { StackSt.fresh with hard := k.hard }))
  modTick (fun _ => 0)
  modTime (fun _ => .start)
  modWagon (fun _ => .start)
  modDeepNext (fun _ => 0)
  modTrouble (fun _ => [])
  modCond (fun _ => [])
  modResets (fun _ => [])
  modChain (fun _ => .start)
  modPwr (fun _ => .start)
  modLink (fun _ => .start)) s

/-! ## Training (R384-R387, R397, R495-R498) -/

/-- The LANE register of a channel with `k` failing and `r` redundant lanes; `bad`: it does not train. -/
def laneReg (st ch k r : Nat) (bad : Bool) : M Unit :=
  setReg (HBM_LANE st ch) (min k r % 16 + (r - min k r) % 16 * 16 + b2n (bad || decide (r < k)) * 256)

/-- A stack's training ends. -/
def hbmTrained (st r : Nat) (fails : List (Fin 32 × Nat)) (untrained : List (Fin 32)) : M Unit := do
  let s ← getS
  let k (ch : Nat) : Nat := (fails.find? (fun f => f.1.val = ch)).elim 0 Prod.snd
  let dead (ch : Nat) : Bool := untrained.any (fun u => u.val = ch)
  let state := fv s (HBM_STATUS_STATE st)
  if decide (st < s.part.nStacks) && (state = 1 || state = 3) && decide (6 ≤ fv s CHAIN_START_PHASE) && !tripped s then
    let bad := (List.range 32).any (fun ch => dead ch || decide (r < k ch))
    each (List.range 32) (fun ch => laneReg st ch (k ch) r (dead ch))
    when' ((List.range 32).any (fun ch => 0 < min (k ch) r)) (flag (HBM_STATUS_LANE_REPAIRED st))
    when' bad (flag (HBM_STATUS_TRAIN_FAIL st))
    setFld (HBM_STATUS_STATE st) (if (theStack s st).toMaint then 4 else if bad then 5 else 2)
    modStack st (fun x => { x with modeRegs := [], served0 := [], toMaint := false, turned := [] })
    capUpdate
    startTry

/-- HBM_TRAINING (R384-R386): failing lanes by channel, and channels that do not train. -/
def execHbmTraining (stack : Fin 12) (redundant : Nat) (fails : List (Fin 32 × Nat)) (untrained : List (Fin 32)) (s : State) :
    Host.Outcome State Fault Refusal := runM (hbmTrained stack redundant fails untrained) s

/-- CFG_ERR where the fitted deep memory breaks R399. -/
def deepCheck : M Unit := do when' (deepBad (← getS)) (flag WAGON_STATUS_CFG_ERR)

/-- A CXL port has trained with a width and a rate; narrower than x8, or not at all, it is out of service (R397). -/
def cxlUp (x width rate : Nat) : M Unit := do
  let ok := fb (← getS) (CXL_CTRL_ENABLE x) && decide (8 ≤ width) && rate != 0
  setFld (CXL_STATUS_STATE x) (if ok then 2 else 4)
  setFld (CXL_STATUS_WIDTH x) (if ok then width else 0)
  setFld (CXL_STATUS_RATE x) (if ok then rate else 0)
  deepCheck
  capUpdate

/-- CXL_TRAINING (R397): a port in TRAINING has trained, with the capacity its expander reports. -/
def execCxlTraining (port : Fin 8) (width : Nat) (rate : Fin 3) (cap : Nat) (s : State) : Host.Outcome State Fault Refusal :=
  runM (do
    let s ← getS
    if decide (port.val < s.part.cxls) && fv s (CXL_STATUS_STATE port) = 1 && decide (6 ≤ fv s CHAIN_START_PHASE) && !tripped s then
      setFld (CXL_CAP_GIB_GIB port) cap
      cxlUp port width rate
      startTry) s

/-- CXL_LINK_DOWN (R397). -/
def execCxlLinkDown (port : Fin 8) (s : State) : Host.Outcome State Fault Refusal := runM (do
  if fv (← getS) (CXL_STATUS_STATE port) = 2 then
    setFld (CXL_STATUS_STATE port) 3
    flag (CXL_STATUS_LINK_DOWN port)
    capUpdate) s

/-- CXL_LINK_RETRAINED (R397). -/
def execCxlLinkRetrained (port : Fin 8) (width : Nat) (rate : Fin 3) (s : State) : Host.Outcome State Fault Refusal := runM (do
  let s ← getS
  if fv s (CXL_STATUS_STATE port) = 3 && !tripped s then
    bump (CXL_RETRAINS_COUNT port)
    cxlUp port width rate) s

/-- PORT_TRAINING (R495-R498): training ends at a port in TRAINING or DOWN, with the wavelengths that pass in each direction
and the LSEQ that the far end accepted last. -/
def execPortTraining (port : Fin 32) (tx rx peer : Nat) (s : State) : Host.Outcome State Fault Refusal := runM (do
  let s ← getS
  let st := fv s (PORT_STATUS_STATE port)
  if decide (port.val < s.part.ports) && (st = 1 || st = 4) && decide (6 ≤ fv s CHAIN_START_PHASE) && !tripped s then
    trainPort port tx rx peer
    startTry) s

end Sys2Proof.Machine
end

