-- ==== Sys2Proof/Machine/Chain.lean ====
section
/-!
DEFINITION. Machine/Chain.lean: the Doloma chain: frames and hops (R599-R601), addresses and the count (R602-R608), transfers
of signed objects (R622-R629), and the Ethernet ports and PTP (R18-R20, R689, R690).
-/

namespace Sys2Proof.Machine

/-! ## Hops (R600); `out`: the OUT link -/

def hopOf (s : State) (out : Bool) : HopSt := if out then s.chain.outHop else s.chain.inHop
def modHop (out : Bool) (f : HopSt → HopSt) : M Unit :=
  modChain (fun c => if out then { c with outHop := f c.outHop } else { c with inHop := f c.inHop })
def linkFld (out : Bool) : Fld := if out then CHAIN_STATUS_OUT_UP else CHAIN_STATUS_IN_UP
def hopUp (s : State) (out : Bool) : Bool := fb s (linkFld out)
def ownAddr (s : State) : Nat := fv s CHAIN_ADDR_ADDRESS
def startMode (s : State) : Nat := fv s CHAIN_START_MODE

/-- Put a frame on a link. -/
def putFrame (out : Bool) (hseq : Nat) (f : Frame) : M Unit := do
  emit (.chain out hseq f)
  bump CHAIN_FRAMES_TX_COUNT

/-- Send frames in order while fewer than 16 are unacknowledged; the rest stay queued. -/
def sendQueued (out : Bool) : List Frame → M Unit
  | [] => modHop out (fun h => { h with queue := [] })
  | f :: fs => do
    let s ← getS
    let h := hopOf s out
    if h.unacked.length < 16 then
      putFrame out h.txNext f
      modHop out (fun h => { h with
        unacked := h.unacked ++ [(h.txNext, f)], txNext := (h.txNext + 1) % 65536, sent := if h.unacked = [] then s.tick else h.sent })
      sendQueued out fs
    else modHop out (fun h => { h with queue := f :: fs })

/-- Send what a hop holds, if its link is up. -/
def pumpHop (out : Bool) : M Unit := do
  let s ← getS
  if hopUp s out then sendQueued out (hopOf s out).queue

/-- Send a frame on a hop. -/
def sendFrame (out : Bool) (f : Frame) : M Unit := do
  modHop out (fun h => { h with queue := h.queue ++ [f] })
  pumpHop out

/-- Acknowledge the frames accepted so far; ACK frames are not numbered (log 17, DEDUCED). -/
def sendAck (out : Bool) : M Unit := do
  let s ← getS
  putFrame out 0 ⟨0, ownAddr s, 3, 0, natLe 2 (((hopOf s out).rxNext + 65535) % 65536)⟩

/-- A frame that arrives for a row of type `code` on the IN (`link`) or OUT link is accepted, or discarded and counted: a bad
CRC, a code of no type, or another HSEQ than the next (R600, Table 14.2). -/
def frameIn (link crcOk : Bool) (hseq code : Nat) (f : Frame) (m : M Unit) : M Unit := do
  let s ← getS
  let out := !link
  if hopUp s out then
    if !crcOk || f.type != code then bump CHAIN_CRC_ERRORS_COUNT
    else if hseq % 65536 != (hopOf s out).rxNext then
      bump CHAIN_CRC_ERRORS_COUNT
      sendAck out
    else
      modHop out (fun h => { h with rxNext := (h.rxNext + 1) % 65536 })
      bump CHAIN_FRAMES_RX_COUNT
      sendAck out
      m

/-- CHAIN_ACK (R600): every frame up to an HSEQ is acknowledged. -/
def execChainAck (link crcOk : Bool) (hseq : Nat) (f : Frame) (s : State) : Host.Outcome State Fault Refusal := runM (do
  let _ := hseq
  let s ← getS
  let out := !link
  if hopUp s out then
    if !crcOk || f.type != 3 then bump CHAIN_CRC_ERRORS_COUNT
    else
      bump CHAIN_FRAMES_RX_COUNT
      modHop out (fun h => { h with
        unacked := h.unacked.filter (fun e => decide (32768 ≤ seqDist e.1 (fieldAt f.payload 0 2))), sent := s.tick })
      pumpHop out) s

/-- A hop's frames have waited 200 µs for an acknowledgement. -/
def resendDue (s : State) (out : Bool) : Bool :=
  hopUp s out && (hopOf s out).unacked != [] && decide ((hopOf s out).sent + 200 ≤ s.tick)

/-- Resend from the oldest frame. -/
def resendHop (out : Bool) : M Unit := do
  let s ← getS
  if resendDue s out then
    bump CHAIN_RETRIES_COUNT
    each (hopOf s out).unacked (fun e => putFrame out e.1 e.2)
    modHop out (fun h => { h with sent := s.tick })

/-- CHAIN_RESEND (R600). -/
def execChainResend (link : Bool) (s : State) : Host.Outcome State Fault Refusal := runM (resendHop (!link)) s

/-! ## Addresses and the count (R602-R608, R17-R20, R697) -/

/-- Pass the next token on OUT (R602). -/
def passToken : M Unit := do
  let s ← getS
  let a := ownAddr s
  when' (a != 0 && hopUp s true) (sendFrame true ⟨0, a, 1, 0, natLe 1 a⟩)

/-- The tick master's count as its start sequence loads it (R19, R697): a warm reset keeps the running count.
The start has found PTP time for this load, and the lock is as it stands now (log 9, DEDUCED). -/
def masterTick : M Unit := do
  setFld TIME_STATUS_MASTER 1
  setFld TIME_STATUS_LOCKED 1
  setFld TIME_STATUS_HOLDOVER 0
  setReg TIME_HOP_DELAY 0
  let s ← getS
  if s.time.keep then modTime (fun t => { t with keep := false })
  else modTick (fun _ => if fb s TIME_STATUS_PTP_LOCK then s.time.ptp else 0)

/-- HEAD_DECISION (R603): no IN link 200 ms after the boot stage began. -/
def execHeadDecision (s : State) : Host.Outcome State Fault Refusal := runM (do
  let s ← getS
  if fv s CHAIN_START_PHASE = 3 && startMode s = 0 && ownAddr s = 0 && !hopUp s false then
    setFld CHAIN_STATUS_HEAD 1
    setFld CHAIN_ADDR_ADDRESS 1
    masterTick
    passToken
    leavePhase3) s

/-- A device that awaits its address. -/
def awaitsAddr (s : State) : Bool :=
  ownAddr s = 0 && ((fv s CHAIN_START_PHASE = 3 && startMode s = 0) || startMode s = 2)

/-- A token arrives from upstream (R602, R604, R605). -/
def tokenIn (f : Frame) : M Unit := do
  let s ← getS
  let v := fieldAt f.payload 0 1
  if awaitsAddr s then
    if 63 ≤ v then flag CHAIN_STATUS_OVERLONG
    else
      setFld CHAIN_ADDR_ADDRESS (v + 1)
      when' (v != 0) (modTime (fun t => { t with load := true, keep := false }))
      when' (v = 0) masterTick
      passToken
      when' (v = 0) leavePhase3

/-- TOKEN (R602). -/
def execToken (link crcOk : Bool) (hseq : Nat) (f : Frame) (s : State) : Host.Outcome State Fault Refusal :=
  runM (frameIn link crcOk hseq 1 f (when' link (tokenIn f))) s

/-- The edges of the device lie within 50 ns of the upstream edges, by their offset in ps (R26). -/
def edgesNear (off : Nat) : Bool := decide (-50000 ≤ signed off 32) && decide (signed off 32 ≤ 50000)

/-- TICK_COUNT_LOAD (R608): the next frame of the tick pair starts, and the last complete one gave this count, whose bits 0
to 5 the receiver has checked (R607; log 17, DEDUCED). Edges that are near lock the device; else it slews its tick (R26). -/
def execTickCountLoad (back : TickBack) (s : State) : Host.Outcome State Fault Refusal := runM (do
  let s ← getS
  if s.time.load && hopUp s false && back.count % 64 = 0 then
    modTick (fun _ => back.count % 2 ^ 64)
    modTime (fun t => { t with load := false, missing := 0, slew := !edgesNear back.offset })
    setReg TIME_OFFSET back.offset
    setFld TIME_STATUS_LOCKED (b2n (edgesNear back.offset))
    setFld TIME_STATUS_HOLDOVER 0
    leavePhase3) s

/-- Apply a measured loop delay of the IN hop, in ps (R601); the tick master has none. -/
def hopDelay (loop : Nat) : M Unit := do
  when' (!fb (← getS) TIME_STATUS_MASTER) (setFld TIME_HOP_DELAY_DELAY_PS (min (loop / 2) (2 ^ 32 - 1)))

/-- What a device does for the chain once it has its address; one that has none serves only its Ethernet ports (R604; log
17, DEDUCED). -/
def onChain (m : M Unit) : M Unit := do when' (ownAddr (← getS) != 0) m

/-- The NODE_ASSIGN frames of the head's table (R606); the head takes its own address at once. -/
def assignNodes : M Unit := do
  let s ← getS
  each s.chain.table (fun e =>
    if e.1 = ownId s then setFld PORT_NODE_NODE e.2
    else sendFrame true ⟨0x40, ownAddr s, 2, 0, (e.1 ++ natLe 16 0).take 16 ++ natLe 4 e.2⟩)

/-- CHAIN_LINK_UP (R601, R602, R605): a hop's numbering begins again with its link (log 17, DEDUCED). -/
def execChainLinkUp (link : Bool) (loop : Nat) (s : State) : Host.Outcome State Fault Refusal := runM (do
  let s ← getS
  let out := !link
  if !hopUp s out then
    setFld (linkFld out) 1
    modHop out (fun h => ⟨0, 0, [], h.unacked.map Prod.snd ++ h.queue, s.tick⟩)
    pumpHop out
    if link then
      if fb s CHAIN_STATUS_HEAD then flag CHAIN_STATUS_LATE_UPSTREAM
      else
        sendFrame false ⟨0, ownAddr s, 7, 0, []⟩
        hopDelay loop
    else
      passToken
      when' (fb s CHAIN_STATUS_HEAD) assignNodes) s

/-- CHAIN_LINK_LOST (R605). -/
def execChainLinkLost (link : Bool) (s : State) : Host.Outcome State Fault Refusal := runM (do
  when' (hopUp (← getS) (!link)) (do
    setFld (linkFld (!link)) 0
    flag CHAIN_STATUS_LINK_LOST)) s

/-- A DELAY frame: the upstream device answers one from OUT, and one from IN ends a measurement (R601). -/
def delayIn (link : Bool) (f : Frame) (loop : Nat) : M Unit := do
  if link then hopDelay loop else sendFrame true ⟨0, ownAddr (← getS), 7, 0, f.payload⟩

/-- DELAY (R601). -/
def execDelay (link crcOk : Bool) (hseq : Nat) (f : Frame) (loop : Nat) (s : State) : Host.Outcome State Fault Refusal :=
  runM (frameIn link crcOk hseq 7 f (delayIn link f loop)) s

/-- A NODE_ASSIGN frame from upstream (R606). -/
def nodeAssignIn (f : Frame) : M Unit := do
  let s ← getS
  if f.payload.take 16 = ownId s then setFld PORT_NODE_NODE (fieldAt f.payload 16 4)
  else when' (startMode s != 2) (sendFrame true f)

/-- NODE_ASSIGN (R606). -/
def execNodeAssign (link crcOk : Bool) (hseq : Nat) (f : Frame) (s : State) : Host.Outcome State Fault Refusal :=
  runM (frameIn link crcOk hseq 2 f (when' link (onChain (nodeAssignIn f)))) s

/-- A message between control dies: it is handed over where it is addressed, and goes on in its direction where it is not
for this device alone. -/
def mgmtIn (link : Bool) (f : Frame) : M Unit := do
  let s ← getS
  when' (f.dst = 0 || f.dst = 0x40 || f.dst = ownAddr s) (emit (.chainMgmt f))
  when' (f.dst != 0 && f.dst != ownAddr s && startMode s != 2) (when' (link || f.dst != 0x40) (sendFrame link f))

/-- CHAIN_MGMT (R599). -/
def execChainMgmt (link crcOk : Bool) (hseq : Nat) (f : Frame) (s : State) : Host.Outcome State Fault Refusal :=
  runM (frameIn link crcOk hseq 8 f (onChain (mgmtIn link f))) s

/-! ## Transfers (R622-R629) -/

/-- Objects are staged in HBM once the start sequence has ended (R625); before it, in SAFE and in RECOVERY they are not
(R622, R624). -/
def stagesHbm (s : State) : Bool := startMode s = 0 && fv s CHAIN_START_PHASE = 9

/-- Bytes of the region of a KIND, or of the staging area (Tables 14.3, 14.9). -/
def kindRoom (kind : Nat) : Nat := if kind = 2 then 0x200000 else if kind = 3 then 0x20000 else 0x4000000

/-- The slot that an accepted object of a KIND is written to (R629). -/
def kindSlot (s : State) (kind : Nat) : Nat :=
  if kind = 1 then 1 - s.flash.dir.fwActive else if kind = 2 then 1 - fv s CHAIN_START_CFG_SLOT else 0

/-- Put bytes as the contents of a region. -/
def setRegion (kind slot : Nat) (o : List Byte) : M Unit := modFlash (fun x =>
  if kind = 1 then { x with fw := x.fw.set slot o }
  else if kind = 2 then { x with cfg := x.cfg.set slot o }
  else if kind = 3 then { x with ident := o }
  else x)

/-- The payload of an OFFER (Table 14.9). -/
def Stage.payload (st : Stage) : List Byte :=
  natLe 2 st.kind ++ natLe 1 st.first ++ natLe 1 st.last ++ natLe 4 st.len ++ (st.digest ++ natLe 48 0).take 48

/-- The object offered by an OFFER frame. -/
def stageOf (f : Frame) (tick : Nat) : Stage :=
  ⟨f.xfer, fieldAt f.payload 0 2, fieldAt f.payload 2 1, fieldAt f.payload 3 1, fieldAt f.payload 4 4,
    (f.payload.drop 8).take 48, 0, 0, [], false, tick, []⟩

/-- Whether an object is addressed to this device. -/
def forMe (s : State) (st : Stage) : Bool := ownAddr s != 0 && decide (st.first ≤ ownAddr s) && decide (ownAddr s ≤ st.last)

/-- Hand a frame to the operator at the head, or send it upstream. -/
def upstream (f : Frame) : M Unit := do
  if fb (← getS) CHAIN_STATUS_HEAD then emit (.chainMgmt f) else sendFrame false f

/-- A transfer ends on this device with a code of Table 14.10 (R626). -/
def sendResult (kind xfer code : Nat) : M Unit := do
  let s ← getS
  setReg CHAIN_XFER_STATUS (code + kind % 8 * 16 + 128)
  upstream ⟨1, ownAddr s, 6, xfer, natLe 1 (ownAddr s) ++ natLe 1 code ++ natLe 2 0 ++ natLe 4 xfer⟩

/-- Send an object downstream: its OFFER and its data in ascending offset (R625). -/
def forwardObj (st : Stage) (obj : List Byte) : M Unit := do
  let a := ownAddr (← getS)
  sendFrame true ⟨0, a, 4, st.xfer, st.payload⟩
  each (chunks 1020 obj.length obj).zipIdx (fun x => sendFrame true ⟨0, a, 5, st.xfer, natLe 4 (1020 * x.2) ++ x.1⟩)

/-- The bytes of the staged object; none while the staging area waits for a stack (R661). -/
def stageBytes (st : Stage) : M (Option (List Byte)) := do
  let s ← getS
  if stagesHbm s then
    let r ← readPhys viaDie (rg s CHAIN_STAGE_BASE) st.len
    return match r.stop with | some (.hold _) => none | _ => some r.bs
  else return some st.data

/-- Write what waits for the staging area, in order, until a write is held (R625, R661). -/
def flushStage : List (Nat × List Byte) → M Unit
  | [] => modChain (fun c => { c with stage := c.stage.map (fun st => { st with owed := [] }) })
  | (a, bs) :: rest => do
    match ← writePhys viaDie (rg (← getS) CHAIN_STAGE_BASE + a) bs false with
    | .hold _ => modChain (fun c => { c with stage := c.stage.map (fun st => { st with owed := (a, bs) :: rest }) })
    | _ => flushStage rest

/-- Put bytes of an object at an offset of the staging area. -/
def stagePut (a : Nat) (bs : List Byte) : M Unit := do
  match (← getS).chain.stage with
  | some st => flushStage (st.owed ++ [(a, bs)])
  | none => pure ()

/-- The control die places the Collie component of an image that it has armed in every stack in service: the lines of the
copies count (R632; log 13, DESIGN CHOICE). -/
def placeCopies (o : List Byte) : M Unit := do
  each (stacksUp (← getS)) (fun i => bumpBy (HBM_WR_LINES_COUNT i) (collieLines o))

/-- Another transfer of a KIND is being written. -/
def kindBusy (s : State) (kind : Nat) : Bool := s.flash.writing.any (fun w => w.kind = kind)

/-- The device whose objects are accepted: RECOVERY has read no identity into its registers. -/
def acceptId (s : State) : List Byte := if startMode s = 2 then flashId s else ownId s

/-- The code of Table 14.10 that an object with a good digest gets, before it is written. -/
def acceptCode (s : State) (kind : Nat) (o : List Byte) : Nat :=
  let d := s.flash.dir
  if kindRoom kind < o.length then 9
  else if !envForm o || envType o != kind || !Config.sigOk o then 2
  else if !envMine (acceptId s) o then 4
  else if (kind = 1 && decide (envSerial o < d.fwFloor)) || (kind = 2 && decide (envSerial o < d.cfgFloor)) then 3
  else if (kind = 1 && d.armed && startMode s != 2) || kindBusy s kind then 5
  else if kind = 4 && actDigest o != sha384 (fwSlot s (1 - d.fwActive)) then 6
  else if kind = 4 && decide (actTick o ≤ s.tick) then 7
  else 0

/-- An accepted object: an activation is armed (R630), another object is written to its region (R629). -/
def acceptObj (kind xfer : Nat) (o : List Byte) : M Unit := do
  let s ← getS
  let code := acceptCode s kind o
  if code != 0 then
    when' (!stagesHbm s && !kindBusy s kind) (setRegion kind (kindSlot s kind) o)
    sendResult kind xfer code
  else if kind = 4 then
    modDir (fun d => { d with armed := true, actTick := actTick o, actDigest := actDigest o })
    placeCopies (fwSlot s (1 - s.flash.dir.fwActive))
    showDir
    sendResult kind xfer 0
  else modFlash (fun x => { x with writing := x.writing ++ [⟨kind, kindSlot s kind, o, xfer⟩] })

/-- An object whose bytes are all here: its digest is judged (R627), it goes on downstream (R625) and is accepted where it is
addressed (R626). -/
def stageJudged (st : Stage) (o : List Byte) : M Unit := do
  let s ← getS
  if sha384 o != st.digest then
    if st.tries < 3 then
      modChain (fun c => { c with stage := some { st with got := 0, tries := st.tries + 1, data := [] } })
      sendFrame false ⟨0, ownAddr s, 4, st.xfer, st.payload⟩
    else
      modChain (fun c => { c with stage := none })
      when' (forMe s st) (sendResult st.kind st.xfer 1)
  else
    modChain (fun c => { c with stage := some { st with whole := true, since := s.tick } })
    when' (decide (ownAddr s < st.last) && Config.sigOk o && startMode s != 2) (forwardObj st o)
    when' (forMe s st) (acceptObj st.kind st.xfer o)

/-- Every byte of the staged object has come; it is judged once the staging area holds and gives them. -/
def stageWhole : M Unit := do
  match (← getS).chain.stage with
  | none => pure ()
  | some st =>
    if st.owed = [] then
      match ← stageBytes st with
      | some o => stageJudged st o
      | none => pure ()

/-- An OFFER from upstream begins reception; one from downstream asks for the object again (R627; log 17, DEDUCED). -/
def offerIn (link : Bool) (f : Frame) : M Unit := do
  let s ← getS
  if link then
    let st := stageOf f s.tick
    if startMode s = 2 && st.kind != 1 then pure ()
    else if 0x4000000 < st.len then when' (forMe s st) (sendResult st.kind st.xfer 9)
    else
      when' (!stagesHbm s && !kindBusy s st.kind) (setRegion st.kind (kindSlot s st.kind) [])
      modChain (fun c => { c with stage := some st })
      when' (st.len = 0) stageWhole
  else
    match s.chain.stage with
    | some st => when' (st.whole && st.xfer = f.xfer) (do
        match ← stageBytes st with
        | some o => forwardObj st o
        | none => pure ())
    | none => pure ()

/-- OFFER (R625). -/
def execOffer (link crcOk : Bool) (hseq : Nat) (f : Frame) (s : State) : Host.Outcome State Fault Refusal :=
  runM (frameIn link crcOk hseq 4 f (onChain (offerIn link f))) s

/-- Object bytes arrive in ascending offset. -/
def dataIn (f : Frame) : M Unit := do
  let s ← getS
  match s.chain.stage with
  | none => pure ()
  | some st =>
    if st.xfer = f.xfer && !st.whole && fieldAt f.payload 0 4 = st.got && decide (st.got < st.len) then
      let bs := (f.payload.drop 4).take (st.len - st.got)
      when' (stagesHbm s) (stagePut st.got bs)
      modChain (fun c => { c with
        stage := c.stage.map (fun st => { st with got := st.got + bs.length, data := if stagesHbm s then [] else st.data ++ bs }) })
      when' (decide (st.len ≤ st.got + bs.length)) stageWhole

/-- CHAIN_DATA (R625). -/
def execChainData (link crcOk : Bool) (hseq : Nat) (f : Frame) (errs : List LineErr) (s : State) :
    Host.Outcome State Fault Refusal := runM (withErrs errs (frameIn link crcOk hseq 5 f (when' link (onChain (dataIn f))))) s

/-- A RESULT from downstream: the staged object it is for is released, and it goes on to the head (R626, R627). -/
def resultIn (f : Frame) : M Unit := do
  modChain (fun c => { c with stage := c.stage.filter (fun st => !(st.whole && st.xfer = f.xfer)) })
  upstream f

/-- RESULT (R626). -/
def execResult (link crcOk : Bool) (hseq : Nat) (f : Frame) (s : State) : Host.Outcome State Fault Refusal :=
  runM (frameIn link crcOk hseq 6 f (when' (!link) (onChain (resultIn f)))) s

/-- The staged object has been kept for 60 s (R627). -/
def stageLate (s : State) (st : Stage) : Bool := st.whole && decide (st.since + 60000000 ≤ s.tick)

/-- An object whose bytes have all come and that waits for the staging area. -/
def stageWaits (st : Stage) : Bool := !st.whole && decide (0 < st.len) && decide (st.len ≤ st.got)

/-- Release a staged object that is due. -/
def releaseStage : M Unit := do
  let s ← getS
  modChain (fun c => { c with stage := c.stage.filter (fun st => !stageLate s st) })

/-- A tick's part in the staged object: one that waits goes on, and one that is due is released. -/
def stageTick : M Unit := do
  match (← getS).chain.stage with
  | some st =>
    when' (st.owed != []) (flushStage st.owed)
    when' (stageWaits st) stageWhole
  | none => pure ()
  releaseStage

/-- STAGE_TIMEOUT (R627). -/
def execStageTimeout (xfer : Nat) (s : State) : Host.Outcome State Fault Refusal := runM (do
  match (← getS).chain.stage with
  | some st => when' (st.xfer = xfer) releaseStage
  | none => pure ()) s

/-- The flash write under way ends (R629, R692). -/
def flashDone (ok : Bool) : M Unit := do
  let s ← getS
  match s.flash.writing with
  | [] => pure ()
  | w :: rest =>
    modFlash (fun x => { x with writing := rest })
    setRegion w.kind w.slot (if ok then w.obj else [])
    when' (ok && w.kind = 1) (modDir (fun d => { d with fwSerial := d.fwSerial.set w.slot (envSerial w.obj) }))
    sendResult w.kind w.xfer (if ok then 0 else 8)
    when' (ok && w.kind = 1 && startMode s = 2) restart

/-- FLASH_WRITE_COMPLETE (R629). -/
def execFlashWriteComplete (ok : Bool) (s : State) : Host.Outcome State Fault Refusal := runM (flashDone ok) s

/-! ## Ethernet and PTP (R18-R20, R606, R689, R690) -/

/-- An object that the operator gives the head over Ethernet: it is staged whole. -/
def headObject (kind first last : Nat) (o : List Byte) : M Unit := do
  let s ← getS
  if fb s CHAIN_STATUS_HEAD && startMode s != 2 && decide (o.length ≤ 0x4000000) then
    modChain (fun c => { c with
      xferNext := (c.xferNext + 1) % 2 ^ 32
      stage := some ⟨c.xferNext, kind, first, last, o.length, sha384 o, o.length, 3, if stagesHbm s then [] else o, false, s.tick, []⟩ })
    when' (stagesHbm s) (stagePut 0 o)
    stageWhole

/-- What a received frame brings. -/
def ethOp (op : EthOp) : M Unit := do
  match op with
  | .data => pure ()
  | .nodeTable t =>
    when' (fb (← getS) CHAIN_STATUS_HEAD) (do
      modChain (fun c => { c with table := t })
      assignNodes)
  | .object kind first last o => headObject kind first last o

/-- ETHERNET_FRAME (R689, R690): frames of at most 9,216 B pass, event messages with their timestamp. -/
def execEthernetFrame (port rx : Bool) (bs : List Byte) (stamp : Option Nat) (op : EthOp) (s : State) :
    Host.Outcome State Fault Refusal := runM (when' (decide (bs.length ≤ 9216)) (do
  emit (.ethernet port rx bs stamp)
  when' rx (ethOp op))) s

/-- PTP_LOCK_GAINED (R19, R20): a count still to be loaded will be PTP time; the running count never changes. -/
def execPtpLockGained (s : State) : Host.Outcome State Fault Refusal := runM (setFld TIME_STATUS_PTP_LOCK 1) s
/-- PTP_LOCK_LOST (R18, R19): a count still to be loaded will be 0. -/
def execPtpLockLost (s : State) : Host.Outcome State Fault Refusal := runM (setFld TIME_STATUS_PTP_LOCK 0) s

end Sys2Proof.Machine
end

