-- ==== Sys2Proof/Machine/Power.lean ====
section
/-!
DEFINITION. Machine/Power.lean: trips, the power limit, and what is measured at a tick (R676-R685, R707, R708, Tables
16.2-16.5).
-/

namespace Sys2Proof.Machine

/-! ## Trips (R682-R684, R707) -/

/-- Whether a trip leaves an event of its tick (R36, R683): another trip, and what concerns the device or the control die
alone. -/
def outlivesTrip (e : Ev) : Bool :=
  match e.kind with
  | .trip _ _ _ => true
  | .reset d _ => d = 8
  | .escalate d _ => d = 8
  | .firmware => true
  | _ => false

/-- A context that a trip finds in use becomes FAULTED by the trip's record (R683). -/
def tripCtx (t : Trouble) (seq c : Nat) : M Unit := do
  let st := ctxState (← getS) c
  if st != 0 && st != 6 then
    bump (CTX_FAULTS_COUNT c)
    faultCtx c t seq false
    modCtx c (fun x => { x with kill := none })

/-- Every unit of the dies that lose their rails stops. -/
def stopUnits : M Unit := do
  let s ← getS
  each coreNums (fun n => do
    haltCore n
    modCore n (fun c => { c with sent := none }))
  each (List.range s.part.nStacks) (fun i =>
    when' (fv s (HBM_STATUS_STATE i) != 5) (setFld (HBM_STATUS_STATE i) 3))
  each (List.range s.part.ports) (fun p => when' (fv s (PORT_STATUS_STATE p) != 0) (setFld (PORT_STATUS_STATE p) 4))
  each (List.range s.part.cxls) (fun x => when' (fv s (CXL_STATUS_STATE x) = 2) (setFld (CXL_STATUS_STATE x) 3))

/-- The device stops: buffer entries are discarded, contexts are faulted by the record, which is written before the stacks
enter self-refresh (log 31, DEDUCED). -/
def tripStops (t : Trouble) (seq : Nat) : M Unit := do
  let s ← getS
  setFld PWR_STATUS_TRIPPED 1
  modPwr (fun p => { p with thermtrip := true })
  each (List.range s.part.nStacks) (fun i => modStack i (fun k => { k with wcb := [], queue := [], waits := [] }))
  each ctxNums (tripCtx t seq)
  flushRecords
  fenceOf reqDisp
  cutFlash
  stopUnits

/-- A trip is taken. -/
def takeTrip (code unit reading : Nat) : M Unit := do
  let s ← getS
  noteRank 1
  flag (if code = 1 then PWR_STATUS_THERMAL_TRIP else if code = 2 then PWR_STATUS_POWER_TRIP else PWR_STATUS_RAIL_FAULT)
  setReg PWR_TRIP_INFO (code + unit % 256 * 2 ^ 8 + min reading 0xFFFF * 2 ^ 16)
  let t : Trouble := ⟨21, code, 0xFF, 0xFF, unit, none, reading, 0, 0⟩
  let seq ← takeRecord t
  when' (!tripped s) (do
    nameInRecord seq (← supersede (fun e => !outlivesTrip e))
    tripStops t seq)
  when' (3 ≤ code && (unit = 99 || unit = 100)) (do
    modPwr (fun p => { p with hbmRails := false })
    each (List.range s.part.nStacks) (fun i => modStack i (fun k => { k with soft := [] })))

/-- UNIT of the sensors, in the order of `sensors` (Table 16.5). -/
def sensorUnits (s : State) : List Nat :=
  coreNums ++ (List.range s.part.nStacks).map (· + 64) ++ (List.range 5).map (· + 76)

/-- The sensors that the assembly has, as UNIT, reading and threshold. -/
def sensorList (s : State) : List (Nat × Nat × Nat) :=
  ((sensorUnits s).zip (sensors s)).filter (fun x => decide (x.1 < 76) || x.1 = 80 || decide (x.1 < 76 + s.part.iods))

/-- The sensors at or above their thresholds. -/
def hotSensors (s : State) : List (Nat × Nat) :=
  if s.pwr.measured then ((sensorList s).filter (fun x => decide (x.2.2 ≤ x.2.1))).map (fun x => (x.1, x.2.1)) else []

/-- The sensors that have just come to their thresholds: a thermal trip each (R682). -/
def thermalTrips : M (List (Nat × Nat)) := do
  let s ← getS
  let now := hotSensors s
  modPwr (fun p => { p with hot := now.map Prod.fst })
  return now.filter (fun x => !s.pwr.hot.contains x.1)

/-- Store the reading of a sensor. -/
def setSensor (i v : Nat) : M Unit :=
  if i < 64 then setFld (CORE_TJ_NOW i) v
  else if i < 76 then do
    setFld (HBM_TEMP_NOW (i - 64)) v
    setFld (HBM_TEMP_PEAK (i - 64)) (max v (← fld (HBM_TEMP_PEAK (i - 64))))
  else modPwr (fun p => { p with dieTemp := p.dieTemp.set (i - 76) (v % 256) })

/-- THERMAL_TRIP (R682, R683): a sensor has a reading, at or above its threshold for the first time. -/
def execThermalTrip (sensor : Fin 81) (reading : Nat) (s : State) : Host.Outcome State Fault Refusal := runT (do
  let i : Nat := sensor
  let s ← getS
  if s.pwr.measured && (sensorList s).any (fun x => x.1 = i) then
    setSensor i (min reading 255)
    each ((← thermalTrips).filter (fun x => x.1 = i)) (fun x => takeTrip 1 x.1 x.2)) s

/-- The sum of the power of the last measured ticks, at most 100, and how many they are (R708). -/
def powerSum (s : State) : Nat := s.pwr.last.sum
def powerTicks (s : State) : Nat := s.pwr.last.length

/-- The average exceeds 1.1 x TDP (R682). -/
def overPower (s : State) : Bool := decide (11 * s.part.tdp * powerTicks s < 10 * powerSum s)

/-- The average has just come to exceed the limit of the power trip. -/
def powerTrips : M Bool := do
  let s ← getS
  modPwr (fun p => { p with overTdp := overPower s })
  return overPower s && !s.pwr.overTdp

/-- The average that a power trip's record gives. -/
def powerAvg (s : State) : Nat := powerSum s / powerTicks s

/-- POWER_TRIP (R682, R683). -/
def execPowerTrip (s : State) : Host.Outcome State Fault Refusal := runT (do
  if ← powerTrips then takeTrip 2 0xFFFF (powerAvg (← getS))) s

/-- RAIL_FAULT (R679, R682, R683): a rail's voltage, or current, has been out of its range for too long; the reading is
in mV, or A. The trip is an event of the next tick edge. -/
def execRailFault (rail : Fin 9) (current : Bool) (reading : Nat) (s : State) : Host.Outcome State Fault Refusal :=
  runM (do when' (← getS).pwr.measured (latch ⟨1, 2, none, 96 + rail, .trip (if current then 4 else 3) (96 + rail) reading⟩)) s

/-! ## The power limit (R680) -/

/-- LIMIT; values above TDP act as TDP. -/
def powerLimit (s : State) : Nat := min s.part.tdp (fv s PWR_LIMIT_WATTS)

/-- The window in force closes at this tick (R37, R38). -/
def windowDue (s : State) : Bool := s.pwr.measured && decide (s.pwr.winOpen + max 1 (fv s PWR_WINDOW_TICKS) ≤ s.tick)

/-- The level after a window of an average of `sum / n` W. -/
def nextLevel (s : State) (sum n : Nat) : Nat :=
  let l := fv s PWR_THROTTLE_LEVEL
  if powerLimit s * n < sum then min 3 (l + 1) else if 10 * sum < 9 * powerLimit s * n then l - 1 else l

/-- A window closes, and the next one opens at its closing tick. -/
def closePower : M Unit := do
  let s ← getS
  if windowDue s then
    let l := fv s PWR_THROTTLE_LEVEL
    let l' := nextLevel s s.pwr.winSum s.pwr.winN
    when' (l != 0) (bump PWR_THROTTLE_WINDOWS_COUNT)
    setFld PWR_POWER_AVG_WATTS (min 0xFFFF (s.pwr.winSum / s.pwr.winN))
    setFld PWR_THROTTLE_LEVEL l'
    when' (decide (l < l')) (flag PWR_STATUS_THROTTLED)
    modPwr (fun p => { p with winOpen := s.tick, winSum := fv s PWR_POWER_NOW_WATTS, winN := 1 })

/-- THROTTLE_WINDOW (R680). -/
def execThrottleWindow (s : State) : Host.Outcome State Fault Refusal := runM closePower s

/-! ## Pins (R677) -/

/-- ALERT_N is low. -/
def alertLow (s : State) : Bool := bits (rg s PWR_STATUS) 8 8 != 0

/-! ## Measurement at a tick (R708) -/

/-- The activity of a core whose Oxen advanced in a number of Ox-cycles over the last 256 ticks of 1,100 arith cycles (R479),
by the Oxen that are in service. -/
def activityOf (s : State) (n advanced : Nat) : Nat :=
  min 255 (255 * advanced / (((List.range 4).filter (oxAvail s n)).length * 281600))

/-- Take the readings of a tick. -/
def measure (i : TickInput) : M Unit := do
  let s ← getS
  each i.tj (fun x => setSensor x.1 (min x.2 255))
  each i.activity (fun x => setFld (CORE_TJ_ACTIVITY x.1) (activityOf s x.1 x.2))
  each i.withheld (fun x => bumpBy (CORE_THROTTLE_CYCLES_COUNT x.1) x.2)
  each (i.hbmTemp.filter (fun x => decide (x.1.val < s.part.nStacks))) (fun x => setSensor (64 + x.1) (min x.2 255))
  each i.dieTemp (fun x => setSensor (76 + x.1) (min x.2 255))
  each i.rails (fun x => setReg (PWR_RAIL x.1) x.2)
  match i.power with
  | some w => setFld PWR_POWER_NOW_WATTS (min w 0xFFFF)
  | none => pure ()
  let w := fv (← getS) PWR_POWER_NOW_WATTS
  modPwr (fun p => { p with
    measured := true, last := (w :: p.last).take 100, winOpen := if p.measured then p.winOpen else s.tick
    winSum := p.winSum + w, winN := p.winN + 1 })

end Sys2Proof.Machine
end

