-- ==== Sys2Proof/Machine/Tick.lean ====
section
/-!
DEFINITION. Machine/Tick.lean: the tick edge (01_tick_and_islands.md): the tick's source, what takes effect at an edge, the
events sampled at it in their order (R33, R34), and placement (R333-R339).
-/

namespace Sys2Proof.Machine

/-! ## The tick's source (R17-R28) -/

/-- The device's tick runs: it has one, or a start sequence keeps the count that it had (R697). -/
def tickRuns (s : State) : Bool := hasTick s || s.time.keep

/-- The device takes its tick from IN and follows it, or has loaded its count and slews toward it (R608). -/
def follows (s : State) : Bool :=
  (fb s TIME_STATUS_LOCKED || (s.time.slew && !fb s TIME_STATUS_HOLDOVER)) && !fb s TIME_STATUS_MASTER

/-- Enter holdover (R23). -/
def enterHoldover : M Unit := do
  setFld TIME_STATUS_LOCKED 0
  setFld TIME_STATUS_HOLDOVER 1
  setReg TIME_HOLDOVER_TICKS 0
  modTime (fun t => { t with missing := 0, holdLen := 0, unaligned := false, slew := false })

/-- HOLDOVER_ENTRY (R23): four consecutive edges were absent. -/
def execHoldoverEntry (s : State) : Host.Outcome State Fault Refusal := runM (do
  when' (follows (← getS)) enterHoldover) s

/-- The offset after one tick of slewing toward a measured one: by at most 1 ns (R26). -/
def slewed (old new : Nat) : Nat := unsigned (max (signed old 32 - 1000) (min (signed old 32 + 1000) (signed new 32))) 32

/-- The device is locked again. -/
def relock : M Unit := do
  setFld TIME_STATUS_LOCKED 1
  setFld TIME_STATUS_HOLDOVER 0
  modTime (fun t => { t with missing := 0, slew := false })

/-- One tick of slewing to the upstream tick that has returned; it ends when the edges are near, or when that tick is gone. -/
def slewTick (i : TickInput) : M Unit := do
  let s ← getS
  when' s.time.slew (
    if i.upstream then do
      let off := slewed (fv s TIME_OFFSET_OFFSET_PS) i.offset
      setReg TIME_OFFSET off
      when' (edgesNear off) relock
    else modTime (fun t => { t with slew := false }))

/-- What the edge of the tick pair brings (R22, R23), and the length of a holdover. -/
def tickSource (i : TickInput) : M Unit := do
  let s ← getS
  if fb s TIME_STATUS_HOLDOVER then
    bump TIME_HOLDOVER_TICKS_COUNT
    modTime (fun t => { t with holdLen := t.holdLen + 1 })
    slewTick i
  else when' (follows s) (do
    if i.upstream then
      if s.time.slew then slewTick i else setReg TIME_OFFSET i.offset
      modTime (fun t => { t with missing := 0 })
    else
      if 3 ≤ s.time.missing then enterHoldover
      else
        flag TIME_STATUS_TICK_GAP
        modTime (fun t => { t with missing := t.missing + 1 }))

/-- The holdover has outlasted its limit, for the first time (R24). -/
def holdLate (s : State) : Bool :=
  fb s TIME_STATUS_HOLDOVER && !s.time.unaligned && decide (fv s TIME_HOLDOVER_LIMIT_LIMIT < s.time.holdLen)

/-- A trouble record of the tick: 1 a holdover beyond its limit, 2 a count that differs. -/
def tickRecord (code : Nat) : M Unit := note ⟨17, code, 0xFF, 0xFF, 0xFFFF, none, 0, 0, 0⟩

def holdExceeds : M Unit := do
  when' (holdLate (← getS)) (do
    flag TIME_STATUS_UNALIGNED
    modTime (fun t => { t with unaligned := true })
    tickRecord 1)

/-- HOLDOVER_LIMIT_EXCEEDED (R24). -/
def execHoldoverLimitExceeded (s : State) : Host.Outcome State Fault Refusal := runT holdExceeds s

/-- UPSTREAM_TICK_RETURN (R26, R27): the upstream tick is back with a count and a phase offset in ps: near, the device is
locked; else it slews its tick. -/
def execUpstreamTickReturn (back : TickBack) (s : State) : Host.Outcome State Fault Refusal := runT (do
  let s ← getS
  if fb s TIME_STATUS_HOLDOVER then
    if back.count = s.tick then
      setReg TIME_OFFSET back.offset
      if edgesNear back.offset then relock else modTime (fun t => { t with slew := true })
    else
      flag TIME_STATUS_COUNT_MISMATCH
      modTime (fun t => { t with slew := false })
      tickRecord 2) s

/-- The width in ns of the pulse at a tick (R607). -/
def pulseNs (t : Nat) : Nat :=
  if t % 64 = 0 then 300 else if bit (t / 64 * 64 + 64) (t % 64) then 200 else 100

/-! ## What takes effect at an edge -/

/-- The registers of a context in force from this edge (R145, R315, R327, R328, R578). -/
def ctxEdge (c : Nat) : M Unit := do
  let s ← getS
  modCtx c (fun x => { x with
    step := rg s (CTX_STEP c), seed := rg s (CTX_SR_SEED c), statBase := rg s (CTX_STAT_BASE c), statCfg := rg s (CTX_STAT_CFG c)
    pens := (List.range 3).map (fun k => rg s (CTX_PEN c k)), rosterGen := rg s (CTX_ROSTER_GEN c) })
  each (List.range 8) (fun r => do
    let on := fb s (CTX_ROSTER_EN c r)
    let was := (theRoster s c r).en
    when' (on != was) (modRoster c r (fun x => { x with en := on }))
    when' (on && rosSizeOk s c r && (theRoster s c r).fresh) (rosterFresh c r))

/-- Every register that takes effect at the edge, and the heat of the accesses it samples, after a halving (R410). -/
def edgeRegs : M Unit := do
  each ctxNums ctxEdge
  let s ← getS
  modWagon (fun w => { w with epoch := fv s WAGON_EPOCH_TICKS })
  when' (halveDue (← getS)) halveHeat
  countHeat

/-! ## Run ticks and windows (R640-R643, R347) -/

/-- Whether this tick moves a core's windows (R642). -/
def tickMoves (s : State) (n : Nat) : Bool := fv s (CORE_PROGRESS_COUNT n) != (theCore s n).lastProg || waitMoves s n

/-- A core's task runs one more tick. Answers the code of a hang that its window's close declares. -/
def runTick (n : Nat) : M (Option Nat) := do
  let s ← getS
  match (theCore s n).task with
  | none => return none
  | some t =>
    if taskRuns s n then
      let mv := tickMoves s n
      let run := t.run + 1
      modTask n (fun t => { t with
        run := run, missed := t.missed || (t.budget != 0 && decide (t.budget < run)), moved := t.moved || mv })
      setReg (CORE_RUN_TICKS n) (min run (2 ^ 32 - 1))
      let code ← closeWindow n
      when' mv (modTask n (fun t => { t with moved := true }))
      return code
    else return none

/-- Whether a station of a core waits on a late deep access, or on a page in transit (R437). -/
def deepWaits (s : State) (n : Nat) : Bool :=
  (theCore s n).streams.any (fun x => x.state = 1 && x.held.any (fun h => match h.why with | .move _ => true | _ => false))
    || s.cxls.any (fun e => e.2.out.any (fun a => a.req = n && a.late && !a.failed))

/-! ## The events of a tick (R33-R36) -/

/-- The key that orders the events of a tick: rank; resets by domain, others the device's first, then by context, unit and
member. -/
def Ev.key (e : Ev) : Nat :=
  let ctx := e.ctx.elim 0 (· + 1)
  let low := if e.ctx.isNone then e.member * 2 ^ 24 + e.unit % 2 ^ 24 else ctx * 2 ^ 32 + e.unit % 2 ^ 24 * 2 ^ 8 + e.member
  e.rank * 2 ^ 40 + (if e.rank = 2 then e.member * 2 ^ 32 + ctx * 2 ^ 24 + e.unit % 2 ^ 24 else low)

/-- Events in the order in which they are taken. -/
def evSort (l : List Ev) : List Ev := sortBy (fun a b => decide (a.key < b.key)) l

/-- Hangs that windows closing now declare. -/
def hangEvents : M (List Ev) := do
  let cs ← gather coreNums (fun n => do return (n, ← runTick n))
  let s ← getS
  return cs.filterMap (fun x => x.2.map (fun code => ⟨4, 0, ctxOfCore s x.1, x.1, .hang x.1 code⟩))

/-- Deep accesses that fail at this tick. -/
def deepEvents (s : State) : List Ev :=
  s.cxls.flatMap (fun e => (e.2.out.filter (deepFailDue s)).map (fun a => ⟨4, 1, a.ctx, a.req, .deepFail e.1 a.id⟩))

/-- Images and transfers that have not been acknowledged in time (R538, R548). -/
def e2eEvents (s : State) : List Ev :=
  let late (first : Nat) := decide (first + fv s PORT_E2E_TIMEOUT_TICKS < s.tick)
  (s.fab.offers.filter (fun o => late o.first)).map (fun o => ⟨4, 2, ctxOfCore s o.core, o.core, .e2eImage o.core o.slot o.tile⟩)
  ++ (s.fab.xfers.filter (fun x => (Xfer.op x = 1 || x.phase = 2) && late x.first)).map (fun x => ⟨4, 2, none, x.idx, .e2eXfer x.idx⟩)

/-- Saves and restores whose completion comes at this tick (R344, R351). -/
def doneEvents (s : State) : List Ev :=
  (ctxNums.filter (saveDue s)).map (fun c => ⟨6, 3, some c, 0, .saveDone c⟩)
  ++ (ctxNums.filter (restoreDue s)).map (fun c => ⟨6, 3, some c, 0, .restoreDone c⟩)

/-- The other timeouts that expire at this tick. -/
def timeoutEvents (s : State) : List Ev :=
  ctxNums.flatMap (fun c =>
    ((theCtx s c).recomp.filter (fun r => recompLate s c r.num)).map (fun r => ⟨4, 2, some c, 0, .recompExpiry c r.num⟩)
    ++ (if (saveLate s c).isSome then [⟨4, 2, some c, 0, .saveStop c⟩] else []))
  ++ (s.wagon.rsrc.filter (fun r => (rsrcLate s r.page).isSome)).map (fun r => ⟨4, 2, none, 0, .rsrcExpiry r.page⟩)
  ++ coreNums.flatMap (fun n => ((List.range 16).filter (fun k => (refuseLate s n k).isSome)).map
      (fun k => ⟨4, 2, ctxOfCore s n, n, .refuseExpiry n k⟩))
  ++ (List.range s.part.nStacks).flatMap (fun i => ((theStack s i).turned.filter (turnedLate s)).map
      (fun t => ⟨4, 2, t.ctx, t.req, .turnedExpiry i t.req t.line t.write⟩))
  ++ e2eEvents s
  ++ ((List.range s.part.ports).filter (linkLate s)).map (fun p => ⟨4, 2, none, p, .linkDown p⟩)
  ++ (s.resets.filter (resetLate s)).map (fun op => ⟨4, 2, none, op.unit, .escalate op.domain op.unit⟩)

/-- A context command whose tick has come (R309). -/
def cmdDue (s : State) (c : Nat) : Bool := fb s (CTX_STATE_CMD_ARMED c) && decide (rg s (CTX_CMD_AT c) ≤ s.tick)

/-- A route-page switch whose tick has come (R525). -/
def routeDue (s : State) : Bool := fb s PORT_ROUTE_STATUS_ARMED && decide (rg s PORT_SWITCH_AT ≤ s.tick)

/-- Actions scheduled for this tick, or for an earlier one that was armed late. -/
def armedEvents (s : State) : List Ev :=
  (if fwDue s then [⟨5, 0, none, 0, .firmware⟩] else [])
  ++ (if routeDue s then [⟨5, 1, none, 0, .routeSwitch⟩] else [])
  ++ (ctxNums.filter (genDue s)).map (fun c => ⟨5, 2, some c, 0, .genSwitch c⟩)
  ++ (ctxNums.filter (cmdDue s)).map (fun c =>
      ⟨5, 3, some c, 0, .command c (fv s (CTX_CMD_CODE c)) (fb s (CTX_CMD_WIPE c))⟩)

/-- What was armed and is sampled is armed no more. -/
def disarm (s : State) : M Unit := do
  when' (routeDue s) (setFld PORT_ROUTE_STATUS_ARMED 0)
  each (ctxNums.filter (genDue s)) (fun c => setFld (CTX_GEN_STATUS_ARMED c) 0)
  each (ctxNums.filter (cmdDue s)) (fun c => setFld (CTX_STATE_CMD_ARMED c) 0)

/-- Trips that the measurements of this tick show (R682). -/
def tripEvents : M (List Ev) := do
  let hot ← thermalTrips
  let tdp ← powerTrips
  let s ← getS
  return hot.map (fun x => ⟨1, 0, none, x.1, .trip 1 x.1 x.2⟩)
    ++ (if tdp then [⟨1, 1, none, 0, .trip 2 0xFFFF (powerAvg s)⟩] else [])

/-- Sample every event of the tick (R29, R31). A device stopped by a trip samples only what outlives a trip. -/
def sampleEvents : M Unit := do
  let trips ← tripEvents
  let hangs ← hangEvents
  let s ← getS
  let l := trips ++ hangs ++ deepEvents s ++ timeoutEvents s ++ armedEvents s ++ doneEvents s ++ s.latched
  let l := if tripped s then l.filter outlivesTrip else l
  disarm s
  modLatched (fun _ => [])
  modTime (fun t => { t with ranks := [] })
  modDue (fun _ => evSort l)
  each (evSort l) (fun e => noteRank e.rank)

/-- Take at once the faults that an action latches. -/
def faultsNow (m : M Unit) : M Unit := do
  let old := (← getS).latched
  modLatched (fun _ => [])
  m
  let new := (← getS).latched
  modLatched (fun _ => old)
  each new (fun e => match e.kind with
    | .fault t => takeFault t
    | _ => latch e)

/-- Images and transfers not acknowledged in time fail (R538, R548). -/
def e2eExpires : M Unit := do
  let s ← getS
  faultsNow (each s.fab.offers offerExpired)
  each s.fab.xfers xferExpired

/-- E2E_TIMEOUT (R538, R548). -/
def execE2eTimeout (s : State) : Host.Outcome State Fault Refusal := runT e2eExpires s

/-- An image's timeout is taken. -/
def imageExpires (n k i : Nat) : M Unit := do
  match (← getS).fab.offers.find? (fun o => o.core = n && o.slot = k && o.tile = i) with
  | some o => faultsNow (offerExpired o)
  | none => pure ()

/-- A transfer's timeout is taken. -/
def xferTimeout (idx : Nat) : M Unit := do
  match (← getS).fab.xfers.find? (fun x => x.idx = idx) with
  | some x => xferExpired x
  | none => pure ()

/-- Take one event. -/
def takeEv (start : StartInput) (e : Ev) : M Unit :=
  match e.kind with
  | .trip code unit reading => takeTrip code unit reading
  | .reset d u => if d = 8 then takeDevice start else takeReset d u
  | .fault t => takeFault t
  | .jobFault c origin => takeFault ⟨20, 0, c, 0xFF, 0xFFFF, none, 0, origin, 0⟩
  | .taskDone n => completeTask n
  | .hang n code => takeHang n code
  | .deepFail x id => deepFails x id
  | .recompExpiry c q => recompExpires c q
  | .recompAck c q => recompAcked c q
  | .rsrcExpiry p => rsrcExpires p
  | .rsrcDone p => rsrcCompletes p
  | .refuseExpiry n k => refuseExpires n k
  | .turnedExpiry st req line write => turnedExpires st req line write
  | .saveStop c => saveTimesOut c
  | .e2eImage n k i => imageExpires n k i
  | .e2eXfer idx => xferTimeout idx
  | .linkDown p => do when' (linkLate (← getS) p) (portDown p)
  | .moveDone page errs => moveCompletes page errs
  | .saveDone c => saveCompletes c
  | .restoreDone c => restoreCompletes c
  | .escalate d u => escalateReset d u
  | .command c code wipe => ctxCommand c code wipe
  | .routeSwitch => routeSwitchNow
  | .genSwitch c => genSwitchNow c
  | .firmware => firmwareActs

/-- Take the sampled events one after another (R35). -/
def drainDue (start : StartInput) : Nat → M Unit
  | 0 => pure ()
  | k + 1 => do
    match (← getS).due with
    | [] => pure ()
    | e :: _ =>
      modDue List.tail
      takeEv start e
      drainDue start k

/-! ## Placement (R333-R339) -/

/-- Entries of a roster published before this tick (R325). -/
def pubBefore (s : State) (x : Roster) : Nat := if x.pubTick = s.tick then x.pubOld else x.pub

/-- The dependency of an entry holds (R333). -/
def depMet (s : State) (c : Nat) (w : List Nat) : Bool :=
  !enDepEn w || decide (0 ≤ signed ((theRoster s c (enDepRoster w)).done % 2 ^ 32 + 2 ^ 32 - enDepDone w) 32)

/-- The published head of an enabled roster of a RUNNING context. -/
def pubHead (s : State) (c r : Nat) : Option Head :=
  let x := theRoster s c r
  match x.head with
  | some h => if rosOn s c r && !x.fresh && ctxState s c = 1 && decide (h.idx < pubBefore s x) then some h else none
  | none => none

/-- The head of a roster, where it is ready (R333). -/
def readyHead (s : State) (c r : Nat) : Option Head :=
  match pubHead s c r with
  | some h => if depMet s c h.words then some h else none
  | none => none

/-- Record since when a head is ready. -/
def noteReady (c r : Nat) : M Unit := do
  let s ← getS
  let at' (h : Head) : Option Nat := if (readyHead s c r).isSome then some (h.readyAt.getD s.tick) else none
  modRoster c r (fun x => { x with head := x.head.map (fun h => { h with readyAt := at' h }) })

/-- The core that a head would take (R334, R335). -/
def coreFor (s : State) (c : Nat) (h : Head) : Option Nat :=
  (penCores s c (enPen h.words)).find? (fun n => coreFree s n && coreMeets s n h.words)

/-- The order among ready heads: PRIO, then since when ready, then roster. -/
def headKey (h : Head) (r : Nat) : Nat := (enPrio h.words * 2 ^ 64 + h.readyAt.getD 0 % 2 ^ 64) * 8 + r

/-- The next placement of a context: the roster, its head and the core. -/
def nextPlace (s : State) (c : Nat) : Option (Nat × Head × Nat) :=
  let l := (List.range 8).filterMap (fun r =>
    match readyHead s c r with
    | some h => (coreFor s c h).map (fun n => (r, h, n))
    | none => none)
  (sortBy (fun a b => decide (headKey a.2.1 a.1 < headKey b.2.1 b.1)) l).head?

/-- The task that a head becomes on a core (R144, R336, R576). -/
def newTask (s : State) (c r n : Nat) (h : Head) : Task :=
  let x := theCtx s c
  { ctx := c, roster := r, entry := h.idx, words := h.words, placed := s.tick, begun := false, ended := false
    step := x.step, seed := x.seed, statBase := x.statBase, statCfg := x.statCfg, run := 0, budget := enBudget h.words
    missed := false, winOpen := 0, winLen := max 1 (fv s RESET_PROGRESS_WINDOW_TICKS)
    moved := fv s (CORE_PROGRESS_COUNT n) != (theCore s n).lastProg, still := 0, gslot := bindSlot s c r, collided := [] }

/-- A core reads the copy of the active image's Collie component in the (n mod S)-th lowest stack in service, and its
instruction memories are written from it (R632). -/
def reloadCollies (n : Nat) : M Unit := do
  let s ← getS
  let up := stacksUp s
  when' (up != []) (bumpBy (HBM_RD_LINES_COUNT (up.getD (n % up.length) 0)) (collieLines (activeFw s)))
  loadCollies (fwComp (activeFw s) 3) n

/-- Place a head on a core (R335, R337, R632): its entry becomes PLACED and TAKEN advances. -/
def placeHead (c r n : Nat) (h : Head) : M Unit := do
  nextTaskMode n
  let s ← getS
  when' (theCore s n).reload (reloadCollies n)
  each (List.range 4) (fun k => modOx (4 * n + k) (fun x => { x with live := [], liveRec := .zero }))
  let t := newTask (← getS) c r n h
  modCore n (fun x => { x with task := some t })
  setReg (CORE_RUN_TICKS n) 0
  setReg (CORE_STILL n) 0
  showTask n t
  modRoster c r (fun x => { x with taken := h.idx + 1, head := none, placed := x.placed ++ [(h.idx, n)] })
  rosterState c r h.idx 1 n
  rosterPut c r (rosBase s c r + 0x100) (h.idx + 1)
  bump (CTX_PLACED_COUNT c)
  bump DISP_PLACED_COUNT
  fetchHead c r
  noteReady c r

/-- Place until no ready head of a context has a core. -/
def placeCtx (c : Nat) : Nat → M Unit
  | 0 => pure ()
  | k + 1 => do
    match nextPlace (← getS) c with
    | none => pure ()
    | some (r, h, n) =>
      placeHead c r n h
      placeCtx c k

/-- Count the cores of a pen (R339). -/
def countPen (c k : Nat) : M Unit := do
  let s ← getS
  let cs := penCores s c k
  let busy := (cs.filter (fun n => (theCore s n).task.isSome)).length
  let free := (cs.filter (coreFree s)).length
  let waits := (List.range 8).any (fun r => match pubHead s c r with
    | some h => enPen h.words = k && !depMet s c h.words
    | none => false)
  bumpBy (CTX_PEN_BUSY_COUNT c k) busy
  bumpBy (if waits then CTX_PEN_DEP_COUNT c k else CTX_PEN_IDLE_COUNT c k) free

/-- The dispatcher's part of a tick: words that could not be written yet, readiness, placement and the pens' counters. -/
def dispatch : M Unit := do
  each ctxNums (fun c => do
    let ws := (theCtx (← getS) c).owed
    when' (ws != []) (flushOwed c ws))
  each ctxNums (fun c => each (List.range 8) (fun r => do
    let ws := (theRoster (← getS) c r).writes
    when' (ws != []) (flushRoster c r ws)))
  let s ← getS
  each (ctxNums.filter (fun c => ctxState s c = 1)) (fun c => do
    each (List.range 8) (fun r => do
      fetchHead c r
      noteReady c r)
    placeCtx c 64
    each (List.range 4) (countPen c))

/-! ## The tick edge -/

/-- Answers of the deep tier that have come (R433-R435). -/
def deepAnswered : M Unit := do
  let s ← getS
  each s.cxls (fun e =>
    each (e.2.out.filter (fun a => match a.due with | some t => decide (t ≤ s.tick) | none => false)) (deepAnswers e.1))

/-- Deep accesses that become late at this tick, and the cores that wait on the deep tier (R433, R437). -/
def deepTick : M Unit := do
  let s ← getS
  each s.cxls (fun e => each e.2.out (deepLate e.1))
  let s ← getS
  each (coreNums.filter (deepWaits s)) (fun n => match ctxOfCore s n with
    | some c => bump (CTX_DEEP_WAIT_TICKS_COUNT c)
    | none => pure ())

/-- The Wagon's part of a tick: directory words that are due, accesses whose page is free, and, once the device has started,
drains and moves (R407, R416, R420, R429). -/
def wagonTick : M Unit := do
  let due := (← getS).wagon.dirDue
  when' (due != []) (flushDir due)
  deepRetry
  when' (fv (← getS) CHAIN_START_PHASE = 9) (do
    drainTick
    wagonJudges)

/-- The monitoring windows that have closed before this tick open again at their closing tick (R38, R499). -/
def openMonitors : M Unit := do
  let s ← getS
  each ((mkeys s.ports).filter (fun p => decide (monClose s p < s.tick))) (fun p => modPort p (fun x => { x with monAt := s.tick - 1 }))

/-- Restores that wait for an image to be read go on, and records that wait are written (R351, R661). -/
def fillAgain : M Unit := do
  let s ← getS
  when' (s.link.rings != []) (flushRings s.link.rings)
  each (ctxNums.filter (fun c => ctxState s c = 5 && !restoreDue s c)) fillCores

/-- What follows the events of a tick in a device that runs. -/
def afterEvents : M Unit := do
  retireSlots
  deepAnswered
  tickWindows
  wagonTick
  fabricTick
  each coreNums drainStats
  resendHop false
  resendHop true
  stageTick
  when' (roundDue (← getS)) beginRound
  each coreNums beginPass
  dispatch
  when' (rsrcFull (← getS)) (bump WAGON_RSRC_QWAIT_COUNT)
  when' (← getS).pwr.measured (each coreNums ceilingCheck)

/-- One tick edge. -/
def tickEdge (i : TickInput) : M Unit := do
  when' (tickRuns (← getS)) (do
    tickSource i
    modTick (· + 1)
    modTime (fun t => { t with ptp := t.ptp + 1 })
    emit (.tickPulse (pulseNs (← getS).tick))
    holdExceeds
    measure i
    edgeRegs
    openMonitors
    deepTick
    fillAgain
    sampleEvents
    drainDue i.start (← getS).due.length
    let s ← getS
    when' (!tripped s && tickRuns s) afterEvents
    closePower
    let s ← getS
    each coreNums (fun n => modCore n (fun c => { c with lastProg := fv s (CORE_PROGRESS_COUNT n) })))

/-- TICK_EDGE (R28). -/
def execTickEdge (i : TickInput) (s : State) : Host.Outcome State Fault Refusal := runT (tickEdge i) s

end Sys2Proof.Machine
end

