-- ==== Sys2Proof/Machine/Mmio.lean ====
section
/-!
DEFINITION. Machine/Mmio.lean: reads and writes of registers by the control die and by Collies (R7-R13, R695, R696),
and the die-link packets of the control die (16_package_and_control_die.md, R686-R688; R651).
-/

namespace Sys2Proof.Machine

/-! ## The block of an address (Table 0.7) -/

/-- The block an address lies in, by its unit. -/
inductive Blk where
  | time | reset | pwr | chain | sec | disp | wagon
  | ctx (c : Nat)
  | hbm (i : Nat)
  | port (p : Nat)
  | cxl (x : Nat)
  | core (n : Nat)
  | ox (o : Nat)
  | gap
  deriving DecidableEq, Repr

/-- The block of an address of Table 0.7. -/
def blkOf (a : Nat) : Blk :=
  let o := a % 0x100000000000
  if o < 0x10000 then .time
  else if o < 0x20000 then .reset
  else if o < 0x30000 then .pwr
  else if o < 0x40000 then .chain
  else if o < 0x50000 then .sec
  else if o < 0x60000 then .disp
  else if o < 0x70000 then .wagon
  else if 0x100000 ≤ o ∧ o < 0x200000 then .ctx (o / 0x10000 - 0x10)
  else if 0x200000 ≤ o ∧ o < 0x2C0000 then .hbm (o / 0x10000 - 0x20)
  else if 0x400000 ≤ o ∧ o < 0x600000 then .port (o / 0x10000 - 0x40)
  else if 0x600000 ≤ o ∧ o < 0x680000 then .cxl (o / 0x10000 - 0x60)
  else if 0x1000000 ≤ o ∧ o < 0x2000000 then
    let n := o / 0x40000 - 0x40
    let q := o % 0x40000
    if q < 0x20000 then .core n else .ox (4 * n + (q / 0x8000 - 4))
  else .gap

/-- The number of the register at an address in an array of registers that starts at `base`. -/
def idxIn (a base stride count : Nat) : Nat :=
  ((List.range count).find? (fun i => decide (base + i * stride ≤ a) && decide (a < base + (i + 1) * stride))).getD 0

/-- Whether an address lies in an array of `count` registers. -/
def inArr (a base stride count : Nat) : Bool := decide (base ≤ a) && decide (a < base + count * stride)

/-! ## Reading -/

/-- A register's value with fields replaced: lowest bit, width and value. -/
def withFields (v : Nat) (l : List (Nat × Nat × Nat)) : Nat := l.foldl (fun n f => withBits n f.1 f.2.1 f.2.2) v

/-- STATE of an Ox: 3 fenced, 2 holding, 1 running, 0 idle (Table 2.9). -/
def oxStateOf (s : State) (o : Nat) : Nat :=
  let x := theOx s o
  if bit (theCore s (oxCore o)).fence (oxIdx o) then 3
  else if x.holding then 2
  else if x.run.isSome || x.drain != [] then 1
  else 0

/-- What a read of a register shows where that follows from the state of its unit; every other register shows what it
holds. -/
def regShown (s : State) (a : Nat) : Nat :=
  let v := rg s a
  match blkOf a with
  | .time => if a = TIME_TICK_NOW then s.tick % 2 ^ 64 else v
  | .sec =>
    if a = SEC_KEY_LOADED then maskOf (ctxNums.filter (fun c => (theCtx s c).key.isSome)) else v
  | .disp =>
    if a = DISP_FREE then maskOf (coreNums.filter (fun n => coreFree s n && (holderOf s n).isSome)) else v
  | .wagon =>
    if a = WAGON_STATUS then withFields v [(2, 3, s.wagon.moves.length)]
    else if a = WAGON_POOL_FREE then poolFreeCount s
    else if a = WAGON_RSRC_REQ then rsrcReqValue s
    else v
  | .ctx c =>
    if a = CTX_PEN0 c then maskOf (penCores s c 0)
    else match (List.range 4).find? (fun k => a = CTX_HOLDERSk c k) with
      | some k => holders s c k
      | none => v
  | .port _ =>
    if a = PORT_PAGE_INFLIGHT then
      withFields 0 ((List.range 4).map (fun k => (8 * k, 8, min 255 (pageInflight s k))))
    else v
  | .core n =>
    if a = CORE_YOKE_CFG n then
      withFields 0 ((4, 2, coreMode s n) :: (List.range 4).map (fun k => (k, 1, b2n (oxAvail s n k))))
    else v
  | .ox o =>
    if a = OX_STATUS o then
      withFields v [(0, 2, oxStateOf s o), (2, 1, b2n (theOx s o).detached), (3, 3, (theOx s o).queue.length),
        (6, 1, b2n (parked s (oxCore o) (oxIdx o)))]
    else if a = OX_LAG o then withFields v [(0, 16, min 65535 (lagOf (theOx s o)))]
    else v
  | _ => v

/-- A register without its RC fields. -/
def RegDef.cleared (d : RegDef) (v : Nat) : Nat :=
  d.fields.foldl (fun n f => if f.acc = .rc then withBits n f.lo f.w 0 else n) v

/-- Whether a register has an RC field. -/
def RegDef.hasRc (d : RegDef) : Bool := d.fields.any (fun f => f.acc = .rc)

/-- Read one register: the queues that a read takes from give their oldest entry, and RC fields clear (R13). -/
def readReg (d : RegDef) (a : Nat) : M Nat := do
  let s ← getS
  let plain : M Nat := do
    when' d.hasRc (setReg a (d.cleared (rg s a)))
    return regShown s a
  match blkOf a with
  | .core n => if a = CORE_CQ0 n then cqRead n 0 else if a = CORE_CQ1 n then cqRead n 1 else plain
  | .hbm i => if a = HBM_MAINT_DATA i then maintDataRead i else plain
  | .sec => if a = SEC_VERIFY_DONE then verifyDoneRead else plain
  | _ => plain

/-- A 32-bit read: zero where no 32-bit register is defined (R11, R12). -/
def read32 (a : Nat) : M Nat := do
  match regAt (← getS).part a with
  | some d => if d.width = 32 then readReg d a else return 0
  | none => return 0

/-- An aligned 64-bit read: one 64-bit register, or two 32-bit reads, the lower offset first (R10, R696). -/
def read64 (a : Nat) : M Nat := do
  let halves : M Nat := do
    let lo ← read32 a
    let hi ← read32 (a + 4)
    return lo + hi * 2 ^ 32
  match regAt (← getS).part a with
  | some d => if d.width = 64 then readReg d a else halves
  | none => halves

/-! ## Writing -/

/-- The start sequence has ended: RWL fields are locked (Table 0.9). It has ended in SAFE and RECOVERY too. -/
def startOver (s : State) : Bool := fv s CHAIN_START_PHASE = 9 || fv s CHAIN_START_MODE != 0

/-- What a write leaves in a register, field by field (Table 0.9); RsvdP fields keep their value. -/
def RegDef.written (d : RegDef) (locked : Bool) (old v : Nat) : Nat :=
  d.fields.foldl (fun n f =>
    let new := bits v f.lo f.w
    let was := bits n f.lo f.w
    match f.acc with
    | .rw => withBits n f.lo f.w new
    | .rwl => if locked then n else withBits n f.lo f.w new
    | .w1c => withBits n f.lo f.w (Nat.land was (Nat.xor new (2 ^ f.w - 1)))
    | .w1s => withBits n f.lo f.w (Nat.lor was new)
    | _ => n) old

/-- A write that acts on each field as its access code states (R13). -/
def plainWrite (d : RegDef) (a v : Nat) : M Unit := do
  let s ← getS
  setReg a (d.written (startOver s) (rg s a) v)

/-- A write to a context's registers. -/
def writeCtx (who : Who) (c : Nat) (d : RegDef) (a v : Nat) : M Unit := do
  let s ← getS
  let plain := plainWrite d a v
  let die (m : M Unit) : M Unit := when' (who = .controlDie) m
  let st := ctxState s c
  if a = CTX_CMD c then cmdWrite c v
  else if a = CTX_CORES c then coresWrite c 0 v
  else if a = CTX_PT_BASE c then coresWrite c 1 v
  else if a = CTX_SAVE_BASE c then coresWrite c 2 v
  else if inArr a (CTX_PEN c 0) 8 3 then penWrite c (idxIn a (CTX_PEN c 0) 8 3) v
  else if a = CTX_HBM_CLASS c then when' (bits v 0 2 != 0) plain
  else if inArr a (CTX_ROSTER c 0) 8 8 then rosterCfgWrite c (idxIn a (CTX_ROSTER c 0) 8 8) v
  else if a = CTX_STEP c then stepWrite c 0 v
  else if a = CTX_SR_SEED c then stepWrite c 1 v
  else if a = CTX_STAT_BASE c then stepWrite c 2 v
  else if a = CTX_STAT_CFG c then stepWrite c 3 v
  else if a = CTX_RECOMP_ACK c then recompAckWrite c (bits v 0 16)
  else if a = CTX_FABRIC_JOB c then when' (bits v 0 16 != 0xFFFF) plain
  else if inArr a (CTX_SEAL_W0 c 0) 8 64 then die plain
  else if a = CTX_GEN_WIN c then die (when' (st = 0 || st = 4) plain)
  else if a = CTX_GEN_SWITCH c then die (do
    setReg a (bits v 0 2)
    when' (bit v 2) (setFld (CTX_GEN_STATUS_ARMED c) 1))
  else if a = CTX_GEN_AT c || a = CTX_GEN_STATUS c then die plain
  else if a = CTX_ROSTER_GEN c then die (setReg a v)
  else if inArr a (CTX_GSLOTk c 0) 16 4 then
    let k := idxIn a (CTX_GSLOTk c 0) 16 4
    if a = CTX_GSLOTk c k then do
      when' (bit v 4) (gslotWrite who c k 0)
      when' (bit v 5) (gslotWrite who c k 1)
      when' (bit v 6) (gslotWrite who c k 2)
    else die (when' (decide (fv s (CTX_GSLOTk_STATE c k) ≤ 1)) plain)
  else if a = CTX_JOB_FAULT c then die (do
    setReg a (bits v 14 18 * 2 ^ 14)
    when' (bit v 0) (jobFaultWrite who c (bits v 14 18)))
  else plain

/-- A write to a stack's registers. -/
def writeHbmReg (who : Who) (i : Nat) (d : RegDef) (a v : Nat) : M Unit := do
  let plain := plainWrite d a v
  if a = HBM_CTRL i then (if bit v 0 then maintEnter who i else maintExit who i)
  else if a = HBM_MAINT_CMD i then
    let op := bits v 0 4
    if op = 0 then when' (who = .controlDie) plain
    else if 8 ≤ op then setFld (HBM_MAINT_STATUS_RESULT i) 3
    else maintOp who i op (bits v 4 5) (bit v 9) []
  else if a = HBM_RETIRE i then retireWrite who i (bits v 0 16) (bits v 16 9)
  else if a = HBM_SLOTS i then when' (decide (bits v 0 13 + bits v 13 13 ≤ 4096)) plain
  else plain

/-- A write to a register that only PORT_0 has (R551). -/
def writeFabric (d : RegDef) (a v : Nat) : M Unit := do
  let s ← getS
  let plain := plainWrite d a v
  if a = PORT_ROUTE_CTRL then do
    setReg a (bits v 0 2)
    when' (bit v 2) (setFld PORT_ROUTE_STATUS_ARMED 1)
  else if a = PORT_XFER_RING then xferRingWrite .controlDie v
  else if a = PORT_XFER_CFG then
    plainWrite d a (if bits v 0 2 = 0 then withBits v 0 2 (fv s PORT_XFER_CFG_CLASS) else v)
  else if inArr a (PORT_ROUTE0 0) 8 2048 then
    routeWrite (idxIn a (PORT_ROUTE0 0) 0x1000 4) (a % 0x1000 / 8) v
  else plain

/-- A write to a port's registers. -/
def writePort (who : Who) (p : Nat) (d : RegDef) (a v : Nat) : M Unit := do
  if a = PORT_CTRL p then do
    plainWrite d a (withBits v 1 1 0)
    when' (bit v 1) (requestReset 4 p)
  else if p = 0 && decide (0x8000 ≤ a % 0x10000) then when' (who = .controlDie) (writeFabric d a v)
  else plainWrite d a v

/-- A write to the Wagon's registers. -/
def writeWagon (who : Who) (d : RegDef) (a v : Nat) : M Unit := do
  let s ← getS
  let plain := plainWrite d a v
  if a = WAGON_CTRL then do
    when' (bits v 1 2 != 0) (setFld WAGON_CTRL_CLASS (bits v 1 2))
    if bit v 0 then wagonEnable else wagonDisable
  else if a = WAGON_DEEP_CFG || a = WAGON_DIR_BASE || a = WAGON_POOL_CFG then
    if fv s WAGON_STATUS_STATE = 0 then do
      plain
      deepCheck
      capUpdate
    else flag WAGON_STATUS_CFG_ERR
  else if a = WAGON_DEEP_LATE then when' (decide (bits v 0 32 < fv s WAGON_DEEP_FAIL_TICKS)) plain
  else if a = WAGON_DEEP_FAIL then when' (decide (fv s WAGON_DEEP_LATE_TICKS < bits v 0 32)) plain
  else if a = WAGON_HINT then hintWrite who (bits v 0 3) (bits v 21 31) (bits v 52 12)
  else if a = WAGON_RSRC_DONE then rsrcDoneWrite v
  else plain

/-- A write to the security block (R595). -/
def writeSec (who : Who) (d : RegDef) (a v : Nat) : M Unit :=
  if a = SEC_KEY_CMD then do
    setReg a (bits v 0 4)
    when' (bit v 5) (keyErase who (bits v 0 4))
    when' (bit v 4) (keyInstall who (bits v 0 4))
  else if a = SEC_VERIFY_CMD then verifyQueue who (bits v 0 4) (bits v 4 4)
  else plainWrite d a v

/-- A write of a bank's HPWR or APWR: ACCESS_FAULT, then TARGET, then RETIRED. -/
def writeBank (n b v : Nat) : M Unit := do
  let a := bankReg n b
  when' (bit v 9) (setFld ⟨a, 9, 1⟩ 0)
  when' (bits v 0 2 != 3) (bankWriteReq n b (bits v 0 2))
  when' (bit v 8) (bankWriteReq n b 4)

/-- A write to a core's registers. -/
def writeCore (n : Nat) (d : RegDef) (a v : Nat) : M Unit :=
  if inArr a (CORE_PROG n 0) 8 1024 || inArr a (CORE_TBL0 n 0) 0x1000 4 then muleWrite n a v
  else if inArr a (CORE_HPWR n 0) 4 12 then writeBank n (idxIn a (CORE_HPWR n 0) 4 12) v
  else if a = CORE_HC_ADD n then hcAddWrite n (bits v 0 4) (bits v 16 16)
  else if a = CORE_CDONE0 n then cdoneWrite n 0 (bits v 0 4)
  else if a = CORE_CDONE1 n then cdoneWrite n 1 (bits v 0 4)
  else if a = CORE_RESTRICT n then do
    plainWrite d a v
    capUpdate
  else plainWrite d a v

/-- A write to an Ox's registers. -/
def writeOx (o : Nat) (d : RegDef) (a v : Nat) : M Unit :=
  if a = OX_PASS_W3 o then passWrite o v
  else if a = OX_CTRL o then (if bit v 0 then fenceOx o 0 else setFld (OX_CTRL_FENCE o) 0)
  else if a = OX_SENT_STATE o then when' (bit v 8) (setFld (OX_SENT_STATE_STATE o) 0)
  else plainWrite d a v

/-- A register that only the control die writes. -/
def dieOnly (who : Who) (m : M Unit) : M Unit := when' (who = .controlDie) m

/-- A write that reached a register, by the block of the register. -/
def writeBlk (b : Blk) (who : Who) (d : RegDef) (a v : Nat) : M Unit :=
  match b with
  | .reset => dieOnly who (do
    plainWrite d a v
    when' (a = RESET_REQ && bits v 0 4 != 0) (requestReset (bits v 0 4) (bits v 4 9)))
  | .pwr => dieOnly who (plainWrite d a v)
  | .chain => dieOnly who (plainWrite d a v)
  | .sec => dieOnly who (writeSec who d a v)
  | .wagon => writeWagon who d a v
  | .ctx c => writeCtx who c d a v
  | .hbm i => writeHbmReg who i d a v
  | .port p => writePort who p d a v
  | .core n => writeCore n d a v
  | .ox o => writeOx o d a v
  | _ => plainWrite d a v

/-- Write one register. The blocks RESET, PWR, CHAIN and SEC accept writes from the control die only (R658, R694, R637,
R595). -/
def writeReg (who : Who) (d : RegDef) (a v : Nat) : M Unit := writeBlk (blkOf a) who d a v

/-- A 32-bit write: dropped where no 32-bit register is defined (R8, R11, R12). -/
def write32 (who : Who) (a v : Nat) : M Unit := do
  match regAt (← getS).part a with
  | some d => when' (d.width = 32) (writeReg who d a (v % 2 ^ 32))
  | none => pure ()

/-- An aligned 64-bit write (R10, R696). -/
def write64 (who : Who) (a v : Nat) : M Unit := do
  let halves : M Unit := do
    write32 who a (v % 2 ^ 32)
    write32 who (a + 4) (v / 2 ^ 32 % 2 ^ 32)
  match regAt (← getS).part a with
  | some d => if d.width = 64 then writeReg who d a (v % 2 ^ 64) else halves
  | none => halves

/-! ## Accesses of the bus -/

/-- What an access gets: its value, an error (R695), or a refusal with its generation (R660). -/
inductive BusAns where
  | done (v : Nat)
  /-- A core's Mule holds the write (R187): the writer waits. -/
  | held (core : Nat)
  | error
  | refused (gen : Nat)
  deriving DecidableEq, Repr

/-- The generation that a core or an Ox being reset refuses accesses to its registers with (R660, log 32, DEDUCED). -/
def regRefuses (s : State) (a : Nat) : Option Nat :=
  match blkOf a with
  | .core n => if coreResetting s n then some ((fv s (RESET_GEN_CORE_GEN n) + 1) % 65536) else none
  | .ox o => if oxResetting s o then some ((fv s (RESET_GEN_OX_GEN o) + 1) % 65536) else none
  | _ => none

/-- The width and alignment that R695 asks for. -/
def widthOk (a size : Nat) : Bool := (size = 4 || size = 8) && a % size = 0

/-- What a write answers: it is done, or the Mule of its core has taken it to hold. -/
def heldWrite (before after : State) (a : Nat) : BusAns :=
  match blkOf a with
  | .core n => if (theCore before n).mule.held.length < (theCore after n).mule.held.length then .held n else .done 0
  | _ => .done 0

/-- An access to a register block of `size` bytes; `data` is written, or the value is read. -/
def regAccess (who : Who) (a size : Nat) (data : Option Nat) : M BusAns := do
  if !widthOk a size then return .error
  else match regRefuses (← getS) a, data with
    | some g, _ => do
      bump RESET_REFUSALS_COUNT
      return .refused g
    | none, some v => do
      let before ← getS
      if size = 4 then write32 who a v else write64 who a v
      return heldWrite before (← getS) a
    | none, none => do
      let v ← if size = 4 then read32 a else read64 a
      return .done v

/-- Whether an address lies in the range of Table 0.7. -/
def isReg (a : Nat) : Bool := decide (0xF00000000000 ≤ a) && decide (a < 0xF00010000000)

/-- An access to a register as its requester sees it. A reserved address is not performed (R7); one of another part of the
address map is no register's and reaches nothing (log 32, DEDUCED). -/
def regRow (who : Who) (a size : Nat) (data : Option Nat) : M Unit := do
  if isReg a then
    match ← regAccess who a size data with
    | .done v => when' data.isNone (emit (.regValue a v))
    | .held _ => pure ()
    | .error => notDone who a 1 6 0xFFFF
    | .refused g => emit (.refusal a g)
  else when' (regionOf (← getS).part a = .reserved) (notDone who a 1 0 0xFFFF)

/-- REGISTER_WRITE (R13). -/
def execRegisterWrite (who : Who) (addr size data : Nat) (s : State) : Host.Outcome State Fault Refusal :=
  runT (regRow who addr size (some data)) s

/-- READ_CLEAR_FIELD (R13). -/
def execReadClearField (who : Who) (addr size : Nat) (s : State) : Host.Outcome State Fault Refusal :=
  runT (regRow who addr size none) s

/-! ## The die links (R686-R688) -/

/-- What a request of the control die gets: the status and bytes of its reply, or nothing yet: it waits. -/
abbrev DieAns := Option (Nat × List Byte)

/-- The answer to a request of HBM or deep memory (R459, R660). -/
def holdAns (w : HoldWhy) : DieAns :=
  match w with
  | .refused _ _ _ => some (3, [])
  | _ => none

/-- A read of HBM or deep memory by the control die. -/
def dieRead (a len : Nat) : M DieAns := do
  let r ← readPhys viaDie a len
  match r.stop with
  | none => return some (if r.poison then 2 else 0, r.bs)
  | some (.hold w) => return holdAns w
  | some _ => return some (1, [])

/-- A write of HBM or deep memory by the control die. -/
def dieWrite (a : Nat) (bs : List Byte) : M DieAns := do
  match ← writePhys viaDie a bs false with
  | .ok => return some (0, [])
  | .absent _ => return some (1, [])
  | .hold w => return holdAns w
  | .failed => return none

/-- An access to a core's SRAM window by the control die: what `winAccess` emits becomes the reply; one to a bank that wakes
waits there with its request `q` (R235). -/
def dieSram (q : LinkReq) (n off a len : Nat) (data : Option (List Byte)) : M DieAns := do
  let s ← getS
  if off < 0xA00000 && bankGate s n (winBank off).1 = .waits && !coreResetting s n then
    winAccess .controlDie n off a len data (some q)
    return none
  else
    modOutbox (fun _ => [])
    winAccess .controlDie n off a len data none
    let got := (← getS).outbox
    modOutbox (fun _ => s.outbox)
    match got with
    | .bytes _ bs p :: _ => return some (if p then 2 else 0, bs)
    | .errorStatus _ :: _ => return some (1, [])
    | .refusal _ _ :: _ => return some (3, [])
    | _ => return some (0, [])

/-- A register access by the control die (R687, R695); a write that the Mule holds waits there with its request `q` (R187). -/
def dieReg (q : LinkReq) (a len : Nat) (data : Option (List Byte)) : M DieAns := do
  match ← regAccess .controlDie a len (data.map leNat) with
  | .held n => do
    modCore n (fun c => { c with mule := { c.mule with held := (c.mule.held.take (c.mule.held.length - 1))
      ++ (c.mule.held.drop (c.mule.held.length - 1)).map (fun h => { h with ack := some q }) } })
    return none
  | .done v => return some (0, match data with | some _ => [] | none => natLe len v)
  | .error => return some (1, [])
  | .refused _ => return some (3, [])

/-- An access of the control die to a device-physical address. -/
def dieAccess (q : LinkReq) (a len : Nat) (data : Option (List Byte)) : M DieAns := do
  let s ← getS
  match regionOf s.part a with
  | .regs => dieReg q a len data
  | .sram n off => dieSram q n off a len data
  | .reserved => return some (1, [])
  | _ => match data with
    | some bs => dieWrite a bs
    | none => dieRead a len

/-- The requests of the die links that wait in a core. -/
def waitingLink (s : State) : List LinkReq :=
  coreNums.flatMap (fun n =>
    let c := theCore s n
    c.winWait.filterMap WinReq.ack ++ c.mule.held.filterMap MuleHeld.ack)

/-- A READ or WRITE packet: the access is made and its reply is on its way; a request that waits is sent again by its
sender (log 32, DEDUCED). A module holds at most 512 requests. -/
def dieLink (module : Bool) (tag gen a len : Nat) (data : Option (List Byte)) : M Unit := do
  let s ← getS
  match moduleFor s module with
  | none => pure ()
  | some m =>
    if decide (((s.link.out ++ waitingLink s).filter (fun q => q.module = m)).length < 512) then do
      let q : LinkReq := ⟨m, tag % 65536, data.isSome, 0, gen % 65536, []⟩
      let ans ← if len % 4 = 0 && decide (len ≤ 256) then dieAccess q (a % 2 ^ 48) len data else pure (some (1, []))
      match ans with
      | none => pure ()
      | some (st, bs) => linkAnswer q st bs

/-- DIE_LINK_READ (R686). -/
def execDieLinkRead (module : Bool) (tag gen addr len : Nat) (errs : List LineErr) (s : State) :
    Host.Outcome State Fault Refusal := runT (withErrs errs (dieLink module tag gen addr len none)) s

/-- DIE_LINK_WRITE (R686). -/
def execDieLinkWrite (module : Bool) (tag gen addr : Nat) (data : List Byte) (errs : List LineErr) (s : State) :
    Host.Outcome State Fault Refusal := runT (withErrs errs (dieLink module tag gen addr data.length (some data))) s

/-- A reply leaves over a module and its request is no longer outstanding (R687). -/
def linkReply (module : Bool) (tag : Nat) (write : Bool) : M Unit := do
  match (← getS).link.out.find? (fun q => q.module = module && q.tag = tag && q.write = write) with
  | some q =>
    modLink (fun l => { l with out := l.out.erase q })
    emit (.linkReply module tag q.status q.gen q.bs)
  | none => pure ()

/-- READ_REPLY (R687). -/
def execReadReply (module : Bool) (tag : Nat) (s : State) : Host.Outcome State Fault Refusal :=
  runM (linkReply module tag false) s

/-- WRITE_ACK (R687). -/
def execWriteAck (module : Bool) (tag : Nat) (s : State) : Host.Outcome State Fault Refusal :=
  runM (linkReply module tag true) s

/-- The 64-byte entries that the event log's ring holds (Table 14.3). -/
def logEntries : Nat := 262144

/-- RECORD (R651, R486): the oldest record on its way reaches the control die, which keeps it and appends it to the event
log. -/
def execRecord (s : State) : Host.Outcome State Fault Refusal := runM (do
  let s ← getS
  match s.link.mirror with
  | (cond, bs) :: rest =>
    if (moduleFor s false).isSome then
      modLink (fun l => { l with mirror := rest })
      if cond then modCond (· ++ [bs]) else modTrouble (· ++ [bs])
      modFlash (fun f => { f with log := (f.log ++ [bs]).drop (f.log.length + 1 - logEntries) })
      emit (.record bs)
  | [] => pure ()) s

/-- UCIE_MODULE_DOWN (R688): outstanding requests of the module go over the other one. -/
def execUcieModuleDown (module : Bool) (s : State) : Host.Outcome State Fault Refusal := runM (do
  modLink (fun l => { l with
    down := if module then [l.down.getD 0 false, true] else [true, l.down.getD 1 false] })
  let s ← getS
  when' (!moduleDown s (!module)) (modLink (fun l => { l with
    out := l.out.map (fun q => if q.module = module then { q with module := !module } else q) }))) s

end Sys2Proof.Machine
end

