-- ==== Sys2Proof/Machine/Dispatch.lean ====
section
/-!
DEFINITION. Machine/Dispatch.lean: one arm per command, each one direct call of its meaning.
-/

namespace Sys2Proof.Machine

/-- The effect of a command on everything but the queue. -/
def exec (i : Instr) (s : State) : Host.Outcome State Fault Refusal :=
  match i with
  | .registerWrite who addr size data => Sys2Proof.Machine.execRegisterWrite who addr size data s
  | .readClearField who addr size => Sys2Proof.Machine.execReadClearField who addr size s
  | .tickEdge inp => Sys2Proof.Machine.execTickEdge inp s
  | .holdoverEntry => Sys2Proof.Machine.execHoldoverEntry s
  | .holdoverLimitExceeded => Sys2Proof.Machine.execHoldoverLimitExceeded s
  | .upstreamTickReturn back => Sys2Proof.Machine.execUpstreamTickReturn back s
  | .ptpLockGained => Sys2Proof.Machine.execPtpLockGained s
  | .passPush ox w3 => Sys2Proof.Machine.execPassPush ox w3 s
  | .passHeadCheck ox => Sys2Proof.Machine.execPassHeadCheck ox s
  | .segmentBegin core ready => Sys2Proof.Machine.execSegmentBegin core ready s
  | .passStart ox bubble => Sys2Proof.Machine.execPassStart ox bubble s
  | .yokeRowIssue core issue hold => Sys2Proof.Machine.execYokeRowIssue core issue hold s
  | .oxAttach ox => Sys2Proof.Machine.execOxAttach ox s
  | .passComplete ox => Sys2Proof.Machine.execPassComplete ox s
  | .oxFence ox => Sys2Proof.Machine.execOxFence ox s
  | .fenceLift ox => Sys2Proof.Machine.execFenceLift ox s
  | .ctxStepParamsWrite ctx which data => Sys2Proof.Machine.execCtxStepParamsWrite ctx which data s
  | .drainEncode core errs => Sys2Proof.Machine.execDrainEncode core errs s
  | .mergedRecordReread core errs => Sys2Proof.Machine.execMergedRecordReread core errs s
  | .muleTileStart core errs => Sys2Proof.Machine.execMuleTileStart core errs s
  | .muleProgWrite core off data => Sys2Proof.Machine.execMuleProgWrite core off data s
  | .reduceTile core => Sys2Proof.Machine.execReduceTile core s
  | .sramWindowAccess who addr len data => Sys2Proof.Machine.execSramWindowAccess who addr len data s
  | .bankPowerRequest core bank target => Sys2Proof.Machine.execBankPowerRequest core bank target s
  | .bankTransitionComplete core bank => Sys2Proof.Machine.execBankTransitionComplete core bank s
  | .bankRetire core bank => Sys2Proof.Machine.execBankRetire core bank s
  | .bankBind core slot => Sys2Proof.Machine.execBankBind core slot s
  | .streamProgramStart core errs => Sys2Proof.Machine.execStreamProgramStart core errs s
  | .stationTileStart core slot errs => Sys2Proof.Machine.execStationTileStart core slot errs s
  | .tileEventComplete core slot event => Sys2Proof.Machine.execTileEventComplete core slot event s
  | .hcAdd core hc add => Sys2Proof.Machine.execHcAdd core hc add s
  | .exchange core pair => Sys2Proof.Machine.execExchange core pair s
  | .streamProgramEnd core => Sys2Proof.Machine.execStreamProgramEnd core s
  | .collieHandoff core slot => Sys2Proof.Machine.execCollieHandoff core slot s
  | .cqRead core collie => Sys2Proof.Machine.execCqRead core collie s
  | .cdone core collie slot => Sys2Proof.Machine.execCdone core collie slot s
  | .startCmd ctx => Sys2Proof.Machine.execStartCmd ctx s
  | .holdCmd ctx => Sys2Proof.Machine.execHoldCmd ctx s
  | .save ctx => Sys2Proof.Machine.execSave ctx s
  | .restore ctx errs => Sys2Proof.Machine.execRestore ctx errs s
  | .kill ctx wipe => Sys2Proof.Machine.execKill ctx wipe s
  | .flushXlate ctx => Sys2Proof.Machine.execFlushXlate ctx s
  | .coresWrite ctx which data => Sys2Proof.Machine.execCoresWrite ctx which data s
  | .penWrite ctx pen data => Sys2Proof.Machine.execPenWrite ctx pen data s
  | .rosterCfgWrite ctx roster data => Sys2Proof.Machine.execRosterCfgWrite ctx roster data s
  | .rosterPubSample ctx roster errs => Sys2Proof.Machine.execRosterPubSample ctx roster errs s
  | .entryFetch ctx roster errs => Sys2Proof.Machine.execEntryFetch ctx roster errs s
  | .taskCompletion core => Sys2Proof.Machine.execTaskCompletion core s
  | .coreStoppedForSave core => Sys2Proof.Machine.execCoreStoppedForSave core s
  | .saveComplete ctx => Sys2Proof.Machine.execSaveComplete ctx s
  | .saveStopTimeout ctx => Sys2Proof.Machine.execSaveStopTimeout ctx s
  | .restoreComplete ctx => Sys2Proof.Machine.execRestoreComplete ctx s
  | .pageWalk core ctx va write errs => Sys2Proof.Machine.execPageWalk core ctx va write errs s
  | .sentinelRound => Sys2Proof.Machine.execSentinelRound s
  | .sentinelPass core => Sys2Proof.Machine.execSentinelPass core s
  | .sentinelCompletion core defects => Sys2Proof.Machine.execSentinelCompletion core defects s
  | .sentStateClear ox => Sys2Proof.Machine.execSentStateClear ox s
  | .hbmRead req cls addr via errs => Sys2Proof.Machine.execHbmRead req cls addr via errs s
  | .fullLineWrite req addr data poison => Sys2Proof.Machine.execFullLineWrite req addr data poison s
  | .partialWrite req addr data mask poison errs => Sys2Proof.Machine.execPartialWrite req addr data mask poison errs s
  | .wcbEntryComplete stack line errs => Sys2Proof.Machine.execWcbEntryComplete stack line errs s
  | .fence req errs => Sys2Proof.Machine.execFence req errs s
  | .class0Window stack pc => Sys2Proof.Machine.execClass0Window stack pc s
  | .requestAged stack => Sys2Proof.Machine.execRequestAged stack s
  | .hbmTraining stack redundant fails untrained => Sys2Proof.Machine.execHbmTraining stack redundant fails untrained s
  | .maintEnter who stack => Sys2Proof.Machine.execMaintEnter who stack s
  | .maintExit who stack => Sys2Proof.Machine.execMaintExit who stack s
  | .mrRead who stack ch pc => Sys2Proof.Machine.execMrRead who stack ch pc s
  | .mrWrite who stack ch pc => Sys2Proof.Machine.execMrWrite who stack ch pc s
  | .softPpr who stack ch pc => Sys2Proof.Machine.execSoftPpr who stack ch pc s
  | .hardPpr who stack ch pc => Sys2Proof.Machine.execHardPpr who stack ch pc s
  | .softPprUndo who stack ch pc => Sys2Proof.Machine.execSoftPprUndo who stack ch pc s
  | .mbist who stack ch pc rows => Sys2Proof.Machine.execMbist who stack ch pc rows s
  | .ieee1500 who stack ch pc => Sys2Proof.Machine.execIeee1500 who stack ch pc s
  | .cxlTraining port width rate cap => Sys2Proof.Machine.execCxlTraining port width rate cap s
  | .deepAccess req ctx addr va leaf2 data reply errs => Sys2Proof.Machine.execDeepAccess req ctx addr va leaf2 data reply errs s
  | .heatEpoch => Sys2Proof.Machine.execHeatEpoch s
  | .promote who page count => Sys2Proof.Machine.execPromote who page count s
  | .evict who page count => Sys2Proof.Machine.execEvict who page count s
  | .pin who page count => Sys2Proof.Machine.execPin who page count s
  | .unpin who page count => Sys2Proof.Machine.execUnpin who page count s
  | .moveComplete page errs => Sys2Proof.Machine.execMoveComplete page errs s
  | .moveFail page => Sys2Proof.Machine.execMoveFail page s
  | .wagonEnable => Sys2Proof.Machine.execWagonEnable s
  | .wagonDisable => Sys2Proof.Machine.execWagonDisable s
  | .wagonDrainComplete => Sys2Proof.Machine.execWagonDrainComplete s
  | .wagonResumeComplete errs => Sys2Proof.Machine.execWagonResumeComplete errs s
  | .deepAccessLate port id => Sys2Proof.Machine.execDeepAccessLate port id s
  | .deepAccessFail port id => Sys2Proof.Machine.execDeepAccessFail port id s
  | .lateAnswerDiscard port id => Sys2Proof.Machine.execLateAnswerDiscard port id s
  | .recompAck ctx q => Sys2Proof.Machine.execRecompAck ctx q s
  | .recompExpiry ctx q => Sys2Proof.Machine.execRecompExpiry ctx q s
  | .scrubGroup stack errs => Sys2Proof.Machine.execScrubGroup stack errs s
  | .retire who stack page slot => Sys2Proof.Machine.execRetire who stack page slot s
  | .retireComplete stack errs => Sys2Proof.Machine.execRetireComplete stack errs s
  | .portTraining port tx rx peer => Sys2Proof.Machine.execPortTraining port tx rx peer s
  | .wavelengthDegrade port w corr uncorr => Sys2Proof.Machine.execWavelengthDegrade port w corr uncorr s
  | .swapReq port lane spare => Sys2Proof.Machine.execSwapReq port lane spare s
  | .swapAck port => Sys2Proof.Machine.execSwapAck port s
  | .swapGo port => Sys2Proof.Machine.execSwapGo port s
  | .switchMarker port => Sys2Proof.Machine.execSwitchMarker port s
  | .dataPacket port crcOk lseq p errs => Sys2Proof.Machine.execDataPacket port crcOk lseq p errs s
  | .rts port crcOk lseq p errs => Sys2Proof.Machine.execRts port crcOk lseq p errs s
  | .grant port crcOk lseq p errs => Sys2Proof.Machine.execGrant port crcOk lseq p errs s
  | .ack port crcOk lseq p errs => Sys2Proof.Machine.execAck port crcOk lseq p errs s
  | .refuse port crcOk lseq p errs => Sys2Proof.Machine.execRefuse port crcOk lseq p errs s
  | .xdata port crcOk lseq p errs => Sys2Proof.Machine.execXdata port crcOk lseq p errs s
  | .mgmt port crcOk lseq p errs => Sys2Proof.Machine.execMgmt port crcOk lseq p errs s
  | .replayRequest port lseq => Sys2Proof.Machine.execReplayRequest port lseq s
  | .linkAck port lseq => Sys2Proof.Machine.execLinkAck port lseq s
  | .linkDown port => Sys2Proof.Machine.execLinkDown port s
  | .routeSwitch => Sys2Proof.Machine.execRouteSwitch s
  | .routeEntryWrite page e data => Sys2Proof.Machine.execRouteEntryWrite page e data s
  | .e2eTimeout => Sys2Proof.Machine.execE2eTimeout s
  | .xferRingWrite who data => Sys2Proof.Machine.execXferRingWrite who data s
  | .xferPubSample errs => Sys2Proof.Machine.execXferPubSample errs s
  | .keyInstall who ctx errs => Sys2Proof.Machine.execKeyInstall who ctx errs s
  | .keyErase who ctx => Sys2Proof.Machine.execKeyErase who ctx s
  | .verifyQueue who ctx entry => Sys2Proof.Machine.execVerifyQueue who ctx entry s
  | .verifyComplete errs => Sys2Proof.Machine.execVerifyComplete errs s
  | .verifyDoneRead => Sys2Proof.Machine.execVerifyDoneRead s
  | .gslotLoad who ctx k => Sys2Proof.Machine.execGslotLoad who ctx k s
  | .gslotReady who ctx k => Sys2Proof.Machine.execGslotReady who ctx k s
  | .gslotAbandon who ctx k => Sys2Proof.Machine.execGslotAbandon who ctx k s
  | .rosterGenWrite who ctx data => Sys2Proof.Machine.execRosterGenWrite who ctx data s
  | .genSwitch ctx => Sys2Proof.Machine.execGenSwitch ctx s
  | .rsrcReqRead => Sys2Proof.Machine.execRsrcReqRead s
  | .rsrcDone page => Sys2Proof.Machine.execRsrcDone page s
  | .rsrcExpiry page => Sys2Proof.Machine.execRsrcExpiry page s
  | .attestRequest nonce => Sys2Proof.Machine.execAttestRequest nonce s
  | .token link crcOk hseq f => Sys2Proof.Machine.execToken link crcOk hseq f s
  | .headDecision => Sys2Proof.Machine.execHeadDecision s
  | .tickCountLoad back => Sys2Proof.Machine.execTickCountLoad back s
  | .nodeAssign link crcOk hseq f => Sys2Proof.Machine.execNodeAssign link crcOk hseq f s
  | .chainAck link crcOk hseq f => Sys2Proof.Machine.execChainAck link crcOk hseq f s
  | .chainResend link => Sys2Proof.Machine.execChainResend link s
  | .offer link crcOk hseq f => Sys2Proof.Machine.execOffer link crcOk hseq f s
  | .chainData link crcOk hseq f errs => Sys2Proof.Machine.execChainData link crcOk hseq f errs s
  | .result link crcOk hseq f => Sys2Proof.Machine.execResult link crcOk hseq f s
  | .delay link crcOk hseq f loop => Sys2Proof.Machine.execDelay link crcOk hseq f loop s
  | .chainMgmt link crcOk hseq f => Sys2Proof.Machine.execChainMgmt link crcOk hseq f s
  | .stageTimeout xfer => Sys2Proof.Machine.execStageTimeout xfer s
  | .firmwareActivation => Sys2Proof.Machine.execFirmwareActivation s
  | .coldStart inp => Sys2Proof.Machine.execColdStart inp s
  | .hangDeclaration core => Sys2Proof.Machine.execHangDeclaration core s
  | .oxReset unit => Sys2Proof.Machine.execOxReset unit s
  | .coreReset unit => Sys2Proof.Machine.execCoreReset unit s
  | .contextReset unit => Sys2Proof.Machine.execContextReset unit s
  | .portReset unit => Sys2Proof.Machine.execPortReset unit s
  | .iodReset unit => Sys2Proof.Machine.execIodReset unit s
  | .stackReset unit => Sys2Proof.Machine.execStackReset unit s
  | .dieReset unit => Sys2Proof.Machine.execDieReset unit s
  | .deviceReset inp => Sys2Proof.Machine.execDeviceReset inp s
  | .resetComplete domain unit => Sys2Proof.Machine.execResetComplete domain unit s
  | .resetEscalation domain unit => Sys2Proof.Machine.execResetEscalation domain unit s
  | .requestRefused core slot domain unit => Sys2Proof.Machine.execRequestRefused core slot domain unit s
  | .refuseLimitExpiry core slot => Sys2Proof.Machine.execRefuseLimitExpiry core slot s
  | .staleReply domain unit gen => Sys2Proof.Machine.execStaleReply domain unit gen s
  | .jobFaultRaise who ctx origin => Sys2Proof.Machine.execJobFaultRaise who ctx origin s
  | .resetN => Sys2Proof.Machine.execResetN s
  | .thermalTrip sensor reading => Sys2Proof.Machine.execThermalTrip sensor reading s
  | .powerTrip => Sys2Proof.Machine.execPowerTrip s
  | .railFault rail current reading => Sys2Proof.Machine.execRailFault rail current reading s
  | .throttleWindow => Sys2Proof.Machine.execThrottleWindow s
  | .dieLinkRead module tag gen addr len errs => Sys2Proof.Machine.execDieLinkRead module tag gen addr len errs s
  | .dieLinkWrite module tag gen addr data errs => Sys2Proof.Machine.execDieLinkWrite module tag gen addr data errs s
  | .readReply module tag => Sys2Proof.Machine.execReadReply module tag s
  | .writeAck module tag => Sys2Proof.Machine.execWriteAck module tag s
  | .record => Sys2Proof.Machine.execRecord s
  | .ucieModuleDown module => Sys2Proof.Machine.execUcieModuleDown module s
  | .ethernetFrame port rx bs stamp op => Sys2Proof.Machine.execEthernetFrame port rx bs stamp op s
  | .killComplete ctx => Sys2Proof.Machine.execKillComplete ctx s
  | .chainLinkUp link loop => Sys2Proof.Machine.execChainLinkUp link loop s
  | .chainLinkLost link => Sys2Proof.Machine.execChainLinkLost link s
  | .ptpLockLost => Sys2Proof.Machine.execPtpLockLost s
  | .cxlLinkDown port => Sys2Proof.Machine.execCxlLinkDown port s
  | .cxlLinkRetrained port width rate => Sys2Proof.Machine.execCxlLinkRetrained port width rate s
  | .flashWriteComplete ok => Sys2Proof.Machine.execFlashWriteComplete ok s
  | .powerLoss => Sys2Proof.Machine.execPowerLoss s

end Sys2Proof.Machine
end

