-- ==== Sys2Proof/Safety.lean ====
section
/-!
DEFINITION. Safety.lean: the words the statements are made of: a state with one thing changed, and the invariant that
every step keeps.
-/

namespace Sys2Proof.Machine

/-! ## A state with one thing changed -/

/-- The field `freeCtr` is changed. -/
def State.putFreeCtr (s : State) (f : Nat → Nat) : State := { s with freeCtr := f s.freeCtr }
/-- The field `tick` is changed. -/
def State.putTick (s : State) (f : Nat → Nat) : State := { s with tick := f s.tick }
/-- The field `time` is changed. -/
def State.putTime (s : State) (f : TimeSt → TimeSt) : State := { s with time := f s.time }
/-- The field `latched` is changed. -/
def State.putLatched (s : State) (f : (List Ev) → (List Ev)) : State := { s with latched := f s.latched }
/-- The field `due` is changed. -/
def State.putDue (s : State) (f : (List Ev) → (List Ev)) : State := { s with due := f s.due }
/-- The field `lineErrs` is changed. -/
def State.putLineErrs (s : State) (f : (List LineErr) → (List LineErr)) : State := { s with lineErrs := f s.lineErrs }
/-- One Ox is changed. -/
def State.putOx (s : State) (i : Nat) (f : Ox → Ox) : State := { s with oxen := mmod (fun _ => .idle) s.oxen i f }
/-- One core is changed. -/
def State.putCore (s : State) (i : Nat) (f : CoreSt → CoreSt) : State := { s with cores := mmod (fun _ => .idle) s.cores i f }
/-- One context is changed. -/
def State.putCtx (s : State) (i : Nat) (f : CtxSt → CtxSt) : State := { s with ctxs := mmod (fun _ => .empty) s.ctxs i f }
/-- One HBM stack is changed. -/
def State.putStack (s : State) (i : Nat) (f : StackSt → StackSt) : State := { s with hbm := mmod (fun _ => .fresh) s.hbm i f }
/-- The field `trouble` is changed. -/
def State.putTrouble (s : State) (f : (List (List Byte)) → (List (List Byte))) : State := { s with trouble := f s.trouble }
/-- The field `cond` is changed. -/
def State.putCond (s : State) (f : (List (List Byte)) → (List (List Byte))) : State := { s with cond := f s.cond }
/-- The field `outbox` is changed. -/
def State.putOutbox (s : State) (f : (List OutMsg) → (List OutMsg)) : State := { s with outbox := f s.outbox }
/-- One CXL port is changed. -/
def State.putCxl (s : State) (i : Nat) (f : CxlSt → CxlSt) : State := { s with cxls := mmod (fun _ => ⟨[]⟩) s.cxls i f }
/-- The field `wagon` is changed. -/
def State.putWagon (s : State) (f : WagonSt → WagonSt) : State := { s with wagon := f s.wagon }
/-- The field `deepNext` is changed. -/
def State.putDeepNext (s : State) (f : Nat → Nat) : State := { s with deepNext := f s.deepNext }
/-- The field `history` is changed. -/
def State.putHistory (s : State) (f : (List RepEnt) → (List RepEnt)) : State := { s with history := f s.history }
/-- The field `trPend` is changed. -/
def State.putTrPend (s : State) (f : (List PendRec) → (List PendRec)) : State := { s with trPend := f s.trPend }
/-- The field `resets` is changed. -/
def State.putResets (s : State) (f : (List ResetOp) → (List ResetOp)) : State := { s with resets := f s.resets }
/-- One optical port is changed. -/
def State.putPort (s : State) (i : Nat) (f : PortSt → PortSt) : State := { s with ports := mmod (fun _ => .start) s.ports i f }
/-- The field `fab` is changed. -/
def State.putFab (s : State) (f : FabSt → FabSt) : State := { s with fab := f s.fab }
/-- The field `sec` is changed. -/
def State.putSec (s : State) (f : SecSt → SecSt) : State := { s with sec := f s.sec }
/-- The field `flash` is changed. -/
def State.putFlash (s : State) (f : FlashSt → FlashSt) : State := { s with flash := f s.flash }
/-- The field `chain` is changed. -/
def State.putChain (s : State) (f : ChainSt → ChainSt) : State := { s with chain := f s.chain }
/-- The field `pwr` is changed. -/
def State.putPwr (s : State) (f : PwrSt → PwrSt) : State := { s with pwr := f s.pwr }
/-- The field `link` is changed. -/
def State.putLink (s : State) (f : LinkSt → LinkSt) : State := { s with link := f s.link }
/-- A register holds a value, as the register keeps it. -/
def State.putReg (s : State) (a : Nat) (v : Nat) : State := { s with regs := mset (resetWord s.part) s.regs a (regKeep a v) }
/-- The registers that `p` names hold their reset values. -/
def State.resetRegs (s : State) (p : Nat → Bool) : State := { s with regs := mreset p s.regs }
/-- Bytes are stored from an address. -/
def State.putBytes (s : State) (a : Nat) (bs : List Byte) : State := { s with mem := msetRun (fun _ => 0) s.mem a bs }
/-- The bytes that `p` names read 0. -/
def State.clearBytes (s : State) (p : Nat → Bool) : State := { s with mem := mreset p s.mem }
/-- Bytes are copied. -/
def State.copyBytes (s : State) (src dst len : Nat) : State := { s with mem := mcopy s.mem src dst len }
/-- The mark of a storage line. -/
def State.putSyn (s : State) (a : Nat) (v : BitVec 32) : State := { s with syn := mset (fun _ => 0) s.syn a v }
/-- The lines that `p` names have no mark. -/
def State.clearSyn (s : State) (p : Nat → Bool) : State := { s with syn := mreset p s.syn }
/-- A draw counter. -/
def State.putDraw (s : State) (a v : Nat) : State := { s with draw := mset (fun _ => 0) s.draw a v }
/-- The draw counters that `p` names are 0. -/
def State.clearDraw (s : State) (p : Nat → Bool) : State := { s with draw := mreset p s.draw }

/-- One field of a register holds a value. -/
def State.put (s : State) (f : Fld) (v : Nat) : State := s.putReg f.addr (withBits (rg s f.addr) f.lo f.w v)

/-- A counter counts `n` more events; it saturates at its width (R16). -/
def State.count (s : State) (f : Fld) (n : Nat) : State := s.put f (min (2 ^ f.w - 1) (fv s f + n))

/-- A control event is latched for the next tick edge (R29). -/
def State.latching (s : State) (e : Ev) : State := { s with latched := s.latched ++ [e] }

/-- A message leaves the block, the newest first. -/
def State.says (s : State) (m : OutMsg) : State := { s with outbox := m :: s.outbox }

/-- A context's fault is latched with its trouble record (rank 3); a poison bite comes first in the rank (Table 1.5). -/
def State.faulting (s : State) (t : Trouble) : State :=
  s.latching ⟨3, if t.kind = 7 then 0 else 1, if t.ctx = 0xFF then none else some t.ctx, t.core, .fault t⟩

/-- A unit in reset refuses a request: the refusal is counted and carries the generation that the unit will have at its
completion (R660). -/
def State.refused (s : State) (addr gen : Nat) : State := (s.count RESET_REFUSALS_COUNT 1).says (.refusal addr gen)

/-! ## What a sequence does -/

/-- From `s` the sequence gives `a` and leaves `t`. -/
def Gives {α : Type} (m : M α) (s : State) (a : α) (t : State) : Prop := ∀ k : α → Act, Act.run (m k) s = Act.run (k a) t

/-- The outcome `o` of a command is `s` once the trouble records taken on the way are written into their ring (R650). -/
def Ends (o : Host.Outcome State Fault Refusal) (s : State) : Prop := ∃ t, Gives flushRecords s () t ∧ o = .next t

/-- The state in which lines read meet the given errors; between commands none are set. -/
def State.meeting (s : State) (errs : List LineErr) : State := { s with lineErrs := errs }

/-! ## What the operations of several commands leave -/

/-- The capability record is written again with the next even generation (R487). -/
def State.recapped (s : State) : State :=
  let gen := (bits (rg s (DISP_CAP 0)) 32 32 + 2) % 2 ^ 32
  let body := capBody s (gen - gen % 2) s.tick
  let all := body ++ natLe 4 (crc32c body)
  (List.range 64).foldl (fun t w => t.putReg (DISP_CAP w) (leNat ((all.drop (8 * w)).take 8))) s

/-- An access that a retired or OFF bank refuses: BANK.FAULT is set, counted, and the task's context faults (R235, R242). -/
def State.bankFaulting (s : State) (n b off : Nat) : State :=
  let t := (s.put ⟨bankReg n b, 9, 1⟩ 1).count (CORE_BANK_FAULTS_COUNT n) 1
  t.faulting (troubleOf t n 2 0 b 0 (bankAddr n b off) 0)

/-- A control event of rank `k` is taken at this tick: the second rank of a tick counts it in SAME_TICK (R36). -/
def State.ranked (s : State) (k : Nat) : State :=
  if s.time.ranks.contains k then s
  else (if s.time.ranks.length = 1 then s.count TIME_SAME_TICK_COUNT 1 else s).putTime (fun t => { t with ranks := k :: s.time.ranks })

/-- The command of a context has come to its tick: it is no longer armed (R311). -/
def State.reached (s : State) (c code : Nat) : State :=
  if fv s (CTX_CMD_CODE c) = code then (s.ranked 5).put (CTX_STATE_CMD_ARMED c) 0 else s.ranked 5

/-- No head of a context has been ready since it began to run (R333, R335). -/
def State.unreadied (s : State) (c : Nat) : State :=
  s.putCtx c (fun x => { x with
    rosters := x.rosters.map (fun r => { r with head := r.head.map (fun h => { h with readyAt := none }) }) })

/-- The tick does not count in the run ticks of a core's task (R347). -/
def State.uncounted (s : State) (n : Nat) : State :=
  match (theCore s n).task with
  | none => s
  | some t =>
    (s.putCore n (fun c => { c with
      task := c.task.map (fun t => { t with run := t.run - 1, missed := t.budget != 0 && decide (t.budget < t.run - 1) }) })).putReg
      (CORE_RUN_TICKS n) (min (t.run - 1) (2 ^ 32 - 1))

/-- Translations that `p` names are cached no more. -/
def State.forgetting (s : State) (p : Xlate → Bool) : State :=
  (mkeys s.cores).foldl (fun t n => t.putCore n (fun c => { c with xlate := c.xlate.filter (fun x => !p x) })) s

/-- One roster of a context is changed. -/
def State.putRoster (s : State) (c r : Nat) (f : Roster → Roster) : State :=
  s.putCtx c (fun x => { x with rosters := modNth x.rosters r f })

/-- One stream of a core is changed. -/
def State.putStream (s : State) (n k : Nat) (f : Stream → Stream) : State :=
  s.putCore n (fun c => { c with streams := modNth c.streams k f })

/-- The failed deep accesses of a core have been taken. -/
def State.failedGone (s : State) (n : Nat) : State :=
  ((mkeys s.cxls).filter (fun x => (polledOf s x n false).any DeepAcc.failed || (polledOf s x n true).any DeepAcc.failed)).foldl
    (fun t x => t.putCxl x (fun c => { c with out := c.out.filter (fun a => !(a.polled && a.req = n && a.failed)) })) s

/-- A unit of a core waits for no bank. -/
def State.bankFreed (s : State) (n unit : Nat) : State :=
  if (theCore s n).bankWaits.any (fun w => w.unit = unit) then
    s.putCore n (fun c => { c with bankWaits := c.bankWaits.filter (fun w => w.unit != unit) ++ [] })
  else s

/-- A unit of a core waits for the banks of a list that wake (R235). -/
def State.bankHeld (s : State) (n unit : Nat) (bs : List (Nat × Nat)) : State :=
  s.putCore n (fun c => { c with bankWaits := c.bankWaits.filter (fun w => w.unit != unit)
    ++ (bs.filter (fun b => bankGate s n b.1 = .waits)).map (fun b => (⟨unit, b.1, b.2⟩ : BankWait)) })

/-- An access of a context waits: on a page in transit it is counted (R420). -/
def State.waiting (s : State) (c : Nat) (w : HoldWhy) : State :=
  match w with
  | .move _ => s.count (CTX_LOCK_WAITS_COUNT c) 1
  | _ => s

/-- The outcome of tile `i` of a stream is noted: done and counted as begun, held, waiting for a record or for a bank, or
faulted. -/
def State.noted (s : State) (n k i : Nat) (r : TRes) : State :=
  let others (t : State) := t.putCore n (fun c => { c with encWait := c.encWait.filter (fun w => w.slot != k) })
  let t := (s.failedGone n).bankFreed n k
  match r with
  | .ok => (others (t.putStream n k (fun x => { x with next := i + 1, held := [] }))).putReg (CORE_NEXT_TILE n k) (i + 1)
  | .hold w =>
    let old := (theStream s n k).held.find? (fun h => h.tile = i)
    let u := s.bankFreed n k
    let u := if old.all (fun h => h.why != w) then u.waiting ((ctxOfCore s n).getD 0) w else u
    others (u.putStream n k (fun x => { x with held := [⟨i, w,
      match old with | some h => (if h.why = w then h.since else s.tick) | none => s.tick,
      match old with | some h => h.noRecomp | none => false, match old with | some h => h.again | none => false⟩] }))
  | .record => t.putCore n (fun c => { c with encWait := c.encWait.filter (fun w => w.slot != k) ++ [⟨k, i⟩] })
  | .wait => s
  | .bad => (t.putStream n k (fun x => { x with held := [] })).putCore n
      (fun c => { c with progBad := true, bindWait := [], encWait := c.encWait.filter (fun w => w.slot != k) })

/-- The Mule's open spans are abandoned: SPAN_LOST is set and counts them (R201). -/
def State.spansLost (s : State) (n : Nat) : State :=
  let k := b2n (spanOpen s n false) + b2n (spanOpen s n true)
  if k = 0 then s
  else ((s.put (CORE_MULE_STATUS_SPAN_LOST n) 1).count (CORE_MULE_SPAN_LOST_COUNT n) k).putCore n
    (fun c => { c with mule := { c.mule with parts := [[], [], [], []] } })

/-- A field counts modulo its width (R273, R639). -/
def State.addMod (s : State) (f : Fld) (n : Nat) : State := s.put f ((fv s f + n) % 2 ^ f.w)

/-- Event `ev` of tile `i` of a stream completes: its advances are made, event 0 moves the progress counter, and the
stream is done with the last event of its last tile (R268, R273, R639); with the Mule's stream open spans end (R201). -/
def State.eventDone (s : State) (n k i : Nat) (ev : Bool) : State :=
  let d := (theStream s n k).desc
  let due (j : Nat) : Bool := (dAdv d j).en && (dAdv d j).event = b2n ev && ((i + 1) % (dAdv d j).every = 0 || i + 1 = dTiles d)
  let adv (t : State) (j : Nat) : State := if due j then t.addMod (CORE_HC_VALUE n (dAdv d j).hc) (dAdv d j).add else t
  let t := s.putStream n k (fun y => if ev then { y with done1 := i + 1 } else { y with done0 := i + 1 })
  let u := adv (adv (if ev then t else t.addMod (CORE_PROGRESS_COUNT n) 1) 0) 1
  if streamDone (theStream u n k) then
    let v := (u.putStream n k (fun y => { y with state := 2 })).put ⟨CORE_STREAM_STATUS n, k, 1⟩ 0
    if dStation d = stMule then v.spansLost n else v
  else u

/-- A bank's TARGET and STATE hold values. -/
def State.bankAs (s : State) (n b target state : Nat) : State := (s.put (bankTarget n b) target).put (bankState n b) state

/-- A bank's transition is changed. -/
def State.putTr (s : State) (n b : Nat) (f : BankTr → BankTr) : State := s.putCore n (fun c => { c with banks := modNth c.banks b f })

/-- A bank's bytes and marks are cleared, and A7's draw counters with it (R231, R257). -/
def State.bankCleared (s : State) (n b : Nat) : State :=
  let lo := bankAddr n b 0
  let hi := lo + bankBytes b
  let t := (s.clearBytes (fun a => lo ≤ a && a < hi)).clearSyn (fun a => lo ≤ a && a < hi)
  if b = 11 then t.clearDraw (fun k => 512 * n ≤ k && k < 512 * n + 512) else t

/-- A CXL port has trained with a width and a rate (R397). -/
def State.cxlTrained (s : State) (x width rate : Nat) : State :=
  let ok := fb s (CXL_CTRL_ENABLE x) && decide (8 ≤ width) && rate != 0
  let t := ((s.put (CXL_STATUS_STATE x) (if ok then 2 else 4)).put (CXL_STATUS_WIDTH x) (if ok then width else 0)).put
    (CXL_STATUS_RATE x) (if ok then rate else 0)
  (if deepBad t then t.put WAGON_STATUS_CFG_ERR 1 else t).recapped

/-- `n` hints, or pages of hints, are dropped (R413). -/
def State.hintsDropped (s : State) (n : Nat) : State :=
  if n = 0 then s else (s.put WAGON_STATUS_HINT_DROP 1).count WAGON_HINT_DROPS_COUNT n

/-- A move ends: its lock is released, and a retirement that waited for it begins (R423, R471). -/
def State.moveEnded (s : State) (m : Move) : State :=
  let p := frameAt s m.frame
  (s.putWagon (fun w => { w with moves := w.moves.filter (fun x => x != m) })).putStack p.1
    (fun k => { k with retire := k.retire.map (fun r => if r.page = p.2 / page2M then { r with waits := false } else r) })

/-- An access that is not performed: the control die gets an error status, a Collie's context faults (R695). -/
def State.turnedAway (s : State) (who : Who) (addr kind code unit : Nat) : State :=
  match who with
  | .controlDie => s.says (.errorStatus addr)
  | .collie n => (s.faulting (troubleOf s n kind code unit 0 addr 0)).says (.notPerformed addr)

/-- The blocks whose registers whoever may write them writes field by field, with no effect beyond the fields. -/
def plainBlock (who : Who) (a : Nat) : Bool :=
  match blkOf a with
  | .time | .disp | .cxl _ | .gap => true
  | .pwr | .chain => decide (who = .controlDie)
  | _ => false

/-- The head of an Ox's queue faults (R60): the queue is discarded, code and PASS_ID are recorded, the context faults. -/
def State.passFaulting (s : State) (o code : Nat) (d : PassD) : State :=
  let t := (((s.putOx o (fun x => { x with queue := [] })).put (OX_FAULT_CODE o) code).put (OX_FAULT_PASS_ID o) (PassField.passId d)).put
    (OX_STATUS_PASS_FAULT o) 1
  t.faulting (troubleOf t (oxCore o) 3 code o (PassField.passId d) 0 0)

/-- A row of results as the Mule gets it: FP32, by RNE (R120). -/
def muleRow (row : OutRow) : OutFp := ⟨row.tag, row.cols.map (fun x => ⟨toFp32 x.col.result .rne, x.poison⟩)⟩

/-- The commands that start the next tile of stream `slot` of a core with the given errors on the lines it reads (R271,
R297, R203, R299, R302). -/
def startsTile (c : Instr) (core : Fin 64) (slot : Fin 16) (errs : List LineErr) (s : State) : Prop :=
  c = .stationTileStart core slot errs
  ∨ (c = .drainEncode core errs ∧ (slotsOf s core stDrain).head? = some slot.val)
  ∨ (c = .muleTileStart core errs ∧ (slotsOf s core stMule).head? = some slot.val)
  ∨ (errs = [] ∧ c = .reduceTile core ∧ (slotsOf s core stReduce).head? = some slot.val)
  ∨ (errs = [] ∧ c = .collieHandoff core slot ∧ dStation (theStream s core slot).desc = stCollie)

/-- A frame is put on a link of the chain (R600). -/
def State.framed (s : State) (out : Bool) (hseq : Nat) (f : Frame) : State := (s.says (.chain out hseq f)).count CHAIN_FRAMES_TX_COUNT 1

/-- The frames accepted so far on a link are acknowledged (R600). -/
def State.hopAcked (s : State) (out : Bool) : State :=
  s.framed out 0 ⟨0, ownAddr s, 3, 0, natLe 2 (((hopOf s out).rxNext + 65535) % 65536)⟩

/-- A hop of the chain is changed. -/
def State.putHop (s : State) (out : Bool) (f : HopSt → HopSt) : State :=
  s.putChain (fun c => if out then { c with outHop := f c.outHop } else { c with inHop := f c.inHop })

/-- A read through a core's window is answered; a Collie's read of poison bites (R209, R457). -/
def State.answered (s : State) (who : Who) (addr : Nat) (bs : List Byte) (poison : Bool) : State :=
  match who with
  | .controlDie => s.says (.bytes addr bs poison)
  | .collie n => if poison then s.faulting (troubleOf s n 7 0 0xFFFF 0 addr 0) else s.says (.bytes addr bs false)

/-- Slots of a bank that another class holds are counted (R217). -/
def State.guested (s : State) (n b len : Nat) : State :=
  if b < 4 ∧ bindOf s n b ≠ 0 ∧ bindOf s n b ≠ 6 ∧ ceilDiv len 512 ≠ 0 then s.count (CORE_GUEST_ACCESSES_COUNT n) (ceilDiv len 512) else s

/-! ## What a command may change -/

/-- The parts of a state, but for the queue and the assembly, which no command changes. -/
inductive Fd where
  | freeCtr
  | regs
  | mem
  | syn
  | draw
  | tick
  | time
  | latched
  | due
  | lineErrs
  | oxen
  | cores
  | ctxs
  | hbm
  | trouble
  | cond
  | outbox
  | cxls
  | wagon
  | deepNext
  | history
  | trPend
  | resets
  | ports
  | fab
  | sec
  | flash
  | chain
  | pwr
  | link
  deriving DecidableEq, Repr

/-- Two states agree in a part. -/
def State.sameAt : Fd → State → State → Prop
  | .freeCtr, s, t => t.freeCtr = s.freeCtr
  | .regs, s, t => t.regs = s.regs
  | .mem, s, t => t.mem = s.mem
  | .syn, s, t => t.syn = s.syn
  | .draw, s, t => t.draw = s.draw
  | .tick, s, t => t.tick = s.tick
  | .time, s, t => t.time = s.time
  | .latched, s, t => t.latched = s.latched
  | .due, s, t => t.due = s.due
  | .lineErrs, s, t => t.lineErrs = s.lineErrs
  | .oxen, s, t => t.oxen = s.oxen
  | .cores, s, t => t.cores = s.cores
  | .ctxs, s, t => t.ctxs = s.ctxs
  | .hbm, s, t => t.hbm = s.hbm
  | .trouble, s, t => t.trouble = s.trouble
  | .cond, s, t => t.cond = s.cond
  | .outbox, s, t => t.outbox = s.outbox
  | .cxls, s, t => t.cxls = s.cxls
  | .wagon, s, t => t.wagon = s.wagon
  | .deepNext, s, t => t.deepNext = s.deepNext
  | .history, s, t => t.history = s.history
  | .trPend, s, t => t.trPend = s.trPend
  | .resets, s, t => t.resets = s.resets
  | .ports, s, t => t.ports = s.ports
  | .fab, s, t => t.fab = s.fab
  | .sec, s, t => t.sec = s.sec
  | .flash, s, t => t.flash = s.flash
  | .chain, s, t => t.chain = s.chain
  | .pwr, s, t => t.pwr = s.pwr
  | .link, s, t => t.link = s.link

/-- The parts of a state that a command may change; it leaves every other part as it was. -/
def touches : Instr → List Fd
  | .registerWrite .. | .readClearField .. =>
    [.freeCtr, .regs, .mem, .syn, .latched, .oxen, .cores, .ctxs, .hbm, .outbox, .cxls, .wagon, .deepNext, .history,
     .trPend, .fab, .sec, .link]
  | .tickEdge .. =>
    [.freeCtr, .regs, .mem, .syn, .draw, .tick, .time, .latched, .due, .lineErrs, .oxen, .cores, .ctxs, .hbm, .outbox,
     .cxls, .wagon, .deepNext, .history, .trPend, .resets, .ports, .fab, .sec, .flash, .chain, .pwr, .link]
  | .holdoverEntry .. | .genSwitch .. =>
    [.regs, .time]
  | .holdoverLimitExceeded .. | .upstreamTickReturn .. =>
    [.freeCtr, .regs, .mem, .syn, .time, .hbm, .outbox, .cxls, .wagon, .deepNext, .trPend, .link]
  | .ptpLockGained .. | .ctxStepParamsWrite .. | .coresWrite .. | .penWrite .. | .sentinelRound ..
  | .sentStateClear .. | .wagonDisable .. | .wagonDrainComplete .. | .routeSwitch .. | .routeEntryWrite ..
  | .gslotLoad .. | .gslotReady .. | .gslotAbandon .. | .rosterGenWrite .. | .staleReply .. | .chainLinkLost ..
  | .ptpLockLost .. | .cxlLinkDown .. | .cxlLinkRetrained .. =>
    [.regs]
  | .passPush .. =>
    [.regs, .oxen, .outbox]
  | .passHeadCheck .. =>
    [.regs, .latched, .oxen]
  | .segmentBegin .. | .passStart .. | .yokeRowIssue .. =>
    [.regs, .latched, .oxen, .cores]
  | .oxAttach .. =>
    [.oxen]
  | .passComplete .. =>
    [.regs, .mem, .syn, .draw, .latched, .oxen, .cores]
  | .oxFence .. =>
    [.freeCtr, .regs, .mem, .syn, .latched, .oxen, .cores, .outbox, .history]
  | .fenceLift .. | .hcAdd .. =>
    [.regs, .outbox]
  | .drainEncode .. | .mergedRecordReread .. | .muleTileStart .. | .stationTileStart .. =>
    [.freeCtr, .regs, .mem, .syn, .latched, .lineErrs, .oxen, .cores, .ctxs, .hbm, .outbox, .cxls, .wagon, .deepNext,
     .trPend, .ports, .fab, .link]
  | .muleProgWrite .. | .cqRead .. | .cdone .. =>
    [.regs, .cores, .outbox]
  | .reduceTile .. | .collieHandoff .. =>
    [.freeCtr, .regs, .mem, .syn, .latched, .oxen, .cores, .ctxs, .hbm, .outbox, .cxls, .wagon, .deepNext, .trPend,
     .ports, .fab, .link]
  | .sramWindowAccess .. | .bankBind .. | .streamProgramEnd .. =>
    [.freeCtr, .regs, .mem, .syn, .latched, .cores, .hbm, .outbox, .cxls, .wagon, .deepNext, .trPend, .link]
  | .bankPowerRequest .. | .bankRetire .. =>
    [.regs, .mem, .syn, .latched, .oxen, .cores, .outbox, .history, .link]
  | .bankTransitionComplete .. =>
    [.regs, .mem, .syn, .draw, .latched, .oxen, .cores, .outbox, .link]
  | .streamProgramStart .. | .pageWalk .. =>
    [.freeCtr, .regs, .mem, .syn, .latched, .lineErrs, .cores, .hbm, .outbox, .cxls, .wagon, .deepNext, .trPend,
     .link]
  | .tileEventComplete .. =>
    [.freeCtr, .regs, .mem, .syn, .latched, .oxen, .cores, .hbm, .outbox, .cxls, .wagon, .deepNext, .trPend, .link]
  | .exchange .. | .sentinelPass .. =>
    [.regs, .cores]
  | .startCmd .. | .holdCmd .. | .save .. | .kill .. | .flushXlate .. =>
    [.freeCtr, .regs, .mem, .syn, .draw, .time, .latched, .due, .oxen, .cores, .ctxs, .hbm, .outbox, .cxls, .wagon,
     .deepNext, .trPend, .fab, .link]
  | .restore .. =>
    [.freeCtr, .regs, .mem, .syn, .draw, .time, .latched, .due, .lineErrs, .oxen, .cores, .ctxs, .hbm, .outbox, .cxls,
     .wagon, .deepNext, .trPend, .fab, .link]
  | .rosterCfgWrite .. | .keyErase .. =>
    [.regs, .ctxs]
  | .rosterPubSample .. =>
    [.freeCtr, .regs, .mem, .syn, .time, .latched, .lineErrs, .cores, .ctxs, .hbm, .outbox, .cxls, .wagon, .deepNext,
     .trPend, .link]
  | .entryFetch .. | .hbmRead .. =>
    [.freeCtr, .regs, .mem, .syn, .latched, .lineErrs, .cores, .ctxs, .hbm, .outbox, .cxls, .wagon, .deepNext,
     .trPend, .link]
  | .taskCompletion .. =>
    [.freeCtr, .regs, .mem, .syn, .time, .latched, .cores, .ctxs, .hbm, .outbox, .cxls, .wagon, .deepNext, .trPend,
     .link]
  | .coreStoppedForSave .. =>
    [.freeCtr, .regs, .mem, .syn, .latched, .cores, .ctxs, .hbm, .outbox, .cxls, .wagon, .deepNext, .trPend, .fab,
     .link]
  | .saveComplete .. | .restoreComplete .. | .killComplete .. =>
    [.freeCtr, .regs, .mem, .syn, .draw, .time, .latched, .oxen, .cores, .ctxs, .hbm, .outbox, .cxls, .wagon,
     .deepNext, .history, .trPend, .link]
  | .saveStopTimeout .. | .deepAccessFail .. | .hangDeclaration .. =>
    [.freeCtr, .regs, .mem, .syn, .draw, .time, .latched, .due, .oxen, .cores, .ctxs, .hbm, .outbox, .cxls, .wagon,
     .deepNext, .history, .trPend, .resets, .ports, .fab, .link]
  | .sentinelCompletion .. =>
    [.freeCtr, .regs, .mem, .syn, .time, .latched, .oxen, .cores, .hbm, .outbox, .cxls, .wagon, .deepNext, .history,
     .trPend, .link]
  | .fullLineWrite .. | .class0Window .. | .lateAnswerDiscard .. =>
    [.freeCtr, .regs, .mem, .syn, .latched, .hbm, .outbox, .cxls, .wagon, .deepNext, .trPend, .link]
  | .partialWrite .. | .deepAccess .. =>
    [.freeCtr, .regs, .mem, .syn, .latched, .lineErrs, .hbm, .outbox, .cxls, .wagon, .deepNext, .trPend, .link]
  | .wcbEntryComplete .. | .fence .. =>
    [.freeCtr, .regs, .mem, .syn, .lineErrs, .hbm]
  | .requestAged .. | .maintEnter .. | .maintExit .. | .retire .. =>
    [.regs, .hbm]
  | .hbmTraining .. =>
    [.regs, .mem, .cores, .hbm]
  | .mrRead .. | .mrWrite .. | .softPpr .. | .hardPpr .. | .softPprUndo .. | .mbist .. | .ieee1500 .. =>
    [.freeCtr, .regs, .hbm, .outbox, .history]
  | .cxlTraining .. =>
    [.regs, .mem, .cores]
  | .heatEpoch .. =>
    [.wagon]
  | .promote .. | .evict .. | .pin .. | .unpin .. | .wagonEnable .. =>
    [.regs, .wagon]
  | .moveComplete .. | .railFault .. =>
    [.latched]
  | .moveFail .. =>
    [.regs, .hbm, .wagon]
  | .wagonResumeComplete .. =>
    [.freeCtr, .regs, .mem, .syn, .lineErrs, .hbm, .outbox, .cxls, .wagon, .deepNext]
  | .deepAccessLate .. =>
    [.regs, .cxls]
  | .recompAck .. | .linkDown .. | .rsrcDone .. | .jobFaultRaise .. =>
    [.regs, .latched]
  | .recompExpiry .. =>
    [.regs, .time, .due, .cores, .ctxs]
  | .scrubGroup .. =>
    [.freeCtr, .regs, .mem, .syn, .lineErrs, .hbm, .outbox]
  | .retireComplete .. =>
    [.freeCtr, .regs, .mem, .syn, .lineErrs, .hbm, .history]
  | .portTraining .. =>
    [.regs, .mem, .cores, .outbox, .ports]
  | .wavelengthDegrade .. =>
    [.regs, .latched, .outbox, .ports]
  | .swapReq .. | .swapAck .. =>
    [.outbox, .ports]
  | .swapGo .. | .replayRequest .. | .linkAck .. =>
    [.regs, .outbox, .ports]
  | .switchMarker .. =>
    [.regs, .ports]
  | .dataPacket .. | .rts .. | .grant .. | .ack .. | .refuse .. | .xdata .. | .mgmt .. =>
    [.freeCtr, .regs, .mem, .syn, .latched, .lineErrs, .cores, .hbm, .outbox, .cxls, .wagon, .deepNext, .trPend,
     .ports, .fab, .link]
  | .e2eTimeout .. | .oxReset .. | .coreReset .. | .contextReset .. | .portReset .. | .iodReset .. | .stackReset ..
  | .dieReset .. | .resetEscalation .. | .refuseLimitExpiry .. =>
    [.freeCtr, .regs, .mem, .syn, .draw, .latched, .due, .oxen, .cores, .ctxs, .hbm, .outbox, .cxls, .wagon,
     .deepNext, .history, .trPend, .resets, .ports, .fab, .link]
  | .xferRingWrite .. =>
    [.regs, .fab]
  | .xferPubSample .. =>
    [.freeCtr, .regs, .mem, .syn, .lineErrs, .hbm, .outbox, .cxls, .wagon, .deepNext, .trPend, .ports, .fab, .link]
  | .keyInstall .. =>
    [.freeCtr, .regs, .mem, .syn, .lineErrs, .ctxs, .hbm, .outbox, .cxls, .wagon, .deepNext]
  | .verifyQueue .. =>
    [.regs, .sec]
  | .verifyComplete .. =>
    [.freeCtr, .regs, .mem, .syn, .latched, .lineErrs, .cores, .hbm, .outbox, .cxls, .wagon, .deepNext, .trPend, .sec,
     .link]
  | .verifyDoneRead .. =>
    [.outbox, .sec]
  | .rsrcReqRead .. =>
    [.outbox]
  | .rsrcExpiry .. =>
    [.freeCtr, .regs, .mem, .syn, .time, .due, .cores, .hbm, .outbox, .cxls, .wagon, .deepNext, .trPend, .link]
  | .attestRequest .. =>
    [.freeCtr, .outbox]
  | .token .. | .headDecision .. =>
    [.regs, .mem, .syn, .tick, .time, .cores, .outbox, .wagon, .history, .flash, .chain, .pwr, .link]
  | .tickCountLoad .. =>
    [.regs, .mem, .syn, .tick, .time, .cores, .wagon, .history, .flash, .chain, .pwr, .link]
  | .nodeAssign .. | .chainAck .. | .chainResend .. | .result .. | .delay .. | .chainMgmt .. | .chainLinkUp .. =>
    [.regs, .outbox, .chain]
  | .offer .. | .ethernetFrame .. =>
    [.freeCtr, .regs, .mem, .syn, .hbm, .outbox, .cxls, .wagon, .deepNext, .flash, .chain]
  | .chainData .. =>
    [.freeCtr, .regs, .mem, .syn, .lineErrs, .hbm, .outbox, .cxls, .wagon, .deepNext, .flash, .chain]
  | .stageTimeout .. =>
    [.chain]
  | .firmwareActivation .. =>
    [.regs, .time, .cores, .flash]
  | .coldStart .. =>
    [.regs, .time, .flash, .chain, .link]
  | .deviceReset .. | .resetN .. =>
    [.freeCtr, .regs, .mem, .syn, .draw, .time, .latched, .due, .oxen, .cores, .ctxs, .hbm, .outbox, .cxls, .wagon,
     .deepNext, .trPend, .resets, .ports, .fab, .sec, .flash, .chain, .pwr, .link]
  | .resetComplete .. =>
    [.freeCtr, .regs, .mem, .syn, .hbm, .outbox, .cxls, .wagon, .deepNext, .trPend, .resets, .link]
  | .requestRefused .. =>
    [.regs, .cores, .cxls]
  | .thermalTrip .. | .powerTrip .. =>
    [.freeCtr, .regs, .mem, .syn, .draw, .time, .latched, .due, .oxen, .cores, .ctxs, .hbm, .outbox, .cxls, .wagon,
     .deepNext, .history, .trPend, .resets, .ports, .fab, .flash, .pwr, .link]
  | .throttleWindow .. =>
    [.regs, .pwr]
  | .dieLinkRead .. | .dieLinkWrite .. =>
    [.freeCtr, .regs, .mem, .syn, .latched, .lineErrs, .oxen, .cores, .ctxs, .hbm, .outbox, .cxls, .wagon, .deepNext,
     .history, .trPend, .fab, .sec, .link]
  | .readReply .. | .writeAck .. =>
    [.outbox, .link]
  | .record .. =>
    [.trouble, .cond, .outbox, .flash, .link]
  | .ucieModuleDown .. =>
    [.link]
  | .flashWriteComplete .. =>
    [.regs, .time, .outbox, .flash, .chain, .link]
  | .powerLoss .. =>
    [.regs, .mem, .syn, .draw, .tick, .time, .latched, .oxen, .cores, .ctxs, .hbm, .trouble, .cond, .cxls, .wagon,
     .deepNext, .resets, .ports, .fab, .sec, .flash, .chain, .pwr, .link]

/-! ## What every step keeps -/

/-- What a state of the device looks like between commands: every sparse map is in its canonical form, no register holds a
bit that its address cannot hold (reserved-zero fields read 0), every trouble record taken has been written, and no line
errors are set. -/
def State.Inv (s : State) : Prop :=
  mwf (resetWord s.part) s.regs = true ∧ mwf (fun _ => (0 : Byte)) s.mem = true ∧ mwf (fun _ => (0 : BitVec 32)) s.syn = true
    ∧ mwf (fun _ => 0) s.draw = true ∧ mwf (fun _ => Ox.idle) s.oxen = true ∧ mwf (fun _ => CoreSt.idle) s.cores = true
    ∧ mwf (fun _ => CtxSt.empty) s.ctxs = true ∧ mwf (fun _ => StackSt.fresh) s.hbm = true
    ∧ mwf (fun _ => PortSt.start) s.ports = true ∧ mwf (fun _ => (⟨[]⟩ : CxlSt)) s.cxls = true
    ∧ (∀ e ∈ s.regs, regKeep e.1 e.2.toNat = e.2) ∧ s.trPend = [] ∧ s.lineErrs = []

end Sys2Proof.Machine
end

