-- ==== Sys2Proof/Certificates/Slice0/Obligations.lean ====
section
/-!
DEFINITION. Obligations.lean: what is claimed of the model. `Gives m s r u` reads: from `s` the sequence `m` gives
    `r` and
leaves `u`. `Ends o u` reads: the outcome `o` is `u` once the trouble records taken on the way are written. Where a
    command
carries the errors that the lines it reads meet,
    its sequence starts from `s.meeting errs` and they are gone at its end. The
premises `s.trPend = []` and `s.lineErrs = []` are part of the invariant that every step keeps.
-/

open Sys2Proof Sys2Proof.Machine Sys2Proof.Machine.PassField

/-- For every command c and state s whose queue is c followed by rest, a step of s is exec of c on s with the queue's
rest. The queue is the model's own (log 1). (00_scope.md) -/
def Obligations.StepRunsTheFrontCommand : Prop :=
  ∀ (c : Instr) (rest : List Instr) (s : State), s.pending = c :: rest →
    step s = exec c { s with pending := rest }

/-- A step of a state with an empty queue answers the same state. It is the model's own choice (log 1): the passing of a
tick is the command TICK_EDGE. (00_scope.md) -/
def Obligations.AnEmptyQueueIdles : Prop :=
  ∀ s : State, s.pending = [] → step s = .next s

/-- For every command and every state exec answers a next state; it keeps the queue and the part number,
    and every part of
the state that Safety.lean's list `touches` does not name for that command. The list is the model's own. (R8, R13,
R33, R34) -/
def Obligations.EveryCommandCompletesWithinItsParts : Prop :=
  ∀ (c : Instr) (s : State), ∃ t, exec c s = .next t ∧ t.pending = s.pending ∧ t.part = s.part
    ∧ ∀ f : Fd, f ∉ touches c → State.sameAt f s t

/-- From every state of the invariant, a step that answers a next state answers one of the invariant: every sparse map
(registers, memory, syndromes, draws, Oxen, cores, contexts, stacks, ports) is in its canonical form, no register
holds a bit that the fields at its address cannot hold (R8, R13), every trouble record taken has been written (R650),
and no line errors are set. The canonical form is the model's own. (R8, R13, R650) -/
def Obligations.EveryStepKeepsTheInvariant : Prop :=
  ∀ s t : State, s.Inv → step s = .next t → t.Inv

/-- State.reset meets the invariant that EveryStepKeepsTheInvariant is about. (R8, R13) -/
def Obligations.ResetHoldsTheInvariant : Prop :=
  State.reset.Inv

/-- After reset the count is 0, every register reads the reset value of its table's row (0 where the row gives none, log
3), every byte of memory reads 0 (log 4), every Ox's queue is empty, no core has a task, every context is EMPTY, and
no command, event, reset, hint, move or deep access waits. Values the spec does not give are the model's choices (logs
2 to 5). (R8, R28) -/
def Obligations.ResetLeavesTheResetValues : Prop :=
  State.reset.tick = 0 ∧ State.reset.pending = [] ∧ State.reset.latched = [] ∧ State.reset.resets = []
    ∧ State.reset.wagon.hints = [] ∧ State.reset.wagon.moves = []
    ∧ (∀ (a : Nat) (d : RegDef), regAt State.reset.part a = some d → rg State.reset a = resetWord State.reset.part a)
    ∧ (∀ a, mget (fun _ => (0 : Byte)) State.reset.mem a = 0)
    ∧ (∀ o, (theOx State.reset o).queue = [] ∧ (theOx State.reset o).run = none)
    ∧ (∀ n, (theCore State.reset n).task = none) ∧ (∀ c < 16, ctxState State.reset c = 0)
    ∧ ∀ x, (theCxl State.reset x).out = []

/-- When a finite term is added to a column register, the new unit is u = L - 27 with L the largest lead among the
register's finite part and the term, omitting whichever is zero, and the new finite part is floor(X / 2^u) x 2^u with
X the exact sum, for every register of at most 29 bits (which the rule then keeps) and every product of two 11-bit
significands; the special flags are as before. (R110) -/
def Obligations.ColumnAdderFloorsTheExactSum : Prop :=
  ∀ (c : Col) (t : Term), t.cls = .fin → c.a.natAbs < 2 ^ 29 → t.q.natAbs < 2 ^ 22 → (t.q ≠ 0 ∨ c.a ≠ 0) →
    let l := if c.a = 0 then leadI t.q + t.e else if t.q = 0 then leadI c.a + c.u
        else max (leadI t.q + t.e) (leadI c.a + c.u)
    let d := addTerm c t
    d.u = l - 27 ∧ d.a.natAbs < 2 ^ 29 ∧ d.nan = c.nan ∧ d.pinf = c.pinf ∧ d.ninf = c.ninf
    ∧ (d.a : ℤ) = ⌊((c.a : ℚ) * 2 ^ c.u + t.q * 2 ^ t.e) / 2 ^ (l - 27)⌋

/-- For a finite nonzero value mag x 2^k of either sign, let 2^q be FP32's grid at that magnitude,
    I and phi the whole and
the fractional part of the magnitude over 2^q, and I' as Table 3.7 gives it for RNE, TRN and SR with a 16-bit random
value. The FP32 code is the zero of the sign when I' is 0; when I' x 2^q exceeds the largest finite FP32 value it is
the infinity of the sign (under TRN the largest finite value); else the code, read back, is the sign's I' x 2^q
exactly. (R117, R119, R120, R123) -/
def Obligations.Fp32ResultsAreTheRoundedMagnitude : Prop :=
  ∀ (s : Bool) (mag : Nat) (k : ℤ) (m : Round), mag ≠ 0 → (∀ r, m = .sr r → r < 2 ^ 16) →
    let q : ℤ := max ((Nat.log2 mag : ℤ) + k) (-126) - 23
    let x : ℚ := (mag : ℚ) * 2 ^ (k - q)
    let i : ℤ := ⌊x⌋
    let φ : ℚ := x - i
    let i' : ℤ := match m with
      | .rne => if 1 / 2 < φ ∨ (φ = 1 / 2 ∧ i % 2 = 1) then i + 1 else i
      | .trn => i
      | .sr r => i + ⌊((⌊φ * 2 ^ 16⌋ : ℚ) + r) / 2 ^ 16⌋
    let top : ℚ := (2 ^ 24 - 1) * 2 ^ (104 : ℤ)
    let z := toFp32 (.fin s mag k) m
    (i' = 0 → z = b2n s * 2 ^ 31)
    ∧ (top < (i' : ℚ) * 2 ^ q → z = b2n s * 2 ^ 31 + (if m = .trn then 0x7F7FFFFF else 0x7F800000))
    ∧ (0 < i' → (i' : ℚ) * 2 ^ q ≤ top → ∃ (n : Nat) (l : ℤ), ofFp32 z = .fin s n l ∧ (n : ℚ) * 2 ^ l = i' * 2 ^ q)

/-- A TICK_EDGE answers a next state in which the count is one more where the device has a running tick; without one the
whole state is unchanged. The queue and the part are as before. (R21, R22, R29) -/
def Obligations.TickEdgeAdvancesTheCountByOne : Prop :=
  ∀ (i : TickInput) (s : State), s.trPend = [] →
    ∃ t, exec (.tickEdge i) s = .next t ∧ t.pending = s.pending ∧ t.part = s.part
      ∧ t.tick = (if tickRuns s = true then s.tick + 1 else s.tick) ∧ (tickRuns s = false → t = s)

/-- HOLDOVER_ENTRY of a device that follows an upstream tick clears LOCKED and sets HOLDOVER. An upstream tick that
returns with the same count shows its offset; within 50 ns it sets LOCKED and clears HOLDOVER, and beyond it the
device begins to slew; with another count a TICK record of code 2 goes to the control die and the count stays.
HOLDOVER_LIMIT_EXCEEDED records code 1 once it is due and does nothing before. PTP_LOCK follows the servo's events. A
tick of the slew moves the offset by at most 1 ns, and locks within 50 ns; a slew whose upstream tick is gone ends.
Each leaves the rest as the equations say. (R23, R24, R25, R26, R27, R690) -/
def Obligations.HoldoverBeginsEndsAndIsRecorded : Prop :=
  (∀ s : State, exec .holdoverEntry s = .next (if follows s = true
      then (((s.put TIME_STATUS_LOCKED 0).put TIME_STATUS_HOLDOVER 1).putReg TIME_HOLDOVER_TICKS 0).putTime
        (fun t => { t with missing := 0, holdLen := 0, unaligned := false, slew := false })
      else s))
    ∧ (∀ (b : TickBack) (s : State), s.trPend = [] →
    (fb s TIME_STATUS_HOLDOVER = false → exec (.upstreamTickReturn b) s = .next s)
    ∧ (fb s TIME_STATUS_HOLDOVER = true → b.count = s.tick → exec (.upstreamTickReturn b) s
        = .next (let t := s.putReg TIME_OFFSET b.offset
          if -50000 ≤ signed b.offset 32 ∧ signed b.offset 32 ≤ 50000
          then ((t.put TIME_STATUS_LOCKED 1).put TIME_STATUS_HOLDOVER 0).putTime (fun t =>
              { t with missing := 0, slew := false })
          else t.putTime (fun t => { t with slew := true })))
    ∧ (fb s TIME_STATUS_HOLDOVER = true → b.count ≠ s.tick → ∃ t, exec (.upstreamTickReturn b) s = .next t
        ∧ t.tick = s.tick ∧ t.time = { s.time with slew := false }
        ∧ t.link.mirror = s.link.mirror ++ [(false,
            recBytes ⟨⟨17, 2, 0xFF, 0xFF, 0xFFFF, none, 0, 0, 0⟩, s.tick,
            rg (s.put TIME_STATUS_COUNT_MISMATCH 1) RESET_TR_WR, 0, 0, false⟩)]))
    ∧ (∀ s : State, s.trPend = [] →
    (holdLate s = false → exec .holdoverLimitExceeded s = .next s)
    ∧ (holdLate s = true → ∃ t, exec .holdoverLimitExceeded s = .next t ∧ t.tick = s.tick
        ∧ t.time = { s.time with unaligned := true }
        ∧ t.link.mirror = s.link.mirror ++ [(false, recBytes ⟨⟨17, 1, 0xFF, 0xFF, 0xFFFF, none, 0, 0, 0⟩, s.tick,
            rg (s.put TIME_STATUS_UNALIGNED 1) RESET_TR_WR, 0, 0, false⟩)])
    ∧ exec .ptpLockGained s = .next (s.put TIME_STATUS_PTP_LOCK 1)
    ∧ exec .ptpLockLost s = .next (s.put TIME_STATUS_PTP_LOCK 0))
    ∧ (∀ (i : TickInput) (s : State),
    (s.time.slew = true → i.upstream = true → ∃ off, Gives (slewTick i) s ()
        (if -50000 ≤ signed off 32 ∧ signed off 32 ≤ 50000
         then (((s.putReg TIME_OFFSET off).put TIME_STATUS_LOCKED 1).put TIME_STATUS_HOLDOVER 0).putTime
             (fun t => { t with missing := 0, slew := false })
         else s.putReg TIME_OFFSET off)
        ∧ signed off 32 - signed (fv s TIME_OFFSET_OFFSET_PS) 32 ≤ 1000
            ∧ signed (fv s TIME_OFFSET_OFFSET_PS) 32 - signed off 32 ≤ 1000)
    ∧ (s.time.slew = true → i.upstream = false →
        Gives (slewTick i) s () (s.putTime (fun t => { t with slew := false })))
    ∧ (s.time.slew = false → Gives (slewTick i) s () s))

/-- A write or a read of a register block that is neither 4 nor 8 bytes wide, or not aligned to its own width,
    changes no
register: the control die gets an error status, and a Collie's context faults with kind ACCESS, code 6. (R695) -/
def Obligations.AccessOfBadWidthIsNotPerformed : Prop :=
  ∀ (who : Who) (addr size data : Nat) (s : State),
    s.trPend = [] → isReg addr = true → widthOk addr size = false →
    exec (.registerWrite who addr size data) s = .next (s.turnedAway who addr 1 6 0xFFFF)
    ∧ exec (.readClearField who addr size) s = .next (s.turnedAway who addr 1 6 0xFFFF)

/-- A write to an address of a register block at which no register is defined changes nothing, and a read answers 0, for
whoever asks, in both widths. (R12) -/
def Obligations.GapsReadZeroAndDropWrites : Prop :=
  ∀ (who : Who) (addr size data : Nat) (s : State),
    s.trPend = [] → isReg addr = true → widthOk addr size = true → regRefuses s addr = none →
    regAt s.part addr = none → (size = 8 → regAt s.part (addr + 4) = none) →
    exec (.registerWrite who addr size data) s = .next s
    ∧ exec (.readClearField who addr size) s = .next (s.says (.regValue addr 0))

/-- A 4-byte write to a 64-bit register changes nothing and a 4-byte read of it answers 0. (R11) -/
def Obligations.NarrowAccessToAWideRegister : Prop :=
  ∀ (who : Who) (addr data : Nat) (d : RegDef) (s : State),
    s.trPend = [] → isReg addr = true → addr % 4 = 0 → regRefuses s addr = none → regAt s.part addr = some d →
        d.width = 64 →
    exec (.registerWrite who addr 4 data) s = .next s
    ∧ exec (.readClearField who addr 4) s = .next (s.says (.regValue addr 0))

/-- A write of a register's own width to a block whose registers have no effect beyond their fields stores, field by
field, what each field's access code makes of the data. A Collie's write to the reset, power, chain and security
blocks changes nothing. An access to a reserved address is turned away with ACCESS, code 0, and one to an address that
is no register's reaches nothing. (R7, R8, R13, R551, R598) -/
def Obligations.WritesActFieldByField : Prop :=
  (∀ (who : Who) (addr data : Nat) (d : RegDef) (s : State),
    s.trPend = [] → isReg addr = true → widthOk addr (d.width / 8) = true → (d.width = 32 ∨ d.width = 64) →
    regRefuses s addr = none → regAt s.part addr = some d →
    (plainBlock who addr = true → exec (.registerWrite who addr (d.width / 8) data) s
       = .next (s.putReg addr (d.written (startOver s) (rg s addr) (data % 2 ^ d.width))))
    ∧ (blkOf addr = .reset ∨ blkOf addr = .pwr ∨ blkOf addr = .chain ∨ blkOf addr = .sec → who ≠ .controlDie →
        exec (.registerWrite who addr (d.width / 8) data) s = .next s))
    ∧ (∀ (who : Who) (addr size data : Nat) (s : State), s.trPend = [] → isReg addr = false →
    let t := if regionOf s.part addr = .reserved then s.turnedAway who addr 1 0 0xFFFF else s
    exec (.registerWrite who addr size data) s = .next t ∧ exec (.readClearField who addr size) s = .next t)

/-- A read of a register's own width answers its value and clears exactly its RC fields (the hand-off queues, the
maintenance data and VERIFY_DONE, whose reads take an entry, are stated elsewhere). Any access to a unit that a reset
covers changes nothing but the refusal count and answers a refusal with the generation the unit will have. (R7, R13,
R660) -/
def Obligations.ReadsAnswerTheRegisterAndResetsRefuse : Prop :=
  (∀ (who : Who) (addr : Nat) (d : RegDef) (s : State),
    s.trPend = [] → isReg addr = true → widthOk addr (d.width / 8) = true → (d.width = 32 ∨ d.width = 64) →
    regRefuses s addr = none → regAt s.part addr = some d →
    (∀ n, addr ≠ CORE_CQ0 n ∧ addr ≠ CORE_CQ1 n) → (∀ i, addr ≠ HBM_MAINT_DATA i) → addr ≠ SEC_VERIFY_DONE →
    exec (.readClearField who addr (d.width / 8)) s
      = .next ((if d.hasRc = true then s.putReg addr (d.cleared (rg s addr)) else s).says
          (.regValue addr (regShown s addr))))
    ∧ (∀ (who : Who) (addr size data g : Nat) (s : State),
    s.trPend = [] → isReg addr = true → widthOk addr size = true → regRefuses s addr = some g →
    exec (.registerWrite who addr size data) s = .next (s.refused addr g)
    ∧ exec (.readClearField who addr size) s = .next (s.refused addr g))

/-- A write to PASS_W3 pushes the four words as one pass at the tail of the Ox's queue of 4; to a full queue the push is
dropped and STATUS.PUSH_OVF set. While the Ox is in a reset the write is refused instead. (R62, R63) -/
def Obligations.PassPushQueuesThePass : Prop :=
  ∀ (ox : Fin 256) (w3 : Nat) (s : State),
    (oxResetting s ox = true → exec (.passPush ox w3) s
      = .next (s.refused (OX_PASS_W3 ox) ((fv s (RESET_GEN_OX_GEN ox) + 1) % 65536)))
    ∧ (oxResetting s ox = false →
        let t := s.putReg (OX_PASS_W3 ox) w3
        let d : PassD := ⟨rg t (OX_PASS_W0 ox), rg t (OX_PASS_W1 ox), rg t (OX_PASS_W2 ox), rg t (OX_PASS_W3 ox)⟩
        exec (.passPush ox w3) s = .next (if (theOx t ox).queue.length < 4
          then t.putOx ox (fun x => { x with queue := x.queue ++ [⟨d, false, false⟩] })
          else t.put (OX_STATUS_PUSH_OVF ox) 1))

/-- A head that has been checked, or an empty queue, is left; an unchecked head that meets no condition of Table 2.3 is
marked checked; one that meets a condition discards the queue, records the code and the PASS_ID, sets PASS_FAULT and
faults the core's context. (R58, R59, R60) -/
def Obligations.HeadCheckPassesOrFaults : Prop :=
  ∀ (ox : Fin 256) (s : State),
    ((theOx s ox).queue = [] → exec (.passHeadCheck ox) s = .next s)
    ∧ ∀ q rest, (theOx s ox).queue = q :: rest →
      (q.checked = true → exec (.passHeadCheck ox) s = .next s)
      ∧ (q.checked = false → passCheck s ox q.d = none → exec (.passHeadCheck ox) s
          = .next (s.putOx ox (fun x => { x with queue := { q with checked := true } :: rest })))
      ∧ (∀ code, q.checked = false → passCheck s ox q.d = some code → code ≠ 7 → exec (.passHeadCheck ox) s
          = .next (s.passFaulting ox code q.d))

/-- A detached Ox with a lag of 32 rows or fewer attaches; any other is left. Writing 0 to CTRL.FENCE clears it. A fence
empties the Ox's queue, its running passes and the rows it lags by, leaves every other Ox alone, marks the core's
fence (from which the mode of the core follows), adds a live history entry of kind 3, and faults with code 9 each pass
that the Ox held, oldest first. While the Ox is in a reset both writes are refused. (R85, R89, R90, R91, R92, R96,
R614, R660) -/
def Obligations.OxenAttachAndFence : Prop :=
  (∀ (ox : Fin 256) (s : State),
    exec (.oxAttach ox) s = .next (if (theOx s ox).detached = true ∧ lagOf (theOx s ox) ≤ 32
      then s.putOx ox (fun x => { x with detached := false }) else s))
    ∧ (∀ (ox : Fin 256) (s : State),
    exec (.fenceLift ox) s = .next (if oxResetting s ox = true
      then s.refused (OX_CTRL ox) ((fv s (RESET_GEN_OX_GEN ox) + 1) % 65536)
      else s.put (OX_CTRL_FENCE ox) 0))
    ∧ (∀ (ox : Fin 256) (s : State),
    (oxResetting s ox = true → exec (.oxFence ox) s
      = .next (s.refused (OX_CTRL ox) ((fv s (RESET_GEN_OX_GEN ox) + 1) % 65536)))
    ∧ (oxResetting s ox = false → fb s (OX_CTRL_FENCE ox) = true → bit (theCore s (oxCore ox)).fence (oxIdx ox) = true →
        exec (.oxFence ox) s = .next s)
    ∧ (oxResetting s ox = false → fb s (OX_CTRL_FENCE ox) = false →
        ∃ t, exec (.oxFence ox) s = .next t
          ∧ theOx t ox = { theOx s ox with
              queue := [], run := none, drain := [], lag := [], detached := false }
          ∧ (∀ o : Nat, o ≠ ox → theOx t o = theOx s o)
          ∧ bit (theCore t (oxCore ox)).fence (oxIdx ox) = true
          ∧ (∃ e, t.history.getLast? = some e ∧ e.kind = 3 ∧ e.unit = ox.val ∧ e.live = true)
          ∧ ∃ es, t.latched = s.latched ++ es
            ∧ es.map (fun e => match e.kind with | .fault x => some (e.rank, x.kind, x.code, x.unit, x.d32) | _ => none)
              = (((theOx s ox).drain ++ (theOx s ox).run.toList).map RunPass.d ++ (theOx s ox).queue.map QPass.d).map
                (fun d => some (3, 3, 9, ox.val, passId d))))

/-- A segment begins only while none issues and the core lets it, when every participant's checked head is of it; else a
start-wait cycle is counted. A pass at the head starts when the Ox is free and its banks are ready: it leaves the
queue and becomes the running pass, with the stationary tile taken from the shadow half when it names a new one, and
the bubble it waited, as far as R69 gives it, is counted. A complete pass hands its rows to the Mule as FP32 as far as
the Mule accepts them, or goes to its accumulator bank; it is counted in PASSES, and waits for a waking bank. (R61,
R66, R67, R69, R70, R71, R75, R76, R78, R183, R235, R236) -/
def Obligations.SegmentsAndPassesBeginAndComplete : Prop :=
  (∀ (core : Fin 64) (ready : Bool) (s : State),
    ((theCore s core).issue ≠ none ∨ segGoes s core = false ∨ (theCore s core).segs = [] →
        exec (.segmentBegin core ready) s = .next s)
    ∧ ∀ g rest, (theCore s core).issue = none → segGoes s core = true → (theCore s core).segs = g :: rest →
      let ks := oxenOfMask s core g.mask
      ((∀ k ∈ ks, canBegin s (4 * core + k) g.num ready = true
          ∧ ∃ q l, (theOx s (4 * core + k)).queue = q :: l ∧ q.checked = true ∧ passCheck s (4 * core + k) q.d = none) →
        ∃ t, exec (.segmentBegin core ready) s = .next t
          ∧ t.cores = (s.putCore core (fun c => { c with segs := rest, issue := some g })).cores
          ∧ t.regs = (s.put (CORE_YOKE_SEG_ACTIVE core) 1).regs ∧ ∀ o, theOx t o = theOx s o)
      ∧ ((∀ k ∈ ks, ∀ q l, (theOx s (4 * core + k)).queue = q :: l → seg q.d ≠ g.num) →
          (∃ k ∈ ks, canBegin s (4 * core + k) g.num ready = false) →
        exec (.segmentBegin core ready) s = .next (s.count (CORE_YOKE_START_WAIT_COUNT core) 1)))
    ∧ (∀ (ox : Fin 256) (bubble : Nat) (s : State) (q : QPass) (rest : List QPass),
    (theOx s ox).queue = q :: rest →
    (runDone (theOx s ox) && oxAvail s (oxCore ox) (oxIdx ox) && rowComes s ox (seg q.d) && decide
        ((theCore s (oxCore ox)).stopped < 2)) = true →
    q.checked = true →
    let n := oxCore ox
    let gate := if q.loaded = true then .on else banksGate s n ((startBanks q.d).map Prod.fst)
    let cycles := min bubble (bubbleOf s ox q.d)
    let t := s.bankFreed n (16 + oxIdx ox)
    (gate = .waits → exec (.passStart ox bubble) s = .next (s.bankHeld n (16 + oxIdx ox) (startBanks q.d)))
    ∧ (gate = .on → (toMule q.d = true ∨ aBank q.d ≠ 7 ∨ drainAt s n q.d ≠ none) →
      exec (.passStart ox bubble) s = .next ((if cycles = 0 then t
          else t.count (OX_BUBBLE_CYCLES_COUNT ox) cycles).putOx ox (fun x => { x with
        queue := rest
        drain := match x.run with | some p => x.drain ++ [p] | none => x.drain
        run := some ⟨q.d, 0, 0, [], [], slotOf s n (oxIdx ox), drainAt s n q.d⟩
        live := if newStat q.d = true ∧ mode q.d ≠ 1
          then (if q.loaded = true then (theOx s ox).shadow else fillHalf (theOx s ox).shadow (loadTile s n q.d))
              else x.live
        shadow := if newStat q.d = true ∧ mode q.d ≠ 1 then x.live else x.shadow
        liveRec := if newStat q.d = true ∧ mode q.d ≠ 1 then q.d else x.liveRec }))))
    ∧ (∀ (ox : Fin 256) (s : State),
    (nextOut (theOx s ox) = none → exec (.passComplete ox) s = .next s)
    ∧ ∀ p, nextOut (theOx s ox) = some p →
      let left := (outRows p).drop p.given
      let room := 32 + (theCore s (oxCore ox)).mule.takes - ((theCore s (oxCore ox)).toMule.getD p.slot []).length
      (toMule p.d = true → left.length ≤ room → ∃ t, exec (.passComplete ox) s = .next t
        ∧ t.regs = (s.count (OX_PASSES_COUNT ox) 1).regs ∧ theOx t ox = dropOut (theOx s ox)
            ∧ (∀ o : Nat, o ≠ ox → theOx t o = theOx s o)
        ∧ theCore t (oxCore ox) = { theCore s (oxCore ox) with
            toMule := modNth (theCore s (oxCore ox)).toMule p.slot (· ++ left.map muleRow) }
        ∧ ∀ m, m ≠ oxCore ox → theCore t m = theCore s m)
      ∧ (toMule p.d = true → left ≠ [] → room = 0 → exec (.passComplete ox) s = .next s)
      ∧ (toMule p.d = false → bankGate s (oxCore ox) (4 + aBank p.d) = .refused → exec (.passComplete ox) s
        = .next (((s.bankFaulting (oxCore ox) (4 + aBank p.d) (aRow p.d * 512)).putOx ox dropOut).count
            (OX_PASSES_COUNT ox) 1))
      ∧ (toMule p.d = false → bankGate s (oxCore ox) (4 + aBank p.d) = .waits → exec (.passComplete ox) s
        = .next (s.bankHeld (oxCore ox) (20 + oxIdx ox) [(4 + aBank p.d, aRow p.d * 512)]))
      ∧ (toMule p.d = false → bankGate s (oxCore ox) (4 + aBank p.d) = .on → ∃ t, exec (.passComplete ox) s = .next t
        ∧ t.oxen = (s.putOx ox dropOut).oxen ∧ t.regs = (s.count (OX_PASSES_COUNT ox) 1).regs
        ∧ t.cores = (s.bankFreed (oxCore ox) (20 + oxIdx ox)).cores ∧ t.latched = s.latched))

/-- A row issue takes the segment's first row from the Yoke (the last ends the issue); with no Ox lagging or held, no
column link full and the top operands' banks on, each participant takes the row at once or holds it alone in its side
buffer. A cycle without an issue, or with no segment, issues nothing. No other core is changed. (R77, R81, R82, R83) -/
def Obligations.YokeRowsReachEveryParticipant : Prop :=
  (∀ (core : Fin 64) (hold : Nat) (s : State) (g : Seg) (r : YRow) (rest : List YRow),
    (theCore s core).issue = some g → g.rows = r :: rest →
    ∃ t, exec (.yokeRowIssue core true hold) s = .next t
      ∧ (theCore t core).issue = (if rest = [] then none else some { g with rows := rest })
      ∧ (theCore t core).segs = (theCore s core).segs ∧ (∀ m, m ≠ core.val → theCore t m = theCore s m)
      ∧ ((∀ k < 4, (theOx s (4 * core + k)).lag = [] ∧ (theOx s (4 * core + k)).detached = false ∧ bit hold k = false
            ∧ behind (theOx s (4 * core + k)) ≤ 128
            ∧ ∀ p, (theOx s (4 * core + k)).run = some p → mode p.d = 1 →
                banksGate s core ((topBanks p).map Prod.fst) = .on) →
        ∀ k < 4,
          let x := theOx s (4 * core + k)
          let y := theOx t (4 * core + k)
          (oxenOfMask s core g.mask).contains k = true →
            (takes s (4 * core + k) r = true → y.lag = [] ∧ y.run.map RunPass.taken = x.run.map (fun p => p.taken + 1))
            ∧ (takes s (4 * core + k) r = false → y.lag = [⟨r, true⟩] ∧ y.run = x.run)))
    ∧ (∀ (core : Fin 64) (issue : Bool) (hold : Nat) (s : State),
    (issue = false ∨ (theCore s core).issue = none) →
    ∃ t, exec (.yokeRowIssue core issue hold) s = .next t ∧ (theCore t core).issue = (theCore s core).issue
      ∧ (theCore t core).segs = (theCore s core).segs ∧ ∀ m, m ≠ core.val → theCore t m = theCore s m)

/-- CTX_CORES, PT_BASE and SAVE_BASE are written only in EMPTY or SAVED, and CTX_CORES only with cores no other context
has; a pen only with cores of no other pen; otherwise the write is dropped and CFG_REJECT set. A STEP geometry outside
8 to 16 is stored and sets CFG_ERR. A roster's BASE and LOG2_SIZE change only while EN reads 0 and no entry is placed.
(R145, R312, R313, R315, R327) -/
def Obligations.ContextRegisterWritesAreChecked : Prop :=
  (∀ (ctx : Fin 16) (data : Nat) (s : State),
    (∀ which : Fin 3,
      let bad := (ctxState s ctx ≠ 0 ∧ ctxState s ctx ≠ 4)
          ∨ (which = 0 ∧ ∃ k < 16, k ≠ ctx.val ∧ Nat.land (rg s (CTX_CORES k)) (data % 2 ^ 64) ≠ 0)
      (bad → exec (.coresWrite ctx which data) s = .next (s.put (CTX_STATE_CFG_REJECT ctx) 1))
      ∧ (¬ bad → exec (.coresWrite ctx which data) s = .next
          (s.putReg (if which = 0 then CTX_CORES ctx else if which = 1 then CTX_PT_BASE ctx else CTX_SAVE_BASE ctx)
              data)))
    ∧ (∀ pen : Fin 3,
      let bad := ∃ j < 3, j ≠ pen.val
          ∧ Nat.land (Nat.land (rg s (CTX_PEN ctx j)) (rg s (CTX_CORES ctx))) (data % 2 ^ 64) ≠ 0
      (bad → exec (.penWrite ctx pen data) s = .next (s.put (CTX_STATE_CFG_REJECT ctx) 1))
      ∧ (¬ bad → exec (.penWrite ctx pen data) s = .next (s.putReg (CTX_PEN ctx pen) data)))
    ∧ (∀ which : Fin 4, exec (.ctxStepParamsWrite ctx which data) s = .next (
      if which = 3 ∧ (bits data 4 5 < 8 ∨ 16 < bits data 4 5)
      then (s.putReg (stepReg ctx which) data).put (CTX_STAT_STATUS_CFG_ERR ctx) 1
      else s.putReg (stepReg ctx which) data)))
    ∧ (∀ (ctx : Fin 16) (roster : Fin 8) (data : Nat) (s : State),
    let v := data % 2 ^ 64
    let moves := bits v 10 42 ≠ fv s (CTX_ROSTER_BASE ctx roster) ∨ bits v 1 5 ≠ fv s (CTX_ROSTER_LOG2_SIZE ctx roster)
    let busy := fb s (CTX_ROSTER_EN ctx roster) = true ∨ (theRoster s ctx roster).placed ≠ []
    (moves ∧ busy → exec (.rosterCfgWrite ctx roster data) s = .next (s.put (CTX_STATE_CFG_REJECT ctx) 1))
    ∧ (¬ (moves ∧ busy) → ∃ t, exec (.rosterCfgWrite ctx roster data) s = .next t
        ∧ t.regs = (if bits v 1 5 < 4 ∨ 16 < bits v 1 5 then (s.putReg (CTX_ROSTER ctx roster) v).put
            (CTX_STATE_CFG_REJECT ctx) 1
            else s.putReg (CTX_ROSTER ctx roster) v).regs
        ∧ (¬ moves → t.ctxs = s.ctxs)))

/-- START, HOLD, SAVE, RESTORE, KILL and FLUSH_XLATE are discarded with CMD_REJECT in a state that does not allow them,
and in SAFE; else START and HOLD move the context to RUNNING (from where its heads are ready anew) and HELD and
FLUSH_XLATE drops the context's cached translations. (R309, R310, R311, R320, R623) -/
def Obligations.ContextCommandsActOrAreRejected : Prop :=
  ∀ (ctx : Fin 16) (wipe : Bool) (errs : List LineErr) (s : State),
    s.trPend = [] → s.lineErrs = [] → tripped s = false →
    let no (code : Nat) : Prop := cmdAllowed code (ctxState s ctx) = false ∨ fv s CHAIN_START_MODE = 1
    (no 1 → exec (.startCmd ctx) s = .next ((s.reached ctx 1).put (CTX_STATE_CMD_REJECT ctx) 1))
    ∧ (no 2 → exec (.holdCmd ctx) s = .next ((s.reached ctx 2).put (CTX_STATE_CMD_REJECT ctx) 1))
    ∧ (no 3 → exec (.save ctx) s = .next ((s.reached ctx 3).put (CTX_STATE_CMD_REJECT ctx) 1))
    ∧ (no 4 → exec (.restore ctx errs) s = .next ((s.reached ctx 4).put (CTX_STATE_CMD_REJECT ctx) 1))
    ∧ (no 5 → exec (.kill ctx wipe) s = .next ((s.reached ctx 5).put (CTX_STATE_CMD_REJECT ctx) 1))
    ∧ (no 6 → exec (.flushXlate ctx) s = .next ((s.reached ctx 6).put (CTX_STATE_CMD_REJECT ctx) 1))
    ∧ (¬ no 1 → exec (.startCmd ctx) s = .next (((s.reached ctx 1).unreadied ctx).put (CTX_STATE_STATE ctx) 1))
    ∧ (¬ no 2 → exec (.holdCmd ctx) s = .next ((s.reached ctx 2).put (CTX_STATE_STATE ctx) 2))
    ∧ (¬ no 6 → exec (.flushXlate ctx) s = .next ((s.reached ctx 6).forgetting (fun x => x.ctx = ctx.val)))

/-- A SAVE that is allowed puts the context in SAVING with its cores stopping, its tick not counted in their run ticks,
and first writes the header's VALID as 0; a KILL that is allowed puts it in KILLING with no save or restore left. When
every core's image is written, the header's body with its CRC and then VALID = 1 are written, each fenced; the context
is then SAVED with status 1 and its cores are cleared. A write that fails faults the context instead. (R343, R344,
R347, R348, R353) -/
def Obligations.SavesBeginAndCompleteWithTheHeaderLast : Prop :=
  (∀ (ctx : Fin 16) (wipe : Bool) (s : State),
    s.trPend = [] → tripped s = false → fv s CHAIN_START_MODE ≠ 1 →
    (cmdAllowed 3 (ctxState s ctx) = true → ∃ t, exec (.save ctx) s = .next t
      ∧ Gives (saveBegins ctx) ((coresOf (s.reached ctx 3) ctx).foldl (fun u n =>
          (u.putCore n (fun k => { k with stopped := 1 })).uncounted n)
          (((s.reached ctx 3).put (CTX_STATE_STATE ctx) 3).putCtx ctx (fun x => { x with
            save := some ⟨s.tick, coresOf (s.reached ctx 3) ctx, [], false, saveVals (s.reached ctx 3) ctx,
                penSlots (s.reached ctx 3) ctx⟩ }))) () t)
    ∧ (cmdAllowed 5 (ctxState s ctx) = true → ∃ t, exec (.kill ctx wipe) s = .next t ∧ ctxState t ctx = 7
      ∧ (theCtx t ctx).save = none ∧ (theCtx t ctx).restore = none ∧ ∃ w, (theCtx t ctx).kill = some w
          ∧ (wipe = true → w = true)))
    ∧ (∀ (ctx : Fin 16) (op : SaveOp) (s : State), s.trPend = [] →
    (theCtx s ctx).save = some op → ctxState s ctx = 3 → op.begun = true → op.cores.all op.copied.contains = true →
    let base := saveBase s ctx
    let body := headerBody s op
    ∃ r u, Gives (putAll (dispAcc ctx) [(base, body.take 4), (base + 8, body.drop 8 ++ natLe 4 (crc32c body))]) s r u ∧
      ((∀ w, r = some w → ∃ t, Gives (faultFor (dispAcc ctx) w) u () t ∧ Ends (exec (.saveComplete ctx) s) t)
      ∧ (r = none → ∃ v q w, Gives (fenceOf reqDisp) u () v
          ∧ Gives (ctxWrite (dispAcc ctx) (base + 4) (clean (natLe 4 1))) v q w ∧
          ((∀ x, q = some x → ∃ t, Gives (faultFor (dispAcc ctx) x) w () t ∧ Ends (exec (.saveComplete ctx) s) t)
          ∧ (q = none → ∃ x y, Gives (fenceOf reqDisp) w () x ∧ Gives (clearCores ctx) x () y ∧
            Ends (exec (.saveComplete ctx) s) ((((y.put (CTX_STATE_STATE ctx) 4).putReg (CTX_SAVE_STATUS ctx)
                1).putCtx ctx
              (fun k => { k with save := none, kept := keptTasks x op })).ranked 6))))))

/-- A core of no saving context is left, and so is one whose units still work. A core that is ready stands (its state is
kept) and its image is written to its slot of the save area. A save whose cores have not all stopped within STOP_LIMIT
faults the context with kind 14, code 3, naming the core; before that SAVE_STOP_TIMEOUT does nothing. (R304, R343,
R345) -/
def Obligations.CoresStopForASaveInTime : Prop :=
  (∀ (core : Fin 64) (s : State), s.trPend = [] →
    (holderOf s core = none → exec (.coreStoppedForSave core) s = .next s)
    ∧ ∀ c op, holderOf s core = some c → (theCtx s c).save = some op → op.begun = true →
      ((theCore s core).stopped = 1 → stopReady s core = false → exec (.coreStoppedForSave core) s = .next s)
      ∧ ((theCore s core).stopped = 1 → stopReady s core = true → op.cores.contains core.val = true →
          op.copied.contains core.val = false →
        ∃ u t, Gives (standCore core) s () u ∧ (theCore u core).stopped = 2
          ∧ Gives (copyImage core c (op.cores.findIdx (· = core.val))) u () t
              ∧ Ends (exec (.coreStoppedForSave core) s) t))
    ∧ (∀ (ctx : Fin 16) (s : State), s.trPend = [] →
      (saveLate s ctx = none → exec (.saveStopTimeout ctx) s = .next s)
      ∧ ∀ n, saveLate s ctx = some n → ∃ u,
          Gives (takeFault ⟨14, 3, ctx, n, 0xFFFF, taskRef s n, 0, 0, 0⟩) (s.ranked 4) () u
              ∧ Ends (exec (.saveStopTimeout ctx) s) u)

/-- A RESTORE that is allowed reads the header: while the read waits the command stays armed,
    a bad header gives status 5,
and cores that do not meet the image's slots give status 6; with a good header that the cores meet the command
completes, and the context is RESTORING with the image's cores in slot order. RESTORE_COMPLETE and KILL_COMPLETE do
nothing outside RESTORING and KILLING. When every image is back, every task resumes, the pens are those of the image
and the context is RUNNING with status 2. A kill completes when its tables can be read and none of the pages to wipe
waits: they are zeroed, the cores cleared, the translations and the key dropped, and the context is EMPTY. (R348,
R349, R350, R351, R353) -/
def Obligations.RestoreAndKillCheckAndComplete : Prop :=
  (∀ (ctx : Fin 16) (errs : List LineErr) (s : State),
    s.trPend = [] → s.lineErrs = [] → tripped s = false → fv s CHAIN_START_MODE ≠ 1 →
        cmdAllowed 4 (ctxState s ctx) = true →
    ∃ r u, Gives (readHeader ctx) ((s.reached ctx 4).meeting errs) r u ∧
      ((∀ w, r = .error (.hold w) → Ends (exec (.restore ctx errs) s)
        ((if fv u (CTX_CMD_CODE ctx) = 4 then u.put (CTX_STATE_CMD_ARMED ctx) 1 else u).meeting []))
      ∧ (∀ h, r = .ok h → headerOk h = false →
          Ends (exec (.restore ctx errs) s) ((u.putReg (CTX_SAVE_STATUS ctx) 5).meeting []))
      ∧ (∀ h, r = .ok h → headerOk h = true →
          let cnt := fieldAt h 0x2C 1
          let cs := coresOf u ctx
          (cs.length < cnt ∨ (cs.take cnt).zipIdx.all (fun x => meetsSlot u x.1 (slotHdr h x.2)) = false) →
            Ends (exec (.restore ctx errs) s) ((u.putReg (CTX_SAVE_STATUS ctx) 6).meeting []))))
    ∧ (∀ (ctx : Fin 16) (errs : List LineErr) (s u : State) (h : List Byte),
      tripped s = false → fv s CHAIN_START_MODE ≠ 1 → cmdAllowed 4 (ctxState s ctx) = true →
      Gives (readHeader ctx) ((s.reached ctx 4).meeting errs) (.ok h) u → headerOk h = true →
          fieldAt h 0x2C 1 ≤ (coresOf u ctx).length →
      ((coresOf u ctx).take (fieldAt h 0x2C 1)).zipIdx.all (fun x => meetsSlot u x.1 (slotHdr h x.2)) = true →
      let op := restoreOf u.tick ((coresOf u ctx).take (fieldAt h 0x2C 1)) h
      ∃ v t, Gives (restoreBegins ctx op) u () v ∧ ctxState v ctx = 5 ∧ (theCtx v ctx).restore = some op
        ∧ Gives (fillCores ctx) v () t ∧ Ends (exec (.restore ctx errs) s) (t.meeting []))
    ∧ (∀ (ctx : Fin 16) (s : State), s.trPend = [] →
      (ctxState s ctx ≠ 5 → exec (.restoreComplete ctx) s = .next s)
      ∧ (ctxState s ctx ≠ 7 → exec (.killComplete ctx) s = .next s)
      ∧ (ctxState s ctx = 5 → ∃ u, Gives (fillCores ctx) s () u ∧
          ((∀ op, (theCtx u ctx).restore = some op → op.cores.all op.copied.contains = false →
              Ends (exec (.restoreComplete ctx) s) u)
          ∧ ∀ op, (theCtx u ctx).restore = some op → op.cores.all op.copied.contains = true →
            ∃ h v, Gives (readHeader ctx) u h v ∧
              ((∀ x, h = .error x → ∃ w, Gives (faultFor (dispAcc ctx) x) v () w
                  ∧ Ends (exec (.restoreComplete ctx) s) w)
              ∧ ∀ b, h = .ok b → ∃ q w, Gives (readCores ctx b op op.cores.zipIdx) v q w ∧
                ((∀ x, q = .error x → ∃ t, Gives (faultFor (dispAcc ctx) x) w () t
                    ∧ Ends (exec (.restoreComplete ctx) s) t)
                ∧ ∀ rs, q = .ok rs → ∃ y,
                  Gives (each rs (fun r => resumeCore r.1 ctx r.2.1 (keptOf s ctx (fieldAt b 8 8) r.2.1) r.2.2.1
                      r.2.2.2)) w () y ∧
                  let masks := op.pens.map (fun m => ((op.cores.zipIdx.filter (fun x => bit m x.2)).map
                      (fun x => 2 ^ x.1)).sum)
                  Ends (exec (.restoreComplete ctx) s) ((((((((y.putReg (CTX_PEN ctx 0) (masks.getD 0 0)).putReg
                      (CTX_PEN ctx 1) (masks.getD 1 0)).putReg
                    (CTX_PEN ctx 2) (masks.getD 2 0)).putCtx ctx (fun x => { x with pens := masks, restore := none })).unreadied ctx).put
                    (CTX_STATE_STATE ctx) 1).putReg (CTX_SAVE_STATUS ctx) 2).ranked 6)))))
      ∧ (ctxState s ctx = 7 → ∃ pages u,
          Gives (if (theCtx s ctx).kill = some true then mappedPages ctx else pure (some [])) s pages u ∧
          ((pages = none → Ends (exec (.killComplete ctx) s) u)
          ∧ (∀ l, pages = some l → l.any (pageWaits u) = true → Ends (exec (.killComplete ctx) s) u)
          ∧ (∀ l, pages = some l → l.any (pageWaits u) = false → ∃ v w, Gives (each l zeroPage) u () v
              ∧ Gives (clearCores ctx) v () w ∧
            Ends (exec (.killComplete ctx) s) ((((((w.forgetting (fun x => x.ctx = ctx.val)).putCtx ctx
                (fun x => { x with key := none })).put
              (CTX_STATE_STATE ctx) 0).putCtx ctx (fun x => { x with kill := none })).ranked 6))))))

/-- A roster that is not enabled, or whose context is neither RUNNING nor HELD, is not read,
    but for PUB at the SAVE tick.
A PUB that falls, or runs more than the ring's size past DONE, faults the context with kind ROSTER, code 1; an equal
one changes nothing; a larger one is taken with its tick. A head entry that fails a check of Table 8.7 faults the
context with that code, and one that passes becomes the head; a poisoned one faults it. TASK_COMPLETION takes a task's
latched completion: the core's writes are fenced, its entry ends DONE, and both counts rise. (R323, R325, R326, R332,
R338, R347) -/
def Obligations.RostersAreSampledFetchedAndFinished : Prop :=
  ∀ (ctx : Fin 16) (roster : Fin 8) (core : Fin 64) (errs : List LineErr) (s : State),
    s.trPend = [] → s.lineErrs = [] →
    let on := rosOn s ctx roster = true ∧ (ctxState s ctx = 1 ∨ ctxState s ctx = 2)
    let x := theRoster s ctx roster
    let onS := rosOn s ctx roster = true ∧ (ctxState s ctx = 1 ∨ ctxState s ctx = 2
      ∨ (ctxState s ctx = 3 ∧ ∃ op, (theCtx s ctx).save = some op ∧ op.tick = s.tick))
    (¬ onS → exec (.rosterPubSample ctx roster errs) s = .next s)
        ∧ (¬ on → exec (.entryFetch ctx roster errs) s = .next s)
    ∧ (onS → x.fresh = false → ∃ p u, Gives (rosterGet ctx roster (rosBase s ctx roster)) (s.meeting errs) p u ∧
        ((p = none → Ends (exec (.rosterPubSample ctx roster errs) s) (u.meeting []))
        ∧ ∀ n, p = some n →
          (n < x.pub ∨ x.done + rosSize s ctx roster < n → Ends (exec (.rosterPubSample ctx roster errs) s)
            (((u.putReg (CTX_ROSTER_FAULT ctx) (1 + 16 * roster)).faulting ⟨6, 1, ctx, 0xFF, 0xFFFF, none, 0, 0,
                0⟩).meeting []))
          ∧ (x.pub = n → n ≤ x.done + rosSize s ctx roster →
              Ends (exec (.rosterPubSample ctx roster errs) s) (u.meeting []))
          ∧ (x.pub < n → n ≤ x.done + rosSize s ctx roster → Ends (exec (.rosterPubSample ctx roster errs) s)
            (((u.ranked 7).putRoster ctx roster (fun y => { y with
                pub := n, pubTick := s.tick, pubOld := if y.pubTick < s.tick then y.pub else y.pubOld })).meeting []))))
    ∧ (on → x.fresh = false → x.head = none → x.taken < x.pub → ∃ r u,
        Gives (ctxRead (dispAcc ctx) (rosEntry s ctx roster x.taken) 64) (s.meeting errs) r u ∧
        ((∀ w, r = .error w → ∃ t, Gives (faultFor (dispAcc ctx) w) u () t
            ∧ Ends (exec (.entryFetch ctx roster errs) s) (t.meeting []))
        ∧ (∀ bs, r = .ok bs → bs.any Prod.snd = true → Ends (exec (.entryFetch ctx roster errs) s)
            (((u.putReg (CTX_ROSTER_FAULT ctx) (2 + 16 * roster)).faulting
              ⟨7, 5, ctx, 0xFF, 0xFFFF, none, 0, rosEntry s ctx roster x.taken, 0⟩).meeting []))
        ∧ (∀ bs, r = .ok bs → bs.any Prod.snd = false →
            let w := (chunks 8 64 (bs.map Prod.fst)).map leNat
            (∀ code, entryFault s ctx w = some code → Ends (exec (.entryFetch ctx roster errs) s)
              (((u.putReg (CTX_ROSTER_FAULT ctx) (code + 16 * roster)).faulting ⟨6, code, ctx, 0xFF, 0xFFFF, none, 0,
                  0, 0⟩).meeting []))
            ∧ (entryFault s ctx w = none → Ends (exec (.entryFetch ctx roster errs) s)
              ((u.putRoster ctx roster (fun y => { y with head := some ⟨y.taken, w, none⟩ })).meeting [])))))
    ∧ (s.latched.any (fun e => e.kind = .taskDone core) = false → exec (.taskCompletion core) s = .next s)
    ∧ (∀ tk, s.latched.any (fun e => e.kind = .taskDone core) = true → (theCore s core).task = some tk →
        tk.ended = true →
        let v := (s.putLatched (fun l => l.filter (fun e => e.kind != .taskDone core))).ranked 6
        ∃ w x, Gives (fenceOf core) v () w ∧ Gives (endTask core 2) w () x ∧
          Ends (exec (.taskCompletion core) s) ((x.count (CTX_COMPLETED_COUNT tk.ctx) 1).count DISP_SENT_COUNT_COUNT 1))

/-- A station's next tile starts only while its stream is open,
    its station free and no encode of it waits. Where its wait
or its exchange does not hold one wait cycle is counted; else the tile's work is done and its outcome noted. A held
tile is tried again once what it waits for has come. An encode that waits for a merged record is started again and
counts a tick where it finds the record still open. (R148, R271, R272, R278, R279) -/
def Obligations.TilesStartWhenTheirWaitsHold : Prop :=
  (∀ (core : Fin 64) (slot : Fin 16) (errs : List LineErr) (c : Instr) (s : State),
    s.trPend = [] → s.lineErrs = [] → startsTile c core slot errs s →
    let x := theStream s core slot
    let free := streamOpen s core slot = true ∧ muleReady s core slot = true
        ∧ (theCore s core).encWait.any (fun w => w.slot = slot.val) = false
    (¬ free → exec c s = .next s)
    ∧ (free → x.held = [] →
        (waitsHold s core x.desc x.next = false → exec c s = .next (s.count (CORE_WAIT_COUNT core slot) 1))
        ∧ (waitsHold s core x.desc x.next = true → (exchOk x x.next = false ∨ exchHeld s core slot x.next = true) →
            exec c s = .next (s.count (CORE_EXCH_WAIT_COUNT core) 1))
        ∧ (waitsHold s core x.desc x.next = true → exchOk x x.next = true → exchHeld s core slot x.next = false →
            ∃ r u, Gives (tileWork core slot x.next false false) (s.meeting errs) r u
              ∧ Ends (exec c s) ((u.noted core slot x.next r).meeting [])))
    ∧ (∀ h rest, free → x.held = h :: rest →
        (stillHeld s core h = true → exec c s = .next s)
        ∧ (stillHeld s core h = false → ∃ r u, Gives (tileWork core slot x.next h.noRecomp h.again) (s.meeting errs) r u
            ∧ Ends (exec c s) ((u.noted core slot x.next r).meeting []))))
    ∧ (∀ (core : Fin 64) (errs : List LineErr) (s : State), s.trPend = [] → s.lineErrs = [] →
      ((theCore s core).encWait = [] → exec (.mergedRecordReread core errs) s = .next s)
      ∧ (∀ w, (theCore s core).encWait = [w] → ∃ r u, Gives (startTile core w.slot true) (s.meeting errs) r u ∧
          Ends (exec (.mergedRecordReread core errs) s) ((if r = some .record
            then u.count (CTX_STAT_WAIT_TICKS_COUNT ((ctxOfCore u core).getD 0)) 1 else u).meeting []))
      ∧ ∀ slot : Fin 16, dStation (theStream s core slot).desc ≠ stCollie → exec (.collieHandoff core slot) s = .next s)

/-- TILE_EVENT_COMPLETE advances a stream's counters when the next tile's event is due,
    after the core's writes are fenced
where the tile stores, and for event 0 of an OX stream after the loader has read the stationary tile of a pass that
stands at the head. HC_ADD adds to the 32-bit counter, wrapping. A read of a hand-off queue takes the oldest hand-off
not yet taken (0 with none), and CDONE ends the slot's oldest. A write to a Mule program is held while a tile uses it.
While the core is in a reset each is refused. (R187, R268, R273, R275, R302, R303, R639, R660) -/
def Obligations.TileEventsAndCoreRegisterCommandsAct : Prop :=
  (∀ (core : Fin 64) (slot : Fin 16) (event : Bool) (s : State), s.trPend = [] →
    let x := theStream s core slot
    let i := nextEvent x event
    let due := x.state = 1 ∧ (theCore s core).stopped < 2 ∧ i < x.next
      ∧ (if event then event1 s core slot i else event0 s core slot i) = true
    (¬ due → (dStation x.desc = stOx → event = true) → exec (.tileEventComplete core slot event) s = .next s)
    ∧ (due → (dStation x.desc = stOx → event = true) → dStation x.desc ≠ stTrail → dStation x.desc ≠ stMule →
        (dStation x.desc ≠ stStore ∨ event = false) →
        exec (.tileEventComplete core slot event) s = .next (s.eventDone core slot i event))
    ∧ (due → dStation x.desc = stStore → event = true → ∃ u, Gives (fenceOf core) s () u
        ∧ exec (.tileEventComplete core slot event) s = .next (u.eventDone core slot i event))
    ∧ (due → dStation x.desc = stMule → event = false → ∃ u, Gives (muleTileDone core) s () u
        ∧ exec (.tileEventComplete core slot event) s = .next (u.eventDone core slot i event))
    ∧ (dStation x.desc = stOx → event = false →
        ∃ u, Gives (when' (decide (x.state = 1) && decide (i < x.next)) (loadPass core slot i)) s () u
        ∧ ((x.state = 1 ∧ (theCore u core).stopped < 2 ∧ i < x.next ∧ event0 u core slot i = true →
            Ends (exec (.tileEventComplete core slot event) s) (u.eventDone core slot i event))
          ∧ (¬ (x.state = 1 ∧ (theCore u core).stopped < 2 ∧ i < x.next ∧ event0 u core slot i = true) →
            Ends (exec (.tileEventComplete core slot event) s) u))))
    ∧ (∀ (core : Fin 64) (slot hc : Fin 16) (col : Bool) (add off data : Nat) (s : State),
    let cq := if col then CORE_CQ1 core else CORE_CQ0 core
    let cd := if col then CORE_CDONE1 core else CORE_CDONE0 core
    let pa := 0xF00001000000 + 0x40000 * core.val + off
    let hands (t : State) := if col then (theCore t core).hand1 else (theCore t core).hand0
    let putHands (t : State) (f : List Handoff → List Handoff) :=
      t.putCore core (fun c => if col then { c with hand1 := f c.hand1 } else { c with hand0 := f c.hand0 })
    let gen := (fv s (RESET_GEN_CORE_GEN core) + 1) % 65536
    let inProg := off % 8 = 0 ∧ ((0x4000 ≤ off ∧ off < 0x6000) ∨ (0x8000 ≤ off ∧ off < 0xC000 ∧ off % 0x1000 < 3088))
    (coreResetting s core = true →
      exec (.hcAdd core hc add) s = .next (s.refused (CORE_HC_ADD core) gen)
      ∧ exec (.cqRead core col) s = .next (s.refused cq gen)
      ∧ exec (.cdone core col slot) s = .next (s.refused cd gen)
      ∧ (inProg → exec (.muleProgWrite core off data) s = .next (s.refused pa gen)))
    ∧ (¬ inProg → exec (.muleProgWrite core off data) s = .next s)
    ∧ (coreResetting s core = false →
      exec (.hcAdd core hc add) s = .next ((s.putReg (CORE_HC_ADD core) (hc + add % 65536 * 2 ^ 16)).addMod
          (CORE_HC_VALUE core hc) (add % 65536))
      ∧ ((hands s).find? (fun h => !h.taken) = none → exec (.cqRead core col) s = .next (s.says (.regValue cq 0)))
      ∧ (∀ h, (hands s).find? (fun h => !h.taken) = some h → exec (.cqRead core col) s
          = .next ((putHands s (fun l => l.map (fun x => if x.slot = h.slot && x.tile
              = h.tile then { x with taken := true } else x))).says
              (.regValue cq (h.tile % 2 ^ 32 + h.slot * 2 ^ 32 + 2 ^ 36))))
      ∧ ((hands s).find? (fun h => h.slot = slot.val) = none → exec (.cdone core col slot) s = .next (s.putReg cd slot))
      ∧ (∀ h, (hands s).find? (fun h => h.slot = slot.val) = some h → exec (.cdone core col slot) s
          = .next (putHands (s.putReg cd slot) (fun l => l.erase h)))
      ∧ (inProg → exec (.muleProgWrite core off data) s = .next (if muleUses s core pa = true
          then s.putCore core (fun c => { c with mule := { c.mule with held := c.mule.held ++ [⟨pa, data, none⟩] } })
          else s.putReg pa data))))

/-- EXCHANGE swaps the bindings of the pair's two banks and counts a fill for both streams when both tiles are due
    and no
tile of the program has faulted; else nothing changes. BANK_BIND binds a waiting bank to the stream's class when it is
unbound or bound so, counts a waiting cycle when another class has it, and faults on a retired or OFF bank; after a
fault of the program it does nothing. (R222, R242, R277) -/
def Obligations.BanksExchangeAndBind : Prop :=
  ∀ (core : Fin 64) (slot : Fin 16) (pair : Bool) (s : State), s.trPend = [] →
    (∀ a b, exchStream s core (b2n pair) 1 = some a → exchStream s core (b2n pair) 2 = some b →
      exec (.exchange core pair) s = .next (if exchDue (theStream s core a) (theStream s core b) = true
          ∧ (theCore s core).progBad = false
        then let lo := 2 * b2n pair
          (((s.put ⟨CORE_HBIND core, 4 * lo, 4⟩ (bindOf s core (lo + 1))).put ⟨CORE_HBIND core, 4 * (lo + 1), 4⟩
              (bindOf s core lo)).putStream core a
            (fun y => { y with fills := y.fills + 1 })).putStream core b (fun y => { y with fills := y.fills + 1 })
        else s))
    ∧ (exchStream s core (b2n pair) 1 = none ∨ exchStream s core (b2n pair) 2 = none →
        exec (.exchange core pair) s = .next s)
    ∧ ((theCore s core).bindWait.filter (fun b => b.1 = slot.val) = [] → exec (.bankBind core slot) s = .next s)
    ∧ ((theCore s core).progBad = true → exec (.bankBind core slot) s = .next s)
    ∧ ∀ w, (theCore s core).bindWait.filter (fun b => b.1 = slot.val) = [w] → (theCore s core).progBad = false →
      let d := (theStream s core slot).desc
      let code := if dExch d = 1 ∧ w.2 = exchLower d + 1 then dExchPeer d else stClass (dStation d)
      (bankGate s core w.2 = .refused → exec (.bankBind core slot) s = .next (s.bankFaulting core w.2 0))
      ∧ (bankGate s core w.2 ≠ .refused → (bindOf s core w.2 = 0 ∨ bindOf s core w.2 = code) →
          exec (.bankBind core slot) s
          = .next ((s.put ⟨CORE_HBIND core, 4 * w.2, 4⟩ code).putCore core (fun c =>
              { c with bindWait := c.bindWait.erase w })))
      ∧ (bankGate s core w.2 ≠ .refused → ¬ (bindOf s core w.2 = 0 ∨ bindOf s core w.2 = code) →
          exec (.bankBind core slot) s = .next (s.count (CORE_BIND_WAIT_COUNT core) 1))

/-- A COLLIE tile waits on a queue of 8 hand-offs, else adds its slot, index, origin and ARG and raises the Collie's
interrupt. An OX tile waits on a full pass queue, else pushes its pass. A YOKE tile adds its rows, and its segment's
last tile queues the segment. (R291, R292, R293, R302) -/
def Obligations.YokeOxAndCollieTilesHandOverTheirWork : Prop :=
  ∀ (n k i : Nat) (a b : Bool) (s : State),
    let x := theStream s n k
    let d := x.desc
    let o := origin d i
    (dStation d = stCollie → startCheck s n k d i = none →
      let q := if df d 8 0 1 = 0 then (theCore s n).hand0 else (theCore s n).hand1
      (8 ≤ (q.filter (fun h => !h.taken)).length → Gives (tileWork n k i a b) s .wait s)
      ∧ ((q.filter (fun h => !h.taken)).length < 8 → Gives (tileWork n k i a b) s .ok
          ((s.putCore n (fun c => if df d 8 0 1
              = 0 then { c with hand0 := c.hand0 ++ [⟨k, i, o.1, o.2, df d 8 32 32, false⟩] }
            else { c with hand1 := c.hand1 ++ [⟨k, i, o.1, o.2, df d 8 32 32, false⟩] })).says
                (.collieIrq n (df d 8 0 1)))))
    ∧ (dStation d = stOx → startCheck s n k d i = none →
        ((∃ p ∈ oxParts s n d, 4 ≤ (theOx s p.2).queue.length) → Gives (tileWork n k i a b) s .wait s)
        ∧ (∀ p, oxParts s n d = [p] → (theOx s p.2).queue.length < 4 → Gives (tileWork n k i a b) s .ok
            (s.putOx p.2 (fun y => { y with queue := y.queue ++ [⟨makePass d i p.1, false, false⟩] }))))
    ∧ (dStation d = stYoke → startCheck s n k d i = none → imgGate s n (yokeImgs d i) = .on →
        let rows := (if i % yokeTps d = 0 then [] else x.rows) ++ yokeRows s n d i
        Gives (tileWork n k i a b) s .ok (if i % yokeTps d + 1 = yokeTps d
          then (s.putCore n (fun c => { c with segs := c.segs ++ [yokeSegment d i rows] })).putStream n k
              (fun y => { y with rows := [] })
          else s.putStream n k (fun y => { y with rows := rows })))

/-- A task that has not begun fetches its descriptors; a descriptor that cannot be read, or a program that fails a check
of Table 7.10, is a stream fault of that code; one that passes with no bank to bind has its streams loaded and RUNNING
set. When every stream has ended, and the statistics it owes are in memory, the program's end latches the task's
completion, an event of rank 6. (R154, R201, R265, R267, R268) -/
def Obligations.AStreamProgramStartsAndEnds : Prop :=
  ∀ (core : Fin 64) (errs : List LineErr) (s : State), s.trPend = [] → s.lineErrs = [] →
    (∃ v, Gives (drainStats core) s () v ∧ ((theCore s core).statDue = [] → v = s)
      ∧ (programDone v core = false → Ends (exec (.streamProgramEnd core) s) v)
      ∧ (programDone v core = true → ∃ u, Gives (programEnd core) v () u ∧ Ends (exec (.streamProgramEnd core) s)
          ((u.putCore core (fun c => { c with task := c.task.map (fun t => { t with ended := true }) })).latching
              ⟨6, 0, ctxOfCore v core, core, .taskDone core⟩)))
    ∧ ((theCore s core).task = none → exec (.streamProgramStart core errs) s = .next s)
    ∧ ∀ t, (theCore s core).task = some t → t.begun = false → (theCore s core).stopped = 0 →
        (theCore s core).sent = none →
        ∃ r u, Gives (fetchDescs (taskAcc s core (readClass s core none)) (bits (t.words.getD 0 0) 0 52)
            (bits (t.words.getD 0 0) 52 4 + 1))
            (s.meeting errs) r u ∧
        (let v := u.putCore core (fun c => { c with task := c.task.map (fun t => { t with begun := true }) })
        (r = .error none → Ends (exec (.streamProgramStart core errs) s) (u.meeting []))
        ∧ (∀ k, r = .error (some k) → ∃ w, Gives (streamFault core 1 k 0xFFFFFFFF) v () w
            ∧ Ends (exec (.streamProgramStart core errs) s) (w.meeting []))
        ∧ (∀ ds, r = .ok ds →
            (∀ code k, progCheck (slotOxen (coreMode s core)).length ds = some (code, k) →
              ∃ w, Gives (streamFault core code k 0xFFFFFFFF) v () w
                  ∧ Ends (exec (.streamProgramStart core errs) s) (w.meeting []))
            ∧ (progCheck (slotOxen (coreMode s core)).length ds = none → programBinds ds = [] →
              ∃ w, Ends (exec (.streamProgramStart core errs) s) (w.meeting [])
                ∧ (theCore w core).streams = startStreams (bits (t.words.getD 0 0) 0 52) ds
                ∧ fb w (CORE_STREAM_STATUS_RUNNING core) = true)))

/-- A request moves a bank between ON, RETENTION and OFF through its entering and waking states,
    with a request that meets
a transition latched or deepened as Tables 6.5 and 6.6 give it; the reserved target and waking a retired bank change
nothing; a stopped core's requests wait. A completed transition leaves the state it led to, clears a bank that was
OFF, and starts the latched one. After each, the accesses that wait for the bank are judged. Retiring a bank adds a
live history entry of kind 4 and touches no other core. While the core is in a reset both are refused. (R231, R232,
R235, R237, R238, R240, R241, R242, R243, R250, R660, R702) -/
def Obligations.BanksChangePowerAndRetire : Prop :=
  (∀ (core : Fin 64) (bank : Fin 12) (target : Fin 4) (s : State),
    let n : Nat := core
    let b : Nat := bank
    let t : Nat := target
    let st := fv s (bankState n b)
    let tr := theTr s n b
    let noneWaits (u : State) := (theCore u n).winWait.any (fun w => w.bank = b) = false
        ∧ (theCore u n).bankWaits.any (fun w => w.bank = b) = false
    let go (reach : Nat) : State := (s.putTr n b (fun _ => ⟨true, reach, none, false⟩)).bankAs n b reach 3
    let wake (reach : Nat) : State := (s.putTr n b (fun _ => ⟨true, reach, none, false⟩)).bankAs n b 0 4
    (coreResetting s n = true → exec (.bankPowerRequest core bank target) s
      = .next (s.refused (bankReg n b) ((fv s (RESET_GEN_CORE_GEN n) + 1) % 65536)))
    ∧ (coreResetting s n = false → 2 ≤ (theCore s n).stopped → exec (.bankPowerRequest core bank target) s
      = .next (s.putCore n (fun c => { c with deferred := c.deferred ++ [(b, t)] })))
    ∧ (coreResetting s n = false → (theCore s n).stopped < 2 → let turned :=
        (if t = 3 ∨ (t = 0 ∧ fb s (bankRetired n b) = true) then s
        else if st = 0 then (if t = 0 then s else go t)
        else if st = 1 then (if t = 0 then wake 1 else if t = 2 then go 2 else s)
        else if st = 2 then (if t = 0 then wake 2 else s)
        else if st = 3 then (if t = 0 then (s.putTr n b (fun x => { x with latched := some 0 })).bankAs n b 0 5
            else go (max tr.reach t))
        else if st = 4 then (if t = 0 then s else (s.putTr n b (fun x => { x with latched := some t })).bankAs n b t 6)
        else if st = 5 then (if t = 0 then s else go (max tr.reach t))
        else if t = 0 then (s.putTr n b (fun x => { x with latched := none })).bankAs n b 0 4
        else (s.putTr n b (fun x => { x with latched := some (max t (tr.latched.getD t)) })).put (bankTarget n b)
            (max t (tr.latched.getD t)))
      ∃ u, Gives (bankJudge n b) turned () u ∧ exec (.bankPowerRequest core bank target) s = .next u
          ∧ (noneWaits turned → u = turned)))
    ∧ (∀ (core : Fin 64) (bank : Fin 12) (s : State),
    let n : Nat := core
    let b : Nat := bank
    let st := fv s (bankState n b)
    let tr := theTr s n b
    let cleared := if tr.reach = 2 then s.bankCleared n b else s
    let arrived := (if st = 3 then (cleared.putTr n b (fun _ => .none)).put (bankState n b) tr.reach
      else if st = 5 then (cleared.putTr n b (fun _ => ⟨true, tr.reach, none, false⟩)).bankAs n b 0 4
      else if st = 4 then (cleared.putTr n b (fun _ => .none)).put (bankState n b) 0
      else if st = 6 then (cleared.putTr n b (fun _ => ⟨true, tr.latched.getD 1, none, false⟩)).bankAs n b
          (tr.latched.getD 1) 3
      else s)
    (∃ u, Gives (bankJudge n b) arrived () u ∧ exec (.bankTransitionComplete core bank) s = .next u
      ∧ ((theCore arrived n).winWait.any (fun w => w.bank = b) = false →
          (theCore arrived n).bankWaits.any (fun w => w.bank = b) = false →
          u = arrived))
    ∧ (coreResetting s n = true → exec (.bankRetire core bank) s
        = .next (s.refused (bankReg n b) ((fv s (RESET_GEN_CORE_GEN n) + 1) % 65536)))
    ∧ (coreResetting s n = false → (theCore s n).stopped < 2 → fb s (bankRetired n b) = true →
        exec (.bankRetire core bank) s = .next s)
    ∧ (coreResetting s n = false → (theCore s n).stopped < 2 → fb s (bankRetired n b) = false →
        ∃ t, exec (.bankRetire core bank) s = .next t
          ∧ (∃ e, t.history.getLast? = some e ∧ e.kind = 4 ∧ e.unit = n ∧ e.data = b ∧ e.tick = s.tick ∧ e.live = true)
          ∧ (∀ m, m ≠ n → theCore t m = theCore s m)))

/-- An access to a reserved address is not performed,
    and one to another part of the map does nothing. In a window: a core
in reset refuses; an access to a bank that is waking waits; a retired or OFF one is counted, marked and not performed,
but for a read of a bank that a restore left OFF; and one that is ON answers or takes the bytes. The Collies' memories
and the save area read as raw bytes and take them, the bytes of the save area beyond 0x1_FFFF only while the core is
stopped (they read 0 and keep what they hold else); the instruction memories take no bytes from a Collie; beyond them
the access is not performed. (R7, R208, R209, R210, R211, R217, R235, R236, R247, R248, R457, R660) -/
def Obligations.WindowAccessesReachTheBanks : Prop :=
  ∀ (who : Who) (addr len : Nat) (data : List Byte) (s : State), s.trPend = [] →
    let read := exec (.sramWindowAccess who addr len none) s
    let write := exec (.sramWindowAccess who addr len (some data)) s
    (regionOf s.part addr = .reserved → read = .next (s.turnedAway who addr 1 0 0xFFFF)
        ∧ write = .next (s.turnedAway who addr 1 0 0xFFFF))
    ∧ (regionOf s.part addr ≠ .reserved → (∀ n off, regionOf s.part addr ≠ .sram n off) → read = .next s
        ∧ write = .next s)
    ∧ (∀ n off, regionOf s.part addr = .sram n off →
        let b := (winBank off).1
        let o := (winBank off).2
        let a := winBase n + off
        (coreResetting s n = true → read = .next (s.says (.refusal addr ((coreGen s n + 1) % 65536)))
            ∧ write = .next (s.says (.refusal addr ((coreGen s n + 1) % 65536))))
        ∧ (coreResetting s n = false → off < 0xA00000 →
            (bankGate s n b = .waits → read
                = .next (s.putCore n (fun c => { c with winWait := c.winWait ++ [⟨who, addr, b, o, len, none, none⟩] }))
                ∧ write = .next (s.putCore n (fun c => { c with winWait := c.winWait ++ [⟨who, addr, b, o, len, some data, none⟩] })))
            ∧ (bankGate s n b = .refused →
                let t := (s.put ⟨bankReg n b, 9, 1⟩ 1).count (CORE_BANK_FAULTS_COUNT n) 1
                ((theTr s n b).left = false → read = .next (t.turnedAway who addr 2 0 b))
                    ∧ write = .next (t.turnedAway who addr 2 0 b))
            ∧ (bankGate s n b = .on ∨ (bankGate s n b = .refused ∧ (theTr s n b).left = true) →
                read = .next ((s.guested n b len).answered who addr (bankRead s n b o len) (bankRunPoison s n b o len)))
            ∧ (bankGate s n b = .on →
                ∃ u, Gives (bankWrite n b o data (data.map (fun _ => false))) (s.guested n b len) () u
                    ∧ write = .next u))
        ∧ (coreResetting s n = false → 0xA00000 ≤ off → off < 0xA60000 →
            let shut (i : Nat) : Bool := decide (0xA20000 ≤ i) && decide (i < 0xA40000) && decide
                ((theCore s n).stopped < 2)
            read = .next (s.answered who addr ((rawBytes s a len).zipIdx.map (fun x => if shut (off + x.2) then 0
                else x.1)) false)
            ∧ (off < 0xA40000 ∨ who = .controlDie → write = .next (s.putBytes a
                (data.zipIdx.map (fun x => if shut (off + x.2) then (rawBytes s (a + x.2) 1).headD 0 else x.1)))))
        ∧ (∀ c, coreResetting s n = false → 0xA40000 ≤ off → off < 0xA60000 → who = .collie c →
            write = .next (s.turnedAway who addr 1 3 0xFFFF))
        ∧ (coreResetting s n = false → 0xA60000 ≤ off → read = .next (s.turnedAway who addr 1 0 0xFFFF)
            ∧ write = .next (s.turnedAway who addr 1 0 0xFFFF)))

/-- A walk for a core's context translates the address; where the walk stops the context faults (or the read is held) as
R318 says; where it ends, a deep page's directory entry is read, and a page that is not there faults with its code of
ACCESS. A walk whose tables map the address to a page of HBM completes: the core's walker holds the translation, and
all else is as the reads of the tables leave it; one whose translation it holds already, and that may be written where
the walk is for a write, changes nothing. (R7, R317, R318) -/
def Obligations.APageWalkFaultsOrCachesItsTranslation : Prop :=
  ∀ (core : Fin 64) (ctx : Fin 16) (va : Nat) (write : Bool) (errs : List LineErr) (s : State),
    s.trPend = [] → s.lineErrs = [] →
    let a : CtxAcc := { taskAcc s core 1 with ctx := ctx }
    let done (t : State) : Prop := Ends (exec (.pageWalk core ctx va write errs) s) (t.meeting [])
    ∃ r u, Gives (translate a va write) (s.meeting errs) r u ∧
      ((∀ w, r = .stop w → ∃ v, Gives (faultFor a w) u () v ∧ done v)
      ∧ (∀ x, r = .ok x → ∃ q v, Gives (dirWalk a x) u q v ∧
          ((∀ w, q = some w → ∃ t, Gives (faultFor a w) v () t ∧ done t)
          ∧ (q = none → pageAbsent v core x.pa = none → done v)
          ∧ (∀ code, q = none → pageAbsent v core x.pa = some code →
              ∃ t, Gives (faultFor a (.fault 1 code va)) v () t ∧ done t))))
    ∧ (va < 2 ^ 52 →
        let slot := cacheSlot s a va
        let held := (theCore s core).xlate.find? (fun x => x.ctx = ctx.val && x.gslot = slot && x.vpage = va / page2M)
        (∀ x st off, held = some x → (write = true → x.w = true) →
            regionOf s.part (x.ppage * page2M + va % page2M) = .hbm st off →
            pageAbsent s core (x.ppage * page2M + va % page2M) = none →
                exec (.pageWalk core ctx va write errs) s = .next s)
        ∧ (∀ x e u st off, held = none → Gives (walkTables a va write) (s.meeting errs) (.ok x, e) u →
            regionOf s.part x.pa = .hbm st off →
            pageAbsent u core x.pa = none → exec (.pageWalk core ctx va write errs) s
              = .next ((u.putCore core (fun c => { c with
                  xlate := c.xlate ++ [⟨ctx, slot, va / page2M, x.pa / page2M, bit e 2, x.refetch, x.leaf2⟩]
                      })).meeting [])))

/-- A round that is due counts the cores still pending as late, clears the task count and puts every core with an
available Ox on the list; a round not due does nothing. A pass starts on a pending, free core with the next Ox and the
suspects beside it. A completion ends the core's pass and leaves each of its Oxen with no stationary tile. A write of
SENT_STATE clears the Ox's state. (R354, R355, R356, R357, R358, R480, R483, R614) -/
def Obligations.SentinelRoundsPassesAndCompletions : Prop :=
  ∀ (core : Fin 64) (ox : Fin 256) (defects : List (Fin 4 × Nat)) (s : State), s.trPend = [] →
    (roundDue s = false → exec .sentinelRound s = .next s)
    ∧ (roundDue s = true →
        let late := (maskList (rg s DISP_SENT_PENDING)).length
        exec .sentinelRound s = .next (((((if late = 0 then s else s.count DISP_SENT_LATE_COUNT late).putReg
            DISP_SENT_LAST s.tick).putReg DISP_SENT_COUNT 0).putReg DISP_SENT_PENDING
                (maskOf (maskList (rg s DISP_SENT_PENDING)
            ++ coreNums.filter (fun n => (List.range 4).any (oxAvail s n) && !coreDead s n)))).count
                DISP_SENT_ROUNDS_COUNT 1))
    ∧ (bit (rg s DISP_SENT_PENDING) core = false ∨ coreFree s core = false ∨ coreDead s core = true ∨ nextOx s core
        = none →
        exec (.sentinelPass core) s = .next s)
    ∧ (∀ k, bit (rg s DISP_SENT_PENDING) core = true → coreFree s core = true → coreDead s core = false →
        nextOx s core = some k →
        ∃ t, exec (.sentinelPass core) s = .next t ∧ t.cores = (s.putCore core (fun c => { c with sent := some ⟨k,
          (List.range 4).filter (fun j => j != k && suspect s (4 * core + j)), sentPattern s,
              fv s (CORE_TJ_NOW core), fv s (CORE_TJ_ACTIVITY core), s.tick⟩ })).cores)
    ∧ ((theCore s core).sent = none → exec (.sentinelCompletion core defects) s = .next s)
    ∧ (∀ r, (theCore s core).sent = some r → ∃ t, exec (.sentinelCompletion core defects) s = .next t
        ∧ (theCore t core).sent = none ∧ ∀ k < 4, (theOx t (4 * core + k)).live = []
            ∧ (theOx t (4 * core + k)).liveRec = .zero)
    ∧ exec (.sentStateClear ox) s = .next (s.put (OX_SENT_STATE_STATE ox) 0)

/-- A read answers the line's bytes with its poison mark, an uncorrectable line poisoned; a write of a line, or of the
bits a mask selects, is performed; a mask of zeros changes nothing; an address with no memory faults the core's
context with kind ACCESS or answers the other requesters an error. A request whose pseudo-channel is busy waits in a
slot of its stack, or, where none is left for its class, at its requester, which is counted (log 42). A Collie's load
and a LOAD stream's read go through the context's translation. (R7, R374, R375, R376, R377, R443, R446) -/
def Obligations.RequestsByAddressAnswerWhatMemoryGives : Prop :=
  ∀ (req : Fin 73) (cls : Fin 4) (addr data mask : Nat) (poison : Bool) (errs : List LineErr) (s : State),
    s.trPend = [] → s.lineErrs = [] →
    let line := addr - addr % 256
    let refusedBy (u : State) (a code : Nat) : State := if req.val < 64
      then (u.faulting (troubleOf u req 1 code 0xFFFF 0 a 0)).says (.notPerformed a) else u.says (.errorStatus a)
    let read (t : State) : Prop := Ends (exec (.hbmRead req cls addr .physical errs) s) (t.meeting [])
    let served : Prop := ∀ st off i a, regionOf s.part addr = .hbm st off → gateHbm s req st off = .at i a →
        pcOpen s st (pcAt a) = true
    (served → ∃ r u, Gives (readLine (viaReq req cls 0) addr) (s.meeting errs) r u ∧
      ((∀ bs p, r = .data bs p → read (u.says (.bytes line bs p)))
      ∧ (∀ bs, r = .uncorr bs → read (u.says (.bytes line bs true)))
      ∧ (∀ code, r = .absent code → read (refusedBy u addr code))))
    ∧ (∀ st off i a, regionOf s.part addr = .hbm st off → rsrcOf s addr = none → gateHbm s req st off = .at i a →
        pcOpen s st (pcAt a) = false →
        let q : HbmReq := ⟨req, cls, addr, none, false⟩
        (slotFor s st cls = false → exec (.hbmRead req cls addr .physical errs) s
          = .next ((s.putStack st (fun k => { k with waits := k.waits ++ [q] })).count (HBM_SLOT_WAIT_COUNT st) 1))
        ∧ (slotFor s st cls = true → ∃ t, exec (.hbmRead req cls addr .physical errs) s = .next t
            ∧ t.hbm = (s.putStack st (fun k => { k with queue := k.queue ++ [q] })).hbm ∧ t.mem = s.mem
                ∧ t.outbox = s.outbox))
    ∧ (∀ c m e st off i a, (c, m, e) ∈ [(Instr.fullLineWrite req addr data poison, fullMask, []),
          (.partialWrite req addr data mask poison errs, mask % 2 ^ 2048, errs)] → mask % 2 ^ 2048 ≠ 0 →
        regionOf s.part line = .hbm st off → rsrcOf s line = none → gateHbm s req st off = .at i a →
            pcOpen s st (pcAt a) = false →
        let q : HbmReq := ⟨req, writeClass s req, line, some (data % 2 ^ 2048, m, poison), false⟩
        ∃ u, Gives (guardDir req line m) (s.meeting e) () u
          ∧ (slotFor s st q.cls = false → exec c s
              = .next (((u.putStack st (fun k => { k with waits := k.waits ++ [q] })).count (HBM_SLOT_WAIT_COUNT st)
                  1).meeting []))
          ∧ (slotFor s st q.cls = true → ∃ t, exec c s = .next t
              ∧ t.hbm = (u.putStack st (fun k => { k with queue := k.queue ++ [q] })).hbm ∧ t.mem = s.mem
                  ∧ t.outbox = s.outbox))
    ∧ (req.val < 64 → ∃ u, Gives (readCtxReq req cls addr) (s.meeting errs) () u
        ∧ Ends (exec (.hbmRead req cls addr .context errs) s) (u.meeting []))
    ∧ (∀ slot : Fin 16, req.val < 64 → ∃ u, Gives (readLoadReq req slot addr) (s.meeting errs) () u
        ∧ Ends (exec (.hbmRead req cls addr (.load slot) errs) s) (u.meeting []))
    ∧ (served → ∃ r u, Gives (writeLine (viaReq req 2 fullMask) line (data % 2 ^ 2048) fullMask poison) s r u ∧
        ((r = .ok → Ends (exec (.fullLineWrite req addr data poison) s) u)
        ∧ (∀ code, r = .absent code → Ends (exec (.fullLineWrite req addr data poison) s) (refusedBy u line code))))
    ∧ (mask % 2 ^ 2048 = 0 → exec (.partialWrite req addr data mask poison errs) s = .next s)
    ∧ (mask % 2 ^ 2048 ≠ 0 → served → ∃ r u,
        Gives (writeLine (viaReq req 2 (mask % 2 ^ 2048)) line (data % 2 ^ 2048) (mask % 2 ^ 2048) poison)
            (s.meeting errs) r u ∧
        ((r = .ok → Ends (exec (.partialWrite req addr data mask poison errs) s) (u.meeting []))
        ∧ (∀ code, r = .absent code → Ends (exec (.partialWrite req addr data mask poison errs) s)
            ((refusedBy u line code).meeting []))))

/-- A write of a whole line that a stack in service takes, with no request for the line pending before it,
    completes; the
line's 256 bytes are the data, its poison mark the one given, every byte outside the line and every other line's
stored word are as before, and no write-combining entry of the line is left. (R376, R441, R443) -/
def Obligations.AFullLineReadsBackAsWritten : Prop :=
  ∀ (req st off a data : Nat) (poison : Bool) (s : State),
    gateHbm s req st off = .at st a → (theStack s st).queue.filter (fun q => reqLine s st q = a) = [] →
        data < 2 ^ 2048 →
    ∃ t, Gives (writeHbm req st off data fullMask poison) s .ok t
    ∧ rawBytes t a 256 = natLe 256 data ∧ poisonedAt t a = poison
    ∧ (∀ b, (b < a ∨ a + 256 ≤ b) → mget (fun _ => 0) t.mem b = mget (fun _ => 0) s.mem b)
    ∧ (∀ b, b ≠ a → synAt t b = synAt s b)
    ∧ ∀ e ∈ (theStack t st).wcb, e.line ≠ a

/-- After a FENCE no write-combining entry of any stack holds bytes of that requester. WCB_ENTRY_COMPLETE completes the
entry of its line, and does nothing where there is none. A new window clears that pseudo-channel's counts, and its
pending requests are served in the order of R370 to R372: with one pending request, that one. An aged request is
counted and marked where the stack is in service and has an age limit. (R365, R368, R378, R379, R382) -/
def Obligations.FencesEmptyTheWriteBuffer : Prop :=
  ∀ (req : Fin 73) (stack : Fin 12) (pc : Fin 64) (line : Nat) (errs : List LineErr) (s : State), s.lineErrs = [] →
      s.trPend = [] →
    (∃ t, exec (.fence req errs) s = .next t
        ∧ ∀ st < s.part.nStacks, ∀ e ∈ (theStack t st).wcb, e.reqs.contains req.val = false)
    ∧ ((theStack s stack).wcb.find? (fun e => e.line = stack * stackBytes + line * 256) = none →
        exec (.wcbEntryComplete stack line errs) s = .next s)
    ∧ (∀ e, (theStack s stack).wcb.find? (fun e => e.line = stack * stackBytes + line * 256) = some e →
        ∃ u, Gives (completeEntry stack e) (s.meeting errs) () u
            ∧ exec (.wcbEntryComplete stack line errs) s = .next (u.meeting []))
    ∧ (let fresh := s.putStack stack (fun k => { k with
          served0 := k.served0.filter (fun e => e.1 != pc.val), served := k.served.filter (fun e => e.1 != pc.val) })
       ((theStack s stack).queue = [] → (theStack s stack).waits = [] → exec (.class0Window stack pc) s = .next fresh)
       ∧ (∀ q i a, (theStack s stack).queue = [q] → (theStack s stack).waits = [] → q.cls < 4 →
           gateHbm s q.req stack (q.addr % stackBytes) = .at i a → pcAt (reqLine s stack q) = pc →
           ∃ u, Gives (serveReq stack (reqLine s stack q) q) fresh () u ∧ (theStack u stack).queue = []
               ∧ Ends (exec (.class0Window stack pc) s) u))
    ∧ (let t := s.count (HBM_AGED_COUNT stack) 1
       exec (.requestAged stack) s = .next (if fv s (HBM_STATUS_STATE stack) = 2
           ∧ fb s (HBM_AGE_LIMIT_CYCLES stack) = true
         then t.putStack stack (fun k => { k with queue := ageOldest t stack k.queue }) else s))

/-- MAINT of a training stack waits for the training's end,
    of an out-of-service one acts at once; any other state ignores
it; leaving MAINT starts training. In MAINT the control die's mode register accesses, soft and hard repair, undo,
built-in test and test port act as the equations give and end with RESULT DONE; outside MAINT, or from a Collie, they
end with RESULT FAIL and change nothing else. A mode register never written reads a free value (log 12). (R388, R389,
R390, R391, R392) -/
def Obligations.MaintenanceIsEnteredActsAndIsLeft : Prop :=
  (∀ (who : Who) (stack : Fin 12) (s : State),
    (¬ (who = .controlDie ∧ stack.val < s.part.nStacks) → exec (.maintEnter who stack) s = .next s
        ∧ exec (.maintExit who stack) s = .next s)
    ∧ (stack.val < s.part.nStacks →
        (fv s (HBM_STATUS_STATE stack) ≠ 1 → fv s (HBM_STATUS_STATE stack) ≠ 5 →
            exec (.maintEnter .controlDie stack) s = .next s)
        ∧ (fv s (HBM_STATUS_STATE stack) = 1 → exec (.maintEnter .controlDie stack) s
            = .next ((s.put (HBM_CTRL_MAINT stack) 1).putStack stack (fun k => { k with toMaint := true })))
        ∧ (fv s (HBM_STATUS_STATE stack) = 5 → exec (.maintEnter .controlDie stack) s
            = .next (((s.put (HBM_CTRL_MAINT stack) 1).put (HBM_STATUS_STATE stack) 4).recapped))
        ∧ (let t := (s.put (HBM_CTRL_MAINT stack) 0).putStack stack (fun k => { k with toMaint := false })
           exec (.maintExit .controlDie stack) s
               = .next (if fv s (HBM_STATUS_STATE stack) = 4 then (t.put (HBM_STATUS_STATE stack) 1).recapped else t))))
    ∧ (∀ (who : Who) (stack : Fin 12) (ch : Fin 32) (pc : Bool) (rows : List Nat) (s : State),
    let st : Nat := stack
    let head (op : Nat) : State := s.putReg (HBM_MAINT_CMD st) (op + ch * 16 + b2n pc * 512)
    let done (t : State) : State := t.put (HBM_MAINT_STATUS_RESULT st) 2
    let row (op : Nat) : Nat := rowId (head op) st ch pc
    (¬ (who = .controlDie ∧ fv s (HBM_STATUS_STATE st) = 4) →
      let t := if st < s.part.nStacks then s.put (HBM_MAINT_STATUS_RESULT st) 3 else s
      exec (.mrRead who stack ch pc) s = .next t ∧ exec (.mrWrite who stack ch pc) s = .next t
          ∧ exec (.softPpr who stack ch pc) s = .next t
      ∧ exec (.hardPpr who stack ch pc) s = .next t ∧ exec (.softPprUndo who stack ch pc) s = .next t
          ∧ exec (.mbist who stack ch pc rows) s = .next t
      ∧ exec (.ieee1500 who stack ch pc) s = .next t)
    ∧ (who = .controlDie → fv s (HBM_STATUS_STATE st) = 4 →
      (∀ e, (theStack s st).modeRegs.find? (fun e => e.1 = modeId (head 1) st ch) = some e →
        exec (.mrRead who stack ch pc) s
            = .next (done (((head 1).putReg (HBM_MAINT_DATA st) e.2).putStack st (fun k => { k with mbist := [] }))))
      ∧ ((theStack s st).modeRegs.find? (fun e => e.1 = modeId (head 1) st ch) = none →
        let v := (Config.freeWord s.freeCtr).toNat
        exec (.mrRead who stack ch pc) s = .next (done (((((head 1).putFreeCtr (· + 1)).putStack st
          (fun k => { k with modeRegs := (modeId (head 1) st ch, v) :: k.modeRegs })).putReg (HBM_MAINT_DATA st)
              v).putStack st
          (fun k => { k with mbist := [] }))))
      ∧ exec (.mrWrite who stack ch pc) s = .next (done ((head 2).putStack st (fun k => { k with
          modeRegs := (modeId (head 2) st ch, bits (rg (head 2) (HBM_MAINT_DATA st)) 0 32) :: k.modeRegs.filter
              (fun e => e.1 != modeId (head 2) st ch) })))
      ∧ exec (.softPpr who stack ch pc) s
          = .next (done ((head 3).putStack st (fun k => { k with soft := row 3 :: k.soft.filter (· != row 3) })))
      ∧ (∃ t, exec (.hardPpr who stack ch pc) s = .next t
          ∧ t.hbm = ((head 4).putStack st (fun k => { k with hard := row 4 :: k.hard.filter (· != row 4) })).hbm
          ∧ ∃ e, t.history.getLast? = some e ∧ e.kind = 6 ∧ e.unit = st ∧ e.data = row 4)
      ∧ exec (.softPprUndo who stack ch pc) s = .next (done ((head 5).putStack st (fun k => { k with
          soft := k.soft.filter (fun i => i % 64 != ch + b2n pc * 32) })))
      ∧ exec (.mbist who stack ch pc rows) s = .next (done ((head 6).putStack st (fun k => { k with mbist := rows })))
      ∧ exec (.ieee1500 who stack ch pc) s
          = .next (done ((head 7).says (.testPort st (bits (rg (head 7) (HBM_MAINT_DATA st)) 0 16)
          (bits (rg (head 7) (HBM_MAINT_DATA st)) 16 48))))))

/-- The end of a stack's training does nothing in the wrong state, before phase 6 or after a trip. Else each channel's
lane repair is recorded, and the stack is in maintenance if that was asked, out of service if a channel has more
failing lanes than spares or did not train, and in service otherwise. A CXL port that trains takes its width, rate and
capacity; its loss and its retraining move its state. (R384, R385, R386, R387, R397) -/
def Obligations.TrainingEndsInServiceOrOut : Prop :=
  ∀ (stack : Fin 12) (r : Nat) (fails : List (Fin 32 × Nat)) (untrained : List (Fin 32))
    (port : Fin 8) (width : Nat) (rate : Fin 3) (cap : Nat) (s : State),
    let st := fv s (HBM_STATUS_STATE stack)
    let k (ch : Nat) : Nat := (fails.find? (fun f => f.1.val = ch)).elim 0 Prod.snd
    let dead (ch : Nat) : Bool := untrained.any (fun u => u.val = ch)
    let bad := (List.range 32).any (fun ch => dead ch || decide (r < k ch))
    let able := fv s CHAIN_START_PHASE ≥ 6 ∧ tripped s = false
    (¬ (stack.val < s.part.nStacks ∧ (st = 1 ∨ st = 3) ∧ able) →
        exec (.hbmTraining stack r fails untrained) s = .next s)
    ∧ (stack.val < s.part.nStacks → (st = 1 ∨ st = 3) → able →
        let s1 := (List.range 32).foldl (fun x ch => x.putReg (HBM_LANE stack ch)
          (min (k ch) r % 16 + (r - min (k ch) r) % 16 * 16 + b2n (dead ch || decide (r < k ch)) * 256)) s
        let s2 := if (List.range 32).any (fun ch => decide (0 < min (k ch) r))
            = true then s1.put (HBM_STATUS_LANE_REPAIRED stack) 1 else s1
        let s3 := if bad = true then s2.put (HBM_STATUS_TRAIN_FAIL stack) 1 else s2
        let s4 := s3.put (HBM_STATUS_STATE stack) (if (theStack s stack).toMaint = true then 4 else if bad
            = true then 5 else 2)
        ∃ t, Gives startTry ((s4.putStack stack (fun x => { x with modeRegs := [], served0 := [], toMaint := false, turned := [] })).recapped) () t ∧ exec (.hbmTraining stack r fails untrained) s = .next t)
    ∧ (¬ (port.val < s.part.cxls ∧ fv s (CXL_STATUS_STATE port) = 1 ∧ able) →
        exec (.cxlTraining port width rate cap) s = .next s)
    ∧ (port.val < s.part.cxls → fv s (CXL_STATUS_STATE port) = 1 → able →
        ∃ t, Gives startTry ((s.put (CXL_CAP_GIB_GIB port) cap).cxlTrained port width rate) () t
            ∧ exec (.cxlTraining port width rate cap) s = .next t)
    ∧ exec (.cxlLinkDown port) s = .next (if fv s (CXL_STATUS_STATE port) = 2
        then ((s.put (CXL_STATUS_STATE port) 3).put (CXL_STATUS_LINK_DOWN port) 1).recapped else s)
    ∧ exec (.cxlLinkRetrained port width rate) s = .next (if fv s (CXL_STATUS_STATE port) = 3 ∧ tripped s = false
        then (s.count (CXL_RETRAINS_COUNT port) 1).cxlTrained port width rate else s)

/-- A hint is dropped and counted where the Wagon is disabled or draining, or 64 hints wait, or the Collie's core has no
context; else it queues its consecutive pages. HEAT_EPOCH halves every heat, rounding down, when it is due. The end of
a move is an event of rank 6 of the next tick; taken, it completes only while the pool stack is in service and no
access of the page is outstanding; it copies the page and is no longer a move; an eviction that fails is counted, a
promotion cannot. EN starts and drains the Wagon, and a resume reads the whole directory again. (R407, R409, R410,
R413, R414, R421, R422, R423, R424, R429, R430) -/
def Obligations.HintsQueueAndTheWagonMoves : Prop :=
  (∀ (who : Who) (page : Nat) (count : Fin 4096) (s : State),
    let reg (op : Nat) : State := s.putReg WAGON_HINT (op + page % 2 ^ 31 * 2 ^ 21 + count * 2 ^ 52)
    let pages := (List.range (count + 1)).map (fun i => page % 2 ^ 31 + i)
    let full (op : Nat) : Prop := fv (reg op) WAGON_STATUS_STATE = 0 ∨ fv (reg op) WAGON_STATUS_STATE
        = 2 ∨ 64 ≤ s.wagon.hints.length
    ∀ c op, (c, op) ∈ [(Instr.promote who page count, 1), (.evict who page count, 2), (.pin who page count, 3),
        (.unpin who page count, 4)] →
      (full op → exec c s = .next ((reg op).hintsDropped 1))
      ∧ (¬ full op → who = .controlDie →
          exec c s = .next ((reg op).putWagon (fun w => { w with hints := w.hints ++ [⟨op, none, pages, false⟩] })))
      ∧ (∀ n, ¬ full op → who = .collie n →
          (∀ x, ctxOfCore (reg op) n = some x →
              exec c s = .next ((reg op).putWagon (fun w => { w with hints := w.hints ++ [⟨op, some (x, n), pages, false⟩] })))
          ∧ (ctxOfCore (reg op) n = none → exec c s = .next ((reg op).hintsDropped 1))))
    ∧ (∀ (page : Nat) (errs : List LineErr) (s : State), s.trPend = [] → s.lineErrs = [] →
    exec .heatEpoch s = .next (if halveDue s = true then s.putWagon (fun w => { w with
        heat := msetAll (fun _ => 0) [] (w.heat.map (fun e => (e.1, e.2 / 2))), halved := s.tick }) else s)
    ∧ (moveOf s page = none → exec (.moveComplete page errs) s = .next s ∧ exec (.moveFail page) s = .next s)
    ∧ (∀ m, moveOf s page = some m →
        (m.promote = true → exec (.moveFail page) s = .next s)
        ∧ (m.promote = false →
            let down := ((deepPorts s).find? (fun x => !portUp s x)).getD ((deepPorts s).headD 0)
            exec (.moveFail page) s = .next ((((s.count (CXL_FAILED_COUNT down) 1).moveEnded m).put
                WAGON_STATUS_MOVE_FAIL 1).count WAGON_MOVE_FAILS_COUNT 1))
        ∧ exec (.moveComplete page errs) s = .next (s.latching ⟨6, 2, none, 0, .moveDone page errs⟩)
        ∧ (fv s (HBM_STATUS_STATE (frameAt s m.frame).1) ≠ 2 ∨ deepBusy s m.page = true →
            Gives (moveCompletes page errs) s () s)
        ∧ (∀ o, fv s (HBM_STATUS_STATE (frameAt s m.frame).1) = 2 → deepBusy s m.page = false →
            storageOff s (frameAt s m.frame).1 (frameAt s m.frame).2 = some o →
                (m.promote = true ∨ (deepPorts s).all (portUp s) = true) →
            ∃ t, Gives (moveCopies m (frameAt s m.frame).1 ((frameAt s m.frame).1 * stackBytes + o))
                (s.meeting errs) () t
              ∧ Gives (moveCompletes page errs) s () (t.meeting []) ∧ ∀ x ∈ t.wagon.moves, x ≠ m))
    ∧ (fv s WAGON_STATUS_STATE = 0 → fb s WAGON_CTRL_EN = false →
        let t := (((s.putWagon (fun w => { w with dir := w.dir.filter (fun e => w.dirDue.contains e.1) })).put
          WAGON_POOL_STACKS_MASK (maskOf (stacksUp s))).put WAGON_STATUS_STATE 1).put WAGON_CTRL_EN 1
        exec .wagonEnable s = .next ((t.putWagon (fun w => { w with lost := w.lost.filter (fun d => (dirOf t d).lost) })).recapped))
    ∧ (fv s WAGON_STATUS_STATE ≠ 0 ∨ fb s WAGON_CTRL_EN = true → exec .wagonEnable s = .next (s.put WAGON_CTRL_EN 1))
    ∧ exec .wagonDisable s = .next (if fv (s.put WAGON_CTRL_EN 0) WAGON_STATUS_STATE = 1
        then (s.put WAGON_CTRL_EN 0).put WAGON_STATUS_STATE 2 else s.put WAGON_CTRL_EN 0)
    ∧ exec .wagonDrainComplete s = .next (if drainOver s = true then s.put WAGON_STATUS_STATE 0 else s)
    ∧ (fv s WAGON_STATUS_STATE ≠ 3 → exec (.wagonResumeComplete errs) s = .next s)
    ∧ (fv s WAGON_STATUS_STATE = 3 → ∃ r u,
        Gives (readPhys (viaWagon s) (rg s WAGON_DIR_BASE) (8 * (deepPages s + poolFrames s))) (s.meeting errs) r u ∧
        ((∀ w, r.stop = some (.hold w) → exec (.wagonResumeComplete errs) s = .next (u.meeting []))
        ∧ (r.stop = none → fb s WAGON_CTRL_EN = true → (∀ f, fv s (HBM_STATUS_STATE (frameAt s f).1) ≠ 5) →
            let es := (List.range (deepPages s + poolFrames s)).map (fun i => dirWord s (rg s WAGON_DIR_BASE + 8 * i))
            let heat := (es.take (deepPages s)).zipIdx.map (fun e => (e.2, (DirEnt.of e.1).heat))
            exec (.wagonResumeComplete errs) s
              = .next (((u.putWagon (fun w => { w with heat := msetAll (fun _ => 0) [] heat })).put
                  WAGON_STATUS_STATE 1).meeting [])))))

/-- An access outside deep memory does nothing; beyond the fitted memory the context faults with kind ACCESS, code 0, or
the requester gets an error; a page being moved makes it wait; where the directory's entry is read, a page at home in
the deep tier is read from it or is outstanding at its port, and a page in the pool is read from HBM; with the Wagon
DISABLED no entry is read. An outstanding access becomes late once past DEEP_LATE ticks, fails once past DEEP_FAIL and
answers free, poisoned bytes, and an answer that comes after the failure is discarded and counted. (R396, R398, R399,
R400, R403, R420, R433, R434, R435, R703) -/
def Obligations.DeepAccessesFollowTheirPage : Prop :=
  (∀ (req : Fin 73) (addr va : Nat) (reply : Option Nat) (errs : List LineErr) (s : State),
    s.trPend = [] → s.lineErrs = [] →
    (∀ (ctx : Option (Fin 16)) (leaf2 : Bool) (data : Option (Nat × Nat)), (∀ off, regionOf s.part addr ≠ .deep off) →
        regionOf s.part addr ≠ .reserved →
      exec (.deepAccess req ctx addr va leaf2 data reply errs) s = .next s)
    ∧ ((regionOf s.part addr = .reserved ∨ ∃ off, regionOf s.part addr = .deep off ∧ deepFitted s ≤ off) →
        (∀ (c : Fin 16) (leaf2 : Bool) (data : Option (Nat × Nat)),
            exec (.deepAccess req (some c) addr va leaf2 data reply errs) s
          = .next ((s.faulting ⟨1, 0, c, 0xFF, 0xFFFF, none, 0, va, 0⟩).says (.notPerformed va)))
        ∧ (64 ≤ req.val → ∀ (leaf2 : Bool) (data : Option (Nat × Nat)),
            exec (.deepAccess req none addr va leaf2 data reply errs) s = .next (s.says (.errorStatus addr))))
    ∧ (∀ off (ctx : Option (Fin 16)) (leaf2 : Bool) (data : Option (Nat × Nat)), regionOf s.part addr = .deep off →
        off < deepFitted s →
        let q : DeepWait := ⟨req, ctx.map Fin.val, addr, if ctx.isSome = true then va else addr, leaf2,
            data.map (fun w => (w.1 % 2 ^ 2048, w.2 % 2 ^ 2048)), reply⟩
        let run : Host.Outcome State Fault Refusal := exec (.deepAccess req ctx addr va leaf2 data reply errs) s
        let hot (w : WagonSt) : SMap Nat := mset (fun _ => 0) w.touched (deepIdx off)
            (mget (fun _ => 0) w.touched (deepIdx off) + 1)
        let warm (t : State) : State := if leaf2 = true then t.putWagon (fun w => { w with touched := hot w }) else t
        let acc (t : State) (o : Nat) (leaf1 : Bool) : DeepAcc := ⟨t.deepNext, o, q.va, t.tick, q.ctx, req, q.data,
          if portUp t (deepPort t o) = true then reply.map (t.tick + ·) else none, false, false, leaf1, false⟩
        let out (t : State) (o : Nat) (leaf1 : Bool) : State :=
          (t.putDeepNext (· + 1)).putCxl (deepPort t o) (fun c => { c with out := c.out ++ [acc t o leaf1] })
        (ctx.isSome = true → leaf2 = false → (portUp s (deepPort s off) = false ∨ reply ≠ some 0) →
            run = .next (out s off true))
        ∧ (¬ (ctx.isSome = true ∧ leaf2 = false) →
            (rsrcOf s addr ≠ none ∨ inTransit s (deepIdx off) = true →
              let t := s.putWagon (fun w => { w with waiting := w.waiting ++ [q] })
              run = .next (match q.ctx with | some c => t.count (CTX_LOCK_WAITS_COUNT c) 1 | none => t))
            ∧ (rsrcOf s addr = none → inTransit s (deepIdx off) = false →
                (∀ o l, fv s WAGON_STATUS_STATE = 0 → homeOf s off = .named o l →
                    (portUp s (deepPort s o) = false ∨ reply ≠ some 0) →
                  run = .next (out (warm s) o false))
                ∧ (∀ u, Gives (deepDir q (deepIdx off)) (s.meeting errs) true u →
                    (∀ o l, homeOf u off = .named o l → (portUp u (deepPort u o) = false ∨ reply ≠ some 0) →
                        Ends run ((out (warm u) o false).meeting []))
                    ∧ (∀ o l, homeOf u off = .named o l → portUp u (deepPort u o) = true → reply = some 0 →
                        data = none →
                        ∃ r v, Gives (readDeepLine (viaDeep req q.ctx q.va false) o l) (warm u) r v ∧
                          ∀ bs, r = .data bs false → Ends run ((v.says (.bytes (q.va - q.va % 256) bs
                              false)).meeting []))
                    ∧ (∀ st o, homeOf u off = .pool st o → data = none →
                        ∃ r v, Gives (readHbm reqWagon 2 st o 0) u r v ∧
                          ∀ bs, r = .data bs false → Ends run (((warm v).says (.bytes (q.va - q.va % 256) bs
                              false)).meeting [])))))))
    ∧ (∀ (port : Fin 8) (id : Nat) (s : State), s.trPend = [] →
    (deepOf s port id = none → exec (.deepAccessLate port id) s = .next s ∧ exec (.deepAccessFail port id) s = .next s
        ∧ exec (.lateAnswerDiscard port id) s = .next s)
    ∧ ∀ a, deepOf s port id = some a →
      let is (f : DeepAcc → DeepAcc) (t : State) : State := t.putCxl port (fun c =>
          { c with out := c.out.map (fun b => if b.id = a.id then f b else b) })
      let late := a.late = false ∧ a.failed = false ∧ a.issued + fv s WAGON_DEEP_LATE_TICKS < s.tick
      let counted (g : Nat → Fld) (t : State) : State := match a.ctx with | some c => t.count (g c) 1 | none => t
      (¬ late → exec (.deepAccessLate port id) s = .next s)
      ∧ (late → exec (.deepAccessLate port id) s
          = .next (counted CTX_DEEP_LATE_N_COUNT ((is (fun b => { b with late := true }) s).count
          (CXL_LATE_COUNT port) 1)))
      ∧ (deepFailDue s a = false → exec (.deepAccessFail port id) s = .next s)
      ∧ (deepFailDue s a = true → a.write = none → a.ctx = none →
          let t := ((s.ranked 4).putCxl port (fun c => { c with out := c.out.map (fun b => if b.id = id then { b with failed := true } else b) })).count
              (CXL_FAILED_COUNT port) 1
          exec (.deepAccessFail port id) s = .next (if a.polled = true then t else (t.putFreeCtr (· + 256)).says
              (.bytes (a.va - a.va % 256) ((List.range 256).map (fun i => Config.freeByte (s.freeCtr + i))) true)))
      ∧ (a.failed = false → exec (.lateAnswerDiscard port id) s = .next s)
      ∧ (a.failed = true → exec (.lateAnswerDiscard port id) s
          = .next ((s.putCxl port (fun c => { c with out := c.out.filter (fun b => b.id != a.id) })).count
              WAGON_LATE_DISCARD_COUNT 1)))

/-- RECOMP_ACK latches its event and RECOMP_EXPIRY of a request that is late removes that request and no other.
SCRUB_GROUP, when due, scrubs the 64 lines at the position and moves it on, counting a pass at the end. RETIRE is the
control die's and names a stack of the device: a page or slot that cannot be taken gives RESULT REJECTED, else the
retirement is under way; it completes with a live history entry of kind 5 once no frame move holds it and the stack is
in service. (R449, R450, R453, R463, R464, R465, R467, R468, R469, R470, R472) -/
def Obligations.RecomputeScrubAndRetirement : Prop :=
  ∀ (ctx : Fin 16) (q : Nat) (stack : Fin 12) (who : Who) (page slot : Nat) (errs : List LineErr) (s : State),
      s.lineErrs = [] →
    exec (.recompAck ctx q) s = .next ((s.putReg (CTX_RECOMP_ACK ctx) q).latching
        ⟨6, 1, some ctx, 0, .recompAck ctx (q % 65536)⟩)
    ∧ (recompLate s ctx q = false → exec (.recompExpiry ctx q) s = .next s)
    ∧ (recompLate s ctx q = true → ∃ t, exec (.recompExpiry ctx q) s = .next t
        ∧ (theCtx t ctx).recomp = (theCtx s ctx).recomp.filter (fun r => r.num != q))
    ∧ (scrubDue s stack = false → exec (.scrubGroup stack errs) s = .next s)
    ∧ (scrubDue s stack = true → let g := fv s (HBM_SCRUB_POS_GROUP stack)
        ∃ u, Gives (each (List.range 64) (fun i => scrubLine stack (stack * stackBytes + (64 * g + i) * 256)))
            ((s.meeting errs).putStack stack (fun k => { k with lastScrub := s.tick })) () u ∧
          exec (.scrubGroup stack errs) s
              = .next ((if g + 1 = scrubGroups then (u.putReg (HBM_SCRUB_POS stack) 0).count
              (HBM_SCRUB_PASSES_COUNT stack) 1
            else u.putReg (HBM_SCRUB_POS stack) (g + 1)).meeting []))
    ∧ (¬ (who = .controlDie ∧ stack.val < s.part.nStacks) → exec (.retire who stack page slot) s = .next s)
    ∧ (stack.val < s.part.nStacks → let t := s.putReg (HBM_RETIRE stack) (page % 65536 + slot % 512 * 2 ^ 16)
        let no := 64256 ≤ page % 65536 ∨ slotFree t stack (slot % 512)
            = false ∨ 512 ≤ (remaps t stack).length ∨ (theStack s stack).retire ≠ none
        (no → exec (.retire .controlDie stack page slot) s = .next (t.put (HBM_RETIRE_STATUS_RESULT stack) 3))
        ∧ (¬ no → exec (.retire .controlDie stack page slot) s
            = .next ((t.put (HBM_RETIRE_STATUS_RESULT stack) 1).putStack stack
            (fun k => { k with retire := some ⟨page % 65536, slot % 512, frameMoves t stack (page % 65536)⟩ }))))
    ∧ ((∀ r, (theStack s stack).retire = some r → r.waits = true ∨ fv s (HBM_STATUS_STATE stack) ≠ 2) →
        exec (.retireComplete stack errs) s = .next s)
    ∧ (∀ r, (theStack s stack).retire = some r → r.waits = false → fv s (HBM_STATUS_STATE stack) = 2 →
        ∃ t, exec (.retireComplete stack errs) s = .next t
        ∧ (theStack t stack).retire = none ∧ ∃ e, t.history.getLast? = some e ∧ e.kind = 5 ∧ e.unit = stack
            ∧ e.data = r.page + r.slot * 2 ^ 16 ∧ e.live = true)

/-- The end of a port's training goes out of service where the port is disabled or fewer than 8 wavelengths pass in a
direction, and else trains with them. A wavelength's corrections are shown and counted when its monitoring window
closes; one past the limit, or an uncorrectable word, degrades it. A lane swap is acknowledged by the receiver, goes
at the sender, and takes effect at the switch marker, with the lane moved to its spare or dropped and the port's state
by the lanes left. (R496, R497, R498, R499, R500, R501, R502, R503, R504, R505) -/
def Obligations.PortsTrainAndLanesMoveToTheirSpares : Prop :=
  (∀ (port : Fin 32) (tx rx peer : Nat) (w : Fin 18) (corr : Nat) (s : State),
    let st := fv s (PORT_STATUS_STATE port)
    let able := port.val < s.part.ports ∧ (st = 1 ∨ st = 4) ∧ 6 ≤ fv s CHAIN_START_PHASE ∧ tripped s = false
    (¬ able → exec (.portTraining port tx rx peer) s = .next s)
    ∧ (able → (fb s (PORT_CTRL_ENABLE port) = false ∨ (passing tx).length < 8 ∨ (passing rx).length < 8) →
        ∃ t, Gives (portOut port) s () t
            ∧ ((thePort t port).retry = [] ∧ (thePort t port).queue = [] ∧ fv t (PORT_STATUS_STATE port) = 5
          ∧ ∃ u, Gives startTry t.recapped () u ∧ exec (.portTraining port tx rx peer) s = .next u))
    ∧ (able → fb s (PORT_CTRL_ENABLE port) = true → 8 ≤ (passing tx).length → 8 ≤ (passing rx).length →
        ∃ t, Gives (trainPort port tx rx peer) s () t
            ∧ (∃ u, Gives startTry t () u ∧ exec (.portTraining port tx rx peer) s = .next u))
    ∧ (¬ (portCarries s port = true ∧ waveOf s (PORT_WL_RX port) w ≤ 1) →
        ∀ b, exec (.wavelengthDegrade port w corr b) s = .next s)
    ∧ (portCarries s port = true → waveOf s (PORT_WL_RX port) w ≤ 1 →
        let t := (s.put (PORT_WL_CORR_COUNT port w) (min (2 ^ 32 - 1) corr))
        let t := if corr = 0 then t else t.count (PORT_FEC_CORR_COUNT port) corr
        (s.tick < monClose s port → exec (.wavelengthDegrade port w corr false) s = .next s)
        ∧ (monClose s port ≤ s.tick → corr ≤ fv s (PORT_FEC_LIMIT_SYMBOLS port) →
            exec (.wavelengthDegrade port w corr false) s = .next t)
        ∧ (monClose s port ≤ s.tick → fv s (PORT_FEC_LIMIT_SYMBOLS port) < corr → ∃ u, Gives (degrade port w) t () u
            ∧ exec (.wavelengthDegrade port w corr false) s = .next u)
        ∧ (∃ u, Gives (degrade port w) (s.count (PORT_FEC_UNCORR_COUNT port) 1) () u
            ∧ exec (.wavelengthDegrade port w corr true) s = .next u)))
    ∧ (∀ (port : Fin 32) (lane : Fin 16) (spare : Option (Fin 18)) (s : State),
    exec (.swapReq port lane spare) s = .next (if portCarries s port = true
        then (s.putPort port (fun x => { x with txSwap := some ⟨lane, spare.map Fin.val⟩ })).says (.swapAck port)
            else s)
    ∧ ((thePort s port).rxSwap = none → exec (.swapAck port) s = .next s ∧ exec (.switchMarker port) s = .next s)
    ∧ (∀ q, (thePort s port).rxSwap = some q →
        let at_ (n : Nat) : State := s.putPort port (fun x => { x with rxSwap := some { q with phase := n, since := s.tick } })
        exec (.swapAck port) s = .next (if q.phase
            = 0 then (if q.spare = none then (at_ 2).says (.swapGo port) else at_ 1) else s)
        ∧ (q.phase ≠ 2 ∨ portCarries s port = false → exec (.switchMarker port) s = .next s)
        ∧ (q.phase = 2 → portCarries s port = true →
            ∃ t, Gives (applySwap (PORT_LMAP_RX0 port) (PORT_LMAP_RX1 port) (PORT_WL_RX port)
            (PORT_STATUS_RX_LANES port) (PORT_STATUS_RX_SPARES port) q.lane q.spare)
              (s.putPort port (fun x => { x with rxSwap := none, swapTick := s.tick })) () t ∧
            (let u := if q.spare = none then (t.count (PORT_DROPS_COUNT port) 1).put (PORT_STATUS_DROPPED port) 1
              else (t.count (PORT_SWAPS_COUNT port) 1).put (PORT_STATUS_SWAPPED port) 1
            exec (.switchMarker port) s = .next ((u.put (PORT_STATUS_STATE port)
              (laneState (fv u (PORT_STATUS_TX_LANES port)) (fv u (PORT_STATUS_RX_LANES port)))).recapped))))
    ∧ ((thePort s port).txSwap = none ∨ portCarries s port = false → exec (.swapGo port) s = .next s)
    ∧ (∀ q, (thePort s port).txSwap = some q → portCarries s port = true →
        ∃ u, Gives (applySwap (PORT_LMAP_TX0 port) (PORT_LMAP_TX1 port) (PORT_WL_TX port)
        (PORT_STATUS_TX_LANES port) (PORT_STATUS_TX_SPARES port) q.lane q.spare)
          ((s.says (.marker port)).putPort port (fun x => { x with txSwap := none })) () u
              ∧ exec (.swapGo port) s = .next ((u.put (PORT_STATUS_STATE port)
              (laneState (fv u (PORT_STATUS_TX_LANES port)) (fv u (PORT_STATUS_RX_LANES port)))).recapped)))

/-- Each kind of packet is accepted only by a device with a node address, at a port that carries,
    with a good CRC and the
next LSEQ: it is acknowledged, its payload counted, and it is routed on or delivered here. Any other is dropped with
one replay request until the right one comes. A replay request sends every unacknowledged packet from its LSEQ again;
an acknowledgement frees them; after RETRY_LIMIT replays or the link's timeout the port goes down and its reset is
latched. (R509, R510, R512, R513, R514, R520, R521, R529) -/
def Obligations.PacketsAreRetriedAcceptedAndRouted : Prop :=
  (∀ (port : Fin 32) (crcOk : Bool) (lseq : Nat) (p : Packet) (errs : List LineErr) (c : Instr) (kind : Nat)
      (s : State),
    s.trPend = [] → s.lineErrs = [] →
    (c, kind) ∈ [(Instr.dataPacket port crcOk lseq p errs, 0), (.rts port crcOk lseq p errs, 1),
        (.grant port crcOk lseq p errs, 2), (.ack port crcOk lseq p errs, 3),
      (.refuse port crcOk lseq p errs, 4), (.xdata port crcOk lseq p errs, 5), (.mgmt port crcOk lseq p errs, 6)] →
    let x := thePort s port
    let q := { p with kind := kind }
    (portCarries s port = false ∨ nodeOf s = 0 → exec c s = .next s)
    ∧ (portCarries s port = true → nodeOf s ≠ 0 → ¬ (crcOk = true ∧ lseq = x.rxNext) →
        let t := if crcOk = true then s else s.count (PORT_CRC_ERRORS_COUNT port) 1
        let t := if x.rxHold = false ∨ lseq = x.rxNext then t.says (.replayRequest port x.rxNext) else t
        exec c s = .next (t.putPort port (fun y => { y with rxHold := true })))
    ∧ (portCarries s port = true → nodeOf s ≠ 0 → crcOk = true → lseq = x.rxNext →
        let t := (s.putPort port (fun y => { y with rxNext := (y.rxNext + 1) % 65536, rxHold := false })).says
            (.linkAck port lseq)
        let t := if p.payload.length = 0 then t else t.count (PORT_RX_BYTES_COUNT port) p.payload.length
        ∃ here u, Gives (routePacket port q) (t.meeting errs) here u ∧
          ((here = false → Ends (exec c s) (u.meeting []))
          ∧ (here = true → ∃ v, Gives (deliver port q) u () v ∧ Ends (exec c s) (v.meeting [])))))
    ∧ (∀ (port : Fin 32) (lseq : Nat) (s : State),
    (portCarries s port = false → exec (.replayRequest port lseq) s = .next s
        ∧ exec (.linkAck port lseq) s = .next s ∧ exec (.linkDown port) s = .next s)
    ∧ (portCarries s port = true →
        let x := thePort s port
        exec (.replayRequest port lseq) s
            = .next ((((thePort s port).retry.filter (fun e => seqDist (lseq % 65536) e.1 < 32768)).foldl
            (fun t e => t.says (.packet port e.1 e.2))
          ((s.count (PORT_REPLAYS_COUNT port) 1).putPort port (fun x => { x with
            replayAt := some (lseq % 65536), replayN := if x.replayAt = some (lseq % 65536) then x.replayN + 1
                else 1 }))))
        ∧ (∃ t, Gives (pumpPort port) (s.putPort port (fun x => { dropAcked (lseq % 65536) x with ackTick := s.tick, replayAt := none, replayN := 0 })) () t ∧ exec (.linkAck port lseq) s = .next t)
        ∧ exec (.linkDown port) s = .next (
            if max 1 (fv s (PORT_RETRY_LIMIT_COUNT port)) ≤ x.replayN ∨ (x.retry ≠ []
                ∧ x.ackTick + fv s (PORT_LINK_TIMEOUT_TICKS port) < s.tick)
            then (((((s.put (PORT_STATUS_STATE port) 4).put (PORT_STATUS_LINK_DOWN port) 1).count
                (PORT_LINK_DOWNS_COUNT port) 1).latching
              ⟨2, 4, none, port, .reset 4 port⟩).recapped) else s)))

/-- An armed route switch acts at its tick. A write to a route entry of the current page, the armed page or a page with
packets held is dropped with PAGE_BUSY. A write of XFER_RING that moves the ring is dropped with CFG_REJECT while EN
is set or a transfer is active; a Collie's write is ignored. The ring's PUB is sampled and transfers go on; offers and
transfers past their time expire. (R525, R527, R538, R544, R545, R548, R551) -/
def Obligations.RoutesRingsAndTransfers : Prop :=
  (∀ (page : Fin 4) (e : Fin 320) (data : Nat) (who : Who) (s : State),
    exec .routeSwitch s = .next (if fb s PORT_ROUTE_STATUS_ARMED = true ∧ rg s PORT_SWITCH_AT ≤ s.tick
        then (s.put PORT_ROUTE_STATUS_CURRENT (fv s PORT_ROUTE_CTRL_NEXT)).put PORT_ROUTE_STATUS_ARMED 0 else s)
    ∧ (let busy := page = fv s PORT_ROUTE_STATUS_CURRENT ∨ (fb s PORT_ROUTE_STATUS_ARMED = true
        ∧ page = fv s PORT_ROUTE_CTRL_NEXT)
          ∨ (s.ports.any (fun x => x.2.queue.any (fun p => p.page = page && !p.mcast) || x.2.retry.any
              (fun r => r.2.page = page && !r.2.mcast))) = true
       exec (.routeEntryWrite page e data) s
           = .next (if busy then s.put PORT_ROUTE_STATUS_PAGE_BUSY 1
           else s.putReg (PORT_ROUTE0 e + 0x1000 * page) data))
    ∧ (let same := bits data 1 5 = bits (rg s PORT_XFER_RING) 1 5 ∧ bits data 10 38 = bits (rg s PORT_XFER_RING) 10 38
       let busy := bit (rg s PORT_XFER_RING) 0 = true ∨ s.fab.xfers ≠ []
       (who ≠ .controlDie → exec (.xferRingWrite who data) s = .next s)
       ∧ exec (.xferRingWrite .controlDie data) s = .next (if same then s.putReg PORT_XFER_RING data
           else if busy then s.put PORT_XFER_CFG_CFG_REJECT 1
           else (s.putReg PORT_XFER_RING data).putFab (fun x => { x with ring := { x.ring with fresh := true } }))))
    ∧ (∀ (errs : List LineErr) (s : State), s.trPend = [] → s.lineErrs = [] →
    (∃ t u, Gives (faultsNow (each s.fab.offers offerExpired)) s () t ∧ Gives (each s.fab.xfers xferExpired) t () u
        ∧ Ends (exec .e2eTimeout s) u)
    ∧ (s.fab.offers = [] → s.fab.xfers = [] → s.due = [] → exec .e2eTimeout s = .next s)
    ∧ (ringOn s = false → exec (.xferPubSample errs) s = .next s)
    ∧ (ringOn s = true → ∃ t u, Gives ringSample (s.meeting errs) () t ∧ Gives (xferPump 64) t () u
        ∧ Ends (exec (.xferPubSample errs) s) (u.meeting [])))

/-- A Collie's key, slot and ROSTER_GEN commands do nothing. KEY_INSTALL of a context that is neither EMPTY nor
    SAVED ends
with result 8, with no identity with 7, with a bad blob in that check's code, with a key that does not open in 4, and
else installs the key with result 2; KEY_ERASE removes it. A generation slot goes from EMPTY to LOADING, READY and
back as the commands say, with no effect in the wrong state or while work holds it. (R563, R564, R565, R566, R573,
R578) -/
def Obligations.KeysAndGenerationSlotsFollowTheirCommands : Prop :=
  ∀ (who : Who) (ctx : Fin 16) (k : Fin 4) (data : Nat) (errs : List LineErr) (s : State), s.lineErrs = [] →
    (who ≠ .controlDie → exec (.keyInstall who ctx errs) s = .next s ∧ exec (.keyErase who ctx) s = .next s
        ∧ exec (.gslotLoad who ctx k) s = .next s
      ∧ exec (.gslotReady who ctx k) s = .next s ∧ exec (.gslotAbandon who ctx k) s = .next s
          ∧ exec (.rosterGenWrite who ctx data) s = .next s)
    ∧ (let t := s.put SEC_KEY_CMD_CTX ctx
       let ends (code : Nat) (u : State) : Prop := exec (.keyInstall .controlDie ctx errs) s
           = .next ((u.put SEC_KEY_STATUS_RESULT code).meeting [])
       (ctxState t ctx ≠ 0 → ctxState t ctx ≠ 4 → ends 8 t)
       ∧ (ctxState t ctx = 0 ∨ ctxState t ctx = 4 → fv t SEC_STATUS_IDENTITY ≠ 1 → ends 7 t)
       ∧ (ctxState t ctx = 0 ∨ ctxState t ctx = 4 → fv t SEC_STATUS_IDENTITY = 1 →
           ∃ r u, Gives (readPhys viaDie (rg t SEC_KEY_SRC) 1792) (t.meeting errs) r u ∧
             ((∀ code, blobCode t r.bs (r.poison || r.stop.isSome) = some code → ends code u)
             ∧ (blobCode t r.bs (r.poison || r.stop.isSome) = none → openBlob r.bs = none → ends 4 u)
             ∧ (∀ key, blobCode t r.bs (r.poison || r.stop.isSome) = none → openBlob r.bs = some key →
                 ends 2 (u.putCtx ctx (fun x => { x with key := some (key, fieldAt r.bs 0x18 8) })))))
       ∧ exec (.keyErase .controlDie ctx) s = .next (t.putCtx ctx (fun x => { x with key := none })))
    ∧ (let st := fv s (CTX_GSLOTk_STATE ctx k)
       let to_ (b : Bool) (v : Nat) : State := if b = true then s.put (CTX_GSLOTk_STATE ctx k) v else s
       exec (.gslotLoad .controlDie ctx k) s = .next (to_ (st = 0) 1)
       ∧ exec (.gslotReady .controlDie ctx k) s = .next (to_ (st = 1) 2)
       ∧ exec (.gslotAbandon .controlDie ctx k) s = .next (to_ ((st = 1 || st = 2) && holders s ctx k = 0) 0))
    ∧ exec (.rosterGenWrite .controlDie ctx data) s = .next (s.putReg (CTX_ROSTER_GEN ctx) data)

/-- An armed switch whose tick has come makes the named READY slot CURRENT and the previous CURRENT slot, if any,
RETIRING; when the named slot is CURRENT nothing but the arming changes; in every other case SWITCH_REJECT is set. A
switch that is not due does nothing. (R580) -/
def Obligations.GenerationSwitchesFollowTheNamedSlot : Prop :=
  ∀ (ctx : Fin 16) (s : State),
    let due := fb s (CTX_GEN_STATUS_ARMED ctx) = true ∧ rg s (CTX_GEN_AT ctx) ≤ s.tick
    let t := (s.ranked 5).put (CTX_GEN_STATUS_ARMED ctx) 0
    let n := fv t (CTX_GEN_SWITCH_SLOT ctx)
    let u := if fb t (CTX_GEN_STATUS_HAS_CURRENT ctx)
        = true then t.put (CTX_GSLOTk_STATE ctx (fv t (CTX_GEN_STATUS_CURRENT ctx))) 4 else t
    (¬ due → exec (.genSwitch ctx) s = .next s)
    ∧ (due → fv t (CTX_GSLOTk_STATE ctx n) = 2 → exec (.genSwitch ctx) s
         = .next (((u.put (CTX_GSLOTk_STATE ctx n) 3).put (CTX_GEN_STATUS_CURRENT ctx) n).put
             (CTX_GEN_STATUS_HAS_CURRENT ctx) 1))
    ∧ (due → fv t (CTX_GSLOTk_STATE ctx n) = 3 → exec (.genSwitch ctx) s = .next t)
    ∧ (due → fv t (CTX_GSLOTk_STATE ctx n) ≠ 2 → fv t (CTX_GSLOTk_STATE ctx n) ≠ 3 → exec (.genSwitch ctx) s
         = .next (t.put (CTX_GEN_STATUS_SWITCH_REJECT ctx) 1))

/-- VERIFY_CMD queues a verification, or sets VERIFY_OVF with 16 waiting; the engine takes the oldest, counts its lines,
and places its result last, counting a failure; a read of VERIFY_DONE takes the oldest result and reads 0 with none.
RSRC_REQ reads the oldest open request; RSRC_DONE latches its event; a request past RSRC_LIMIT expires and is removed.
A report is given only by a device with an identity. (R567, R568, R569, R570, R583, R584, R585, R594, R596) -/
def Obligations.SealsReSourcesAndReports : Prop :=
  (∀ (who : Who) (ctx entry : Fin 16) (errs : List LineErr) (s : State), s.trPend = [] → s.lineErrs = [] →
    (who ≠ .controlDie → exec (.verifyQueue who ctx entry) s = .next s)
    ∧ exec (.verifyQueue .controlDie ctx entry) s = .next (if 16 ≤ s.sec.queue.length then s.put SEC_STATUS_VERIFY_OVF 1
        else ((s.putReg SEC_VERIFY_CMD (ctx + 16 * entry)).putSec (fun x => { x with
          queue := x.queue ++ [⟨ctx, entry, fv s SEC_VERIFY_FIRST_LINE, fv s SEC_VERIFY_COUNT_LINES⟩]
              })).put SEC_VERIFY_STATUS_QUEUED (s.sec.queue.length + 1))
    ∧ (s.sec.queue = [] → exec (.verifyComplete errs) s = .next s)
    ∧ (∀ v rest, s.sec.queue = v :: rest →
        ∃ r u, Gives (verifyLines v.ctx v.entry v.count v.first) (s.meeting errs) r u ∧
        ((r = none → Ends (exec (.verifyComplete errs) s) (u.meeting []))
        ∧ (∀ bad, r = some bad →
            let t := (u.putSec (fun x => { x with queue := rest, done := x.done ++ [⟨v.ctx, v.entry, !bad.isEmpty, bad.headD 0, min 255 bad.length⟩] })).put
              SEC_VERIFY_STATUS_QUEUED rest.length
            let t := if v.count = 0 then t else t.count SEC_VERIFY_LINES_COUNT v.count
            Ends (exec (.verifyComplete errs) s)
              ((if bad = [] then t else (t.count SEC_VERIFY_FAILS_COUNT 1).put SEC_STATUS_VERIFY_FAIL 1).meeting []))))
    ∧ (s.sec.done = [] → exec .verifyDoneRead s = .next (s.says (.regValue SEC_VERIFY_DONE 0)))
    ∧ (∀ d rest, s.sec.done = d :: rest →
        exec .verifyDoneRead s = .next ((s.putSec (fun x => { x with done := rest })).says
        (.regValue SEC_VERIFY_DONE (d.ctx + 16 * d.entry + 256 + 512 * b2n d.fail + d.firstBad % 2 ^ 40 * 2 ^ 16 +
            d.bad * 2 ^ 56)))))
    ∧ (∀ (page : Nat) (nonce : List Byte) (s : State), s.trPend = [] →
    (s.wagon.rsrc = [] → exec .rsrcReqRead s = .next (s.says (.regValue WAGON_RSRC_REQ 0)))
    ∧ (∀ r rest, s.wagon.rsrc = r :: rest →
        exec .rsrcReqRead s = .next (s.says (.regValue WAGON_RSRC_REQ (1 + r.page % 2 ^ 48))))
    ∧ (let base := page % 2 ^ 48 - page % page2M
       exec (.rsrcDone page) s = .next ((s.putReg WAGON_RSRC_DONE base).latching ⟨6, 2, none, 0, .rsrcDone base⟩))
    ∧ ((∀ r ∈ s.wagon.rsrc, r.page = page → s.tick ≤ r.opened + fv s WAGON_RSRC_LIMIT_TICKS) →
        exec (.rsrcExpiry page) s = .next s)
    ∧ (∀ r, s.wagon.rsrc.find? (fun r => r.page = page && decide (r.opened + fv s WAGON_RSRC_LIMIT_TICKS < s.tick))
        = some r →
        ∃ t, Gives (rsrcExpires page) s () t ∧ (t.wagon.rsrc = s.wagon.rsrc.filter (fun r => r.page != page)
          ∧ Ends (exec (.rsrcExpiry page) s) t))
    ∧ (fv s SEC_STATUS_IDENTITY ≠ 1 → exec (.attestRequest nonce) s = .next s)
    ∧ (fv s SEC_STATUS_IDENTITY = 1 → ∃ serial t, Gives freeWord s serial t
        ∧ exec (.attestRequest nonce) s = .next (t.says (.report (report t serial nonce)))))

/-- Each kind of frame is ignored on a link that is down; one with a bad CRC or another type is counted as an error; one
with another HSEQ is counted and the last accepted HSEQ acknowledged again; the expected one is counted, acknowledged
and acted on, on the link its kind comes from. (R599, R600, R601, R602, R606, R625, R626) -/
def Obligations.ChainFramesAreAcceptedInOrder : Prop :=
  ∀ (link crcOk : Bool) (hseq loop : Nat) (f : Frame) (errs : List LineErr) (c : Instr) (code : Nat) (m : M Unit)
      (s : State),
    s.lineErrs = [] →
    (c, code, m) ∈ [(Instr.token link crcOk hseq f, 1, when' link (tokenIn f)),
        (.nodeAssign link crcOk hseq f, 2, when' link (onChain (nodeAssignIn f))),
      (.offer link crcOk hseq f, 4, onChain (offerIn link f)),
          (.chainData link crcOk hseq f errs, 5, when' link (onChain (dataIn f))),
      (.result link crcOk hseq f, 6, when' (!link) (onChain (resultIn f))),
          (.delay link crcOk hseq f loop, 7, delayIn link f loop),
      (.chainMgmt link crcOk hseq f, 8, onChain (mgmtIn link f))] →
    let next := (hopOf s (!link)).rxNext
    let met := if code = 5 then errs else []
    (hopUp s (!link) = false → exec c s = .next s)
    ∧ (hopUp s (!link) = true →
        (crcOk = false ∨ f.type ≠ code → exec c s = .next (s.count CHAIN_CRC_ERRORS_COUNT 1))
        ∧ (crcOk = true → f.type = code → hseq % 65536 ≠ next →
            exec c s = .next ((s.count CHAIN_CRC_ERRORS_COUNT 1).hopAcked (!link)))
        ∧ (crcOk = true → f.type = code → hseq % 65536 = next →
            ∃ t, Gives m (((((s.meeting met).putHop (!link) (fun h => { h with rxNext := (h.rxNext + 1) % 65536 })).count CHAIN_FRAMES_RX_COUNT 1).hopAcked (!link))) () t ∧
            exec c s = .next (t.meeting [])))

/-- A TOKEN gives a device that awaits one its address and is passed on; address 63 or more sets OVERLONG. The
    device with
no upstream becomes the head at address 1. The count, a multiple of 64, is loaded at the next frame start after the
address; the device is locked if its edges are within 50 ns, and else slews. A link that comes up resends what is
unacknowledged; acknowledgements free frames; frames not acknowledged for 200 ticks go again; a staged object not
completed in its time is dropped; a late upstream link of the head is only recorded. (R26, R600, R602, R603, R604,
R605, R606, R607, R608, R627) -/
def Obligations.AddressesAndCountsComeDownTheChain : Prop :=
  ∀ (loop : Nat) (back : TickBack) (link crcOk : Bool) (hseq xfer : Nat) (f : Frame) (s : State),
    let a : Nat := fieldAt f.payload 0 1
    (awaitsAddr s = false → Gives (tokenIn f) s () s)
    ∧ (awaitsAddr s = true → 63 ≤ a → Gives (tokenIn f) s () (s.put CHAIN_STATUS_OVERLONG 1))
    ∧ (awaitsAddr s = true → a < 63 → a ≠ 0 →
        ∃ t, Gives passToken ((s.put CHAIN_ADDR_ADDRESS (a + 1)).putTime (fun x =>
        { x with load := true, keep := false })) () t ∧ Gives (tokenIn f) s () t)
    ∧ (let head := fv s CHAIN_START_PHASE = 3 ∧ startMode s = 0 ∧ ownAddr s = 0 ∧ hopUp s false = false
       (¬ head → exec .headDecision s = .next s)
       ∧ (head → ∃ t u v, Gives masterTick ((s.put CHAIN_STATUS_HEAD 1).put CHAIN_ADDR_ADDRESS 1) () t
           ∧ Gives passToken t () u ∧ Gives leavePhase3 u () v ∧
            exec .headDecision s = .next v))
    ∧ (let starts := s.time.load = true ∧ hopUp s false = true ∧ back.count % 64 = 0
       let near := -50000 ≤ signed back.offset 32 ∧ signed back.offset 32 ≤ 50000
       (¬ starts → exec (.tickCountLoad back) s = .next s)
       ∧ (starts → ∃ t, Gives leavePhase3 (((((s.putTick (fun _ => back.count % 2 ^ 64)).putTime (fun t => { t with
             load := false, missing := 0, slew := !decide near })).putReg TIME_OFFSET back.offset).put TIME_STATUS_LOCKED
             (if near then 1 else 0)).put TIME_STATUS_HOLDOVER 0) () t ∧ exec (.tickCountLoad back) s = .next t))
    ∧ exec (.chainLinkLost link) s = .next (if hopUp s (!link)
        = true then (s.put (linkFld (!link)) 0).put CHAIN_STATUS_LINK_LOST 1 else s)
    ∧ (hopUp s (!link) = true → exec (.chainLinkUp link loop) s = .next s)
    ∧ (let t := (s.put (linkFld (!link)) 1).putHop (!link) (fun h => ⟨0, 0, [], h.unacked.map Prod.snd ++ h.queue,
        s.tick⟩)
       hopUp s (!link) = false → ∃ u, Gives (pumpHop (!link)) t () u ∧
        ((link = true → fb s CHAIN_STATUS_HEAD = true →
            exec (.chainLinkUp link loop) s = .next (u.put CHAIN_STATUS_LATE_UPSTREAM 1))
        ∧ (link = true → fb s CHAIN_STATUS_HEAD = false →
            ∃ v w, Gives (sendFrame false ⟨0, ownAddr s, 7, 0, []⟩) u () v ∧ Gives (hopDelay loop) v () w ∧
            exec (.chainLinkUp link loop) s = .next w)
        ∧ (link = false → ∃ v, Gives passToken u () v ∧
            ((fb s CHAIN_STATUS_HEAD = false → exec (.chainLinkUp link loop) s = .next v)
            ∧ (fb s CHAIN_STATUS_HEAD = true → ∃ w, Gives assignNodes v () w
                ∧ exec (.chainLinkUp link loop) s = .next w)))))
    ∧ (hopUp s (!link) = false → exec (.chainAck link crcOk hseq f) s = .next s)
    ∧ (hopUp s (!link) = true → crcOk = false ∨ f.type ≠ 3 →
        exec (.chainAck link crcOk hseq f) s = .next (s.count CHAIN_CRC_ERRORS_COUNT 1))
    ∧ (hopUp s (!link) = true → f.type = 3 →
        ∃ t, Gives (pumpHop (!link)) ((s.count CHAIN_FRAMES_RX_COUNT 1).putHop (!link) (fun h => { h with
          unacked := h.unacked.filter (fun e => decide (32768 ≤ seqDist e.1 (fieldAt f.payload 0 2))),
              sent := s.tick })) () t ∧ exec (.chainAck link true hseq f) s = .next t)
    ∧ (let due := hopUp s (!link) = true ∧ (hopOf s (!link)).unacked ≠ [] ∧ (hopOf s (!link)).sent + 200 ≤ s.tick
       exec (.chainResend link) s = .next (if due then ((hopOf s (!link)).unacked.foldl
           (fun t e => t.framed (!link) e.1 e.2) (s.count CHAIN_RETRIES_COUNT 1)).putHop (!link)
         (fun h => { h with sent := s.tick }) else s))
    ∧ exec (.stageTimeout xfer) s = .next (match s.chain.stage with
        | some st => if st.xfer = xfer ∧ st.whole = true
            ∧ st.since + 60000000 ≤ s.tick then s.putChain (fun c => { c with stage := none }) else s
        | none => s)

/-- An Ethernet frame longer than 9,216 bytes is neither taken nor sent; a shorter one is, and one received is acted on.
The end of the oldest flash write stores its image, or on an error leaves the region blank, and its result goes to the
sender. An armed activation whose tick has come makes the other firmware slot active and never lowers the floor.
COLD_START starts a device only in phase 0. (R619, R620, R629, R631, R689) -/
def Obligations.OperatorFramesObjectsAndImages : Prop :=
  ∀ (port rx : Bool) (bs : List Byte) (stamp : Option Nat) (op : EthOp) (ok : Bool) (i : StartInput) (s : State),
    (9216 < bs.length → exec (.ethernetFrame port rx bs stamp op) s = .next s)
    ∧ (bs.length ≤ 9216 → rx = false →
        exec (.ethernetFrame port rx bs stamp op) s = .next (s.says (.ethernet port rx bs stamp)))
    ∧ (bs.length ≤ 9216 → rx = true → ∃ t, Gives (ethOp op) (s.says (.ethernet port rx bs stamp)) () t
        ∧ exec (.ethernetFrame port rx bs stamp op) s = .next t)
    ∧ (s.flash.writing = [] → exec (.flashWriteComplete ok) s = .next s)
    ∧ (∀ w rest, s.flash.writing = w :: rest → ok = false → ∃ t u,
        Gives (setRegion w.kind w.slot []) (s.putFlash (fun x => { x with writing := rest })) () t
            ∧ Gives (sendResult w.kind w.xfer 8) t () u ∧
        exec (.flashWriteComplete ok) s = .next u)
    ∧ (∀ w rest, s.flash.writing = w :: rest → w.kind = 2 ∨ w.kind = 3 → ∃ t u,
        Gives (setRegion w.kind w.slot w.obj) (s.putFlash (fun x => { x with writing := rest })) () t
            ∧ Gives (sendResult w.kind w.xfer 0) t () u ∧
        exec (.flashWriteComplete true) s = .next u)
    ∧ (let due := s.flash.dir.armed = true ∧ s.flash.dir.actTick ≤ s.tick
        ∧ (4 ≤ fv s CHAIN_START_PHASE ∨ fv s CHAIN_START_MODE = 1)
       (¬ due → exec .firmwareActivation s = .next s)
       ∧ (due → ∃ t, exec .firmwareActivation s = .next t ∧ t.flash.dir.fwActive = 1 - s.flash.dir.fwActive
           ∧ t.flash.dir.armed = false
            ∧ s.flash.dir.fwFloor ≤ t.flash.dir.fwFloor))
    ∧ (fv s CHAIN_START_PHASE ≠ 0 → exec (.coldStart i) s = .next s)
    ∧ (fv s CHAIN_START_PHASE = 0 → ∃ t, Gives (startFrom i) s () t ∧ exec (.coldStart i) s = .next t)

/-- For each of the reset domains, a request for a unit that a reset already under way covers changes nothing but
COALESCED, which it counts (a DEVICE request unless a sensor is still too hot, which discards it before). (R655) -/
def Obligations.ResetsForUnitsInResetAreCoalesced : Prop :=
  ∀ (unit : Fin 512) (i : StartInput) (c : Instr) (d : Nat) (s : State), s.trPend = [] →
    (c, d) ∈ [(Instr.oxReset unit, 1), (.coreReset unit, 2), (.contextReset unit, 3), (.portReset unit, 4),
        (.iodReset unit, 5),
      (.stackReset unit, 6), (.dieReset unit, 7), (.deviceReset i, 8)] →
    (d = 8 → tooHot s = false) → (d ≠ 8 → unitOk s.part d unit = true) →
        inReset s d (if d = 8 then 0 else unit) = true →
    exec c s = .next (s.count RESET_COALESCED_COUNT 1)

/-- For each domain but DEVICE: a request for a unit that does not exist sets BAD_UNIT; one that begins a reset
    which ends
no task replaces the resets it covers, sets BUSY and RESETTING for every unit it covers, clears those units, and
discards and counts the events of the tick that concern them; any one that begins does what the taking of the reset
does, with its records. (R646, R653, R654, R656, R657, R658, R660) -/
def Obligations.ResetsBeginOnceAndMarkTheirUnits : Prop :=
  ∀ (unit : Fin 512) (c : Instr) (d : Nat) (s : State), s.trPend = [] →
    (c, d) ∈ [(Instr.oxReset unit, 1), (.coreReset unit, 2), (.contextReset unit, 3), (.portReset unit, 4),
        (.iodReset unit, 5),
      (.stackReset unit, 6), (.dieReset unit, 7)] →
    (unitOk s.part d unit = false → exec c s = .next (s.put RESET_STATUS_BAD_UNIT 1))
    ∧ (unitOk s.part d unit = true → inReset s d unit = false → d ≠ 3 → resetEnds s d unit = [] →
        let op : ResetOp := ⟨d, unit, [], s.tick, 0, false⟩
        let t := (s.putResets (fun l => l.filterMap (fun x => if op.covers x.domain x.unit = true then none
          else some { x with cores := x.cores.filter (fun n => !op.covers 2 n) }) ++ [op])).put RESET_STATUS_BUSY 1
        let t := (op.units s.part).foldl (fun t x => t.put (resettingFld x.1 x.2) 1) t
        ∃ u, Gives (resetNow d unit) t () u ∧
          ∃ sup v, Gives (supersede ((ResetOp.now s d unit).concerns s)) (if 4 ≤ d then u.recapped else u) sup v ∧
          Ends (exec c s) (v.putResets (fun l => l.map (fun op =>
            if op.domain = d ∧ op.unit = unit.val then { op with sup := sup.1, more := sup.2 } else op))))
    ∧ (unitOk s.part d unit = true → inReset s d unit = false → ∃ t, Gives (takeReset d unit) s () t
        ∧ Ends (exec c s) t)

/-- A device reset is discarded while a sensor is too hot; else it is the only reset left and it drops every latched
event, the fabric, the security block and the power block's run-time state, and keeps the count and the repair
history. RESET_N requests it as an event of rank 2, or resets at once without a tick. A loss of power leaves
registers, memory, marks and every unit at their reset values, and keeps the history and a flash with no write under
way. (R394, R653, R676, R684) -/
def Obligations.TheDeviceResets : Prop :=
  ∀ (i : StartInput) (s : State), s.trPend = [] →
    (tooHot s = true → exec (.deviceReset i) s = .next s)
    ∧ (tooHot s = false → inReset s 8 0 = false → ∃ t, Gives (takeDevice i) s () t ∧ Ends (exec (.deviceReset i) s) t
        ∧ t.latched = [] ∧ t.fab = .start ∧ t.sec = .start ∧ t.pwr = { PwrSt.start with hbmRails := s.pwr.hbmRails }
        ∧ (∃ sup more, t.resets = [⟨8, 0, [], s.tick, sup, more⟩]) ∧ t.tick = s.tick ∧ t.history = s.history)
    ∧ (hasTick s = true → exec .resetN s = .next (s.latching ⟨2, 0, none, 0, .reset 8 0⟩))
    ∧ (hasTick s = false → fv s CHAIN_START_PHASE = 0 → exec .resetN s = .next s)
    ∧ (hasTick s = false → fv s CHAIN_START_PHASE ≠ 0 → ∃ t, Gives (takeDevice s.chain.found) s () t
        ∧ Ends (exec .resetN s) t)
    ∧ ∃ t, exec .powerLoss s = .next t ∧ t.regs = [] ∧ t.mem = [] ∧ t.syn = [] ∧ t.draw = [] ∧ t.tick = 0
        ∧ t.time = .start ∧ t.latched = [] ∧ t.resets = []
        ∧ t.fab = .start ∧ t.sec = .start ∧ t.chain = .start ∧ t.pwr = .start ∧ t.link = .start ∧ t.wagon = .start
            ∧ t.history = s.history
        ∧ (s.flash.writing = [] → t.flash = s.flash)

/-- With no such reset under way, or units not ready, RESET_COMPLETE does nothing. A reset that completes counts up the
generation of every unit no other reset covers and clears its RESETTING, leaves BUSY only for the others, and writes
one RESET record of code 1. RESET_ESCALATION does nothing within the recovery time and else escalates to the next
domain. (R653, R657, R659) -/
def Obligations.ResetsCompleteOrEscalate : Prop :=
  ∀ (domain : Fin 9) (unit : Fin 512) (s : State), s.trPend = [] →
    let one (op : ResetOp) : Bool := op.domain = domain.val && op.unit = unit.val
    (s.resets.find? one = none → exec (.resetComplete domain unit) s = .next s)
    ∧ (∀ op, s.resets.find? one = some op → domain.val ≠ 8 →
        (op.units s.part).all (fun x => unitReady s x.1 x.2) = false → exec (.resetComplete domain unit) s = .next s)
    ∧ (∀ op, s.resets.find? one = some op → domain.val ≠ 8 →
        (op.units s.part).all (fun x => unitReady s x.1 x.2) = true →
        let rest := s.resets.filter (fun x => x != op)
        let t := (((op.units s.part).filter (fun x => !rest.any (fun y => y.covers x.1 x.2))).foldl
          (fun t x => (t.addMod (genFld x.1 x.2) 1).put (resettingFld x.1 x.2) 0) (s.putResets (fun _ => rest))).put
              RESET_STATUS_BUSY (b2n (rest != []))
        let r : Trouble := ⟨18, 1, if domain.val = 3 then unit else 0xFF, if domain.val = 2 then unit
            else if domain.val = 1 then unit / 4 else 0xFF, unit, none, domain, 0, 0⟩
        Ends (exec (.resetComplete domain unit) s)
          ((t.putTrPend (fun _ => [⟨r, s.tick, rg t RESET_TR_WR, recGen t r, op.sup, op.more⟩])).putReg RESET_TR_WR
              (rg t RESET_TR_WR + 1)).recapped)
    ∧ (s.resets.find? (fun op => one op && decide (op.since + recoveryTicks op.domain < s.tick)) = none →
        exec (.resetEscalation domain unit) s = .next s)
    ∧ (∃ t, Gives (escalateReset domain unit) s () t ∧ Ends (exec (.resetEscalation domain unit) s) t)

/-- A window still open, or a core without a running task, declares nothing; one that closes with progress,
    or without but
in time, opens the next; else it declares the task hung. A refused request holds its tile and is counted when it newly
arises; one held past REFUSE_LIMIT is tried again by a LOAD and faults for the others. A reply of a unit in reset or
of another generation is counted stale. A JOB_FAULT of the control die latches an event of rank 3 with its origin; a
Collie's does nothing. (R643, R644, R661, R662, R669) -/
def Obligations.HangsRefusalsAndJobFaults : Prop :=
  ∀ (core : Fin 64) (slot : Fin 16) (domain : Fin 9) (unit : Fin 512) (gen : Nat) (who : Who) (ctx : Fin 16)
      (origin : Nat)
    (s : State), s.trPend = [] →
    (taskRuns s core = false → exec (.hangDeclaration core) s = .next s)
    ∧ (∀ t, taskRuns s core = true → (theCore s core).task = some t → t.run < t.winOpen + t.winLen →
        exec (.hangDeclaration core) s = .next s)
    ∧ (∀ t, taskRuns s core = true → (theCore s core).task = some t → t.winOpen + t.winLen ≤ t.run →
        let still := if t.moved = true then 0 else min 8 (t.still + 1)
        let u := (s.putCore core (fun c => { c with task := c.task.map (fun t => { t with
          winOpen := t.run, winLen := max 1 (fv s RESET_PROGRESS_WINDOW_TICKS), moved := false,
              still := still }) })).putReg (CORE_STILL core) still
        (hangCode t t.moved = none → exec (.hangDeclaration core) s = .next u)
        ∧ ∀ code, hangCode t t.moved = some code → ∃ v, Gives (takeHang core code) (u.ranked 4) () v
            ∧ Ends (exec (.hangDeclaration core) s) v)
    ∧ (let x := theStream s core slot
       let live := inReset s domain unit = true ∧ x.state = 1 ∧ x.next < dTiles x.desc
       (¬ live → exec (.requestRefused core slot domain unit) s = .next s)
       ∧ (live → exec (.requestRefused core slot domain unit) s = .next
            ((if x.held = [] then s.count RESET_REFUSALS_COUNT 1 else s).noted core slot x.next
                (.hold (.refused domain unit 0)))))
    ∧ (refuseLate s core slot = none → exec (.refuseLimitExpiry core slot) s = .next s)
    ∧ (∀ h d u a, refuseLate s core slot = some (h, d, u, a) →
        let t := s.put RESET_STATUS_REFUSE_FAIL 1
        (dStation (theStream s core slot).desc = stLoad → exec (.refuseLimitExpiry core slot) s
          = .next (t.putStream core slot (fun x => { x with held := x.held.map (fun h => { h with again := true }) })))
        ∧ (dStation (theStream s core slot).desc ≠ stLoad →
            ∃ v, Gives (takeFault (troubleOf s core 19 0 u d a 0)) t () v ∧
            Ends (exec (.refuseLimitExpiry core slot) s) v))
    ∧ exec (.staleReply domain unit gen) s
        = .next (if fb s (resettingFld domain unit) = true ∨ fv s (genFld domain unit) ≠ gen % 65536
        then s.count RESET_STALE_REPLIES_COUNT 1 else s)
    ∧ exec (.jobFaultRaise who ctx origin) s
        = .next (if who = .controlDie then (s.put (CTX_JOB_FAULT_ORIGIN ctx) origin).latching
        ⟨3, 1, some ctx.val, 0, .jobFault ctx (origin % 2 ^ 18)⟩ else s)

/-- A sensor reading is stored, and trips the device where the sensor newly passes its limit; the average power trips it
where it newly passes the part's limit; a rail out of range is a trip of the next tick edge, which a device already
tripped only records. When the power window closes, the throttle level rises where the average is above the limit,
falls where it is below nine tenths of it, and the average is shown. (R677, R678, R680, R681, R682, R683, R684) -/
def Obligations.TripsAndTheThrottle : Prop :=
  ∀ (sensor : Fin 81) (reading : Nat) (rail : Fin 9) (current : Bool) (s : State), s.trPend = [] →
    (¬ (s.pwr.measured = true ∧ (sensorList s).any (fun x => x.1 = sensor.val) = true) →
        exec (.thermalTrip sensor reading) s = .next s)
    ∧ (s.pwr.measured = true → (sensorList s).any (fun x => x.1 = sensor.val) = true →
        ∃ t, Gives (setSensor sensor (min reading 255)) s () t ∧
        (let u := t.putPwr (fun p => { p with hot := (hotSensors t).map Prod.fst })
        ((hotSensors t).filter (fun x => !t.pwr.hot.contains x.1 && x.1 = sensor.val) = [] →
            exec (.thermalTrip sensor reading) s = .next u)
        ∧ (∀ v, (hotSensors t).filter (fun x => !t.pwr.hot.contains x.1 && x.1 = sensor.val) = [(sensor.val, v)] →
            ∃ w, Gives (takeTrip 1 sensor v) u () w ∧ Ends (exec (.thermalTrip sensor reading) s) w)))
    ∧ (let t := s.putPwr (fun p => { p with overTdp := overPower s })
       (overPower s = false ∨ s.pwr.overTdp = true → exec .powerTrip s = .next t)
       ∧ (overPower s = true → s.pwr.overTdp = false → ∃ u, Gives (takeTrip 2 0xFFFF (powerAvg t)) t () u
           ∧ Ends (exec .powerTrip s) u))
    ∧ (s.pwr.measured = false → exec (.railFault rail current reading) s = .next s)
    ∧ (let code := if current = true then 4 else 3
       let t := ((s.ranked 1).put PWR_STATUS_RAIL_FAULT 1).putReg PWR_TRIP_INFO (code + (96 + rail) % 256 * 2 ^ 8 +
           min reading 0xFFFF * 2 ^ 16)
       let r : Trouble := ⟨21, code, 0xFF, 0xFF, 96 + rail, none, reading, 0, 0⟩
       (s.pwr.measured = true → exec (.railFault rail current reading) s
           = .next (s.latching ⟨1, 2, none, 96 + rail, .trip code (96 + rail) reading⟩))
       ∧ (tripped s = true → rail.val ≠ 3 → rail.val ≠ 4 → Gives (takeTrip code (96 + rail) reading) s ()
           ((t.putTrPend (· ++ [⟨r, s.tick, rg t RESET_TR_WR, recGen t r, 0, false⟩])).putReg RESET_TR_WR
               (rg t RESET_TR_WR + 1))))
    ∧ (let due := s.pwr.measured = true ∧ s.pwr.winOpen + max 1 (fv s PWR_WINDOW_TICKS) ≤ s.tick
       let l := fv s PWR_THROTTLE_LEVEL
       let limit := min s.part.tdp (fv s PWR_LIMIT_WATTS)
       let l' := if limit * s.pwr.winN < s.pwr.winSum then min 3 (l + 1)
           else if 10 * s.pwr.winSum < 9 * limit * s.pwr.winN then l - 1 else l
       let t := if l = 0 then s else s.count PWR_THROTTLE_WINDOWS_COUNT 1
       let t := (t.put PWR_POWER_AVG_WATTS (min 0xFFFF (s.pwr.winSum / s.pwr.winN))).put PWR_THROTTLE_LEVEL l'
       let t := if l < l' then t.put PWR_STATUS_THROTTLED 1 else t
       exec .throttleWindow s = .next (if due then t.putPwr (fun p => { p with winOpen := s.tick, winSum := fv s PWR_POWER_NOW_WATTS, winN := 1 }) else s))

/-- A request goes to a module that is up with fewer than 512 outstanding or waiting,
    else nothing happens; a length that
is not a multiple of 4 up to 256 is answered ERROR; any other is answered with what the access gives, under the
requester's tag and generation. A reply takes its request away. A record is written to the control die's log in order.
When a module goes down its outstanding requests go to the other. (R651, R686, R687, R688) -/
def Obligations.TheDieLinkAnswersAndRecords : Prop :=
  ∀ (module : Bool) (tag gen addr len : Nat) (data : List Byte) (errs : List LineErr) (s : State), s.trPend = [] →
      s.lineErrs = [] →
    (∀ c n d, (c, n, d) ∈ [(Instr.dieLinkRead module tag gen addr len errs, len, none),
        (.dieLinkWrite module tag gen addr data errs, data.length, some data)] →
      (moduleFor s module = none → exec c s = .next s)
      ∧ (∀ m, moduleFor s module = some m →
          let full := 512 ≤ ((s.link.out ++ waitingLink s).filter (fun q => q.module = m)).length
          let q : LinkReq := ⟨m, tag % 65536, d.isSome, 0, gen % 65536, []⟩
          let reply (t : State) (st : Nat) (bs : List Byte) : State := t.putLink (fun l => { l with
            out := l.out ++ [⟨(moduleFor t m).getD m, tag % 65536, d.isSome, st, gen % 65536, bs⟩] })
          (full → exec c s = .next s)
          ∧ (¬ full → n % 4 ≠ 0 ∨ 256 < n → exec c s = .next (reply s 1 []))
          ∧ (¬ full → n % 4 = 0 → n ≤ 256 → ∃ ans t, Gives (dieAccess q (addr % 2 ^ 48) n d) (s.meeting errs) ans t ∧
              ((ans = none → Ends (exec c s) (t.meeting []))
                  ∧ (∀ st bs, ans = some (st, bs) → Ends (exec c s) ((reply t st bs).meeting []))))))
    ∧ (∀ c w, (c, w) ∈ [(Instr.readReply module tag, false), (.writeAck module tag, true)] →
        let q? := s.link.out.find? (fun q => q.module = module && q.tag = tag && q.write = w)
        (q? = none → exec c s = .next s)
        ∧ (∀ q, q? = some q → exec c s = .next ((s.putLink (fun l => { l with out := l.out.erase q })).says
            (.linkReply module tag q.status q.gen q.bs))))
    ∧ (s.link.mirror = [] ∨ (moduleDown s false = true ∧ moduleDown s true = true) → exec .record s = .next s)
    ∧ (∀ cond bs rest, s.link.mirror = (cond, bs) :: rest → (moduleDown s false = false ∨ moduleDown s true = false) →
        let t := s.putLink (fun l => { l with mirror := rest })
        let t := if cond = true then t.putCond (· ++ [bs]) else t.putTrouble (· ++ [bs])
        exec .record s = .next ((t.putFlash (fun f => { f with log := (f.log ++ [bs]).drop (f.log.length + 1 - logEntries) })).says (.record bs)))
    ∧ (let t := s.putLink (fun l => { l with down := if module = true then [l.down.getD 0 false, true] else [true, l.down.getD 1 false] })
       exec (.ucieModuleDown module) s = .next (if moduleDown s (!module) = true then t
         else t.putLink (fun l => { l with out := l.out.map (fun q => if q.module = module then { q with module := !module } else q) })))
end

