-- ==== Sys2Proof/Laws/Exec.lean ====
section
/-!
SUPPORT. Laws/Exec.lean: the meaning that each command has, one lemma each.
-/

namespace Sys2Proof.Machine

@[simp] theorem exec_registerWrite (who : Who) (addr : Nat) (size : Nat) (data : Nat) (s : State) :
    exec (.registerWrite who addr size data) s = execRegisterWrite who addr size data s := Eq.trans rfl rfl
@[simp] theorem exec_readClearField (who : Who) (addr : Nat) (size : Nat) (s : State) :
    exec (.readClearField who addr size) s = execReadClearField who addr size s := Eq.trans rfl rfl
@[simp] theorem exec_tickEdge (i : TickInput) (s : State) :
    exec (.tickEdge i) s = execTickEdge i s := Eq.trans rfl rfl
@[simp] theorem exec_holdoverEntry  (s : State) :
    exec (.holdoverEntry) s = execHoldoverEntry s := Eq.trans rfl rfl
@[simp] theorem exec_holdoverLimitExceeded  (s : State) :
    exec (.holdoverLimitExceeded) s = execHoldoverLimitExceeded s := Eq.trans rfl rfl
@[simp] theorem exec_upstreamTickReturn (back : TickBack) (s : State) :
    exec (.upstreamTickReturn back) s = execUpstreamTickReturn back s := Eq.trans rfl rfl
@[simp] theorem exec_ptpLockGained  (s : State) :
    exec (.ptpLockGained) s = execPtpLockGained s := Eq.trans rfl rfl
@[simp] theorem exec_passPush (ox : Fin 256) (w3 : Nat) (s : State) :
    exec (.passPush ox w3) s = execPassPush ox w3 s := Eq.trans rfl rfl
@[simp] theorem exec_passHeadCheck (ox : Fin 256) (s : State) :
    exec (.passHeadCheck ox) s = execPassHeadCheck ox s := Eq.trans rfl rfl
@[simp] theorem exec_segmentBegin (core : Fin 64) (ready : Bool) (s : State) :
    exec (.segmentBegin core ready) s = execSegmentBegin core ready s := Eq.trans rfl rfl
@[simp] theorem exec_passStart (ox : Fin 256) (bubble : Nat) (s : State) :
    exec (.passStart ox bubble) s = execPassStart ox bubble s := Eq.trans rfl rfl
@[simp] theorem exec_yokeRowIssue (core : Fin 64) (issue : Bool) (hold : Nat) (s : State) :
    exec (.yokeRowIssue core issue hold) s = execYokeRowIssue core issue hold s := Eq.trans rfl rfl
@[simp] theorem exec_oxAttach (ox : Fin 256) (s : State) :
    exec (.oxAttach ox) s = execOxAttach ox s := Eq.trans rfl rfl
@[simp] theorem exec_passComplete (ox : Fin 256) (s : State) :
    exec (.passComplete ox) s = execPassComplete ox s := Eq.trans rfl rfl
@[simp] theorem exec_oxFence (ox : Fin 256) (s : State) :
    exec (.oxFence ox) s = execOxFence ox s := Eq.trans rfl rfl
@[simp] theorem exec_fenceLift (ox : Fin 256) (s : State) :
    exec (.fenceLift ox) s = execFenceLift ox s := Eq.trans rfl rfl
@[simp] theorem exec_ctxStepParamsWrite (ctx : Fin 16) (which : Fin 4) (data : Nat) (s : State) :
    exec (.ctxStepParamsWrite ctx which data) s = execCtxStepParamsWrite ctx which data s := Eq.trans rfl rfl
@[simp] theorem exec_drainEncode (core : Fin 64) (errs : List LineErr) (s : State) :
    exec (.drainEncode core errs) s = execDrainEncode core errs s := Eq.trans rfl rfl
@[simp] theorem exec_mergedRecordReread (core : Fin 64) (errs : List LineErr) (s : State) :
    exec (.mergedRecordReread core errs) s = execMergedRecordReread core errs s := Eq.trans rfl rfl
@[simp] theorem exec_muleTileStart (core : Fin 64) (errs : List LineErr) (s : State) :
    exec (.muleTileStart core errs) s = execMuleTileStart core errs s := Eq.trans rfl rfl
@[simp] theorem exec_muleProgWrite (core : Fin 64) (off : Nat) (data : Nat) (s : State) :
    exec (.muleProgWrite core off data) s = execMuleProgWrite core off data s := Eq.trans rfl rfl
@[simp] theorem exec_reduceTile (core : Fin 64) (s : State) :
    exec (.reduceTile core) s = execReduceTile core s := Eq.trans rfl rfl
@[simp] theorem exec_sramWindowAccess (who : Who) (addr : Nat) (len : Nat) (data : Option (List Byte)) (s : State) :
    exec (.sramWindowAccess who addr len data) s = execSramWindowAccess who addr len data s := Eq.trans rfl rfl
@[simp] theorem exec_bankPowerRequest (core : Fin 64) (bank : Fin 12) (target : Fin 4) (s : State) :
    exec (.bankPowerRequest core bank target) s = execBankPowerRequest core bank target s := Eq.trans rfl rfl
@[simp] theorem exec_bankTransitionComplete (core : Fin 64) (bank : Fin 12) (s : State) :
    exec (.bankTransitionComplete core bank) s = execBankTransitionComplete core bank s := Eq.trans rfl rfl
@[simp] theorem exec_bankRetire (core : Fin 64) (bank : Fin 12) (s : State) :
    exec (.bankRetire core bank) s = execBankRetire core bank s := Eq.trans rfl rfl
@[simp] theorem exec_bankBind (core : Fin 64) (slot : Fin 16) (s : State) :
    exec (.bankBind core slot) s = execBankBind core slot s := Eq.trans rfl rfl
@[simp] theorem exec_streamProgramStart (core : Fin 64) (errs : List LineErr) (s : State) :
    exec (.streamProgramStart core errs) s = execStreamProgramStart core errs s := Eq.trans rfl rfl
@[simp] theorem exec_stationTileStart (core : Fin 64) (slot : Fin 16) (errs : List LineErr) (s : State) :
    exec (.stationTileStart core slot errs) s = execStationTileStart core slot errs s := Eq.trans rfl rfl
@[simp] theorem exec_tileEventComplete (core : Fin 64) (slot : Fin 16) (event : Bool) (s : State) :
    exec (.tileEventComplete core slot event) s = execTileEventComplete core slot event s := Eq.trans rfl rfl
@[simp] theorem exec_hcAdd (core : Fin 64) (hc : Fin 16) (add : Nat) (s : State) :
    exec (.hcAdd core hc add) s = execHcAdd core hc add s := Eq.trans rfl rfl
@[simp] theorem exec_exchange (core : Fin 64) (pair : Bool) (s : State) :
    exec (.exchange core pair) s = execExchange core pair s := Eq.trans rfl rfl
@[simp] theorem exec_streamProgramEnd (core : Fin 64) (s : State) :
    exec (.streamProgramEnd core) s = execStreamProgramEnd core s := Eq.trans rfl rfl
@[simp] theorem exec_collieHandoff (core : Fin 64) (slot : Fin 16) (s : State) :
    exec (.collieHandoff core slot) s = execCollieHandoff core slot s := Eq.trans rfl rfl
@[simp] theorem exec_cqRead (core : Fin 64) (collie : Bool) (s : State) :
    exec (.cqRead core collie) s = execCqRead core collie s := Eq.trans rfl rfl
@[simp] theorem exec_cdone (core : Fin 64) (collie : Bool) (slot : Fin 16) (s : State) :
    exec (.cdone core collie slot) s = execCdone core collie slot s := Eq.trans rfl rfl
@[simp] theorem exec_startCmd (ctx : Fin 16) (s : State) :
    exec (.startCmd ctx) s = execStartCmd ctx s := Eq.trans rfl rfl
@[simp] theorem exec_holdCmd (ctx : Fin 16) (s : State) :
    exec (.holdCmd ctx) s = execHoldCmd ctx s := Eq.trans rfl rfl
@[simp] theorem exec_save (ctx : Fin 16) (s : State) :
    exec (.save ctx) s = execSave ctx s := Eq.trans rfl rfl
@[simp] theorem exec_restore (ctx : Fin 16) (errs : List LineErr) (s : State) :
    exec (.restore ctx errs) s = execRestore ctx errs s := Eq.trans rfl rfl
@[simp] theorem exec_kill (ctx : Fin 16) (wipe : Bool) (s : State) :
    exec (.kill ctx wipe) s = execKill ctx wipe s := Eq.trans rfl rfl
@[simp] theorem exec_flushXlate (ctx : Fin 16) (s : State) :
    exec (.flushXlate ctx) s = execFlushXlate ctx s := Eq.trans rfl rfl
@[simp] theorem exec_coresWrite (ctx : Fin 16) (which : Fin 3) (data : Nat) (s : State) :
    exec (.coresWrite ctx which data) s = execCoresWrite ctx which data s := Eq.trans rfl rfl
@[simp] theorem exec_penWrite (ctx : Fin 16) (pen : Fin 3) (data : Nat) (s : State) :
    exec (.penWrite ctx pen data) s = execPenWrite ctx pen data s := Eq.trans rfl rfl
@[simp] theorem exec_rosterCfgWrite (ctx : Fin 16) (roster : Fin 8) (data : Nat) (s : State) :
    exec (.rosterCfgWrite ctx roster data) s = execRosterCfgWrite ctx roster data s := Eq.trans rfl rfl
@[simp] theorem exec_rosterPubSample (ctx : Fin 16) (roster : Fin 8) (errs : List LineErr) (s : State) :
    exec (.rosterPubSample ctx roster errs) s = execRosterPubSample ctx roster errs s := Eq.trans rfl rfl
@[simp] theorem exec_entryFetch (ctx : Fin 16) (roster : Fin 8) (errs : List LineErr) (s : State) :
    exec (.entryFetch ctx roster errs) s = execEntryFetch ctx roster errs s := Eq.trans rfl rfl
@[simp] theorem exec_taskCompletion (core : Fin 64) (s : State) :
    exec (.taskCompletion core) s = execTaskCompletion core s := Eq.trans rfl rfl
@[simp] theorem exec_coreStoppedForSave (core : Fin 64) (s : State) :
    exec (.coreStoppedForSave core) s = execCoreStoppedForSave core s := Eq.trans rfl rfl
@[simp] theorem exec_saveComplete (ctx : Fin 16) (s : State) :
    exec (.saveComplete ctx) s = execSaveComplete ctx s := Eq.trans rfl rfl
@[simp] theorem exec_saveStopTimeout (ctx : Fin 16) (s : State) :
    exec (.saveStopTimeout ctx) s = execSaveStopTimeout ctx s := Eq.trans rfl rfl
@[simp] theorem exec_restoreComplete (ctx : Fin 16) (s : State) :
    exec (.restoreComplete ctx) s = execRestoreComplete ctx s := Eq.trans rfl rfl
@[simp] theorem exec_pageWalk (core : Fin 64) (ctx : Fin 16) (va : Nat) (write : Bool) (errs : List LineErr) (s : State) :
    exec (.pageWalk core ctx va write errs) s = execPageWalk core ctx va write errs s := Eq.trans rfl rfl
@[simp] theorem exec_sentinelRound  (s : State) :
    exec (.sentinelRound) s = execSentinelRound s := Eq.trans rfl rfl
@[simp] theorem exec_sentinelPass (core : Fin 64) (s : State) :
    exec (.sentinelPass core) s = execSentinelPass core s := Eq.trans rfl rfl
@[simp] theorem exec_sentinelCompletion (core : Fin 64) (defects : List (Fin 4 × Nat)) (s : State) :
    exec (.sentinelCompletion core defects) s = execSentinelCompletion core defects s := Eq.trans rfl rfl
@[simp] theorem exec_sentStateClear (ox : Fin 256) (s : State) :
    exec (.sentStateClear ox) s = execSentStateClear ox s := Eq.trans rfl rfl
@[simp] theorem exec_hbmRead (req : Fin 73) (cls : Fin 4) (addr : Nat) (via : ReadVia) (errs : List LineErr) (s : State) :
    exec (.hbmRead req cls addr via errs) s = execHbmRead req cls addr via errs s := Eq.trans rfl rfl
@[simp] theorem exec_fullLineWrite (req : Fin 73) (addr : Nat) (data : Nat) (poison : Bool) (s : State) :
    exec (.fullLineWrite req addr data poison) s = execFullLineWrite req addr data poison s := Eq.trans rfl rfl
@[simp] theorem exec_partialWrite (req : Fin 73) (addr : Nat) (data : Nat) (mask : Nat) (poison : Bool) (errs : List LineErr) (s : State) :
    exec (.partialWrite req addr data mask poison errs) s = execPartialWrite req addr data mask poison errs s := Eq.trans rfl rfl
@[simp] theorem exec_wcbEntryComplete (stack : Fin 12) (line : Nat) (errs : List LineErr) (s : State) :
    exec (.wcbEntryComplete stack line errs) s = execWcbEntryComplete stack line errs s := Eq.trans rfl rfl
@[simp] theorem exec_fence (req : Fin 73) (errs : List LineErr) (s : State) :
    exec (.fence req errs) s = execFence req errs s := Eq.trans rfl rfl
@[simp] theorem exec_class0Window (stack : Fin 12) (pc : Fin 64) (s : State) :
    exec (.class0Window stack pc) s = execClass0Window stack pc s := Eq.trans rfl rfl
@[simp] theorem exec_requestAged (stack : Fin 12) (s : State) :
    exec (.requestAged stack) s = execRequestAged stack s := Eq.trans rfl rfl
@[simp] theorem exec_hbmTraining (stack : Fin 12) (redundant : Nat) (fails : List (Fin 32 × Nat)) (untrained : List (Fin 32)) (s : State) :
    exec (.hbmTraining stack redundant fails untrained) s = execHbmTraining stack redundant fails untrained s := Eq.trans rfl rfl
@[simp] theorem exec_maintEnter (who : Who) (stack : Fin 12) (s : State) :
    exec (.maintEnter who stack) s = execMaintEnter who stack s := Eq.trans rfl rfl
@[simp] theorem exec_maintExit (who : Who) (stack : Fin 12) (s : State) :
    exec (.maintExit who stack) s = execMaintExit who stack s := Eq.trans rfl rfl
@[simp] theorem exec_mrRead (who : Who) (stack : Fin 12) (ch : Fin 32) (pc : Bool) (s : State) :
    exec (.mrRead who stack ch pc) s = execMrRead who stack ch pc s := Eq.trans rfl rfl
@[simp] theorem exec_mrWrite (who : Who) (stack : Fin 12) (ch : Fin 32) (pc : Bool) (s : State) :
    exec (.mrWrite who stack ch pc) s = execMrWrite who stack ch pc s := Eq.trans rfl rfl
@[simp] theorem exec_softPpr (who : Who) (stack : Fin 12) (ch : Fin 32) (pc : Bool) (s : State) :
    exec (.softPpr who stack ch pc) s = execSoftPpr who stack ch pc s := Eq.trans rfl rfl
@[simp] theorem exec_hardPpr (who : Who) (stack : Fin 12) (ch : Fin 32) (pc : Bool) (s : State) :
    exec (.hardPpr who stack ch pc) s = execHardPpr who stack ch pc s := Eq.trans rfl rfl
@[simp] theorem exec_softPprUndo (who : Who) (stack : Fin 12) (ch : Fin 32) (pc : Bool) (s : State) :
    exec (.softPprUndo who stack ch pc) s = execSoftPprUndo who stack ch pc s := Eq.trans rfl rfl
@[simp] theorem exec_mbist (who : Who) (stack : Fin 12) (ch : Fin 32) (pc : Bool) (rows : List Nat) (s : State) :
    exec (.mbist who stack ch pc rows) s = execMbist who stack ch pc rows s := Eq.trans rfl rfl
@[simp] theorem exec_ieee1500 (who : Who) (stack : Fin 12) (ch : Fin 32) (pc : Bool) (s : State) :
    exec (.ieee1500 who stack ch pc) s = execIeee1500 who stack ch pc s := Eq.trans rfl rfl
@[simp] theorem exec_cxlTraining (port : Fin 8) (width : Nat) (rate : Fin 3) (cap : Nat) (s : State) :
    exec (.cxlTraining port width rate cap) s = execCxlTraining port width rate cap s := Eq.trans rfl rfl
@[simp] theorem exec_deepAccess (req : Fin 73) (ctx : Option (Fin 16)) (addr : Nat) (va : Nat) (leaf2 : Bool) (data : Option (Nat × Nat)) (reply : Option Nat) (errs : List LineErr) (s : State) :
    exec (.deepAccess req ctx addr va leaf2 data reply errs) s = execDeepAccess req ctx addr va leaf2 data reply errs s := Eq.trans rfl rfl
@[simp] theorem exec_heatEpoch  (s : State) :
    exec (.heatEpoch) s = execHeatEpoch s := Eq.trans rfl rfl
@[simp] theorem exec_promote (who : Who) (page : Nat) (count : Fin 4096) (s : State) :
    exec (.promote who page count) s = execPromote who page count s := Eq.trans rfl rfl
@[simp] theorem exec_evict (who : Who) (page : Nat) (count : Fin 4096) (s : State) :
    exec (.evict who page count) s = execEvict who page count s := Eq.trans rfl rfl
@[simp] theorem exec_pin (who : Who) (page : Nat) (count : Fin 4096) (s : State) :
    exec (.pin who page count) s = execPin who page count s := Eq.trans rfl rfl
@[simp] theorem exec_unpin (who : Who) (page : Nat) (count : Fin 4096) (s : State) :
    exec (.unpin who page count) s = execUnpin who page count s := Eq.trans rfl rfl
@[simp] theorem exec_moveComplete (page : Nat) (errs : List LineErr) (s : State) :
    exec (.moveComplete page errs) s = execMoveComplete page errs s := Eq.trans rfl rfl
@[simp] theorem exec_moveFail (page : Nat) (s : State) :
    exec (.moveFail page) s = execMoveFail page s := Eq.trans rfl rfl
@[simp] theorem exec_wagonEnable  (s : State) :
    exec (.wagonEnable) s = execWagonEnable s := Eq.trans rfl rfl
@[simp] theorem exec_wagonDisable  (s : State) :
    exec (.wagonDisable) s = execWagonDisable s := Eq.trans rfl rfl
@[simp] theorem exec_wagonDrainComplete  (s : State) :
    exec (.wagonDrainComplete) s = execWagonDrainComplete s := Eq.trans rfl rfl
@[simp] theorem exec_wagonResumeComplete (errs : List LineErr) (s : State) :
    exec (.wagonResumeComplete errs) s = execWagonResumeComplete errs s := Eq.trans rfl rfl
@[simp] theorem exec_deepAccessLate (port : Fin 8) (id : Nat) (s : State) :
    exec (.deepAccessLate port id) s = execDeepAccessLate port id s := Eq.trans rfl rfl
@[simp] theorem exec_deepAccessFail (port : Fin 8) (id : Nat) (s : State) :
    exec (.deepAccessFail port id) s = execDeepAccessFail port id s := Eq.trans rfl rfl
@[simp] theorem exec_lateAnswerDiscard (port : Fin 8) (id : Nat) (s : State) :
    exec (.lateAnswerDiscard port id) s = execLateAnswerDiscard port id s := Eq.trans rfl rfl
@[simp] theorem exec_recompAck (ctx : Fin 16) (q : Nat) (s : State) :
    exec (.recompAck ctx q) s = execRecompAck ctx q s := Eq.trans rfl rfl
@[simp] theorem exec_recompExpiry (ctx : Fin 16) (q : Nat) (s : State) :
    exec (.recompExpiry ctx q) s = execRecompExpiry ctx q s := Eq.trans rfl rfl
@[simp] theorem exec_scrubGroup (stack : Fin 12) (errs : List LineErr) (s : State) :
    exec (.scrubGroup stack errs) s = execScrubGroup stack errs s := Eq.trans rfl rfl
@[simp] theorem exec_retire (who : Who) (stack : Fin 12) (page : Nat) (slot : Nat) (s : State) :
    exec (.retire who stack page slot) s = execRetire who stack page slot s := Eq.trans rfl rfl
@[simp] theorem exec_retireComplete (stack : Fin 12) (errs : List LineErr) (s : State) :
    exec (.retireComplete stack errs) s = execRetireComplete stack errs s := Eq.trans rfl rfl
@[simp] theorem exec_portTraining (port : Fin 32) (tx : Nat) (rx : Nat) (peer : Nat) (s : State) :
    exec (.portTraining port tx rx peer) s = execPortTraining port tx rx peer s := Eq.trans rfl rfl
@[simp] theorem exec_wavelengthDegrade (port : Fin 32) (w : Fin 18) (corr : Nat) (uncorr : Bool) (s : State) :
    exec (.wavelengthDegrade port w corr uncorr) s = execWavelengthDegrade port w corr uncorr s := Eq.trans rfl rfl
@[simp] theorem exec_swapReq (port : Fin 32) (lane : Fin 16) (spare : Option (Fin 18)) (s : State) :
    exec (.swapReq port lane spare) s = execSwapReq port lane spare s := Eq.trans rfl rfl
@[simp] theorem exec_swapAck (port : Fin 32) (s : State) :
    exec (.swapAck port) s = execSwapAck port s := Eq.trans rfl rfl
@[simp] theorem exec_swapGo (port : Fin 32) (s : State) :
    exec (.swapGo port) s = execSwapGo port s := Eq.trans rfl rfl
@[simp] theorem exec_switchMarker (port : Fin 32) (s : State) :
    exec (.switchMarker port) s = execSwitchMarker port s := Eq.trans rfl rfl
@[simp] theorem exec_dataPacket (port : Fin 32) (crcOk : Bool) (lseq : Nat) (p : Packet) (errs : List LineErr) (s : State) :
    exec (.dataPacket port crcOk lseq p errs) s = execDataPacket port crcOk lseq p errs s := Eq.trans rfl rfl
@[simp] theorem exec_rts (port : Fin 32) (crcOk : Bool) (lseq : Nat) (p : Packet) (errs : List LineErr) (s : State) :
    exec (.rts port crcOk lseq p errs) s = execRts port crcOk lseq p errs s := Eq.trans rfl rfl
@[simp] theorem exec_grant (port : Fin 32) (crcOk : Bool) (lseq : Nat) (p : Packet) (errs : List LineErr) (s : State) :
    exec (.grant port crcOk lseq p errs) s = execGrant port crcOk lseq p errs s := Eq.trans rfl rfl
@[simp] theorem exec_ack (port : Fin 32) (crcOk : Bool) (lseq : Nat) (p : Packet) (errs : List LineErr) (s : State) :
    exec (.ack port crcOk lseq p errs) s = execAck port crcOk lseq p errs s := Eq.trans rfl rfl
@[simp] theorem exec_refuse (port : Fin 32) (crcOk : Bool) (lseq : Nat) (p : Packet) (errs : List LineErr) (s : State) :
    exec (.refuse port crcOk lseq p errs) s = execRefuse port crcOk lseq p errs s := Eq.trans rfl rfl
@[simp] theorem exec_xdata (port : Fin 32) (crcOk : Bool) (lseq : Nat) (p : Packet) (errs : List LineErr) (s : State) :
    exec (.xdata port crcOk lseq p errs) s = execXdata port crcOk lseq p errs s := Eq.trans rfl rfl
@[simp] theorem exec_mgmt (port : Fin 32) (crcOk : Bool) (lseq : Nat) (p : Packet) (errs : List LineErr) (s : State) :
    exec (.mgmt port crcOk lseq p errs) s = execMgmt port crcOk lseq p errs s := Eq.trans rfl rfl
@[simp] theorem exec_replayRequest (port : Fin 32) (lseq : Nat) (s : State) :
    exec (.replayRequest port lseq) s = execReplayRequest port lseq s := Eq.trans rfl rfl
@[simp] theorem exec_linkAck (port : Fin 32) (lseq : Nat) (s : State) :
    exec (.linkAck port lseq) s = execLinkAck port lseq s := Eq.trans rfl rfl
@[simp] theorem exec_linkDown (port : Fin 32) (s : State) :
    exec (.linkDown port) s = execLinkDown port s := Eq.trans rfl rfl
@[simp] theorem exec_routeSwitch  (s : State) :
    exec (.routeSwitch) s = execRouteSwitch s := Eq.trans rfl rfl
@[simp] theorem exec_routeEntryWrite (page : Fin 4) (e : Fin 320) (data : Nat) (s : State) :
    exec (.routeEntryWrite page e data) s = execRouteEntryWrite page e data s := Eq.trans rfl rfl
@[simp] theorem exec_e2eTimeout  (s : State) :
    exec (.e2eTimeout) s = execE2eTimeout s := Eq.trans rfl rfl
@[simp] theorem exec_xferRingWrite (who : Who) (data : Nat) (s : State) :
    exec (.xferRingWrite who data) s = execXferRingWrite who data s := Eq.trans rfl rfl
@[simp] theorem exec_xferPubSample (errs : List LineErr) (s : State) :
    exec (.xferPubSample errs) s = execXferPubSample errs s := Eq.trans rfl rfl
@[simp] theorem exec_keyInstall (who : Who) (ctx : Fin 16) (errs : List LineErr) (s : State) :
    exec (.keyInstall who ctx errs) s = execKeyInstall who ctx errs s := Eq.trans rfl rfl
@[simp] theorem exec_keyErase (who : Who) (ctx : Fin 16) (s : State) :
    exec (.keyErase who ctx) s = execKeyErase who ctx s := Eq.trans rfl rfl
@[simp] theorem exec_verifyQueue (who : Who) (ctx : Fin 16) (entry : Fin 16) (s : State) :
    exec (.verifyQueue who ctx entry) s = execVerifyQueue who ctx entry s := Eq.trans rfl rfl
@[simp] theorem exec_verifyComplete (errs : List LineErr) (s : State) :
    exec (.verifyComplete errs) s = execVerifyComplete errs s := Eq.trans rfl rfl
@[simp] theorem exec_verifyDoneRead  (s : State) :
    exec (.verifyDoneRead) s = execVerifyDoneRead s := Eq.trans rfl rfl
@[simp] theorem exec_gslotLoad (who : Who) (ctx : Fin 16) (k : Fin 4) (s : State) :
    exec (.gslotLoad who ctx k) s = execGslotLoad who ctx k s := Eq.trans rfl rfl
@[simp] theorem exec_gslotReady (who : Who) (ctx : Fin 16) (k : Fin 4) (s : State) :
    exec (.gslotReady who ctx k) s = execGslotReady who ctx k s := Eq.trans rfl rfl
@[simp] theorem exec_gslotAbandon (who : Who) (ctx : Fin 16) (k : Fin 4) (s : State) :
    exec (.gslotAbandon who ctx k) s = execGslotAbandon who ctx k s := Eq.trans rfl rfl
@[simp] theorem exec_rosterGenWrite (who : Who) (ctx : Fin 16) (data : Nat) (s : State) :
    exec (.rosterGenWrite who ctx data) s = execRosterGenWrite who ctx data s := Eq.trans rfl rfl
@[simp] theorem exec_genSwitch (ctx : Fin 16) (s : State) :
    exec (.genSwitch ctx) s = execGenSwitch ctx s := Eq.trans rfl rfl
@[simp] theorem exec_rsrcReqRead  (s : State) :
    exec (.rsrcReqRead) s = execRsrcReqRead s := Eq.trans rfl rfl
@[simp] theorem exec_rsrcDone (page : Nat) (s : State) :
    exec (.rsrcDone page) s = execRsrcDone page s := Eq.trans rfl rfl
@[simp] theorem exec_rsrcExpiry (page : Nat) (s : State) :
    exec (.rsrcExpiry page) s = execRsrcExpiry page s := Eq.trans rfl rfl
@[simp] theorem exec_attestRequest (nonce : List Byte) (s : State) :
    exec (.attestRequest nonce) s = execAttestRequest nonce s := Eq.trans rfl rfl
@[simp] theorem exec_token (link : Bool) (crcOk : Bool) (hseq : Nat) (f : Frame) (s : State) :
    exec (.token link crcOk hseq f) s = execToken link crcOk hseq f s := Eq.trans rfl rfl
@[simp] theorem exec_headDecision  (s : State) :
    exec (.headDecision) s = execHeadDecision s := Eq.trans rfl rfl
@[simp] theorem exec_tickCountLoad (back : TickBack) (s : State) :
    exec (.tickCountLoad back) s = execTickCountLoad back s := Eq.trans rfl rfl
@[simp] theorem exec_nodeAssign (link : Bool) (crcOk : Bool) (hseq : Nat) (f : Frame) (s : State) :
    exec (.nodeAssign link crcOk hseq f) s = execNodeAssign link crcOk hseq f s := Eq.trans rfl rfl
@[simp] theorem exec_chainAck (link : Bool) (crcOk : Bool) (hseq : Nat) (f : Frame) (s : State) :
    exec (.chainAck link crcOk hseq f) s = execChainAck link crcOk hseq f s := Eq.trans rfl rfl
@[simp] theorem exec_chainResend (link : Bool) (s : State) :
    exec (.chainResend link) s = execChainResend link s := Eq.trans rfl rfl
@[simp] theorem exec_offer (link : Bool) (crcOk : Bool) (hseq : Nat) (f : Frame) (s : State) :
    exec (.offer link crcOk hseq f) s = execOffer link crcOk hseq f s := Eq.trans rfl rfl
@[simp] theorem exec_chainData (link : Bool) (crcOk : Bool) (hseq : Nat) (f : Frame) (errs : List LineErr) (s : State) :
    exec (.chainData link crcOk hseq f errs) s = execChainData link crcOk hseq f errs s := Eq.trans rfl rfl
@[simp] theorem exec_result (link : Bool) (crcOk : Bool) (hseq : Nat) (f : Frame) (s : State) :
    exec (.result link crcOk hseq f) s = execResult link crcOk hseq f s := Eq.trans rfl rfl
@[simp] theorem exec_delay (link : Bool) (crcOk : Bool) (hseq : Nat) (f : Frame) (loop : Nat) (s : State) :
    exec (.delay link crcOk hseq f loop) s = execDelay link crcOk hseq f loop s := Eq.trans rfl rfl
@[simp] theorem exec_chainMgmt (link : Bool) (crcOk : Bool) (hseq : Nat) (f : Frame) (s : State) :
    exec (.chainMgmt link crcOk hseq f) s = execChainMgmt link crcOk hseq f s := Eq.trans rfl rfl
@[simp] theorem exec_stageTimeout (xfer : Nat) (s : State) :
    exec (.stageTimeout xfer) s = execStageTimeout xfer s := Eq.trans rfl rfl
@[simp] theorem exec_firmwareActivation  (s : State) :
    exec (.firmwareActivation) s = execFirmwareActivation s := Eq.trans rfl rfl
@[simp] theorem exec_coldStart (i : StartInput) (s : State) :
    exec (.coldStart i) s = execColdStart i s := Eq.trans rfl rfl
@[simp] theorem exec_hangDeclaration (core : Fin 64) (s : State) :
    exec (.hangDeclaration core) s = execHangDeclaration core s := Eq.trans rfl rfl
@[simp] theorem exec_oxReset (unit : Fin 512) (s : State) :
    exec (.oxReset unit) s = execOxReset unit s := Eq.trans rfl rfl
@[simp] theorem exec_coreReset (unit : Fin 512) (s : State) :
    exec (.coreReset unit) s = execCoreReset unit s := Eq.trans rfl rfl
@[simp] theorem exec_contextReset (unit : Fin 512) (s : State) :
    exec (.contextReset unit) s = execContextReset unit s := Eq.trans rfl rfl
@[simp] theorem exec_portReset (unit : Fin 512) (s : State) :
    exec (.portReset unit) s = execPortReset unit s := Eq.trans rfl rfl
@[simp] theorem exec_iodReset (unit : Fin 512) (s : State) :
    exec (.iodReset unit) s = execIodReset unit s := Eq.trans rfl rfl
@[simp] theorem exec_stackReset (unit : Fin 512) (s : State) :
    exec (.stackReset unit) s = execStackReset unit s := Eq.trans rfl rfl
@[simp] theorem exec_dieReset (unit : Fin 512) (s : State) :
    exec (.dieReset unit) s = execDieReset unit s := Eq.trans rfl rfl
@[simp] theorem exec_deviceReset (i : StartInput) (s : State) :
    exec (.deviceReset i) s = execDeviceReset i s := Eq.trans rfl rfl
@[simp] theorem exec_resetComplete (domain : Fin 9) (unit : Fin 512) (s : State) :
    exec (.resetComplete domain unit) s = execResetComplete domain unit s := Eq.trans rfl rfl
@[simp] theorem exec_resetEscalation (domain : Fin 9) (unit : Fin 512) (s : State) :
    exec (.resetEscalation domain unit) s = execResetEscalation domain unit s := Eq.trans rfl rfl
@[simp] theorem exec_requestRefused (core : Fin 64) (slot : Fin 16) (domain : Fin 9) (unit : Fin 512) (s : State) :
    exec (.requestRefused core slot domain unit) s = execRequestRefused core slot domain unit s := Eq.trans rfl rfl
@[simp] theorem exec_refuseLimitExpiry (core : Fin 64) (slot : Fin 16) (s : State) :
    exec (.refuseLimitExpiry core slot) s = execRefuseLimitExpiry core slot s := Eq.trans rfl rfl
@[simp] theorem exec_staleReply (domain : Fin 9) (unit : Fin 512) (gen : Nat) (s : State) :
    exec (.staleReply domain unit gen) s = execStaleReply domain unit gen s := Eq.trans rfl rfl
@[simp] theorem exec_jobFaultRaise (who : Who) (ctx : Fin 16) (origin : Nat) (s : State) :
    exec (.jobFaultRaise who ctx origin) s = execJobFaultRaise who ctx origin s := Eq.trans rfl rfl
@[simp] theorem exec_resetN  (s : State) :
    exec (.resetN) s = execResetN s := Eq.trans rfl rfl
@[simp] theorem exec_thermalTrip (sensor : Fin 81) (reading : Nat) (s : State) :
    exec (.thermalTrip sensor reading) s = execThermalTrip sensor reading s := Eq.trans rfl rfl
@[simp] theorem exec_powerTrip  (s : State) :
    exec (.powerTrip) s = execPowerTrip s := Eq.trans rfl rfl
@[simp] theorem exec_railFault (rail : Fin 9) (current : Bool) (reading : Nat) (s : State) :
    exec (.railFault rail current reading) s = execRailFault rail current reading s := Eq.trans rfl rfl
@[simp] theorem exec_throttleWindow  (s : State) :
    exec (.throttleWindow) s = execThrottleWindow s := Eq.trans rfl rfl
@[simp] theorem exec_dieLinkRead (module : Bool) (tag : Nat) (gen : Nat) (addr : Nat) (len : Nat) (errs : List LineErr) (s : State) :
    exec (.dieLinkRead module tag gen addr len errs) s = execDieLinkRead module tag gen addr len errs s := Eq.trans rfl rfl
@[simp] theorem exec_dieLinkWrite (module : Bool) (tag : Nat) (gen : Nat) (addr : Nat) (data : List Byte) (errs : List LineErr) (s : State) :
    exec (.dieLinkWrite module tag gen addr data errs) s = execDieLinkWrite module tag gen addr data errs s := Eq.trans rfl rfl
@[simp] theorem exec_readReply (module : Bool) (tag : Nat) (s : State) :
    exec (.readReply module tag) s = execReadReply module tag s := Eq.trans rfl rfl
@[simp] theorem exec_writeAck (module : Bool) (tag : Nat) (s : State) :
    exec (.writeAck module tag) s = execWriteAck module tag s := Eq.trans rfl rfl
@[simp] theorem exec_record  (s : State) :
    exec (.record) s = execRecord s := Eq.trans rfl rfl
@[simp] theorem exec_ucieModuleDown (module : Bool) (s : State) :
    exec (.ucieModuleDown module) s = execUcieModuleDown module s := Eq.trans rfl rfl
@[simp] theorem exec_ethernetFrame (port : Bool) (rx : Bool) (bs : List Byte) (stamp : Option Nat) (op : EthOp) (s : State) :
    exec (.ethernetFrame port rx bs stamp op) s = execEthernetFrame port rx bs stamp op s := Eq.trans rfl rfl
@[simp] theorem exec_killComplete (ctx : Fin 16) (s : State) :
    exec (.killComplete ctx) s = execKillComplete ctx s := Eq.trans rfl rfl
@[simp] theorem exec_chainLinkUp (link : Bool) (loop : Nat) (s : State) :
    exec (.chainLinkUp link loop) s = execChainLinkUp link loop s := Eq.trans rfl rfl
@[simp] theorem exec_chainLinkLost (link : Bool) (s : State) :
    exec (.chainLinkLost link) s = execChainLinkLost link s := Eq.trans rfl rfl
@[simp] theorem exec_ptpLockLost  (s : State) :
    exec (.ptpLockLost) s = execPtpLockLost s := Eq.trans rfl rfl
@[simp] theorem exec_cxlLinkDown (port : Fin 8) (s : State) :
    exec (.cxlLinkDown port) s = execCxlLinkDown port s := Eq.trans rfl rfl
@[simp] theorem exec_cxlLinkRetrained (port : Fin 8) (width : Nat) (rate : Fin 3) (s : State) :
    exec (.cxlLinkRetrained port width rate) s = execCxlLinkRetrained port width rate s := Eq.trans rfl rfl
@[simp] theorem exec_flashWriteComplete (ok : Bool) (s : State) :
    exec (.flashWriteComplete ok) s = execFlashWriteComplete ok s := Eq.trans rfl rfl
@[simp] theorem exec_powerLoss  (s : State) :
    exec (.powerLoss) s = execPowerLoss s := Eq.trans rfl rfl

end Sys2Proof.Machine
end

