-- ==== Sys2Proof/Laws/Keep.lean ====
section
/-!
SUPPORT. Laws/Keep.lean: what a sequence may do. A primitive change is of one of 31 fields, numbered in the order of State;
`Keep n m` says that `m` ends and makes changes only of the fields whose bit is set in `n`, so that a relation that those
changes keep holds between the states before and after.
-/

namespace Sys2Proof.Machine

/-- The number of the field that a primitive change is of. -/
def Prim.field : Prim → Nat
  | .modFreeCtr _ => 0
  | .setReg _ _ => 1
  | .resetRegs _ => 1
  | .setMem _ _ => 2
  | .clearMem _ => 2
  | .copyMem _ _ _ => 2
  | .setSyn _ _ => 3
  | .clearSyn _ => 3
  | .setDraw _ _ => 4
  | .clearDraw _ => 4
  | .modTick _ => 5
  | .modTime _ => 6
  | .modLatched _ => 7
  | .modDue _ => 8
  | .modLineErrs _ => 9
  | .modOx _ _ => 10
  | .modCore _ _ => 11
  | .modCtx _ _ => 12
  | .modStack _ _ => 13
  | .modTrouble _ => 14
  | .modCond _ => 15
  | .modOutbox _ => 16
  | .modCxl _ _ => 17
  | .modWagon _ => 18
  | .modDeepNext _ => 19
  | .modHistory _ => 20
  | .modTrPend _ => 21
  | .modResets _ => 22
  | .modPort _ _ => 23
  | .modFab _ => 24
  | .modSec _ => 25
  | .modFlash _ => 26
  | .modChain _ => 27
  | .modPwr _ => 28
  | .modLink _ => 29

/-- A relation between states that holds of a state and itself, and goes on from one change to the next. -/
structure Rel where
  r : State → State → Prop
  refl : ∀ s, r s s
  trans : ∀ a b c, r a b → r b c → r a c

/-- A relation that every change of a field of `n` keeps. -/
def Rel.of (R : Rel) (n : Nat) : Prop := ∀ p : Prim, n.testBit p.field = true → ∀ s, R.r s (p.apply s)

variable {α β : Type}

/-- A sequence ends, and changes only fields of `n`. -/
structure Keep (n : Nat) (m : M α) : Prop where
  ends : ∀ R : Rel, R.of n → ∀ s : State, ∃ a t, R.r s t ∧ Gives m s a t

theorem Keep.pure (n : Nat) (a : α) : Keep n (Pure.pure a : M α) := ⟨fun R _ s => ⟨a, s, R.refl s, fun _ => rfl⟩⟩

theorem Keep.getS (n : Nat) : Keep n getS := ⟨fun R _ s => ⟨s, s, R.refl s, fun _ => rfl⟩⟩

theorem Keep.bind {n : Nat} {x : M α} {f : α → M β} (hx : Keep n x) (hf : ∀ a, Keep n (f a)) : Keep n (x >>= f) := by
  refine ⟨fun R hR s => ?_⟩
  obtain ⟨a, t, h1, e1⟩ := hx.ends R hR s
  obtain ⟨b, u, h2, e2⟩ := (hf a).ends R hR t
  exact ⟨b, u, R.trans _ _ _ h1 h2, fun k => (e1 (fun a => f a k)).trans (e2 k)⟩

theorem Keep.mono {n k : Nat} {m : M α} (h : Keep n m) (hs : n &&& k = n) : Keep k m := by
  refine ⟨fun R hR s => ?_⟩
  refine h.ends R (fun p hp => hR p ?_) s
  rw [← hs, Nat.testBit_and, Bool.and_eq_true] at hp
  exact hp.2

theorem Keep.prim {n : Nat} (p : Prim) (h : n.testBit p.field = true) : Keep n (Machine.prim p) :=
  ⟨fun R hR s => ⟨(), p.apply s, hR p h s, fun _ => rfl⟩⟩

theorem Keep.each {n : Nat} {l : List α} {f : α → M Unit} (h : ∀ a, Keep n (f a)) : Keep n (Machine.each l f) := by
  induction l with
  | nil => exact Keep.pure n ()
  | cons x xs ih => exact Keep.bind (h x) (fun _ => ih)

theorem Keep.gather {n : Nat} {l : List α} {f : α → M β} (h : ∀ a, Keep n (f a)) : Keep n (Machine.gather l f) := by
  induction l with
  | nil => exact Keep.pure n []
  | cons x xs ih => exact Keep.bind (h x) (fun _ => Keep.bind ih (fun _ => Keep.pure n _))

theorem Keep.when' {n : Nat} {c : Bool} {m : M Unit} (h : Keep n m) : Keep n (Machine.when' c m) := by
  unfold Machine.when'
  split
  · exact h
  · exact Keep.pure n ()

theorem Keep.ite {n : Nat} {c : Prop} [Decidable c] {x y : M α} (hx : Keep n x) (hy : Keep n y) : Keep n (if c then x else y) := by
  split
  · exact hx
  · exact hy

/-- The number of a part. -/
def Fd.num : Fd → Nat
  | .freeCtr => 0
  | .regs => 1
  | .mem => 2
  | .syn => 3
  | .draw => 4
  | .tick => 5
  | .time => 6
  | .latched => 7
  | .due => 8
  | .lineErrs => 9
  | .oxen => 10
  | .cores => 11
  | .ctxs => 12
  | .hbm => 13
  | .trouble => 14
  | .cond => 15
  | .outbox => 16
  | .cxls => 17
  | .wagon => 18
  | .deepNext => 19
  | .history => 20
  | .trPend => 21
  | .resets => 22
  | .ports => 23
  | .fab => 24
  | .sec => 25
  | .flash => 26
  | .chain => 27
  | .pwr => 28
  | .link => 29

/-- Two states agree in the queue, the assembly and every part whose bit is not set in `n`. -/
def SameBut (n : Nat) (s t : State) : Prop :=
  t.pending = s.pending ∧ t.part = s.part ∧ ∀ f : Fd, n.testBit f.num = false → State.sameAt f s t

theorem SameBut.refl (n : Nat) (s : State) : SameBut n s s := ⟨rfl, rfl, fun f _ => by cases f <;> rfl⟩

theorem SameBut.trans {n : Nat} {a b c : State} (h : SameBut n a b) (k : SameBut n b c) : SameBut n a c := by
  refine ⟨k.1.trans h.1, k.2.1.trans h.2.1, fun f hf => ?_⟩
  have h1 := h.2.2 f hf
  have h2 := k.2.2 f hf
  cases f <;> exact h2.trans h1

theorem Prim.same (p : Prim) (n : Nat) (h : n.testBit p.field = true) (s : State) : SameBut n s (p.apply s) := by
  refine ⟨by cases p <;> rfl, by cases p <;> rfl, fun f hf => ?_⟩
  cases p <;> cases f <;> first | rfl | (exact absurd (hf.symm.trans h) (by decide))

/-- A sequence that changes only parts of `n` gives a value and leaves every other part. -/
theorem Keep.gives {n : Nat} {m : M α} (h : Keep n m) (s : State) : ∃ a t, SameBut n s t ∧ Gives m s a t :=
  h.ends ⟨SameBut n, SameBut.refl n, fun _ _ _ => SameBut.trans⟩ (fun p hp s => p.same n hp s) s

/-- The same before a given rest. -/
theorem Keep.frame {n : Nat} {m : M α} (h : Keep n m) (s : State) (k : α → Act) :
    ∃ a t, SameBut n s t ∧ Act.run (m k) s = Act.run (k a) t := by
  obtain ⟨a, t, h1, e⟩ := h.gives s
  exact ⟨a, t, h1, e k⟩

/-- A meaning changes only what its sequence changes. -/
theorem Keep.meaning {n : Nat} {m : M Unit} (h : Keep n m) (s : State) : ∃ t, SameBut n s t ∧ runM m s = .next t := by
  obtain ⟨_, t, h1, h2⟩ := h.frame s (fun _ => Act.done)
  exact ⟨t, h1, congrArg Host.Outcome.next h2⟩

end Sys2Proof.Machine
end

