-- ==== Sys2Proof/Laws/KeepsA.lean ====
section
/-!
SUPPORT. Laws/KeepsA.lean: the fields that each shared operation may change, one lemma each.
-/

namespace Sys2Proof.Machine

theorem keep_modFreeCtr (f : Nat → Nat) : Keep 0x1 (modFreeCtr f) := Keep.prim _ (show Nat.testBit 0x1 0 = true by decide)
theorem keep_modTick (f : Nat → Nat) : Keep 0x20 (modTick f) := Keep.prim _ (show Nat.testBit 0x20 5 = true by decide)
theorem keep_modTime (f : TimeSt → TimeSt) : Keep 0x40 (modTime f) := Keep.prim _ (show Nat.testBit 0x40 6 = true by decide)
theorem keep_modLatched (f : (List Ev) → (List Ev)) : Keep 0x80 (modLatched f) := Keep.prim _ (show Nat.testBit 0x80 7 = true by decide)
theorem keep_modDue (f : (List Ev) → (List Ev)) : Keep 0x100 (modDue f) := Keep.prim _ (show Nat.testBit 0x100 8 = true by decide)
theorem keep_modLineErrs (f : (List LineErr) → (List LineErr)) : Keep 0x200 (modLineErrs f) := Keep.prim _ (show Nat.testBit 0x200 9 = true by decide)
theorem keep_modOx (i : Nat) (f : Ox → Ox) : Keep 0x400 (modOx i f) := Keep.prim _ (show Nat.testBit 0x400 10 = true by decide)
theorem keep_modCore (i : Nat) (f : CoreSt → CoreSt) : Keep 0x800 (modCore i f) := Keep.prim _ (show Nat.testBit 0x800 11 = true by decide)
theorem keep_modCtx (i : Nat) (f : CtxSt → CtxSt) : Keep 0x1000 (modCtx i f) := Keep.prim _ (show Nat.testBit 0x1000 12 = true by decide)
theorem keep_modStack (i : Nat) (f : StackSt → StackSt) : Keep 0x2000 (modStack i f) := Keep.prim _ (show Nat.testBit 0x2000 13 = true by decide)
theorem keep_modTrouble (f : (List (List Byte)) → (List (List Byte))) : Keep 0x4000 (modTrouble f) := Keep.prim _ (show Nat.testBit 0x4000 14 = true by decide)
theorem keep_modCond (f : (List (List Byte)) → (List (List Byte))) : Keep 0x8000 (modCond f) := Keep.prim _ (show Nat.testBit 0x8000 15 = true by decide)
theorem keep_modOutbox (f : (List OutMsg) → (List OutMsg)) : Keep 0x10000 (modOutbox f) := Keep.prim _ (show Nat.testBit 0x10000 16 = true by decide)
theorem keep_modCxl (i : Nat) (f : CxlSt → CxlSt) : Keep 0x20000 (modCxl i f) := Keep.prim _ (show Nat.testBit 0x20000 17 = true by decide)
theorem keep_modWagon (f : WagonSt → WagonSt) : Keep 0x40000 (modWagon f) := Keep.prim _ (show Nat.testBit 0x40000 18 = true by decide)
theorem keep_modDeepNext (f : Nat → Nat) : Keep 0x80000 (modDeepNext f) := Keep.prim _ (show Nat.testBit 0x80000 19 = true by decide)
theorem keep_modHistory (f : (List RepEnt) → (List RepEnt)) : Keep 0x100000 (modHistory f) := Keep.prim _ (show Nat.testBit 0x100000 20 = true by decide)
theorem keep_modTrPend (f : (List PendRec) → (List PendRec)) : Keep 0x200000 (modTrPend f) := Keep.prim _ (show Nat.testBit 0x200000 21 = true by decide)
theorem keep_modResets (f : (List ResetOp) → (List ResetOp)) : Keep 0x400000 (modResets f) := Keep.prim _ (show Nat.testBit 0x400000 22 = true by decide)
theorem keep_modPort (i : Nat) (f : PortSt → PortSt) : Keep 0x800000 (modPort i f) := Keep.prim _ (show Nat.testBit 0x800000 23 = true by decide)
theorem keep_modFab (f : FabSt → FabSt) : Keep 0x1000000 (modFab f) := Keep.prim _ (show Nat.testBit 0x1000000 24 = true by decide)
theorem keep_modSec (f : SecSt → SecSt) : Keep 0x2000000 (modSec f) := Keep.prim _ (show Nat.testBit 0x2000000 25 = true by decide)
theorem keep_modFlash (f : FlashSt → FlashSt) : Keep 0x4000000 (modFlash f) := Keep.prim _ (show Nat.testBit 0x4000000 26 = true by decide)
theorem keep_modChain (f : ChainSt → ChainSt) : Keep 0x8000000 (modChain f) := Keep.prim _ (show Nat.testBit 0x8000000 27 = true by decide)
theorem keep_modPwr (f : PwrSt → PwrSt) : Keep 0x10000000 (modPwr f) := Keep.prim _ (show Nat.testBit 0x10000000 28 = true by decide)
theorem keep_modLink (f : LinkSt → LinkSt) : Keep 0x20000000 (modLink f) := Keep.prim _ (show Nat.testBit 0x20000000 29 = true by decide)
theorem keep_setReg (a v : Nat) : Keep 0x2 (setReg a v) := Keep.prim _ (show Nat.testBit 0x2 1 = true by decide)
theorem keep_resetRegs (p : Nat → Bool) : Keep 0x2 (resetRegs p) := Keep.prim _ (show Nat.testBit 0x2 1 = true by decide)
theorem keep_setMem (a : Nat) (bs : List Byte) : Keep 0x4 (setMem a bs) := Keep.prim _ (show Nat.testBit 0x4 2 = true by decide)
theorem keep_clearMem (p : Nat → Bool) : Keep 0x4 (clearMem p) := Keep.prim _ (show Nat.testBit 0x4 2 = true by decide)
theorem keep_copyMem (a b c : Nat) : Keep 0x4 (copyMem a b c) := Keep.prim _ (show Nat.testBit 0x4 2 = true by decide)
theorem keep_setSyn (a : Nat) (v : BitVec 32) : Keep 0x8 (setSyn a v) := Keep.prim _ (show Nat.testBit 0x8 3 = true by decide)
theorem keep_clearSyn (p : Nat → Bool) : Keep 0x8 (clearSyn p) := Keep.prim _ (show Nat.testBit 0x8 3 = true by decide)
theorem keep_setDraw (a v : Nat) : Keep 0x10 (setDraw a v) := Keep.prim _ (show Nat.testBit 0x10 4 = true by decide)
theorem keep_clearDraw (p : Nat → Bool) : Keep 0x10 (clearDraw p) := Keep.prim _ (show Nat.testBit 0x10 4 = true by decide)

theorem keep_setFld (f : Fld) (v : Nat) : Keep 0x2 (setFld f v) := by
  delta setFld
  refine Keep.bind ?_ fun _ => ?_
  · exact Keep.getS _
  · exact Keep.mono (keep_setReg ..) rfl

theorem keep_flag (f : Fld) : Keep 0x2 (flag f) := by
  delta flag
  exact Keep.mono (keep_setFld ..) rfl

theorem keep_fld (f : Fld) : Keep 0x0 (fld f) := by
  delta fld
  refine Keep.bind ?_ fun _ => ?_
  · exact Keep.getS _
  · exact Keep.pure _ _

theorem keep_bumpBy (f : Fld) (n : Nat) : Keep 0x2 (bumpBy f n) := by
  delta bumpBy
  refine Keep.ite ?_ ?_
  · refine Keep.bind ?_ fun _ => ?_
    · exact Keep.mono (keep_fld ..) rfl
    · exact Keep.mono (keep_setFld ..) rfl
  · exact Keep.pure _ _

theorem keep_abandonSpans (n : Nat) : Keep 0x802 (abandonSpans n) := by
  delta abandonSpans
  refine Keep.bind ?_ fun _ => ?_
  · exact Keep.getS _
  · dsimp only
    refine Keep.ite ?_ ?_
    · refine Keep.bind ?_ fun _ => ?_
      · exact Keep.mono (keep_flag ..) rfl
      · refine Keep.bind ?_ fun _ => ?_
        · exact Keep.mono (keep_bumpBy ..) rfl
        · exact Keep.mono (keep_modCore ..) rfl
    · exact Keep.pure _ _

theorem keep_latch (e : Ev) : Keep 0x80 (latch e) := by
  delta latch
  exact Keep.mono (keep_modLatched ..) rfl

theorem keep_faultEv (t : Trouble) : Keep 0x80 (faultEv t) := by
  delta faultEv
  exact Keep.mono (keep_latch ..) rfl

theorem keep_faultCore (n : Nat) (kind : Nat) (code : Nat) (unit : Nat) (d32 : Nat) (addr : Nat) (detail : Nat) : Keep 0x80 (faultCore n kind code unit d32 addr detail) := by
  delta faultCore
  refine Keep.bind ?_ fun _ => ?_
  · exact Keep.getS _
  · exact Keep.mono (keep_faultEv ..) rfl

theorem keep_streamFault (n : Nat) (code : Nat) (slot : Nat) (tile : Nat) : Keep 0x882 (streamFault n code slot tile) := by
  delta streamFault
  refine Keep.bind ?_ fun _ => ?_
  · exact Keep.mono (keep_setFld ..) rfl
  · refine Keep.bind ?_ fun _ => ?_
    · exact Keep.mono (keep_setFld ..) rfl
    · refine Keep.bind ?_ fun _ => ?_
      · exact Keep.mono (keep_setFld ..) rfl
      · refine Keep.bind ?_ fun _ => ?_
        · exact Keep.mono (keep_flag ..) rfl
        · refine Keep.bind ?_ fun _ => ?_
          · exact Keep.mono (keep_setReg ..) rfl
          · refine Keep.bind ?_ fun _ => ?_
            · exact Keep.mono (keep_modCore ..) rfl
            · refine Keep.bind ?_ fun _ => ?_
              · exact Keep.mono (keep_abandonSpans ..) rfl
              · exact Keep.mono (keep_faultCore ..) rfl

theorem keep_stationFault (n : Nat) (code : Nat) (k : Nat) (i : Nat) : Keep 0x882 (stationFault n code k i) := by
  delta stationFault
  exact Keep.mono (keep_streamFault ..) rfl

theorem keep_guardDir (req : Nat) (pa : Nat) (mask : Nat) : Keep 0x40000 (guardDir req pa mask) := by
  delta guardDir
  refine Keep.bind ?_ fun _ => ?_
  · exact Keep.getS _
  · dsimp only
    refine Keep.when' ?_
    refine Keep.each fun _ => ?_
    exact Keep.mono (keep_modWagon ..) rfl

theorem keep_noteSlots (st : Nat) (now : Nat) : Keep 0x2 (noteSlots st now) := by
  delta noteSlots
  refine Keep.bind ?_ fun _ => ?_
  · exact Keep.getS _
  · refine Keep.bind ?_ fun _ => ?_
    · exact Keep.mono (keep_setFld ..) rfl
    · refine Keep.bind ?_ fun _ => ?_
      · exact Keep.mono (keep_fld ..) rfl
      · refine Keep.when' ?_
        exact Keep.mono (keep_setFld ..) rfl

theorem keep_noteSlot (st : Nat) (a : Nat) : Keep 0x2002 (noteSlot st a) := by
  delta noteSlot
  refine Keep.bind ?_ fun _ => ?_
  · exact Keep.getS _
  · refine Keep.bind ?_ fun _ => ?_
    · exact Keep.mono (keep_noteSlots ..) rfl
    · exact Keep.mono (keep_modStack ..) rfl

theorem keep_bump (f : Fld) : Keep 0x2 (bump f) := by
  delta bump
  exact Keep.mono (keep_bumpBy ..) rfl

theorem keep_noteClass (st : Nat) (a : Nat) (cls : Nat) : Keep 0x2002 (noteClass st a cls) := by
  delta noteClass
  refine Keep.ite ?_ ?_
  · refine Keep.bind ?_ fun _ => ?_
    · exact Keep.getS _
    · refine Keep.ite ?_ ?_
      · exact Keep.mono (keep_bump ..) rfl
      · exact Keep.mono (keep_modStack ..) rfl
  · exact Keep.pure _ _

theorem keep_dropWcb (st : Nat) (line : Nat) : Keep 0x2000 (dropWcb st line) := by
  delta dropWcb
  exact Keep.mono (keep_modStack ..) rfl

theorem keep_setPoison (a : Nat) (p : Bool) : Keep 0x8 (setPoison a p) := by
  delta setPoison
  exact Keep.mono (keep_setSyn ..) rfl

theorem keep_writeStored (st : Nat) (a : Nat) (bs : List Byte) (poison : Bool) : Keep 0xe (writeStored st a bs poison) := by
  delta writeStored
  refine Keep.bind ?_ fun _ => ?_
  · exact Keep.mono (keep_setMem ..) rfl
  · refine Keep.bind ?_ fun _ => ?_
    · exact Keep.mono (keep_setPoison ..) rfl
    · exact Keep.mono (keep_bump ..) rfl

theorem keep_logEvent (w0 : Nat → Nat) (w1 : Nat → Nat) (size : Nat) (line : Nat) (source : Nat) (lost : Fld) (full : Fld) : Keep 0x2 (logEvent w0 w1 size line source lost full) := by
  delta logEvent
  refine Keep.bind ?_ fun _ => ?_
  · exact Keep.getS _
  · dsimp only
    split
    · refine Keep.bind ?_ fun _ => ?_
      · exact Keep.mono (keep_setReg ..) rfl
      · exact Keep.mono (keep_setReg ..) rfl
    · split
      · refine Keep.bind ?_ fun _ => ?_
        · exact Keep.mono (keep_setReg ..) rfl
        · exact Keep.mono (keep_setReg ..) rfl
      · refine Keep.bind ?_ fun _ => ?_
        · exact Keep.mono (keep_bump ..) rfl
        · exact Keep.mono (keep_flag ..) rfl

theorem keep_logCe (st : Nat) (line : Nat) (source : Nat) : Keep 0x2 (logCe st line source) := by
  delta logCe
  refine Keep.bind ?_ fun _ => ?_
  · exact Keep.mono (keep_bump ..) rfl
  · exact Keep.mono (keep_logEvent ..) rfl

theorem keep_logUe (st : Nat) (line : Nat) (source : Nat) : Keep 0x2 (logUe st line source) := by
  delta logUe
  refine Keep.bind ?_ fun _ => ?_
  · exact Keep.mono (keep_bump ..) rfl
  · exact Keep.mono (keep_logEvent ..) rfl

theorem keep_readStored (st : Nat) (a : Nat) (source : Nat) : Keep 0x2 (readStored st a source) := by
  delta readStored
  refine Keep.bind ?_ fun _ => ?_
  · exact Keep.getS _
  · dsimp only
    refine Keep.bind ?_ fun _ => ?_
    · exact Keep.mono (keep_bump ..) rfl
    · split
      · exact Keep.pure _ _
      · refine Keep.bind ?_ fun _ => ?_
        · exact Keep.mono (keep_bump ..) rfl
        · exact Keep.pure _ _
      · refine Keep.bind ?_ fun _ => ?_
        · exact Keep.mono (keep_bump ..) rfl
        · split
          · refine Keep.bind ?_ fun _ => ?_
            · exact Keep.mono (keep_logCe ..) rfl
            · exact Keep.pure _ _
          · refine Keep.bind ?_ fun _ => ?_
            · exact Keep.mono (keep_logCe ..) rfl
            · refine Keep.bind ?_ fun _ => ?_
              · exact Keep.mono (keep_bump ..) rfl
              · exact Keep.pure _ _
          · refine Keep.bind ?_ fun _ => ?_
            · exact Keep.mono (keep_logUe ..) rfl
            · exact Keep.pure _ _

theorem keep_freeBytes (n : Nat) : Keep 0x1 (freeBytes n) := by
  delta freeBytes
  refine Keep.bind ?_ fun _ => ?_
  · exact Keep.getS _
  · refine Keep.bind ?_ fun _ => ?_
    · exact Keep.mono (keep_modFreeCtr ..) rfl
    · exact Keep.pure _ _

theorem keep_lineData (a : Nat) (g : LineGot) : Keep 0x1 (lineData a g) := by
  delta lineData
  split
  · exact Keep.mono (keep_freeBytes ..) rfl
  · refine Keep.bind ?_ fun _ => ?_
    · exact Keep.getS _
    · exact Keep.pure _ _

theorem keep_completeEntry (st : Nat) (e : Wcb) : Keep 0x200f (completeEntry st e) := by
  delta completeEntry
  refine Keep.bind ?_ fun _ => ?_
  · exact Keep.mono (keep_dropWcb ..) rfl
  · refine Keep.ite ?_ ?_
    · refine Keep.bind ?_ fun _ => ?_
      · exact Keep.mono (keep_bump ..) rfl
      · exact Keep.mono (keep_writeStored ..) rfl
    · refine Keep.bind ?_ fun _ => ?_
      · exact Keep.mono (keep_readStored ..) rfl
      · refine Keep.bind ?_ fun _ => ?_
        · exact Keep.mono (keep_lineData ..) rfl
        · dsimp only
          refine Keep.bind ?_ fun _ => ?_
          · exact Keep.mono (keep_bump ..) rfl
          · refine Keep.bind ?_ fun _ => ?_
            · exact Keep.mono (keep_writeStored ..) rfl
            · refine Keep.when' ?_
              exact Keep.mono (keep_flag ..) rfl

theorem keep_partialStored (st : Nat) (line : Nat) (req : Nat) (data : Nat) (mask : Nat) (poison : Bool) : Keep 0x200f (partialStored st line req data mask poison) := by
  delta partialStored
  refine Keep.bind ?_ fun _ => ?_
  · exact Keep.getS _
  · dsimp only
    split
    · refine Keep.ite ?_ ?_
      · exact Keep.mono (keep_completeEntry ..) rfl
      · exact Keep.mono (keep_modStack ..) rfl
    · refine Keep.ite ?_ ?_
      · split
        · refine Keep.bind ?_ fun _ => ?_
          · exact Keep.mono (keep_bump ..) rfl
          · refine Keep.bind ?_ fun _ => ?_
            · exact Keep.mono (keep_completeEntry ..) rfl
            · exact Keep.mono (keep_modStack ..) rfl
        · exact Keep.mono (keep_modStack ..) rfl
      · exact Keep.mono (keep_modStack ..) rfl

theorem keep_writeMerged (st : Nat) (a : Nat) (req : Nat) (data : Nat) (mask : Nat) (poison : Bool) : Keep 0x200f (writeMerged st a req data mask poison) := by
  delta writeMerged
  refine Keep.ite ?_ ?_
  · refine Keep.bind ?_ fun _ => ?_
    · exact Keep.mono (keep_dropWcb ..) rfl
    · exact Keep.mono (keep_writeStored ..) rfl
  · exact Keep.mono (keep_partialStored ..) rfl

theorem keep_completeLine (st : Nat) (line : Nat) : Keep 0x200f (completeLine st line) := by
  delta completeLine
  refine Keep.bind ?_ fun _ => ?_
  · exact Keep.getS _
  · split
    · exact Keep.mono (keep_completeEntry ..) rfl
    · exact Keep.pure _ _

theorem keep_readMerged (st : Nat) (a : Nat) (source : Nat) : Keep 0x200f (readMerged st a source) := by
  delta readMerged
  refine Keep.bind ?_ fun _ => ?_
  · exact Keep.getS _
  · refine Keep.ite ?_ ?_
    · refine Keep.bind ?_ fun _ => ?_
      · exact Keep.mono (keep_completeLine ..) rfl
      · refine Keep.bind ?_ fun _ => ?_
        · exact Keep.getS _
        · exact Keep.pure _ _
    · refine Keep.bind ?_ fun _ => ?_
      · exact Keep.mono (keep_readStored ..) rfl
      · refine Keep.bind ?_ fun _ => ?_
        · exact Keep.mono (keep_lineData ..) rfl
        · exact Keep.pure _ _

theorem keep_emit (m : OutMsg) : Keep 0x10000 (emit m) := by
  delta emit
  exact Keep.mono (keep_modOutbox ..) rfl

theorem keep_serveReq (st : Nat) (a : Nat) (q : HbmReq) : Keep 0x1200f (serveReq st a q) := by
  delta serveReq
  refine Keep.bind ?_ fun _ => ?_
  · exact Keep.mono (keep_modStack ..) rfl
  · refine Keep.bind ?_ fun _ => ?_
    · exact Keep.mono (keep_noteSlot ..) rfl
    · refine Keep.bind ?_ fun _ => ?_
      · exact Keep.mono (keep_noteClass ..) rfl
      · split
        · exact Keep.mono (keep_writeMerged ..) rfl
        · refine Keep.bind ?_ fun _ => ?_
          · exact Keep.mono (keep_readMerged ..) rfl
          · exact Keep.mono (keep_emit ..) rfl

theorem keep_serveLine (st : Nat) (a : Nat) : Keep 0x1200f (serveLine st a) := by
  delta serveLine
  refine Keep.bind ?_ fun _ => ?_
  · exact Keep.getS _
  · refine Keep.each fun _ => ?_
    exact Keep.mono (keep_serveReq ..) rfl

theorem keep_writeHbm (req : Nat) (st : Nat) (off : Nat) (data : Nat) (mask : Nat) (poison : Bool) : Keep 0x5200f (writeHbm req st off data mask poison) := by
  delta writeHbm
  refine Keep.bind ?_ fun _ => ?_
  · exact Keep.getS _
  · split
    · exact Keep.pure _ _
    · exact Keep.pure _ _
    · exact Keep.pure _ _
    · refine Keep.bind ?_ fun _ => ?_
      · exact Keep.mono (keep_guardDir ..) rfl
      · refine Keep.bind ?_ fun _ => ?_
        · exact Keep.mono (keep_serveLine ..) rfl
        · refine Keep.bind ?_ fun _ => ?_
          · exact Keep.mono (keep_noteSlot ..) rfl
          · refine Keep.bind ?_ fun _ => ?_
            · exact Keep.mono (keep_writeMerged ..) rfl
            · exact Keep.pure _ _

theorem keep_dropTurned (st : Nat) (req : Nat) (line : Nat) (write : Bool) : Keep 0x2000 (dropTurned st req line write) := by
  delta dropTurned
  exact Keep.mono (keep_modStack ..) rfl

theorem keep_turnAway (v : Via) (st : Nat) (line : Nat) (write : Bool) : Keep 0x2002 (turnAway v st line write) := by
  delta turnAway
  refine Keep.bind ?_ fun _ => ?_
  · exact Keep.getS _
  · split
    · refine Keep.bind ?_ fun _ => ?_
      · refine Keep.when' ?_
        exact Keep.mono (keep_dropTurned ..) rfl
      · exact Keep.pure _ _
    · refine Keep.bind ?_ fun _ => ?_
      · exact Keep.mono (keep_modStack ..) rfl
      · refine Keep.bind ?_ fun _ => ?_
        · exact Keep.mono (keep_bump ..) rfl
        · exact Keep.pure _ _

theorem keep_unitWrite (v : Via) (req : Nat) (st : Nat) (off : Nat) (data : Nat) (mask : Nat) (poison : Bool) : Keep 0x5200f (unitWrite v req st off data mask poison) := by
  delta unitWrite
  refine Keep.bind ?_ fun _ => ?_
  · exact Keep.mono (keep_writeHbm ..) rfl
  · split
    · dsimp only
      refine Keep.ite ?_ ?_
      · refine Keep.bind ?_ fun _ => ?_
        · exact Keep.mono (keep_turnAway ..) rfl
        · refine Keep.ite ?_ ?_
          · exact Keep.pure _ _
          · exact Keep.pure _ _
      · refine Keep.bind ?_ fun _ => ?_
        · exact Keep.pure _ _
        · refine Keep.ite ?_ ?_
          · exact Keep.pure _ _
          · exact Keep.pure _ _
    · exact Keep.pure _ _

theorem keep_countFailed (x : Nat) (ctx : Option Nat) : Keep 0x2 (countFailed x ctx) := by
  delta countFailed
  refine Keep.bind ?_ fun _ => ?_
  · exact Keep.mono (keep_bump ..) rfl
  · split
    · exact Keep.mono (keep_bump ..) rfl
    · exact Keep.pure _ _

theorem keep_dropPolled (x : Nat) (req : Nat) (write : Bool) : Keep 0x20000 (dropPolled x req write) := by
  delta dropPolled
  refine Keep.bind ?_ fun _ => ?_
  · exact Keep.getS _
  · refine Keep.when' ?_
    exact Keep.mono (keep_modCxl ..) rfl

theorem keep_deepOut (x : Nat) (off : Nat) (va : Nat) (req : Nat) (ctx : Option Nat) (data : Option (Nat × Nat)) (due : Option Nat) (leaf1 : Bool) (polled : Bool) : Keep 0xa0000 (deepOut x off va req ctx data due leaf1 polled) := by
  delta deepOut
  refine Keep.bind ?_ fun _ => ?_
  · exact Keep.getS _
  · refine Keep.bind ?_ fun _ => ?_
    · exact Keep.mono (keep_modDeepNext ..) rfl
    · exact Keep.mono (keep_modCxl ..) rfl

theorem keep_deepDown (v : Via) (x : Nat) (off : Nat) (data : Option (Nat × Nat)) : Keep 0xa0002 (deepDown v x off data) := by
  delta deepDown
  refine Keep.bind ?_ fun _ => ?_
  · exact Keep.getS _
  · dsimp only
    refine Keep.ite ?_ ?_
    · refine Keep.bind ?_ fun _ => ?_
      · exact Keep.mono (keep_countFailed ..) rfl
      · exact Keep.pure _ _
    · refine Keep.ite ?_ ?_
      · refine Keep.bind ?_ fun _ => ?_
        · refine Keep.when' ?_
          exact Keep.mono (keep_countFailed ..) rfl
        · exact Keep.pure _ _
      · refine Keep.bind ?_ fun _ => ?_
        · refine Keep.when' ?_
          refine Keep.bind ?_ fun _ => ?_
          · exact Keep.mono (keep_dropPolled ..) rfl
          · exact Keep.mono (keep_deepOut ..) rfl
        · exact Keep.pure _ _

theorem keep_writeDeepLine (v : Via) (off : Nat) (data : Nat) (mask : Nat) (poison : Bool) : Keep 0xa000f (writeDeepLine v off data mask poison) := by
  delta writeDeepLine
  refine Keep.bind ?_ fun _ => ?_
  · exact Keep.getS _
  · dsimp only
    refine Keep.ite ?_ ?_
    · exact Keep.pure _ _
    · refine Keep.ite ?_ ?_
      · refine Keep.bind ?_ fun _ => ?_
        · exact Keep.mono (keep_deepDown ..) rfl
        · split
          · exact Keep.pure _ _
          · refine Keep.bind ?_ fun _ => ?_
            · exact Keep.mono (keep_freeBytes ..) rfl
            · refine Keep.bind ?_ fun _ => ?_
              · exact Keep.mono (keep_setMem ..) rfl
              · exact Keep.pure _ _
      · refine Keep.bind ?_ fun _ => ?_
        · exact Keep.mono (keep_dropPolled ..) rfl
        · refine Keep.bind ?_ fun _ => ?_
          · exact Keep.mono (keep_bump ..) rfl
          · refine Keep.ite ?_ ?_
            · refine Keep.bind ?_ fun _ => ?_
              · exact Keep.mono (keep_setMem ..) rfl
              · refine Keep.bind ?_ fun _ => ?_
                · exact Keep.mono (keep_setPoison ..) rfl
                · exact Keep.pure _ _
            · refine Keep.bind ?_ fun _ => ?_
              · exact Keep.mono (keep_setMem ..) rfl
              · refine Keep.bind ?_ fun _ => ?_
                · refine Keep.when' ?_
                  exact Keep.mono (keep_setPoison ..) rfl
                · exact Keep.pure _ _

theorem keep_readHbm (req : Nat) (cls : Nat) (st : Nat) (off : Nat) (source : Nat) : Keep 0x1200f (readHbm req cls st off source) := by
  delta readHbm
  refine Keep.bind ?_ fun _ => ?_
  · exact Keep.getS _
  · split
    · exact Keep.pure _ _
    · exact Keep.pure _ _
    · refine Keep.bind ?_ fun _ => ?_
      · exact Keep.getS _
      · exact Keep.pure _ _
    · refine Keep.bind ?_ fun _ => ?_
      · exact Keep.mono (keep_serveLine ..) rfl
      · refine Keep.bind ?_ fun _ => ?_
        · exact Keep.mono (keep_noteSlot ..) rfl
        · refine Keep.bind ?_ fun _ => ?_
          · exact Keep.mono (keep_noteClass ..) rfl
          · refine Keep.bind ?_ fun _ => ?_
            · exact Keep.mono (keep_readMerged ..) rfl
            · split
              · exact Keep.pure _ _
              · exact Keep.pure _ _
              · exact Keep.pure _ _

theorem keep_unitRead (v : Via) (req : Nat) (cls : Nat) (st : Nat) (off : Nat) : Keep 0x1200f (unitRead v req cls st off) := by
  delta unitRead
  refine Keep.bind ?_ fun _ => ?_
  · exact Keep.mono (keep_readHbm ..) rfl
  · split
    · dsimp only
      refine Keep.ite ?_ ?_
      · refine Keep.bind ?_ fun _ => ?_
        · exact Keep.mono (keep_turnAway ..) rfl
        · refine Keep.ite ?_ ?_
          · refine Keep.bind ?_ fun _ => ?_
            · exact Keep.mono (keep_freeBytes ..) rfl
            · exact Keep.pure _ _
          · exact Keep.pure _ _
      · refine Keep.bind ?_ fun _ => ?_
        · exact Keep.pure _ _
        · refine Keep.ite ?_ ?_
          · refine Keep.bind ?_ fun _ => ?_
            · exact Keep.mono (keep_freeBytes ..) rfl
            · exact Keep.pure _ _
          · exact Keep.pure _ _
    · exact Keep.pure _ _

theorem keep_dirGate (v : Via) (d : Nat) : Keep 0x1200f (dirGate v d) := by
  delta dirGate
  refine Keep.bind ?_ fun _ => ?_
  · exact Keep.getS _
  · refine Keep.ite ?_ ?_
    · exact Keep.pure _ _
    · dsimp only
      refine Keep.bind ?_ fun _ => ?_
      · exact Keep.mono (keep_unitRead ..) rfl
      · split
        · exact Keep.pure _ _
        · exact Keep.pure _ _
        · exact Keep.pure _ _

theorem keep_writeHome (v : Via) (off : Nat) (data : Nat) (mask : Nat) (poison : Bool) : Keep 0xf200f (writeHome v off data mask poison) := by
  delta writeHome
  refine Keep.bind ?_ fun _ => ?_
  · exact Keep.getS _
  · split
    · exact Keep.pure _ _
    · exact Keep.mono (keep_unitWrite ..) rfl
    · exact Keep.mono (keep_writeDeepLine ..) rfl

theorem keep_addHeat (d : Nat) : Keep 0x40000 (addHeat d) := by
  delta addHeat
  refine Keep.bind ?_ fun _ => ?_
  · exact Keep.getS _
  · exact Keep.mono (keep_modWagon ..) rfl

theorem keep_heatIf (v : Via) (off : Nat) (held : Bool) : Keep 0x40000 (heatIf v off held) := by
  delta heatIf
  refine Keep.when' ?_
  exact Keep.mono (keep_addHeat ..) rfl

theorem keep_writeLine (v : Via) (pa : Nat) (data : Nat) (mask : Nat) (poison : Bool) : Keep 0xf200f (writeLine v pa data mask poison) := by
  delta writeLine
  refine Keep.bind ?_ fun _ => ?_
  · exact Keep.getS _
  · refine Keep.ite ?_ ?_
    · exact Keep.pure _ _
    · split
      · exact Keep.mono (keep_unitWrite ..) rfl
      · refine Keep.ite ?_ ?_
        · exact Keep.pure _ _
        · refine Keep.ite ?_ ?_
          · exact Keep.mono (keep_writeDeepLine ..) rfl
          · refine Keep.bind ?_ fun _ => ?_
            · exact Keep.mono (keep_dirGate ..) rfl
            · split
              · exact Keep.pure _ _
              · exact Keep.pure _ _
              · refine Keep.bind ?_ fun _ => ?_
                · exact Keep.mono (keep_writeHome ..) rfl
                · refine Keep.bind ?_ fun _ => ?_
                  · exact Keep.mono (keep_heatIf ..) rfl
                  · exact Keep.pure _ _
      · exact Keep.pure _ _

theorem keep_writePhys_go (v : Via) (poison : Bool) (x1 : List (Nat × Nat)) (x2 : List Byte) : Keep 0xf200f (writePhys.go v poison x1 x2) := by
  induction x1 generalizing x2 with
  | nil =>
    unfold writePhys.go
    exact Keep.pure _ _
  | cons _ _ ih =>
    unfold writePhys.go
    dsimp only
    refine Keep.bind ?_ fun _ => ?_
    · exact Keep.mono (keep_writeLine ..) rfl
    · split
      · exact ih ..
      · exact Keep.pure _ _

theorem keep_writePhys (v : Via) (pa : Nat) (bs : List Byte) (poison : Bool) : Keep 0xf200f (writePhys v pa bs poison) := by
  delta writePhys
  exact Keep.mono (keep_writePhys_go ..) rfl

theorem keep_flushRings (x1 : List (Nat × List Byte)) : Keep 0x200f200f (flushRings x1) := by
  induction x1 with
  | nil =>
    unfold flushRings
    exact Keep.mono (keep_modLink ..) rfl
  | cons _ _ ih =>
    unfold flushRings
    refine Keep.bind ?_ fun _ => ?_
    · exact Keep.mono (keep_writePhys ..) rfl
    · split
      · exact Keep.mono (keep_modLink ..) rfl
      · exact ih

theorem keep_ringRecord (a : Nat) (bs : List Byte) : Keep 0x200f200f (ringRecord a bs) := by
  delta ringRecord
  refine Keep.bind ?_ fun _ => ?_
  · exact Keep.getS _
  · dsimp only
    exact Keep.mono (keep_flushRings ..) rfl

theorem keep_writeRecord (r : PendRec) : Keep 0x200f200f (writeRecord r) := by
  delta writeRecord
  refine Keep.bind ?_ fun _ => ?_
  · exact Keep.getS _
  · dsimp only
    refine Keep.bind ?_ fun _ => ?_
    · exact Keep.mono (keep_modLink ..) rfl
    · refine Keep.ite ?_ ?_
      · exact Keep.mono (keep_ringRecord ..) rfl
      · exact Keep.pure _ _

theorem keep_flushRecords  : Keep 0x202f200f (flushRecords ) := by
  delta flushRecords
  refine Keep.bind ?_ fun _ => ?_
  · exact Keep.getS _
  · refine Keep.bind ?_ fun _ => ?_
    · refine Keep.each fun _ => ?_
      exact Keep.mono (keep_writeRecord ..) rfl
    · exact Keep.mono (keep_modTrPend ..) rfl

theorem keep_setSensor (i : Nat) (v : Nat) : Keep 0x10000002 (setSensor i v) := by
  delta setSensor
  refine Keep.ite ?_ ?_
  · exact Keep.mono (keep_setFld ..) rfl
  · refine Keep.ite ?_ ?_
    · refine Keep.bind ?_ fun _ => ?_
      · exact Keep.mono (keep_setFld ..) rfl
      · refine Keep.bind ?_ fun _ => ?_
        · exact Keep.mono (keep_fld ..) rfl
        · exact Keep.mono (keep_setFld ..) rfl
    · exact Keep.mono (keep_modPwr ..) rfl

theorem keep_thermalTrips  : Keep 0x10000000 (thermalTrips ) := by
  delta thermalTrips
  refine Keep.bind ?_ fun _ => ?_
  · exact Keep.getS _
  · dsimp only
    refine Keep.bind ?_ fun _ => ?_
    · exact Keep.mono (keep_modPwr ..) rfl
    · exact Keep.pure _ _

theorem keep_noteRank (k : Nat) : Keep 0x42 (noteRank k) := by
  delta noteRank
  refine Keep.bind ?_ fun _ => ?_
  · exact Keep.getS _
  · dsimp only
    refine Keep.ite ?_ ?_
    · refine Keep.bind ?_ fun _ => ?_
      · refine Keep.when' ?_
        exact Keep.mono (keep_bump ..) rfl
      · exact Keep.mono (keep_modTime ..) rfl
    · exact Keep.pure _ _

theorem keep_takeRecord (t : Trouble) : Keep 0x200002 (takeRecord t) := by
  delta takeRecord
  refine Keep.bind ?_ fun _ => ?_
  · exact Keep.getS _
  · dsimp only
    refine Keep.bind ?_ fun _ => ?_
    · exact Keep.mono (keep_modTrPend ..) rfl
    · refine Keep.bind ?_ fun _ => ?_
      · exact Keep.mono (keep_setReg ..) rfl
      · exact Keep.pure _ _

theorem keep_supersede (p : Ev → Bool) : Keep 0x102 (supersede p) := by
  delta supersede
  refine Keep.bind ?_ fun _ => ?_
  · exact Keep.getS _
  · dsimp only
    refine Keep.bind ?_ fun _ => ?_
    · exact Keep.mono (keep_modDue ..) rfl
    · refine Keep.bind ?_ fun _ => ?_
      · exact Keep.mono (keep_bumpBy ..) rfl
      · exact Keep.pure _ _

theorem keep_nameInRecord (seq : Nat) (x : Nat × Bool) : Keep 0x200000 (nameInRecord seq x) := by
  delta nameInRecord
  exact Keep.mono (keep_modTrPend ..) rfl

theorem keep_modRoster (c : Nat) (r : Nat) (f : Roster → Roster) : Keep 0x1000 (modRoster c r f) := by
  delta modRoster
  exact Keep.mono (keep_modCtx ..) rfl

theorem keep_completeWhere (st : Nat) (p : Wcb → Bool) : Keep 0x200f (completeWhere st p) := by
  delta completeWhere
  refine Keep.bind ?_ fun _ => ?_
  · exact Keep.getS _
  · refine Keep.each fun _ => ?_
    exact Keep.mono (keep_completeEntry ..) rfl

theorem keep_fenceOf (req : Nat) : Keep 0x200f (fenceOf req) := by
  delta fenceOf
  refine Keep.bind ?_ fun _ => ?_
  · exact Keep.getS _
  · refine Keep.each fun _ => ?_
    exact Keep.mono (keep_completeWhere ..) rfl

theorem keep_readDeepLine (v : Via) (off : Nat) (lost : Bool) : Keep 0xa0003 (readDeepLine v off lost) := by
  delta readDeepLine
  refine Keep.bind ?_ fun _ => ?_
  · exact Keep.getS _
  · dsimp only
    refine Keep.ite ?_ ?_
    · exact Keep.pure _ _
    · refine Keep.ite ?_ ?_
      · refine Keep.bind ?_ fun _ => ?_
        · exact Keep.mono (keep_deepDown ..) rfl
        · split
          · exact Keep.pure _ _
          · refine Keep.bind ?_ fun _ => ?_
            · exact Keep.mono (keep_freeBytes ..) rfl
            · exact Keep.pure _ _
      · refine Keep.bind ?_ fun _ => ?_
        · exact Keep.mono (keep_dropPolled ..) rfl
        · refine Keep.bind ?_ fun _ => ?_
          · exact Keep.mono (keep_bump ..) rfl
          · refine Keep.ite ?_ ?_
            · refine Keep.bind ?_ fun _ => ?_
              · exact Keep.mono (keep_bump ..) rfl
              · refine Keep.bind ?_ fun _ => ?_
                · exact Keep.mono (keep_flag ..) rfl
                · refine Keep.bind ?_ fun _ => ?_
                  · exact Keep.mono (keep_freeBytes ..) rfl
                  · exact Keep.pure _ _
            · refine Keep.ite ?_ ?_
              · refine Keep.bind ?_ fun _ => ?_
                · exact Keep.mono (keep_freeBytes ..) rfl
                · exact Keep.pure _ _
              · exact Keep.pure _ _

theorem keep_readHome (v : Via) (off : Nat) : Keep 0xb200f (readHome v off) := by
  delta readHome
  refine Keep.bind ?_ fun _ => ?_
  · exact Keep.getS _
  · split
    · exact Keep.pure _ _
    · exact Keep.mono (keep_unitRead ..) rfl
    · exact Keep.mono (keep_readDeepLine ..) rfl

theorem keep_readLine (v : Via) (pa : Nat) : Keep 0xf200f (readLine v pa) := by
  delta readLine
  refine Keep.bind ?_ fun _ => ?_
  · exact Keep.getS _
  · refine Keep.ite ?_ ?_
    · exact Keep.pure _ _
    · split
      · exact Keep.mono (keep_unitRead ..) rfl
      · refine Keep.ite ?_ ?_
        · exact Keep.pure _ _
        · refine Keep.ite ?_ ?_
          · exact Keep.mono (keep_readDeepLine ..) rfl
          · refine Keep.bind ?_ fun _ => ?_
            · exact Keep.mono (keep_dirGate ..) rfl
            · split
              · exact Keep.pure _ _
              · refine Keep.bind ?_ fun _ => ?_
                · exact Keep.mono (keep_readHome ..) rfl
                · refine Keep.bind ?_ fun _ => ?_
                  · exact Keep.mono (keep_heatIf ..) rfl
                  · exact Keep.pure _ _
      · exact Keep.pure _ _

theorem keep_readRun (v : Via) (x1 : List (Nat × Nat)) : Keep 0xf200f (readRun v x1) := by
  induction x1 with
  | nil =>
    unfold readRun
    exact Keep.pure _ _
  | cons _ _ ih =>
    unfold readRun
    refine Keep.bind ?_ fun _ => ?_
    · exact Keep.mono (keep_readLine ..) rfl
    · split
      · refine Keep.bind ?_ fun _ => ?_
        · exact ih
        · exact Keep.pure _ _
      · refine Keep.bind ?_ fun _ => ?_
        · exact ih
        · exact Keep.pure _ _
      · exact Keep.pure _ _

theorem keep_readPhys (v : Via) (pa : Nat) (n : Nat) : Keep 0xf200f (readPhys v pa n) := by
  delta readPhys
  exact Keep.mono (keep_readRun ..) rfl

theorem keep_walkRead (a : CtxAcc) (pa : Nat) : Keep 0xf200f (walkRead a pa) := by
  delta walkRead
  refine Keep.bind ?_ fun _ => ?_
  · exact Keep.mono (keep_readPhys ..) rfl
  · split
    · exact Keep.pure _ _
    · exact Keep.pure _ _
    · refine Keep.ite ?_ ?_
      · exact Keep.pure _ _
      · exact Keep.pure _ _

theorem keep_tableEntry (a : CtxAcc) (va : Nat) (base : Nat) (idx : Nat) : Keep 0xf200f (tableEntry a va base idx) := by
  delta tableEntry
  refine Keep.bind ?_ fun _ => ?_
  · exact Keep.getS _
  · refine Keep.ite ?_ ?_
    · exact Keep.pure _ _
    · refine Keep.bind ?_ fun _ => ?_
      · exact Keep.mono (keep_walkRead ..) rfl
      · split
        · exact Keep.pure _ _
        · exact Keep.pure _ _
        · exact Keep.pure _ _

theorem keep_level0 (a : CtxAcc) (base : Nat) (va : Nat) : Keep 0xf200f (level0 a base va) := by
  delta level0
  refine Keep.bind ?_ fun _ => ?_
  · exact Keep.mono (keep_tableEntry ..) rfl
  · split
    · exact Keep.pure _ _
    · exact Keep.pure _ _

theorem keep_level1 (a : CtxAcc) (va : Nat) : Keep 0xf200f (level1 a va) := by
  delta level1
  refine Keep.bind ?_ fun _ => ?_
  · exact Keep.getS _
  · refine Keep.ite ?_ ?_
    · split
      · exact Keep.pure _ _
      · dsimp only
        refine Keep.ite ?_ ?_
        · exact Keep.pure _ _
        · exact Keep.pure _ _
    · exact Keep.mono (keep_level0 ..) rfl

theorem keep_walkFrom (a : CtxAcc) (va : Nat) (write : Bool) (b1 : Nat) : Keep 0xf200f (walkFrom a va write b1) := by
  delta walkFrom
  refine Keep.bind ?_ fun _ => ?_
  · exact Keep.mono (keep_tableEntry ..) rfl
  · split
    · exact Keep.pure _ _
    · refine Keep.ite ?_ ?_
      · exact Keep.pure _ _
      · refine Keep.bind ?_ fun _ => ?_
        · exact Keep.mono (keep_tableEntry ..) rfl
        · split
          · exact Keep.pure _ _
          · refine Keep.ite ?_ ?_
            · exact Keep.pure _ _
            · exact Keep.pure _ _

theorem keep_walkTables (a : CtxAcc) (va : Nat) (write : Bool) : Keep 0xf200f (walkTables a va write) := by
  delta walkTables
  refine Keep.bind ?_ fun _ => ?_
  · exact Keep.mono (keep_level1 ..) rfl
  · split
    · exact Keep.pure _ _
    · exact Keep.mono (keep_walkFrom ..) rfl

theorem keep_translate (a : CtxAcc) (va : Nat) (write : Bool) : Keep 0xf280f (translate a va write) := by
  delta translate
  refine Keep.ite ?_ ?_
  · exact Keep.pure _ _
  · refine Keep.bind ?_ fun _ => ?_
    · exact Keep.getS _
    · dsimp only
      split
      · refine Keep.ite ?_ ?_
        · exact Keep.pure _ _
        · exact Keep.pure _ _
      · refine Keep.bind ?_ fun _ => ?_
        · exact Keep.mono (keep_walkTables ..) rfl
        · split
          · split
            · refine Keep.bind ?_ fun _ => ?_
              · exact Keep.mono (keep_modCore ..) rfl
              · exact Keep.pure _ _
            · exact Keep.pure _ _
          · exact Keep.pure _ _

theorem keep_dirWalk (a : CtxAcc) (x : Xl) : Keep 0xf200f (dirWalk a x) := by
  delta dirWalk
  refine Keep.bind ?_ fun _ => ?_
  · exact Keep.getS _
  · split
    · refine Keep.ite ?_ ?_
      · refine Keep.bind ?_ fun _ => ?_
        · exact Keep.mono (keep_walkRead ..) rfl
        · exact Keep.pure _ _
      · exact Keep.pure _ _
    · exact Keep.pure _ _

theorem keep_writeXl (a : CtxAcc) (x : Xl) (va : Nat) (bs : List (Byte × Bool)) : Keep 0xf200f (writeXl a x va bs) := by
  delta writeXl
  refine Keep.bind ?_ fun _ => ?_
  · exact Keep.mono (keep_dirWalk ..) rfl
  · split
    · exact Keep.pure _ _
    · dsimp only
      refine Keep.bind ?_ fun _ => ?_
      · exact Keep.mono (keep_writeLine ..) rfl
      · split
        · exact Keep.pure _ _
        · exact Keep.pure _ _
        · exact Keep.pure _ _
        · exact Keep.pure _ _

theorem keep_ctxWriteAll (a : CtxAcc) (x1 : List (Nat × Nat)) (x2 : List (Byte × Bool)) : Keep 0xf280f (ctxWriteAll a x1 x2) := by
  induction x1 generalizing x2 with
  | nil =>
    unfold ctxWriteAll
    exact Keep.pure _ _
  | cons _ _ ih =>
    unfold ctxWriteAll
    refine Keep.bind ?_ fun _ => ?_
    · exact Keep.mono (keep_translate ..) rfl
    · split
      · exact Keep.pure _ _
      · refine Keep.bind ?_ fun _ => ?_
        · exact Keep.mono (keep_writeXl ..) rfl
        · split
          · exact ih ..
          · exact Keep.pure _ _

theorem keep_ctxWrite (a : CtxAcc) (va : Nat) (bs : List (Byte × Bool)) : Keep 0xf280f (ctxWrite a va bs) := by
  delta ctxWrite
  exact Keep.mono (keep_ctxWriteAll ..) rfl

theorem keep_noteWait (c : Nat) (w : HoldWhy) : Keep 0x2 (noteWait c w) := by
  delta noteWait
  split
  · exact Keep.mono (keep_bump ..) rfl
  · exact Keep.pure _ _

theorem keep_faultCtxAs (c : Nat) (kind : Nat) (code : Nat) (unit : Nat) (d32 : Nat) (addr : Nat) (detail : Nat) : Keep 0x80 (faultCtxAs c kind code unit d32 addr detail) := by
  delta faultCtxAs
  exact Keep.mono (keep_faultEv ..) rfl

theorem keep_faultFor (a : CtxAcc) (w : Stop) : Keep 0x82 (faultFor a w) := by
  delta faultFor
  split
  · split
    · exact Keep.mono (keep_faultCore ..) rfl
    · exact Keep.mono (keep_faultCtxAs ..) rfl
  · exact Keep.mono (keep_noteWait ..) rfl
  · exact Keep.pure _ _

theorem keep_flushRoster (c : Nat) (r : Nat) (x1 : List (Nat × Nat)) : Keep 0xf388f (flushRoster c r x1) := by
  induction x1 with
  | nil =>
    unfold flushRoster
    refine Keep.bind ?_ fun _ => ?_
    · exact Keep.mono (keep_modRoster ..) rfl
    · exact Keep.mono (keep_fenceOf ..) rfl
  | cons _ _ ih =>
    unfold flushRoster
    refine Keep.bind ?_ fun _ => ?_
    · exact Keep.mono (keep_ctxWrite ..) rfl
    · split
      · refine Keep.bind ?_ fun _ => ?_
        · exact Keep.mono (keep_noteWait ..) rfl
        · exact Keep.mono (keep_modRoster ..) rfl
      · refine Keep.bind ?_ fun _ => ?_
        · exact Keep.mono (keep_faultFor ..) rfl
        · exact ih
      · exact ih

theorem keep_rosterPut (c : Nat) (r : Nat) (a : Nat) (v : Nat) : Keep 0xf388f (rosterPut c r a v) := by
  delta rosterPut
  refine Keep.bind ?_ fun _ => ?_
  · exact Keep.getS _
  · dsimp only
    exact Keep.mono (keep_flushRoster ..) rfl

theorem keep_rosterState (c : Nat) (r : Nat) (i : Nat) (st : Nat) (core : Nat) : Keep 0xf388f (rosterState c r i st core) := by
  delta rosterState
  refine Keep.bind ?_ fun _ => ?_
  · exact Keep.getS _
  · exact Keep.mono (keep_rosterPut ..) rfl

theorem keep_rosterFinal (c : Nat) (r : Nat) (i : Nat) (st : Nat) : Keep 0xf388f (rosterFinal c r i st) := by
  delta rosterFinal
  refine Keep.bind ?_ fun _ => ?_
  · exact Keep.getS _
  · dsimp only
    refine Keep.bind ?_ fun _ => ?_
    · exact Keep.mono (keep_rosterState ..) rfl
    · refine Keep.bind ?_ fun _ => ?_
      · exact Keep.mono (keep_modRoster ..) rfl
      · refine Keep.when' ?_
        exact Keep.mono (keep_rosterPut ..) rfl

theorem keep_endTask (n : Nat) (st : Nat) : Keep 0xf388f (endTask n st) := by
  delta endTask
  refine Keep.bind ?_ fun _ => ?_
  · exact Keep.getS _
  · split
    · exact Keep.pure _ _
    · refine Keep.bind ?_ fun _ => ?_
      · exact Keep.mono (keep_modCore ..) rfl
      · refine Keep.bind ?_ fun _ => ?_
        · exact Keep.mono (keep_setFld ..) rfl
        · exact Keep.mono (keep_rosterFinal ..) rfl

theorem keep_endTasks (c : Nat) (t : Trouble) : Keep 0xf388f (endTasks c t) := by
  delta endTasks
  refine Keep.bind ?_ fun _ => ?_
  · exact Keep.getS _
  · refine Keep.bind ?_ fun _ => ?_
    · refine Keep.each fun _ => ?_
      exact Keep.mono (keep_endTask ..) rfl
    · refine Keep.bind ?_ fun _ => ?_
      · exact Keep.getS _
      · refine Keep.each fun _ => ?_
        exact Keep.mono (keep_rosterFinal ..) rfl

theorem keep_noteFault (c : Nat) (t : Trouble) (seq : Nat) : Keep 0x2 (noteFault c t seq) := by
  delta noteFault
  refine Keep.bind ?_ fun _ => ?_
  · exact Keep.mono (keep_setReg ..) rfl
  · exact Keep.mono (keep_setReg ..) rfl

theorem keep_freeWord  : Keep 0x1 (freeWord ) := by
  delta freeWord
  refine Keep.bind ?_ fun _ => ?_
  · exact Keep.getS _
  · refine Keep.bind ?_ fun _ => ?_
    · exact Keep.mono (keep_modFreeCtr ..) rfl
    · exact Keep.pure _ _

theorem keep_bankWrite (n : Nat) (b : Nat) (off : Nat) (bs : List Byte) (ps : List Bool) : Keep 0xc (bankWrite n b off bs ps) := by
  delta bankWrite
  dsimp only
  refine Keep.bind ?_ fun _ => ?_
  · exact Keep.mono (keep_setMem ..) rfl
  · refine Keep.each fun _ => ?_
    refine Keep.ite ?_ ?_
    · exact Keep.mono (keep_setPoison ..) rfl
    · refine Keep.when' ?_
      exact Keep.mono (keep_setPoison ..) rfl

theorem keep_accWrite (n : Nat) (a : Nat) (row : Nat) (i : Nat) (v : FpP) : Keep 0xc (accWrite n a row i v) := by
  delta accWrite
  exact Keep.mono (keep_bankWrite ..) rfl

theorem keep_undefRows (o : Nat) (p : RunPass) : Keep 0xd (undefRows o p) := by
  delta undefRows
  dsimp only
  refine Keep.ite ?_ ?_
  · refine Keep.each fun _ => ?_
    refine Keep.each fun _ => ?_
    refine Keep.bind ?_ fun _ => ?_
    · exact Keep.mono (keep_freeWord ..) rfl
    · exact Keep.mono (keep_accWrite ..) rfl
  · exact Keep.pure _ _

theorem keep_clearOx (o : Nat) : Keep 0x40d (clearOx o) := by
  delta clearOx
  refine Keep.bind ?_ fun _ => ?_
  · exact Keep.getS _
  · dsimp only
    refine Keep.bind ?_ fun _ => ?_
    · refine Keep.each fun _ => ?_
      exact Keep.mono (keep_undefRows ..) rfl
    · exact Keep.mono (keep_modOx ..) rfl

theorem keep_resetWhere (p : Nat → Bool) : Keep 0x2 (resetWhere p) := by
  delta resetWhere
  exact Keep.mono (keep_resetRegs ..) rfl

theorem keep_resetOxNow (o : Nat) : Keep 0x40f (resetOxNow o) := by
  delta resetOxNow
  refine Keep.bind ?_ fun _ => ?_
  · exact Keep.mono (keep_clearOx ..) rfl
  · exact Keep.mono (keep_resetWhere ..) rfl

theorem keep_linkAnswer (q : LinkReq) (status : Nat) (bs : List Byte) : Keep 0x20000000 (linkAnswer q status bs) := by
  delta linkAnswer
  refine Keep.bind ?_ fun _ => ?_
  · exact Keep.getS _
  · dsimp only
    exact Keep.mono (keep_modLink ..) rfl

theorem keep_refuseAt (addr : Nat) (gen : Nat) : Keep 0x10002 (refuseAt addr gen) := by
  delta refuseAt
  refine Keep.bind ?_ fun _ => ?_
  · exact Keep.mono (keep_bump ..) rfl
  · exact Keep.mono (keep_emit ..) rfl

theorem keep_refuseWaiting (n : Nat) : Keep 0x20010802 (refuseWaiting n) := by
  delta refuseWaiting
  refine Keep.bind ?_ fun _ => ?_
  · exact Keep.getS _
  · dsimp only
    refine Keep.bind ?_ fun _ => ?_
    · refine Keep.each fun _ => ?_
      split
      · refine Keep.bind ?_ fun _ => ?_
        · exact Keep.mono (keep_bump ..) rfl
        · exact Keep.mono (keep_linkAnswer ..) rfl
      · exact Keep.mono (keep_refuseAt ..) rfl
    · refine Keep.bind ?_ fun _ => ?_
      · refine Keep.each fun _ => ?_
        split
        · refine Keep.bind ?_ fun _ => ?_
          · exact Keep.mono (keep_bump ..) rfl
          · exact Keep.mono (keep_linkAnswer ..) rfl
        · exact Keep.mono (keep_refuseAt ..) rfl
      · exact Keep.mono (keep_modCore ..) rfl

theorem keep_dropImages (n : Nat) : Keep 0x1000800 (dropImages n) := by
  delta dropImages
  refine Keep.bind ?_ fun _ => ?_
  · exact Keep.mono (keep_modFab ..) rfl
  · exact Keep.mono (keep_modCore ..) rfl

theorem keep_resetCoreNow (n : Nat) : Keep 0x21010c02 (resetCoreNow n) := by
  delta resetCoreNow
  refine Keep.bind ?_ fun _ => ?_
  · exact Keep.mono (keep_refuseWaiting ..) rfl
  · refine Keep.bind ?_ fun _ => ?_
    · refine Keep.each fun _ => ?_
      refine Keep.bind ?_ fun _ => ?_
      · exact Keep.mono (keep_modOx ..) rfl
      · exact Keep.mono (keep_resetWhere ..) rfl
    · refine Keep.bind ?_ fun _ => ?_
      · exact Keep.mono (keep_dropImages ..) rfl
      · refine Keep.bind ?_ fun _ => ?_
        · exact Keep.mono (keep_modCore ..) rfl
        · exact Keep.mono (keep_resetWhere ..) rfl

theorem keep_heldDone (h : MuleHeld) : Keep 0x20000002 (heldDone h) := by
  delta heldDone
  refine Keep.bind ?_ fun _ => ?_
  · exact Keep.mono (keep_setReg ..) rfl
  · split
    · exact Keep.mono (keep_modLink ..) rfl
    · exact Keep.pure _ _

theorem keep_muleTileDone (n : Nat) : Keep 0x20000802 (muleTileDone n) := by
  delta muleTileDone
  refine Keep.bind ?_ fun _ => ?_
  · exact Keep.getS _
  · dsimp only
    refine Keep.bind ?_ fun _ => ?_
    · exact Keep.mono (keep_modCore ..) rfl
    · refine Keep.bind ?_ fun _ => ?_
      · exact Keep.mono (keep_setFld ..) rfl
      · refine Keep.each fun _ => ?_
        exact Keep.mono (keep_heldDone ..) rfl

theorem keep_clearBank (n : Nat) (b : Nat) : Keep 0x1c (clearBank n b) := by
  delta clearBank
  dsimp only
  refine Keep.bind ?_ fun _ => ?_
  · exact Keep.mono (keep_clearMem ..) rfl
  · refine Keep.bind ?_ fun _ => ?_
    · exact Keep.mono (keep_clearSyn ..) rfl
    · refine Keep.when' ?_
      exact Keep.mono (keep_clearDraw ..) rfl

theorem keep_bankSet (n : Nat) (b : Nat) (target : Nat) (state : Nat) : Keep 0x2 (bankSet n b target state) := by
  delta bankSet
  refine Keep.bind ?_ fun _ => ?_
  · exact Keep.mono (keep_setFld ..) rfl
  · exact Keep.mono (keep_setFld ..) rfl

theorem keep_modTr (n : Nat) (b : Nat) (f : BankTr → BankTr) : Keep 0x800 (modTr n b f) := by
  delta modTr
  exact Keep.mono (keep_modCore ..) rfl

theorem keep_banksFresh (n : Nat) : Keep 0x81e (banksFresh n) := by
  delta banksFresh
  refine Keep.each fun _ => ?_
  refine Keep.bind ?_ fun _ => ?_
  · exact Keep.getS _
  · refine Keep.ite ?_ ?_
    · refine Keep.bind ?_ fun _ => ?_
      · exact Keep.mono (keep_clearBank ..) rfl
      · refine Keep.bind ?_ fun _ => ?_
        · exact Keep.mono (keep_bankSet ..) rfl
        · exact Keep.mono (keep_modTr ..) rfl
    · exact Keep.pure _ _

theorem keep_noteGuest (s : State) (n : Nat) (b : Nat) (len : Nat) : Keep 0x2 (noteGuest s n b len) := by
  delta noteGuest
  refine Keep.when' ?_
  exact Keep.mono (keep_bumpBy ..) rfl

theorem keep_winAnswer (who : Who) (addr : Nat) (bs : List Byte) (poison : Bool) : Keep 0x10080 (winAnswer who addr bs poison) := by
  delta winAnswer
  split
  · exact Keep.mono (keep_emit ..) rfl
  · refine Keep.ite ?_ ?_
    · exact Keep.mono (keep_faultCore ..) rfl
    · exact Keep.mono (keep_emit ..) rfl

theorem keep_winServe (n : Nat) (w : WinReq) : Keep 0x2001008e (winServe n w) := by
  delta winServe
  refine Keep.bind ?_ fun _ => ?_
  · exact Keep.getS _
  · refine Keep.bind ?_ fun _ => ?_
    · exact Keep.mono (keep_noteGuest ..) rfl
    · dsimp only
      split
      · exact Keep.mono (keep_bankWrite ..) rfl
      · refine Keep.bind ?_ fun _ => ?_
        · exact Keep.mono (keep_bankWrite ..) rfl
        · exact Keep.mono (keep_linkAnswer ..) rfl
      · exact Keep.mono (keep_linkAnswer ..) rfl
      · exact Keep.mono (keep_winAnswer ..) rfl

theorem keep_bankRefused (n : Nat) (b : Nat) : Keep 0x2 (bankRefused n b) := by
  delta bankRefused
  refine Keep.bind ?_ fun _ => ?_
  · exact Keep.mono (keep_flag ..) rfl
  · exact Keep.mono (keep_bump ..) rfl

theorem keep_notDone (who : Who) (addr : Nat) (kind : Nat) (code : Nat) (unit : Nat) : Keep 0x10080 (notDone who addr kind code unit) := by
  delta notDone
  split
  · exact Keep.mono (keep_emit ..) rfl
  · refine Keep.bind ?_ fun _ => ?_
    · exact Keep.mono (keep_faultCore ..) rfl
    · exact Keep.mono (keep_emit ..) rfl

theorem keep_winRefuse (n : Nat) (w : WinReq) : Keep 0x20010082 (winRefuse n w) := by
  delta winRefuse
  refine Keep.bind ?_ fun _ => ?_
  · exact Keep.mono (keep_bankRefused ..) rfl
  · split
    · exact Keep.mono (keep_linkAnswer ..) rfl
    · exact Keep.mono (keep_notDone ..) rfl

theorem keep_bankFault (n : Nat) (b : Nat) (off : Nat) : Keep 0x82 (bankFault n b off) := by
  delta bankFault
  refine Keep.bind ?_ fun _ => ?_
  · exact Keep.mono (keep_bankRefused ..) rfl
  · exact Keep.mono (keep_faultCore ..) rfl

theorem keep_unitRefuse (n : Nat) (w : BankWait) : Keep 0xc82 (unitRefuse n w) := by
  delta unitRefuse
  refine Keep.bind ?_ fun _ => ?_
  · exact Keep.mono (keep_bankFault ..) rfl
  · refine Keep.ite ?_ ?_
    · exact Keep.mono (keep_modCore ..) rfl
    · refine Keep.when' ?_
      refine Keep.bind ?_ fun _ => ?_
      · exact Keep.mono (keep_modOx ..) rfl
      · exact Keep.mono (keep_bump ..) rfl

theorem keep_bankJudge (n : Nat) (b : Nat) : Keep 0x20010c8e (bankJudge n b) := by
  delta bankJudge
  refine Keep.bind ?_ fun _ => ?_
  · exact Keep.getS _
  · dsimp only
    refine Keep.when' ?_
    split
    · exact Keep.pure _ _
    · refine Keep.bind ?_ fun _ => ?_
      · exact Keep.mono (keep_modCore ..) rfl
      · refine Keep.each fun _ => ?_
        exact Keep.mono (keep_winServe ..) rfl
    · refine Keep.bind ?_ fun _ => ?_
      · exact Keep.mono (keep_modCore ..) rfl
      · refine Keep.bind ?_ fun _ => ?_
        · refine Keep.each fun _ => ?_
          exact Keep.mono (keep_winRefuse ..) rfl
        · refine Keep.each fun _ => ?_
          exact Keep.mono (keep_unitRefuse ..) rfl

theorem keep_bankDown (n : Nat) (b : Nat) (t : Nat) : Keep 0x802 (bankDown n b t) := by
  delta bankDown
  refine Keep.bind ?_ fun _ => ?_
  · exact Keep.mono (keep_modTr ..) rfl
  · exact Keep.mono (keep_bankSet ..) rfl

theorem keep_bankWake (n : Nat) (b : Nat) (from' : Nat) : Keep 0x802 (bankWake n b from') := by
  delta bankWake
  refine Keep.bind ?_ fun _ => ?_
  · exact Keep.mono (keep_modTr ..) rfl
  · exact Keep.mono (keep_bankSet ..) rfl

theorem keep_bankTurn (n : Nat) (b : Nat) (t : Nat) : Keep 0x802 (bankTurn n b t) := by
  delta bankTurn
  refine Keep.bind ?_ fun _ => ?_
  · exact Keep.getS _
  · dsimp only
    refine Keep.ite ?_ ?_
    · exact Keep.pure _ _
    · refine Keep.ite ?_ ?_
      · refine Keep.when' ?_
        exact Keep.mono (keep_bankDown ..) rfl
      · refine Keep.ite ?_ ?_
        · refine Keep.ite ?_ ?_
          · exact Keep.mono (keep_bankWake ..) rfl
          · refine Keep.when' ?_
            exact Keep.mono (keep_bankDown ..) rfl
        · refine Keep.ite ?_ ?_
          · refine Keep.when' ?_
            exact Keep.mono (keep_bankWake ..) rfl
          · refine Keep.ite ?_ ?_
            · refine Keep.ite ?_ ?_
              · refine Keep.bind ?_ fun _ => ?_
                · exact Keep.mono (keep_modTr ..) rfl
                · exact Keep.mono (keep_bankSet ..) rfl
              · exact Keep.mono (keep_bankDown ..) rfl
            · refine Keep.ite ?_ ?_
              · refine Keep.when' ?_
                refine Keep.bind ?_ fun _ => ?_
                · exact Keep.mono (keep_modTr ..) rfl
                · exact Keep.mono (keep_bankSet ..) rfl
              · refine Keep.ite ?_ ?_
                · refine Keep.when' ?_
                  exact Keep.mono (keep_bankDown ..) rfl
                · refine Keep.ite ?_ ?_
                  · refine Keep.bind ?_ fun _ => ?_
                    · exact Keep.mono (keep_modTr ..) rfl
                    · exact Keep.mono (keep_bankSet ..) rfl
                  · refine Keep.bind ?_ fun _ => ?_
                    · exact Keep.mono (keep_modTr ..) rfl
                    · exact Keep.mono (keep_setFld ..) rfl

theorem keep_bankRequest (n : Nat) (b : Nat) (t : Nat) : Keep 0x20010c8e (bankRequest n b t) := by
  delta bankRequest
  refine Keep.bind ?_ fun _ => ?_
  · exact Keep.mono (keep_bankTurn ..) rfl
  · exact Keep.mono (keep_bankJudge ..) rfl

theorem keep_historyAdd (kind : Nat) (unit : Nat) (data : Nat) : Keep 0x100000 (historyAdd kind unit data) := by
  delta historyAdd
  refine Keep.bind ?_ fun _ => ?_
  · exact Keep.getS _
  · exact Keep.mono (keep_modHistory ..) rfl

theorem keep_capUpdate  : Keep 0x2 (capUpdate ) := by
  delta capUpdate
  refine Keep.bind ?_ fun _ => ?_
  · exact Keep.getS _
  · dsimp only
    refine Keep.each fun _ => ?_
    exact Keep.mono (keep_setReg ..) rfl

theorem keep_bankRetireNow (n : Nat) (b : Nat) : Keep 0x20110c8e (bankRetireNow n b) := by
  delta bankRetireNow
  refine Keep.bind ?_ fun _ => ?_
  · exact Keep.getS _
  · refine Keep.ite ?_ ?_
    · refine Keep.bind ?_ fun _ => ?_
      · exact Keep.mono (keep_setFld ..) rfl
      · refine Keep.bind ?_ fun _ => ?_
        · exact Keep.mono (keep_bankRequest ..) rfl
        · refine Keep.bind ?_ fun _ => ?_
          · exact Keep.mono (keep_historyAdd ..) rfl
          · exact Keep.mono (keep_capUpdate ..) rfl
    · exact Keep.pure _ _

theorem keep_bankDeferred (n : Nat) : Keep 0x20110c8e (bankDeferred n) := by
  delta bankDeferred
  refine Keep.bind ?_ fun _ => ?_
  · exact Keep.getS _
  · dsimp only
    refine Keep.bind ?_ fun _ => ?_
    · exact Keep.mono (keep_modCore ..) rfl
    · refine Keep.each fun _ => ?_
      refine Keep.ite ?_ ?_
      · exact Keep.mono (keep_bankRetireNow ..) rfl
      · exact Keep.mono (keep_bankRequest ..) rfl

theorem keep_clearCore (n : Nat) : Keep 0x20110c9e (clearCore n) := by
  delta clearCore
  refine Keep.bind ?_ fun _ => ?_
  · exact Keep.mono (keep_muleTileDone ..) rfl
  · refine Keep.bind ?_ fun _ => ?_
    · exact Keep.mono (keep_banksFresh ..) rfl
    · dsimp only
      refine Keep.bind ?_ fun _ => ?_
      · exact Keep.mono (keep_clearMem ..) rfl
      · refine Keep.bind ?_ fun _ => ?_
        · refine Keep.each fun _ => ?_
          exact Keep.mono (keep_modOx ..) rfl
        · refine Keep.bind ?_ fun _ => ?_
          · exact Keep.mono (keep_modCore ..) rfl
          · refine Keep.bind ?_ fun _ => ?_
            · exact Keep.mono (keep_setReg ..) rfl
            · refine Keep.bind ?_ fun _ => ?_
              · exact Keep.mono (keep_resetWhere ..) rfl
              · refine Keep.bind ?_ fun _ => ?_
                · refine Keep.each fun _ => ?_
                  exact Keep.mono (keep_setReg ..) rfl
                · refine Keep.bind ?_ fun _ => ?_
                  · refine Keep.each fun _ => ?_
                    exact Keep.mono (keep_setReg ..) rfl
                  · refine Keep.bind ?_ fun _ => ?_
                    · exact Keep.mono (keep_setReg ..) rfl
                    · refine Keep.bind ?_ fun _ => ?_
                      · exact Keep.mono (keep_setFld ..) rfl
                      · refine Keep.bind ?_ fun _ => ?_
                        · refine Keep.each fun _ => ?_
                          exact Keep.mono (keep_bankJudge ..) rfl
                        · exact Keep.mono (keep_bankDeferred ..) rfl

theorem keep_dropXlate (p : Xlate → Bool) : Keep 0x800 (dropXlate p) := by
  delta dropXlate
  refine Keep.bind ?_ fun _ => ?_
  · exact Keep.getS _
  · refine Keep.each fun _ => ?_
    exact Keep.mono (keep_modCore ..) rfl

theorem keep_resetCtxNow (c : Nat) : Keep 0x21113c9e (resetCtxNow c) := by
  delta resetCtxNow
  refine Keep.bind ?_ fun _ => ?_
  · exact Keep.getS _
  · dsimp only
    refine Keep.bind ?_ fun _ => ?_
    · refine Keep.each fun _ => ?_
      exact Keep.mono (keep_modStack ..) rfl
    · refine Keep.bind ?_ fun _ => ?_
      · refine Keep.each fun _ => ?_
        exact Keep.mono (keep_resetCoreNow ..) rfl
      · refine Keep.bind ?_ fun _ => ?_
        · refine Keep.each fun _ => ?_
          exact Keep.mono (keep_clearCore ..) rfl
        · refine Keep.bind ?_ fun _ => ?_
          · exact Keep.mono (keep_dropXlate ..) rfl
          · refine Keep.bind ?_ fun _ => ?_
            · exact Keep.mono (keep_resetWhere ..) rfl
            · exact Keep.mono (keep_modCtx ..) rfl

theorem keep_resetPortNow (p : Nat) : Keep 0x800002 (resetPortNow p) := by
  delta resetPortNow
  refine Keep.bind ?_ fun _ => ?_
  · exact Keep.mono (keep_setReg ..) rfl
  · refine Keep.bind ?_ fun _ => ?_
    · exact Keep.mono (keep_setFld ..) rfl
    · exact Keep.mono (keep_modPort ..) rfl

theorem keep_resetIodNow (i : Nat) : Keep 0x830002 (resetIodNow i) := by
  delta resetIodNow
  refine Keep.bind ?_ fun _ => ?_
  · exact Keep.getS _
  · refine Keep.bind ?_ fun _ => ?_
    · refine Keep.each fun _ => ?_
      refine Keep.bind ?_ fun _ => ?_
      · exact Keep.mono (keep_resetPortNow ..) rfl
      · exact Keep.mono (keep_modPort ..) rfl
    · refine Keep.each fun _ => ?_
      refine Keep.bind ?_ fun _ => ?_
      · exact Keep.mono (keep_setReg ..) rfl
      · refine Keep.bind ?_ fun _ => ?_
        · exact Keep.mono (keep_setFld ..) rfl
        · dsimp only
          refine Keep.bind ?_ fun _ => ?_
          · exact Keep.mono (keep_bumpBy ..) rfl
          · refine Keep.bind ?_ fun _ => ?_
            · refine Keep.each fun _ => ?_
              exact Keep.mono (keep_refuseAt ..) rfl
            · exact Keep.mono (keep_modCxl ..) rfl

theorem keep_endRequests (i : Nat) : Keep 0x1200f (endRequests i) := by
  delta endRequests
  refine Keep.bind ?_ fun _ => ?_
  · exact Keep.getS _
  · dsimp only
    refine Keep.bind ?_ fun _ => ?_
    · refine Keep.each fun _ => ?_
      refine Keep.bind ?_ fun _ => ?_
      · exact Keep.getS _
      · exact Keep.mono (keep_serveReq ..) rfl
    · refine Keep.bind ?_ fun _ => ?_
      · refine Keep.each fun _ => ?_
        refine Keep.bind ?_ fun _ => ?_
        · exact Keep.getS _
        · exact Keep.mono (keep_refuseAt ..) rfl
      · exact Keep.mono (keep_modStack ..) rfl

theorem keep_resetStackNow (i : Nat) : Keep 0x1200f (resetStackNow i) := by
  delta resetStackNow
  refine Keep.bind ?_ fun _ => ?_
  · exact Keep.mono (keep_endRequests ..) rfl
  · refine Keep.bind ?_ fun _ => ?_
    · exact Keep.mono (keep_completeWhere ..) rfl
    · refine Keep.bind ?_ fun _ => ?_
      · exact Keep.mono (keep_setReg ..) rfl
      · refine Keep.bind ?_ fun _ => ?_
        · exact Keep.mono (keep_setFld ..) rfl
        · refine Keep.bind ?_ fun _ => ?_
          · exact Keep.mono (keep_setReg ..) rfl
          · refine Keep.bind ?_ fun _ => ?_
            · exact Keep.mono (keep_setReg ..) rfl
            · refine Keep.bind ?_ fun _ => ?_
              · exact Keep.mono (keep_setReg ..) rfl
              · refine Keep.bind ?_ fun _ => ?_
                · exact Keep.mono (keep_setReg ..) rfl
                · refine Keep.bind ?_ fun _ => ?_
                  · exact Keep.mono (keep_setReg ..) rfl
                  · exact Keep.mono (keep_modStack ..) rfl

theorem keep_resetNow (d : Nat) (u : Nat) : Keep 0x21933c9f (resetNow d u) := by
  delta resetNow
  refine Keep.bind ?_ fun _ => ?_
  · exact Keep.getS _
  · refine Keep.ite ?_ ?_
    · exact Keep.mono (keep_resetOxNow ..) rfl
    · refine Keep.ite ?_ ?_
      · exact Keep.mono (keep_resetCoreNow ..) rfl
      · refine Keep.ite ?_ ?_
        · exact Keep.mono (keep_resetCtxNow ..) rfl
        · refine Keep.ite ?_ ?_
          · exact Keep.mono (keep_resetPortNow ..) rfl
          · refine Keep.ite ?_ ?_
            · exact Keep.mono (keep_resetIodNow ..) rfl
            · refine Keep.ite ?_ ?_
              · exact Keep.mono (keep_resetStackNow ..) rfl
              · refine Keep.ite ?_ ?_
                · refine Keep.bind ?_ fun _ => ?_
                  · refine Keep.each fun _ => ?_
                    exact Keep.mono (keep_resetCoreNow ..) rfl
                  · refine Keep.each fun _ => ?_
                    exact Keep.mono (keep_resetStackNow ..) rfl
                · exact Keep.pure _ _

theorem keep_beginReset (d : Nat) (u : Nat) : Keep 0x21d33c9f (beginReset d u) := by
  delta beginReset
  refine Keep.bind ?_ fun _ => ?_
  · exact Keep.getS _
  · dsimp only
    refine Keep.bind ?_ fun _ => ?_
    · exact Keep.mono (keep_modResets ..) rfl
    · refine Keep.bind ?_ fun _ => ?_
      · exact Keep.mono (keep_setFld ..) rfl
      · refine Keep.bind ?_ fun _ => ?_
        · refine Keep.each fun _ => ?_
          exact Keep.mono (keep_setFld ..) rfl
        · refine Keep.bind ?_ fun _ => ?_
          · exact Keep.mono (keep_resetNow ..) rfl
          · refine Keep.when' ?_
            exact Keep.mono (keep_capUpdate ..) rfl

theorem keep_faultReset (n : Nat) : Keep 0x21d33c9f (faultReset n) := by
  delta faultReset
  refine Keep.bind ?_ fun _ => ?_
  · exact Keep.getS _
  · refine Keep.ite ?_ ?_
    · exact Keep.mono (keep_beginReset ..) rfl
    · exact Keep.pure _ _

theorem keep_faultCtx (c : Nat) (t : Trouble) (seq : Nat) (resets : Bool) : Keep 0x21df3c9f (faultCtx c t seq resets) := by
  delta faultCtx
  refine Keep.bind ?_ fun _ => ?_
  · exact Keep.getS _
  · dsimp only
    refine Keep.bind ?_ fun _ => ?_
    · exact Keep.mono (keep_endTasks ..) rfl
    · refine Keep.bind ?_ fun _ => ?_
      · refine Keep.when' ?_
        exact Keep.mono (keep_setReg ..) rfl
      · refine Keep.bind ?_ fun _ => ?_
        · exact Keep.mono (keep_setFld ..) rfl
        · refine Keep.bind ?_ fun _ => ?_
          · exact Keep.mono (keep_modCtx ..) rfl
          · refine Keep.bind ?_ fun _ => ?_
            · exact Keep.mono (keep_noteFault ..) rfl
            · refine Keep.when' ?_
              refine Keep.each fun _ => ?_
              exact Keep.mono (keep_faultReset ..) rfl

theorem keep_tripCtx (t : Trouble) (seq : Nat) (c : Nat) : Keep 0x21df3c9f (tripCtx t seq c) := by
  delta tripCtx
  refine Keep.bind ?_ fun _ => ?_
  · exact Keep.getS _
  · dsimp only
    refine Keep.ite ?_ ?_
    · refine Keep.bind ?_ fun _ => ?_
      · exact Keep.mono (keep_bump ..) rfl
      · refine Keep.bind ?_ fun _ => ?_
        · exact Keep.mono (keep_faultCtx ..) rfl
        · exact Keep.mono (keep_modCtx ..) rfl
    · exact Keep.pure _ _

theorem keep_cutFlash  : Keep 0x4000000 (cutFlash ) := by
  delta cutFlash
  exact Keep.mono (keep_modFlash ..) rfl

theorem keep_haltCore (n : Nat) : Keep 0x21000c02 (haltCore n) := by
  delta haltCore
  refine Keep.bind ?_ fun _ => ?_
  · exact Keep.mono (keep_muleTileDone ..) rfl
  · refine Keep.bind ?_ fun _ => ?_
    · refine Keep.each fun _ => ?_
      exact Keep.mono (keep_modOx ..) rfl
    · refine Keep.bind ?_ fun _ => ?_
      · exact Keep.mono (keep_dropImages ..) rfl
      · refine Keep.bind ?_ fun _ => ?_
        · exact Keep.mono (keep_modCore ..) rfl
        · exact Keep.mono (keep_setReg ..) rfl

theorem keep_stopUnits  : Keep 0x21000c02 (stopUnits ) := by
  delta stopUnits
  refine Keep.bind ?_ fun _ => ?_
  · exact Keep.getS _
  · refine Keep.bind ?_ fun _ => ?_
    · refine Keep.each fun _ => ?_
      refine Keep.bind ?_ fun _ => ?_
      · exact Keep.mono (keep_haltCore ..) rfl
      · exact Keep.mono (keep_modCore ..) rfl
    · refine Keep.bind ?_ fun _ => ?_
      · refine Keep.each fun _ => ?_
        refine Keep.when' ?_
        exact Keep.mono (keep_setFld ..) rfl
      · refine Keep.bind ?_ fun _ => ?_
        · refine Keep.each fun _ => ?_
          refine Keep.when' ?_
          exact Keep.mono (keep_setFld ..) rfl
        · refine Keep.each fun _ => ?_
          refine Keep.when' ?_
          exact Keep.mono (keep_setFld ..) rfl

theorem keep_tripStops (t : Trouble) (seq : Nat) : Keep 0x35ff3c9f (tripStops t seq) := by
  delta tripStops
  refine Keep.bind ?_ fun _ => ?_
  · exact Keep.getS _
  · refine Keep.bind ?_ fun _ => ?_
    · exact Keep.mono (keep_setFld ..) rfl
    · refine Keep.bind ?_ fun _ => ?_
      · exact Keep.mono (keep_modPwr ..) rfl
      · refine Keep.bind ?_ fun _ => ?_
        · refine Keep.each fun _ => ?_
          exact Keep.mono (keep_modStack ..) rfl
        · refine Keep.bind ?_ fun _ => ?_
          · refine Keep.each fun _ => ?_
            exact Keep.mono (keep_tripCtx ..) rfl
          · refine Keep.bind ?_ fun _ => ?_
            · exact Keep.mono (keep_flushRecords ..) rfl
            · refine Keep.bind ?_ fun _ => ?_
              · exact Keep.mono (keep_fenceOf ..) rfl
              · refine Keep.bind ?_ fun _ => ?_
                · exact Keep.mono (keep_cutFlash ..) rfl
                · exact Keep.mono (keep_stopUnits ..) rfl

theorem keep_takeTrip (code : Nat) (unit : Nat) (reading : Nat) : Keep 0x35ff3ddf (takeTrip code unit reading) := by
  delta takeTrip
  refine Keep.bind ?_ fun _ => ?_
  · exact Keep.getS _
  · refine Keep.bind ?_ fun _ => ?_
    · exact Keep.mono (keep_noteRank ..) rfl
    · refine Keep.bind ?_ fun _ => ?_
      · exact Keep.mono (keep_flag ..) rfl
      · refine Keep.bind ?_ fun _ => ?_
        · exact Keep.mono (keep_setReg ..) rfl
        · dsimp only
          refine Keep.bind ?_ fun _ => ?_
          · exact Keep.mono (keep_takeRecord ..) rfl
          · refine Keep.bind ?_ fun _ => ?_
            · refine Keep.when' ?_
              refine Keep.bind ?_ fun _ => ?_
              · exact Keep.mono (keep_supersede ..) rfl
              · refine Keep.bind ?_ fun _ => ?_
                · exact Keep.mono (keep_nameInRecord ..) rfl
                · exact Keep.mono (keep_tripStops ..) rfl
            · refine Keep.when' ?_
              refine Keep.bind ?_ fun _ => ?_
              · exact Keep.mono (keep_modPwr ..) rfl
              · refine Keep.each fun _ => ?_
                exact Keep.mono (keep_modStack ..) rfl

theorem keep_coresWrite (c : Nat) (which : Nat) (data : Nat) : Keep 0x2 (coresWrite c which data) := by
  delta coresWrite
  refine Keep.bind ?_ fun _ => ?_
  · exact Keep.getS _
  · dsimp only
    refine Keep.ite ?_ ?_
    · exact Keep.mono (keep_flag ..) rfl
    · refine Keep.ite ?_ ?_
      · refine Keep.ite ?_ ?_
        · exact Keep.mono (keep_flag ..) rfl
        · exact Keep.mono (keep_setReg ..) rfl
      · refine Keep.ite ?_ ?_
        · exact Keep.mono (keep_setReg ..) rfl
        · exact Keep.mono (keep_setReg ..) rfl

theorem keep_modStream (n : Nat) (k : Nat) (f : Stream → Stream) : Keep 0x800 (modStream n k f) := by
  delta modStream
  exact Keep.mono (keep_modCore ..) rfl

theorem keep_rereadRecomp (c : Nat) (q : Nat) : Keep 0x800 (rereadRecomp c q) := by
  delta rereadRecomp
  refine Keep.bind ?_ fun _ => ?_
  · exact Keep.getS _
  · refine Keep.each fun _ => ?_
    refine Keep.each fun _ => ?_
    refine Keep.when' ?_
    exact Keep.mono (keep_modStream ..) rfl

theorem keep_closeRsrc (page : Nat) : Keep 0x40000 (closeRsrc page) := by
  delta closeRsrc
  exact Keep.mono (keep_modWagon ..) rfl

theorem keep_stepWrite (c : Nat) (which : Nat) (data : Nat) : Keep 0x2 (stepWrite c which data) := by
  delta stepWrite
  refine Keep.bind ?_ fun _ => ?_
  · exact Keep.mono (keep_setReg ..) rfl
  · refine Keep.when' ?_
    exact Keep.mono (keep_flag ..) rfl

theorem keep_unready (c : Nat) : Keep 0x1000 (unready c) := by
  delta unready
  exact Keep.mono (keep_modCtx ..) rfl

theorem keep_modTask (n : Nat) (f : Task → Task) : Keep 0x800 (modTask n f) := by
  delta modTask
  exact Keep.mono (keep_modCore ..) rfl

theorem keep_uncountTick (n : Nat) : Keep 0x802 (uncountTick n) := by
  delta uncountTick
  refine Keep.bind ?_ fun _ => ?_
  · exact Keep.getS _
  · split
    · exact Keep.pure _ _
    · refine Keep.bind ?_ fun _ => ?_
      · exact Keep.mono (keep_modTask ..) rfl
      · exact Keep.mono (keep_setReg ..) rfl

theorem keep_saveBegins (c : Nat) : Keep 0xf388f (saveBegins c) := by
  delta saveBegins
  refine Keep.bind ?_ fun _ => ?_
  · exact Keep.getS _
  · refine Keep.bind ?_ fun _ => ?_
    · exact Keep.mono (keep_ctxWrite ..) rfl
    · split
      · exact Keep.mono (keep_faultFor ..) rfl
      · refine Keep.bind ?_ fun _ => ?_
        · exact Keep.mono (keep_fenceOf ..) rfl
        · exact Keep.mono (keep_modCtx ..) rfl

theorem keep_saveActs (c : Nat) : Keep 0xf388f (saveActs c) := by
  delta saveActs
  refine Keep.bind ?_ fun _ => ?_
  · exact Keep.getS _
  · dsimp only
    refine Keep.bind ?_ fun _ => ?_
    · exact Keep.mono (keep_setFld ..) rfl
    · refine Keep.bind ?_ fun _ => ?_
      · exact Keep.mono (keep_modCtx ..) rfl
      · refine Keep.bind ?_ fun _ => ?_
        · refine Keep.each fun _ => ?_
          refine Keep.bind ?_ fun _ => ?_
          · exact Keep.mono (keep_modCore ..) rfl
          · exact Keep.mono (keep_uncountTick ..) rfl
        · exact Keep.mono (keep_saveBegins ..) rfl

theorem keep_note (t : Trouble) : Keep 0x200002 (note t) := by
  delta note
  refine Keep.bind ?_ fun _ => ?_
  · exact Keep.mono (keep_takeRecord ..) rfl
  · exact Keep.pure _ _

theorem keep_openRsrc (a : CtxAcc) (pa : Nat) : Keep 0x240002 (openRsrc a pa) := by
  delta openRsrc
  refine Keep.bind ?_ fun _ => ?_
  · exact Keep.getS _
  · dsimp only
    refine Keep.ite ?_ ?_
    · refine Keep.bind ?_ fun _ => ?_
      · exact Keep.mono (keep_modWagon ..) rfl
      · refine Keep.bind ?_ fun _ => ?_
        · exact Keep.mono (keep_bump ..) rfl
        · exact Keep.mono (keep_note ..) rfl
    · exact Keep.pure _ _

theorem keep_ctxLine (a : CtxAcc) (va : Nat) (again : Bool) : Keep 0x2f280f (ctxLine a va again) := by
  delta ctxLine
  refine Keep.bind ?_ fun _ => ?_
  · exact Keep.mono (keep_translate ..) rfl
  · split
    · exact Keep.pure _ _
    · refine Keep.bind ?_ fun _ => ?_
      · exact Keep.mono (keep_dirWalk ..) rfl
      · split
        · exact Keep.pure _ _
        · refine Keep.bind ?_ fun _ => ?_
          · exact Keep.mono (keep_readLine ..) rfl
          · split
            · exact Keep.pure _ _
            · exact Keep.pure _ _
            · exact Keep.pure _ _
            · refine Keep.ite ?_ ?_
              · refine Keep.bind ?_ fun _ => ?_
                · exact Keep.mono (keep_openRsrc ..) rfl
                · exact Keep.pure _ _
              · exact Keep.pure _ _

theorem keep_ctxReadAll (a : CtxAcc) (strict : Bool) (again : Bool) (x1 : List (Nat × Nat)) : Keep 0x2f280f (ctxReadAll a strict again x1) := by
  induction x1 with
  | nil =>
    unfold ctxReadAll
    exact Keep.pure _ _
  | cons _ _ ih =>
    unfold ctxReadAll
    dsimp only
    refine Keep.bind ?_ fun _ => ?_
    · exact Keep.mono (keep_ctxLine ..) rfl
    · split
      · refine Keep.bind ?_ fun _ => ?_
        · exact ih
        · split
          · exact Keep.pure _ _
          · exact Keep.pure _ _
      · refine Keep.ite ?_ ?_
        · exact Keep.pure _ _
        · refine Keep.bind ?_ fun _ => ?_
          · exact ih
          · split
            · exact Keep.pure _ _
            · exact Keep.pure _ _
      · exact Keep.pure _ _

theorem keep_ctxRead (a : CtxAcc) (va : Nat) (n : Nat) : Keep 0x2f280f (ctxRead a va n) := by
  delta ctxRead
  exact Keep.mono (keep_ctxReadAll ..) rfl

theorem keep_readHeader (c : Nat) : Keep 0x2f280f (readHeader c) := by
  delta readHeader
  refine Keep.bind ?_ fun _ => ?_
  · exact Keep.getS _
  · refine Keep.bind ?_ fun _ => ?_
    · exact Keep.mono (keep_ctxRead ..) rfl
    · split
      · exact Keep.pure _ _
      · exact Keep.pure _ _

theorem keep_nextTaskMode (n : Nat) : Keep 0x802 (nextTaskMode n) := by
  delta nextTaskMode
  refine Keep.bind ?_ fun _ => ?_
  · exact Keep.getS _
  · dsimp only
    refine Keep.ite ?_ ?_
    · refine Keep.bind ?_ fun _ => ?_
      · exact Keep.mono (keep_modCore ..) rfl
      · exact Keep.mono (keep_capUpdate ..) rfl
    · exact Keep.pure _ _

theorem keep_restoreBegins (c : Nat) (op : SaveOp) : Keep 0x1802 (restoreBegins c op) := by
  delta restoreBegins
  refine Keep.bind ?_ fun _ => ?_
  · exact Keep.mono (keep_setFld ..) rfl
  · refine Keep.bind ?_ fun _ => ?_
    · exact Keep.mono (keep_modCtx ..) rfl
    · refine Keep.each fun _ => ?_
      refine Keep.bind ?_ fun _ => ?_
      · exact Keep.mono (keep_nextTaskMode ..) rfl
      · refine Keep.bind ?_ fun _ => ?_
        · exact Keep.mono (keep_modCore ..) rfl
        · exact Keep.mono (keep_setFld ..) rfl

theorem keep_fillRegion (n : Nat) (c : Nat) (va : Nat) (off : Nat) (len : Nat) : Keep 0x2f280f (fillRegion n c va off len) := by
  delta fillRegion
  refine Keep.bind ?_ fun _ => ?_
  · exact Keep.mono (keep_ctxRead ..) rfl
  · split
    · exact Keep.pure _ _
    · dsimp only
      refine Keep.ite ?_ ?_
      · refine Keep.bind ?_ fun _ => ?_
        · exact Keep.mono (keep_bankWrite ..) rfl
        · exact Keep.pure _ _
      · refine Keep.bind ?_ fun _ => ?_
        · exact Keep.mono (keep_setMem ..) rfl
        · exact Keep.pure _ _

theorem keep_fillRegions (n : Nat) (c : Nat) (base : Nat) (x1 : List (Nat × Nat)) : Keep 0x2f280f (fillRegions n c base x1) := by
  induction x1 with
  | nil =>
    unfold fillRegions
    exact Keep.pure _ _
  | cons _ _ ih =>
    unfold fillRegions
    refine Keep.bind ?_ fun _ => ?_
    · exact Keep.mono (keep_fillRegion ..) rfl
    · split
      · exact Keep.pure _ _
      · exact ih

theorem keep_takePoison (n : Nat) : Keep 0x8 (takePoison n) := by
  delta takePoison
  refine Keep.bind ?_ fun _ => ?_
  · exact Keep.getS _
  · refine Keep.bind ?_ fun _ => ?_
    · refine Keep.each fun _ => ?_
      exact Keep.mono (keep_setPoison ..) rfl
    · refine Keep.each fun _ => ?_
      exact Keep.mono (keep_setPoison ..) rfl

theorem keep_fillCore (n : Nat) (c : Nat) (k : Nat) (banks : Nat) : Keep 0x2f389f (fillCore n c k banks) := by
  delta fillCore
  refine Keep.bind ?_ fun _ => ?_
  · exact Keep.getS _
  · refine Keep.bind ?_ fun _ => ?_
    · exact Keep.mono (keep_fillRegions ..) rfl
    · split
      · exact Keep.mono (keep_faultFor ..) rfl
      · refine Keep.bind ?_ fun _ => ?_
        · exact Keep.mono (keep_takePoison ..) rfl
        · refine Keep.bind ?_ fun _ => ?_
          · exact Keep.getS _
          · refine Keep.bind ?_ fun _ => ?_
            · refine Keep.each fun _ => ?_
              exact Keep.mono (keep_setDraw ..) rfl
            · refine Keep.bind ?_ fun _ => ?_
              · refine Keep.each fun _ => ?_
                refine Keep.bind ?_ fun _ => ?_
                · exact Keep.mono (keep_modTr ..) rfl
                · refine Keep.ite ?_ ?_
                  · refine Keep.bind ?_ fun _ => ?_
                    · exact Keep.mono (keep_clearBank ..) rfl
                    · refine Keep.bind ?_ fun _ => ?_
                      · exact Keep.mono (keep_modTr ..) rfl
                      · exact Keep.mono (keep_bankSet ..) rfl
                  · refine Keep.ite ?_ ?_
                    · exact Keep.mono (keep_bankSet ..) rfl
                    · exact Keep.mono (keep_bankSet ..) rfl
              · exact Keep.mono (keep_modCtx ..) rfl

theorem keep_fillCores (c : Nat) : Keep 0x2f389f (fillCores c) := by
  delta fillCores
  refine Keep.bind ?_ fun _ => ?_
  · exact Keep.getS _
  · split
    · exact Keep.pure _ _
    · refine Keep.bind ?_ fun _ => ?_
      · exact Keep.mono (keep_readHeader ..) rfl
      · split
        · exact Keep.mono (keep_faultFor ..) rfl
        · refine Keep.each fun _ => ?_
          refine Keep.when' ?_
          exact Keep.mono (keep_fillCore ..) rfl

theorem keep_restoreActs (c : Nat) : Keep 0x2f389f (restoreActs c) := by
  delta restoreActs
  refine Keep.bind ?_ fun _ => ?_
  · exact Keep.mono (keep_readHeader ..) rfl
  · split
    · refine Keep.bind ?_ fun _ => ?_
      · exact Keep.getS _
      · refine Keep.when' ?_
        exact Keep.mono (keep_setFld ..) rfl
    · refine Keep.bind ?_ fun _ => ?_
      · exact Keep.mono (keep_faultFor ..) rfl
      · exact Keep.mono (keep_setReg ..) rfl
    · refine Keep.bind ?_ fun _ => ?_
      · exact Keep.getS _
      · dsimp only
        refine Keep.ite ?_ ?_
        · exact Keep.mono (keep_setReg ..) rfl
        · refine Keep.ite ?_ ?_
          · exact Keep.mono (keep_setReg ..) rfl
          · refine Keep.bind ?_ fun _ => ?_
            · exact Keep.mono (keep_restoreBegins ..) rfl
            · exact Keep.mono (keep_fillCores ..) rfl

theorem keep_killActs (c : Nat) (wipe : Bool) : Keep 0x210f3d8f (killActs c wipe) := by
  delta killActs
  refine Keep.bind ?_ fun _ => ?_
  · exact Keep.getS _
  · refine Keep.bind ?_ fun _ => ?_
    · exact Keep.mono (keep_supersede ..) rfl
    · refine Keep.bind ?_ fun _ => ?_
      · refine Keep.each fun _ => ?_
        exact Keep.mono (keep_endTask ..) rfl
      · refine Keep.bind ?_ fun _ => ?_
        · exact Keep.getS _
        · refine Keep.bind ?_ fun _ => ?_
          · refine Keep.each fun _ => ?_
            exact Keep.mono (keep_rosterFinal ..) rfl
          · refine Keep.bind ?_ fun _ => ?_
            · refine Keep.each fun _ => ?_
              exact Keep.mono (keep_haltCore ..) rfl
            · refine Keep.bind ?_ fun _ => ?_
              · exact Keep.mono (keep_setFld ..) rfl
              · exact Keep.mono (keep_modCtx ..) rfl

theorem keep_ctxCommand (c : Nat) (code : Nat) (wipe : Bool) : Keep 0x212f3ddf (ctxCommand c code wipe) := by
  delta ctxCommand
  refine Keep.bind ?_ fun _ => ?_
  · exact Keep.getS _
  · refine Keep.bind ?_ fun _ => ?_
    · exact Keep.mono (keep_noteRank ..) rfl
    · refine Keep.bind ?_ fun _ => ?_
      · refine Keep.when' ?_
        exact Keep.mono (keep_setFld ..) rfl
      · refine Keep.ite ?_ ?_
        · exact Keep.pure _ _
        · refine Keep.ite ?_ ?_
          · exact Keep.mono (keep_flag ..) rfl
          · refine Keep.ite ?_ ?_
            · refine Keep.bind ?_ fun _ => ?_
              · exact Keep.mono (keep_unready ..) rfl
              · exact Keep.mono (keep_setFld ..) rfl
            · refine Keep.ite ?_ ?_
              · exact Keep.mono (keep_setFld ..) rfl
              · refine Keep.ite ?_ ?_
                · exact Keep.mono (keep_saveActs ..) rfl
                · refine Keep.ite ?_ ?_
                  · exact Keep.mono (keep_restoreActs ..) rfl
                  · refine Keep.ite ?_ ?_
                    · exact Keep.mono (keep_killActs ..) rfl
                    · exact Keep.mono (keep_dropXlate ..) rfl

theorem keep_passFault (o : Nat) (code : Nat) (d : PassD) : Keep 0x82 (passFault o code d) := by
  delta passFault
  refine Keep.bind ?_ fun _ => ?_
  · exact Keep.mono (keep_setFld ..) rfl
  · refine Keep.bind ?_ fun _ => ?_
    · exact Keep.mono (keep_setFld ..) rfl
    · refine Keep.bind ?_ fun _ => ?_
      · exact Keep.mono (keep_flag ..) rfl
      · exact Keep.mono (keep_faultCore ..) rfl

theorem keep_headFault (o : Nat) (code : Nat) (d : PassD) : Keep 0x482 (headFault o code d) := by
  delta headFault
  refine Keep.bind ?_ fun _ => ?_
  · exact Keep.getS _
  · refine Keep.bind ?_ fun _ => ?_
    · exact Keep.mono (keep_modOx ..) rfl
    · refine Keep.bind ?_ fun _ => ?_
      · exact Keep.mono (keep_passFault ..) rfl
      · refine Keep.when' ?_
        refine Keep.each fun _ => ?_
        dsimp only
        split
        · refine Keep.bind ?_ fun _ => ?_
          · exact Keep.mono (keep_modOx ..) rfl
          · exact Keep.mono (keep_passFault ..) rfl
        · exact Keep.pure _ _

theorem keep_checkHead (o : Nat) : Keep 0x482 (checkHead o) := by
  delta checkHead
  refine Keep.bind ?_ fun _ => ?_
  · exact Keep.getS _
  · split
    · exact Keep.pure _ _
    · split
      · refine Keep.bind ?_ fun _ => ?_
        · exact Keep.mono (keep_headFault ..) rfl
        · exact Keep.pure _ _
      · refine Keep.bind ?_ fun _ => ?_
        · exact Keep.mono (keep_modOx ..) rfl
        · exact Keep.pure _ _

theorem keep_bankFaultOf (n : Nat) (bs : List (Nat × Nat)) : Keep 0x82 (bankFaultOf n bs) := by
  delta bankFaultOf
  refine Keep.bind ?_ fun _ => ?_
  · exact Keep.getS _
  · split
    · exact Keep.mono (keep_bankFault ..) rfl
    · exact Keep.pure _ _

theorem keep_bankHold (n : Nat) (unit : Nat) (bs : List (Nat × Nat)) : Keep 0x800 (bankHold n unit bs) := by
  delta bankHold
  refine Keep.bind ?_ fun _ => ?_
  · exact Keep.getS _
  · dsimp only
    exact Keep.mono (keep_modCore ..) rfl

theorem keep_bankFree (n : Nat) (unit : Nat) : Keep 0x800 (bankFree n unit) := by
  delta bankFree
  refine Keep.bind ?_ fun _ => ?_
  · exact Keep.getS _
  · refine Keep.when' ?_
    exact Keep.mono (keep_bankHold ..) rfl

theorem keep_startPass (o : Nat) (bubble : Nat) : Keep 0xc82 (startPass o bubble) := by
  delta startPass
  refine Keep.bind ?_ fun _ => ?_
  · exact Keep.getS _
  · dsimp only
    split
    · refine Keep.ite ?_ ?_
      · refine Keep.bind ?_ fun _ => ?_
        · refine Keep.ite ?_ ?_
          · exact Keep.pure _ _
          · exact Keep.mono (keep_checkHead ..) rfl
        · refine Keep.ite ?_ ?_
          · split
            · exact Keep.mono (keep_bankFaultOf ..) rfl
            · exact Keep.mono (keep_bankHold ..) rfl
            · refine Keep.bind ?_ fun _ => ?_
              · exact Keep.mono (keep_bankFree ..) rfl
              · refine Keep.ite ?_ ?_
                · exact Keep.mono (keep_streamFault ..) rfl
                · refine Keep.bind ?_ fun _ => ?_
                  · exact Keep.mono (keep_bumpBy ..) rfl
                  · exact Keep.mono (keep_modOx ..) rfl
          · exact Keep.pure _ _
      · exact Keep.pure _ _
    · exact Keep.pure _ _

theorem keep_masterTick  : Keep 0x62 (masterTick ) := by
  delta masterTick
  refine Keep.bind ?_ fun _ => ?_
  · exact Keep.mono (keep_setFld ..) rfl
  · refine Keep.bind ?_ fun _ => ?_
    · exact Keep.mono (keep_setFld ..) rfl
    · refine Keep.bind ?_ fun _ => ?_
      · exact Keep.mono (keep_setFld ..) rfl
      · refine Keep.bind ?_ fun _ => ?_
        · exact Keep.mono (keep_setReg ..) rfl
        · refine Keep.bind ?_ fun _ => ?_
          · exact Keep.getS _
          · refine Keep.ite ?_ ?_
            · exact Keep.mono (keep_modTime ..) rfl
            · exact Keep.mono (keep_modTick ..) rfl

theorem keep_takeOxSlot (n : Nat) (mode : Nat) (k : Nat) : Keep 0x400 (takeOxSlot n mode k) := by
  delta takeOxSlot
  refine Keep.bind ?_ fun _ => ?_
  · exact Keep.getS _
  · split
    · dsimp only
      exact Keep.mono (keep_modOx ..) rfl
    · exact Keep.pure _ _

theorem keep_setBind (n : Nat) (b : Nat) (code : Nat) : Keep 0x2 (setBind n b code) := by
  delta setBind
  exact Keep.mono (keep_setFld ..) rfl

theorem keep_showTask (n : Nat) (t : Task) : Keep 0x2 (showTask n t) := by
  delta showTask
  refine Keep.bind ?_ fun _ => ?_
  · exact Keep.mono (keep_setReg ..) rfl
  · refine Keep.bind ?_ fun _ => ?_
    · exact Keep.mono (keep_setReg ..) rfl
    · exact Keep.mono (keep_setReg ..) rfl

theorem keep_resumeCore (n : Nat) (c : Nat) (x : SlotHdr) (kept : Option KeptTask) (xs : List Stream) (t : Option Task) : Keep 0x20111c8e (resumeCore n c x kept xs t) := by
  delta resumeCore
  refine Keep.bind ?_ fun _ => ?_
  · refine Keep.each fun _ => ?_
    refine Keep.bind ?_ fun _ => ?_
    · exact Keep.getS _
    · exact Keep.mono (keep_setReg ..) rfl
  · refine Keep.bind ?_ fun _ => ?_
    · refine Keep.each fun _ => ?_
      refine Keep.each fun _ => ?_
      refine Keep.bind ?_ fun _ => ?_
      · exact Keep.getS _
      · exact Keep.mono (keep_setReg ..) rfl
    · refine Keep.bind ?_ fun _ => ?_
      · refine Keep.each fun _ => ?_
        exact Keep.mono (keep_takeOxSlot ..) rfl
      · refine Keep.bind ?_ fun _ => ?_
        · refine Keep.each fun _ => ?_
          refine Keep.bind ?_ fun _ => ?_
          · exact Keep.getS _
          · exact Keep.mono (keep_setBind ..) rfl
        · refine Keep.bind ?_ fun _ => ?_
          · refine Keep.each fun _ => ?_
            refine Keep.bind ?_ fun _ => ?_
            · exact Keep.getS _
            · exact Keep.mono (keep_setReg ..) rfl
          · refine Keep.bind ?_ fun _ => ?_
            · refine Keep.each fun _ => ?_
              exact Keep.mono (keep_setReg ..) rfl
            · refine Keep.bind ?_ fun _ => ?_
              · exact Keep.mono (keep_setFld ..) rfl
              · refine Keep.bind ?_ fun _ => ?_
                · exact Keep.mono (keep_setFld ..) rfl
                · refine Keep.bind ?_ fun _ => ?_
                  · exact Keep.getS _
                  · dsimp only
                    refine Keep.bind ?_ fun _ => ?_
                    · exact Keep.mono (keep_modCore ..) rfl
                    · split
                      · refine Keep.bind ?_ fun _ => ?_
                        · exact Keep.mono (keep_showTask ..) rfl
                        · refine Keep.bind ?_ fun _ => ?_
                          · exact Keep.mono (keep_modRoster ..) rfl
                          · refine Keep.bind ?_ fun _ => ?_
                            · exact Keep.mono (keep_setFld ..) rfl
                            · refine Keep.bind ?_ fun _ => ?_
                              · exact Keep.mono (keep_setFld ..) rfl
                              · refine Keep.bind ?_ fun _ => ?_
                                · exact Keep.mono (keep_clearMem ..) rfl
                                · exact Keep.mono (keep_bankDeferred ..) rfl
                      · refine Keep.bind ?_ fun _ => ?_
                        · exact Keep.mono (keep_setFld ..) rfl
                        · refine Keep.bind ?_ fun _ => ?_
                          · exact Keep.mono (keep_setFld ..) rfl
                          · refine Keep.bind ?_ fun _ => ?_
                            · exact Keep.mono (keep_clearMem ..) rfl
                            · exact Keep.mono (keep_bankDeferred ..) rfl

theorem keep_modXfer (i : Nat) (f : Xfer → Xfer) : Keep 0x1000000 (modXfer i f) := by
  delta modXfer
  exact Keep.mono (keep_modFab ..) rfl

theorem keep_rosterCfgWrite (c : Nat) (r : Nat) (data : Nat) : Keep 0x1002 (rosterCfgWrite c r data) := by
  delta rosterCfgWrite
  refine Keep.bind ?_ fun _ => ?_
  · exact Keep.getS _
  · dsimp only
    refine Keep.ite ?_ ?_
    · exact Keep.mono (keep_flag ..) rfl
    · refine Keep.bind ?_ fun _ => ?_
      · exact Keep.mono (keep_setReg ..) rfl
      · refine Keep.bind ?_ fun _ => ?_
        · refine Keep.when' ?_
          exact Keep.mono (keep_modRoster ..) rfl
        · refine Keep.when' ?_
          exact Keep.mono (keep_flag ..) rfl

theorem keep_placeMule (n : Nat) (slot : Nat) (row : OutRow) : Keep 0x800 (placeMule n slot row) := by
  delta placeMule
  dsimp only
  exact Keep.mono (keep_modCore ..) rfl

theorem keep_giveRow (o : Nat) : Keep 0xc00 (giveRow o) := by
  delta giveRow
  refine Keep.bind ?_ fun _ => ?_
  · exact Keep.getS _
  · dsimp only
    split
    · split
      · refine Keep.when' ?_
        refine Keep.bind ?_ fun _ => ?_
        · exact Keep.mono (keep_placeMule ..) rfl
        · exact Keep.mono (keep_modOx ..) rfl
      · exact Keep.pure _ _
    · exact Keep.pure _ _

theorem keep_placeAcc (n : Nat) (p : RunPass) (r : Nat) (row : OutRow) : Keep 0x1c (placeAcc n p r row) := by
  delta placeAcc
  refine Keep.bind ?_ fun _ => ?_
  · exact Keep.getS _
  · dsimp only
    refine Keep.bind ?_ fun _ => ?_
    · refine Keep.each fun _ => ?_
      exact Keep.mono (keep_accWrite ..) rfl
    · refine Keep.when' ?_
      exact Keep.mono (keep_setDraw ..) rfl

theorem keep_completePass (o : Nat) : Keep 0xc9e (completePass o) := by
  delta completePass
  refine Keep.bind ?_ fun _ => ?_
  · exact Keep.getS _
  · dsimp only
    split
    · refine Keep.ite ?_ ?_
      · refine Keep.bind ?_ fun _ => ?_
        · refine Keep.each fun _ => ?_
          exact Keep.mono (keep_giveRow ..) rfl
        · refine Keep.bind ?_ fun _ => ?_
          · exact Keep.getS _
          · refine Keep.ite ?_ ?_
            · refine Keep.bind ?_ fun _ => ?_
              · exact Keep.mono (keep_modOx ..) rfl
              · exact Keep.mono (keep_bump ..) rfl
            · exact Keep.pure _ _
      · split
        · refine Keep.bind ?_ fun _ => ?_
          · exact Keep.mono (keep_bankFault ..) rfl
          · refine Keep.bind ?_ fun _ => ?_
            · exact Keep.mono (keep_modOx ..) rfl
            · exact Keep.mono (keep_bump ..) rfl
        · exact Keep.mono (keep_bankHold ..) rfl
        · refine Keep.bind ?_ fun _ => ?_
          · exact Keep.mono (keep_bankFree ..) rfl
          · refine Keep.bind ?_ fun _ => ?_
            · refine Keep.each fun _ => ?_
              exact Keep.mono (keep_placeAcc ..) rfl
            · refine Keep.bind ?_ fun _ => ?_
              · exact Keep.mono (keep_modOx ..) rfl
              · exact Keep.mono (keep_bump ..) rfl
    · exact Keep.pure _ _

theorem keep_muleWrite (n : Nat) (a : Nat) (v : Nat) : Keep 0x802 (muleWrite n a v) := by
  delta muleWrite
  refine Keep.bind ?_ fun _ => ?_
  · exact Keep.getS _
  · refine Keep.ite ?_ ?_
    · exact Keep.mono (keep_modCore ..) rfl
    · exact Keep.mono (keep_setReg ..) rfl

theorem keep_bankWriteReq (n : Nat) (b : Nat) (t : Nat) : Keep 0x20110c8e (bankWriteReq n b t) := by
  delta bankWriteReq
  refine Keep.bind ?_ fun _ => ?_
  · exact Keep.getS _
  · refine Keep.ite ?_ ?_
    · exact Keep.mono (keep_modCore ..) rfl
    · refine Keep.ite ?_ ?_
      · exact Keep.mono (keep_bankRetireNow ..) rfl
      · exact Keep.mono (keep_bankRequest ..) rfl

theorem keep_writeBank (n : Nat) (b : Nat) (v : Nat) : Keep 0x20110c8e (writeBank n b v) := by
  delta writeBank
  dsimp only
  refine Keep.bind ?_ fun _ => ?_
  · refine Keep.when' ?_
    exact Keep.mono (keep_setFld ..) rfl
  · refine Keep.bind ?_ fun _ => ?_
    · refine Keep.when' ?_
      exact Keep.mono (keep_bankWriteReq ..) rfl
    · refine Keep.when' ?_
      exact Keep.mono (keep_bankWriteReq ..) rfl

theorem keep_addMod (f : Fld) (n : Nat) : Keep 0x2 (addMod f n) := by
  delta addMod
  refine Keep.bind ?_ fun _ => ?_
  · exact Keep.mono (keep_fld ..) rfl
  · exact Keep.mono (keep_setFld ..) rfl

theorem keep_addHc (n : Nat) (h : Nat) (v : Nat) : Keep 0x2 (addHc n h v) := by
  delta addHc
  exact Keep.mono (keep_addMod ..) rfl

theorem keep_hcAddWrite (n : Nat) (h : Nat) (v : Nat) : Keep 0x2 (hcAddWrite n h v) := by
  delta hcAddWrite
  refine Keep.bind ?_ fun _ => ?_
  · exact Keep.mono (keep_setReg ..) rfl
  · exact Keep.mono (keep_addHc ..) rfl

theorem keep_modHand (n : Nat) (col : Nat) (f : List Handoff → List Handoff) : Keep 0x800 (modHand n col f) := by
  delta modHand
  exact Keep.mono (keep_modCore ..) rfl

theorem keep_cdoneWrite (n : Nat) (col : Nat) (slot : Nat) : Keep 0x802 (cdoneWrite n col slot) := by
  delta cdoneWrite
  refine Keep.bind ?_ fun _ => ?_
  · exact Keep.mono (keep_setReg ..) rfl
  · refine Keep.bind ?_ fun _ => ?_
    · exact Keep.getS _
    · split
      · exact Keep.mono (keep_modHand ..) rfl
      · exact Keep.pure _ _

theorem keep_plainWrite (d : RegDef) (a : Nat) (v : Nat) : Keep 0x2 (plainWrite d a v) := by
  delta plainWrite
  refine Keep.bind ?_ fun _ => ?_
  · exact Keep.getS _
  · exact Keep.mono (keep_setReg ..) rfl

theorem keep_writeCore (n : Nat) (d : RegDef) (a : Nat) (v : Nat) : Keep 0x20110c8e (writeCore n d a v) := by
  delta writeCore
  refine Keep.ite ?_ ?_
  · exact Keep.mono (keep_muleWrite ..) rfl
  · refine Keep.ite ?_ ?_
    · exact Keep.mono (keep_writeBank ..) rfl
    · refine Keep.ite ?_ ?_
      · exact Keep.mono (keep_hcAddWrite ..) rfl
      · refine Keep.ite ?_ ?_
        · exact Keep.mono (keep_cdoneWrite ..) rfl
        · refine Keep.ite ?_ ?_
          · exact Keep.mono (keep_cdoneWrite ..) rfl
          · refine Keep.ite ?_ ?_
            · refine Keep.bind ?_ fun _ => ?_
              · exact Keep.mono (keep_plainWrite ..) rfl
              · exact Keep.mono (keep_capUpdate ..) rfl
            · exact Keep.mono (keep_plainWrite ..) rfl

theorem keep_dropFailed (n : Nat) : Keep 0x20000 (dropFailed n) := by
  delta dropFailed
  refine Keep.bind ?_ fun _ => ?_
  · exact Keep.getS _
  · refine Keep.each fun _ => ?_
    exact Keep.mono (keep_modCxl ..) rfl

theorem keep_noteTile (n : Nat) (k : Nat) (i : Nat) (r : TRes) : Keep 0x20802 (noteTile n k i r) := by
  delta noteTile
  refine Keep.bind ?_ fun _ => ?_
  · exact Keep.getS _
  · refine Keep.bind ?_ fun _ => ?_
    · refine Keep.when' ?_
      exact Keep.mono (keep_dropFailed ..) rfl
    · refine Keep.bind ?_ fun _ => ?_
      · refine Keep.when' ?_
        exact Keep.mono (keep_bankFree ..) rfl
      · dsimp only
        split
        · refine Keep.bind ?_ fun _ => ?_
          · exact Keep.mono (keep_modStream ..) rfl
          · refine Keep.bind ?_ fun _ => ?_
            · exact Keep.mono (keep_modCore ..) rfl
            · exact Keep.mono (keep_setReg ..) rfl
        · refine Keep.bind ?_ fun _ => ?_
          · refine Keep.when' ?_
            exact Keep.mono (keep_noteWait ..) rfl
          · refine Keep.bind ?_ fun _ => ?_
            · exact Keep.mono (keep_modStream ..) rfl
            · exact Keep.mono (keep_modCore ..) rfl
        · exact Keep.mono (keep_modCore ..) rfl
        · exact Keep.pure _ _
        · refine Keep.bind ?_ fun _ => ?_
          · exact Keep.mono (keep_modStream ..) rfl
          · exact Keep.mono (keep_modCore ..) rfl

theorem keep_addStat (n : Nat) (o : OwedStat) : Keep 0x2f288f (addStat n o) := by
  delta addStat
  refine Keep.bind ?_ fun _ => ?_
  · exact Keep.getS _
  · dsimp only
    split
    · exact Keep.pure _ _
    · refine Keep.ite ?_ ?_
      · exact Keep.pure _ _
      · refine Keep.bind ?_ fun _ => ?_
        · exact Keep.mono (keep_ctxRead ..) rfl
        · split
          · exact Keep.pure _ _
          · refine Keep.bind ?_ fun _ => ?_
            · exact Keep.mono (keep_faultFor ..) rfl
            · exact Keep.pure _ _
          · split
            · refine Keep.bind ?_ fun _ => ?_
              · refine Keep.when' ?_
                exact Keep.mono (keep_flag ..) rfl
              · refine Keep.bind ?_ fun _ => ?_
                · exact Keep.mono (keep_ctxWrite ..) rfl
                · split
                  · exact Keep.pure _ _
                  · refine Keep.bind ?_ fun _ => ?_
                    · exact Keep.mono (keep_faultFor ..) rfl
                    · exact Keep.pure _ _
                  · exact Keep.pure _ _
            · refine Keep.bind ?_ fun _ => ?_
              · exact Keep.mono (keep_flag ..) rfl
              · refine Keep.bind ?_ fun _ => ?_
                · exact Keep.mono (keep_bump ..) rfl
                · refine Keep.bind ?_ fun _ => ?_
                  · exact Keep.mono (keep_modCore ..) rfl
                  · exact Keep.pure _ _

theorem keep_dropDeep (x : Nat) (id : Nat) : Keep 0x20000 (dropDeep x id) := by
  delta dropDeep
  exact Keep.mono (keep_modCxl ..) rfl

theorem keep_modDeep (x : Nat) (id : Nat) (f : DeepAcc → DeepAcc) : Keep 0x20000 (modDeep x id f) := by
  delta modDeep
  exact Keep.mono (keep_modCxl ..) rfl

theorem keep_notPerformed (req : Nat) (code : Nat) (addr : Nat) : Keep 0x10080 (notPerformed req code addr) := by
  delta notPerformed
  refine Keep.ite ?_ ?_
  · refine Keep.bind ?_ fun _ => ?_
    · exact Keep.mono (keep_faultCore ..) rfl
    · exact Keep.mono (keep_emit ..) rfl
  · exact Keep.mono (keep_emit ..) rfl

theorem keep_heldAnswer (addr : Nat) (w : HoldWhy) : Keep 0x10002 (heldAnswer addr w) := by
  delta heldAnswer
  split
  · refine Keep.bind ?_ fun _ => ?_
    · exact Keep.getS _
    · exact Keep.mono (keep_refuseAt ..) rfl
  · exact Keep.pure _ _

theorem keep_deepWrote (req : Nat) (va : Nat) (o : WrOut) : Keep 0x10082 (deepWrote req va o) := by
  delta deepWrote
  split
  · exact Keep.mono (keep_notPerformed ..) rfl
  · exact Keep.mono (keep_heldAnswer ..) rfl
  · exact Keep.pure _ _

theorem keep_deepGives (req : Nat) (ctx : Option Nat) (va : Nat) (bs : List Byte) (poison : Bool) : Keep 0x10080 (deepGives req ctx va bs poison) := by
  delta deepGives
  refine Keep.ite ?_ ?_
  · refine Keep.bind ?_ fun _ => ?_
    · exact Keep.mono (keep_faultCore ..) rfl
    · exact Keep.mono (keep_emit ..) rfl
  · exact Keep.mono (keep_emit ..) rfl

theorem keep_deepLine (req : Nat) (ctx : Option Nat) (va : Nat) (o : LineOut) : Keep 0x10082 (deepLine req ctx va o) := by
  delta deepLine
  split
  · exact Keep.mono (keep_deepGives ..) rfl
  · exact Keep.mono (keep_deepGives ..) rfl
  · exact Keep.mono (keep_notPerformed ..) rfl
  · exact Keep.mono (keep_heldAnswer ..) rfl

theorem keep_deepServe (off : Nat) (va : Nat) (req : Nat) (ctx : Option Nat) (lost : Bool) (data : Option (Nat × Nat)) : Keep 0xb008f (deepServe off va req ctx lost data) := by
  delta deepServe
  split
  · refine Keep.bind ?_ fun _ => ?_
    · exact Keep.mono (keep_writeDeepLine ..) rfl
    · exact Keep.mono (keep_deepWrote ..) rfl
  · refine Keep.bind ?_ fun _ => ?_
    · exact Keep.mono (keep_readDeepLine ..) rfl
    · exact Keep.mono (keep_deepLine ..) rfl

theorem keep_deepAnswers (x : Nat) (a : DeepAcc) : Keep 0xb008f (deepAnswers x a) := by
  delta deepAnswers
  refine Keep.bind ?_ fun _ => ?_
  · exact Keep.getS _
  · refine Keep.ite ?_ ?_
    · refine Keep.bind ?_ fun _ => ?_
      · exact Keep.mono (keep_dropDeep ..) rfl
      · exact Keep.mono (keep_bump ..) rfl
    · refine Keep.ite ?_ ?_
      · exact Keep.mono (keep_modDeep ..) rfl
      · refine Keep.bind ?_ fun _ => ?_
        · exact Keep.mono (keep_dropDeep ..) rfl
        · dsimp only
          exact Keep.mono (keep_deepServe ..) rfl

theorem keep_deepAnswered  : Keep 0xb008f (deepAnswered ) := by
  delta deepAnswered
  refine Keep.bind ?_ fun _ => ?_
  · exact Keep.getS _
  · refine Keep.each fun _ => ?_
    refine Keep.each fun _ => ?_
    exact Keep.mono (keep_deepAnswers ..) rfl

theorem keep_rosterGet (c : Nat) (r : Nat) (va : Nat) : Keep 0x2f288f (rosterGet c r va) := by
  delta rosterGet
  refine Keep.bind ?_ fun _ => ?_
  · exact Keep.mono (keep_ctxRead ..) rfl
  · split
    · refine Keep.bind ?_ fun _ => ?_
      · exact Keep.mono (keep_faultFor ..) rfl
      · exact Keep.pure _ _
    · refine Keep.ite ?_ ?_
      · refine Keep.bind ?_ fun _ => ?_
        · exact Keep.mono (keep_setReg ..) rfl
        · refine Keep.bind ?_ fun _ => ?_
          · exact Keep.mono (keep_faultCtxAs ..) rfl
          · exact Keep.pure _ _
      · exact Keep.pure _ _

theorem keep_rosterFresh (c : Nat) (r : Nat) : Keep 0x2f388f (rosterFresh c r) := by
  delta rosterFresh
  refine Keep.bind ?_ fun _ => ?_
  · exact Keep.getS _
  · refine Keep.ite ?_ ?_
    · refine Keep.bind ?_ fun _ => ?_
      · exact Keep.mono (keep_rosterGet ..) rfl
      · split
        · exact Keep.pure _ _
        · refine Keep.bind ?_ fun _ => ?_
          · exact Keep.mono (keep_rosterGet ..) rfl
          · split
            · exact Keep.pure _ _
            · exact Keep.mono (keep_modRoster ..) rfl
    · exact Keep.pure _ _

theorem keep_maintEnter (who : Who) (st : Nat) : Keep 0x2002 (maintEnter who st) := by
  delta maintEnter
  refine Keep.bind ?_ fun _ => ?_
  · exact Keep.getS _
  · dsimp only
    refine Keep.ite ?_ ?_
    · refine Keep.bind ?_ fun _ => ?_
      · exact Keep.mono (keep_setFld ..) rfl
      · refine Keep.ite ?_ ?_
        · refine Keep.bind ?_ fun _ => ?_
          · exact Keep.mono (keep_setFld ..) rfl
          · exact Keep.mono (keep_capUpdate ..) rfl
        · exact Keep.mono (keep_modStack ..) rfl
    · exact Keep.pure _ _

theorem keep_hopDelay (loop : Nat) : Keep 0x2 (hopDelay loop) := by
  delta hopDelay
  refine Keep.bind ?_ fun _ => ?_
  · exact Keep.getS _
  · refine Keep.when' ?_
    exact Keep.mono (keep_setFld ..) rfl

theorem keep_routeSwitchNow  : Keep 0x2 (routeSwitchNow ) := by
  delta routeSwitchNow
  refine Keep.bind ?_ fun _ => ?_
  · exact Keep.getS _
  · refine Keep.bind ?_ fun _ => ?_
    · exact Keep.mono (keep_setFld ..) rfl
    · exact Keep.mono (keep_setFld ..) rfl

theorem keep_maintCmd {k : Nat} {m : M Unit} (who : Who) (st op ch : Nat) (pc : Bool) (h : Keep k m) (hs : 0x2 &&& k = 0x2) : Keep k (maintCmd who st op ch pc m) := by
  have up : ∀ {n : Nat} {γ : Type} {x : M γ}, Keep n x → n &&& 0x2 = n → Keep k x := fun hx hn => (hx.mono hn).mono hs
  delta maintCmd
  refine Keep.bind ?_ fun _ => ?_
  · exact Keep.getS _
  · refine Keep.ite ?_ ?_
    · refine Keep.bind ?_ fun _ => ?_
      · exact up (keep_setReg ..) rfl
      · refine Keep.bind ?_ fun _ => ?_
        · exact h
        · exact up (keep_setFld ..) rfl
    · refine Keep.when' ?_
      exact up (keep_setFld ..) rfl

theorem keep_modeReg (st : Nat) (ch : Nat) : Keep 0x2001 (modeReg st ch) := by
  delta modeReg
  refine Keep.bind ?_ fun _ => ?_
  · exact Keep.getS _
  · dsimp only
    split
    · exact Keep.pure _ _
    · refine Keep.bind ?_ fun _ => ?_
      · exact Keep.mono (keep_freeWord ..) rfl
      · refine Keep.bind ?_ fun _ => ?_
        · exact Keep.mono (keep_modStack ..) rfl
        · exact Keep.pure _ _

theorem keep_maintOp (who : Who) (st : Nat) (op : Nat) (ch : Nat) (pc : Bool) (rows : List Nat) : Keep 0x112003 (maintOp who st op ch pc rows) := by
  delta maintOp
  refine keep_maintCmd (hs := rfl) (h := ?_) ..
  refine Keep.bind ?_ fun _ => ?_
  · exact Keep.getS _
  · dsimp only
    refine Keep.ite ?_ ?_
    · refine Keep.bind ?_ fun _ => ?_
      · exact Keep.mono (keep_modeReg ..) rfl
      · refine Keep.bind ?_ fun _ => ?_
        · exact Keep.mono (keep_setReg ..) rfl
        · exact Keep.mono (keep_modStack ..) rfl
    · refine Keep.ite ?_ ?_
      · exact Keep.mono (keep_modStack ..) rfl
      · refine Keep.ite ?_ ?_
        · exact Keep.mono (keep_modStack ..) rfl
        · refine Keep.ite ?_ ?_
          · refine Keep.bind ?_ fun _ => ?_
            · exact Keep.mono (keep_modStack ..) rfl
            · exact Keep.mono (keep_historyAdd ..) rfl
          · refine Keep.ite ?_ ?_
            · exact Keep.mono (keep_modStack ..) rfl
            · refine Keep.ite ?_ ?_
              · exact Keep.mono (keep_modStack ..) rfl
              · exact Keep.mono (keep_emit ..) rfl

theorem keep_resendFrom (port : Nat) (lseq : Nat) : Keep 0x10000 (resendFrom port lseq) := by
  delta resendFrom
  refine Keep.bind ?_ fun _ => ?_
  · exact Keep.getS _
  · dsimp only
    refine Keep.each fun _ => ?_
    exact Keep.mono (keep_emit ..) rfl

theorem keep_putAll (a : CtxAcc) (x1 : List (Nat × List Byte)) : Keep 0xf280f (putAll a x1) := by
  induction x1 with
  | nil =>
    unfold putAll
    exact Keep.pure _ _
  | cons _ _ ih =>
    unfold putAll
    refine Keep.bind ?_ fun _ => ?_
    · exact Keep.mono (keep_ctxWrite ..) rfl
    · split
      · exact Keep.pure _ _
      · exact ih

theorem keep_clearCores (c : Nat) : Keep 0x20111c9e (clearCores c) := by
  delta clearCores
  refine Keep.bind ?_ fun _ => ?_
  · exact Keep.getS _
  · refine Keep.bind ?_ fun _ => ?_
    · refine Keep.each fun _ => ?_
      exact Keep.mono (keep_clearCore ..) rfl
    · refine Keep.bind ?_ fun _ => ?_
      · exact Keep.mono (keep_setReg ..) rfl
      · refine Keep.bind ?_ fun _ => ?_
        · refine Keep.each fun _ => ?_
          exact Keep.mono (keep_setReg ..) rfl
        · exact Keep.mono (keep_modCtx ..) rfl

theorem keep_saveCompletes (c : Nat) : Keep 0x201f3cdf (saveCompletes c) := by
  delta saveCompletes
  refine Keep.bind ?_ fun _ => ?_
  · exact Keep.getS _
  · split
    · exact Keep.pure _ _
    · refine Keep.ite ?_ ?_
      · dsimp only
        refine Keep.bind ?_ fun _ => ?_
        · exact Keep.mono (keep_putAll ..) rfl
        · split
          · exact Keep.mono (keep_faultFor ..) rfl
          · refine Keep.bind ?_ fun _ => ?_
            · exact Keep.mono (keep_fenceOf ..) rfl
            · refine Keep.bind ?_ fun _ => ?_
              · exact Keep.mono (keep_ctxWrite ..) rfl
              · split
                · exact Keep.mono (keep_faultFor ..) rfl
                · refine Keep.bind ?_ fun _ => ?_
                  · exact Keep.mono (keep_fenceOf ..) rfl
                  · refine Keep.bind ?_ fun _ => ?_
                    · exact Keep.getS _
                    · refine Keep.bind ?_ fun _ => ?_
                      · exact Keep.mono (keep_clearCores ..) rfl
                      · refine Keep.bind ?_ fun _ => ?_
                        · exact Keep.mono (keep_setFld ..) rfl
                        · refine Keep.bind ?_ fun _ => ?_
                          · exact Keep.mono (keep_setReg ..) rfl
                          · refine Keep.bind ?_ fun _ => ?_
                            · exact Keep.mono (keep_modCtx ..) rfl
                            · exact Keep.mono (keep_noteRank ..) rfl
      · exact Keep.pure _ _

end Sys2Proof.Machine
end

