-- ==== Sys2Proof/Laws/KeepsB.lean ====
section
/-!
SUPPORT. Laws/KeepsB.lean: the fields that each shared operation may change, one lemma each.
-/

namespace Sys2Proof.Machine

theorem keep_linkReply (module : Bool) (tag : Nat) (write : Bool) : Keep 0x20010000 (linkReply module tag write) := by
  delta linkReply
  refine Keep.bind ?_ fun _ => ?_
  · exact Keep.getS _
  · split
    · refine Keep.bind ?_ fun _ => ?_
      · exact Keep.mono (keep_modLink ..) rfl
      · exact Keep.mono (keep_emit ..) rfl
    · exact Keep.pure _ _

theorem keep_submit {k : Nat} {m : M Unit} (q : HbmReq) (h : Keep k m) (hs : 0x42002 &&& k = 0x42002) : Keep k (submit q m) := by
  have up : ∀ {n : Nat} {γ : Type} {x : M γ}, Keep n x → n &&& 0x42002 = n → Keep k x := fun hx hn => (hx.mono hn).mono hs
  delta submit
  refine Keep.bind ?_ fun _ => ?_
  · exact Keep.getS _
  · split
    · split
      · refine Keep.ite ?_ ?_
        · exact h
        · dsimp only
          split
          · refine Keep.bind ?_ fun _ => ?_
            · exact up (keep_guardDir ..) rfl
            · refine Keep.ite ?_ ?_
              · refine Keep.bind ?_ fun _ => ?_
                · exact up (keep_modStack ..) rfl
                · exact up (keep_noteSlots ..) rfl
              · refine Keep.bind ?_ fun _ => ?_
                · exact up (keep_modStack ..) rfl
                · exact up (keep_bump ..) rfl
          · refine Keep.ite ?_ ?_
            · refine Keep.bind ?_ fun _ => ?_
              · exact up (keep_modStack ..) rfl
              · exact up (keep_noteSlots ..) rfl
            · refine Keep.bind ?_ fun _ => ?_
              · exact up (keep_modStack ..) rfl
              · exact up (keep_bump ..) rfl
      · exact h
    · exact h

theorem keep_offerWaits (st : Nat) : Keep 0x5208f (offerWaits st) := by
  delta offerWaits
  refine Keep.bind ?_ fun _ => ?_
  · exact Keep.getS _
  · dsimp only
    refine Keep.when' ?_
    refine Keep.bind ?_ fun _ => ?_
    · exact Keep.mono (keep_modStack ..) rfl
    · refine Keep.each fun _ => ?_
      refine keep_submit (hs := rfl) (h := ?_) ..
      refine Keep.bind ?_ fun _ => ?_
      · exact Keep.getS _
      · split
        · exact Keep.mono (keep_serveReq ..) rfl
        · exact Keep.mono (keep_notPerformed ..) rfl
        · exact Keep.mono (keep_modStack ..) rfl

theorem keep_muleFault (n : Nat) (k : Nat) (code : Nat) (p : Nat) (op : Nat) : Keep 0x882 (muleFault n k code p op) := by
  delta muleFault
  refine Keep.bind ?_ fun _ => ?_
  · exact Keep.mono (keep_setReg ..) rfl
  · refine Keep.bind ?_ fun _ => ?_
    · exact Keep.mono (keep_flag ..) rfl
    · refine Keep.bind ?_ fun _ => ?_
      · exact Keep.mono (keep_modStream ..) rfl
      · refine Keep.bind ?_ fun _ => ?_
        · exact Keep.mono (keep_setFld ..) rfl
        · refine Keep.bind ?_ fun _ => ?_
          · exact Keep.mono (keep_abandonSpans ..) rfl
          · refine Keep.bind ?_ fun _ => ?_
            · exact Keep.mono (keep_modCore ..) rfl
            · exact Keep.mono (keep_faultCore ..) rfl

theorem keep_imgFault (n : Nat) (ms : List Img) : Keep 0x82 (imgFault n ms) := by
  delta imgFault
  exact Keep.mono (keep_bankFaultOf ..) rfl

theorem keep_imgHold (n : Nat) (k : Nat) (ms : List Img) : Keep 0x800 (imgHold n k ms) := by
  delta imgHold
  refine Keep.bind ?_ fun _ => ?_
  · exact Keep.mono (keep_bankHold ..) rfl
  · exact Keep.pure _ _

theorem keep_stopRes (a : CtxAcc) (w : Stop) : Keep 0x82 (stopRes a w) := by
  delta stopRes
  split
  · exact Keep.pure _ _
  · refine Keep.bind ?_ fun _ => ?_
    · exact Keep.mono (keep_faultFor ..) rfl
    · exact Keep.pure _ _

theorem keep_actRecipe (n : Nat) (tid : Nat) : Keep 0x2f288f (actRecipe n tid) := by
  delta actRecipe
  refine Keep.bind ?_ fun _ => ?_
  · exact Keep.getS _
  · dsimp only
    split
    · exact Keep.pure _ _
    · refine Keep.ite ?_ ?_
      · exact Keep.pure _ _
      · refine Keep.bind ?_ fun _ => ?_
        · exact Keep.mono (keep_ctxRead ..) rfl
        · split
          · refine Keep.bind ?_ fun _ => ?_
            · exact Keep.mono (keep_stopRes ..) rfl
            · exact Keep.pure _ _
          · split
            · exact Keep.pure _ _
            · refine Keep.bind ?_ fun _ => ?_
              · exact Keep.mono (keep_flag ..) rfl
              · refine Keep.bind ?_ fun _ => ?_
                · exact Keep.mono (keep_faultCore ..) rfl
                · exact Keep.pure _ _
            · exact Keep.pure _ _
            · refine Keep.bind ?_ fun _ => ?_
              · exact Keep.mono (keep_flag ..) rfl
              · refine Keep.bind ?_ fun _ => ?_
                · exact Keep.mono (keep_faultCore ..) rfl
                · exact Keep.pure _ _
            · exact Keep.pure _ _

theorem keep_prepEncode (n : Nat) (e : EncSpec) : Keep 0x2f288f (prepEncode n e) := by
  delta prepEncode
  refine Keep.ite ?_ ?_
  · refine Keep.bind ?_ fun _ => ?_
    · exact Keep.mono (keep_faultCore ..) rfl
    · exact Keep.pure _ _
  · refine Keep.bind ?_ fun _ => ?_
    · refine Keep.ite ?_ ?_
      · exact Keep.pure _ _
      · refine Keep.ite ?_ ?_
        · exact Keep.pure _ _
        · refine Keep.ite ?_ ?_
          · exact Keep.mono (keep_actRecipe ..) rfl
          · exact Keep.pure _ _
    · exact Keep.pure _ _

theorem keep_prepAll (n : Nat) (x1 : List EncSpec) : Keep 0x2f288f (prepAll n x1) := by
  induction x1 with
  | nil =>
    unfold prepAll
    exact Keep.pure _ _
  | cons _ _ ih =>
    unfold prepAll
    refine Keep.bind ?_ fun _ => ?_
    · exact Keep.mono (keep_prepEncode ..) rfl
    · split
      · exact Keep.pure _ _
      · refine Keep.bind ?_ fun _ => ?_
        · exact ih
        · split
          · exact Keep.pure _ _
          · exact Keep.pure _ _

theorem keep_imgWriteLine (n : Nat) (m : Img) (l : Nat) (bs : List (Byte × Bool)) : Keep 0xc (imgWriteLine n m l bs) := by
  delta imgWriteLine
  dsimp only
  exact Keep.mono (keep_bankWrite ..) rfl

theorem keep_imgWrite (n : Nat) (m : Img) (t : TileData) : Keep 0xc (imgWrite n m t) := by
  delta imgWrite
  refine Keep.each fun _ => ?_
  dsimp only
  refine Keep.bind ?_ fun _ => ?_
  · refine Keep.each fun _ => ?_
    exact Keep.mono (keep_imgWriteLine ..) rfl
  · refine Keep.when' ?_
    exact Keep.mono (keep_imgWriteLine ..) rfl

theorem keep_addStats (n : Nat) (x1 : List OwedStat) : Keep 0x2f288f (addStats n x1) := by
  induction x1 with
  | nil =>
    unfold addStats
    exact Keep.pure _ _
  | cons _ _ ih =>
    unfold addStats
    refine Keep.bind ?_ fun _ => ?_
    · exact Keep.mono (keep_addStat ..) rfl
    · refine Keep.ite ?_ ?_
      · exact ih
      · exact Keep.pure _ _

theorem keep_drainStats (n : Nat) : Keep 0x2f288f (drainStats n) := by
  delta drainStats
  refine Keep.bind ?_ fun _ => ?_
  · exact Keep.getS _
  · dsimp only
    refine Keep.when' ?_
    refine Keep.bind ?_ fun _ => ?_
    · exact Keep.mono (keep_addStats ..) rfl
    · exact Keep.mono (keep_modCore ..) rfl

theorem keep_writeStat (n : Nat) (e : EncSpec) (new : StatRec) : Keep 0x2f288f (writeStat n e new) := by
  delta writeStat
  refine Keep.bind ?_ fun _ => ?_
  · exact Keep.getS _
  · dsimp only
    refine Keep.when' ?_
    refine Keep.bind ?_ fun _ => ?_
    · exact Keep.mono (keep_modCore ..) rfl
    · exact Keep.mono (keep_drainStats ..) rfl

theorem keep_commitEncode (n : Nat) (width : Nat) (e : EncSpec) (p : EncPrep) (rows : List (List FpP)) : Keep 0x2f288f (commitEncode n width e p rows) := by
  delta commitEncode
  refine Keep.bind ?_ fun _ => ?_
  · exact Keep.getS _
  · refine Keep.bind ?_ fun _ => ?_
    · refine Keep.when' ?_
      exact Keep.mono (keep_bump ..) rfl
    · dsimp only
      refine Keep.bind ?_ fun _ => ?_
      · exact Keep.mono (keep_imgWrite ..) rfl
      · refine Keep.bind ?_ fun _ => ?_
        · refine Keep.when' ?_
          exact Keep.mono (keep_writeStat ..) rfl
        · exact Keep.pure _ _

theorem keep_biteUpdate (n : Nat) (i : Nat) (o : Nat) (m : MuleD) (rows : List (List FpP)) : Keep 0x82 (biteUpdate n i o m rows) := by
  delta biteUpdate
  dsimp only
  split
  · refine Keep.bind ?_ fun _ => ?_
    · exact Keep.mono (keep_flag ..) rfl
    · exact Keep.mono (keep_faultCore ..) rfl
  · exact Keep.pure _ _

theorem keep_writeOuts (n : Nat) (i : Nat) (m : MuleD) (regs : List (List (List FpP))) (x1 : List (Nat × EncSpec × EncPrep)) : Keep 0x2f288f (writeOuts n i m regs x1) := by
  induction x1 with
  | nil =>
    unfold writeOuts
    exact Keep.pure _ _
  | cons _ _ ih =>
    unfold writeOuts
    dsimp only
    refine Keep.bind ?_ fun _ => ?_
    · exact Keep.mono (keep_commitEncode ..) rfl
    · refine Keep.bind ?_ fun _ => ?_
      · refine Keep.when' ?_
        exact Keep.mono (keep_biteUpdate ..) rfl
      · refine Keep.bind ?_ fun _ => ?_
        · exact ih
        · exact Keep.pure _ _

theorem keep_muleTileWork (n : Nat) (k : Nat) (i : Nat) : Keep 0x2f288f (muleTileWork n k i) := by
  delta muleTileWork
  refine Keep.bind ?_ fun _ => ?_
  · exact Keep.getS _
  · dsimp only
    refine Keep.bind ?_ fun _ => ?_
    · refine Keep.when' ?_
      exact Keep.mono (keep_abandonSpans ..) rfl
    · refine Keep.bind ?_ fun _ => ?_
      · exact Keep.getS _
      · split
        · refine Keep.bind ?_ fun _ => ?_
          · exact Keep.mono (keep_stationFault ..) rfl
          · exact Keep.pure _ _
        · split
          · refine Keep.bind ?_ fun _ => ?_
            · exact Keep.mono (keep_setFld ..) rfl
            · refine Keep.bind ?_ fun _ => ?_
              · exact Keep.mono (keep_muleFault ..) rfl
              · exact Keep.pure _ _
          · refine Keep.ite ?_ ?_
            · refine Keep.bind ?_ fun _ => ?_
              · exact Keep.mono (keep_modCore ..) rfl
              · refine Keep.bind ?_ fun _ => ?_
                · exact Keep.mono (keep_bump ..) rfl
                · refine Keep.bind ?_ fun _ => ?_
                  · exact Keep.mono (keep_setFld ..) rfl
                  · exact Keep.pure _ _
            · refine Keep.ite ?_ ?_
              · exact Keep.pure _ _
              · split
                · refine Keep.bind ?_ fun _ => ?_
                  · exact Keep.mono (keep_imgFault ..) rfl
                  · exact Keep.pure _ _
                · refine Keep.bind ?_ fun _ => ?_
                  · exact Keep.mono (keep_setFld ..) rfl
                  · exact Keep.mono (keep_imgHold ..) rfl
                · refine Keep.bind ?_ fun _ => ?_
                  · exact Keep.mono (keep_prepAll ..) rfl
                  · split
                    · exact Keep.pure _ _
                    · refine Keep.bind ?_ fun _ => ?_
                      · exact Keep.mono (keep_writeOuts ..) rfl
                      · refine Keep.bind ?_ fun _ => ?_
                        · exact Keep.mono (keep_modCore ..) rfl
                        · refine Keep.bind ?_ fun _ => ?_
                          · exact Keep.mono (keep_setFld ..) rfl
                          · refine Keep.bind ?_ fun _ => ?_
                            · exact Keep.mono (keep_setFld ..) rfl
                            · refine Keep.bind ?_ fun _ => ?_
                              · exact Keep.mono (keep_bumpBy ..) rfl
                              · refine Keep.bind ?_ fun _ => ?_
                                · exact Keep.mono (keep_bumpBy ..) rfl
                                · refine Keep.bind ?_ fun _ => ?_
                                  · exact Keep.mono (keep_bumpBy ..) rfl
                                  · refine Keep.bind ?_ fun _ => ?_
                                    · exact Keep.mono (keep_bumpBy ..) rfl
                                    · exact Keep.pure _ _

theorem keep_reduceWork (n : Nat) (k : Nat) (i : Nat) : Keep 0x88e (reduceWork n k i) := by
  delta reduceWork
  refine Keep.bind ?_ fun _ => ?_
  · exact Keep.getS _
  · dsimp only
    split
    · exact Keep.pure _ _
    · split
      · refine Keep.bind ?_ fun _ => ?_
        · exact Keep.mono (keep_stationFault ..) rfl
        · exact Keep.pure _ _
      · split
        · refine Keep.bind ?_ fun _ => ?_
          · exact Keep.mono (keep_imgFault ..) rfl
          · exact Keep.pure _ _
        · exact Keep.mono (keep_imgHold ..) rfl
        · refine Keep.bind ?_ fun _ => ?_
          · refine Keep.each fun _ => ?_
            exact Keep.mono (keep_imgWrite ..) rfl
          · refine Keep.bind ?_ fun _ => ?_
            · exact Keep.mono (keep_modCore ..) rfl
            · exact Keep.pure _ _

theorem keep_keyBytes (c : Nat) : Keep 0x1 (keyBytes c) := by
  delta keyBytes
  refine Keep.bind ?_ fun _ => ?_
  · exact Keep.getS _
  · split
    · exact Keep.pure _ _
    · exact Keep.mono (keep_freeBytes ..) rfl

theorem keep_loadLine (v : LoadVia) (va : Nat) : Keep 0x2f280f (loadLine v va) := by
  delta loadLine
  refine Keep.bind ?_ fun _ => ?_
  · exact Keep.getS _
  · dsimp only
    refine Keep.ite ?_ ?_
    · exact Keep.pure _ _
    · refine Keep.bind ?_ fun _ => ?_
      · exact Keep.mono (keep_ctxLine ..) rfl
      · split
        · split
          · refine Keep.ite ?_ ?_
            · exact Keep.pure _ _
            · refine Keep.bind ?_ fun _ => ?_
              · exact Keep.mono (keep_keyBytes ..) rfl
              · exact Keep.pure _ _
          · exact Keep.pure _ _
        · refine Keep.ite ?_ ?_
          · exact Keep.pure _ _
          · refine Keep.ite ?_ ?_
            · refine Keep.bind ?_ fun _ => ?_
              · exact Keep.mono (keep_translate ..) rfl
              · split
                · refine Keep.ite ?_ ?_
                  · exact Keep.pure _ _
                  · refine Keep.ite ?_ ?_
                    · refine Keep.bind ?_ fun _ => ?_
                      · exact Keep.mono (keep_bump ..) rfl
                      · exact Keep.pure _ _
                    · exact Keep.pure _ _
                · exact Keep.pure _ _
            · exact Keep.pure _ _
        · refine Keep.ite ?_ ?_
          · refine Keep.bind ?_ fun _ => ?_
            · exact Keep.mono (keep_freeBytes ..) rfl
            · exact Keep.pure _ _
          · exact Keep.pure _ _
        · exact Keep.pure _ _

theorem keep_loadPieces (v : LoadVia) (x1 : List (Nat × Nat)) : Keep 0x2f280f (loadPieces v x1) := by
  induction x1 with
  | nil =>
    unfold loadPieces
    exact Keep.pure _ _
  | cons _ _ ih =>
    unfold loadPieces
    refine Keep.bind ?_ fun _ => ?_
    · exact Keep.mono (keep_loadLine ..) rfl
    · split
      · exact Keep.pure _ _
      · refine Keep.bind ?_ fun _ => ?_
        · exact ih
        · split
          · exact Keep.pure _ _
          · exact Keep.pure _ _

theorem keep_loadBytes (v : LoadVia) (va : Nat) (n : Nat) : Keep 0x2f280f (loadBytes v va n) := by
  delta loadBytes
  exact Keep.mono (keep_loadPieces ..) rfl

theorem keep_loadRuns (v : LoadVia) (x1 : List (Nat × Nat)) : Keep 0x2f280f (loadRuns v x1) := by
  induction x1 with
  | nil =>
    unfold loadRuns
    exact Keep.pure _ _
  | cons _ _ ih =>
    unfold loadRuns
    refine Keep.bind ?_ fun _ => ?_
    · exact Keep.mono (keep_loadBytes ..) rfl
    · split
      · exact Keep.pure _ _
      · refine Keep.bind ?_ fun _ => ?_
        · exact ih
        · split
          · exact Keep.pure _ _
          · exact Keep.pure _ _

theorem keep_openRecomp (n : Nat) (c : Nat) (va : Nat) (pa : Nat) : Keep 0x201002 (openRecomp n c va pa) := by
  delta openRecomp
  refine Keep.bind ?_ fun _ => ?_
  · exact Keep.getS _
  · dsimp only
    split
    · exact Keep.pure _ _
    · refine Keep.bind ?_ fun _ => ?_
      · exact Keep.mono (keep_modCtx ..) rfl
      · refine Keep.bind ?_ fun _ => ?_
        · exact Keep.mono (keep_bump ..) rfl
        · refine Keep.bind ?_ fun _ => ?_
          · exact Keep.mono (keep_note ..) rfl
          · exact Keep.pure _ _

theorem keep_loadStopped (n : Nat) (v : LoadVia) (w : LoadStop) : Keep 0x201082 (loadStopped n v w) := by
  delta loadStopped
  split
  · exact Keep.mono (keep_stopRes ..) rfl
  · refine Keep.bind ?_ fun _ => ?_
    · exact Keep.mono (keep_faultCore ..) rfl
    · exact Keep.pure _ _
  · refine Keep.bind ?_ fun _ => ?_
    · exact Keep.mono (keep_faultCore ..) rfl
    · exact Keep.pure _ _
  · refine Keep.bind ?_ fun _ => ?_
    · exact Keep.mono (keep_openRecomp ..) rfl
    · exact Keep.pure _ _

theorem keep_loadTileWork (n : Nat) (k : Nat) (i : Nat) (noRecomp : Bool) (again : Bool) : Keep 0x2f388f (loadTileWork n k i noRecomp again) := by
  delta loadTileWork
  refine Keep.bind ?_ fun _ => ?_
  · exact Keep.getS _
  · dsimp only
    split
    · refine Keep.bind ?_ fun _ => ?_
      · exact Keep.mono (keep_imgFault ..) rfl
      · exact Keep.pure _ _
    · exact Keep.mono (keep_imgHold ..) rfl
    · refine Keep.bind ?_ fun _ => ?_
      · exact Keep.mono (keep_loadRuns ..) rfl
      · split
        · exact Keep.mono (keep_loadStopped ..) rfl
        · refine Keep.bind ?_ fun _ => ?_
          · exact Keep.mono (keep_loadRuns ..) rfl
          · split
            · exact Keep.mono (keep_loadStopped ..) rfl
            · refine Keep.bind ?_ fun _ => ?_
              · exact Keep.mono (keep_imgWrite ..) rfl
              · exact Keep.pure _ _

theorem keep_yokeTileWork (n : Nat) (k : Nat) (i : Nat) : Keep 0x882 (yokeTileWork n k i) := by
  delta yokeTileWork
  refine Keep.bind ?_ fun _ => ?_
  · exact Keep.getS _
  · dsimp only
    split
    · refine Keep.bind ?_ fun _ => ?_
      · exact Keep.mono (keep_imgFault ..) rfl
      · exact Keep.pure _ _
    · exact Keep.mono (keep_imgHold ..) rfl
    · refine Keep.ite ?_ ?_
      · refine Keep.bind ?_ fun _ => ?_
        · exact Keep.mono (keep_modCore ..) rfl
        · refine Keep.bind ?_ fun _ => ?_
          · exact Keep.mono (keep_modStream ..) rfl
          · exact Keep.pure _ _
      · refine Keep.bind ?_ fun _ => ?_
        · exact Keep.mono (keep_modStream ..) rfl
        · exact Keep.pure _ _

theorem keep_pushPass (o : Nat) (d : PassD) : Keep 0x402 (pushPass o d) := by
  delta pushPass
  refine Keep.bind ?_ fun _ => ?_
  · exact Keep.getS _
  · refine Keep.ite ?_ ?_
    · exact Keep.mono (keep_flag ..) rfl
    · exact Keep.mono (keep_modOx ..) rfl

theorem keep_oxTileWork (n : Nat) (k : Nat) (i : Nat) : Keep 0x402 (oxTileWork n k i) := by
  delta oxTileWork
  refine Keep.bind ?_ fun _ => ?_
  · exact Keep.getS _
  · dsimp only
    refine Keep.ite ?_ ?_
    · exact Keep.pure _ _
    · refine Keep.bind ?_ fun _ => ?_
      · refine Keep.each fun _ => ?_
        exact Keep.mono (keep_pushPass ..) rfl
      · exact Keep.pure _ _

theorem keep_commitAll (n : Nat) (width : Nat) (rows : List (List FpP)) (x1 : List (EncSpec × EncPrep)) : Keep 0x2f288f (commitAll n width rows x1) := by
  induction x1 with
  | nil =>
    unfold commitAll
    exact Keep.pure _ _
  | cons _ _ ih =>
    unfold commitAll
    refine Keep.bind ?_ fun _ => ?_
    · exact Keep.mono (keep_commitEncode ..) rfl
    · exact ih

theorem keep_drainTileWork (n : Nat) (k : Nat) (i : Nat) : Keep 0x2f288f (drainTileWork n k i) := by
  delta drainTileWork
  refine Keep.bind ?_ fun _ => ?_
  · exact Keep.getS _
  · dsimp only
    refine Keep.ite ?_ ?_
    · exact Keep.pure _ _
    · split
      · refine Keep.bind ?_ fun _ => ?_
        · exact Keep.mono (keep_imgFault ..) rfl
        · exact Keep.pure _ _
      · exact Keep.mono (keep_imgHold ..) rfl
      · refine Keep.bind ?_ fun _ => ?_
        · exact Keep.mono (keep_prepAll ..) rfl
        · split
          · exact Keep.pure _ _
          · refine Keep.bind ?_ fun _ => ?_
            · exact Keep.mono (keep_commitAll ..) rfl
            · exact Keep.pure _ _

theorem keep_ctxWriteBits (a : CtxAcc) (x1 : List (Nat × Nat)) (x2 : Nat) (x3 : Nat) (x4 : List Bool) : Keep 0xf280f (ctxWriteBits a x1 x2 x3 x4) := by
  induction x1 generalizing x2 x3 x4 with
  | nil =>
    unfold ctxWriteBits
    exact Keep.pure _ _
  | cons _ _ ih =>
    unfold ctxWriteBits
    refine Keep.bind ?_ fun _ => ?_
    · exact Keep.mono (keep_translate ..) rfl
    · split
      · exact Keep.pure _ _
      · refine Keep.bind ?_ fun _ => ?_
        · exact Keep.mono (keep_dirWalk ..) rfl
        · split
          · exact Keep.pure _ _
          · dsimp only
            refine Keep.bind ?_ fun _ => ?_
            · exact Keep.mono (keep_writeLine ..) rfl
            · split
              · exact ih ..
              · exact Keep.pure _ _
              · exact Keep.pure _ _
              · exact Keep.pure _ _

theorem keep_ctxPutBits (a : CtxAcc) (bitPos : Nat) (w : Nat) (data : Nat) (ps : List Bool) : Keep 0xf280f (ctxPutBits a bitPos w data ps) := by
  delta ctxPutBits
  dsimp only
  exact Keep.mono (keep_ctxWriteBits ..) rfl

theorem keep_putRuns (a : CtxAcc) (x1 : List PutRun) : Keep 0xf280f (putRuns a x1) := by
  induction x1 with
  | nil =>
    unfold putRuns
    exact Keep.pure _ _
  | cons _ _ ih =>
    unfold putRuns
    refine Keep.bind ?_ fun _ => ?_
    · exact Keep.mono (keep_ctxPutBits ..) rfl
    · split
      · exact Keep.pure _ _
      · exact ih

theorem keep_storeTileWork (n : Nat) (k : Nat) (i : Nat) : Keep 0xf288f (storeTileWork n k i) := by
  delta storeTileWork
  refine Keep.bind ?_ fun _ => ?_
  · exact Keep.getS _
  · dsimp only
    split
    · refine Keep.bind ?_ fun _ => ?_
      · exact Keep.mono (keep_imgFault ..) rfl
      · exact Keep.pure _ _
    · exact Keep.mono (keep_imgHold ..) rfl
    · split
      · refine Keep.bind ?_ fun _ => ?_
        · exact Keep.mono (keep_faultCore ..) rfl
        · exact Keep.pure _ _
      · refine Keep.bind ?_ fun _ => ?_
        · exact Keep.mono (keep_putRuns ..) rfl
        · split
          · exact Keep.mono (keep_stopRes ..) rfl
          · exact Keep.pure _ _

theorem keep_modOffer (n : Nat) (k : Nat) (i : Nat) (f : Offer → Offer) : Keep 0x1000000 (modOffer n k i f) := by
  delta modOffer
  exact Keep.mono (keep_modFab ..) rfl

theorem keep_unroutable (port : Nat) : Keep 0x2 (unroutable port) := by
  delta unroutable
  exact Keep.mono (keep_bump ..) rfl

theorem keep_transmit (port : Nat) (p : Packet) : Keep 0x810002 (transmit port p) := by
  delta transmit
  refine Keep.bind ?_ fun _ => ?_
  · exact Keep.getS _
  · dsimp only
    refine Keep.bind ?_ fun _ => ?_
    · exact Keep.mono (keep_bumpBy ..) rfl
    · refine Keep.bind ?_ fun _ => ?_
      · exact Keep.mono (keep_modPort ..) rfl
      · exact Keep.mono (keep_emit ..) rfl

theorem keep_sendMany (port : Nat) (x1 : List Packet) : Keep 0x810002 (sendMany port x1) := by
  induction x1 with
  | nil =>
    unfold sendMany
    exact Keep.mono (keep_modPort ..) rfl
  | cons _ _ ih =>
    unfold sendMany
    refine Keep.bind ?_ fun _ => ?_
    · exact Keep.getS _
    · refine Keep.ite ?_ ?_
      · refine Keep.bind ?_ fun _ => ?_
        · exact Keep.mono (keep_transmit ..) rfl
        · exact ih
      · exact Keep.mono (keep_modPort ..) rfl

theorem keep_pumpPort (port : Nat) : Keep 0x810002 (pumpPort port) := by
  delta pumpPort
  refine Keep.bind ?_ fun _ => ?_
  · exact Keep.getS _
  · dsimp only
    refine Keep.ite ?_ ?_
    · exact Keep.mono (keep_sendMany ..) rfl
    · exact Keep.pure _ _

theorem keep_enqueue (port : Nat) (p : Packet) : Keep 0x810002 (enqueue port p) := by
  delta enqueue
  refine Keep.bind ?_ fun _ => ?_
  · exact Keep.mono (keep_modPort ..) rfl
  · exact Keep.mono (keep_pumpPort ..) rfl

theorem keep_sendOut (inPort : Nat) (out : Nat) (p : Packet) : Keep 0x810002 (sendOut inPort out p) := by
  delta sendOut
  refine Keep.bind ?_ fun _ => ?_
  · exact Keep.getS _
  · dsimp only
    refine Keep.ite ?_ ?_
    · exact Keep.mono (keep_unroutable ..) rfl
    · exact Keep.mono (keep_enqueue ..) rfl

theorem keep_routePacket (inPort : Nat) (p : Packet) : Keep 0x810002 (routePacket inPort p) := by
  delta routePacket
  refine Keep.bind ?_ fun _ => ?_
  · exact Keep.getS _
  · refine Keep.ite ?_ ?_
    · dsimp only
      refine Keep.ite ?_ ?_
      · refine Keep.bind ?_ fun _ => ?_
        · exact Keep.mono (keep_unroutable ..) rfl
        · exact Keep.pure _ _
      · refine Keep.bind ?_ fun _ => ?_
        · refine Keep.each fun _ => ?_
          exact Keep.mono (keep_sendOut ..) rfl
        · exact Keep.pure _ _
    · refine Keep.ite ?_ ?_
      · exact Keep.pure _ _
      · dsimp only
        refine Keep.ite ?_ ?_
        · refine Keep.bind ?_ fun _ => ?_
          · exact Keep.mono (keep_unroutable ..) rfl
          · exact Keep.pure _ _
        · refine Keep.bind ?_ fun _ => ?_
          · exact Keep.mono (keep_sendOut ..) rfl
          · exact Keep.pure _ _

theorem keep_inject (p : Packet) : Keep 0x1810002 (inject p) := by
  delta inject
  refine Keep.bind ?_ fun _ => ?_
  · exact Keep.getS _
  · refine Keep.ite ?_ ?_
    · refine Keep.bind ?_ fun _ => ?_
      · exact Keep.mono (keep_routePacket ..) rfl
      · refine Keep.ite ?_ ?_
        · exact Keep.mono (keep_modFab ..) rfl
        · exact Keep.pure _ _
    · exact Keep.pure _ _

theorem keep_sendRts (n : Nat) (k : Nat) (i : Nat) : Keep 0x1810002 (sendRts n k i) := by
  delta sendRts
  refine Keep.bind ?_ fun _ => ?_
  · exact Keep.getS _
  · dsimp only
    refine Keep.bind ?_ fun _ => ?_
    · exact Keep.mono (keep_modOffer ..) rfl
    · exact Keep.mono (keep_inject ..) rfl

theorem keep_dropOffer (n : Nat) (k : Nat) (i : Nat) : Keep 0x1000000 (dropOffer n k i) := by
  delta dropOffer
  exact Keep.mono (keep_modFab ..) rfl

theorem keep_sendImage (o : Offer) : Keep 0x1810882 (sendImage o) := by
  delta sendImage
  refine Keep.bind ?_ fun _ => ?_
  · exact Keep.getS _
  · dsimp only
    split
    · refine Keep.bind ?_ fun _ => ?_
      · exact Keep.mono (keep_imgFault ..) rfl
      · exact Keep.mono (keep_dropOffer ..) rfl
    · exact Keep.mono (keep_bankHold ..) rfl
    · refine Keep.bind ?_ fun _ => ?_
      · exact Keep.mono (keep_bankFree ..) rfl
      · refine Keep.ite ?_ ?_
        · refine Keep.bind ?_ fun _ => ?_
          · exact Keep.mono (keep_faultCore ..) rfl
          · exact Keep.mono (keep_dropOffer ..) rfl
        · refine Keep.bind ?_ fun _ => ?_
          · exact Keep.mono (keep_modOffer ..) rfl
          · refine Keep.bind ?_ fun _ => ?_
            · refine Keep.each fun _ => ?_
              exact Keep.mono (keep_inject ..) rfl
            · refine Keep.when' ?_
              exact Keep.mono (keep_dropOffer ..) rfl

theorem keep_offerTile (n : Nat) (k : Nat) (i : Nat) : Keep 0x1810882 (offerTile n k i) := by
  delta offerTile
  refine Keep.bind ?_ fun _ => ?_
  · exact Keep.getS _
  · refine Keep.ite ?_ ?_
    · exact Keep.pure _ _
    · refine Keep.bind ?_ fun _ => ?_
      · exact Keep.mono (keep_modFab ..) rfl
      · refine Keep.bind ?_ fun _ => ?_
        · exact Keep.mono (keep_sendRts ..) rfl
        · dsimp only
          refine Keep.ite ?_ ?_
          · refine Keep.bind ?_ fun _ => ?_
            · exact Keep.getS _
            · split
              · refine Keep.bind ?_ fun _ => ?_
                · exact Keep.mono (keep_sendImage ..) rfl
                · exact Keep.pure _ _
              · exact Keep.pure _ _
          · exact Keep.pure _ _

theorem keep_modRecv (n : Nat) (k : Nat) (i : Nat) (f : RecvIm → RecvIm) : Keep 0x1000000 (modRecv n k i f) := by
  delta modRecv
  exact Keep.mono (keep_modFab ..) rfl

theorem keep_grantTile (r : RecvIm) (e : RtsEnt) : Keep 0x1810002 (grantTile r e) := by
  delta grantTile
  refine Keep.bind ?_ fun _ => ?_
  · exact Keep.getS _
  · refine Keep.bind ?_ fun _ => ?_
    · exact Keep.mono (keep_modRecv ..) rfl
    · exact Keep.mono (keep_inject ..) rfl

theorem keep_recvTile (n : Nat) (k : Nat) (i : Nat) : Keep 0x1810002 (recvTile n k i) := by
  delta recvTile
  refine Keep.bind ?_ fun _ => ?_
  · exact Keep.getS _
  · dsimp only
    refine Keep.bind ?_ fun _ => ?_
    · exact Keep.mono (keep_modFab ..) rfl
    · split
      · refine Keep.bind ?_ fun _ => ?_
        · exact Keep.mono (keep_modFab ..) rfl
        · refine Keep.bind ?_ fun _ => ?_
          · exact Keep.mono (keep_grantTile ..) rfl
          · exact Keep.pure _ _
      · exact Keep.pure _ _

theorem keep_collieTileWork (n : Nat) (k : Nat) (i : Nat) : Keep 0x10800 (collieTileWork n k i) := by
  delta collieTileWork
  refine Keep.bind ?_ fun _ => ?_
  · exact Keep.getS _
  · dsimp only
    refine Keep.ite ?_ ?_
    · exact Keep.pure _ _
    · refine Keep.bind ?_ fun _ => ?_
      · exact Keep.mono (keep_modHand ..) rfl
      · refine Keep.bind ?_ fun _ => ?_
        · exact Keep.mono (keep_emit ..) rfl
        · exact Keep.pure _ _

theorem keep_tileWork (n : Nat) (k : Nat) (i : Nat) (noRecomp : Bool) (again : Bool) : Keep 0x1af3c8f (tileWork n k i noRecomp again) := by
  delta tileWork
  refine Keep.bind ?_ fun _ => ?_
  · exact Keep.getS _
  · dsimp only
    refine Keep.ite ?_ ?_
    · exact Keep.mono (keep_muleTileWork ..) rfl
    · refine Keep.ite ?_ ?_
      · exact Keep.mono (keep_reduceWork ..) rfl
      · split
        · refine Keep.bind ?_ fun _ => ?_
          · exact Keep.mono (keep_stationFault ..) rfl
          · exact Keep.pure _ _
        · refine Keep.ite ?_ ?_
          · exact Keep.mono (keep_loadTileWork ..) rfl
          · refine Keep.ite ?_ ?_
            · exact Keep.mono (keep_yokeTileWork ..) rfl
            · refine Keep.ite ?_ ?_
              · exact Keep.mono (keep_oxTileWork ..) rfl
              · refine Keep.ite ?_ ?_
                · exact Keep.mono (keep_drainTileWork ..) rfl
                · refine Keep.ite ?_ ?_
                  · exact Keep.mono (keep_storeTileWork ..) rfl
                  · refine Keep.ite ?_ ?_
                    · exact Keep.mono (keep_offerTile ..) rfl
                    · refine Keep.ite ?_ ?_
                      · exact Keep.mono (keep_recvTile ..) rfl
                      · refine Keep.ite ?_ ?_
                        · exact Keep.mono (keep_collieTileWork ..) rfl
                        · refine Keep.ite ?_ ?_
                          · exact Keep.pure _ _
                          · exact Keep.pure _ _

theorem keep_tryTile (n : Nat) (k : Nat) (i : Nat) (noRecomp : Bool) (again : Bool) : Keep 0x1af3c8f (tryTile n k i noRecomp again) := by
  delta tryTile
  refine Keep.bind ?_ fun _ => ?_
  · exact Keep.mono (keep_tileWork ..) rfl
  · refine Keep.bind ?_ fun _ => ?_
    · exact Keep.mono (keep_noteTile ..) rfl
    · exact Keep.pure _ _

theorem keep_startTile (n : Nat) (k : Nat) (reread : Bool) : Keep 0x1af3c8f (startTile n k reread) := by
  delta startTile
  refine Keep.bind ?_ fun _ => ?_
  · exact Keep.getS _
  · dsimp only
    refine Keep.ite ?_ ?_
    · split
      · refine Keep.ite ?_ ?_
        · exact Keep.pure _ _
        · exact Keep.mono (keep_tryTile ..) rfl
      · refine Keep.ite ?_ ?_
        · refine Keep.bind ?_ fun _ => ?_
          · exact Keep.mono (keep_bump ..) rfl
          · exact Keep.pure _ _
        · refine Keep.ite ?_ ?_
          · refine Keep.bind ?_ fun _ => ?_
            · exact Keep.mono (keep_bump ..) rfl
            · exact Keep.pure _ _
          · exact Keep.mono (keep_tryTile ..) rfl
    · exact Keep.pure _ _

theorem keep_readLoadReq (n : Nat) (k : Nat) (va : Nat) : Keep 0x2f388f (readLoadReq n k va) := by
  delta readLoadReq
  refine Keep.bind ?_ fun _ => ?_
  · exact Keep.getS _
  · dsimp only
    refine Keep.ite ?_ ?_
    · refine Keep.bind ?_ fun _ => ?_
      · exact Keep.mono (keep_loadRuns ..) rfl
      · split
        · refine Keep.bind ?_ fun _ => ?_
          · exact Keep.mono (keep_loadStopped ..) rfl
          · exact Keep.mono (keep_noteTile ..) rfl
        · exact Keep.mono (keep_emit ..) rfl
    · exact Keep.pure _ _

theorem keep_dieOnly {k : Nat} {m : M Unit} (who : Who) (h : Keep k m) : Keep k (dieOnly who m) := Keep.when' h

theorem keep_requestReset (domain : Nat) (unit : Nat) : Keep 0x80 (requestReset domain unit) := by
  delta requestReset
  refine Keep.bind ?_ fun _ => ?_
  · exact Keep.getS _
  · exact Keep.mono (keep_latch ..) rfl

theorem keep_eraseKey (c : Nat) : Keep 0x1000 (eraseKey c) := by
  delta eraseKey
  exact Keep.mono (keep_modCtx ..) rfl

theorem keep_keyErase (who : Who) (c : Nat) : Keep 0x1002 (keyErase who c) := by
  delta keyErase
  refine Keep.ite ?_ ?_
  · refine Keep.bind ?_ fun _ => ?_
    · exact Keep.mono (keep_setFld ..) rfl
    · exact Keep.mono (keep_eraseKey ..) rfl
  · exact Keep.pure _ _

theorem keep_keyInstall (who : Who) (c : Nat) : Keep 0xf300f (keyInstall who c) := by
  delta keyInstall
  refine Keep.ite ?_ ?_
  · refine Keep.bind ?_ fun _ => ?_
    · exact Keep.mono (keep_setFld ..) rfl
    · refine Keep.bind ?_ fun _ => ?_
      · exact Keep.getS _
      · refine Keep.ite ?_ ?_
        · exact Keep.mono (keep_setFld ..) rfl
        · refine Keep.ite ?_ ?_
          · exact Keep.mono (keep_setFld ..) rfl
          · refine Keep.bind ?_ fun _ => ?_
            · exact Keep.mono (keep_readPhys ..) rfl
            · split
              · exact Keep.mono (keep_setFld ..) rfl
              · split
                · refine Keep.bind ?_ fun _ => ?_
                  · exact Keep.mono (keep_modCtx ..) rfl
                  · exact Keep.mono (keep_setFld ..) rfl
                · exact Keep.mono (keep_setFld ..) rfl
  · exact Keep.pure _ _

theorem keep_verifyQueue (who : Who) (c : Nat) (e : Nat) : Keep 0x2000002 (verifyQueue who c e) := by
  delta verifyQueue
  refine Keep.ite ?_ ?_
  · refine Keep.bind ?_ fun _ => ?_
    · exact Keep.getS _
    · refine Keep.ite ?_ ?_
      · exact Keep.mono (keep_flag ..) rfl
      · refine Keep.bind ?_ fun _ => ?_
        · exact Keep.mono (keep_setReg ..) rfl
        · refine Keep.bind ?_ fun _ => ?_
          · exact Keep.mono (keep_modSec ..) rfl
          · exact Keep.mono (keep_setFld ..) rfl
  · exact Keep.pure _ _

theorem keep_writeSec (who : Who) (d : RegDef) (a : Nat) (v : Nat) : Keep 0x20f300f (writeSec who d a v) := by
  delta writeSec
  refine Keep.ite ?_ ?_
  · refine Keep.bind ?_ fun _ => ?_
    · exact Keep.mono (keep_setReg ..) rfl
    · refine Keep.bind ?_ fun _ => ?_
      · refine Keep.when' ?_
        exact Keep.mono (keep_keyErase ..) rfl
      · refine Keep.when' ?_
        exact Keep.mono (keep_keyInstall ..) rfl
  · refine Keep.ite ?_ ?_
    · exact Keep.mono (keep_verifyQueue ..) rfl
    · exact Keep.mono (keep_plainWrite ..) rfl

theorem keep_wagonEnable  : Keep 0x40002 (wagonEnable ) := by
  delta wagonEnable
  refine Keep.bind ?_ fun _ => ?_
  · exact Keep.getS _
  · refine Keep.ite ?_ ?_
    · refine Keep.bind ?_ fun _ => ?_
      · exact Keep.mono (keep_modWagon ..) rfl
      · refine Keep.bind ?_ fun _ => ?_
        · exact Keep.mono (keep_setFld ..) rfl
        · refine Keep.bind ?_ fun _ => ?_
          · exact Keep.mono (keep_setFld ..) rfl
          · refine Keep.bind ?_ fun _ => ?_
            · exact Keep.mono (keep_setFld ..) rfl
            · refine Keep.bind ?_ fun _ => ?_
              · exact Keep.getS _
              · refine Keep.bind ?_ fun _ => ?_
                · exact Keep.mono (keep_modWagon ..) rfl
                · exact Keep.mono (keep_capUpdate ..) rfl
    · exact Keep.mono (keep_setFld ..) rfl

theorem keep_wagonDisable  : Keep 0x2 (wagonDisable ) := by
  delta wagonDisable
  refine Keep.bind ?_ fun _ => ?_
  · exact Keep.mono (keep_setFld ..) rfl
  · refine Keep.bind ?_ fun _ => ?_
    · exact Keep.getS _
    · refine Keep.when' ?_
      exact Keep.mono (keep_setFld ..) rfl

theorem keep_deepCheck  : Keep 0x2 (deepCheck ) := by
  delta deepCheck
  refine Keep.bind ?_ fun _ => ?_
  · exact Keep.getS _
  · refine Keep.when' ?_
    exact Keep.mono (keep_flag ..) rfl

theorem keep_hintDrop (n : Nat) : Keep 0x2 (hintDrop n) := by
  delta hintDrop
  refine Keep.bind ?_ fun _ => ?_
  · refine Keep.when' ?_
    exact Keep.mono (keep_flag ..) rfl
  · exact Keep.mono (keep_bumpBy ..) rfl

theorem keep_hintWrite (who : Who) (op : Nat) (page : Nat) (count : Nat) : Keep 0x40002 (hintWrite who op page count) := by
  delta hintWrite
  refine Keep.bind ?_ fun _ => ?_
  · exact Keep.getS _
  · dsimp only
    refine Keep.bind ?_ fun _ => ?_
    · refine Keep.when' ?_
      exact Keep.mono (keep_setReg ..) rfl
    · refine Keep.ite ?_ ?_
      · exact Keep.pure _ _
      · refine Keep.ite ?_ ?_
        · exact Keep.mono (keep_bump ..) rfl
        · refine Keep.ite ?_ ?_
          · exact Keep.mono (keep_hintDrop ..) rfl
          · split
            · exact Keep.mono (keep_modWagon ..) rfl
            · split
              · exact Keep.mono (keep_modWagon ..) rfl
              · exact Keep.mono (keep_hintDrop ..) rfl

theorem keep_rsrcDoneWrite (page : Nat) : Keep 0x82 (rsrcDoneWrite page) := by
  delta rsrcDoneWrite
  dsimp only
  refine Keep.bind ?_ fun _ => ?_
  · exact Keep.mono (keep_setReg ..) rfl
  · exact Keep.mono (keep_latch ..) rfl

theorem keep_writeWagon (who : Who) (d : RegDef) (a : Nat) (v : Nat) : Keep 0x40082 (writeWagon who d a v) := by
  delta writeWagon
  refine Keep.bind ?_ fun _ => ?_
  · exact Keep.getS _
  · dsimp only
    refine Keep.ite ?_ ?_
    · refine Keep.bind ?_ fun _ => ?_
      · refine Keep.when' ?_
        exact Keep.mono (keep_setFld ..) rfl
      · refine Keep.ite ?_ ?_
        · exact Keep.mono (keep_wagonEnable ..) rfl
        · exact Keep.mono (keep_wagonDisable ..) rfl
    · refine Keep.ite ?_ ?_
      · refine Keep.ite ?_ ?_
        · refine Keep.bind ?_ fun _ => ?_
          · exact Keep.mono (keep_plainWrite ..) rfl
          · refine Keep.bind ?_ fun _ => ?_
            · exact Keep.mono (keep_deepCheck ..) rfl
            · exact Keep.mono (keep_capUpdate ..) rfl
        · exact Keep.mono (keep_flag ..) rfl
      · refine Keep.ite ?_ ?_
        · refine Keep.when' ?_
          exact Keep.mono (keep_plainWrite ..) rfl
        · refine Keep.ite ?_ ?_
          · refine Keep.when' ?_
            exact Keep.mono (keep_plainWrite ..) rfl
          · refine Keep.ite ?_ ?_
            · exact Keep.mono (keep_hintWrite ..) rfl
            · refine Keep.ite ?_ ?_
              · exact Keep.mono (keep_rsrcDoneWrite ..) rfl
              · exact Keep.mono (keep_plainWrite ..) rfl

theorem keep_cmdWrite (c : Nat) (data : Nat) : Keep 0x2 (cmdWrite c data) := by
  delta cmdWrite
  refine Keep.bind ?_ fun _ => ?_
  · exact Keep.mono (keep_setReg ..) rfl
  · exact Keep.mono (keep_setFld ..) rfl

theorem keep_penWrite (c : Nat) (k : Nat) (data : Nat) : Keep 0x2 (penWrite c k data) := by
  delta penWrite
  refine Keep.bind ?_ fun _ => ?_
  · exact Keep.getS _
  · dsimp only
    refine Keep.ite ?_ ?_
    · exact Keep.mono (keep_flag ..) rfl
    · exact Keep.mono (keep_setReg ..) rfl

theorem keep_recompAckWrite (c : Nat) (q : Nat) : Keep 0x82 (recompAckWrite c q) := by
  delta recompAckWrite
  refine Keep.bind ?_ fun _ => ?_
  · exact Keep.mono (keep_setReg ..) rfl
  · exact Keep.mono (keep_latch ..) rfl

theorem keep_gslotWrite (who : Who) (c : Nat) (k : Nat) (op : Nat) : Keep 0x2 (gslotWrite who c k op) := by
  delta gslotWrite
  refine Keep.ite ?_ ?_
  · refine Keep.bind ?_ fun _ => ?_
    · exact Keep.getS _
    · dsimp only
      refine Keep.ite ?_ ?_
      · refine Keep.when' ?_
        exact Keep.mono (keep_setFld ..) rfl
      · refine Keep.ite ?_ ?_
        · refine Keep.when' ?_
          exact Keep.mono (keep_setFld ..) rfl
        · refine Keep.when' ?_
          exact Keep.mono (keep_setFld ..) rfl
  · exact Keep.pure _ _

theorem keep_jobFaultWrite (who : Who) (c : Nat) (origin : Nat) : Keep 0x82 (jobFaultWrite who c origin) := by
  delta jobFaultWrite
  refine Keep.ite ?_ ?_
  · refine Keep.bind ?_ fun _ => ?_
    · exact Keep.mono (keep_setFld ..) rfl
    · exact Keep.mono (keep_latch ..) rfl
  · exact Keep.pure _ _

theorem keep_writeCtx (who : Who) (c : Nat) (d : RegDef) (a : Nat) (v : Nat) : Keep 0x1082 (writeCtx who c d a v) := by
  delta writeCtx
  refine Keep.bind ?_ fun _ => ?_
  · exact Keep.getS _
  · dsimp only
    refine Keep.ite ?_ ?_
    · exact Keep.mono (keep_cmdWrite ..) rfl
    · refine Keep.ite ?_ ?_
      · exact Keep.mono (keep_coresWrite ..) rfl
      · refine Keep.ite ?_ ?_
        · exact Keep.mono (keep_coresWrite ..) rfl
        · refine Keep.ite ?_ ?_
          · exact Keep.mono (keep_coresWrite ..) rfl
          · refine Keep.ite ?_ ?_
            · exact Keep.mono (keep_penWrite ..) rfl
            · refine Keep.ite ?_ ?_
              · refine Keep.when' ?_
                exact Keep.mono (keep_plainWrite ..) rfl
              · refine Keep.ite ?_ ?_
                · exact Keep.mono (keep_rosterCfgWrite ..) rfl
                · refine Keep.ite ?_ ?_
                  · exact Keep.mono (keep_stepWrite ..) rfl
                  · refine Keep.ite ?_ ?_
                    · exact Keep.mono (keep_stepWrite ..) rfl
                    · refine Keep.ite ?_ ?_
                      · exact Keep.mono (keep_stepWrite ..) rfl
                      · refine Keep.ite ?_ ?_
                        · exact Keep.mono (keep_stepWrite ..) rfl
                        · refine Keep.ite ?_ ?_
                          · exact Keep.mono (keep_recompAckWrite ..) rfl
                          · refine Keep.ite ?_ ?_
                            · refine Keep.when' ?_
                              exact Keep.mono (keep_plainWrite ..) rfl
                            · refine Keep.ite ?_ ?_
                              · refine Keep.when' ?_
                                exact Keep.mono (keep_plainWrite ..) rfl
                              · refine Keep.ite ?_ ?_
                                · refine Keep.when' ?_
                                  refine Keep.when' ?_
                                  exact Keep.mono (keep_plainWrite ..) rfl
                                · refine Keep.ite ?_ ?_
                                  · refine Keep.when' ?_
                                    refine Keep.bind ?_ fun _ => ?_
                                    · exact Keep.mono (keep_setReg ..) rfl
                                    · refine Keep.when' ?_
                                      exact Keep.mono (keep_setFld ..) rfl
                                  · refine Keep.ite ?_ ?_
                                    · refine Keep.when' ?_
                                      exact Keep.mono (keep_plainWrite ..) rfl
                                    · refine Keep.ite ?_ ?_
                                      · refine Keep.when' ?_
                                        exact Keep.mono (keep_setReg ..) rfl
                                      · refine Keep.ite ?_ ?_
                                        · refine Keep.ite ?_ ?_
                                          · refine Keep.bind ?_ fun _ => ?_
                                            · refine Keep.when' ?_
                                              exact Keep.mono (keep_gslotWrite ..) rfl
                                            · refine Keep.bind ?_ fun _ => ?_
                                              · refine Keep.when' ?_
                                                exact Keep.mono (keep_gslotWrite ..) rfl
                                              · refine Keep.when' ?_
                                                exact Keep.mono (keep_gslotWrite ..) rfl
                                          · refine Keep.when' ?_
                                            refine Keep.when' ?_
                                            exact Keep.mono (keep_plainWrite ..) rfl
                                        · refine Keep.ite ?_ ?_
                                          · refine Keep.when' ?_
                                            refine Keep.bind ?_ fun _ => ?_
                                            · exact Keep.mono (keep_setReg ..) rfl
                                            · refine Keep.when' ?_
                                              exact Keep.mono (keep_jobFaultWrite ..) rfl
                                          · exact Keep.mono (keep_plainWrite ..) rfl

theorem keep_maintExit (who : Who) (st : Nat) : Keep 0x2002 (maintExit who st) := by
  delta maintExit
  refine Keep.bind ?_ fun _ => ?_
  · exact Keep.getS _
  · refine Keep.ite ?_ ?_
    · refine Keep.bind ?_ fun _ => ?_
      · exact Keep.mono (keep_setFld ..) rfl
      · refine Keep.bind ?_ fun _ => ?_
        · exact Keep.mono (keep_modStack ..) rfl
        · refine Keep.when' ?_
          refine Keep.bind ?_ fun _ => ?_
          · exact Keep.mono (keep_setFld ..) rfl
          · exact Keep.mono (keep_capUpdate ..) rfl
    · exact Keep.pure _ _

theorem keep_retireWrite (who : Who) (st : Nat) (page : Nat) (slot : Nat) : Keep 0x2002 (retireWrite who st page slot) := by
  delta retireWrite
  refine Keep.bind ?_ fun _ => ?_
  · exact Keep.getS _
  · refine Keep.ite ?_ ?_
    · refine Keep.bind ?_ fun _ => ?_
      · exact Keep.mono (keep_setReg ..) rfl
      · refine Keep.bind ?_ fun _ => ?_
        · exact Keep.getS _
        · dsimp only
          refine Keep.ite ?_ ?_
          · exact Keep.mono (keep_setFld ..) rfl
          · refine Keep.bind ?_ fun _ => ?_
            · exact Keep.mono (keep_setFld ..) rfl
            · exact Keep.mono (keep_modStack ..) rfl
    · exact Keep.pure _ _

theorem keep_writeHbmReg (who : Who) (i : Nat) (d : RegDef) (a : Nat) (v : Nat) : Keep 0x112003 (writeHbmReg who i d a v) := by
  delta writeHbmReg
  dsimp only
  refine Keep.ite ?_ ?_
  · refine Keep.ite ?_ ?_
    · exact Keep.mono (keep_maintEnter ..) rfl
    · exact Keep.mono (keep_maintExit ..) rfl
  · refine Keep.ite ?_ ?_
    · refine Keep.ite ?_ ?_
      · refine Keep.when' ?_
        exact Keep.mono (keep_plainWrite ..) rfl
      · refine Keep.ite ?_ ?_
        · exact Keep.mono (keep_setFld ..) rfl
        · exact Keep.mono (keep_maintOp ..) rfl
    · refine Keep.ite ?_ ?_
      · exact Keep.mono (keep_retireWrite ..) rfl
      · refine Keep.ite ?_ ?_
        · refine Keep.when' ?_
          exact Keep.mono (keep_plainWrite ..) rfl
        · exact Keep.mono (keep_plainWrite ..) rfl

theorem keep_modRing (f : Roster → Roster) : Keep 0x1000000 (modRing f) := by
  delta modRing
  exact Keep.mono (keep_modFab ..) rfl

theorem keep_xferRingWrite (who : Who) (data : Nat) : Keep 0x1000002 (xferRingWrite who data) := by
  delta xferRingWrite
  refine Keep.bind ?_ fun _ => ?_
  · exact Keep.getS _
  · dsimp only
    refine Keep.ite ?_ ?_
    · refine Keep.ite ?_ ?_
      · exact Keep.mono (keep_setReg ..) rfl
      · refine Keep.ite ?_ ?_
        · exact Keep.mono (keep_flag ..) rfl
        · refine Keep.bind ?_ fun _ => ?_
          · exact Keep.mono (keep_setReg ..) rfl
          · exact Keep.mono (keep_modRing ..) rfl
    · exact Keep.pure _ _

theorem keep_routeWrite (page : Nat) (e : Nat) (data : Nat) : Keep 0x2 (routeWrite page e data) := by
  delta routeWrite
  refine Keep.bind ?_ fun _ => ?_
  · exact Keep.getS _
  · refine Keep.ite ?_ ?_
    · exact Keep.mono (keep_flag ..) rfl
    · exact Keep.mono (keep_setReg ..) rfl

theorem keep_writeFabric (d : RegDef) (a : Nat) (v : Nat) : Keep 0x1000002 (writeFabric d a v) := by
  delta writeFabric
  refine Keep.bind ?_ fun _ => ?_
  · exact Keep.getS _
  · dsimp only
    refine Keep.ite ?_ ?_
    · refine Keep.bind ?_ fun _ => ?_
      · exact Keep.mono (keep_setReg ..) rfl
      · refine Keep.when' ?_
        exact Keep.mono (keep_setFld ..) rfl
    · refine Keep.ite ?_ ?_
      · exact Keep.mono (keep_xferRingWrite ..) rfl
      · refine Keep.ite ?_ ?_
        · exact Keep.mono (keep_plainWrite ..) rfl
        · refine Keep.ite ?_ ?_
          · exact Keep.mono (keep_routeWrite ..) rfl
          · exact Keep.mono (keep_plainWrite ..) rfl

theorem keep_writePort (who : Who) (p : Nat) (d : RegDef) (a : Nat) (v : Nat) : Keep 0x1000082 (writePort who p d a v) := by
  delta writePort
  refine Keep.ite ?_ ?_
  · refine Keep.bind ?_ fun _ => ?_
    · exact Keep.mono (keep_plainWrite ..) rfl
    · refine Keep.when' ?_
      exact Keep.mono (keep_requestReset ..) rfl
  · refine Keep.ite ?_ ?_
    · refine Keep.when' ?_
      exact Keep.mono (keep_writeFabric ..) rfl
    · exact Keep.mono (keep_plainWrite ..) rfl

theorem keep_passWrite (o : Nat) (w3 : Nat) : Keep 0x402 (passWrite o w3) := by
  delta passWrite
  refine Keep.bind ?_ fun _ => ?_
  · exact Keep.mono (keep_setReg ..) rfl
  · refine Keep.bind ?_ fun _ => ?_
    · exact Keep.getS _
    · exact Keep.mono (keep_pushPass ..) rfl

theorem keep_endPasses (o : Nat) : Keep 0x40d (endPasses o) := by
  delta endPasses
  refine Keep.bind ?_ fun _ => ?_
  · exact Keep.getS _
  · dsimp only
    refine Keep.bind ?_ fun _ => ?_
    · refine Keep.each fun _ => ?_
      exact Keep.mono (keep_undefRows ..) rfl
    · refine Keep.bind ?_ fun _ => ?_
      · exact Keep.mono (keep_modOx ..) rfl
      · exact Keep.pure _ _

theorem keep_fenceOx (o : Nat) (data : Nat) : Keep 0x100c8f (fenceOx o data) := by
  delta fenceOx
  refine Keep.bind ?_ fun _ => ?_
  · exact Keep.getS _
  · dsimp only
    refine Keep.ite ?_ ?_
    · refine Keep.bind ?_ fun _ => ?_
      · exact Keep.mono (keep_setFld ..) rfl
      · refine Keep.bind ?_ fun _ => ?_
        · exact Keep.mono (keep_historyAdd ..) rfl
        · refine Keep.bind ?_ fun _ => ?_
          · exact Keep.mono (keep_endPasses ..) rfl
          · refine Keep.bind ?_ fun _ => ?_
            · exact Keep.mono (keep_modCore ..) rfl
            · refine Keep.bind ?_ fun _ => ?_
              · refine Keep.each fun _ => ?_
                exact Keep.mono (keep_passFault ..) rfl
              · exact Keep.mono (keep_capUpdate ..) rfl
    · exact Keep.pure _ _

theorem keep_writeOx (o : Nat) (d : RegDef) (a : Nat) (v : Nat) : Keep 0x100c8f (writeOx o d a v) := by
  delta writeOx
  refine Keep.ite ?_ ?_
  · exact Keep.mono (keep_passWrite ..) rfl
  · refine Keep.ite ?_ ?_
    · refine Keep.ite ?_ ?_
      · exact Keep.mono (keep_fenceOx ..) rfl
      · exact Keep.mono (keep_setFld ..) rfl
    · refine Keep.ite ?_ ?_
      · refine Keep.when' ?_
        exact Keep.mono (keep_setFld ..) rfl
      · exact Keep.mono (keep_plainWrite ..) rfl

theorem keep_writeBlk (b : Blk) (who : Who) (d : RegDef) (a : Nat) (v : Nat) : Keep 0x231f3c8f (writeBlk b who d a v) := by
  delta writeBlk
  split
  · refine keep_dieOnly _ ?_
    refine Keep.bind ?_ fun _ => ?_
    · exact Keep.mono (keep_plainWrite ..) rfl
    · refine Keep.when' ?_
      exact Keep.mono (keep_requestReset ..) rfl
  · refine keep_dieOnly _ ?_
    exact Keep.mono (keep_plainWrite ..) rfl
  · refine keep_dieOnly _ ?_
    exact Keep.mono (keep_plainWrite ..) rfl
  · refine keep_dieOnly _ ?_
    exact Keep.mono (keep_writeSec ..) rfl
  · exact Keep.mono (keep_writeWagon ..) rfl
  · exact Keep.mono (keep_writeCtx ..) rfl
  · exact Keep.mono (keep_writeHbmReg ..) rfl
  · exact Keep.mono (keep_writePort ..) rfl
  · exact Keep.mono (keep_writeCore ..) rfl
  · exact Keep.mono (keep_writeOx ..) rfl
  · exact Keep.mono (keep_plainWrite ..) rfl

theorem keep_writeReg (who : Who) (d : RegDef) (a v : Nat) : Keep 0x231f3c8f (writeReg who d a v) := keep_writeBlk (blkOf a) who d a v

theorem keep_write32 (who : Who) (a : Nat) (v : Nat) : Keep 0x231f3c8f (write32 who a v) := by
  delta write32
  refine Keep.bind ?_ fun _ => ?_
  · exact Keep.getS _
  · split
    · refine Keep.when' ?_
      exact Keep.mono (keep_writeReg ..) rfl
    · exact Keep.pure _ _

theorem keep_write64 (who : Who) (a : Nat) (v : Nat) : Keep 0x231f3c8f (write64 who a v) := by
  delta write64
  dsimp only
  refine Keep.bind ?_ fun _ => ?_
  · exact Keep.getS _
  · split
    · refine Keep.ite ?_ ?_
      · exact Keep.mono (keep_writeReg ..) rfl
      · refine Keep.bind ?_ fun _ => ?_
        · exact Keep.mono (keep_write32 ..) rfl
        · exact Keep.mono (keep_write32 ..) rfl
    · refine Keep.bind ?_ fun _ => ?_
      · exact Keep.mono (keep_write32 ..) rfl
      · exact Keep.mono (keep_write32 ..) rfl

theorem keep_cqRead (n : Nat) (col : Nat) : Keep 0x800 (cqRead n col) := by
  delta cqRead
  refine Keep.bind ?_ fun _ => ?_
  · exact Keep.getS _
  · split
    · dsimp only
      refine Keep.bind ?_ fun _ => ?_
      · exact Keep.mono (keep_modHand ..) rfl
      · exact Keep.pure _ _
    · exact Keep.pure _ _

theorem keep_maintDataRead (st : Nat) : Keep 0x2000 (maintDataRead st) := by
  delta maintDataRead
  refine Keep.bind ?_ fun _ => ?_
  · exact Keep.getS _
  · split
    · refine Keep.bind ?_ fun _ => ?_
      · exact Keep.mono (keep_modStack ..) rfl
      · exact Keep.pure _ _
    · exact Keep.pure _ _

theorem keep_verifyDoneRead  : Keep 0x2000000 (verifyDoneRead ) := by
  delta verifyDoneRead
  refine Keep.bind ?_ fun _ => ?_
  · exact Keep.getS _
  · split
    · exact Keep.pure _ _
    · refine Keep.bind ?_ fun _ => ?_
      · exact Keep.mono (keep_modSec ..) rfl
      · exact Keep.pure _ _

theorem keep_readReg (d : RegDef) (a : Nat) : Keep 0x2002802 (readReg d a) := by
  delta readReg
  refine Keep.bind ?_ fun _ => ?_
  · exact Keep.getS _
  · dsimp only
    split
    · refine Keep.ite ?_ ?_
      · exact Keep.mono (keep_cqRead ..) rfl
      · refine Keep.ite ?_ ?_
        · exact Keep.mono (keep_cqRead ..) rfl
        · refine Keep.bind ?_ fun _ => ?_
          · refine Keep.when' ?_
            exact Keep.mono (keep_setReg ..) rfl
          · exact Keep.pure _ _
    · refine Keep.ite ?_ ?_
      · exact Keep.mono (keep_maintDataRead ..) rfl
      · refine Keep.bind ?_ fun _ => ?_
        · refine Keep.when' ?_
          exact Keep.mono (keep_setReg ..) rfl
        · exact Keep.pure _ _
    · refine Keep.ite ?_ ?_
      · exact Keep.mono (keep_verifyDoneRead ..) rfl
      · refine Keep.bind ?_ fun _ => ?_
        · refine Keep.when' ?_
          exact Keep.mono (keep_setReg ..) rfl
        · exact Keep.pure _ _
    · refine Keep.bind ?_ fun _ => ?_
      · refine Keep.when' ?_
        exact Keep.mono (keep_setReg ..) rfl
      · exact Keep.pure _ _

theorem keep_read32 (a : Nat) : Keep 0x2002802 (read32 a) := by
  delta read32
  refine Keep.bind ?_ fun _ => ?_
  · exact Keep.getS _
  · split
    · refine Keep.ite ?_ ?_
      · exact Keep.mono (keep_readReg ..) rfl
      · exact Keep.pure _ _
    · exact Keep.pure _ _

theorem keep_read64 (a : Nat) : Keep 0x2002802 (read64 a) := by
  delta read64
  dsimp only
  refine Keep.bind ?_ fun _ => ?_
  · exact Keep.getS _
  · split
    · refine Keep.ite ?_ ?_
      · exact Keep.mono (keep_readReg ..) rfl
      · refine Keep.bind ?_ fun _ => ?_
        · exact Keep.mono (keep_read32 ..) rfl
        · refine Keep.bind ?_ fun _ => ?_
          · exact Keep.mono (keep_read32 ..) rfl
          · exact Keep.pure _ _
    · refine Keep.bind ?_ fun _ => ?_
      · exact Keep.mono (keep_read32 ..) rfl
      · refine Keep.bind ?_ fun _ => ?_
        · exact Keep.mono (keep_read32 ..) rfl
        · exact Keep.pure _ _

theorem keep_regAccess (who : Who) (a : Nat) (size : Nat) (data : Option Nat) : Keep 0x231f3c8f (regAccess who a size data) := by
  delta regAccess
  refine Keep.ite ?_ ?_
  · exact Keep.pure _ _
  · refine Keep.bind ?_ fun _ => ?_
    · exact Keep.getS _
    · split
      · refine Keep.bind ?_ fun _ => ?_
        · exact Keep.mono (keep_bump ..) rfl
        · exact Keep.pure _ _
      · refine Keep.bind ?_ fun _ => ?_
        · exact Keep.getS _
        · dsimp only
          refine Keep.ite ?_ ?_
          · refine Keep.bind ?_ fun _ => ?_
            · exact Keep.mono (keep_write32 ..) rfl
            · refine Keep.bind ?_ fun _ => ?_
              · exact Keep.getS _
              · exact Keep.pure _ _
          · refine Keep.bind ?_ fun _ => ?_
            · exact Keep.mono (keep_write64 ..) rfl
            · refine Keep.bind ?_ fun _ => ?_
              · exact Keep.getS _
              · exact Keep.pure _ _
      · dsimp only
        refine Keep.ite ?_ ?_
        · refine Keep.bind ?_ fun _ => ?_
          · exact Keep.mono (keep_read32 ..) rfl
          · exact Keep.pure _ _
        · refine Keep.bind ?_ fun _ => ?_
          · exact Keep.mono (keep_read64 ..) rfl
          · exact Keep.pure _ _

theorem keep_grantMove (d : Nat) (f : Nat) (promote : Bool) (pin : Bool) : Keep 0x40000 (grantMove d f promote pin) := by
  delta grantMove
  exact Keep.mono (keep_modWagon ..) rfl

theorem keep_grantPromos (x1 : List Nat) : Keep 0x40000 (grantPromos x1) := by
  induction x1 with
  | nil =>
    unfold grantPromos
    exact Keep.pure _ _
  | cons _ _ ih =>
    unfold grantPromos
    refine Keep.bind ?_ fun _ => ?_
    · exact Keep.getS _
    · dsimp only
      split
      · refine Keep.bind ?_ fun _ => ?_
        · refine Keep.when' ?_
          exact Keep.mono (keep_grantMove ..) rfl
        · exact ih
      · exact ih

theorem keep_completeEvent (n : Nat) (k : Nat) (i : Nat) (ev : Bool) : Keep 0x802 (completeEvent n k i ev) := by
  delta completeEvent
  refine Keep.bind ?_ fun _ => ?_
  · exact Keep.getS _
  · dsimp only
    refine Keep.bind ?_ fun _ => ?_
    · exact Keep.mono (keep_modStream ..) rfl
    · refine Keep.bind ?_ fun _ => ?_
      · refine Keep.when' ?_
        exact Keep.mono (keep_addMod ..) rfl
      · refine Keep.bind ?_ fun _ => ?_
        · refine Keep.each fun _ => ?_
          refine Keep.when' ?_
          exact Keep.mono (keep_addHc ..) rfl
        · refine Keep.bind ?_ fun _ => ?_
          · exact Keep.getS _
          · refine Keep.ite ?_ ?_
            · refine Keep.bind ?_ fun _ => ?_
              · exact Keep.mono (keep_modStream ..) rfl
              · refine Keep.bind ?_ fun _ => ?_
                · exact Keep.mono (keep_setFld ..) rfl
                · refine Keep.when' ?_
                  exact Keep.mono (keep_abandonSpans ..) rfl
            · exact Keep.pure _ _

theorem keep_withErrs {k : Nat} {m : M Unit} (errs : List LineErr) (h : Keep k m) (hs : 0x200 &&& k = 0x200) : Keep k (withErrs errs m) := by
  have up : ∀ {n : Nat} {γ : Type} {x : M γ}, Keep n x → n &&& 0x200 = n → Keep k x := fun hx hn => (hx.mono hn).mono hs
  delta withErrs
  refine Keep.bind ?_ fun _ => ?_
  · exact up (keep_modLineErrs ..) rfl
  · refine Keep.bind ?_ fun _ => ?_
    · exact h
    · exact up (keep_modLineErrs ..) rfl

theorem keep_tableLines (a : CtxAcc) (x1 : List (Nat × Nat)) : Keep 0xf208f (tableLines a x1) := by
  induction x1 with
  | nil =>
    unfold tableLines
    exact Keep.pure _ _
  | cons _ _ ih =>
    unfold tableLines
    refine Keep.bind ?_ fun _ => ?_
    · refine Keep.bind ?_ fun _ => ?_
      · exact Keep.getS _
      · refine Keep.ite ?_ ?_
        · exact Keep.pure _ _
        · refine Keep.bind ?_ fun _ => ?_
          · exact Keep.mono (keep_readLine ..) rfl
          · split
            · refine Keep.bind ?_ fun _ => ?_
              · refine Keep.when' ?_
                exact Keep.mono (keep_faultFor ..) rfl
              · exact Keep.pure _ _
            · refine Keep.bind ?_ fun _ => ?_
              · exact Keep.mono (keep_faultFor ..) rfl
              · exact Keep.pure _ _
            · exact Keep.pure _ _
            · exact Keep.pure _ _
    · split
      · exact Keep.pure _ _
      · refine Keep.bind ?_ fun _ => ?_
        · exact ih
        · split
          · exact Keep.pure _ _
          · exact Keep.pure _ _

theorem keep_tableOf (a : CtxAcc) (base : Nat) (n : Nat) : Keep 0xf208f (tableOf a base n) := by
  delta tableOf
  exact Keep.mono (keep_tableLines ..) rfl

theorem keep_tablesOf (a : CtxAcc) (bases : List Nat) (n : Nat) : Keep 0xf208f (tablesOf a bases n) := by
  delta tablesOf
  refine Keep.bind ?_ fun _ => ?_
  · refine Keep.gather fun _ => ?_
    exact Keep.mono (keep_tableOf ..) rfl
  · exact Keep.pure _ _

theorem keep_mappedPages (c : Nat) : Keep 0xf208f (mappedPages c) := by
  delta mappedPages
  refine Keep.bind ?_ fun _ => ?_
  · exact Keep.getS _
  · dsimp only
    refine Keep.bind ?_ fun _ => ?_
    · exact Keep.mono (keep_tableOf ..) rfl
    · split
      · exact Keep.pure _ _
      · refine Keep.bind ?_ fun _ => ?_
        · exact Keep.mono (keep_tablesOf ..) rfl
        · split
          · exact Keep.pure _ _
          · refine Keep.bind ?_ fun _ => ?_
            · exact Keep.mono (keep_tablesOf ..) rfl
            · split
              · exact Keep.pure _ _
              · exact Keep.pure _ _

theorem keep_zeroRun (a : Nat) (len : Nat) : Keep 0xc (zeroRun a len) := by
  delta zeroRun
  refine Keep.bind ?_ fun _ => ?_
  · exact Keep.mono (keep_clearMem ..) rfl
  · exact Keep.mono (keep_clearSyn ..) rfl

theorem keep_zeroHbm (st : Nat) (off : Nat) : Keep 0x200e (zeroHbm st off) := by
  delta zeroHbm
  refine Keep.bind ?_ fun _ => ?_
  · exact Keep.getS _
  · split
    · refine Keep.bind ?_ fun _ => ?_
      · exact Keep.mono (keep_modStack ..) rfl
      · refine Keep.bind ?_ fun _ => ?_
        · exact Keep.mono (keep_zeroRun ..) rfl
        · exact Keep.mono (keep_bumpBy ..) rfl
    · exact Keep.pure _ _

theorem keep_zeroDeep (off : Nat) : Keep 0xf (zeroDeep off) := by
  delta zeroDeep
  refine Keep.bind ?_ fun _ => ?_
  · exact Keep.getS _
  · dsimp only
    refine Keep.ite ?_ ?_
    · refine Keep.bind ?_ fun _ => ?_
      · exact Keep.mono (keep_zeroRun ..) rfl
      · exact Keep.mono (keep_bumpBy ..) rfl
    · refine Keep.bind ?_ fun _ => ?_
      · exact Keep.mono (keep_freeBytes ..) rfl
      · refine Keep.bind ?_ fun _ => ?_
        · exact Keep.mono (keep_setMem ..) rfl
        · exact Keep.mono (keep_bumpBy ..) rfl

theorem keep_flushDir (x1 : List Nat) : Keep 0xf200f (flushDir x1) := by
  induction x1 with
  | nil =>
    unfold flushDir
    exact Keep.pure _ _
  | cons _ _ ih =>
    unfold flushDir
    refine Keep.bind ?_ fun _ => ?_
    · exact Keep.getS _
    · refine Keep.bind ?_ fun _ => ?_
      · exact Keep.mono (keep_writePhys ..) rfl
      · split
        · exact Keep.pure _ _
        · refine Keep.bind ?_ fun _ => ?_
          · exact Keep.mono (keep_modWagon ..) rfl
          · exact ih

theorem keep_writeDir (pa : Nat) (v : Nat) : Keep 0xf200f (writeDir pa v) := by
  delta writeDir
  refine Keep.bind ?_ fun _ => ?_
  · exact Keep.mono (keep_modWagon ..) rfl
  · refine Keep.bind ?_ fun _ => ?_
    · exact Keep.getS _
    · exact Keep.mono (keep_flushDir ..) rfl

theorem keep_zeroPage (pa : Nat) : Keep 0xf200f (zeroPage pa) := by
  delta zeroPage
  refine Keep.bind ?_ fun _ => ?_
  · exact Keep.getS _
  · split
    · exact Keep.mono (keep_zeroHbm ..) rfl
    · refine Keep.ite ?_ ?_
      · dsimp only
        refine Keep.bind ?_ fun _ => ?_
        · refine Keep.each fun _ => ?_
          exact Keep.mono (keep_zeroDeep ..) rfl
        · refine Keep.bind ?_ fun _ => ?_
          · refine Keep.when' ?_
            refine Keep.bind ?_ fun _ => ?_
            · exact Keep.mono (keep_zeroHbm ..) rfl
            · exact Keep.mono (keep_writeDir ..) rfl
          · refine Keep.bind ?_ fun _ => ?_
            · refine Keep.when' ?_
              exact Keep.mono (keep_writeDir ..) rfl
            · exact Keep.mono (keep_modWagon ..) rfl
      · exact Keep.pure _ _
    · exact Keep.pure _ _

theorem keep_killCompletes (c : Nat) : Keep 0x201f3cdf (killCompletes c) := by
  delta killCompletes
  refine Keep.bind ?_ fun _ => ?_
  · exact Keep.getS _
  · refine Keep.ite ?_ ?_
    · refine Keep.bind ?_ fun _ => ?_
      · refine Keep.ite ?_ ?_
        · exact Keep.mono (keep_mappedPages ..) rfl
        · exact Keep.pure _ _
      · split
        · exact Keep.pure _ _
        · refine Keep.bind ?_ fun _ => ?_
          · exact Keep.getS _
          · refine Keep.ite ?_ ?_
            · refine Keep.bind ?_ fun _ => ?_
              · refine Keep.each fun _ => ?_
                exact Keep.mono (keep_zeroPage ..) rfl
              · refine Keep.bind ?_ fun _ => ?_
                · exact Keep.mono (keep_clearCores ..) rfl
                · refine Keep.bind ?_ fun _ => ?_
                  · exact Keep.mono (keep_dropXlate ..) rfl
                  · refine Keep.bind ?_ fun _ => ?_
                    · exact Keep.mono (keep_eraseKey ..) rfl
                    · refine Keep.bind ?_ fun _ => ?_
                      · exact Keep.mono (keep_setFld ..) rfl
                      · refine Keep.bind ?_ fun _ => ?_
                        · exact Keep.mono (keep_modCtx ..) rfl
                        · exact Keep.mono (keep_noteRank ..) rfl
            · exact Keep.pure _ _
    · exact Keep.pure _ _

theorem keep_countHeat  : Keep 0x40000 (countHeat ) := by
  delta countHeat
  refine Keep.bind ?_ fun _ => ?_
  · exact Keep.getS _
  · refine Keep.bind ?_ fun _ => ?_
    · refine Keep.each fun _ => ?_
      exact Keep.mono (keep_modWagon ..) rfl
    · exact Keep.mono (keep_modWagon ..) rfl

theorem keep_setWave (r : Nat) (w : Nat) (v : Nat) : Keep 0x2 (setWave r w v) := by
  delta setWave
  exact Keep.mono (keep_setFld ..) rfl

theorem keep_failSpare (port : Nat) (w : Nat) : Keep 0x2 (failSpare port w) := by
  delta failSpare
  refine Keep.bind ?_ fun _ => ?_
  · exact Keep.mono (keep_setWave ..) rfl
  · refine Keep.bind ?_ fun _ => ?_
    · exact Keep.mono (keep_fld ..) rfl
    · refine Keep.bind ?_ fun _ => ?_
      · exact Keep.mono (keep_setFld ..) rfl
      · exact Keep.mono (keep_capUpdate ..) rfl

theorem keep_portDown (port : Nat) : Keep 0x82 (portDown port) := by
  delta portDown
  refine Keep.bind ?_ fun _ => ?_
  · exact Keep.mono (keep_setFld ..) rfl
  · refine Keep.bind ?_ fun _ => ?_
    · exact Keep.mono (keep_flag ..) rfl
    · refine Keep.bind ?_ fun _ => ?_
      · exact Keep.mono (keep_bump ..) rfl
      · refine Keep.bind ?_ fun _ => ?_
        · exact Keep.mono (keep_requestReset ..) rfl
        · exact Keep.mono (keep_capUpdate ..) rfl

theorem keep_beginSwap (port : Nat) (w : Nat) : Keep 0x810082 (beginSwap port w) := by
  delta beginSwap
  refine Keep.bind ?_ fun _ => ?_
  · exact Keep.getS _
  · dsimp only
    refine Keep.ite ?_ ?_
    · exact Keep.mono (keep_portDown ..) rfl
    · refine Keep.bind ?_ fun _ => ?_
      · exact Keep.mono (keep_modPort ..) rfl
      · exact Keep.mono (keep_emit ..) rfl

theorem keep_degrade (port : Nat) (w : Nat) : Keep 0x810082 (degrade port w) := by
  delta degrade
  refine Keep.bind ?_ fun _ => ?_
  · exact Keep.getS _
  · dsimp only
    refine Keep.ite ?_ ?_
    · refine Keep.bind ?_ fun _ => ?_
      · exact Keep.mono (keep_failSpare ..) rfl
      · split
        · refine Keep.ite ?_ ?_
          · refine Keep.bind ?_ fun _ => ?_
            · exact Keep.mono (keep_modPort ..) rfl
            · exact Keep.mono (keep_beginSwap ..) rfl
          · exact Keep.pure _ _
        · exact Keep.pure _ _
    · refine Keep.ite ?_ ?_
      · split
        · refine Keep.ite ?_ ?_
          · exact Keep.mono (keep_modPort ..) rfl
          · exact Keep.pure _ _
        · refine Keep.ite ?_ ?_
          · exact Keep.mono (keep_modPort ..) rfl
          · exact Keep.mono (keep_beginSwap ..) rfl
      · exact Keep.pure _ _

theorem keep_putFrame (out : Bool) (hseq : Nat) (f : Frame) : Keep 0x10002 (putFrame out hseq f) := by
  delta putFrame
  refine Keep.bind ?_ fun _ => ?_
  · exact Keep.mono (keep_emit ..) rfl
  · exact Keep.mono (keep_bump ..) rfl

theorem keep_sendAck (out : Bool) : Keep 0x10002 (sendAck out) := by
  delta sendAck
  refine Keep.bind ?_ fun _ => ?_
  · exact Keep.getS _
  · exact Keep.mono (keep_putFrame ..) rfl

theorem keep_acceptPacket (port : Nat) (crcOk : Bool) (lseq : Nat) : Keep 0x810002 (acceptPacket port crcOk lseq) := by
  delta acceptPacket
  refine Keep.bind ?_ fun _ => ?_
  · exact Keep.getS _
  · dsimp only
    refine Keep.ite ?_ ?_
    · exact Keep.pure _ _
    · refine Keep.bind ?_ fun _ => ?_
      · refine Keep.when' ?_
        exact Keep.mono (keep_bump ..) rfl
      · refine Keep.ite ?_ ?_
        · refine Keep.bind ?_ fun _ => ?_
          · exact Keep.mono (keep_modPort ..) rfl
          · refine Keep.bind ?_ fun _ => ?_
            · exact Keep.mono (keep_emit ..) rfl
            · exact Keep.pure _ _
        · refine Keep.bind ?_ fun _ => ?_
          · refine Keep.when' ?_
            exact Keep.mono (keep_emit ..) rfl
          · refine Keep.bind ?_ fun _ => ?_
            · exact Keep.mono (keep_modPort ..) rfl
            · exact Keep.pure _ _

theorem keep_imgPut (n : Nat) (m : Img) (x1 : List (Nat × Nat)) (x2 : List (Byte × Bool)) : Keep 0xc (imgPut n m x1 x2) := by
  induction x1 generalizing x2 with
  | nil =>
    unfold imgPut
    exact Keep.pure _ _
  | cons _ _ ih =>
    unfold imgPut
    dsimp only
    refine Keep.bind ?_ fun _ => ?_
    · exact Keep.mono (keep_bankWrite ..) rfl
    · exact ih ..

theorem keep_finishRecv (r : RecvIm) : Keep 0x181088e (finishRecv r) := by
  delta finishRecv
  refine Keep.bind ?_ fun _ => ?_
  · exact Keep.getS _
  · dsimp only
    split
    · refine Keep.ite ?_ ?_
      · split
        · exact Keep.mono (keep_imgFault ..) rfl
        · exact Keep.mono (keep_bankHold ..) rfl
        · refine Keep.bind ?_ fun _ => ?_
          · exact Keep.mono (keep_bankFree ..) rfl
          · refine Keep.ite ?_ ?_
            · refine Keep.bind ?_ fun _ => ?_
              · exact Keep.mono (keep_imgWrite ..) rfl
              · refine Keep.bind ?_ fun _ => ?_
                · exact Keep.mono (keep_inject ..) rfl
                · refine Keep.bind ?_ fun _ => ?_
                  · exact Keep.mono (keep_modFab ..) rfl
                  · refine Keep.when' ?_
                    exact Keep.mono (keep_modCore ..) rfl
            · refine Keep.bind ?_ fun _ => ?_
              · exact Keep.mono (keep_imgPut ..) rfl
              · refine Keep.bind ?_ fun _ => ?_
                · exact Keep.mono (keep_inject ..) rfl
                · refine Keep.bind ?_ fun _ => ?_
                  · exact Keep.mono (keep_modFab ..) rfl
                  · refine Keep.when' ?_
                    exact Keep.mono (keep_modCore ..) rfl
      · exact Keep.pure _ _
    · exact Keep.pure _ _

theorem keep_dataArrives (p : Packet) : Keep 0x181088e (dataArrives p) := by
  delta dataArrives
  refine Keep.bind ?_ fun _ => ?_
  · exact Keep.getS _
  · split
    · exact Keep.pure _ _
    · dsimp only
      refine Keep.ite ?_ ?_
      · refine Keep.bind ?_ fun _ => ?_
        · exact Keep.mono (keep_inject ..) rfl
        · refine Keep.when' ?_
          exact Keep.mono (keep_modFab ..) rfl
      · refine Keep.ite ?_ ?_
        · exact Keep.mono (keep_bump ..) rfl
        · refine Keep.bind ?_ fun _ => ?_
          · exact Keep.mono (keep_modRecv ..) rfl
          · refine Keep.bind ?_ fun _ => ?_
            · refine Keep.when' ?_
              exact Keep.mono (keep_imgFault ..) rfl
            · refine Keep.bind ?_ fun _ => ?_
              · refine Keep.when' ?_
                exact Keep.mono (keep_imgPut ..) rfl
              · refine Keep.when' ?_
                exact Keep.mono (keep_finishRecv ..) rfl

theorem keep_flushRing (x1 : List (Nat × Nat)) : Keep 0x10f200f (flushRing x1) := by
  induction x1 with
  | nil =>
    unfold flushRing
    exact Keep.mono (keep_modRing ..) rfl
  | cons _ _ ih =>
    unfold flushRing
    refine Keep.bind ?_ fun _ => ?_
    · exact Keep.mono (keep_writePhys ..) rfl
    · split
      · exact Keep.mono (keep_modRing ..) rfl
      · exact ih

theorem keep_ringPut (a : Nat) (v : Nat) : Keep 0x10f200f (ringPut a v) := by
  delta ringPut
  refine Keep.bind ?_ fun _ => ?_
  · exact Keep.getS _
  · dsimp only
    exact Keep.mono (keep_flushRing ..) rfl

theorem keep_ringState (i : Nat) (st : Nat) : Keep 0x10f200f (ringState i st) := by
  delta ringState
  refine Keep.bind ?_ fun _ => ?_
  · exact Keep.getS _
  · exact Keep.mono (keep_ringPut ..) rfl

theorem keep_ringFinal (i : Nat) (st : Nat) : Keep 0x10f200f (ringFinal i st) := by
  delta ringFinal
  refine Keep.bind ?_ fun _ => ?_
  · exact Keep.mono (keep_ringState ..) rfl
  · refine Keep.bind ?_ fun _ => ?_
    · exact Keep.getS _
    · dsimp only
      refine Keep.bind ?_ fun _ => ?_
      · exact Keep.mono (keep_modRing ..) rfl
      · refine Keep.when' ?_
        exact Keep.mono (keep_ringPut ..) rfl

theorem keep_xferEnd (i : Nat) (st : Nat) : Keep 0x10f200f (xferEnd i st) := by
  delta xferEnd
  refine Keep.bind ?_ fun _ => ?_
  · exact Keep.mono (keep_modFab ..) rfl
  · exact Keep.mono (keep_ringFinal ..) rfl

theorem keep_xferMatch (x : Xfer) (e : RtsEnt) : Keep 0x18f200f (xferMatch x e) := by
  delta xferMatch
  refine Keep.bind ?_ fun _ => ?_
  · exact Keep.getS _
  · refine Keep.ite ?_ ?_
    · exact Keep.mono (keep_xferEnd ..) rfl
    · refine Keep.bind ?_ fun _ => ?_
      · exact Keep.mono (keep_modXfer ..) rfl
      · exact Keep.mono (keep_inject ..) rfl

theorem keep_rtsArrives (e : RtsEnt) : Keep 0x1810002 (rtsArrives e) := by
  delta rtsArrives
  refine Keep.bind ?_ fun _ => ?_
  · exact Keep.getS _
  · split
    · exact Keep.mono (keep_grantTile ..) rfl
    · refine Keep.ite ?_ ?_
      · exact Keep.mono (keep_bump ..) rfl
      · exact Keep.mono (keep_modFab ..) rfl

theorem keep_rtsPacket (p : Packet) : Keep 0x18f200f (rtsPacket p) := by
  delta rtsPacket
  refine Keep.bind ?_ fun _ => ?_
  · exact Keep.getS _
  · dsimp only
    split
    · exact Keep.mono (keep_xferMatch ..) rfl
    · exact Keep.mono (keep_rtsArrives ..) rfl

theorem keep_xferLines (cls : Nat) (x1 : List Nat) : Keep 0xf200f (xferLines cls x1) := by
  induction x1 with
  | nil =>
    unfold xferLines
    exact Keep.pure _ _
  | cons _ _ ih =>
    unfold xferLines
    refine Keep.bind ?_ fun _ => ?_
    · exact Keep.mono (keep_readLine ..) rfl
    · split
      · refine Keep.bind ?_ fun _ => ?_
        · exact ih
        · split
          · exact Keep.pure _ _
          · exact Keep.pure _ _
      · refine Keep.bind ?_ fun _ => ?_
        · exact ih
        · split
          · exact Keep.pure _ _
          · exact Keep.pure _ _
      · exact Keep.pure _ _

theorem keep_xferSend (x : Xfer) : Keep 0x18f200f (xferSend x) := by
  delta xferSend
  refine Keep.bind ?_ fun _ => ?_
  · exact Keep.getS _
  · dsimp only
    refine Keep.bind ?_ fun _ => ?_
    · exact Keep.mono (keep_xferLines ..) rfl
    · split
      · exact Keep.pure _ _
      · refine Keep.bind ?_ fun _ => ?_
        · exact Keep.mono (keep_modXfer ..) rfl
        · refine Keep.each fun _ => ?_
          exact Keep.mono (keep_inject ..) rfl

theorem keep_xferGrant (p : Packet) : Keep 0x18f200f (xferGrant p) := by
  delta xferGrant
  refine Keep.bind ?_ fun _ => ?_
  · exact Keep.getS _
  · split
    · refine Keep.ite ?_ ?_
      · refine Keep.ite ?_ ?_
        · dsimp only
          refine Keep.bind ?_ fun _ => ?_
          · exact Keep.mono (keep_modXfer ..) rfl
          · exact Keep.mono (keep_xferSend ..) rfl
        · exact Keep.mono (keep_modXfer ..) rfl
      · exact Keep.pure _ _
    · exact Keep.pure _ _

theorem keep_grantArrives (p : Packet) : Keep 0x1810882 (grantArrives p) := by
  delta grantArrives
  refine Keep.bind ?_ fun _ => ?_
  · exact Keep.getS _
  · split
    · refine Keep.ite ?_ ?_
      · dsimp only
        refine Keep.bind ?_ fun _ => ?_
        · exact Keep.mono (keep_modOffer ..) rfl
        · refine Keep.when' ?_
          exact Keep.mono (keep_sendImage ..) rfl
      · exact Keep.pure _ _
    · exact Keep.pure _ _

theorem keep_xferAck (p : Packet) : Keep 0x10f200f (xferAck p) := by
  delta xferAck
  refine Keep.bind ?_ fun _ => ?_
  · exact Keep.getS _
  · split
    · refine Keep.ite ?_ ?_
      · refine Keep.ite ?_ ?_
        · exact Keep.mono (keep_xferEnd ..) rfl
        · exact Keep.mono (keep_modXfer ..) rfl
      · exact Keep.pure _ _
    · exact Keep.pure _ _

theorem keep_ackArrives (p : Packet) : Keep 0x1000000 (ackArrives p) := by
  delta ackArrives
  refine Keep.bind ?_ fun _ => ?_
  · exact Keep.getS _
  · split
    · refine Keep.ite ?_ ?_
      · refine Keep.ite ?_ ?_
        · exact Keep.mono (keep_dropOffer ..) rfl
        · exact Keep.mono (keep_modOffer ..) rfl
      · exact Keep.pure _ _
    · exact Keep.pure _ _

theorem keep_refuseArrives (p : Packet) : Keep 0x1000000 (refuseArrives p) := by
  delta refuseArrives
  refine Keep.bind ?_ fun _ => ?_
  · exact Keep.getS _
  · split
    · exact Keep.mono (keep_modOffer ..) rfl
    · exact Keep.pure _ _

theorem keep_xferPut (cls : Nat) (x1 : Nat) (x2 : List (List (Byte × Bool))) : Keep 0xf200f (xferPut cls x1 x2) := by
  induction x2 generalizing x1 with
  | nil => exact Keep.pure _ _
  | cons l rest ih =>
    unfold xferPut
    refine Keep.bind (Keep.mono (keep_writeLine ..) rfl) fun _ => ?_
    split
    · exact ih ..
    · exact ih ..
    · exact Keep.pure _ _

theorem keep_xdataArrives (p : Packet) : Keep 0x18f200f (xdataArrives p) := by
  delta xdataArrives
  refine Keep.bind ?_ fun _ => ?_
  · exact Keep.getS _
  · split
    · exact Keep.pure _ _
    · refine Keep.ite ?_ ?_
      · exact Keep.mono (keep_bump ..) rfl
      · dsimp only
        refine Keep.ite ?_ ?_
        · exact Keep.mono (keep_xferEnd ..) rfl
        · refine Keep.bind ?_ fun _ => ?_
          · exact Keep.mono (keep_xferPut ..) rfl
          · split
            · exact Keep.mono (keep_modFab ..) rfl
            · exact Keep.mono (keep_xferEnd ..) rfl
            · refine Keep.bind ?_ fun _ => ?_
              · exact Keep.mono (keep_modXfer ..) rfl
              · refine Keep.ite ?_ ?_
                · split
                  · refine Keep.bind ?_ fun _ => ?_
                    · exact Keep.mono (keep_inject ..) rfl
                    · exact Keep.mono (keep_xferEnd ..) rfl
                  · exact Keep.mono (keep_xferEnd ..) rfl
                · exact Keep.pure _ _

theorem keep_deliver (port : Nat) (p : Packet) : Keep 0x18f288f (deliver port p) := by
  delta deliver
  refine Keep.ite ?_ ?_
  · exact Keep.mono (keep_dataArrives ..) rfl
  · refine Keep.ite ?_ ?_
    · exact Keep.mono (keep_rtsPacket ..) rfl
    · refine Keep.ite ?_ ?_
      · refine Keep.ite ?_ ?_
        · exact Keep.mono (keep_xferGrant ..) rfl
        · exact Keep.mono (keep_grantArrives ..) rfl
      · refine Keep.ite ?_ ?_
        · refine Keep.ite ?_ ?_
          · exact Keep.mono (keep_xferAck ..) rfl
          · exact Keep.mono (keep_ackArrives ..) rfl
        · refine Keep.ite ?_ ?_
          · exact Keep.mono (keep_refuseArrives ..) rfl
          · refine Keep.ite ?_ ?_
            · exact Keep.mono (keep_xdataArrives ..) rfl
            · refine Keep.ite ?_ ?_
              · exact Keep.mono (keep_emit ..) rfl
              · exact Keep.mono (keep_unroutable ..) rfl

theorem keep_arrives (port : Nat) (crcOk : Bool) (lseq : Nat) (p : Packet) : Keep 0x18f288f (arrives port crcOk lseq p) := by
  delta arrives
  refine Keep.bind ?_ fun _ => ?_
  · exact Keep.getS _
  · refine Keep.ite ?_ ?_
    · exact Keep.pure _ _
    · refine Keep.bind ?_ fun _ => ?_
      · exact Keep.mono (keep_acceptPacket ..) rfl
      · refine Keep.ite ?_ ?_
        · refine Keep.bind ?_ fun _ => ?_
          · exact Keep.mono (keep_bumpBy ..) rfl
          · refine Keep.bind ?_ fun _ => ?_
            · exact Keep.mono (keep_routePacket ..) rfl
            · refine Keep.ite ?_ ?_
              · exact Keep.mono (keep_deliver ..) rfl
              · exact Keep.pure _ _
        · exact Keep.pure _ _

theorem keep_takeFault (t : Trouble) : Keep 0x21ff3d9f (takeFault t) := by
  delta takeFault
  refine Keep.bind ?_ fun _ => ?_
  · exact Keep.getS _
  · refine Keep.ite ?_ ?_
    · exact Keep.mono (keep_note ..) rfl
    · refine Keep.bind ?_ fun _ => ?_
      · exact Keep.mono (keep_bump ..) rfl
      · refine Keep.bind ?_ fun _ => ?_
        · refine Keep.when' ?_
          exact Keep.mono (keep_bump ..) rfl
        · refine Keep.ite ?_ ?_
          · refine Keep.bind ?_ fun _ => ?_
            · exact Keep.mono (keep_takeRecord ..) rfl
            · refine Keep.bind ?_ fun _ => ?_
              · exact Keep.mono (keep_supersede ..) rfl
              · refine Keep.bind ?_ fun _ => ?_
                · exact Keep.mono (keep_nameInRecord ..) rfl
                · refine Keep.bind ?_ fun _ => ?_
                  · exact Keep.mono (keep_faultCtx ..) rfl
                  · refine Keep.when' ?_
                    exact Keep.mono (keep_flag ..) rfl
          · exact Keep.mono (keep_note ..) rfl

theorem keep_faultsNow {k : Nat} {m : M Unit}  (h : Keep k m) (hs : 0x21ff3d9f &&& k = 0x21ff3d9f) : Keep k (faultsNow m) := by
  have up : ∀ {n : Nat} {γ : Type} {x : M γ}, Keep n x → n &&& 0x21ff3d9f = n → Keep k x := fun hx hn => (hx.mono hn).mono hs
  delta faultsNow
  refine Keep.bind ?_ fun _ => ?_
  · exact Keep.getS _
  · dsimp only
    refine Keep.bind ?_ fun _ => ?_
    · exact up (keep_modLatched ..) rfl
    · refine Keep.bind ?_ fun _ => ?_
      · exact h
      · refine Keep.bind ?_ fun _ => ?_
        · exact Keep.getS _
        · refine Keep.bind ?_ fun _ => ?_
          · exact up (keep_modLatched ..) rfl
          · refine Keep.each fun _ => ?_
            split
            · exact up (keep_takeFault ..) rfl
            · exact up (keep_latch ..) rfl

theorem keep_offerExpired (o : Offer) : Keep 0x1000082 (offerExpired o) := by
  delta offerExpired
  refine Keep.bind ?_ fun _ => ?_
  · exact Keep.getS _
  · refine Keep.ite ?_ ?_
    · dsimp only
      refine Keep.bind ?_ fun _ => ?_
      · exact Keep.mono (keep_dropOffer ..) rfl
      · split
        · refine Keep.bind ?_ fun _ => ?_
          · exact Keep.mono (keep_bump ..) rfl
          · exact Keep.mono (keep_faultCore ..) rfl
        · exact Keep.mono (keep_faultCore ..) rfl
    · exact Keep.pure _ _

theorem keep_xferExpired (x : Xfer) : Keep 0x10f200f (xferExpired x) := by
  delta xferExpired
  refine Keep.bind ?_ fun _ => ?_
  · exact Keep.getS _
  · refine Keep.when' ?_
    exact Keep.mono (keep_xferEnd ..) rfl

theorem keep_e2eExpires  : Keep 0x21ff3d9f (e2eExpires ) := by
  delta e2eExpires
  refine Keep.bind ?_ fun _ => ?_
  · exact Keep.getS _
  · refine Keep.bind ?_ fun _ => ?_
    · refine keep_faultsNow (hs := rfl) (h := ?_) ..
      refine Keep.each fun _ => ?_
      exact Keep.mono (keep_offerExpired ..) rfl
    · refine Keep.each fun _ => ?_
      exact Keep.mono (keep_xferExpired ..) rfl

theorem keep_clearLostOf (d : Nat) : Keep 0xf200f (clearLostOf d) := by
  delta clearLostOf
  refine Keep.bind ?_ fun _ => ?_
  · exact Keep.getS _
  · refine Keep.bind ?_ fun _ => ?_
    · refine Keep.when' ?_
      exact Keep.mono (keep_writeDir ..) rfl
    · exact Keep.mono (keep_modWagon ..) rfl

theorem keep_clearLost (pa : Nat) : Keep 0xf200f (clearLost pa) := by
  delta clearLost
  refine Keep.bind ?_ fun _ => ?_
  · exact Keep.getS _
  · split
    · dsimp only
      refine Keep.when' ?_
      exact Keep.mono (keep_clearLostOf ..) rfl
    · exact Keep.pure _ _

theorem keep_relock  : Keep 0x42 (relock ) := by
  delta relock
  refine Keep.bind ?_ fun _ => ?_
  · exact Keep.mono (keep_setFld ..) rfl
  · refine Keep.bind ?_ fun _ => ?_
    · exact Keep.mono (keep_setFld ..) rfl
    · exact Keep.mono (keep_modTime ..) rfl

theorem keep_slewTick (i : TickInput) : Keep 0x42 (slewTick i) := by
  delta slewTick
  refine Keep.bind ?_ fun _ => ?_
  · exact Keep.getS _
  · refine Keep.when' ?_
    refine Keep.ite ?_ ?_
    · dsimp only
      refine Keep.bind ?_ fun _ => ?_
      · exact Keep.mono (keep_setReg ..) rfl
      · refine Keep.when' ?_
        exact Keep.mono (keep_relock ..) rfl
    · exact Keep.mono (keep_modTime ..) rfl

theorem keep_enterHoldover  : Keep 0x42 (enterHoldover ) := by
  delta enterHoldover
  refine Keep.bind ?_ fun _ => ?_
  · exact Keep.mono (keep_setFld ..) rfl
  · refine Keep.bind ?_ fun _ => ?_
    · exact Keep.mono (keep_setFld ..) rfl
    · refine Keep.bind ?_ fun _ => ?_
      · exact Keep.mono (keep_setReg ..) rfl
      · exact Keep.mono (keep_modTime ..) rfl

theorem keep_tickSource (i : TickInput) : Keep 0x42 (tickSource i) := by
  delta tickSource
  refine Keep.bind ?_ fun _ => ?_
  · exact Keep.getS _
  · refine Keep.ite ?_ ?_
    · refine Keep.bind ?_ fun _ => ?_
      · exact Keep.mono (keep_bump ..) rfl
      · refine Keep.bind ?_ fun _ => ?_
        · exact Keep.mono (keep_modTime ..) rfl
        · exact Keep.mono (keep_slewTick ..) rfl
    · refine Keep.when' ?_
      refine Keep.ite ?_ ?_
      · dsimp only
        refine Keep.ite ?_ ?_
        · refine Keep.bind ?_ fun _ => ?_
          · exact Keep.mono (keep_slewTick ..) rfl
          · exact Keep.mono (keep_modTime ..) rfl
        · refine Keep.bind ?_ fun _ => ?_
          · exact Keep.mono (keep_setReg ..) rfl
          · exact Keep.mono (keep_modTime ..) rfl
      · refine Keep.ite ?_ ?_
        · exact Keep.mono (keep_enterHoldover ..) rfl
        · refine Keep.bind ?_ fun _ => ?_
          · exact Keep.mono (keep_flag ..) rfl
          · exact Keep.mono (keep_modTime ..) rfl

theorem keep_tickRecord (code : Nat) : Keep 0x200002 (tickRecord code) := by
  delta tickRecord
  exact Keep.mono (keep_note ..) rfl

theorem keep_holdExceeds  : Keep 0x200042 (holdExceeds ) := by
  delta holdExceeds
  refine Keep.bind ?_ fun _ => ?_
  · exact Keep.getS _
  · refine Keep.when' ?_
    refine Keep.bind ?_ fun _ => ?_
    · exact Keep.mono (keep_flag ..) rfl
    · refine Keep.bind ?_ fun _ => ?_
      · exact Keep.mono (keep_modTime ..) rfl
      · exact Keep.mono (keep_tickRecord ..) rfl

theorem keep_measure (i : TickInput) : Keep 0x10000002 (measure i) := by
  delta measure
  refine Keep.bind ?_ fun _ => ?_
  · exact Keep.getS _
  · refine Keep.bind ?_ fun _ => ?_
    · refine Keep.each fun _ => ?_
      exact Keep.mono (keep_setSensor ..) rfl
    · refine Keep.bind ?_ fun _ => ?_
      · refine Keep.each fun _ => ?_
        exact Keep.mono (keep_setFld ..) rfl
      · refine Keep.bind ?_ fun _ => ?_
        · refine Keep.each fun _ => ?_
          exact Keep.mono (keep_bumpBy ..) rfl
        · refine Keep.bind ?_ fun _ => ?_
          · refine Keep.each fun _ => ?_
            exact Keep.mono (keep_setSensor ..) rfl
          · refine Keep.bind ?_ fun _ => ?_
            · refine Keep.each fun _ => ?_
              exact Keep.mono (keep_setSensor ..) rfl
            · refine Keep.bind ?_ fun _ => ?_
              · refine Keep.each fun _ => ?_
                exact Keep.mono (keep_setReg ..) rfl
              · dsimp only
                split
                · refine Keep.bind ?_ fun _ => ?_
                  · exact Keep.mono (keep_setFld ..) rfl
                  · refine Keep.bind ?_ fun _ => ?_
                    · exact Keep.getS _
                    · exact Keep.mono (keep_modPwr ..) rfl
                · refine Keep.bind ?_ fun _ => ?_
                  · exact Keep.getS _
                  · exact Keep.mono (keep_modPwr ..) rfl

theorem keep_ctxEdge (c : Nat) : Keep 0x2f388f (ctxEdge c) := by
  delta ctxEdge
  refine Keep.bind ?_ fun _ => ?_
  · exact Keep.getS _
  · refine Keep.bind ?_ fun _ => ?_
    · exact Keep.mono (keep_modCtx ..) rfl
    · refine Keep.each fun _ => ?_
      dsimp only
      refine Keep.bind ?_ fun _ => ?_
      · refine Keep.when' ?_
        exact Keep.mono (keep_modRoster ..) rfl
      · refine Keep.when' ?_
        exact Keep.mono (keep_rosterFresh ..) rfl

theorem keep_halveHeat  : Keep 0x40000 (halveHeat ) := by
  delta halveHeat
  refine Keep.bind ?_ fun _ => ?_
  · exact Keep.getS _
  · exact Keep.mono (keep_modWagon ..) rfl

theorem keep_edgeRegs  : Keep 0x2f388f (edgeRegs ) := by
  delta edgeRegs
  refine Keep.bind ?_ fun _ => ?_
  · refine Keep.each fun _ => ?_
    exact Keep.mono (keep_ctxEdge ..) rfl
  · refine Keep.bind ?_ fun _ => ?_
    · exact Keep.getS _
    · refine Keep.bind ?_ fun _ => ?_
      · exact Keep.mono (keep_modWagon ..) rfl
      · refine Keep.bind ?_ fun _ => ?_
        · exact Keep.getS _
        · refine Keep.bind ?_ fun _ => ?_
          · refine Keep.when' ?_
            exact Keep.mono (keep_halveHeat ..) rfl
          · exact Keep.mono (keep_countHeat ..) rfl

theorem keep_openMonitors  : Keep 0x800000 (openMonitors ) := by
  delta openMonitors
  refine Keep.bind ?_ fun _ => ?_
  · exact Keep.getS _
  · refine Keep.each fun _ => ?_
    exact Keep.mono (keep_modPort ..) rfl

theorem keep_deepLate (x : Nat) (a : DeepAcc) : Keep 0x20002 (deepLate x a) := by
  delta deepLate
  refine Keep.bind ?_ fun _ => ?_
  · exact Keep.getS _
  · refine Keep.when' ?_
    refine Keep.bind ?_ fun _ => ?_
    · exact Keep.mono (keep_modDeep ..) rfl
    · refine Keep.bind ?_ fun _ => ?_
      · exact Keep.mono (keep_bump ..) rfl
      · split
        · exact Keep.mono (keep_bump ..) rfl
        · exact Keep.pure _ _

theorem keep_deepTick  : Keep 0x20002 (deepTick ) := by
  delta deepTick
  refine Keep.bind ?_ fun _ => ?_
  · exact Keep.getS _
  · refine Keep.bind ?_ fun _ => ?_
    · refine Keep.each fun _ => ?_
      refine Keep.each fun _ => ?_
      exact Keep.mono (keep_deepLate ..) rfl
    · refine Keep.bind ?_ fun _ => ?_
      · exact Keep.getS _
      · refine Keep.each fun _ => ?_
        split
        · exact Keep.mono (keep_bump ..) rfl
        · exact Keep.pure _ _

theorem keep_fillAgain  : Keep 0x202f389f (fillAgain ) := by
  delta fillAgain
  refine Keep.bind ?_ fun _ => ?_
  · exact Keep.getS _
  · refine Keep.bind ?_ fun _ => ?_
    · refine Keep.when' ?_
      exact Keep.mono (keep_flushRings ..) rfl
    · refine Keep.each fun _ => ?_
      exact Keep.mono (keep_fillCores ..) rfl

theorem keep_powerTrips  : Keep 0x10000000 (powerTrips ) := by
  delta powerTrips
  refine Keep.bind ?_ fun _ => ?_
  · exact Keep.getS _
  · refine Keep.bind ?_ fun _ => ?_
    · exact Keep.mono (keep_modPwr ..) rfl
    · exact Keep.pure _ _

theorem keep_tripEvents  : Keep 0x10000000 (tripEvents ) := by
  delta tripEvents
  refine Keep.bind ?_ fun _ => ?_
  · exact Keep.mono (keep_thermalTrips ..) rfl
  · refine Keep.bind ?_ fun _ => ?_
    · exact Keep.mono (keep_powerTrips ..) rfl
    · refine Keep.bind ?_ fun _ => ?_
      · exact Keep.getS _
      · exact Keep.pure _ _

theorem keep_closeWindow (n : Nat) : Keep 0x802 (closeWindow n) := by
  delta closeWindow
  refine Keep.bind ?_ fun _ => ?_
  · exact Keep.getS _
  · split
    · exact Keep.pure _ _
    · refine Keep.ite ?_ ?_
      · dsimp only
        refine Keep.bind ?_ fun _ => ?_
        · exact Keep.mono (keep_modTask ..) rfl
        · refine Keep.bind ?_ fun _ => ?_
          · exact Keep.mono (keep_setReg ..) rfl
          · exact Keep.pure _ _
      · exact Keep.pure _ _

theorem keep_runTick (n : Nat) : Keep 0x802 (runTick n) := by
  delta runTick
  refine Keep.bind ?_ fun _ => ?_
  · exact Keep.getS _
  · split
    · exact Keep.pure _ _
    · refine Keep.ite ?_ ?_
      · dsimp only
        refine Keep.bind ?_ fun _ => ?_
        · exact Keep.mono (keep_modTask ..) rfl
        · refine Keep.bind ?_ fun _ => ?_
          · exact Keep.mono (keep_setReg ..) rfl
          · refine Keep.bind ?_ fun _ => ?_
            · exact Keep.mono (keep_closeWindow ..) rfl
            · refine Keep.bind ?_ fun _ => ?_
              · refine Keep.when' ?_
                exact Keep.mono (keep_modTask ..) rfl
              · exact Keep.pure _ _
      · exact Keep.pure _ _

theorem keep_hangEvents  : Keep 0x802 (hangEvents ) := by
  delta hangEvents
  refine Keep.bind ?_ fun _ => ?_
  · refine Keep.gather fun _ => ?_
    refine Keep.bind ?_ fun _ => ?_
    · exact Keep.mono (keep_runTick ..) rfl
    · exact Keep.pure _ _
  · refine Keep.bind ?_ fun _ => ?_
    · exact Keep.getS _
    · exact Keep.pure _ _

theorem keep_disarm (s : State) : Keep 0x2 (disarm s) := by
  delta disarm
  refine Keep.bind ?_ fun _ => ?_
  · refine Keep.when' ?_
    exact Keep.mono (keep_setFld ..) rfl
  · refine Keep.bind ?_ fun _ => ?_
    · refine Keep.each fun _ => ?_
      exact Keep.mono (keep_setFld ..) rfl
    · refine Keep.each fun _ => ?_
      exact Keep.mono (keep_setFld ..) rfl

theorem keep_sampleEvents  : Keep 0x100009c2 (sampleEvents ) := by
  delta sampleEvents
  refine Keep.bind ?_ fun _ => ?_
  · exact Keep.mono (keep_tripEvents ..) rfl
  · refine Keep.bind ?_ fun _ => ?_
    · exact Keep.mono (keep_hangEvents ..) rfl
    · refine Keep.bind ?_ fun _ => ?_
      · exact Keep.getS _
      · dsimp only
        refine Keep.bind ?_ fun _ => ?_
        · exact Keep.mono (keep_disarm ..) rfl
        · refine Keep.bind ?_ fun _ => ?_
          · exact Keep.mono (keep_modLatched ..) rfl
          · refine Keep.bind ?_ fun _ => ?_
            · exact Keep.mono (keep_modTime ..) rfl
            · refine Keep.bind ?_ fun _ => ?_
              · exact Keep.mono (keep_modDue ..) rfl
              · refine Keep.each fun _ => ?_
                exact Keep.mono (keep_noteRank ..) rfl

theorem keep_clearDevice  : Keep 0x37863c9c (clearDevice ) := by
  delta clearDevice
  refine Keep.bind ?_ fun _ => ?_
  · exact Keep.getS _
  · refine Keep.bind ?_ fun _ => ?_
    · refine Keep.each fun _ => ?_
      exact Keep.mono (keep_modOx ..) rfl
    · refine Keep.bind ?_ fun _ => ?_
      · refine Keep.each fun _ => ?_
        exact Keep.mono (keep_modCore ..) rfl
      · refine Keep.bind ?_ fun _ => ?_
        · refine Keep.each fun _ => ?_
          exact Keep.mono (keep_modCtx ..) rfl
        · refine Keep.bind ?_ fun _ => ?_
          · refine Keep.each fun _ => ?_
            exact Keep.mono (keep_modPort ..) rfl
          · refine Keep.bind ?_ fun _ => ?_
            · refine Keep.each fun _ => ?_
              exact Keep.mono (keep_modCxl ..) rfl
            · refine Keep.bind ?_ fun _ => ?_
              · refine Keep.each fun _ => ?_
                exact Keep.mono (keep_modStack ..) rfl
              · refine Keep.bind ?_ fun _ => ?_
                · exact Keep.mono (keep_clearMem ..) rfl
                · refine Keep.bind ?_ fun _ => ?_
                  · exact Keep.mono (keep_clearSyn ..) rfl
                  · refine Keep.bind ?_ fun _ => ?_
                    · exact Keep.mono (keep_clearDraw ..) rfl
                    · refine Keep.bind ?_ fun _ => ?_
                      · exact Keep.mono (keep_modWagon ..) rfl
                      · refine Keep.bind ?_ fun _ => ?_
                        · exact Keep.mono (keep_modFab ..) rfl
                        · refine Keep.bind ?_ fun _ => ?_
                          · exact Keep.mono (keep_modSec ..) rfl
                          · refine Keep.bind ?_ fun _ => ?_
                            · exact Keep.mono (keep_cutFlash ..) rfl
                            · refine Keep.bind ?_ fun _ => ?_
                              · exact Keep.mono (keep_modLatched ..) rfl
                              · refine Keep.bind ?_ fun _ => ?_
                                · exact Keep.mono (keep_modPwr ..) rfl
                                · exact Keep.mono (keep_modLink ..) rfl

theorem keep_showDir  : Keep 0x2 (showDir ) := by
  delta showDir
  refine Keep.bind ?_ fun _ => ?_
  · exact Keep.getS _
  · dsimp only
    refine Keep.bind ?_ fun _ => ?_
    · exact Keep.mono (keep_setReg ..) rfl
    · refine Keep.bind ?_ fun _ => ?_
      · exact Keep.mono (keep_setReg ..) rfl
      · refine Keep.bind ?_ fun _ => ?_
        · exact Keep.mono (keep_setReg ..) rfl
        · exact Keep.mono (keep_setReg ..) rfl

theorem keep_modDir (f : Dir → Dir) : Keep 0x4000000 (modDir f) := by
  delta modDir
  refine Keep.bind ?_ fun _ => ?_
  · exact Keep.getS _
  · dsimp only
    exact Keep.mono (keep_modFlash ..) rfl

theorem keep_startFrom (found : StartInput) : Keep 0x2c000042 (startFrom found) := by
  delta startFrom
  refine Keep.bind ?_ fun _ => ?_
  · exact Keep.getS _
  · dsimp only
    refine Keep.bind ?_ fun _ => ?_
    · exact Keep.mono (keep_modChain ..) rfl
    · refine Keep.bind ?_ fun _ => ?_
      · exact Keep.getS _
      · refine Keep.bind ?_ fun _ => ?_
        · exact Keep.mono (keep_modFlash ..) rfl
        · refine Keep.bind ?_ fun _ => ?_
          · exact Keep.mono (keep_resetWhere ..) rfl
          · refine Keep.bind ?_ fun _ => ?_
            · refine Keep.each fun _ => ?_
              exact Keep.mono (keep_setFld ..) rfl
            · refine Keep.bind ?_ fun _ => ?_
              · exact Keep.mono (keep_modTime ..) rfl
              · refine Keep.bind ?_ fun _ => ?_
                · exact Keep.mono (keep_setFld ..) rfl
                · refine Keep.bind ?_ fun _ => ?_
                  · exact Keep.mono (keep_setFld ..) rfl
                  · refine Keep.bind ?_ fun _ => ?_
                    · exact Keep.getS _
                    · split
                      · refine Keep.bind ?_ fun _ => ?_
                        · exact Keep.mono (keep_setFld ..) rfl
                        · exact Keep.mono (keep_showDir ..) rfl
                      · refine Keep.bind ?_ fun _ => ?_
                        · refine Keep.when' ?_
                          refine Keep.bind ?_ fun _ => ?_
                          · exact Keep.mono (keep_modDir ..) rfl
                          · exact Keep.mono (keep_flag ..) rfl
                        · refine Keep.bind ?_ fun _ => ?_
                          · exact Keep.mono (keep_setFld ..) rfl
                          · refine Keep.bind ?_ fun _ => ?_
                            · exact Keep.mono (keep_showDir ..) rfl
                            · refine Keep.bind ?_ fun _ => ?_
                              · exact Keep.mono (keep_setReg ..) rfl
                              · refine Keep.bind ?_ fun _ => ?_
                                · exact Keep.mono (keep_setReg ..) rfl
                                · refine Keep.bind ?_ fun _ => ?_
                                  · exact Keep.mono (keep_setFld ..) rfl
                                  · refine Keep.bind ?_ fun _ => ?_
                                    · exact Keep.mono (keep_modLink ..) rfl
                                    · split
                                      · refine Keep.bind ?_ fun _ => ?_
                                        · exact Keep.mono (keep_setFld ..) rfl
                                        · refine Keep.bind ?_ fun _ => ?_
                                          · exact Keep.getS _
                                          · refine Keep.bind ?_ fun _ => ?_
                                            · refine Keep.when' ?_
                                              exact Keep.mono (keep_modDir ..) rfl
                                            · exact Keep.mono (keep_setFld ..) rfl
                                      · exact Keep.mono (keep_setFld ..) rfl

theorem keep_takeDevice (found : StartInput) : Keep 0x3fcf3ddf (takeDevice found) := by
  delta takeDevice
  refine Keep.bind ?_ fun _ => ?_
  · exact Keep.getS _
  · refine Keep.ite ?_ ?_
    · exact Keep.pure _ _
    · refine Keep.ite ?_ ?_
      · exact Keep.mono (keep_bump ..) rfl
      · refine Keep.bind ?_ fun _ => ?_
        · exact Keep.mono (keep_supersede ..) rfl
        · refine Keep.bind ?_ fun _ => ?_
          · refine Keep.each fun _ => ?_
            exact Keep.mono (keep_endTask ..) rfl
          · refine Keep.bind ?_ fun _ => ?_
            · refine Keep.each fun _ => ?_
              refine Keep.bind ?_ fun _ => ?_
              · exact Keep.getS _
              · refine Keep.each fun _ => ?_
                exact Keep.mono (keep_rosterFinal ..) rfl
            · refine Keep.bind ?_ fun _ => ?_
              · refine Keep.each fun _ => ?_
                exact Keep.mono (keep_completeWhere ..) rfl
              · refine Keep.bind ?_ fun _ => ?_
                · exact Keep.mono (keep_modTime ..) rfl
                · refine Keep.bind ?_ fun _ => ?_
                  · exact Keep.getS _
                  · dsimp only
                    refine Keep.bind ?_ fun _ => ?_
                    · exact Keep.mono (keep_clearDevice ..) rfl
                    · refine Keep.bind ?_ fun _ => ?_
                      · exact Keep.mono (keep_resetWhere ..) rfl
                      · refine Keep.bind ?_ fun _ => ?_
                        · exact Keep.mono (keep_setFld ..) rfl
                        · refine Keep.bind ?_ fun _ => ?_
                          · exact Keep.mono (keep_setReg ..) rfl
                          · refine Keep.bind ?_ fun _ => ?_
                            · exact Keep.mono (keep_modResets ..) rfl
                            · refine Keep.bind ?_ fun _ => ?_
                              · exact Keep.mono (keep_setFld ..) rfl
                              · refine Keep.bind ?_ fun _ => ?_
                                · refine Keep.each fun _ => ?_
                                  exact Keep.mono (keep_setFld ..) rfl
                                · exact Keep.mono (keep_startFrom ..) rfl

theorem keep_takeReset (d : Nat) (u : Nat) : Keep 0x21ff3d9f (takeReset d u) := by
  delta takeReset
  refine Keep.bind ?_ fun _ => ?_
  · exact Keep.getS _
  · refine Keep.ite ?_ ?_
    · exact Keep.mono (keep_flag ..) rfl
    · refine Keep.ite ?_ ?_
      · exact Keep.mono (keep_bump ..) rfl
      · dsimp only
        refine Keep.ite ?_ ?_
        · refine Keep.bind ?_ fun _ => ?_
          · exact Keep.mono (keep_supersede ..) rfl
          · refine Keep.ite ?_ ?_
            · refine Keep.bind ?_ fun _ => ?_
              · refine Keep.each fun _ => ?_
                exact Keep.mono (keep_endTask ..) rfl
              · refine Keep.bind ?_ fun _ => ?_
                · exact Keep.getS _
                · refine Keep.bind ?_ fun _ => ?_
                  · refine Keep.each fun _ => ?_
                    exact Keep.mono (keep_rosterFinal ..) rfl
                  · refine Keep.bind ?_ fun _ => ?_
                    · exact Keep.mono (keep_beginReset ..) rfl
                    · refine Keep.bind ?_ fun _ => ?_
                      · refine Keep.each fun _ => ?_
                        exact Keep.mono (keep_takeFault ..) rfl
                      · refine Keep.ite ?_ ?_
                        · refine Keep.bind ?_ fun _ => ?_
                          · exact Keep.pure _ _
                          · refine Keep.bind ?_ fun _ => ?_
                            · exact Keep.mono (keep_modResets ..) rfl
                            · refine Keep.bind ?_ fun _ => ?_
                              · refine Keep.when' ?_
                                exact Keep.mono (keep_flag ..) rfl
                              · refine Keep.when' ?_
                                refine Keep.each fun _ => ?_
                                exact Keep.mono (keep_faultReset ..) rfl
                        · refine Keep.bind ?_ fun _ => ?_
                          · exact Keep.mono (keep_supersede ..) rfl
                          · refine Keep.bind ?_ fun _ => ?_
                            · exact Keep.mono (keep_modResets ..) rfl
                            · refine Keep.bind ?_ fun _ => ?_
                              · refine Keep.when' ?_
                                exact Keep.mono (keep_flag ..) rfl
                              · refine Keep.when' ?_
                                refine Keep.each fun _ => ?_
                                exact Keep.mono (keep_faultReset ..) rfl
            · refine Keep.bind ?_ fun _ => ?_
              · refine Keep.each fun _ => ?_
                exact Keep.mono (keep_endTask ..) rfl
              · refine Keep.bind ?_ fun _ => ?_
                · exact Keep.mono (keep_beginReset ..) rfl
                · refine Keep.bind ?_ fun _ => ?_
                  · refine Keep.each fun _ => ?_
                    exact Keep.mono (keep_takeFault ..) rfl
                  · refine Keep.ite ?_ ?_
                    · refine Keep.bind ?_ fun _ => ?_
                      · exact Keep.pure _ _
                      · refine Keep.bind ?_ fun _ => ?_
                        · exact Keep.mono (keep_modResets ..) rfl
                        · refine Keep.bind ?_ fun _ => ?_
                          · refine Keep.when' ?_
                            exact Keep.mono (keep_flag ..) rfl
                          · refine Keep.when' ?_
                            refine Keep.each fun _ => ?_
                            exact Keep.mono (keep_faultReset ..) rfl
                    · refine Keep.bind ?_ fun _ => ?_
                      · exact Keep.mono (keep_supersede ..) rfl
                      · refine Keep.bind ?_ fun _ => ?_
                        · exact Keep.mono (keep_modResets ..) rfl
                        · refine Keep.bind ?_ fun _ => ?_
                          · refine Keep.when' ?_
                            exact Keep.mono (keep_flag ..) rfl
                          · refine Keep.when' ?_
                            refine Keep.each fun _ => ?_
                            exact Keep.mono (keep_faultReset ..) rfl
        · refine Keep.bind ?_ fun _ => ?_
          · exact Keep.pure _ _
          · refine Keep.ite ?_ ?_
            · refine Keep.bind ?_ fun _ => ?_
              · refine Keep.each fun _ => ?_
                exact Keep.mono (keep_endTask ..) rfl
              · refine Keep.bind ?_ fun _ => ?_
                · exact Keep.getS _
                · refine Keep.bind ?_ fun _ => ?_
                  · refine Keep.each fun _ => ?_
                    exact Keep.mono (keep_rosterFinal ..) rfl
                  · refine Keep.bind ?_ fun _ => ?_
                    · exact Keep.mono (keep_beginReset ..) rfl
                    · refine Keep.bind ?_ fun _ => ?_
                      · refine Keep.each fun _ => ?_
                        exact Keep.mono (keep_takeFault ..) rfl
                      · refine Keep.ite ?_ ?_
                        · refine Keep.bind ?_ fun _ => ?_
                          · exact Keep.pure _ _
                          · refine Keep.bind ?_ fun _ => ?_
                            · exact Keep.mono (keep_modResets ..) rfl
                            · refine Keep.bind ?_ fun _ => ?_
                              · refine Keep.when' ?_
                                exact Keep.mono (keep_flag ..) rfl
                              · refine Keep.when' ?_
                                refine Keep.each fun _ => ?_
                                exact Keep.mono (keep_faultReset ..) rfl
                        · refine Keep.bind ?_ fun _ => ?_
                          · exact Keep.mono (keep_supersede ..) rfl
                          · refine Keep.bind ?_ fun _ => ?_
                            · exact Keep.mono (keep_modResets ..) rfl
                            · refine Keep.bind ?_ fun _ => ?_
                              · refine Keep.when' ?_
                                exact Keep.mono (keep_flag ..) rfl
                              · refine Keep.when' ?_
                                refine Keep.each fun _ => ?_
                                exact Keep.mono (keep_faultReset ..) rfl
            · refine Keep.bind ?_ fun _ => ?_
              · refine Keep.each fun _ => ?_
                exact Keep.mono (keep_endTask ..) rfl
              · refine Keep.bind ?_ fun _ => ?_
                · exact Keep.mono (keep_beginReset ..) rfl
                · refine Keep.bind ?_ fun _ => ?_
                  · refine Keep.each fun _ => ?_
                    exact Keep.mono (keep_takeFault ..) rfl
                  · refine Keep.ite ?_ ?_
                    · refine Keep.bind ?_ fun _ => ?_
                      · exact Keep.pure _ _
                      · refine Keep.bind ?_ fun _ => ?_
                        · exact Keep.mono (keep_modResets ..) rfl
                        · refine Keep.bind ?_ fun _ => ?_
                          · refine Keep.when' ?_
                            exact Keep.mono (keep_flag ..) rfl
                          · refine Keep.when' ?_
                            refine Keep.each fun _ => ?_
                            exact Keep.mono (keep_faultReset ..) rfl
                    · refine Keep.bind ?_ fun _ => ?_
                      · exact Keep.mono (keep_supersede ..) rfl
                      · refine Keep.bind ?_ fun _ => ?_
                        · exact Keep.mono (keep_modResets ..) rfl
                        · refine Keep.bind ?_ fun _ => ?_
                          · refine Keep.when' ?_
                            exact Keep.mono (keep_flag ..) rfl
                          · refine Keep.when' ?_
                            refine Keep.each fun _ => ?_
                            exact Keep.mono (keep_faultReset ..) rfl

theorem keep_completeTask (n : Nat) : Keep 0xf388f (completeTask n) := by
  delta completeTask
  refine Keep.bind ?_ fun _ => ?_
  · exact Keep.getS _
  · split
    · exact Keep.pure _ _
    · refine Keep.ite ?_ ?_
      · refine Keep.bind ?_ fun _ => ?_
        · exact Keep.mono (keep_fenceOf ..) rfl
        · refine Keep.bind ?_ fun _ => ?_
          · exact Keep.mono (keep_endTask ..) rfl
          · refine Keep.bind ?_ fun _ => ?_
            · exact Keep.mono (keep_bump ..) rfl
            · exact Keep.mono (keep_bump ..) rfl
      · exact Keep.pure _ _

theorem keep_takeHang (n : Nat) (code : Nat) : Keep 0x21ff3d9f (takeHang n code) := by
  delta takeHang
  refine Keep.bind ?_ fun _ => ?_
  · exact Keep.getS _
  · split
    · exact Keep.pure _ _
    · refine Keep.bind ?_ fun _ => ?_
      · exact Keep.mono (keep_bump ..) rfl
      · exact Keep.mono (keep_takeFault ..) rfl

theorem keep_deepFails (x : Nat) (id : Nat) : Keep 0x21ff3ddf (deepFails x id) := by
  delta deepFails
  refine Keep.bind ?_ fun _ => ?_
  · exact Keep.getS _
  · split
    · exact Keep.pure _ _
    · refine Keep.ite ?_ ?_
      · refine Keep.bind ?_ fun _ => ?_
        · exact Keep.mono (keep_noteRank ..) rfl
        · refine Keep.bind ?_ fun _ => ?_
          · exact Keep.mono (keep_modDeep ..) rfl
          · refine Keep.bind ?_ fun _ => ?_
            · exact Keep.mono (keep_bump ..) rfl
            · dsimp only
              split
              · refine Keep.bind ?_ fun _ => ?_
                · exact Keep.mono (keep_bump ..) rfl
                · split
                  · refine Keep.ite ?_ ?_
                    · refine Keep.bind ?_ fun _ => ?_
                      · exact Keep.mono (keep_freeBytes ..) rfl
                      · exact Keep.mono (keep_deepGives ..) rfl
                    · exact Keep.pure _ _
                  · refine Keep.bind ?_ fun _ => ?_
                    · exact Keep.mono (keep_freeBytes ..) rfl
                    · refine Keep.bind ?_ fun _ => ?_
                      · exact Keep.mono (keep_setMem ..) rfl
                      · refine Keep.when' ?_
                        split
                        · exact Keep.mono (keep_takeFault ..) rfl
                        · exact Keep.mono (keep_emit ..) rfl
              · split
                · refine Keep.ite ?_ ?_
                  · refine Keep.bind ?_ fun _ => ?_
                    · exact Keep.mono (keep_freeBytes ..) rfl
                    · exact Keep.mono (keep_deepGives ..) rfl
                  · exact Keep.pure _ _
                · refine Keep.bind ?_ fun _ => ?_
                  · exact Keep.mono (keep_freeBytes ..) rfl
                  · refine Keep.bind ?_ fun _ => ?_
                    · exact Keep.mono (keep_setMem ..) rfl
                    · refine Keep.when' ?_
                      split
                      · exact Keep.mono (keep_takeFault ..) rfl
                      · exact Keep.mono (keep_emit ..) rfl
      · exact Keep.pure _ _

theorem keep_closeRecomp (c : Nat) (q : Nat) : Keep 0x1800 (closeRecomp c q) := by
  delta closeRecomp
  refine Keep.bind ?_ fun _ => ?_
  · exact Keep.mono (keep_rereadRecomp ..) rfl
  · exact Keep.mono (keep_modCtx ..) rfl

theorem keep_recompExpires (c : Nat) (q : Nat) : Keep 0x1942 (recompExpires c q) := by
  delta recompExpires
  refine Keep.bind ?_ fun _ => ?_
  · exact Keep.getS _
  · refine Keep.ite ?_ ?_
    · refine Keep.bind ?_ fun _ => ?_
      · exact Keep.mono (keep_noteRank ..) rfl
      · refine Keep.bind ?_ fun _ => ?_
        · exact Keep.mono (keep_bump ..) rfl
        · refine Keep.bind ?_ fun _ => ?_
          · exact Keep.mono (keep_supersede ..) rfl
          · exact Keep.mono (keep_closeRecomp ..) rfl
    · exact Keep.pure _ _

theorem keep_recompAcked (c : Nat) (q : Nat) : Keep 0xf380f (recompAcked c q) := by
  delta recompAcked
  refine Keep.bind ?_ fun _ => ?_
  · exact Keep.getS _
  · split
    · refine Keep.bind ?_ fun _ => ?_
      · exact Keep.mono (keep_clearLost ..) rfl
      · exact Keep.mono (keep_closeRecomp ..) rfl
    · exact Keep.pure _ _

theorem keep_rsrcExpires (page : Nat) : Keep 0x240942 (rsrcExpires page) := by
  delta rsrcExpires
  refine Keep.bind ?_ fun _ => ?_
  · exact Keep.getS _
  · split
    · exact Keep.pure _ _
    · refine Keep.bind ?_ fun _ => ?_
      · exact Keep.mono (keep_noteRank ..) rfl
      · refine Keep.bind ?_ fun _ => ?_
        · exact Keep.mono (keep_bump ..) rfl
        · refine Keep.bind ?_ fun _ => ?_
          · exact Keep.mono (keep_takeRecord ..) rfl
          · refine Keep.bind ?_ fun _ => ?_
            · exact Keep.mono (keep_supersede ..) rfl
            · refine Keep.bind ?_ fun _ => ?_
              · exact Keep.mono (keep_nameInRecord ..) rfl
              · refine Keep.bind ?_ fun _ => ?_
                · exact Keep.getS _
                · refine Keep.bind ?_ fun _ => ?_
                  · refine Keep.each fun _ => ?_
                    refine Keep.each fun _ => ?_
                    refine Keep.when' ?_
                    exact Keep.mono (keep_modStream ..) rfl
                  · exact Keep.mono (keep_closeRsrc ..) rfl

theorem keep_rsrcCompletes (page : Nat) : Keep 0xf200f (rsrcCompletes page) := by
  delta rsrcCompletes
  refine Keep.bind ?_ fun _ => ?_
  · exact Keep.getS _
  · refine Keep.ite ?_ ?_
    · refine Keep.bind ?_ fun _ => ?_
      · exact Keep.mono (keep_closeRsrc ..) rfl
      · exact Keep.mono (keep_clearLost ..) rfl
    · exact Keep.pure _ _

theorem keep_refuseExpires (n : Nat) (k : Nat) : Keep 0x21ff3d9f (refuseExpires n k) := by
  delta refuseExpires
  refine Keep.bind ?_ fun _ => ?_
  · exact Keep.getS _
  · split
    · exact Keep.pure _ _
    · refine Keep.bind ?_ fun _ => ?_
      · exact Keep.mono (keep_flag ..) rfl
      · refine Keep.ite ?_ ?_
        · exact Keep.mono (keep_modStream ..) rfl
        · exact Keep.mono (keep_takeFault ..) rfl

theorem keep_turnedExpires (st : Nat) (req : Nat) (line : Nat) (write : Bool) : Keep 0x21ff3d9f (turnedExpires st req line write) := by
  delta turnedExpires
  refine Keep.bind ?_ fun _ => ?_
  · exact Keep.getS _
  · split
    · exact Keep.pure _ _
    · refine Keep.ite ?_ ?_
      · refine Keep.bind ?_ fun _ => ?_
        · exact Keep.mono (keep_flag ..) rfl
        · refine Keep.bind ?_ fun _ => ?_
          · exact Keep.mono (keep_modStack ..) rfl
          · split
            · refine Keep.when' ?_
              exact Keep.mono (keep_takeFault ..) rfl
            · exact Keep.pure _ _
      · exact Keep.pure _ _

theorem keep_saveTimesOut (c : Nat) : Keep 0x21ff3ddf (saveTimesOut c) := by
  delta saveTimesOut
  refine Keep.bind ?_ fun _ => ?_
  · exact Keep.getS _
  · split
    · refine Keep.bind ?_ fun _ => ?_
      · exact Keep.mono (keep_noteRank ..) rfl
      · exact Keep.mono (keep_takeFault ..) rfl
    · exact Keep.pure _ _

theorem keep_imageExpires (n : Nat) (k : Nat) (i : Nat) : Keep 0x21ff3d9f (imageExpires n k i) := by
  delta imageExpires
  refine Keep.bind ?_ fun _ => ?_
  · exact Keep.getS _
  · split
    · refine keep_faultsNow (hs := rfl) (h := ?_) ..
      exact Keep.mono (keep_offerExpired ..) rfl
    · exact Keep.pure _ _

theorem keep_xferTimeout (idx : Nat) : Keep 0x10f200f (xferTimeout idx) := by
  delta xferTimeout
  refine Keep.bind ?_ fun _ => ?_
  · exact Keep.getS _
  · split
    · exact Keep.mono (keep_xferExpired ..) rfl
    · exact Keep.pure _ _

theorem keep_endMove (m : Move) : Keep 0x42000 (endMove m) := by
  delta endMove
  refine Keep.bind ?_ fun _ => ?_
  · exact Keep.getS _
  · dsimp only
    refine Keep.bind ?_ fun _ => ?_
    · exact Keep.mono (keep_modWagon ..) rfl
    · exact Keep.mono (keep_modStack ..) rfl

theorem keep_moveFails (m : Move) : Keep 0x42002 (moveFails m) := by
  delta moveFails
  refine Keep.bind ?_ fun _ => ?_
  · exact Keep.getS _
  · refine Keep.bind ?_ fun _ => ?_
    · exact Keep.mono (keep_bump ..) rfl
    · refine Keep.bind ?_ fun _ => ?_
      · exact Keep.mono (keep_endMove ..) rfl
      · refine Keep.bind ?_ fun _ => ?_
        · exact Keep.mono (keep_flag ..) rfl
        · exact Keep.mono (keep_bump ..) rfl

theorem keep_enterDisabled  : Keep 0x2 (enterDisabled ) := by
  delta enterDisabled
  exact Keep.mono (keep_setFld ..) rfl

theorem keep_bumpPorts (f : Nat → Fld) (k : Nat) : Keep 0x2 (bumpPorts f k) := by
  delta bumpPorts
  refine Keep.bind ?_ fun _ => ?_
  · exact Keep.getS _
  · dsimp only
    refine Keep.each fun _ => ?_
    exact Keep.mono (keep_bumpBy ..) rfl

theorem keep_copyUp (d : Nat) (st : Nat) (dst : Nat) : Keep 0xa200f (copyUp d st dst) := by
  delta copyUp
  refine Keep.bind ?_ fun _ => ?_
  · exact Keep.getS _
  · dsimp only
    refine Keep.bind ?_ fun _ => ?_
    · exact Keep.mono (keep_modStack ..) rfl
    · refine Keep.bind ?_ fun _ => ?_
      · refine Keep.each fun _ => ?_
        exact Keep.mono (keep_copyMem ..) rfl
      · refine Keep.bind ?_ fun _ => ?_
        · exact Keep.mono (keep_clearSyn ..) rfl
        · refine Keep.bind ?_ fun _ => ?_
          · exact Keep.mono (keep_bumpPorts ..) rfl
          · refine Keep.bind ?_ fun _ => ?_
            · exact Keep.mono (keep_bumpBy ..) rfl
            · refine Keep.each fun _ => ?_
              refine Keep.bind ?_ fun _ => ?_
              · exact Keep.mono (keep_readDeepLine ..) rfl
              · split
                · exact Keep.mono (keep_writeStored ..) rfl
                · exact Keep.mono (keep_writeStored ..) rfl
                · exact Keep.pure _ _

theorem keep_clearDeepMarks (d : Nat) : Keep 0x8 (clearDeepMarks d) := by
  delta clearDeepMarks
  refine Keep.bind ?_ fun _ => ?_
  · exact Keep.getS _
  · dsimp only
    exact Keep.mono (keep_clearSyn ..) rfl

theorem keep_copyDown (d : Nat) (st : Nat) (src : Nat) : Keep 0xa200f (copyDown d st src) := by
  delta copyDown
  refine Keep.bind ?_ fun _ => ?_
  · exact Keep.mono (keep_completeWhere ..) rfl
  · refine Keep.bind ?_ fun _ => ?_
    · exact Keep.getS _
    · dsimp only
      refine Keep.bind ?_ fun _ => ?_
      · refine Keep.each fun _ => ?_
        exact Keep.mono (keep_copyMem ..) rfl
      · refine Keep.bind ?_ fun _ => ?_
        · exact Keep.mono (keep_clearDeepMarks ..) rfl
        · refine Keep.bind ?_ fun _ => ?_
          · exact Keep.mono (keep_bumpBy ..) rfl
          · refine Keep.bind ?_ fun _ => ?_
            · exact Keep.mono (keep_bumpPorts ..) rfl
            · refine Keep.each fun _ => ?_
              refine Keep.bind ?_ fun _ => ?_
              · exact Keep.mono (keep_readStored ..) rfl
              · refine Keep.bind ?_ fun _ => ?_
                · exact Keep.mono (keep_lineData ..) rfl
                · refine Keep.bind ?_ fun _ => ?_
                  · exact Keep.mono (keep_writeDeepLine ..) rfl
                  · exact Keep.pure _ _

theorem keep_moveCopies (m : Move) (st : Nat) (a : Nat) : Keep 0xf204f (moveCopies m st a) := by
  delta moveCopies
  refine Keep.bind ?_ fun _ => ?_
  · exact Keep.getS _
  · dsimp only
    refine Keep.ite ?_ ?_
    · refine Keep.bind ?_ fun _ => ?_
      · exact Keep.mono (keep_copyUp ..) rfl
      · refine Keep.bind ?_ fun _ => ?_
        · exact Keep.mono (keep_writeDir ..) rfl
        · refine Keep.bind ?_ fun _ => ?_
          · exact Keep.mono (keep_writeDir ..) rfl
          · refine Keep.bind ?_ fun _ => ?_
            · exact Keep.mono (keep_endMove ..) rfl
            · refine Keep.bind ?_ fun _ => ?_
              · exact Keep.mono (keep_bump ..) rfl
              · refine Keep.bind ?_ fun _ => ?_
                · exact Keep.mono (keep_bumpBy ..) rfl
                · refine Keep.bind ?_ fun _ => ?_
                  · exact Keep.mono (keep_noteRank ..) rfl
                  · refine Keep.bind ?_ fun _ => ?_
                    · exact Keep.getS _
                    · refine Keep.when' ?_
                      exact Keep.mono (keep_enterDisabled ..) rfl
    · refine Keep.bind ?_ fun _ => ?_
      · exact Keep.mono (keep_copyDown ..) rfl
      · refine Keep.bind ?_ fun _ => ?_
        · exact Keep.mono (keep_writeDir ..) rfl
        · refine Keep.bind ?_ fun _ => ?_
          · exact Keep.mono (keep_writeDir ..) rfl
          · refine Keep.bind ?_ fun _ => ?_
            · exact Keep.mono (keep_endMove ..) rfl
            · refine Keep.bind ?_ fun _ => ?_
              · exact Keep.mono (keep_bump ..) rfl
              · refine Keep.bind ?_ fun _ => ?_
                · exact Keep.mono (keep_bumpBy ..) rfl
                · refine Keep.bind ?_ fun _ => ?_
                  · exact Keep.mono (keep_noteRank ..) rfl
                  · refine Keep.bind ?_ fun _ => ?_
                    · exact Keep.getS _
                    · refine Keep.when' ?_
                      exact Keep.mono (keep_enterDisabled ..) rfl

theorem keep_moveDone (m : Move) : Keep 0xf204f (moveDone m) := by
  delta moveDone
  refine Keep.bind ?_ fun _ => ?_
  · exact Keep.getS _
  · dsimp only
    refine Keep.ite ?_ ?_
    · split
      · refine Keep.ite ?_ ?_
        · exact Keep.mono (keep_moveFails ..) rfl
        · exact Keep.pure _ _
      · refine Keep.ite ?_ ?_
        · exact Keep.mono (keep_moveFails ..) rfl
        · exact Keep.mono (keep_moveCopies ..) rfl
    · exact Keep.pure _ _

theorem keep_moveCompletes (page : Nat) (errs : List LineErr) : Keep 0xf224f (moveCompletes page errs) := by
  delta moveCompletes
  refine keep_withErrs (hs := rfl) (h := ?_) ..
  refine Keep.bind ?_ fun _ => ?_
  · exact Keep.getS _
  · split
    · exact Keep.mono (keep_moveDone ..) rfl
    · exact Keep.pure _ _

theorem keep_takeStreams (n : Nat) (a : CtxAcc) (x1 : List Nat) : Keep 0x2f280f (takeStreams n a x1) := by
  induction x1 with
  | nil =>
    unfold takeStreams
    exact Keep.pure _ _
  | cons _ _ ih =>
    unfold takeStreams
    refine Keep.bind ?_ fun _ => ?_
    · exact Keep.getS _
    · dsimp only
      refine Keep.bind ?_ fun _ => ?_
      · refine Keep.ite ?_ ?_
        · exact Keep.pure _ _
        · refine Keep.bind ?_ fun _ => ?_
          · exact Keep.mono (keep_ctxRead ..) rfl
          · split
            · exact Keep.pure _ _
            · exact Keep.pure _ _
      · split
        · exact Keep.pure _ _
        · refine Keep.bind ?_ fun _ => ?_
          · exact ih
          · split
            · exact Keep.pure _ _
            · exact Keep.pure _ _

theorem keep_takeTask (c : Nat) (saved : Nat) (x : SlotHdr) (op : SaveOp) (begun : Bool) : Keep 0x2f280f (takeTask c saved x op begun) := by
  delta takeTask
  refine Keep.bind ?_ fun _ => ?_
  · exact Keep.getS _
  · refine Keep.bind ?_ fun _ => ?_
    · exact Keep.mono (keep_ctxRead ..) rfl
    · split
      · exact Keep.pure _ _
      · dsimp only
        exact Keep.pure _ _

theorem keep_readCore (n : Nat) (c : Nat) (saved : Nat) (x : SlotHdr) (op : SaveOp) : Keep 0x2f280f (readCore n c saved x op) := by
  delta readCore
  refine Keep.bind ?_ fun _ => ?_
  · exact Keep.getS _
  · refine Keep.bind ?_ fun _ => ?_
    · exact Keep.mono (keep_takeStreams ..) rfl
    · split
      · exact Keep.pure _ _
      · refine Keep.ite ?_ ?_
        · refine Keep.bind ?_ fun _ => ?_
          · exact Keep.mono (keep_takeTask ..) rfl
          · split
            · exact Keep.pure _ _
            · exact Keep.pure _ _
        · exact Keep.pure _ _

theorem keep_readCores (c : Nat) (h : List Byte) (op : SaveOp) (x1 : List (Nat × Nat)) : Keep 0x2f280f (readCores c h op x1) := by
  induction x1 with
  | nil =>
    unfold readCores
    exact Keep.pure _ _
  | cons _ _ ih =>
    unfold readCores
    refine Keep.bind ?_ fun _ => ?_
    · exact Keep.mono (keep_readCore ..) rfl
    · split
      · exact Keep.pure _ _
      · refine Keep.bind ?_ fun _ => ?_
        · exact ih
        · split
          · exact Keep.pure _ _
          · exact Keep.pure _ _

theorem keep_restoreCompletes (c : Nat) : Keep 0x203f3cdf (restoreCompletes c) := by
  delta restoreCompletes
  refine Keep.bind ?_ fun _ => ?_
  · exact Keep.getS _
  · refine Keep.ite ?_ ?_
    · refine Keep.bind ?_ fun _ => ?_
      · exact Keep.mono (keep_fillCores ..) rfl
      · refine Keep.bind ?_ fun _ => ?_
        · exact Keep.getS _
        · split
          · exact Keep.pure _ _
          · refine Keep.ite ?_ ?_
            · refine Keep.bind ?_ fun _ => ?_
              · exact Keep.mono (keep_readHeader ..) rfl
              · split
                · exact Keep.mono (keep_faultFor ..) rfl
                · refine Keep.bind ?_ fun _ => ?_
                  · exact Keep.mono (keep_readCores ..) rfl
                  · split
                    · exact Keep.mono (keep_faultFor ..) rfl
                    · refine Keep.bind ?_ fun _ => ?_
                      · refine Keep.each fun _ => ?_
                        exact Keep.mono (keep_resumeCore ..) rfl
                      · dsimp only
                        refine Keep.bind ?_ fun _ => ?_
                        · refine Keep.each fun _ => ?_
                          exact Keep.mono (keep_setReg ..) rfl
                        · refine Keep.bind ?_ fun _ => ?_
                          · exact Keep.mono (keep_modCtx ..) rfl
                          · refine Keep.bind ?_ fun _ => ?_
                            · exact Keep.mono (keep_unready ..) rfl
                            · refine Keep.bind ?_ fun _ => ?_
                              · exact Keep.mono (keep_setFld ..) rfl
                              · refine Keep.bind ?_ fun _ => ?_
                                · exact Keep.mono (keep_setReg ..) rfl
                                · exact Keep.mono (keep_noteRank ..) rfl
            · exact Keep.pure _ _
    · exact Keep.pure _ _

theorem keep_escalateReset (d : Nat) (u : Nat) : Keep 0x21ff3d9f (escalateReset d u) := by
  delta escalateReset
  refine Keep.bind ?_ fun _ => ?_
  · exact Keep.getS _
  · split
    · exact Keep.pure _ _
    · refine Keep.when' ?_
      refine Keep.bind ?_ fun _ => ?_
      · exact Keep.mono (keep_note ..) rfl
      · refine Keep.bind ?_ fun _ => ?_
        · exact Keep.mono (keep_bump ..) rfl
        · refine Keep.bind ?_ fun _ => ?_
          · exact Keep.mono (keep_flag ..) rfl
          · refine Keep.each fun _ => ?_
            refine Keep.ite ?_ ?_
            · exact Keep.mono (keep_requestReset ..) rfl
            · exact Keep.mono (keep_takeReset ..) rfl

theorem keep_genSwitchNow (c : Nat) : Keep 0x42 (genSwitchNow c) := by
  delta genSwitchNow
  refine Keep.bind ?_ fun _ => ?_
  · exact Keep.mono (keep_noteRank ..) rfl
  · refine Keep.bind ?_ fun _ => ?_
    · exact Keep.mono (keep_setFld ..) rfl
    · refine Keep.bind ?_ fun _ => ?_
      · exact Keep.getS _
      · dsimp only
        refine Keep.ite ?_ ?_
        · refine Keep.bind ?_ fun _ => ?_
          · refine Keep.when' ?_
            exact Keep.mono (keep_setFld ..) rfl
          · refine Keep.bind ?_ fun _ => ?_
            · exact Keep.mono (keep_setFld ..) rfl
            · refine Keep.bind ?_ fun _ => ?_
              · exact Keep.mono (keep_setFld ..) rfl
              · exact Keep.mono (keep_setFld ..) rfl
        · refine Keep.when' ?_
          exact Keep.mono (keep_flag ..) rfl

theorem keep_activateFw  : Keep 0x4000002 (activateFw ) := by
  delta activateFw
  refine Keep.bind ?_ fun _ => ?_
  · exact Keep.getS _
  · dsimp only
    refine Keep.bind ?_ fun _ => ?_
    · exact Keep.mono (keep_modDir ..) rfl
    · exact Keep.mono (keep_showDir ..) rfl

theorem keep_firmwareActs  : Keep 0x4000842 (firmwareActs ) := by
  delta firmwareActs
  refine Keep.bind ?_ fun _ => ?_
  · exact Keep.getS _
  · refine Keep.ite ?_ ?_
    · refine Keep.bind ?_ fun _ => ?_
      · exact Keep.mono (keep_noteRank ..) rfl
      · refine Keep.bind ?_ fun _ => ?_
        · exact Keep.mono (keep_activateFw ..) rfl
        · refine Keep.each fun _ => ?_
          exact Keep.mono (keep_modCore ..) rfl
    · exact Keep.pure _ _

theorem keep_takeEv (start : StartInput) (e : Ev) : Keep 0x3fff3fdf (takeEv start e) := by
  delta takeEv
  split
  · exact Keep.mono (keep_takeTrip ..) rfl
  · refine Keep.ite ?_ ?_
    · exact Keep.mono (keep_takeDevice ..) rfl
    · exact Keep.mono (keep_takeReset ..) rfl
  · exact Keep.mono (keep_takeFault ..) rfl
  · exact Keep.mono (keep_takeFault ..) rfl
  · exact Keep.mono (keep_completeTask ..) rfl
  · exact Keep.mono (keep_takeHang ..) rfl
  · exact Keep.mono (keep_deepFails ..) rfl
  · exact Keep.mono (keep_recompExpires ..) rfl
  · exact Keep.mono (keep_recompAcked ..) rfl
  · exact Keep.mono (keep_rsrcExpires ..) rfl
  · exact Keep.mono (keep_rsrcCompletes ..) rfl
  · exact Keep.mono (keep_refuseExpires ..) rfl
  · exact Keep.mono (keep_turnedExpires ..) rfl
  · exact Keep.mono (keep_saveTimesOut ..) rfl
  · exact Keep.mono (keep_imageExpires ..) rfl
  · exact Keep.mono (keep_xferTimeout ..) rfl
  · refine Keep.bind ?_ fun _ => ?_
    · exact Keep.getS _
    · refine Keep.when' ?_
      exact Keep.mono (keep_portDown ..) rfl
  · exact Keep.mono (keep_moveCompletes ..) rfl
  · exact Keep.mono (keep_saveCompletes ..) rfl
  · exact Keep.mono (keep_restoreCompletes ..) rfl
  · exact Keep.mono (keep_escalateReset ..) rfl
  · exact Keep.mono (keep_ctxCommand ..) rfl
  · exact Keep.mono (keep_routeSwitchNow ..) rfl
  · exact Keep.mono (keep_genSwitchNow ..) rfl
  · exact Keep.mono (keep_firmwareActs ..) rfl

theorem keep_drainDue (start : StartInput) (x1 : Nat) : Keep 0x3fff3fdf (drainDue start x1) := by
  induction x1 with
  | zero =>
    unfold drainDue
    exact Keep.pure _ _
  | succ _ ih =>
    unfold drainDue
    refine Keep.bind ?_ fun _ => ?_
    · exact Keep.getS _
    · split
      · exact Keep.pure _ _
      · refine Keep.bind ?_ fun _ => ?_
        · exact Keep.mono (keep_modDue ..) rfl
        · refine Keep.bind ?_ fun _ => ?_
          · exact Keep.mono (keep_takeEv ..) rfl
          · exact ih

theorem keep_retireSlots  : Keep 0x2 (retireSlots ) := by
  delta retireSlots
  refine Keep.each fun _ => ?_
  refine Keep.each fun _ => ?_
  refine Keep.bind ?_ fun _ => ?_
  · exact Keep.getS _
  · refine Keep.when' ?_
    refine Keep.bind ?_ fun _ => ?_
    · exact Keep.mono (keep_setFld ..) rfl
    · exact Keep.mono (keep_flag ..) rfl

theorem keep_dropAbsent (st : Nat) : Keep 0x12082 (dropAbsent st) := by
  delta dropAbsent
  refine Keep.bind ?_ fun _ => ?_
  · exact Keep.getS _
  · refine Keep.each fun _ => ?_
    split
    · refine Keep.bind ?_ fun _ => ?_
      · exact Keep.mono (keep_modStack ..) rfl
      · refine Keep.bind ?_ fun _ => ?_
        · exact Keep.mono (keep_noteSlots ..) rfl
        · exact Keep.mono (keep_notPerformed ..) rfl
    · exact Keep.pure _ _

theorem keep_serveWindow (st : Nat) (pc : Nat) (x1 : Nat) (x2 : List Nat) : Keep 0x1200f (serveWindow st pc x1 x2) := by
  induction x1 generalizing x2 with
  | zero =>
    unfold serveWindow
    exact Keep.pure _ _
  | succ _ ih =>
    unfold serveWindow
    refine Keep.bind ?_ fun _ => ?_
    · exact Keep.getS _
    · split
      · refine Keep.bind ?_ fun _ => ?_
        · exact Keep.mono (keep_serveReq ..) rfl
        · exact ih ..
      · exact Keep.pure _ _

theorem keep_openWindow (st : Nat) (pc : Nat) : Keep 0x5208f (openWindow st pc) := by
  delta openWindow
  refine Keep.bind ?_ fun _ => ?_
  · exact Keep.mono (keep_modStack ..) rfl
  · refine Keep.bind ?_ fun _ => ?_
    · exact Keep.mono (keep_dropAbsent ..) rfl
    · refine Keep.bind ?_ fun _ => ?_
      · exact Keep.getS _
      · refine Keep.bind ?_ fun _ => ?_
        · exact Keep.mono (keep_serveWindow ..) rfl
        · exact Keep.mono (keep_offerWaits ..) rfl

theorem keep_tickWindows  : Keep 0x5208f (tickWindows ) := by
  delta tickWindows
  refine Keep.bind ?_ fun _ => ?_
  · exact Keep.getS _
  · refine Keep.each fun _ => ?_
    refine Keep.each fun _ => ?_
    exact Keep.mono (keep_openWindow ..) rfl

end Sys2Proof.Machine
end

