-- ==== Sys2Proof/Laws/KeepsC.lean ====
section
/-!
SUPPORT. Laws/KeepsC.lean: the fields that each shared operation may change, one lemma each.
-/

namespace Sys2Proof.Machine

theorem keep_deepNamed (q : DeepWait) (off : Nat) (lost : Bool) (leaf1 : Bool) : Keep 0xb008f (deepNamed q off lost leaf1) := by
  delta deepNamed
  refine Keep.bind ?_ fun _ => ?_
  · exact Keep.getS _
  · dsimp only
    refine Keep.ite ?_ ?_
    · exact Keep.mono (keep_deepServe ..) rfl
    · exact Keep.mono (keep_deepOut ..) rfl

theorem keep_deepWaitsFor (q : DeepWait) (again : Bool) : Keep 0x40002 (deepWaitsFor q again) := by
  delta deepWaitsFor
  refine Keep.bind ?_ fun _ => ?_
  · exact Keep.mono (keep_modWagon ..) rfl
  · split
    · refine Keep.when' ?_
      exact Keep.mono (keep_bump ..) rfl
    · exact Keep.pure _ _

theorem keep_deepDir (q : DeepWait) (d : Nat) : Keep 0xf208f (deepDir q d) := by
  delta deepDir
  refine Keep.bind ?_ fun _ => ?_
  · exact Keep.getS _
  · split
    · refine Keep.bind ?_ fun _ => ?_
      · exact Keep.mono (keep_dirGate ..) rfl
      · split
        · exact Keep.pure _ _
        · refine Keep.bind ?_ fun _ => ?_
          · exact Keep.mono (keep_deepLine ..) rfl
          · exact Keep.pure _ _
    · refine Keep.ite ?_ ?_
      · exact Keep.pure _ _
      · dsimp only
        refine Keep.bind ?_ fun _ => ?_
        · exact Keep.mono (keep_walkRead ..) rfl
        · split
          · exact Keep.pure _ _
          · refine Keep.bind ?_ fun _ => ?_
            · exact Keep.mono (keep_heldAnswer ..) rfl
            · exact Keep.pure _ _
          · refine Keep.bind ?_ fun _ => ?_
            · exact Keep.mono (keep_faultFor ..) rfl
            · refine Keep.bind ?_ fun _ => ?_
              · exact Keep.mono (keep_emit ..) rfl
              · exact Keep.pure _ _

theorem keep_deepFollow (q : DeepWait) (off : Nat) (again : Bool) : Keep 0xf208f (deepFollow q off again) := by
  delta deepFollow
  refine Keep.bind ?_ fun _ => ?_
  · exact Keep.getS _
  · refine Keep.ite ?_ ?_
    · exact Keep.mono (keep_deepNamed ..) rfl
    · refine Keep.ite ?_ ?_
      · exact Keep.mono (keep_deepWaitsFor ..) rfl
      · refine Keep.bind ?_ fun _ => ?_
        · exact Keep.mono (keep_deepDir ..) rfl
        · refine Keep.ite ?_ ?_
          · refine Keep.bind ?_ fun _ => ?_
            · exact Keep.getS _
            · split
              · exact Keep.mono (keep_deepWaitsFor ..) rfl
              · refine Keep.bind ?_ fun _ => ?_
                · refine Keep.when' ?_
                  exact Keep.mono (keep_addHeat ..) rfl
                · exact Keep.mono (keep_deepNamed ..) rfl
              · split
                · refine Keep.bind ?_ fun _ => ?_
                  · exact Keep.mono (keep_writeHbm ..) rfl
                  · refine Keep.bind ?_ fun _ => ?_
                    · refine Keep.when' ?_
                      exact Keep.mono (keep_addHeat ..) rfl
                    · exact Keep.mono (keep_deepWrote ..) rfl
                · refine Keep.bind ?_ fun _ => ?_
                  · exact Keep.mono (keep_readHbm ..) rfl
                  · refine Keep.bind ?_ fun _ => ?_
                    · refine Keep.when' ?_
                      exact Keep.mono (keep_addHeat ..) rfl
                    · exact Keep.mono (keep_deepLine ..) rfl
          · exact Keep.pure _ _

theorem keep_deepAccess (q : DeepWait) (again : Bool) : Keep 0xf208f (deepAccess q again) := by
  delta deepAccess
  refine Keep.bind ?_ fun _ => ?_
  · exact Keep.getS _
  · dsimp only
    split
    · refine Keep.ite ?_ ?_
      · split
        · refine Keep.bind ?_ fun _ => ?_
          · exact Keep.mono (keep_faultCtxAs ..) rfl
          · exact Keep.mono (keep_emit ..) rfl
        · exact Keep.mono (keep_notPerformed ..) rfl
      · exact Keep.mono (keep_deepFollow ..) rfl
    · split
      · refine Keep.bind ?_ fun _ => ?_
        · exact Keep.mono (keep_faultCtxAs ..) rfl
        · exact Keep.mono (keep_emit ..) rfl
      · exact Keep.mono (keep_notPerformed ..) rfl
    · exact Keep.pure _ _

theorem keep_deepRetry  : Keep 0xf208f (deepRetry ) := by
  delta deepRetry
  refine Keep.bind ?_ fun _ => ?_
  · exact Keep.getS _
  · dsimp only
    refine Keep.when' ?_
    refine Keep.bind ?_ fun _ => ?_
    · exact Keep.mono (keep_modWagon ..) rfl
    · refine Keep.each fun _ => ?_
      exact Keep.mono (keep_deepAccess ..) rfl

theorem keep_drainTick  : Keep 0x2 (drainTick ) := by
  delta drainTick
  refine Keep.bind ?_ fun _ => ?_
  · exact Keep.getS _
  · refine Keep.ite ?_ ?_
    · exact Keep.mono (keep_setFld ..) rfl
    · refine Keep.when' ?_
      exact Keep.mono (keep_enterDisabled ..) rfl

theorem keep_hintPage (ctx : Option (Nat × Nat)) (page : Nat) : Keep 0xf280f (hintPage ctx page) := by
  delta hintPage
  dsimp only
  split
  · refine Keep.bind ?_ fun _ => ?_
    · exact Keep.getS _
    · exact Keep.pure _ _
  · refine Keep.bind ?_ fun _ => ?_
    · exact Keep.getS _
    · refine Keep.bind ?_ fun _ => ?_
      · exact Keep.mono (keep_translate ..) rfl
      · split
        · exact Keep.pure _ _
        · exact Keep.pure _ _
        · exact Keep.pure _ _

theorem keep_prepHint (h : Hint) : Keep 0xf280f (prepHint h) := by
  delta prepHint
  refine Keep.bind ?_ fun _ => ?_
  · refine Keep.gather fun _ => ?_
    exact Keep.mono (keep_hintPage ..) rfl
  · refine Keep.ite ?_ ?_
    · exact Keep.pure _ _
    · refine Keep.ite ?_ ?_
      · exact Keep.pure _ _
      · dsimp only
        refine Keep.bind ?_ fun _ => ?_
        · exact Keep.mono (keep_bumpBy ..) rfl
        · exact Keep.pure _ _

theorem keep_setPinned (d : Nat) (p : Bool) : Keep 0xf200f (setPinned d p) := by
  delta setPinned
  refine Keep.bind ?_ fun _ => ?_
  · exact Keep.getS _
  · dsimp only
    refine Keep.when' ?_
    exact Keep.mono (keep_writeDir ..) rfl

theorem keep_judgePage (promos : List Nat) (op : Nat) (d : Nat) : Keep 0xf200f (judgePage promos op d) := by
  delta judgePage
  refine Keep.bind ?_ fun _ => ?_
  · exact Keep.getS _
  · dsimp only
    refine Keep.ite ?_ ?_
    · refine Keep.bind ?_ fun _ => ?_
      · exact Keep.mono (keep_bump ..) rfl
      · exact Keep.pure _ _
    · refine Keep.ite ?_ ?_
      · refine Keep.bind ?_ fun _ => ?_
        · exact Keep.mono (keep_modWagon ..) rfl
        · exact Keep.pure _ _
      · refine Keep.ite ?_ ?_
        · refine Keep.bind ?_ fun _ => ?_
          · exact Keep.mono (keep_setPinned ..) rfl
          · exact Keep.pure _ _
        · refine Keep.ite ?_ ?_
          · refine Keep.ite ?_ ?_
            · refine Keep.bind ?_ fun _ => ?_
              · exact Keep.mono (keep_bump ..) rfl
              · exact Keep.pure _ _
            · refine Keep.ite ?_ ?_
              · exact Keep.pure _ _
              · refine Keep.ite ?_ ?_
                · refine Keep.bind ?_ fun _ => ?_
                  · exact Keep.mono (keep_grantMove ..) rfl
                  · exact Keep.pure _ _
                · exact Keep.pure _ _
          · refine Keep.ite ?_ ?_
            · refine Keep.bind ?_ fun _ => ?_
              · refine Keep.when' ?_
                exact Keep.mono (keep_setPinned ..) rfl
              · exact Keep.pure _ _
            · refine Keep.ite ?_ ?_
              · refine Keep.bind ?_ fun _ => ?_
                · exact Keep.mono (keep_bump ..) rfl
                · exact Keep.pure _ _
              · split
                · refine Keep.ite ?_ ?_
                  · refine Keep.bind ?_ fun _ => ?_
                    · exact Keep.mono (keep_grantMove ..) rfl
                    · exact Keep.pure _ _
                  · exact Keep.pure _ _
                · exact Keep.pure _ _

theorem keep_judgeHeld (promos : List Nat) (l : List HeldReq) : Keep 0xf200f (judgeHeld promos l) := by
  delta judgeHeld
  refine Keep.each fun _ => ?_
  refine Keep.bind ?_ fun _ => ?_
  · exact Keep.mono (keep_judgePage ..) rfl
  · refine Keep.ite ?_ ?_
    · exact Keep.mono (keep_modWagon ..) rfl
    · exact Keep.pure _ _

theorem keep_judgePages (promos : List Nat) (op : Nat) (x1 : List Nat) : Keep 0xf200f (judgePages promos op x1) := by
  induction x1 with
  | nil =>
    unfold judgePages
    exact Keep.pure _ _
  | cons _ _ ih =>
    unfold judgePages
    refine Keep.bind ?_ fun _ => ?_
    · exact Keep.mono (keep_judgePage ..) rfl
    · refine Keep.bind ?_ fun _ => ?_
      · exact ih
      · exact Keep.pure _ _

theorem keep_judgeHints (promos : List Nat) (x1 : List Hint) : Keep 0xf200f (judgeHints promos x1) := by
  induction x1 with
  | nil =>
    unfold judgeHints
    exact Keep.mono (keep_modWagon ..) rfl
  | cons _ _ ih =>
    unfold judgeHints
    refine Keep.ite ?_ ?_
    · exact Keep.mono (keep_modWagon ..) rfl
    · refine Keep.bind ?_ fun _ => ?_
      · exact Keep.mono (keep_judgePages ..) rfl
      · split
        · exact ih
        · exact Keep.mono (keep_modWagon ..) rfl

theorem keep_grantEvicts (promos : List Nat) (x1 : List (Nat × Nat)) : Keep 0x40002 (grantEvicts promos x1) := by
  induction x1 with
  | nil =>
    unfold grantEvicts
    exact Keep.pure _ _
  | cons _ _ ih =>
    unfold grantEvicts
    refine Keep.bind ?_ fun _ => ?_
    · exact Keep.getS _
    · dsimp only
      refine Keep.ite ?_ ?_
      · refine Keep.bind ?_ fun _ => ?_
        · exact Keep.mono (keep_bump ..) rfl
        · exact ih
      · refine Keep.bind ?_ fun _ => ?_
        · refine Keep.when' ?_
          exact Keep.mono (keep_grantMove ..) rfl
        · exact ih

theorem keep_wagonJudges  : Keep 0xf280f (wagonJudges ) := by
  delta wagonJudges
  refine Keep.bind ?_ fun _ => ?_
  · exact Keep.getS _
  · refine Keep.ite ?_ ?_
    · refine Keep.bind ?_ fun _ => ?_
      · refine Keep.gather fun _ => ?_
        exact Keep.mono (keep_prepHint ..) rfl
      · refine Keep.bind ?_ fun _ => ?_
        · exact Keep.mono (keep_modWagon ..) rfl
        · dsimp only
          refine Keep.bind ?_ fun _ => ?_
          · exact Keep.getS _
          · refine Keep.bind ?_ fun _ => ?_
            · exact Keep.mono (keep_judgeHeld ..) rfl
            · refine Keep.bind ?_ fun _ => ?_
              · exact Keep.mono (keep_judgeHints ..) rfl
              · refine Keep.bind ?_ fun _ => ?_
                · exact Keep.mono (keep_grantPromos ..) rfl
                · exact Keep.mono (keep_grantEvicts ..) rfl
    · refine Keep.ite ?_ ?_
      · exact Keep.mono (keep_grantEvicts ..) rfl
      · exact Keep.pure _ _

theorem keep_wagonTick  : Keep 0xf288f (wagonTick ) := by
  delta wagonTick
  refine Keep.bind ?_ fun _ => ?_
  · exact Keep.getS _
  · dsimp only
    refine Keep.bind ?_ fun _ => ?_
    · refine Keep.when' ?_
      exact Keep.mono (keep_flushDir ..) rfl
    · refine Keep.bind ?_ fun _ => ?_
      · exact Keep.mono (keep_deepRetry ..) rfl
      · refine Keep.bind ?_ fun _ => ?_
        · exact Keep.getS _
        · refine Keep.when' ?_
          refine Keep.bind ?_ fun _ => ?_
          · exact Keep.mono (keep_drainTick ..) rfl
          · exact Keep.mono (keep_wagonJudges ..) rfl

theorem keep_offerTick (o : Offer) : Keep 0x1810882 (offerTick o) := by
  delta offerTick
  refine Keep.bind ?_ fun _ => ?_
  · exact Keep.getS _
  · refine Keep.ite ?_ ?_
    · exact Keep.mono (keep_sendRts ..) rfl
    · refine Keep.ite ?_ ?_
      · exact Keep.mono (keep_sendImage ..) rfl
      · exact Keep.pure _ _

theorem keep_recvTick (r : RecvIm) : Keep 0x181088e (recvTick r) := by
  delta recvTick
  refine Keep.when' ?_
  exact Keep.mono (keep_finishRecv ..) rfl

theorem keep_xferTick (x : Xfer) : Keep 0x18f200f (xferTick x) := by
  delta xferTick
  refine Keep.when' ?_
  exact Keep.mono (keep_xferSend ..) rfl

theorem keep_swapTick (port : Nat) : Keep 0x810082 (swapTick port) := by
  delta swapTick
  refine Keep.bind ?_ fun _ => ?_
  · exact Keep.getS _
  · dsimp only
    split
    · refine Keep.ite ?_ ?_
      · refine Keep.bind ?_ fun _ => ?_
        · exact Keep.mono (keep_modPort ..) rfl
        · exact Keep.mono (keep_emit ..) rfl
      · exact Keep.pure _ _
    · split
      · refine Keep.ite ?_ ?_
        · refine Keep.bind ?_ fun _ => ?_
          · exact Keep.mono (keep_modPort ..) rfl
          · refine Keep.when' ?_
            exact Keep.mono (keep_beginSwap ..) rfl
        · exact Keep.pure _ _
      · exact Keep.pure _ _

theorem keep_xferStart (i : Nat) (w : List Nat) : Keep 0x18f200f (xferStart i w) := by
  delta xferStart
  refine Keep.bind ?_ fun _ => ?_
  · exact Keep.getS _
  · dsimp only
    refine Keep.bind ?_ fun _ => ?_
    · exact Keep.mono (keep_modRing ..) rfl
    · refine Keep.ite ?_ ?_
      · refine Keep.bind ?_ fun _ => ?_
        · exact Keep.mono (keep_ringPut ..) rfl
        · exact Keep.mono (keep_ringFinal ..) rfl
      · refine Keep.bind ?_ fun _ => ?_
        · exact Keep.mono (keep_modFab ..) rfl
        · refine Keep.bind ?_ fun _ => ?_
          · exact Keep.mono (keep_ringState ..) rfl
          · refine Keep.bind ?_ fun _ => ?_
            · exact Keep.mono (keep_ringPut ..) rfl
            · refine Keep.ite ?_ ?_
              · exact Keep.mono (keep_inject ..) rfl
              · split
                · refine Keep.bind ?_ fun _ => ?_
                  · exact Keep.mono (keep_modFab ..) rfl
                  · exact Keep.mono (keep_xferMatch ..) rfl
                · exact Keep.pure _ _

theorem keep_xferPump (x1 : Nat) : Keep 0x18f200f (xferPump x1) := by
  induction x1 with
  | zero =>
    unfold xferPump
    exact Keep.pure _ _
  | succ _ ih =>
    unfold xferPump
    refine Keep.bind ?_ fun _ => ?_
    · exact Keep.getS _
    · dsimp only
      refine Keep.ite ?_ ?_
      · refine Keep.bind ?_ fun _ => ?_
        · exact Keep.mono (keep_readPhys ..) rfl
        · refine Keep.ite ?_ ?_
          · refine Keep.bind ?_ fun _ => ?_
            · exact Keep.mono (keep_xferStart ..) rfl
            · exact ih
          · exact Keep.pure _ _
      · exact Keep.pure _ _

theorem keep_fabricTick  : Keep 0x18f288f (fabricTick ) := by
  delta fabricTick
  refine Keep.bind ?_ fun _ => ?_
  · exact Keep.getS _
  · refine Keep.bind ?_ fun _ => ?_
    · exact Keep.mono (keep_modFab ..) rfl
    · refine Keep.bind ?_ fun _ => ?_
      · refine Keep.each fun _ => ?_
        exact Keep.mono (keep_deliver ..) rfl
      · refine Keep.bind ?_ fun _ => ?_
        · exact Keep.getS _
        · refine Keep.bind ?_ fun _ => ?_
          · refine Keep.each fun _ => ?_
            exact Keep.mono (keep_offerTick ..) rfl
          · refine Keep.bind ?_ fun _ => ?_
            · exact Keep.getS _
            · refine Keep.bind ?_ fun _ => ?_
              · refine Keep.each fun _ => ?_
                exact Keep.mono (keep_recvTick ..) rfl
              · refine Keep.bind ?_ fun _ => ?_
                · exact Keep.getS _
                · refine Keep.bind ?_ fun _ => ?_
                  · refine Keep.each fun _ => ?_
                    exact Keep.mono (keep_xferTick ..) rfl
                  · refine Keep.bind ?_ fun _ => ?_
                    · refine Keep.each fun _ => ?_
                      exact Keep.mono (keep_swapTick ..) rfl
                    · refine Keep.bind ?_ fun _ => ?_
                      · exact Keep.getS _
                      · dsimp only
                        refine Keep.bind ?_ fun _ => ?_
                        · exact Keep.mono (keep_flushRing ..) rfl
                        · exact Keep.mono (keep_xferPump ..) rfl

theorem keep_modHop (out : Bool) (f : HopSt → HopSt) : Keep 0x8000000 (modHop out f) := by
  delta modHop
  exact Keep.mono (keep_modChain ..) rfl

theorem keep_resendHop (out : Bool) : Keep 0x8010002 (resendHop out) := by
  delta resendHop
  refine Keep.bind ?_ fun _ => ?_
  · exact Keep.getS _
  · refine Keep.ite ?_ ?_
    · refine Keep.bind ?_ fun _ => ?_
      · exact Keep.mono (keep_bump ..) rfl
      · refine Keep.bind ?_ fun _ => ?_
        · refine Keep.each fun _ => ?_
          exact Keep.mono (keep_putFrame ..) rfl
        · exact Keep.mono (keep_modHop ..) rfl
    · exact Keep.pure _ _

theorem keep_releaseStage  : Keep 0x8000000 (releaseStage ) := by
  delta releaseStage
  refine Keep.bind ?_ fun _ => ?_
  · exact Keep.getS _
  · exact Keep.mono (keep_modChain ..) rfl

theorem keep_flushStage (x1 : List (Nat × List Byte)) : Keep 0x80f200f (flushStage x1) := by
  induction x1 with
  | nil =>
    unfold flushStage
    exact Keep.mono (keep_modChain ..) rfl
  | cons _ _ ih =>
    unfold flushStage
    refine Keep.bind ?_ fun _ => ?_
    · exact Keep.getS _
    · refine Keep.bind ?_ fun _ => ?_
      · exact Keep.mono (keep_writePhys ..) rfl
      · split
        · exact Keep.mono (keep_modChain ..) rfl
        · exact ih

theorem keep_stageBytes (st : Stage) : Keep 0xf200f (stageBytes st) := by
  delta stageBytes
  refine Keep.bind ?_ fun _ => ?_
  · exact Keep.getS _
  · refine Keep.ite ?_ ?_
    · refine Keep.bind ?_ fun _ => ?_
      · exact Keep.mono (keep_readPhys ..) rfl
      · exact Keep.pure _ _
    · exact Keep.pure _ _

theorem keep_sendQueued (out : Bool) (x1 : List Frame) : Keep 0x8010002 (sendQueued out x1) := by
  induction x1 with
  | nil =>
    unfold sendQueued
    exact Keep.mono (keep_modHop ..) rfl
  | cons _ _ ih =>
    unfold sendQueued
    refine Keep.bind ?_ fun _ => ?_
    · exact Keep.getS _
    · dsimp only
      refine Keep.ite ?_ ?_
      · refine Keep.bind ?_ fun _ => ?_
        · exact Keep.mono (keep_putFrame ..) rfl
        · refine Keep.bind ?_ fun _ => ?_
          · exact Keep.mono (keep_modHop ..) rfl
          · exact ih
      · exact Keep.mono (keep_modHop ..) rfl

theorem keep_pumpHop (out : Bool) : Keep 0x8010002 (pumpHop out) := by
  delta pumpHop
  refine Keep.bind ?_ fun _ => ?_
  · exact Keep.getS _
  · refine Keep.ite ?_ ?_
    · exact Keep.mono (keep_sendQueued ..) rfl
    · exact Keep.pure _ _

theorem keep_sendFrame (out : Bool) (f : Frame) : Keep 0x8010002 (sendFrame out f) := by
  delta sendFrame
  refine Keep.bind ?_ fun _ => ?_
  · exact Keep.mono (keep_modHop ..) rfl
  · exact Keep.mono (keep_pumpHop ..) rfl

theorem keep_upstream (f : Frame) : Keep 0x8010002 (upstream f) := by
  delta upstream
  refine Keep.bind ?_ fun _ => ?_
  · exact Keep.getS _
  · refine Keep.ite ?_ ?_
    · exact Keep.mono (keep_emit ..) rfl
    · exact Keep.mono (keep_sendFrame ..) rfl

theorem keep_sendResult (kind : Nat) (xfer : Nat) (code : Nat) : Keep 0x8010002 (sendResult kind xfer code) := by
  delta sendResult
  refine Keep.bind ?_ fun _ => ?_
  · exact Keep.getS _
  · refine Keep.bind ?_ fun _ => ?_
    · exact Keep.mono (keep_setReg ..) rfl
    · exact Keep.mono (keep_upstream ..) rfl

theorem keep_forwardObj (st : Stage) (obj : List Byte) : Keep 0x8010002 (forwardObj st obj) := by
  delta forwardObj
  refine Keep.bind ?_ fun _ => ?_
  · exact Keep.getS _
  · dsimp only
    refine Keep.bind ?_ fun _ => ?_
    · exact Keep.mono (keep_sendFrame ..) rfl
    · refine Keep.each fun _ => ?_
      exact Keep.mono (keep_sendFrame ..) rfl

theorem keep_setRegion (kind : Nat) (slot : Nat) (o : List Byte) : Keep 0x4000000 (setRegion kind slot o) := by
  delta setRegion
  exact Keep.mono (keep_modFlash ..) rfl

theorem keep_placeCopies (o : List Byte) : Keep 0x2 (placeCopies o) := by
  delta placeCopies
  refine Keep.bind ?_ fun _ => ?_
  · exact Keep.getS _
  · refine Keep.each fun _ => ?_
    exact Keep.mono (keep_bumpBy ..) rfl

theorem keep_acceptObj (kind : Nat) (xfer : Nat) (o : List Byte) : Keep 0xc010002 (acceptObj kind xfer o) := by
  delta acceptObj
  refine Keep.bind ?_ fun _ => ?_
  · exact Keep.getS _
  · dsimp only
    refine Keep.ite ?_ ?_
    · refine Keep.bind ?_ fun _ => ?_
      · refine Keep.when' ?_
        exact Keep.mono (keep_setRegion ..) rfl
      · exact Keep.mono (keep_sendResult ..) rfl
    · refine Keep.ite ?_ ?_
      · refine Keep.bind ?_ fun _ => ?_
        · exact Keep.mono (keep_modDir ..) rfl
        · refine Keep.bind ?_ fun _ => ?_
          · exact Keep.mono (keep_placeCopies ..) rfl
          · refine Keep.bind ?_ fun _ => ?_
            · exact Keep.mono (keep_showDir ..) rfl
            · exact Keep.mono (keep_sendResult ..) rfl
      · exact Keep.mono (keep_modFlash ..) rfl

theorem keep_stageJudged (st : Stage) (o : List Byte) : Keep 0xc010002 (stageJudged st o) := by
  delta stageJudged
  refine Keep.bind ?_ fun _ => ?_
  · exact Keep.getS _
  · refine Keep.ite ?_ ?_
    · refine Keep.ite ?_ ?_
      · refine Keep.bind ?_ fun _ => ?_
        · exact Keep.mono (keep_modChain ..) rfl
        · exact Keep.mono (keep_sendFrame ..) rfl
      · refine Keep.bind ?_ fun _ => ?_
        · exact Keep.mono (keep_modChain ..) rfl
        · refine Keep.when' ?_
          exact Keep.mono (keep_sendResult ..) rfl
    · refine Keep.bind ?_ fun _ => ?_
      · exact Keep.mono (keep_modChain ..) rfl
      · refine Keep.bind ?_ fun _ => ?_
        · refine Keep.when' ?_
          exact Keep.mono (keep_forwardObj ..) rfl
        · refine Keep.when' ?_
          exact Keep.mono (keep_acceptObj ..) rfl

theorem keep_stageWhole  : Keep 0xc0f200f (stageWhole ) := by
  delta stageWhole
  refine Keep.bind ?_ fun _ => ?_
  · exact Keep.getS _
  · split
    · exact Keep.pure _ _
    · refine Keep.ite ?_ ?_
      · refine Keep.bind ?_ fun _ => ?_
        · exact Keep.mono (keep_stageBytes ..) rfl
        · split
          · exact Keep.mono (keep_stageJudged ..) rfl
          · exact Keep.pure _ _
      · exact Keep.pure _ _

theorem keep_stageTick  : Keep 0xc0f200f (stageTick ) := by
  delta stageTick
  refine Keep.bind ?_ fun _ => ?_
  · exact Keep.getS _
  · dsimp only
    split
    · refine Keep.bind ?_ fun _ => ?_
      · refine Keep.when' ?_
        exact Keep.mono (keep_flushStage ..) rfl
      · refine Keep.bind ?_ fun _ => ?_
        · refine Keep.when' ?_
          exact Keep.mono (keep_stageWhole ..) rfl
        · exact Keep.mono (keep_releaseStage ..) rfl
    · exact Keep.mono (keep_releaseStage ..) rfl

theorem keep_beginRound  : Keep 0x2 (beginRound ) := by
  delta beginRound
  refine Keep.bind ?_ fun _ => ?_
  · exact Keep.getS _
  · dsimp only
    refine Keep.bind ?_ fun _ => ?_
    · exact Keep.mono (keep_bumpBy ..) rfl
    · refine Keep.bind ?_ fun _ => ?_
      · exact Keep.mono (keep_setReg ..) rfl
      · refine Keep.bind ?_ fun _ => ?_
        · exact Keep.mono (keep_setReg ..) rfl
        · refine Keep.bind ?_ fun _ => ?_
          · exact Keep.mono (keep_setReg ..) rfl
          · exact Keep.mono (keep_bump ..) rfl

theorem keep_noteCondition (o : Nat) (p : Nat) (temp : Nat) (act : Nat) (confirm : Bool) : Keep 0x2 (noteCondition o p temp act confirm) := by
  delta noteCondition
  refine Keep.bind ?_ fun _ => ?_
  · exact Keep.mono (keep_setFld ..) rfl
  · refine Keep.bind ?_ fun _ => ?_
    · exact Keep.mono (keep_setFld ..) rfl
    · refine Keep.bind ?_ fun _ => ?_
      · exact Keep.mono (keep_setFld ..) rfl
      · exact Keep.mono (keep_setFld ..) rfl

theorem keep_beginPass (n : Nat) : Keep 0x802 (beginPass n) := by
  delta beginPass
  refine Keep.bind ?_ fun _ => ?_
  · exact Keep.getS _
  · refine Keep.ite ?_ ?_
    · split
      · exact Keep.pure _ _
      · dsimp only
        refine Keep.bind ?_ fun _ => ?_
        · exact Keep.mono (keep_setFld ..) rfl
        · refine Keep.bind ?_ fun _ => ?_
          · exact Keep.mono (keep_setFld ..) rfl
          · refine Keep.bind ?_ fun _ => ?_
            · exact Keep.mono (keep_modCore ..) rfl
            · refine Keep.each fun _ => ?_
              exact Keep.mono (keep_noteCondition ..) rfl
    · exact Keep.pure _ _

theorem keep_flushOwed (c : Nat) (x1 : List (Nat × Nat × Nat)) : Keep 0xf300f (flushOwed c x1) := by
  induction x1 with
  | nil =>
    unfold flushOwed
    refine Keep.bind ?_ fun _ => ?_
    · exact Keep.mono (keep_modCtx ..) rfl
    · exact Keep.mono (keep_fenceOf ..) rfl
  | cons _ _ ih =>
    unfold flushOwed
    dsimp only
    refine Keep.bind ?_ fun _ => ?_
    · refine Keep.bind ?_ fun _ => ?_
      · exact Keep.mono (keep_level0 ..) rfl
      · split
        · exact Keep.pure _ _
        · refine Keep.bind ?_ fun _ => ?_
          · exact Keep.mono (keep_walkFrom ..) rfl
          · split
            · exact Keep.mono (keep_writeXl ..) rfl
            · exact Keep.pure _ _
    · split
      · exact Keep.mono (keep_modCtx ..) rfl
      · exact ih

theorem keep_rosterFault (c : Nat) (r : Nat) (code : Nat) : Keep 0x82 (rosterFault c r code) := by
  delta rosterFault
  refine Keep.bind ?_ fun _ => ?_
  · exact Keep.mono (keep_setReg ..) rfl
  · exact Keep.mono (keep_faultCtxAs ..) rfl

theorem keep_fetchHead (c : Nat) (r : Nat) : Keep 0x2f388f (fetchHead c r) := by
  delta fetchHead
  refine Keep.bind ?_ fun _ => ?_
  · exact Keep.getS _
  · dsimp only
    refine Keep.ite ?_ ?_
    · refine Keep.bind ?_ fun _ => ?_
      · exact Keep.mono (keep_ctxRead ..) rfl
      · split
        · exact Keep.mono (keep_faultFor ..) rfl
        · refine Keep.ite ?_ ?_
          · refine Keep.bind ?_ fun _ => ?_
            · exact Keep.mono (keep_setReg ..) rfl
            · exact Keep.mono (keep_faultCtxAs ..) rfl
          · split
            · exact Keep.mono (keep_rosterFault ..) rfl
            · exact Keep.mono (keep_modRoster ..) rfl
    · exact Keep.pure _ _

theorem keep_noteReady (c : Nat) (r : Nat) : Keep 0x1000 (noteReady c r) := by
  delta noteReady
  refine Keep.bind ?_ fun _ => ?_
  · exact Keep.getS _
  · dsimp only
    exact Keep.mono (keep_modRoster ..) rfl

theorem keep_loadCollies (comp : List Byte) (n : Nat) : Keep 0x804 (loadCollies comp n) := by
  delta loadCollies
  dsimp only
  refine Keep.bind ?_ fun _ => ?_
  · exact Keep.mono (keep_clearMem ..) rfl
  · refine Keep.bind ?_ fun _ => ?_
    · exact Keep.mono (keep_setMem ..) rfl
    · exact Keep.mono (keep_modCore ..) rfl

theorem keep_reloadCollies (n : Nat) : Keep 0x806 (reloadCollies n) := by
  delta reloadCollies
  refine Keep.bind ?_ fun _ => ?_
  · exact Keep.getS _
  · dsimp only
    refine Keep.bind ?_ fun _ => ?_
    · refine Keep.when' ?_
      exact Keep.mono (keep_bumpBy ..) rfl
    · exact Keep.mono (keep_loadCollies ..) rfl

theorem keep_placeHead (c : Nat) (r : Nat) (n : Nat) (h : Head) : Keep 0x2f3c8f (placeHead c r n h) := by
  delta placeHead
  refine Keep.bind ?_ fun _ => ?_
  · exact Keep.mono (keep_nextTaskMode ..) rfl
  · refine Keep.bind ?_ fun _ => ?_
    · exact Keep.getS _
    · refine Keep.bind ?_ fun _ => ?_
      · refine Keep.when' ?_
        exact Keep.mono (keep_reloadCollies ..) rfl
      · refine Keep.bind ?_ fun _ => ?_
        · refine Keep.each fun _ => ?_
          exact Keep.mono (keep_modOx ..) rfl
        · refine Keep.bind ?_ fun _ => ?_
          · exact Keep.getS _
          · dsimp only
            refine Keep.bind ?_ fun _ => ?_
            · exact Keep.mono (keep_modCore ..) rfl
            · refine Keep.bind ?_ fun _ => ?_
              · exact Keep.mono (keep_setReg ..) rfl
              · refine Keep.bind ?_ fun _ => ?_
                · exact Keep.mono (keep_setReg ..) rfl
                · refine Keep.bind ?_ fun _ => ?_
                  · exact Keep.mono (keep_showTask ..) rfl
                  · refine Keep.bind ?_ fun _ => ?_
                    · exact Keep.mono (keep_modRoster ..) rfl
                    · refine Keep.bind ?_ fun _ => ?_
                      · exact Keep.mono (keep_rosterState ..) rfl
                      · refine Keep.bind ?_ fun _ => ?_
                        · exact Keep.mono (keep_rosterPut ..) rfl
                        · refine Keep.bind ?_ fun _ => ?_
                          · exact Keep.mono (keep_bump ..) rfl
                          · refine Keep.bind ?_ fun _ => ?_
                            · exact Keep.mono (keep_bump ..) rfl
                            · refine Keep.bind ?_ fun _ => ?_
                              · exact Keep.mono (keep_fetchHead ..) rfl
                              · exact Keep.mono (keep_noteReady ..) rfl

theorem keep_placeCtx (c : Nat) (x1 : Nat) : Keep 0x2f3c8f (placeCtx c x1) := by
  induction x1 with
  | zero =>
    unfold placeCtx
    exact Keep.pure _ _
  | succ _ ih =>
    unfold placeCtx
    refine Keep.bind ?_ fun _ => ?_
    · exact Keep.getS _
    · split
      · exact Keep.pure _ _
      · refine Keep.bind ?_ fun _ => ?_
        · exact Keep.mono (keep_placeHead ..) rfl
        · exact ih

theorem keep_countPen (c : Nat) (k : Nat) : Keep 0x2 (countPen c k) := by
  delta countPen
  refine Keep.bind ?_ fun _ => ?_
  · exact Keep.getS _
  · dsimp only
    refine Keep.bind ?_ fun _ => ?_
    · exact Keep.mono (keep_bumpBy ..) rfl
    · exact Keep.mono (keep_bumpBy ..) rfl

theorem keep_dispatch  : Keep 0x2f3c8f (dispatch ) := by
  delta dispatch
  refine Keep.bind ?_ fun _ => ?_
  · refine Keep.each fun _ => ?_
    refine Keep.bind ?_ fun _ => ?_
    · exact Keep.getS _
    · dsimp only
      refine Keep.when' ?_
      exact Keep.mono (keep_flushOwed ..) rfl
  · refine Keep.bind ?_ fun _ => ?_
    · refine Keep.each fun _ => ?_
      refine Keep.each fun _ => ?_
      refine Keep.bind ?_ fun _ => ?_
      · exact Keep.getS _
      · dsimp only
        refine Keep.when' ?_
        exact Keep.mono (keep_flushRoster ..) rfl
    · refine Keep.bind ?_ fun _ => ?_
      · exact Keep.getS _
      · refine Keep.each fun _ => ?_
        refine Keep.bind ?_ fun _ => ?_
        · refine Keep.each fun _ => ?_
          refine Keep.bind ?_ fun _ => ?_
          · exact Keep.mono (keep_fetchHead ..) rfl
          · exact Keep.mono (keep_noteReady ..) rfl
        · refine Keep.bind ?_ fun _ => ?_
          · exact Keep.mono (keep_placeCtx ..) rfl
          · refine Keep.each fun _ => ?_
            exact Keep.mono (keep_countPen ..) rfl

theorem keep_writeCond (c : Cond) : Keep 0x200f200f (writeCond c) := by
  delta writeCond
  refine Keep.bind ?_ fun _ => ?_
  · exact Keep.getS _
  · dsimp only
    refine Keep.bind ?_ fun _ => ?_
    · exact Keep.mono (keep_setReg ..) rfl
    · refine Keep.bind ?_ fun _ => ?_
      · exact Keep.mono (keep_modLink ..) rfl
      · refine Keep.ite ?_ ?_
        · exact Keep.mono (keep_ringRecord ..) rfl
        · exact Keep.pure _ _

theorem keep_ceilingCheck (n : Nat) : Keep 0x200f280f (ceilingCheck n) := by
  delta ceilingCheck
  refine Keep.bind ?_ fun _ => ?_
  · exact Keep.getS _
  · dsimp only
    refine Keep.ite ?_ ?_
    · refine Keep.when' ?_
      exact Keep.mono (keep_modCore ..) rfl
    · refine Keep.ite ?_ ?_
      · refine Keep.bind ?_ fun _ => ?_
        · exact Keep.mono (keep_modCore ..) rfl
        · exact Keep.mono (keep_writeCond ..) rfl
      · exact Keep.pure _ _

theorem keep_afterEvents  : Keep 0x2daf3c8f (afterEvents ) := by
  delta afterEvents
  refine Keep.bind ?_ fun _ => ?_
  · exact Keep.mono (keep_retireSlots ..) rfl
  · refine Keep.bind ?_ fun _ => ?_
    · exact Keep.mono (keep_deepAnswered ..) rfl
    · refine Keep.bind ?_ fun _ => ?_
      · exact Keep.mono (keep_tickWindows ..) rfl
      · refine Keep.bind ?_ fun _ => ?_
        · exact Keep.mono (keep_wagonTick ..) rfl
        · refine Keep.bind ?_ fun _ => ?_
          · exact Keep.mono (keep_fabricTick ..) rfl
          · refine Keep.bind ?_ fun _ => ?_
            · refine Keep.each fun _ => ?_
              exact Keep.mono (keep_drainStats ..) rfl
            · refine Keep.bind ?_ fun _ => ?_
              · exact Keep.mono (keep_resendHop ..) rfl
              · refine Keep.bind ?_ fun _ => ?_
                · exact Keep.mono (keep_resendHop ..) rfl
                · refine Keep.bind ?_ fun _ => ?_
                  · exact Keep.mono (keep_stageTick ..) rfl
                  · refine Keep.bind ?_ fun _ => ?_
                    · exact Keep.getS _
                    · refine Keep.bind ?_ fun _ => ?_
                      · refine Keep.when' ?_
                        exact Keep.mono (keep_beginRound ..) rfl
                      · refine Keep.bind ?_ fun _ => ?_
                        · refine Keep.each fun _ => ?_
                          exact Keep.mono (keep_beginPass ..) rfl
                        · refine Keep.bind ?_ fun _ => ?_
                          · exact Keep.mono (keep_dispatch ..) rfl
                          · refine Keep.bind ?_ fun _ => ?_
                            · exact Keep.getS _
                            · refine Keep.bind ?_ fun _ => ?_
                              · refine Keep.when' ?_
                                exact Keep.mono (keep_bump ..) rfl
                              · refine Keep.bind ?_ fun _ => ?_
                                · exact Keep.getS _
                                · refine Keep.when' ?_
                                  refine Keep.each fun _ => ?_
                                  exact Keep.mono (keep_ceilingCheck ..) rfl

theorem keep_closePower  : Keep 0x10000002 (closePower ) := by
  delta closePower
  refine Keep.bind ?_ fun _ => ?_
  · exact Keep.getS _
  · refine Keep.ite ?_ ?_
    · dsimp only
      refine Keep.bind ?_ fun _ => ?_
      · refine Keep.when' ?_
        exact Keep.mono (keep_bump ..) rfl
      · refine Keep.bind ?_ fun _ => ?_
        · exact Keep.mono (keep_setFld ..) rfl
        · refine Keep.bind ?_ fun _ => ?_
          · exact Keep.mono (keep_setFld ..) rfl
          · refine Keep.bind ?_ fun _ => ?_
            · refine Keep.when' ?_
              exact Keep.mono (keep_flag ..) rfl
            · exact Keep.mono (keep_modPwr ..) rfl
    · exact Keep.pure _ _

theorem keep_tickEdge (i : TickInput) : Keep 0x3fff3fff (tickEdge i) := by
  delta tickEdge
  refine Keep.bind ?_ fun _ => ?_
  · exact Keep.getS _
  · refine Keep.when' ?_
    refine Keep.bind ?_ fun _ => ?_
    · exact Keep.mono (keep_tickSource ..) rfl
    · refine Keep.bind ?_ fun _ => ?_
      · exact Keep.mono (keep_modTick ..) rfl
      · refine Keep.bind ?_ fun _ => ?_
        · exact Keep.mono (keep_modTime ..) rfl
        · refine Keep.bind ?_ fun _ => ?_
          · exact Keep.getS _
          · refine Keep.bind ?_ fun _ => ?_
            · exact Keep.mono (keep_emit ..) rfl
            · refine Keep.bind ?_ fun _ => ?_
              · exact Keep.mono (keep_holdExceeds ..) rfl
              · refine Keep.bind ?_ fun _ => ?_
                · exact Keep.mono (keep_measure ..) rfl
                · refine Keep.bind ?_ fun _ => ?_
                  · exact Keep.mono (keep_edgeRegs ..) rfl
                  · refine Keep.bind ?_ fun _ => ?_
                    · exact Keep.mono (keep_openMonitors ..) rfl
                    · refine Keep.bind ?_ fun _ => ?_
                      · exact Keep.mono (keep_deepTick ..) rfl
                      · refine Keep.bind ?_ fun _ => ?_
                        · exact Keep.mono (keep_fillAgain ..) rfl
                        · refine Keep.bind ?_ fun _ => ?_
                          · exact Keep.mono (keep_sampleEvents ..) rfl
                          · refine Keep.bind ?_ fun _ => ?_
                            · exact Keep.getS _
                            · refine Keep.bind ?_ fun _ => ?_
                              · exact Keep.mono (keep_drainDue ..) rfl
                              · refine Keep.bind ?_ fun _ => ?_
                                · exact Keep.getS _
                                · refine Keep.bind ?_ fun _ => ?_
                                  · refine Keep.when' ?_
                                    exact Keep.mono (keep_afterEvents ..) rfl
                                  · refine Keep.bind ?_ fun _ => ?_
                                    · exact Keep.mono (keep_closePower ..) rfl
                                    · refine Keep.bind ?_ fun _ => ?_
                                      · exact Keep.getS _
                                      · refine Keep.each fun _ => ?_
                                        exact Keep.mono (keep_modCore ..) rfl

theorem keep_atOx {k : Nat} {m : M Unit} (o addr : Nat) (h : Keep k m) (hs : 0x10002 &&& k = 0x10002) : Keep k (atOx o addr m) := by
  have up : ∀ {n : Nat} {γ : Type} {x : M γ}, Keep n x → n &&& 0x10002 = n → Keep k x := fun hx hn => (hx.mono hn).mono hs
  delta atOx
  refine Keep.bind ?_ fun _ => ?_
  · exact Keep.getS _
  · refine Keep.ite ?_ ?_
    · exact up (keep_refuseAt ..) rfl
    · exact h

theorem keep_verifyXlate (c : Nat) (e : Nat) (va : Nat) : Keep 0xf280f (verifyXlate c e va) := by
  delta verifyXlate
  refine Keep.bind ?_ fun _ => ?_
  · exact Keep.getS _
  · dsimp only
    refine Keep.ite ?_ ?_
    · refine Keep.ite ?_ ?_
      · refine Keep.bind ?_ fun _ => ?_
        · exact Keep.mono (keep_walkFrom ..) rfl
        · exact Keep.pure _ _
      · exact Keep.pure _ _
    · exact Keep.mono (keep_translate ..) rfl

theorem keep_verifyRead (c : Nat) (e : Nat) (va : Nat) : Keep 0xf288f (verifyRead c e va) := by
  delta verifyRead
  dsimp only
  refine Keep.bind ?_ fun _ => ?_
  · exact Keep.mono (keep_verifyXlate ..) rfl
  · split
    · split
      · exact Keep.pure _ _
      · refine Keep.bind ?_ fun _ => ?_
        · exact Keep.mono (keep_faultFor ..) rfl
        · exact Keep.pure _ _
    · refine Keep.bind ?_ fun _ => ?_
      · exact Keep.mono (keep_dirWalk ..) rfl
      · split
        · split
          · exact Keep.pure _ _
          · refine Keep.bind ?_ fun _ => ?_
            · exact Keep.mono (keep_faultFor ..) rfl
            · exact Keep.pure _ _
        · refine Keep.bind ?_ fun _ => ?_
          · exact Keep.mono (keep_readLine ..) rfl
          · split
            · exact Keep.pure _ _
            · exact Keep.pure _ _
            · refine Keep.bind ?_ fun _ => ?_
              · exact Keep.mono (keep_faultFor ..) rfl
              · exact Keep.pure _ _
            · exact Keep.pure _ _

theorem keep_verifyLine (c : Nat) (e : Nat) (i : Nat) : Keep 0xf288f (verifyLine c e i) := by
  delta verifyLine
  refine Keep.bind ?_ fun _ => ?_
  · exact Keep.getS _
  · dsimp only
    refine Keep.bind ?_ fun _ => ?_
    · exact Keep.mono (keep_verifyRead ..) rfl
    · split
      · exact Keep.pure _ _
      · refine Keep.bind ?_ fun _ => ?_
        · exact Keep.mono (keep_verifyRead ..) rfl
        · split
          · exact Keep.pure _ _
          · split
            · refine Keep.bind ?_ fun _ => ?_
              · exact Keep.mono (keep_keyBytes ..) rfl
              · exact Keep.pure _ _
            · exact Keep.pure _ _

theorem keep_copyPage (st : Nat) (src : Nat) (dst : Nat) : Keep 0xf (copyPage st src dst) := by
  delta copyPage
  refine Keep.bind ?_ fun _ => ?_
  · exact Keep.getS _
  · dsimp only
    refine Keep.bind ?_ fun _ => ?_
    · exact Keep.mono (keep_copyMem ..) rfl
    · refine Keep.bind ?_ fun _ => ?_
      · exact Keep.mono (keep_clearSyn ..) rfl
      · refine Keep.bind ?_ fun _ => ?_
        · exact Keep.mono (keep_bumpBy ..) rfl
        · refine Keep.bind ?_ fun _ => ?_
          · exact Keep.mono (keep_bumpBy ..) rfl
          · refine Keep.each fun _ => ?_
            refine Keep.bind ?_ fun _ => ?_
            · exact Keep.mono (keep_readStored ..) rfl
            · refine Keep.bind ?_ fun _ => ?_
              · exact Keep.mono (keep_lineData ..) rfl
              · exact Keep.mono (keep_writeStored ..) rfl

theorem keep_movePage (st : Nat) (slot : Nat) (off : Option Nat) : Keep 0x200f (movePage st slot off) := by
  delta movePage
  split
  · dsimp only
    refine Keep.bind ?_ fun _ => ?_
    · exact Keep.mono (keep_completeWhere ..) rfl
    · refine Keep.when' ?_
      exact Keep.mono (keep_copyPage ..) rfl
  · exact Keep.pure _ _

theorem keep_bankAwake (n : Nat) (b : Nat) : Keep 0x1c (bankAwake n b) := by
  delta bankAwake
  refine Keep.bind ?_ fun _ => ?_
  · exact Keep.getS _
  · refine Keep.when' ?_
    exact Keep.mono (keep_clearBank ..) rfl

theorem keep_bankArrive (n : Nat) (b : Nat) : Keep 0x81e (bankArrive n b) := by
  delta bankArrive
  refine Keep.bind ?_ fun _ => ?_
  · exact Keep.getS _
  · dsimp only
    refine Keep.ite ?_ ?_
    · refine Keep.bind ?_ fun _ => ?_
      · refine Keep.when' ?_
        exact Keep.mono (keep_clearBank ..) rfl
      · refine Keep.bind ?_ fun _ => ?_
        · exact Keep.mono (keep_modTr ..) rfl
        · exact Keep.mono (keep_setFld ..) rfl
    · refine Keep.ite ?_ ?_
      · refine Keep.bind ?_ fun _ => ?_
        · refine Keep.when' ?_
          exact Keep.mono (keep_clearBank ..) rfl
        · exact Keep.mono (keep_bankWake ..) rfl
      · refine Keep.ite ?_ ?_
        · refine Keep.bind ?_ fun _ => ?_
          · exact Keep.mono (keep_bankAwake ..) rfl
          · refine Keep.bind ?_ fun _ => ?_
            · exact Keep.mono (keep_modTr ..) rfl
            · exact Keep.mono (keep_setFld ..) rfl
        · refine Keep.ite ?_ ?_
          · refine Keep.bind ?_ fun _ => ?_
            · exact Keep.mono (keep_bankAwake ..) rfl
            · exact Keep.mono (keep_bankDown ..) rfl
          · exact Keep.pure _ _

theorem keep_bankComplete (n : Nat) (b : Nat) : Keep 0x20010c9e (bankComplete n b) := by
  delta bankComplete
  refine Keep.bind ?_ fun _ => ?_
  · exact Keep.mono (keep_bankArrive ..) rfl
  · exact Keep.mono (keep_bankJudge ..) rfl

theorem keep_setLanes (r0 : Nat) (r1 : Nat) (l : List Nat) : Keep 0x2 (setLanes r0 r1 l) := by
  delta setLanes
  dsimp only
  refine Keep.bind ?_ fun _ => ?_
  · exact Keep.mono (keep_setReg ..) rfl
  · exact Keep.mono (keep_setReg ..) rfl

theorem keep_applySwap (r0 : Nat) (r1 : Nat) (wl : Nat) (lanes : Fld) (spares : Fld) (lane : Nat) (spare : Option Nat) : Keep 0x2 (applySwap r0 r1 wl lanes spares lane spare) := by
  delta applySwap
  refine Keep.bind ?_ fun _ => ?_
  · exact Keep.getS _
  · dsimp only
    refine Keep.bind ?_ fun _ => ?_
    · refine Keep.when' ?_
      exact Keep.mono (keep_setWave ..) rfl
    · split
      · refine Keep.bind ?_ fun _ => ?_
        · exact Keep.mono (keep_setLanes ..) rfl
        · refine Keep.bind ?_ fun _ => ?_
          · exact Keep.mono (keep_setWave ..) rfl
          · refine Keep.bind ?_ fun _ => ?_
            · exact Keep.mono (keep_fld ..) rfl
            · exact Keep.mono (keep_setFld ..) rfl
      · refine Keep.bind ?_ fun _ => ?_
        · exact Keep.mono (keep_setLanes ..) rfl
        · exact Keep.mono (keep_setFld ..) rfl

theorem keep_noteLanes (port : Nat) : Keep 0x2 (noteLanes port) := by
  delta noteLanes
  refine Keep.bind ?_ fun _ => ?_
  · exact Keep.getS _
  · refine Keep.bind ?_ fun _ => ?_
    · exact Keep.mono (keep_setFld ..) rfl
    · exact Keep.mono (keep_capUpdate ..) rfl

theorem keep_winBankAccess (n : Nat) (w : WinReq) : Keep 0x2001088e (winBankAccess n w) := by
  delta winBankAccess
  refine Keep.bind ?_ fun _ => ?_
  · exact Keep.getS _
  · split
    · refine Keep.ite ?_ ?_
      · exact Keep.mono (keep_winServe ..) rfl
      · exact Keep.mono (keep_winRefuse ..) rfl
    · exact Keep.mono (keep_modCore ..) rfl
    · exact Keep.mono (keep_winServe ..) rfl

theorem keep_cxlUp (x : Nat) (width : Nat) (rate : Nat) : Keep 0x2 (cxlUp x width rate) := by
  delta cxlUp
  refine Keep.bind ?_ fun _ => ?_
  · exact Keep.getS _
  · dsimp only
    refine Keep.bind ?_ fun _ => ?_
    · exact Keep.mono (keep_setFld ..) rfl
    · refine Keep.bind ?_ fun _ => ?_
      · exact Keep.mono (keep_setFld ..) rfl
      · refine Keep.bind ?_ fun _ => ?_
        · exact Keep.mono (keep_setFld ..) rfl
        · refine Keep.bind ?_ fun _ => ?_
          · exact Keep.mono (keep_deepCheck ..) rfl
          · exact Keep.mono (keep_capUpdate ..) rfl

theorem keep_onChain {k : Nat} {m : M Unit} (h : Keep k m) : Keep k (onChain m) := Keep.bind (Keep.getS _) fun _ => Keep.when' h

theorem keep_frameIn {k : Nat} {m : M Unit} (link crcOk : Bool) (hseq code : Nat) (f : Frame) (h : Keep k m) (hs : 0x8010002 &&& k = 0x8010002) : Keep k (frameIn link crcOk hseq code f m) := by
  have up : ∀ {n : Nat} {γ : Type} {x : M γ}, Keep n x → n &&& 0x8010002 = n → Keep k x := fun hx hn => (hx.mono hn).mono hs
  delta frameIn
  refine Keep.bind ?_ fun _ => ?_
  · exact Keep.getS _
  · dsimp only
    refine Keep.ite ?_ ?_
    · refine Keep.ite ?_ ?_
      · exact up (keep_bump ..) rfl
      · refine Keep.ite ?_ ?_
        · refine Keep.bind ?_ fun _ => ?_
          · exact up (keep_bump ..) rfl
          · exact up (keep_sendAck ..) rfl
        · refine Keep.bind ?_ fun _ => ?_
          · exact up (keep_modHop ..) rfl
          · refine Keep.bind ?_ fun _ => ?_
            · exact up (keep_bump ..) rfl
            · refine Keep.bind ?_ fun _ => ?_
              · exact up (keep_sendAck ..) rfl
              · exact h
    · exact Keep.pure _ _

theorem keep_nodeAssignIn (f : Frame) : Keep 0x8010002 (nodeAssignIn f) := by
  delta nodeAssignIn
  refine Keep.bind ?_ fun _ => ?_
  · exact Keep.getS _
  · refine Keep.ite ?_ ?_
    · exact Keep.mono (keep_setFld ..) rfl
    · refine Keep.when' ?_
      exact Keep.mono (keep_sendFrame ..) rfl

theorem keep_passToken  : Keep 0x8010002 (passToken ) := by
  delta passToken
  refine Keep.bind ?_ fun _ => ?_
  · exact Keep.getS _
  · dsimp only
    refine Keep.when' ?_
    exact Keep.mono (keep_sendFrame ..) rfl

theorem keep_restart  : Keep 0x2c000042 (restart ) := by
  delta restart
  refine Keep.bind ?_ fun _ => ?_
  · exact Keep.getS _
  · refine Keep.bind ?_ fun _ => ?_
    · exact Keep.mono (keep_modTime ..) rfl
    · exact Keep.mono (keep_startFrom ..) rfl

theorem keep_readHistory (damaged : Nat) : Keep 0x100002 (readHistory damaged) := by
  delta readHistory
  refine Keep.bind ?_ fun _ => ?_
  · exact Keep.getS _
  · refine Keep.bind ?_ fun _ => ?_
    · exact Keep.mono (keep_modHistory ..) rfl
    · refine Keep.bind ?_ fun _ => ?_
      · exact Keep.getS _
      · exact Keep.mono (keep_bumpBy ..) rfl

theorem keep_historyNew (kind : Nat) (unit : Nat) (data : Nat) : Keep 0x100000 (historyNew kind unit data) := by
  delta historyNew
  refine Keep.bind ?_ fun _ => ?_
  · exact Keep.getS _
  · refine Keep.when' ?_
    exact Keep.mono (keep_historyAdd ..) rfl

theorem keep_enterFound (f : StartInput) : Keep 0x100000 (enterFound f) := by
  delta enterFound
  refine Keep.bind ?_ fun _ => ?_
  · refine Keep.each fun _ => ?_
    dsimp only
    refine Keep.bind ?_ fun _ => ?_
    · refine Keep.when' ?_
      exact Keep.mono (keep_modHistory ..) rfl
    · refine Keep.bind ?_ fun _ => ?_
      · refine Keep.each fun _ => ?_
        exact Keep.mono (keep_historyNew ..) rfl
      · refine Keep.each fun _ => ?_
        exact Keep.mono (keep_historyNew ..) rfl
  · refine Keep.bind ?_ fun _ => ?_
    · refine Keep.each fun _ => ?_
      exact Keep.mono (keep_historyNew ..) rfl
    · refine Keep.each fun _ => ?_
      exact Keep.mono (keep_historyNew ..) rfl

theorem keep_mapOx (f : StartInput) (o : Nat) : Keep 0x2 (mapOx f o) := by
  delta mapOx
  refine Keep.bind ?_ fun _ => ?_
  · exact Keep.getS _
  · dsimp only
    refine Keep.ite ?_ ?_
    · exact Keep.mono (keep_setFld ..) rfl
    · exact Keep.mono (keep_setReg ..) rfl

theorem keep_bankOut (n : Nat) (b : Nat) : Keep 0x2 (bankOut n b) := by
  delta bankOut
  refine Keep.bind ?_ fun _ => ?_
  · exact Keep.mono (keep_setFld ..) rfl
  · exact Keep.mono (keep_bankSet ..) rfl

theorem keep_replayPage (e : RepEnt) : Keep 0x2 (replayPage e) := by
  delta replayPage
  refine Keep.bind ?_ fun _ => ?_
  · exact Keep.getS _
  · dsimp only
    refine Keep.ite ?_ ?_
    · split
      · refine Keep.bind ?_ fun _ => ?_
        · exact Keep.mono (keep_setReg ..) rfl
        · refine Keep.bind ?_ fun _ => ?_
          · exact Keep.getS _
          · exact Keep.mono (keep_setFld ..) rfl
      · split
        · refine Keep.bind ?_ fun _ => ?_
          · exact Keep.mono (keep_setReg ..) rfl
          · refine Keep.bind ?_ fun _ => ?_
            · exact Keep.getS _
            · exact Keep.mono (keep_setFld ..) rfl
        · refine Keep.bind ?_ fun _ => ?_
          · exact Keep.getS _
          · exact Keep.mono (keep_setFld ..) rfl
    · exact Keep.pure _ _

theorem keep_repairMap (f : StartInput) : Keep 0x100802 (repairMap f) := by
  delta repairMap
  refine Keep.bind ?_ fun _ => ?_
  · exact Keep.mono (keep_readHistory ..) rfl
  · refine Keep.bind ?_ fun _ => ?_
    · exact Keep.mono (keep_enterFound ..) rfl
    · refine Keep.bind ?_ fun _ => ?_
      · refine Keep.each fun _ => ?_
        exact Keep.mono (keep_mapOx ..) rfl
      · refine Keep.bind ?_ fun _ => ?_
        · refine Keep.each fun _ => ?_
          exact Keep.mono (keep_nextTaskMode ..) rfl
        · refine Keep.bind ?_ fun _ => ?_
          · exact Keep.getS _
          · refine Keep.bind ?_ fun _ => ?_
            · refine Keep.each fun _ => ?_
              exact Keep.mono (keep_bankOut ..) rfl
            · refine Keep.bind ?_ fun _ => ?_
              · refine Keep.each fun _ => ?_
                refine Keep.each fun _ => ?_
                exact Keep.mono (keep_bankOut ..) rfl
              · refine Keep.each fun _ => ?_
                exact Keep.mono (keep_replayPage ..) rfl

theorem keep_zeroStacks  : Keep 0x1004000e (zeroStacks ) := by
  delta zeroStacks
  refine Keep.bind ?_ fun _ => ?_
  · exact Keep.getS _
  · refine Keep.bind ?_ fun _ => ?_
    · refine Keep.each fun _ => ?_
      exact Keep.mono (keep_zeroRun ..) rfl
    · refine Keep.bind ?_ fun _ => ?_
      · exact Keep.mono (keep_flag ..) rfl
      · refine Keep.bind ?_ fun _ => ?_
        · exact Keep.mono (keep_resetWhere ..) rfl
        · refine Keep.bind ?_ fun _ => ?_
          · exact Keep.mono (keep_modWagon ..) rfl
          · exact Keep.mono (keep_modPwr ..) rfl

theorem keep_trainAll  : Keep 0x1004000e (trainAll ) := by
  delta trainAll
  refine Keep.bind ?_ fun _ => ?_
  · exact Keep.getS _
  · refine Keep.bind ?_ fun _ => ?_
    · exact Keep.mono (keep_setFld ..) rfl
    · refine Keep.bind ?_ fun _ => ?_
      · refine Keep.when' ?_
        exact Keep.mono (keep_zeroStacks ..) rfl
      · refine Keep.bind ?_ fun _ => ?_
        · refine Keep.each fun _ => ?_
          exact Keep.mono (keep_setFld ..) rfl
        · refine Keep.bind ?_ fun _ => ?_
          · refine Keep.each fun _ => ?_
            exact Keep.mono (keep_setFld ..) rfl
          · refine Keep.each fun _ => ?_
            exact Keep.mono (keep_setFld ..) rfl

theorem keep_cfgFields  : Keep 0x2 (cfgFields ) := by
  delta cfgFields
  refine Keep.bind ?_ fun _ => ?_
  · exact Keep.getS _
  · dsimp only
    refine Keep.bind ?_ fun _ => ?_
    · exact Keep.mono (keep_setFld ..) rfl
    · refine Keep.bind ?_ fun _ => ?_
      · refine Keep.each fun _ => ?_
        exact Keep.mono (keep_setFld ..) rfl
      · refine Keep.bind ?_ fun _ => ?_
        · refine Keep.each fun _ => ?_
          exact Keep.mono (keep_setReg ..) rfl
        · refine Keep.each fun _ => ?_
          exact Keep.mono (keep_setFld ..) rfl

theorem keep_fenceMaps  : Keep 0x802 (fenceMaps ) := by
  delta fenceMaps
  refine Keep.bind ?_ fun _ => ?_
  · exact Keep.getS _
  · refine Keep.bind ?_ fun _ => ?_
    · refine Keep.each fun _ => ?_
      exact Keep.mono (keep_setFld ..) rfl
    · refine Keep.each fun _ => ?_
      exact Keep.mono (keep_nextTaskMode ..) rfl

theorem keep_startTry  : Keep 0x806 (startTry ) := by
  delta startTry
  refine Keep.bind ?_ fun _ => ?_
  · exact Keep.getS _
  · refine Keep.ite ?_ ?_
    · refine Keep.bind ?_ fun _ => ?_
      · exact Keep.mono (keep_setFld ..) rfl
      · refine Keep.bind ?_ fun _ => ?_
        · refine Keep.each fun _ => ?_
          exact Keep.mono (keep_loadCollies ..) rfl
        · refine Keep.bind ?_ fun _ => ?_
          · exact Keep.mono (keep_setFld ..) rfl
          · refine Keep.bind ?_ fun _ => ?_
            · exact Keep.mono (keep_setFld ..) rfl
            · refine Keep.bind ?_ fun _ => ?_
              · exact Keep.mono (keep_cfgFields ..) rfl
              · refine Keep.bind ?_ fun _ => ?_
                · exact Keep.mono (keep_fenceMaps ..) rfl
                · refine Keep.bind ?_ fun _ => ?_
                  · exact Keep.mono (keep_capUpdate ..) rfl
                  · refine Keep.bind ?_ fun _ => ?_
                    · exact Keep.mono (keep_setFld ..) rfl
                    · dsimp only
                      refine Keep.bind ?_ fun _ => ?_
                      · refine Keep.when' ?_
                        exact Keep.mono (keep_setFld ..) rfl
                      · exact Keep.mono (keep_beginRound ..) rfl
    · exact Keep.pure _ _

theorem keep_leavePhase3  : Keep 0x3c14084e (leavePhase3 ) := by
  delta leavePhase3
  refine Keep.bind ?_ fun _ => ?_
  · exact Keep.getS _
  · refine Keep.ite ?_ ?_
    · refine Keep.ite ?_ ?_
      · refine Keep.bind ?_ fun _ => ?_
        · exact Keep.mono (keep_activateFw ..) rfl
        · exact Keep.mono (keep_restart ..) rfl
      · refine Keep.ite ?_ ?_
        · exact Keep.mono (keep_setFld ..) rfl
        · refine Keep.bind ?_ fun _ => ?_
          · exact Keep.mono (keep_setFld ..) rfl
          · refine Keep.bind ?_ fun _ => ?_
            · exact Keep.mono (keep_repairMap ..) rfl
            · refine Keep.bind ?_ fun _ => ?_
              · exact Keep.mono (keep_trainAll ..) rfl
              · exact Keep.mono (keep_startTry ..) rfl
    · exact Keep.pure _ _

theorem keep_noteHold (o : Nat) (hold : Nat) : Keep 0x402 (noteHold o hold) := by
  delta noteHold
  refine Keep.bind ?_ fun _ => ?_
  · exact Keep.getS _
  · dsimp only
    refine Keep.ite ?_ ?_
    · refine Keep.bind ?_ fun _ => ?_
      · exact Keep.mono (keep_bump ..) rfl
      · refine Keep.bind ?_ fun _ => ?_
        · refine Keep.when' ?_
          exact Keep.mono (keep_bump ..) rfl
        · refine Keep.when' ?_
          exact Keep.mono (keep_modOx ..) rfl
    · refine Keep.when' ?_
      exact Keep.mono (keep_modOx ..) rfl

theorem keep_atCore {k : Nat} {m : M Unit} (n addr : Nat) (h : Keep k m) (hs : 0x10002 &&& k = 0x10002) : Keep k (atCore n addr m) := by
  have up : ∀ {n : Nat} {γ : Type} {x : M γ}, Keep n x → n &&& 0x10002 = n → Keep k x := fun hx hn => (hx.mono hn).mono hs
  delta atCore
  refine Keep.bind ?_ fun _ => ?_
  · exact Keep.getS _
  · refine Keep.ite ?_ ?_
    · exact up (keep_refuseAt ..) rfl
    · exact h

theorem keep_startOf (n : Nat) (station : Nat) : Keep 0x1af3c8f (startOf n station) := by
  delta startOf
  refine Keep.bind ?_ fun _ => ?_
  · exact Keep.getS _
  · split
    · refine Keep.bind ?_ fun _ => ?_
      · exact Keep.mono (keep_startTile ..) rfl
      · exact Keep.pure _ _
    · exact Keep.pure _ _

theorem keep_mgmtIn (link : Bool) (f : Frame) : Keep 0x8010002 (mgmtIn link f) := by
  delta mgmtIn
  refine Keep.bind ?_ fun _ => ?_
  · exact Keep.getS _
  · refine Keep.bind ?_ fun _ => ?_
    · refine Keep.when' ?_
      exact Keep.mono (keep_emit ..) rfl
    · refine Keep.when' ?_
      refine Keep.when' ?_
      exact Keep.mono (keep_sendFrame ..) rfl

theorem keep_dieReg (q : LinkReq) (a : Nat) (len : Nat) (data : Option (List Byte)) : Keep 0x231f3c8f (dieReg q a len data) := by
  delta dieReg
  refine Keep.bind ?_ fun _ => ?_
  · exact Keep.mono (keep_regAccess ..) rfl
  · split
    · refine Keep.bind ?_ fun _ => ?_
      · exact Keep.mono (keep_modCore ..) rfl
      · exact Keep.pure _ _
    · exact Keep.pure _ _
    · exact Keep.pure _ _
    · exact Keep.pure _ _

theorem keep_winAccess (who : Who) (n : Nat) (off : Nat) (addr : Nat) (len : Nat) (data : Option (List Byte)) (ack : Option LinkReq) : Keep 0x2001088e (winAccess who n off addr len data ack) := by
  delta winAccess
  refine Keep.bind ?_ fun _ => ?_
  · exact Keep.getS _
  · dsimp only
    refine Keep.ite ?_ ?_
    · exact Keep.mono (keep_refuseAt ..) rfl
    · refine Keep.ite ?_ ?_
      · exact Keep.mono (keep_winBankAccess ..) rfl
      · refine Keep.ite ?_ ?_
        · split
          · exact Keep.mono (keep_setMem ..) rfl
          · exact Keep.mono (keep_winAnswer ..) rfl
        · refine Keep.ite ?_ ?_
          · split
            · exact Keep.mono (keep_notDone ..) rfl
            · split
              · exact Keep.mono (keep_setMem ..) rfl
              · exact Keep.mono (keep_winAnswer ..) rfl
          · exact Keep.mono (keep_notDone ..) rfl

theorem keep_dieSram (q : LinkReq) (n : Nat) (off : Nat) (a : Nat) (len : Nat) (data : Option (List Byte)) : Keep 0x2001088e (dieSram q n off a len data) := by
  delta dieSram
  refine Keep.bind ?_ fun _ => ?_
  · exact Keep.getS _
  · refine Keep.ite ?_ ?_
    · refine Keep.bind ?_ fun _ => ?_
      · exact Keep.mono (keep_winAccess ..) rfl
      · exact Keep.pure _ _
    · refine Keep.bind ?_ fun _ => ?_
      · exact Keep.mono (keep_modOutbox ..) rfl
      · refine Keep.bind ?_ fun _ => ?_
        · exact Keep.mono (keep_winAccess ..) rfl
        · refine Keep.bind ?_ fun _ => ?_
          · exact Keep.getS _
          · dsimp only
            refine Keep.bind ?_ fun _ => ?_
            · exact Keep.mono (keep_modOutbox ..) rfl
            · split
              · exact Keep.pure _ _
              · exact Keep.pure _ _
              · exact Keep.pure _ _
              · exact Keep.pure _ _

theorem keep_dieWrite (a : Nat) (bs : List Byte) : Keep 0xf200f (dieWrite a bs) := by
  delta dieWrite
  refine Keep.bind ?_ fun _ => ?_
  · exact Keep.mono (keep_writePhys ..) rfl
  · split
    · exact Keep.pure _ _
    · exact Keep.pure _ _
    · exact Keep.pure _ _
    · exact Keep.pure _ _

theorem keep_dieRead (a : Nat) (len : Nat) : Keep 0xf200f (dieRead a len) := by
  delta dieRead
  refine Keep.bind ?_ fun _ => ?_
  · exact Keep.mono (keep_readPhys ..) rfl
  · split
    · exact Keep.pure _ _
    · exact Keep.pure _ _
    · exact Keep.pure _ _

theorem keep_dieAccess (q : LinkReq) (a : Nat) (len : Nat) (data : Option (List Byte)) : Keep 0x231f3c8f (dieAccess q a len data) := by
  delta dieAccess
  refine Keep.bind ?_ fun _ => ?_
  · exact Keep.getS _
  · split
    · exact Keep.mono (keep_dieReg ..) rfl
    · exact Keep.mono (keep_dieSram ..) rfl
    · exact Keep.pure _ _
    · split
      · exact Keep.mono (keep_dieWrite ..) rfl
      · exact Keep.mono (keep_dieRead ..) rfl

theorem keep_dieLink (module : Bool) (tag : Nat) (gen : Nat) (a : Nat) (len : Nat) (data : Option (List Byte)) : Keep 0x231f3c8f (dieLink module tag gen a len data) := by
  delta dieLink
  refine Keep.bind ?_ fun _ => ?_
  · exact Keep.getS _
  · split
    · exact Keep.pure _ _
    · refine Keep.ite ?_ ?_
      · dsimp only
        refine Keep.ite ?_ ?_
        · refine Keep.bind ?_ fun _ => ?_
          · exact Keep.mono (keep_dieAccess ..) rfl
          · split
            · exact Keep.pure _ _
            · exact Keep.mono (keep_linkAnswer ..) rfl
        · refine Keep.bind ?_ fun _ => ?_
          · exact Keep.pure _ _
          · split
            · exact Keep.pure _ _
            · exact Keep.mono (keep_linkAnswer ..) rfl
      · exact Keep.pure _ _

theorem keep_reg (a : Nat) : Keep 0x0 (reg a) := by
  delta reg
  refine Keep.bind ?_ fun _ => ?_
  · exact Keep.getS _
  · exact Keep.pure _ _

theorem keep_assignNodes  : Keep 0x8010002 (assignNodes ) := by
  delta assignNodes
  refine Keep.bind ?_ fun _ => ?_
  · exact Keep.getS _
  · refine Keep.each fun _ => ?_
    refine Keep.ite ?_ ?_
    · exact Keep.mono (keep_setFld ..) rfl
    · exact Keep.mono (keep_sendFrame ..) rfl

theorem keep_stagePut (a : Nat) (bs : List Byte) : Keep 0x80f200f (stagePut a bs) := by
  delta stagePut
  refine Keep.bind ?_ fun _ => ?_
  · exact Keep.getS _
  · split
    · exact Keep.mono (keep_flushStage ..) rfl
    · exact Keep.pure _ _

theorem keep_headObject (kind : Nat) (first : Nat) (last : Nat) (o : List Byte) : Keep 0xc0f200f (headObject kind first last o) := by
  delta headObject
  refine Keep.bind ?_ fun _ => ?_
  · exact Keep.getS _
  · refine Keep.ite ?_ ?_
    · refine Keep.bind ?_ fun _ => ?_
      · exact Keep.mono (keep_modChain ..) rfl
      · refine Keep.bind ?_ fun _ => ?_
        · refine Keep.when' ?_
          exact Keep.mono (keep_stagePut ..) rfl
        · exact Keep.mono (keep_stageWhole ..) rfl
    · exact Keep.pure _ _

theorem keep_ethOp (op : EthOp) : Keep 0xc0f200f (ethOp op) := by
  delta ethOp
  split
  · exact Keep.pure _ _
  · refine Keep.bind ?_ fun _ => ?_
    · exact Keep.getS _
    · refine Keep.when' ?_
      refine Keep.bind ?_ fun _ => ?_
      · exact Keep.mono (keep_modChain ..) rfl
      · exact Keep.mono (keep_assignNodes ..) rfl
  · exact Keep.mono (keep_headObject ..) rfl

theorem keep_areaPut (n : Nat) (off : Nat) (bs : List Byte) : Keep 0x4 (areaPut n off bs) := by
  delta areaPut
  exact Keep.mono (keep_setMem ..) rfl

theorem keep_areaBit (n : Nat) (off : Nat) (k : Nat) : Keep 0x4 (areaBit n off k) := by
  delta areaBit
  refine Keep.bind ?_ fun _ => ?_
  · exact Keep.getS _
  · exact Keep.mono (keep_areaPut ..) rfl

theorem keep_putPoison (n : Nat) : Keep 0x4 (putPoison n) := by
  delta putPoison
  refine Keep.bind ?_ fun _ => ?_
  · exact Keep.getS _
  · refine Keep.bind ?_ fun _ => ?_
    · refine Keep.each fun _ => ?_
      exact Keep.mono (keep_areaBit ..) rfl
    · refine Keep.each fun _ => ?_
      exact Keep.mono (keep_areaBit ..) rfl

theorem keep_putMule (n : Nat) : Keep 0x4 (putMule n) := by
  delta putMule
  refine Keep.bind ?_ fun _ => ?_
  · exact Keep.getS _
  · dsimp only
    refine Keep.bind ?_ fun _ => ?_
    · exact Keep.mono (keep_areaPut ..) rfl
    · refine Keep.each fun _ => ?_
      refine Keep.bind ?_ fun _ => ?_
      · exact Keep.mono (keep_areaPut ..) rfl
      · refine Keep.bind ?_ fun _ => ?_
        · exact Keep.mono (keep_areaPut ..) rfl
        · exact Keep.mono (keep_areaPut ..) rfl

theorem keep_putDraws (n : Nat) : Keep 0x4 (putDraws n) := by
  delta putDraws
  refine Keep.bind ?_ fun _ => ?_
  · exact Keep.getS _
  · exact Keep.mono (keep_areaPut ..) rfl

theorem keep_putPasses (n : Nat) : Keep 0x4 (putPasses n) := by
  delta putPasses
  refine Keep.bind ?_ fun _ => ?_
  · exact Keep.getS _
  · refine Keep.each fun _ => ?_
    dsimp only
    refine Keep.bind ?_ fun _ => ?_
    · exact Keep.mono (keep_areaPut ..) rfl
    · exact Keep.mono (keep_areaPut ..) rfl

theorem keep_putBanks (n : Nat) : Keep 0x4 (putBanks n) := by
  delta putBanks
  refine Keep.bind ?_ fun _ => ?_
  · exact Keep.getS _
  · exact Keep.mono (keep_areaPut ..) rfl

theorem keep_putStations (n : Nat) : Keep 0x4 (putStations n) := by
  delta putStations
  refine Keep.bind ?_ fun _ => ?_
  · exact Keep.getS _
  · refine Keep.bind ?_ fun _ => ?_
    · exact Keep.mono (keep_areaPut ..) rfl
    · refine Keep.bind ?_ fun _ => ?_
      · refine Keep.each fun _ => ?_
        dsimp only
        exact Keep.mono (keep_areaPut ..) rfl
      · split
        · dsimp only
          exact Keep.mono (keep_areaPut ..) rfl
        · exact Keep.pure _ _

theorem keep_putArea (n : Nat) : Keep 0x4 (putArea n) := by
  delta putArea
  dsimp only
  refine Keep.bind ?_ fun _ => ?_
  · exact Keep.mono (keep_clearMem ..) rfl
  · refine Keep.bind ?_ fun _ => ?_
    · exact Keep.mono (keep_putPoison ..) rfl
    · refine Keep.bind ?_ fun _ => ?_
      · exact Keep.mono (keep_putMule ..) rfl
      · refine Keep.bind ?_ fun _ => ?_
        · exact Keep.mono (keep_putDraws ..) rfl
        · refine Keep.bind ?_ fun _ => ?_
          · exact Keep.mono (keep_putPasses ..) rfl
          · refine Keep.bind ?_ fun _ => ?_
            · exact Keep.mono (keep_putBanks ..) rfl
            · exact Keep.mono (keep_putStations ..) rfl

theorem keep_confirmed (n : Nat) (k : Nat) (r : SentRun) (got : Nat) (ok : Bool) : Keep 0x200f200f (confirmed n k r got ok) := by
  delta confirmed
  refine Keep.bind ?_ fun _ => ?_
  · exact Keep.getS _
  · dsimp only
    refine Keep.ite ?_ ?_
    · exact Keep.mono (keep_bump ..) rfl
    · refine Keep.ite ?_ ?_
      · exact Keep.mono (keep_bump ..) rfl
      · refine Keep.bind ?_ fun _ => ?_
        · exact Keep.mono (keep_setFld ..) rfl
        · refine Keep.bind ?_ fun _ => ?_
          · exact Keep.getS _
          · exact Keep.mono (keep_writeCond ..) rfl

theorem keep_newSuspect (n : Nat) (k : Nat) (r : SentRun) (got : Nat) : Keep 0x201f2c8f (newSuspect n k r got) := by
  delta newSuspect
  dsimp only
  refine Keep.bind ?_ fun _ => ?_
  · exact Keep.mono (keep_fenceOx ..) rfl
  · refine Keep.bind ?_ fun _ => ?_
    · exact Keep.mono (keep_setFld ..) rfl
    · refine Keep.bind ?_ fun _ => ?_
      · exact Keep.mono (keep_setFld ..) rfl
      · refine Keep.bind ?_ fun _ => ?_
        · exact Keep.mono (keep_setFld ..) rfl
        · refine Keep.bind ?_ fun _ => ?_
          · exact Keep.mono (keep_setReg ..) rfl
          · refine Keep.bind ?_ fun _ => ?_
            · exact Keep.mono (keep_setReg ..) rfl
            · refine Keep.bind ?_ fun _ => ?_
              · exact Keep.getS _
              · exact Keep.mono (keep_writeCond ..) rfl

theorem keep_oxResult (n : Nat) (k : Nat) (r : SentRun) (defect : Nat) : Keep 0x201f2c8f (oxResult n k r defect) := by
  delta oxResult
  refine Keep.bind ?_ fun _ => ?_
  · exact Keep.getS _
  · dsimp only
    refine Keep.bind ?_ fun _ => ?_
    · exact Keep.mono (keep_setFld ..) rfl
    · refine Keep.bind ?_ fun _ => ?_
      · exact Keep.mono (keep_bump ..) rfl
      · refine Keep.bind ?_ fun _ => ?_
        · refine Keep.when' ?_
          exact Keep.mono (keep_bump ..) rfl
        · refine Keep.ite ?_ ?_
          · exact Keep.mono (keep_confirmed ..) rfl
          · refine Keep.when' ?_
            exact Keep.mono (keep_newSuspect ..) rfl

theorem keep_sentDone (n : Nat) (defects : List (Fin 4 × Nat)) : Keep 0x201f2ccf (sentDone n defects) := by
  delta sentDone
  refine Keep.bind ?_ fun _ => ?_
  · exact Keep.getS _
  · split
    · exact Keep.pure _ _
    · refine Keep.bind ?_ fun _ => ?_
      · exact Keep.mono (keep_noteRank ..) rfl
      · refine Keep.bind ?_ fun _ => ?_
        · exact Keep.mono (keep_modCore ..) rfl
        · refine Keep.bind ?_ fun _ => ?_
          · refine Keep.each fun _ => ?_
            exact Keep.mono (keep_oxResult ..) rfl
          · refine Keep.each fun _ => ?_
            exact Keep.mono (keep_modOx ..) rfl

theorem keep_scrubLine (st : Nat) (a : Nat) : Keep 0x1200f (scrubLine st a) := by
  delta scrubLine
  refine Keep.bind ?_ fun _ => ?_
  · exact Keep.mono (keep_serveLine ..) rfl
  · refine Keep.bind ?_ fun _ => ?_
    · exact Keep.getS _
    · refine Keep.ite ?_ ?_
      · exact Keep.mono (keep_bump ..) rfl
      · dsimp only
        refine Keep.bind ?_ fun _ => ?_
        · exact Keep.mono (keep_noteSlot ..) rfl
        · refine Keep.bind ?_ fun _ => ?_
          · exact Keep.mono (keep_readStored ..) rfl
          · refine Keep.when' ?_
            refine Keep.bind ?_ fun _ => ?_
            · exact Keep.mono (keep_writeStored ..) rfl
            · exact Keep.mono (keep_bump ..) rfl

theorem keep_scrubGroup (st : Nat) : Keep 0x1200f (scrubGroup st) := by
  delta scrubGroup
  refine Keep.bind ?_ fun _ => ?_
  · exact Keep.getS _
  · refine Keep.ite ?_ ?_
    · dsimp only
      refine Keep.bind ?_ fun _ => ?_
      · exact Keep.mono (keep_modStack ..) rfl
      · refine Keep.bind ?_ fun _ => ?_
        · refine Keep.each fun _ => ?_
          exact Keep.mono (keep_scrubLine ..) rfl
        · refine Keep.ite ?_ ?_
          · refine Keep.bind ?_ fun _ => ?_
            · exact Keep.mono (keep_setReg ..) rfl
            · exact Keep.mono (keep_bump ..) rfl
          · exact Keep.mono (keep_setReg ..) rfl
    · exact Keep.pure _ _

theorem keep_loadHead (o : Nat) (g : Nat) : Keep 0xc82 (loadHead o g) := by
  delta loadHead
  refine Keep.bind ?_ fun _ => ?_
  · exact Keep.getS _
  · dsimp only
    split
    · refine Keep.ite ?_ ?_
      · refine Keep.bind ?_ fun _ => ?_
        · refine Keep.ite ?_ ?_
          · exact Keep.pure _ _
          · exact Keep.mono (keep_checkHead ..) rfl
        · refine Keep.ite ?_ ?_
          · split
            · exact Keep.mono (keep_bankFaultOf ..) rfl
            · exact Keep.mono (keep_bankHold ..) rfl
            · refine Keep.bind ?_ fun _ => ?_
              · exact Keep.mono (keep_bankFree ..) rfl
              · exact Keep.mono (keep_modOx ..) rfl
          · exact Keep.pure _ _
      · exact Keep.pure _ _
    · exact Keep.pure _ _

theorem keep_loadPass (n : Nat) (k : Nat) (i : Nat) : Keep 0xc82 (loadPass n k i) := by
  delta loadPass
  refine Keep.bind ?_ fun _ => ?_
  · exact Keep.getS _
  · dsimp only
    refine Keep.each fun _ => ?_
    exact Keep.mono (keep_loadHead ..) rfl

theorem keep_setTrailOff (n : Nat) (k : Nat) (v : Nat) : Keep 0x802 (setTrailOff n k v) := by
  delta setTrailOff
  refine Keep.bind ?_ fun _ => ?_
  · exact Keep.getS _
  · refine Keep.ite ?_ ?_
    · exact Keep.mono (keep_setReg ..) rfl
    · exact Keep.mono (keep_modCore ..) rfl

theorem keep_trailWrote (n : Nat) (k : Nat) (im : TrailIm) : Keep 0x800 (trailWrote n k im) := by
  delta trailWrote
  refine Keep.bind ?_ fun _ => ?_
  · exact Keep.getS _
  · dsimp only
    exact Keep.mono (keep_modCore ..) rfl

theorem keep_writeTrail (n : Nat) (k : Nat) : Keep 0xf288f (writeTrail n k) := by
  delta writeTrail
  refine Keep.bind ?_ fun _ => ?_
  · exact Keep.getS _
  · split
    · dsimp only
      refine Keep.bind ?_ fun _ => ?_
      · refine Keep.ite ?_ ?_
        · exact Keep.mono (keep_ctxWrite ..) rfl
        · exact Keep.pure _ _
      · split
        · refine Keep.bind ?_ fun _ => ?_
          · exact Keep.mono (keep_faultFor ..) rfl
          · exact Keep.pure _ _
        · refine Keep.bind ?_ fun _ => ?_
          · exact Keep.mono (keep_ctxWrite ..) rfl
          · split
            · refine Keep.bind ?_ fun _ => ?_
              · exact Keep.mono (keep_faultFor ..) rfl
              · exact Keep.pure _ _
            · refine Keep.bind ?_ fun _ => ?_
              · exact Keep.mono (keep_ctxWrite ..) rfl
              · split
                · refine Keep.bind ?_ fun _ => ?_
                  · exact Keep.mono (keep_faultFor ..) rfl
                  · exact Keep.pure _ _
                · refine Keep.bind ?_ fun _ => ?_
                  · exact Keep.mono (keep_setTrailOff ..) rfl
                  · refine Keep.bind ?_ fun _ => ?_
                    · exact Keep.mono (keep_bumpBy ..) rfl
                    · refine Keep.bind ?_ fun _ => ?_
                      · exact Keep.mono (keep_trailWrote ..) rfl
                      · exact Keep.pure _ _
    · exact Keep.pure _ _

theorem keep_tileEvent (n : Nat) (k : Nat) (ev : Bool) : Keep 0x200f2c8f (tileEvent n k ev) := by
  delta tileEvent
  refine Keep.bind ?_ fun _ => ?_
  · exact Keep.getS _
  · dsimp only
    refine Keep.bind ?_ fun _ => ?_
    · refine Keep.when' ?_
      exact Keep.mono (keep_loadPass ..) rfl
    · refine Keep.bind ?_ fun _ => ?_
      · exact Keep.getS _
      · refine Keep.ite ?_ ?_
        · refine Keep.ite ?_ ?_
          · refine Keep.bind ?_ fun _ => ?_
            · exact Keep.mono (keep_writeTrail ..) rfl
            · refine Keep.ite ?_ ?_
              · exact Keep.mono (keep_completeEvent ..) rfl
              · exact Keep.pure _ _
          · refine Keep.bind ?_ fun _ => ?_
            · refine Keep.when' ?_
              exact Keep.mono (keep_fenceOf ..) rfl
            · refine Keep.bind ?_ fun _ => ?_
              · refine Keep.when' ?_
                exact Keep.mono (keep_muleTileDone ..) rfl
              · exact Keep.mono (keep_completeEvent ..) rfl
        · exact Keep.pure _ _

theorem keep_programEnd (n : Nat) : Keep 0x802 (programEnd n) := by
  delta programEnd
  refine Keep.bind ?_ fun _ => ?_
  · exact Keep.mono (keep_setReg ..) rfl
  · refine Keep.bind ?_ fun _ => ?_
    · exact Keep.mono (keep_abandonSpans ..) rfl
    · refine Keep.bind ?_ fun _ => ?_
      · exact Keep.mono (keep_setFld ..) rfl
      · refine Keep.bind ?_ fun _ => ?_
        · exact Keep.mono (keep_setFld ..) rfl
        · exact Keep.mono (keep_modCore ..) rfl

theorem keep_copyImage (n : Nat) (c : Nat) (k : Nat) : Keep 0xf388f (copyImage n c k) := by
  delta copyImage
  refine Keep.bind ?_ fun _ => ?_
  · exact Keep.getS _
  · dsimp only
    refine Keep.bind ?_ fun _ => ?_
    · exact Keep.mono (keep_putAll ..) rfl
    · split
      · exact Keep.mono (keep_faultFor ..) rfl
      · refine Keep.bind ?_ fun _ => ?_
        · exact Keep.mono (keep_fenceOf ..) rfl
        · exact Keep.mono (keep_modCtx ..) rfl

theorem keep_rosterSample (c : Nat) (r : Nat) : Keep 0x2f38cf (rosterSample c r) := by
  delta rosterSample
  refine Keep.bind ?_ fun _ => ?_
  · exact Keep.getS _
  · refine Keep.ite ?_ ?_
    · refine Keep.bind ?_ fun _ => ?_
      · exact Keep.mono (keep_rosterFresh ..) rfl
      · refine Keep.bind ?_ fun _ => ?_
        · exact Keep.getS _
        · refine Keep.ite ?_ ?_
          · refine Keep.bind ?_ fun _ => ?_
            · exact Keep.mono (keep_rosterGet ..) rfl
            · split
              · exact Keep.pure _ _
              · dsimp only
                refine Keep.ite ?_ ?_
                · exact Keep.mono (keep_rosterFault ..) rfl
                · refine Keep.ite ?_ ?_
                  · refine Keep.bind ?_ fun _ => ?_
                    · exact Keep.mono (keep_noteRank ..) rfl
                    · exact Keep.mono (keep_modRoster ..) rfl
                  · exact Keep.pure _ _
          · exact Keep.pure _ _
    · exact Keep.pure _ _

theorem keep_ringGet (off : Nat) : Keep 0xf200f (ringGet off) := by
  delta ringGet
  refine Keep.bind ?_ fun _ => ?_
  · exact Keep.getS _
  · refine Keep.bind ?_ fun _ => ?_
    · exact Keep.mono (keep_readPhys ..) rfl
    · exact Keep.pure _ _

theorem keep_fetchDescs (a : CtxAcc) (prog : Nat) (x1 : Nat) : Keep 0x2f280f (fetchDescs a prog x1) := by
  induction x1 with
  | zero =>
    unfold fetchDescs
    exact Keep.pure _ _
  | succ _ ih =>
    unfold fetchDescs
    refine Keep.bind ?_ fun _ => ?_
    · exact ih
    · split
      · exact Keep.pure _ _
      · refine Keep.bind ?_ fun _ => ?_
        · exact Keep.mono (keep_ctxRead ..) rfl
        · split
          · exact Keep.pure _ _
          · exact Keep.pure _ _
          · refine Keep.ite ?_ ?_
            · exact Keep.pure _ _
            · exact Keep.pure _ _

theorem keep_flashDone (ok : Bool) : Keep 0x2c010042 (flashDone ok) := by
  delta flashDone
  refine Keep.bind ?_ fun _ => ?_
  · exact Keep.getS _
  · split
    · exact Keep.pure _ _
    · refine Keep.bind ?_ fun _ => ?_
      · exact Keep.mono (keep_modFlash ..) rfl
      · refine Keep.bind ?_ fun _ => ?_
        · exact Keep.mono (keep_setRegion ..) rfl
        · refine Keep.bind ?_ fun _ => ?_
          · refine Keep.when' ?_
            exact Keep.mono (keep_modDir ..) rfl
          · refine Keep.bind ?_ fun _ => ?_
            · exact Keep.mono (keep_sendResult ..) rfl
            · refine Keep.when' ?_
              exact Keep.mono (keep_restart ..) rfl

theorem keep_takeRow (o : Nat) (r : YRow) : Keep 0x400 (takeRow o r) := by
  delta takeRow
  refine Keep.bind ?_ fun _ => ?_
  · exact Keep.getS _
  · split
    · dsimp only
      refine Keep.ite ?_ ?_
      · exact Keep.mono (keep_modOx ..) rfl
      · exact Keep.mono (keep_modOx ..) rfl
    · exact Keep.pure _ _

theorem keep_takeOld (o : Nat) (spare : Nat) : Keep 0x402 (takeOld o spare) := by
  delta takeOld
  refine Keep.bind ?_ fun _ => ?_
  · exact Keep.getS _
  · dsimp only
    split
    · refine Keep.ite ?_ ?_
      · refine Keep.bind ?_ fun _ => ?_
        · exact Keep.mono (keep_takeRow ..) rfl
        · refine Keep.bind ?_ fun _ => ?_
          · exact Keep.mono (keep_modOx ..) rfl
          · refine Keep.bind ?_ fun _ => ?_
            · refine Keep.when' ?_
              exact Keep.mono (keep_bump ..) rfl
            · exact Keep.pure _ _
      · exact Keep.pure _ _
    · exact Keep.pure _ _

theorem keep_takeAll (n : Nat) (hold : Nat) (x1 : List Nat) (x2 : Nat) : Keep 0x402 (takeAll n hold x1 x2) := by
  induction x1 generalizing x2 with
  | nil =>
    unfold takeAll
    exact Keep.pure _ _
  | cons _ _ ih =>
    unfold takeAll
    refine Keep.ite ?_ ?_
    · exact ih ..
    · refine Keep.bind ?_ fun _ => ?_
      · exact Keep.mono (keep_takeOld ..) rfl
      · refine Keep.bind ?_ fun _ => ?_
        · exact ih ..
        · exact Keep.pure _ _

theorem keep_walkFor (a : CtxAcc) (n : Nat) (va : Nat) (write : Bool) : Keep 0xf288f (walkFor a n va write) := by
  delta walkFor
  refine Keep.bind ?_ fun _ => ?_
  · exact Keep.mono (keep_translate ..) rfl
  · split
    · exact Keep.mono (keep_faultFor ..) rfl
    · refine Keep.bind ?_ fun _ => ?_
      · exact Keep.mono (keep_dirWalk ..) rfl
      · split
        · exact Keep.mono (keep_faultFor ..) rfl
        · refine Keep.bind ?_ fun _ => ?_
          · exact Keep.getS _
          · split
            · exact Keep.mono (keep_faultFor ..) rfl
            · exact Keep.pure _ _

theorem keep_readReq (req : Nat) (cls : Nat) (addr : Nat) : Keep 0xf208f (readReq req cls addr) := by
  delta readReq
  refine Keep.bind ?_ fun _ => ?_
  · exact Keep.mono (keep_readLine ..) rfl
  · split
    · exact Keep.mono (keep_emit ..) rfl
    · exact Keep.mono (keep_emit ..) rfl
    · exact Keep.mono (keep_notPerformed ..) rfl
    · exact Keep.mono (keep_heldAnswer ..) rfl

theorem keep_offerIn (link : Bool) (f : Frame) : Keep 0xc0f200f (offerIn link f) := by
  delta offerIn
  refine Keep.bind ?_ fun _ => ?_
  · exact Keep.getS _
  · refine Keep.ite ?_ ?_
    · dsimp only
      refine Keep.ite ?_ ?_
      · exact Keep.pure _ _
      · refine Keep.ite ?_ ?_
        · refine Keep.when' ?_
          exact Keep.mono (keep_sendResult ..) rfl
        · refine Keep.bind ?_ fun _ => ?_
          · refine Keep.when' ?_
            exact Keep.mono (keep_setRegion ..) rfl
          · refine Keep.bind ?_ fun _ => ?_
            · exact Keep.mono (keep_modChain ..) rfl
            · refine Keep.when' ?_
              exact Keep.mono (keep_stageWhole ..) rfl
    · split
      · refine Keep.when' ?_
        refine Keep.bind ?_ fun _ => ?_
        · exact Keep.mono (keep_stageBytes ..) rfl
        · split
          · exact Keep.mono (keep_forwardObj ..) rfl
          · exact Keep.pure _ _
      · exact Keep.pure _ _

theorem keep_tokenIn (f : Frame) : Keep 0x3c15086e (tokenIn f) := by
  delta tokenIn
  refine Keep.bind ?_ fun _ => ?_
  · exact Keep.getS _
  · dsimp only
    refine Keep.ite ?_ ?_
    · refine Keep.ite ?_ ?_
      · exact Keep.mono (keep_flag ..) rfl
      · refine Keep.bind ?_ fun _ => ?_
        · exact Keep.mono (keep_setFld ..) rfl
        · refine Keep.bind ?_ fun _ => ?_
          · refine Keep.when' ?_
            exact Keep.mono (keep_modTime ..) rfl
          · refine Keep.bind ?_ fun _ => ?_
            · refine Keep.when' ?_
              exact Keep.mono (keep_masterTick ..) rfl
            · refine Keep.bind ?_ fun _ => ?_
              · exact Keep.mono (keep_passToken ..) rfl
              · refine Keep.when' ?_
                exact Keep.mono (keep_leavePhase3 ..) rfl
    · exact Keep.pure _ _

theorem keep_topGate (o : Nat) (p : RunPass) : Keep 0x882 (topGate o p) := by
  delta topGate
  refine Keep.bind ?_ fun _ => ?_
  · exact Keep.getS _
  · dsimp only
    refine Keep.ite ?_ ?_
    · exact Keep.pure _ _
    · split
      · refine Keep.bind ?_ fun _ => ?_
        · exact Keep.mono (keep_bankFaultOf ..) rfl
        · refine Keep.bind ?_ fun _ => ?_
          · exact Keep.mono (keep_bankFree ..) rfl
          · exact Keep.pure _ _
      · refine Keep.bind ?_ fun _ => ?_
        · exact Keep.mono (keep_bankHold ..) rfl
        · exact Keep.pure _ _
      · refine Keep.bind ?_ fun _ => ?_
        · exact Keep.mono (keep_bankFree ..) rfl
        · exact Keep.pure _ _

theorem keep_topCheck (o : Nat) (issue : Bool) : Keep 0x882 (topCheck o issue) := by
  delta topCheck
  refine Keep.bind ?_ fun _ => ?_
  · exact Keep.getS _
  · dsimp only
    split
    · refine Keep.when' ?_
      refine Keep.bind ?_ fun _ => ?_
      · exact Keep.mono (keep_topGate ..) rfl
      · exact Keep.pure _ _
    · exact Keep.pure _ _

theorem keep_attach (o : Nat) : Keep 0x400 (attach o) := by
  delta attach
  refine Keep.bind ?_ fun _ => ?_
  · exact Keep.getS _
  · dsimp only
    refine Keep.when' ?_
    exact Keep.mono (keep_modOx ..) rfl

theorem keep_noteLag (o : Nat) : Keep 0x2 (noteLag o) := by
  delta noteLag
  refine Keep.bind ?_ fun _ => ?_
  · exact Keep.getS _
  · dsimp only
    refine Keep.when' ?_
    exact Keep.mono (keep_setFld ..) rfl

theorem keep_placeRow (n : Nat) (hold : Nat) (took : Nat) (k : Nat) (r : YRow) : Keep 0x402 (placeRow n hold took k r) := by
  delta placeRow
  refine Keep.bind ?_ fun _ => ?_
  · exact Keep.getS _
  · dsimp only
    refine Keep.ite ?_ ?_
    · exact Keep.mono (keep_modOx ..) rfl
    · refine Keep.ite ?_ ?_
      · exact Keep.mono (keep_takeRow ..) rfl
      · refine Keep.ite ?_ ?_
        · refine Keep.bind ?_ fun _ => ?_
          · exact Keep.mono (keep_bump ..) rfl
          · exact Keep.mono (keep_modOx ..) rfl
        · refine Keep.bind ?_ fun _ => ?_
          · exact Keep.mono (keep_bump ..) rfl
          · exact Keep.mono (keep_modOx ..) rfl

theorem keep_yokeCycle (n : Nat) (issue : Bool) (hold : Nat) : Keep 0xc82 (yokeCycle n issue hold) := by
  delta yokeCycle
  refine Keep.bind ?_ fun _ => ?_
  · refine Keep.each fun _ => ?_
    refine Keep.bind ?_ fun _ => ?_
    · exact Keep.getS _
    · refine Keep.bind ?_ fun _ => ?_
      · refine Keep.when' ?_
        exact Keep.mono (keep_giveRow ..) rfl
      · exact Keep.mono (keep_topCheck ..) rfl
  · refine Keep.bind ?_ fun _ => ?_
    · exact Keep.getS _
    · dsimp only
      refine Keep.bind ?_ fun _ => ?_
      · exact Keep.mono (keep_takeAll ..) rfl
      · refine Keep.bind ?_ fun _ => ?_
        · refine Keep.each fun _ => ?_
          exact Keep.mono (keep_attach ..) rfl
        · split
          · split
            · refine Keep.bind ?_ fun _ => ?_
              · exact Keep.mono (keep_bump ..) rfl
              · refine Keep.bind ?_ fun _ => ?_
                · exact Keep.mono (keep_setFld ..) rfl
                · refine Keep.bind ?_ fun _ => ?_
                  · refine Keep.each fun _ => ?_
                    exact Keep.mono (keep_placeRow ..) rfl
                  · refine Keep.ite ?_ ?_
                    · refine Keep.bind ?_ fun _ => ?_
                      · exact Keep.mono (keep_modCore ..) rfl
                      · refine Keep.bind ?_ fun _ => ?_
                        · exact Keep.mono (keep_setFld ..) rfl
                        · refine Keep.bind ?_ fun _ => ?_
                          · exact Keep.getS _
                          · refine Keep.bind ?_ fun _ => ?_
                            · refine Keep.when' ?_
                              exact Keep.mono (keep_modCore ..) rfl
                            · refine Keep.each fun _ => ?_
                              refine Keep.bind ?_ fun _ => ?_
                              · exact Keep.mono (keep_noteHold ..) rfl
                              · exact Keep.mono (keep_noteLag ..) rfl
                    · refine Keep.bind ?_ fun _ => ?_
                      · exact Keep.mono (keep_modCore ..) rfl
                      · refine Keep.bind ?_ fun _ => ?_
                        · exact Keep.getS _
                        · refine Keep.bind ?_ fun _ => ?_
                          · refine Keep.when' ?_
                            exact Keep.mono (keep_modCore ..) rfl
                          · refine Keep.each fun _ => ?_
                            refine Keep.bind ?_ fun _ => ?_
                            · exact Keep.mono (keep_noteHold ..) rfl
                            · exact Keep.mono (keep_noteLag ..) rfl
            · refine Keep.bind ?_ fun _ => ?_
              · exact Keep.mono (keep_modCore ..) rfl
              · refine Keep.bind ?_ fun _ => ?_
                · exact Keep.getS _
                · refine Keep.bind ?_ fun _ => ?_
                  · refine Keep.when' ?_
                    exact Keep.mono (keep_modCore ..) rfl
                  · refine Keep.each fun _ => ?_
                    refine Keep.bind ?_ fun _ => ?_
                    · exact Keep.mono (keep_noteHold ..) rfl
                    · exact Keep.mono (keep_noteLag ..) rfl
          · refine Keep.bind ?_ fun _ => ?_
            · exact Keep.getS _
            · refine Keep.bind ?_ fun _ => ?_
              · refine Keep.when' ?_
                exact Keep.mono (keep_modCore ..) rfl
              · refine Keep.each fun _ => ?_
                refine Keep.bind ?_ fun _ => ?_
                · exact Keep.mono (keep_noteHold ..) rfl
                · exact Keep.mono (keep_noteLag ..) rfl

theorem keep_verifyLines (c : Nat) (e : Nat) (x1 : Nat) (x2 : Nat) : Keep 0xf288f (verifyLines c e x1 x2) := by
  induction x1 generalizing x2 with
  | zero =>
    unfold verifyLines
    exact Keep.pure _ _
  | succ _ ih =>
    unfold verifyLines
    refine Keep.bind ?_ fun _ => ?_
    · exact Keep.mono (keep_verifyLine ..) rfl
    · split
      · exact Keep.pure _ _
      · refine Keep.bind ?_ fun _ => ?_
        · exact ih ..
        · split
          · exact Keep.pure _ _
          · exact Keep.pure _ _

theorem keep_writeNow (req : Nat) (addr : Nat) (data : Nat) (mask : Nat) (poison : Bool) : Keep 0xf208f (writeNow req addr data mask poison) := by
  delta writeNow
  refine Keep.bind ?_ fun _ => ?_
  · exact Keep.mono (keep_writeLine ..) rfl
  · split
    · exact Keep.pure _ _
    · exact Keep.mono (keep_notPerformed ..) rfl
    · exact Keep.mono (keep_heldAnswer ..) rfl
    · refine Keep.ite ?_ ?_
      · exact Keep.mono (keep_faultCore ..) rfl
      · exact Keep.mono (keep_emit ..) rfl

theorem keep_dataIn (f : Frame) : Keep 0xc0f200f (dataIn f) := by
  delta dataIn
  refine Keep.bind ?_ fun _ => ?_
  · exact Keep.getS _
  · split
    · exact Keep.pure _ _
    · refine Keep.ite ?_ ?_
      · dsimp only
        refine Keep.bind ?_ fun _ => ?_
        · refine Keep.when' ?_
          exact Keep.mono (keep_stagePut ..) rfl
        · refine Keep.bind ?_ fun _ => ?_
          · exact Keep.mono (keep_modChain ..) rfl
          · refine Keep.when' ?_
            exact Keep.mono (keep_stageWhole ..) rfl
      · exact Keep.pure _ _

theorem keep_markLost (f : Nat) (d : Nat) : Keep 0xf200f (markLost f d) := by
  delta markLost
  refine Keep.bind ?_ fun _ => ?_
  · exact Keep.getS _
  · refine Keep.bind ?_ fun _ => ?_
    · exact Keep.mono (keep_writeDir ..) rfl
    · refine Keep.bind ?_ fun _ => ?_
      · exact Keep.mono (keep_writeDir ..) rfl
      · refine Keep.bind ?_ fun _ => ?_
        · exact Keep.mono (keep_modWagon ..) rfl
        · exact Keep.mono (keep_bump ..) rfl

theorem keep_resumeDone  : Keep 0xf200f (resumeDone ) := by
  delta resumeDone
  refine Keep.bind ?_ fun _ => ?_
  · exact Keep.getS _
  · refine Keep.ite ?_ ?_
    · dsimp only
      refine Keep.bind ?_ fun _ => ?_
      · exact Keep.mono (keep_readPhys ..) rfl
      · split
        · exact Keep.pure _ _
        · refine Keep.bind ?_ fun _ => ?_
          · exact Keep.mono (keep_modWagon ..) rfl
          · refine Keep.bind ?_ fun _ => ?_
            · exact Keep.mono (keep_setFld ..) rfl
            · refine Keep.bind ?_ fun _ => ?_
              · refine Keep.each fun _ => ?_
                exact Keep.mono (keep_markLost ..) rfl
              · refine Keep.when' ?_
                refine Keep.bind ?_ fun _ => ?_
                · exact Keep.mono (keep_hintDrop ..) rfl
                · exact Keep.mono (keep_modWagon ..) rfl
    · exact Keep.pure _ _

theorem keep_laneReg (st : Nat) (ch : Nat) (k : Nat) (r : Nat) (bad : Bool) : Keep 0x2 (laneReg st ch k r bad) := by
  delta laneReg
  exact Keep.mono (keep_setReg ..) rfl

theorem keep_hbmTrained (st : Nat) (r : Nat) (fails : List (Fin 32 × Nat)) (untrained : List (Fin 32)) : Keep 0x2806 (hbmTrained st r fails untrained) := by
  delta hbmTrained
  refine Keep.bind ?_ fun _ => ?_
  · exact Keep.getS _
  · dsimp only
    refine Keep.ite ?_ ?_
    · refine Keep.bind ?_ fun _ => ?_
      · refine Keep.each fun _ => ?_
        exact Keep.mono (keep_laneReg ..) rfl
      · refine Keep.bind ?_ fun _ => ?_
        · refine Keep.when' ?_
          exact Keep.mono (keep_flag ..) rfl
        · refine Keep.bind ?_ fun _ => ?_
          · refine Keep.when' ?_
            exact Keep.mono (keep_flag ..) rfl
          · refine Keep.bind ?_ fun _ => ?_
            · exact Keep.mono (keep_setFld ..) rfl
            · refine Keep.bind ?_ fun _ => ?_
              · exact Keep.mono (keep_modStack ..) rfl
              · refine Keep.bind ?_ fun _ => ?_
                · exact Keep.mono (keep_capUpdate ..) rfl
                · exact Keep.mono (keep_startTry ..) rfl
    · exact Keep.pure _ _

theorem keep_bindTry (n : Nat) (k : Nat) : Keep 0x882 (bindTry n k) := by
  delta bindTry
  refine Keep.bind ?_ fun _ => ?_
  · exact Keep.getS _
  · refine Keep.ite ?_ ?_
    · refine Keep.bind ?_ fun _ => ?_
      · refine Keep.each fun _ => ?_
        refine Keep.bind ?_ fun _ => ?_
        · exact Keep.getS _
        · dsimp only
          refine Keep.ite ?_ ?_
          · exact Keep.mono (keep_bankFault ..) rfl
          · refine Keep.when' ?_
            refine Keep.bind ?_ fun _ => ?_
            · exact Keep.mono (keep_setBind ..) rfl
            · exact Keep.mono (keep_modCore ..) rfl
      · refine Keep.bind ?_ fun _ => ?_
        · exact Keep.getS _
        · refine Keep.when' ?_
          exact Keep.mono (keep_bump ..) rfl
    · exact Keep.pure _ _

theorem keep_holdRefused (n : Nat) (k : Nat) (d : Nat) (u : Nat) : Keep 0x20802 (holdRefused n k d u) := by
  delta holdRefused
  refine Keep.bind ?_ fun _ => ?_
  · exact Keep.getS _
  · dsimp only
    refine Keep.ite ?_ ?_
    · refine Keep.bind ?_ fun _ => ?_
      · refine Keep.when' ?_
        exact Keep.mono (keep_bump ..) rfl
      · exact Keep.mono (keep_noteTile ..) rfl
    · exact Keep.pure _ _

theorem keep_segmentBegin (n : Nat) (ready : Bool) : Keep 0xc82 (segmentBegin n ready) := by
  delta segmentBegin
  refine Keep.bind ?_ fun _ => ?_
  · exact Keep.getS _
  · dsimp only
    refine Keep.ite ?_ ?_
    · split
      · refine Keep.bind ?_ fun _ => ?_
        · refine Keep.each fun _ => ?_
          refine Keep.bind ?_ fun _ => ?_
          · exact Keep.getS _
          · split
            · refine Keep.ite ?_ ?_
              · refine Keep.bind ?_ fun _ => ?_
                · exact Keep.mono (keep_checkHead ..) rfl
                · exact Keep.pure _ _
              · exact Keep.pure _ _
            · exact Keep.pure _ _
        · refine Keep.bind ?_ fun _ => ?_
          · exact Keep.getS _
          · refine Keep.ite ?_ ?_
            · refine Keep.bind ?_ fun _ => ?_
              · exact Keep.mono (keep_modCore ..) rfl
              · exact Keep.mono (keep_setFld ..) rfl
            · exact Keep.mono (keep_bump ..) rfl
      · exact Keep.pure _ _
    · exact Keep.pure _ _

theorem keep_portOut (port : Nat) : Keep 0x800002 (portOut port) := by
  delta portOut
  refine Keep.bind ?_ fun _ => ?_
  · exact Keep.getS _
  · refine Keep.bind ?_ fun _ => ?_
    · exact Keep.mono (keep_bumpBy ..) rfl
    · dsimp only
      refine Keep.bind ?_ fun _ => ?_
      · exact Keep.mono (keep_setFld ..) rfl
      · refine Keep.bind ?_ fun _ => ?_
        · exact Keep.mono (keep_setFld ..) rfl
        · refine Keep.bind ?_ fun _ => ?_
          · exact Keep.mono (keep_setFld ..) rfl
          · refine Keep.bind ?_ fun _ => ?_
            · exact Keep.mono (keep_setFld ..) rfl
            · refine Keep.bind ?_ fun _ => ?_
              · exact Keep.mono (keep_setFld ..) rfl
              · refine Keep.bind ?_ fun _ => ?_
                · exact Keep.mono (keep_setLanes ..) rfl
                · refine Keep.bind ?_ fun _ => ?_
                  · exact Keep.mono (keep_setLanes ..) rfl
                  · refine Keep.bind ?_ fun _ => ?_
                    · exact Keep.mono (keep_setReg ..) rfl
                    · refine Keep.bind ?_ fun _ => ?_
                      · exact Keep.mono (keep_setReg ..) rfl
                      · exact Keep.mono (keep_modPort ..) rfl

theorem keep_trainPort (port : Nat) (tx : Nat) (rx : Nat) (peer : Nat) : Keep 0x810002 (trainPort port tx rx peer) := by
  delta trainPort
  refine Keep.bind ?_ fun _ => ?_
  · exact Keep.getS _
  · dsimp only
    refine Keep.ite ?_ ?_
    · refine Keep.bind ?_ fun _ => ?_
      · exact Keep.mono (keep_portOut ..) rfl
      · exact Keep.mono (keep_capUpdate ..) rfl
    · refine Keep.bind ?_ fun _ => ?_
      · exact Keep.mono (keep_setFld ..) rfl
      · refine Keep.bind ?_ fun _ => ?_
        · exact Keep.mono (keep_setFld ..) rfl
        · refine Keep.bind ?_ fun _ => ?_
          · exact Keep.mono (keep_setFld ..) rfl
          · refine Keep.bind ?_ fun _ => ?_
            · exact Keep.mono (keep_setFld ..) rfl
            · refine Keep.bind ?_ fun _ => ?_
              · exact Keep.mono (keep_setFld ..) rfl
              · refine Keep.bind ?_ fun _ => ?_
                · exact Keep.mono (keep_setLanes ..) rfl
                · refine Keep.bind ?_ fun _ => ?_
                  · exact Keep.mono (keep_setLanes ..) rfl
                  · refine Keep.bind ?_ fun _ => ?_
                    · exact Keep.mono (keep_setReg ..) rfl
                    · refine Keep.bind ?_ fun _ => ?_
                      · exact Keep.mono (keep_setReg ..) rfl
                      · refine Keep.bind ?_ fun _ => ?_
                        · exact Keep.mono (keep_modPort ..) rfl
                        · refine Keep.bind ?_ fun _ => ?_
                          · exact Keep.mono (keep_resendFrom ..) rfl
                          · refine Keep.bind ?_ fun _ => ?_
                            · exact Keep.mono (keep_pumpPort ..) rfl
                            · exact Keep.mono (keep_capUpdate ..) rfl

theorem keep_writeReq (req : Nat) (addr : Nat) (data : Nat) (mask : Nat) (poison : Bool) : Keep 0xf208f (writeReq req addr data mask poison) := by
  delta writeReq
  refine Keep.bind ?_ fun _ => ?_
  · exact Keep.getS _
  · refine keep_submit (hs := rfl) (h := ?_) ..
    exact Keep.mono (keep_writeNow ..) rfl

theorem keep_standCore (n : Nat) : Keep 0x100280f (standCore n) := by
  delta standCore
  refine Keep.bind ?_ fun _ => ?_
  · exact Keep.mono (keep_fenceOf ..) rfl
  · refine Keep.bind ?_ fun _ => ?_
    · exact Keep.mono (keep_putArea ..) rfl
    · refine Keep.bind ?_ fun _ => ?_
      · exact Keep.mono (keep_modFab ..) rfl
      · refine Keep.bind ?_ fun _ => ?_
        · exact Keep.mono (keep_modCore ..) rfl
        · refine Keep.bind ?_ fun _ => ?_
          · exact Keep.mono (keep_setFld ..) rfl
          · exact Keep.mono (keep_setFld ..) rfl

theorem keep_coreStops (n : Nat) : Keep 0x10f388f (coreStops n) := by
  delta coreStops
  refine Keep.bind ?_ fun _ => ?_
  · exact Keep.getS _
  · split
    · exact Keep.pure _ _
    · split
      · exact Keep.pure _ _
      · refine Keep.bind ?_ fun _ => ?_
        · refine Keep.when' ?_
          exact Keep.mono (keep_saveBegins ..) rfl
        · refine Keep.bind ?_ fun _ => ?_
          · refine Keep.when' ?_
            exact Keep.mono (keep_standCore ..) rfl
          · refine Keep.bind ?_ fun _ => ?_
            · exact Keep.getS _
            · split
              · refine Keep.when' ?_
                exact Keep.mono (keep_copyImage ..) rfl
              · exact Keep.pure _ _

theorem keep_ringSample  : Keep 0x12f200f (ringSample ) := by
  delta ringSample
  refine Keep.bind ?_ fun _ => ?_
  · exact Keep.getS _
  · refine Keep.ite ?_ ?_
    · dsimp only
      refine Keep.ite ?_ ?_
      · refine Keep.bind ?_ fun _ => ?_
        · exact Keep.mono (keep_ringGet ..) rfl
        · refine Keep.bind ?_ fun _ => ?_
          · exact Keep.mono (keep_ringGet ..) rfl
          · split
            · refine Keep.bind ?_ fun _ => ?_
              · exact Keep.mono (keep_modRing ..) rfl
              · refine Keep.bind ?_ fun _ => ?_
                · exact Keep.getS _
                · refine Keep.ite ?_ ?_
                  · refine Keep.bind ?_ fun _ => ?_
                    · exact Keep.mono (keep_ringGet ..) rfl
                    · split
                      · exact Keep.pure _ _
                      · refine Keep.ite ?_ ?_
                        · exact Keep.mono (keep_note ..) rfl
                        · refine Keep.when' ?_
                          exact Keep.mono (keep_modRing ..) rfl
                  · exact Keep.pure _ _
            · refine Keep.bind ?_ fun _ => ?_
              · exact Keep.getS _
              · refine Keep.ite ?_ ?_
                · refine Keep.bind ?_ fun _ => ?_
                  · exact Keep.mono (keep_ringGet ..) rfl
                  · split
                    · exact Keep.pure _ _
                    · refine Keep.ite ?_ ?_
                      · exact Keep.mono (keep_note ..) rfl
                      · refine Keep.when' ?_
                        exact Keep.mono (keep_modRing ..) rfl
                · exact Keep.pure _ _
      · refine Keep.bind ?_ fun _ => ?_
        · exact Keep.getS _
        · refine Keep.ite ?_ ?_
          · refine Keep.bind ?_ fun _ => ?_
            · exact Keep.mono (keep_ringGet ..) rfl
            · split
              · exact Keep.pure _ _
              · refine Keep.ite ?_ ?_
                · exact Keep.mono (keep_note ..) rfl
                · refine Keep.when' ?_
                  exact Keep.mono (keep_modRing ..) rfl
          · exact Keep.pure _ _
    · exact Keep.pure _ _

theorem keep_readCtxReq (n : Nat) (cls : Nat) (va : Nat) : Keep 0x2f288f (readCtxReq n cls va) := by
  delta readCtxReq
  refine Keep.bind ?_ fun _ => ?_
  · exact Keep.getS _
  · dsimp only
    refine Keep.bind ?_ fun _ => ?_
    · exact Keep.mono (keep_ctxLine ..) rfl
    · split
      · refine Keep.ite ?_ ?_
        · refine Keep.bind ?_ fun _ => ?_
          · exact Keep.mono (keep_faultCore ..) rfl
          · exact Keep.mono (keep_emit ..) rfl
        · exact Keep.mono (keep_emit ..) rfl
      · refine Keep.bind ?_ fun _ => ?_
        · exact Keep.mono (keep_faultCore ..) rfl
        · exact Keep.mono (keep_emit ..) rfl
      · split
        · refine Keep.bind ?_ fun _ => ?_
          · exact Keep.mono (keep_noteWait ..) rfl
          · exact Keep.mono (keep_heldAnswer ..) rfl
        · refine Keep.bind ?_ fun _ => ?_
          · exact Keep.mono (keep_faultFor ..) rfl
          · exact Keep.mono (keep_emit ..) rfl

theorem keep_completeReset (d : Nat) (u : Nat) : Keep 0x600002 (completeReset d u) := by
  delta completeReset
  refine Keep.bind ?_ fun _ => ?_
  · exact Keep.getS _
  · split
    · exact Keep.pure _ _
    · dsimp only
      refine Keep.ite ?_ ?_
      · refine Keep.bind ?_ fun _ => ?_
        · exact Keep.mono (keep_modResets ..) rfl
        · refine Keep.bind ?_ fun _ => ?_
          · refine Keep.each fun _ => ?_
            refine Keep.bind ?_ fun _ => ?_
            · exact Keep.mono (keep_addMod ..) rfl
            · exact Keep.mono (keep_setFld ..) rfl
          · refine Keep.bind ?_ fun _ => ?_
            · exact Keep.mono (keep_setFld ..) rfl
            · refine Keep.bind ?_ fun _ => ?_
              · exact Keep.mono (keep_note ..) rfl
              · refine Keep.bind ?_ fun _ => ?_
                · exact Keep.mono (keep_modTrPend ..) rfl
                · exact Keep.mono (keep_capUpdate ..) rfl
      · exact Keep.pure _ _

theorem keep_bindBank (n : Nat) (k : Nat) (b : Nat) (code : Nat) : Keep 0x882 (bindBank n k b code) := by
  delta bindBank
  refine Keep.bind ?_ fun _ => ?_
  · exact Keep.getS _
  · refine Keep.ite ?_ ?_
    · exact Keep.mono (keep_bankFault ..) rfl
    · refine Keep.ite ?_ ?_
      · exact Keep.mono (keep_setBind ..) rfl
      · exact Keep.mono (keep_modCore ..) rfl

theorem keep_programStart (n : Nat) : Keep 0x2f288f (programStart n) := by
  delta programStart
  refine Keep.bind ?_ fun _ => ?_
  · exact Keep.getS _
  · dsimp only
    split
    · exact Keep.pure _ _
    · refine Keep.ite ?_ ?_
      · refine Keep.bind ?_ fun _ => ?_
        · exact Keep.mono (keep_fetchDescs ..) rfl
        · split
          · exact Keep.pure _ _
          · refine Keep.bind ?_ fun _ => ?_
            · exact Keep.mono (keep_modCore ..) rfl
            · exact Keep.mono (keep_streamFault ..) rfl
          · refine Keep.bind ?_ fun _ => ?_
            · exact Keep.mono (keep_modCore ..) rfl
            · split
              · exact Keep.mono (keep_streamFault ..) rfl
              · refine Keep.bind ?_ fun _ => ?_
                · exact Keep.mono (keep_modCore ..) rfl
                · refine Keep.bind ?_ fun _ => ?_
                  · refine Keep.each fun _ => ?_
                    exact Keep.mono (keep_setReg ..) rfl
                  · refine Keep.bind ?_ fun _ => ?_
                    · refine Keep.each fun _ => ?_
                      exact Keep.mono (keep_setReg ..) rfl
                    · refine Keep.bind ?_ fun _ => ?_
                      · exact Keep.mono (keep_setFld ..) rfl
                      · refine Keep.bind ?_ fun _ => ?_
                        · exact Keep.mono (keep_setFld ..) rfl
                        · refine Keep.each fun _ => ?_
                          exact Keep.mono (keep_bindBank ..) rfl
      · exact Keep.pure _ _

theorem keep_regRow (who : Who) (a : Nat) (size : Nat) (data : Option Nat) : Keep 0x231f3c8f (regRow who a size data) := by
  delta regRow
  refine Keep.ite ?_ ?_
  · refine Keep.bind ?_ fun _ => ?_
    · exact Keep.mono (keep_regAccess ..) rfl
    · split
      · refine Keep.when' ?_
        exact Keep.mono (keep_emit ..) rfl
      · exact Keep.pure _ _
      · exact Keep.mono (keep_notDone ..) rfl
      · exact Keep.mono (keep_emit ..) rfl
  · refine Keep.bind ?_ fun _ => ?_
    · exact Keep.getS _
    · refine Keep.when' ?_
      exact Keep.mono (keep_notDone ..) rfl

theorem keep_retireDone (st : Nat) : Keep 0x10200f (retireDone st) := by
  delta retireDone
  refine Keep.bind ?_ fun _ => ?_
  · exact Keep.getS _
  · split
    · refine Keep.ite ?_ ?_
      · refine Keep.bind ?_ fun _ => ?_
        · exact Keep.mono (keep_movePage ..) rfl
        · dsimp only
          split
          · refine Keep.bind ?_ fun _ => ?_
            · exact Keep.mono (keep_setReg ..) rfl
            · refine Keep.bind ?_ fun _ => ?_
              · exact Keep.mono (keep_modStack ..) rfl
              · refine Keep.bind ?_ fun _ => ?_
                · exact Keep.mono (keep_setFld ..) rfl
                · refine Keep.bind ?_ fun _ => ?_
                  · exact Keep.getS _
                  · refine Keep.bind ?_ fun _ => ?_
                    · exact Keep.mono (keep_setFld ..) rfl
                    · refine Keep.bind ?_ fun _ => ?_
                      · exact Keep.mono (keep_historyAdd ..) rfl
                      · refine Keep.when' ?_
                        exact Keep.mono (keep_capUpdate ..) rfl
          · refine Keep.bind ?_ fun _ => ?_
            · exact Keep.mono (keep_modStack ..) rfl
            · refine Keep.bind ?_ fun _ => ?_
              · exact Keep.mono (keep_setFld ..) rfl
              · refine Keep.bind ?_ fun _ => ?_
                · exact Keep.getS _
                · refine Keep.bind ?_ fun _ => ?_
                  · exact Keep.mono (keep_setFld ..) rfl
                  · refine Keep.bind ?_ fun _ => ?_
                    · exact Keep.mono (keep_historyAdd ..) rfl
                    · refine Keep.when' ?_
                      exact Keep.mono (keep_capUpdate ..) rfl
      · exact Keep.pure _ _
    · exact Keep.pure _ _

theorem keep_verifyComplete  : Keep 0x20f288f (verifyComplete ) := by
  delta verifyComplete
  refine Keep.bind ?_ fun _ => ?_
  · exact Keep.getS _
  · split
    · exact Keep.pure _ _
    · refine Keep.bind ?_ fun _ => ?_
      · exact Keep.mono (keep_verifyLines ..) rfl
      · split
        · exact Keep.pure _ _
        · refine Keep.bind ?_ fun _ => ?_
          · exact Keep.mono (keep_modSec ..) rfl
          · refine Keep.bind ?_ fun _ => ?_
            · exact Keep.mono (keep_setFld ..) rfl
            · refine Keep.bind ?_ fun _ => ?_
              · exact Keep.mono (keep_bumpBy ..) rfl
              · refine Keep.when' ?_
                refine Keep.bind ?_ fun _ => ?_
                · exact Keep.mono (keep_bump ..) rfl
                · exact Keep.mono (keep_flag ..) rfl

theorem keep_resultIn (f : Frame) : Keep 0x8010002 (resultIn f) := by
  delta resultIn
  refine Keep.bind ?_ fun _ => ?_
  · exact Keep.mono (keep_modChain ..) rfl
  · exact Keep.mono (keep_upstream ..) rfl

theorem keep_delayIn (link : Bool) (f : Frame) (loop : Nat) : Keep 0x8010002 (delayIn link f loop) := by
  delta delayIn
  refine Keep.ite ?_ ?_
  · exact Keep.mono (keep_hopDelay ..) rfl
  · refine Keep.bind ?_ fun _ => ?_
    · exact Keep.getS _
    · exact Keep.mono (keep_sendFrame ..) rfl

end Sys2Proof.Machine
end

