-- ==== Sys2Proof/Laws/Map.lean ====
section
/-!
SUPPORT. Laws/Map.lean: what a sparse map reads as after each operation, and that every operation keeps the canonical form.
-/

namespace Sys2Proof.Machine

variable {α : Type} [DecidableEq α] {d : Nat → α} {m : SMap α} {k j lo : Nat} {v : α}

/-! ## Reading -/

omit [DecidableEq α] in
theorem mget_merase : mget d (merase k m) j = if j = k then d k else mget d m j := by
  induction m with
  | nil => unfold merase mget; split <;> simp_all [mget]
  | cons e m ih =>
    obtain ⟨i, w⟩ := e
    unfold merase at *
    by_cases h : i = k
    · subst h
      simp only [List.filter_cons, bne_self_eq_false, Bool.false_eq_true, if_false, ih, mget]
      split <;> simp_all
    · simp only [List.filter_cons, bne_iff_ne, ne_eq, h, not_false_eq_true, if_true, mget, ih]
      split
      · next h' => subst h'; simp [h]
      · rfl

omit [DecidableEq α] in
theorem mget_minsert : mget d (minsert k v m) j = if j = k then v else mget d m j := by
  induction m with
  | nil => simp [minsert, mget]
  | cons e m ih =>
    obtain ⟨i, w⟩ := e
    unfold minsert
    split
    · rfl
    · split
      · next h => subst h; simp only [mget]; split <;> simp_all
      · simp only [mget, ih]; split <;> split <;> simp_all

/-- A write is read back, and changes nothing else. -/
theorem mget_mset : mget d (mset d m k v) j = if j = k then v else mget d m j := by
  unfold mset
  split
  · next h => rw [mget_merase]; simp [h]
  · rw [mget_minsert]

omit [DecidableEq α] in
theorem mget_mreset (p : Nat → Bool) : mget d (mreset p m) j = if p j then d j else mget d m j := by
  induction m with
  | nil => simp [mreset, mget]
  | cons e m ih =>
    obtain ⟨i, w⟩ := e
    unfold mreset at *
    by_cases h : p i = true
    · simp only [List.filter_cons, h, Bool.not_true, Bool.false_eq_true, if_false, ih, mget]
      split <;> [rfl; skip]
      split
      · next h1 h2 => subst h2; exact absurd h h1
      · rfl
    · simp only [List.filter_cons, h, Bool.not_false, if_true, mget, ih]
      split
      · next h2 => subst h2; simp [h]
      · rfl

/-! ## The canonical form -/

theorem mwfFrom_mono {lo' : Nat} (h : mwfFrom d lo m = true) (hl : lo' ≤ lo) : mwfFrom d lo' m = true := by
  cases m with
  | nil => rfl
  | cons e m =>
    obtain ⟨i, w⟩ := e
    simp only [mwfFrom, Bool.and_eq_true, decide_eq_true_eq] at *
    exact ⟨⟨by omega, h.1.2⟩, h.2⟩

theorem mwfFrom_filter (p : Nat × α → Bool) (h : mwfFrom d lo m = true) : mwfFrom d lo (m.filter p) = true := by
  induction m generalizing lo with
  | nil => rfl
  | cons e m ih =>
    obtain ⟨i, w⟩ := e
    simp only [mwfFrom, Bool.and_eq_true, decide_eq_true_eq] at h
    rw [List.filter_cons]
    split
    · simp only [mwfFrom, Bool.and_eq_true, decide_eq_true_eq]
      exact ⟨h.1, ih h.2⟩
    · exact ih (mwfFrom_mono h.2 (by omega))

theorem mwfFrom_minsert (h : mwfFrom d lo m = true) (hk : lo ≤ k) (hv : v ≠ d k) : mwfFrom d lo (minsert k v m) = true := by
  induction m generalizing lo with
  | nil => simp [minsert, mwfFrom, hk, hv]
  | cons e m ih =>
    obtain ⟨i, w⟩ := e
    simp only [mwfFrom, Bool.and_eq_true, decide_eq_true_eq] at h
    unfold minsert
    split
    · simp only [mwfFrom, Bool.and_eq_true, decide_eq_true_eq]
      exact ⟨⟨hk, hv⟩, ⟨⟨by omega, h.1.2⟩, h.2⟩⟩
    · split
      · next h' => subst h'; simp only [mwfFrom, Bool.and_eq_true, decide_eq_true_eq]; exact ⟨⟨hk, hv⟩, h.2⟩
      · simp only [mwfFrom, Bool.and_eq_true, decide_eq_true_eq]
        exact ⟨h.1, ih h.2 (by omega)⟩

/-- A write keeps the canonical form. -/
theorem mwf_mset (h : mwf d m = true) : mwf d (mset d m k v) = true := by
  unfold mwf mset at *
  split
  · exact mwfFrom_filter _ h
  · next hv => exact mwfFrom_minsert h (Nat.zero_le _) hv

theorem mwf_mmod (f : α → α) (h : mwf d m = true) : mwf d (mmod d m k f) = true := mwf_mset h

theorem mwf_mreset (p : Nat → Bool) (h : mwf d m = true) : mwf d (mreset p m) = true := mwfFrom_filter _ h

theorem mwf_msetRun (vs : List α) (h : mwf d m = true) : mwf d (msetRun d m k vs) = true := by
  induction vs generalizing m k with
  | nil => exact h
  | cons v vs ih => exact ih (mwf_mset h)

theorem mwf_msetAll (es : List (Nat × α)) (h : mwf d m = true) : mwf d (msetAll d m es) = true := by
  induction es generalizing m with
  | nil => exact h
  | cons e es ih => exact ih (mwf_mset h)

theorem mwf_mcopy {m : List Host.Cell} (src dst len : Nat) (h : mwf (fun _ => (0 : Byte)) m = true) :
    mwf (fun _ => (0 : Byte)) (mcopy m src dst len) = true := mwf_msetAll _ (mwf_mreset _ h)

end Sys2Proof.Machine
end

