-- ==== Sys2Proof/Laws/State.lean ====
section
/-!
SUPPORT. Laws/State.lean: what each change of a state leaves, one lemma per change and field, true by unfolding.
-/

namespace Sys2Proof.Machine

@[simp] theorem putFreeCtr_part (f : Nat → Nat) (s : State) : (s.putFreeCtr f).part = s.part := Eq.trans rfl rfl
@[simp] theorem putFreeCtr_pending (f : Nat → Nat) (s : State) : (s.putFreeCtr f).pending = s.pending := Eq.trans rfl rfl
@[simp] theorem putFreeCtr_freeCtr (f : Nat → Nat) (s : State) : (s.putFreeCtr f).freeCtr = f s.freeCtr := Eq.trans rfl rfl
@[simp] theorem putFreeCtr_regs (f : Nat → Nat) (s : State) : (s.putFreeCtr f).regs = s.regs := Eq.trans rfl rfl
@[simp] theorem putFreeCtr_mem (f : Nat → Nat) (s : State) : (s.putFreeCtr f).mem = s.mem := Eq.trans rfl rfl
@[simp] theorem putFreeCtr_syn (f : Nat → Nat) (s : State) : (s.putFreeCtr f).syn = s.syn := Eq.trans rfl rfl
@[simp] theorem putFreeCtr_draw (f : Nat → Nat) (s : State) : (s.putFreeCtr f).draw = s.draw := Eq.trans rfl rfl
@[simp] theorem putFreeCtr_tick (f : Nat → Nat) (s : State) : (s.putFreeCtr f).tick = s.tick := Eq.trans rfl rfl
@[simp] theorem putFreeCtr_time (f : Nat → Nat) (s : State) : (s.putFreeCtr f).time = s.time := Eq.trans rfl rfl
@[simp] theorem putFreeCtr_latched (f : Nat → Nat) (s : State) : (s.putFreeCtr f).latched = s.latched := Eq.trans rfl rfl
@[simp] theorem putFreeCtr_due (f : Nat → Nat) (s : State) : (s.putFreeCtr f).due = s.due := Eq.trans rfl rfl
@[simp] theorem putFreeCtr_lineErrs (f : Nat → Nat) (s : State) : (s.putFreeCtr f).lineErrs = s.lineErrs := Eq.trans rfl rfl
@[simp] theorem putFreeCtr_oxen (f : Nat → Nat) (s : State) : (s.putFreeCtr f).oxen = s.oxen := Eq.trans rfl rfl
@[simp] theorem putFreeCtr_cores (f : Nat → Nat) (s : State) : (s.putFreeCtr f).cores = s.cores := Eq.trans rfl rfl
@[simp] theorem putFreeCtr_ctxs (f : Nat → Nat) (s : State) : (s.putFreeCtr f).ctxs = s.ctxs := Eq.trans rfl rfl
@[simp] theorem putFreeCtr_hbm (f : Nat → Nat) (s : State) : (s.putFreeCtr f).hbm = s.hbm := Eq.trans rfl rfl
@[simp] theorem putFreeCtr_trouble (f : Nat → Nat) (s : State) : (s.putFreeCtr f).trouble = s.trouble := Eq.trans rfl rfl
@[simp] theorem putFreeCtr_cond (f : Nat → Nat) (s : State) : (s.putFreeCtr f).cond = s.cond := Eq.trans rfl rfl
@[simp] theorem putFreeCtr_outbox (f : Nat → Nat) (s : State) : (s.putFreeCtr f).outbox = s.outbox := Eq.trans rfl rfl
@[simp] theorem putFreeCtr_cxls (f : Nat → Nat) (s : State) : (s.putFreeCtr f).cxls = s.cxls := Eq.trans rfl rfl
@[simp] theorem putFreeCtr_wagon (f : Nat → Nat) (s : State) : (s.putFreeCtr f).wagon = s.wagon := Eq.trans rfl rfl
@[simp] theorem putFreeCtr_deepNext (f : Nat → Nat) (s : State) : (s.putFreeCtr f).deepNext = s.deepNext := Eq.trans rfl rfl
@[simp] theorem putFreeCtr_history (f : Nat → Nat) (s : State) : (s.putFreeCtr f).history = s.history := Eq.trans rfl rfl
@[simp] theorem putFreeCtr_trPend (f : Nat → Nat) (s : State) : (s.putFreeCtr f).trPend = s.trPend := Eq.trans rfl rfl
@[simp] theorem putFreeCtr_resets (f : Nat → Nat) (s : State) : (s.putFreeCtr f).resets = s.resets := Eq.trans rfl rfl
@[simp] theorem putFreeCtr_ports (f : Nat → Nat) (s : State) : (s.putFreeCtr f).ports = s.ports := Eq.trans rfl rfl
@[simp] theorem putFreeCtr_fab (f : Nat → Nat) (s : State) : (s.putFreeCtr f).fab = s.fab := Eq.trans rfl rfl
@[simp] theorem putFreeCtr_sec (f : Nat → Nat) (s : State) : (s.putFreeCtr f).sec = s.sec := Eq.trans rfl rfl
@[simp] theorem putFreeCtr_flash (f : Nat → Nat) (s : State) : (s.putFreeCtr f).flash = s.flash := Eq.trans rfl rfl
@[simp] theorem putFreeCtr_chain (f : Nat → Nat) (s : State) : (s.putFreeCtr f).chain = s.chain := Eq.trans rfl rfl
@[simp] theorem putFreeCtr_pwr (f : Nat → Nat) (s : State) : (s.putFreeCtr f).pwr = s.pwr := Eq.trans rfl rfl
@[simp] theorem putFreeCtr_link (f : Nat → Nat) (s : State) : (s.putFreeCtr f).link = s.link := Eq.trans rfl rfl
@[simp] theorem putTick_part (f : Nat → Nat) (s : State) : (s.putTick f).part = s.part := Eq.trans rfl rfl
@[simp] theorem putTick_pending (f : Nat → Nat) (s : State) : (s.putTick f).pending = s.pending := Eq.trans rfl rfl
@[simp] theorem putTick_freeCtr (f : Nat → Nat) (s : State) : (s.putTick f).freeCtr = s.freeCtr := Eq.trans rfl rfl
@[simp] theorem putTick_regs (f : Nat → Nat) (s : State) : (s.putTick f).regs = s.regs := Eq.trans rfl rfl
@[simp] theorem putTick_mem (f : Nat → Nat) (s : State) : (s.putTick f).mem = s.mem := Eq.trans rfl rfl
@[simp] theorem putTick_syn (f : Nat → Nat) (s : State) : (s.putTick f).syn = s.syn := Eq.trans rfl rfl
@[simp] theorem putTick_draw (f : Nat → Nat) (s : State) : (s.putTick f).draw = s.draw := Eq.trans rfl rfl
@[simp] theorem putTick_tick (f : Nat → Nat) (s : State) : (s.putTick f).tick = f s.tick := Eq.trans rfl rfl
@[simp] theorem putTick_time (f : Nat → Nat) (s : State) : (s.putTick f).time = s.time := Eq.trans rfl rfl
@[simp] theorem putTick_latched (f : Nat → Nat) (s : State) : (s.putTick f).latched = s.latched := Eq.trans rfl rfl
@[simp] theorem putTick_due (f : Nat → Nat) (s : State) : (s.putTick f).due = s.due := Eq.trans rfl rfl
@[simp] theorem putTick_lineErrs (f : Nat → Nat) (s : State) : (s.putTick f).lineErrs = s.lineErrs := Eq.trans rfl rfl
@[simp] theorem putTick_oxen (f : Nat → Nat) (s : State) : (s.putTick f).oxen = s.oxen := Eq.trans rfl rfl
@[simp] theorem putTick_cores (f : Nat → Nat) (s : State) : (s.putTick f).cores = s.cores := Eq.trans rfl rfl
@[simp] theorem putTick_ctxs (f : Nat → Nat) (s : State) : (s.putTick f).ctxs = s.ctxs := Eq.trans rfl rfl
@[simp] theorem putTick_hbm (f : Nat → Nat) (s : State) : (s.putTick f).hbm = s.hbm := Eq.trans rfl rfl
@[simp] theorem putTick_trouble (f : Nat → Nat) (s : State) : (s.putTick f).trouble = s.trouble := Eq.trans rfl rfl
@[simp] theorem putTick_cond (f : Nat → Nat) (s : State) : (s.putTick f).cond = s.cond := Eq.trans rfl rfl
@[simp] theorem putTick_outbox (f : Nat → Nat) (s : State) : (s.putTick f).outbox = s.outbox := Eq.trans rfl rfl
@[simp] theorem putTick_cxls (f : Nat → Nat) (s : State) : (s.putTick f).cxls = s.cxls := Eq.trans rfl rfl
@[simp] theorem putTick_wagon (f : Nat → Nat) (s : State) : (s.putTick f).wagon = s.wagon := Eq.trans rfl rfl
@[simp] theorem putTick_deepNext (f : Nat → Nat) (s : State) : (s.putTick f).deepNext = s.deepNext := Eq.trans rfl rfl
@[simp] theorem putTick_history (f : Nat → Nat) (s : State) : (s.putTick f).history = s.history := Eq.trans rfl rfl
@[simp] theorem putTick_trPend (f : Nat → Nat) (s : State) : (s.putTick f).trPend = s.trPend := Eq.trans rfl rfl
@[simp] theorem putTick_resets (f : Nat → Nat) (s : State) : (s.putTick f).resets = s.resets := Eq.trans rfl rfl
@[simp] theorem putTick_ports (f : Nat → Nat) (s : State) : (s.putTick f).ports = s.ports := Eq.trans rfl rfl
@[simp] theorem putTick_fab (f : Nat → Nat) (s : State) : (s.putTick f).fab = s.fab := Eq.trans rfl rfl
@[simp] theorem putTick_sec (f : Nat → Nat) (s : State) : (s.putTick f).sec = s.sec := Eq.trans rfl rfl
@[simp] theorem putTick_flash (f : Nat → Nat) (s : State) : (s.putTick f).flash = s.flash := Eq.trans rfl rfl
@[simp] theorem putTick_chain (f : Nat → Nat) (s : State) : (s.putTick f).chain = s.chain := Eq.trans rfl rfl
@[simp] theorem putTick_pwr (f : Nat → Nat) (s : State) : (s.putTick f).pwr = s.pwr := Eq.trans rfl rfl
@[simp] theorem putTick_link (f : Nat → Nat) (s : State) : (s.putTick f).link = s.link := Eq.trans rfl rfl
@[simp] theorem putTime_part (f : TimeSt → TimeSt) (s : State) : (s.putTime f).part = s.part := Eq.trans rfl rfl
@[simp] theorem putTime_pending (f : TimeSt → TimeSt) (s : State) : (s.putTime f).pending = s.pending := Eq.trans rfl rfl
@[simp] theorem putTime_freeCtr (f : TimeSt → TimeSt) (s : State) : (s.putTime f).freeCtr = s.freeCtr := Eq.trans rfl rfl
@[simp] theorem putTime_regs (f : TimeSt → TimeSt) (s : State) : (s.putTime f).regs = s.regs := Eq.trans rfl rfl
@[simp] theorem putTime_mem (f : TimeSt → TimeSt) (s : State) : (s.putTime f).mem = s.mem := Eq.trans rfl rfl
@[simp] theorem putTime_syn (f : TimeSt → TimeSt) (s : State) : (s.putTime f).syn = s.syn := Eq.trans rfl rfl
@[simp] theorem putTime_draw (f : TimeSt → TimeSt) (s : State) : (s.putTime f).draw = s.draw := Eq.trans rfl rfl
@[simp] theorem putTime_tick (f : TimeSt → TimeSt) (s : State) : (s.putTime f).tick = s.tick := Eq.trans rfl rfl
@[simp] theorem putTime_time (f : TimeSt → TimeSt) (s : State) : (s.putTime f).time = f s.time := Eq.trans rfl rfl
@[simp] theorem putTime_latched (f : TimeSt → TimeSt) (s : State) : (s.putTime f).latched = s.latched := Eq.trans rfl rfl
@[simp] theorem putTime_due (f : TimeSt → TimeSt) (s : State) : (s.putTime f).due = s.due := Eq.trans rfl rfl
@[simp] theorem putTime_lineErrs (f : TimeSt → TimeSt) (s : State) : (s.putTime f).lineErrs = s.lineErrs := Eq.trans rfl rfl
@[simp] theorem putTime_oxen (f : TimeSt → TimeSt) (s : State) : (s.putTime f).oxen = s.oxen := Eq.trans rfl rfl
@[simp] theorem putTime_cores (f : TimeSt → TimeSt) (s : State) : (s.putTime f).cores = s.cores := Eq.trans rfl rfl
@[simp] theorem putTime_ctxs (f : TimeSt → TimeSt) (s : State) : (s.putTime f).ctxs = s.ctxs := Eq.trans rfl rfl
@[simp] theorem putTime_hbm (f : TimeSt → TimeSt) (s : State) : (s.putTime f).hbm = s.hbm := Eq.trans rfl rfl
@[simp] theorem putTime_trouble (f : TimeSt → TimeSt) (s : State) : (s.putTime f).trouble = s.trouble := Eq.trans rfl rfl
@[simp] theorem putTime_cond (f : TimeSt → TimeSt) (s : State) : (s.putTime f).cond = s.cond := Eq.trans rfl rfl
@[simp] theorem putTime_outbox (f : TimeSt → TimeSt) (s : State) : (s.putTime f).outbox = s.outbox := Eq.trans rfl rfl
@[simp] theorem putTime_cxls (f : TimeSt → TimeSt) (s : State) : (s.putTime f).cxls = s.cxls := Eq.trans rfl rfl
@[simp] theorem putTime_wagon (f : TimeSt → TimeSt) (s : State) : (s.putTime f).wagon = s.wagon := Eq.trans rfl rfl
@[simp] theorem putTime_deepNext (f : TimeSt → TimeSt) (s : State) : (s.putTime f).deepNext = s.deepNext := Eq.trans rfl rfl
@[simp] theorem putTime_history (f : TimeSt → TimeSt) (s : State) : (s.putTime f).history = s.history := Eq.trans rfl rfl
@[simp] theorem putTime_trPend (f : TimeSt → TimeSt) (s : State) : (s.putTime f).trPend = s.trPend := Eq.trans rfl rfl
@[simp] theorem putTime_resets (f : TimeSt → TimeSt) (s : State) : (s.putTime f).resets = s.resets := Eq.trans rfl rfl
@[simp] theorem putTime_ports (f : TimeSt → TimeSt) (s : State) : (s.putTime f).ports = s.ports := Eq.trans rfl rfl
@[simp] theorem putTime_fab (f : TimeSt → TimeSt) (s : State) : (s.putTime f).fab = s.fab := Eq.trans rfl rfl
@[simp] theorem putTime_sec (f : TimeSt → TimeSt) (s : State) : (s.putTime f).sec = s.sec := Eq.trans rfl rfl
@[simp] theorem putTime_flash (f : TimeSt → TimeSt) (s : State) : (s.putTime f).flash = s.flash := Eq.trans rfl rfl
@[simp] theorem putTime_chain (f : TimeSt → TimeSt) (s : State) : (s.putTime f).chain = s.chain := Eq.trans rfl rfl
@[simp] theorem putTime_pwr (f : TimeSt → TimeSt) (s : State) : (s.putTime f).pwr = s.pwr := Eq.trans rfl rfl
@[simp] theorem putTime_link (f : TimeSt → TimeSt) (s : State) : (s.putTime f).link = s.link := Eq.trans rfl rfl
@[simp] theorem putLatched_part (f : (List Ev) → (List Ev)) (s : State) : (s.putLatched f).part = s.part := Eq.trans rfl rfl
@[simp] theorem putLatched_pending (f : (List Ev) → (List Ev)) (s : State) : (s.putLatched f).pending = s.pending := Eq.trans rfl rfl
@[simp] theorem putLatched_freeCtr (f : (List Ev) → (List Ev)) (s : State) : (s.putLatched f).freeCtr = s.freeCtr := Eq.trans rfl rfl
@[simp] theorem putLatched_regs (f : (List Ev) → (List Ev)) (s : State) : (s.putLatched f).regs = s.regs := Eq.trans rfl rfl
@[simp] theorem putLatched_mem (f : (List Ev) → (List Ev)) (s : State) : (s.putLatched f).mem = s.mem := Eq.trans rfl rfl
@[simp] theorem putLatched_syn (f : (List Ev) → (List Ev)) (s : State) : (s.putLatched f).syn = s.syn := Eq.trans rfl rfl
@[simp] theorem putLatched_draw (f : (List Ev) → (List Ev)) (s : State) : (s.putLatched f).draw = s.draw := Eq.trans rfl rfl
@[simp] theorem putLatched_tick (f : (List Ev) → (List Ev)) (s : State) : (s.putLatched f).tick = s.tick := Eq.trans rfl rfl
@[simp] theorem putLatched_time (f : (List Ev) → (List Ev)) (s : State) : (s.putLatched f).time = s.time := Eq.trans rfl rfl
@[simp] theorem putLatched_latched (f : (List Ev) → (List Ev)) (s : State) : (s.putLatched f).latched = f s.latched := Eq.trans rfl rfl
@[simp] theorem putLatched_due (f : (List Ev) → (List Ev)) (s : State) : (s.putLatched f).due = s.due := Eq.trans rfl rfl
@[simp] theorem putLatched_lineErrs (f : (List Ev) → (List Ev)) (s : State) : (s.putLatched f).lineErrs = s.lineErrs := Eq.trans rfl rfl
@[simp] theorem putLatched_oxen (f : (List Ev) → (List Ev)) (s : State) : (s.putLatched f).oxen = s.oxen := Eq.trans rfl rfl
@[simp] theorem putLatched_cores (f : (List Ev) → (List Ev)) (s : State) : (s.putLatched f).cores = s.cores := Eq.trans rfl rfl
@[simp] theorem putLatched_ctxs (f : (List Ev) → (List Ev)) (s : State) : (s.putLatched f).ctxs = s.ctxs := Eq.trans rfl rfl
@[simp] theorem putLatched_hbm (f : (List Ev) → (List Ev)) (s : State) : (s.putLatched f).hbm = s.hbm := Eq.trans rfl rfl
@[simp] theorem putLatched_trouble (f : (List Ev) → (List Ev)) (s : State) : (s.putLatched f).trouble = s.trouble := Eq.trans rfl rfl
@[simp] theorem putLatched_cond (f : (List Ev) → (List Ev)) (s : State) : (s.putLatched f).cond = s.cond := Eq.trans rfl rfl
@[simp] theorem putLatched_outbox (f : (List Ev) → (List Ev)) (s : State) : (s.putLatched f).outbox = s.outbox := Eq.trans rfl rfl
@[simp] theorem putLatched_cxls (f : (List Ev) → (List Ev)) (s : State) : (s.putLatched f).cxls = s.cxls := Eq.trans rfl rfl
@[simp] theorem putLatched_wagon (f : (List Ev) → (List Ev)) (s : State) : (s.putLatched f).wagon = s.wagon := Eq.trans rfl rfl
@[simp] theorem putLatched_deepNext (f : (List Ev) → (List Ev)) (s : State) : (s.putLatched f).deepNext = s.deepNext := Eq.trans rfl rfl
@[simp] theorem putLatched_history (f : (List Ev) → (List Ev)) (s : State) : (s.putLatched f).history = s.history := Eq.trans rfl rfl
@[simp] theorem putLatched_trPend (f : (List Ev) → (List Ev)) (s : State) : (s.putLatched f).trPend = s.trPend := Eq.trans rfl rfl
@[simp] theorem putLatched_resets (f : (List Ev) → (List Ev)) (s : State) : (s.putLatched f).resets = s.resets := Eq.trans rfl rfl
@[simp] theorem putLatched_ports (f : (List Ev) → (List Ev)) (s : State) : (s.putLatched f).ports = s.ports := Eq.trans rfl rfl
@[simp] theorem putLatched_fab (f : (List Ev) → (List Ev)) (s : State) : (s.putLatched f).fab = s.fab := Eq.trans rfl rfl
@[simp] theorem putLatched_sec (f : (List Ev) → (List Ev)) (s : State) : (s.putLatched f).sec = s.sec := Eq.trans rfl rfl
@[simp] theorem putLatched_flash (f : (List Ev) → (List Ev)) (s : State) : (s.putLatched f).flash = s.flash := Eq.trans rfl rfl
@[simp] theorem putLatched_chain (f : (List Ev) → (List Ev)) (s : State) : (s.putLatched f).chain = s.chain := Eq.trans rfl rfl
@[simp] theorem putLatched_pwr (f : (List Ev) → (List Ev)) (s : State) : (s.putLatched f).pwr = s.pwr := Eq.trans rfl rfl
@[simp] theorem putLatched_link (f : (List Ev) → (List Ev)) (s : State) : (s.putLatched f).link = s.link := Eq.trans rfl rfl
@[simp] theorem putDue_part (f : (List Ev) → (List Ev)) (s : State) : (s.putDue f).part = s.part := Eq.trans rfl rfl
@[simp] theorem putDue_pending (f : (List Ev) → (List Ev)) (s : State) : (s.putDue f).pending = s.pending := Eq.trans rfl rfl
@[simp] theorem putDue_freeCtr (f : (List Ev) → (List Ev)) (s : State) : (s.putDue f).freeCtr = s.freeCtr := Eq.trans rfl rfl
@[simp] theorem putDue_regs (f : (List Ev) → (List Ev)) (s : State) : (s.putDue f).regs = s.regs := Eq.trans rfl rfl
@[simp] theorem putDue_mem (f : (List Ev) → (List Ev)) (s : State) : (s.putDue f).mem = s.mem := Eq.trans rfl rfl
@[simp] theorem putDue_syn (f : (List Ev) → (List Ev)) (s : State) : (s.putDue f).syn = s.syn := Eq.trans rfl rfl
@[simp] theorem putDue_draw (f : (List Ev) → (List Ev)) (s : State) : (s.putDue f).draw = s.draw := Eq.trans rfl rfl
@[simp] theorem putDue_tick (f : (List Ev) → (List Ev)) (s : State) : (s.putDue f).tick = s.tick := Eq.trans rfl rfl
@[simp] theorem putDue_time (f : (List Ev) → (List Ev)) (s : State) : (s.putDue f).time = s.time := Eq.trans rfl rfl
@[simp] theorem putDue_latched (f : (List Ev) → (List Ev)) (s : State) : (s.putDue f).latched = s.latched := Eq.trans rfl rfl
@[simp] theorem putDue_due (f : (List Ev) → (List Ev)) (s : State) : (s.putDue f).due = f s.due := Eq.trans rfl rfl
@[simp] theorem putDue_lineErrs (f : (List Ev) → (List Ev)) (s : State) : (s.putDue f).lineErrs = s.lineErrs := Eq.trans rfl rfl
@[simp] theorem putDue_oxen (f : (List Ev) → (List Ev)) (s : State) : (s.putDue f).oxen = s.oxen := Eq.trans rfl rfl
@[simp] theorem putDue_cores (f : (List Ev) → (List Ev)) (s : State) : (s.putDue f).cores = s.cores := Eq.trans rfl rfl
@[simp] theorem putDue_ctxs (f : (List Ev) → (List Ev)) (s : State) : (s.putDue f).ctxs = s.ctxs := Eq.trans rfl rfl
@[simp] theorem putDue_hbm (f : (List Ev) → (List Ev)) (s : State) : (s.putDue f).hbm = s.hbm := Eq.trans rfl rfl
@[simp] theorem putDue_trouble (f : (List Ev) → (List Ev)) (s : State) : (s.putDue f).trouble = s.trouble := Eq.trans rfl rfl
@[simp] theorem putDue_cond (f : (List Ev) → (List Ev)) (s : State) : (s.putDue f).cond = s.cond := Eq.trans rfl rfl
@[simp] theorem putDue_outbox (f : (List Ev) → (List Ev)) (s : State) : (s.putDue f).outbox = s.outbox := Eq.trans rfl rfl
@[simp] theorem putDue_cxls (f : (List Ev) → (List Ev)) (s : State) : (s.putDue f).cxls = s.cxls := Eq.trans rfl rfl
@[simp] theorem putDue_wagon (f : (List Ev) → (List Ev)) (s : State) : (s.putDue f).wagon = s.wagon := Eq.trans rfl rfl
@[simp] theorem putDue_deepNext (f : (List Ev) → (List Ev)) (s : State) : (s.putDue f).deepNext = s.deepNext := Eq.trans rfl rfl
@[simp] theorem putDue_history (f : (List Ev) → (List Ev)) (s : State) : (s.putDue f).history = s.history := Eq.trans rfl rfl
@[simp] theorem putDue_trPend (f : (List Ev) → (List Ev)) (s : State) : (s.putDue f).trPend = s.trPend := Eq.trans rfl rfl
@[simp] theorem putDue_resets (f : (List Ev) → (List Ev)) (s : State) : (s.putDue f).resets = s.resets := Eq.trans rfl rfl
@[simp] theorem putDue_ports (f : (List Ev) → (List Ev)) (s : State) : (s.putDue f).ports = s.ports := Eq.trans rfl rfl
@[simp] theorem putDue_fab (f : (List Ev) → (List Ev)) (s : State) : (s.putDue f).fab = s.fab := Eq.trans rfl rfl
@[simp] theorem putDue_sec (f : (List Ev) → (List Ev)) (s : State) : (s.putDue f).sec = s.sec := Eq.trans rfl rfl
@[simp] theorem putDue_flash (f : (List Ev) → (List Ev)) (s : State) : (s.putDue f).flash = s.flash := Eq.trans rfl rfl
@[simp] theorem putDue_chain (f : (List Ev) → (List Ev)) (s : State) : (s.putDue f).chain = s.chain := Eq.trans rfl rfl
@[simp] theorem putDue_pwr (f : (List Ev) → (List Ev)) (s : State) : (s.putDue f).pwr = s.pwr := Eq.trans rfl rfl
@[simp] theorem putDue_link (f : (List Ev) → (List Ev)) (s : State) : (s.putDue f).link = s.link := Eq.trans rfl rfl
@[simp] theorem putLineErrs_part (f : (List LineErr) → (List LineErr)) (s : State) : (s.putLineErrs f).part = s.part := Eq.trans rfl rfl
@[simp] theorem putLineErrs_pending (f : (List LineErr) → (List LineErr)) (s : State) : (s.putLineErrs f).pending = s.pending := Eq.trans rfl rfl
@[simp] theorem putLineErrs_freeCtr (f : (List LineErr) → (List LineErr)) (s : State) : (s.putLineErrs f).freeCtr = s.freeCtr := Eq.trans rfl rfl
@[simp] theorem putLineErrs_regs (f : (List LineErr) → (List LineErr)) (s : State) : (s.putLineErrs f).regs = s.regs := Eq.trans rfl rfl
@[simp] theorem putLineErrs_mem (f : (List LineErr) → (List LineErr)) (s : State) : (s.putLineErrs f).mem = s.mem := Eq.trans rfl rfl
@[simp] theorem putLineErrs_syn (f : (List LineErr) → (List LineErr)) (s : State) : (s.putLineErrs f).syn = s.syn := Eq.trans rfl rfl
@[simp] theorem putLineErrs_draw (f : (List LineErr) → (List LineErr)) (s : State) : (s.putLineErrs f).draw = s.draw := Eq.trans rfl rfl
@[simp] theorem putLineErrs_tick (f : (List LineErr) → (List LineErr)) (s : State) : (s.putLineErrs f).tick = s.tick := Eq.trans rfl rfl
@[simp] theorem putLineErrs_time (f : (List LineErr) → (List LineErr)) (s : State) : (s.putLineErrs f).time = s.time := Eq.trans rfl rfl
@[simp] theorem putLineErrs_latched (f : (List LineErr) → (List LineErr)) (s : State) : (s.putLineErrs f).latched = s.latched := Eq.trans rfl rfl
@[simp] theorem putLineErrs_due (f : (List LineErr) → (List LineErr)) (s : State) : (s.putLineErrs f).due = s.due := Eq.trans rfl rfl
@[simp] theorem putLineErrs_lineErrs (f : (List LineErr) → (List LineErr)) (s : State) : (s.putLineErrs f).lineErrs = f s.lineErrs := Eq.trans rfl rfl
@[simp] theorem putLineErrs_oxen (f : (List LineErr) → (List LineErr)) (s : State) : (s.putLineErrs f).oxen = s.oxen := Eq.trans rfl rfl
@[simp] theorem putLineErrs_cores (f : (List LineErr) → (List LineErr)) (s : State) : (s.putLineErrs f).cores = s.cores := Eq.trans rfl rfl
@[simp] theorem putLineErrs_ctxs (f : (List LineErr) → (List LineErr)) (s : State) : (s.putLineErrs f).ctxs = s.ctxs := Eq.trans rfl rfl
@[simp] theorem putLineErrs_hbm (f : (List LineErr) → (List LineErr)) (s : State) : (s.putLineErrs f).hbm = s.hbm := Eq.trans rfl rfl
@[simp] theorem putLineErrs_trouble (f : (List LineErr) → (List LineErr)) (s : State) : (s.putLineErrs f).trouble = s.trouble := Eq.trans rfl rfl
@[simp] theorem putLineErrs_cond (f : (List LineErr) → (List LineErr)) (s : State) : (s.putLineErrs f).cond = s.cond := Eq.trans rfl rfl
@[simp] theorem putLineErrs_outbox (f : (List LineErr) → (List LineErr)) (s : State) : (s.putLineErrs f).outbox = s.outbox := Eq.trans rfl rfl
@[simp] theorem putLineErrs_cxls (f : (List LineErr) → (List LineErr)) (s : State) : (s.putLineErrs f).cxls = s.cxls := Eq.trans rfl rfl
@[simp] theorem putLineErrs_wagon (f : (List LineErr) → (List LineErr)) (s : State) : (s.putLineErrs f).wagon = s.wagon := Eq.trans rfl rfl
@[simp] theorem putLineErrs_deepNext (f : (List LineErr) → (List LineErr)) (s : State) : (s.putLineErrs f).deepNext = s.deepNext := Eq.trans rfl rfl
@[simp] theorem putLineErrs_history (f : (List LineErr) → (List LineErr)) (s : State) : (s.putLineErrs f).history = s.history := Eq.trans rfl rfl
@[simp] theorem putLineErrs_trPend (f : (List LineErr) → (List LineErr)) (s : State) : (s.putLineErrs f).trPend = s.trPend := Eq.trans rfl rfl
@[simp] theorem putLineErrs_resets (f : (List LineErr) → (List LineErr)) (s : State) : (s.putLineErrs f).resets = s.resets := Eq.trans rfl rfl
@[simp] theorem putLineErrs_ports (f : (List LineErr) → (List LineErr)) (s : State) : (s.putLineErrs f).ports = s.ports := Eq.trans rfl rfl
@[simp] theorem putLineErrs_fab (f : (List LineErr) → (List LineErr)) (s : State) : (s.putLineErrs f).fab = s.fab := Eq.trans rfl rfl
@[simp] theorem putLineErrs_sec (f : (List LineErr) → (List LineErr)) (s : State) : (s.putLineErrs f).sec = s.sec := Eq.trans rfl rfl
@[simp] theorem putLineErrs_flash (f : (List LineErr) → (List LineErr)) (s : State) : (s.putLineErrs f).flash = s.flash := Eq.trans rfl rfl
@[simp] theorem putLineErrs_chain (f : (List LineErr) → (List LineErr)) (s : State) : (s.putLineErrs f).chain = s.chain := Eq.trans rfl rfl
@[simp] theorem putLineErrs_pwr (f : (List LineErr) → (List LineErr)) (s : State) : (s.putLineErrs f).pwr = s.pwr := Eq.trans rfl rfl
@[simp] theorem putLineErrs_link (f : (List LineErr) → (List LineErr)) (s : State) : (s.putLineErrs f).link = s.link := Eq.trans rfl rfl
@[simp] theorem putOx_part (i : Nat) (f : Ox → Ox) (s : State) : (s.putOx i f).part = s.part := Eq.trans rfl rfl
@[simp] theorem putOx_pending (i : Nat) (f : Ox → Ox) (s : State) : (s.putOx i f).pending = s.pending := Eq.trans rfl rfl
@[simp] theorem putOx_freeCtr (i : Nat) (f : Ox → Ox) (s : State) : (s.putOx i f).freeCtr = s.freeCtr := Eq.trans rfl rfl
@[simp] theorem putOx_regs (i : Nat) (f : Ox → Ox) (s : State) : (s.putOx i f).regs = s.regs := Eq.trans rfl rfl
@[simp] theorem putOx_mem (i : Nat) (f : Ox → Ox) (s : State) : (s.putOx i f).mem = s.mem := Eq.trans rfl rfl
@[simp] theorem putOx_syn (i : Nat) (f : Ox → Ox) (s : State) : (s.putOx i f).syn = s.syn := Eq.trans rfl rfl
@[simp] theorem putOx_draw (i : Nat) (f : Ox → Ox) (s : State) : (s.putOx i f).draw = s.draw := Eq.trans rfl rfl
@[simp] theorem putOx_tick (i : Nat) (f : Ox → Ox) (s : State) : (s.putOx i f).tick = s.tick := Eq.trans rfl rfl
@[simp] theorem putOx_time (i : Nat) (f : Ox → Ox) (s : State) : (s.putOx i f).time = s.time := Eq.trans rfl rfl
@[simp] theorem putOx_latched (i : Nat) (f : Ox → Ox) (s : State) : (s.putOx i f).latched = s.latched := Eq.trans rfl rfl
@[simp] theorem putOx_due (i : Nat) (f : Ox → Ox) (s : State) : (s.putOx i f).due = s.due := Eq.trans rfl rfl
@[simp] theorem putOx_lineErrs (i : Nat) (f : Ox → Ox) (s : State) : (s.putOx i f).lineErrs = s.lineErrs := Eq.trans rfl rfl
@[simp] theorem putOx_cores (i : Nat) (f : Ox → Ox) (s : State) : (s.putOx i f).cores = s.cores := Eq.trans rfl rfl
@[simp] theorem putOx_ctxs (i : Nat) (f : Ox → Ox) (s : State) : (s.putOx i f).ctxs = s.ctxs := Eq.trans rfl rfl
@[simp] theorem putOx_hbm (i : Nat) (f : Ox → Ox) (s : State) : (s.putOx i f).hbm = s.hbm := Eq.trans rfl rfl
@[simp] theorem putOx_trouble (i : Nat) (f : Ox → Ox) (s : State) : (s.putOx i f).trouble = s.trouble := Eq.trans rfl rfl
@[simp] theorem putOx_cond (i : Nat) (f : Ox → Ox) (s : State) : (s.putOx i f).cond = s.cond := Eq.trans rfl rfl
@[simp] theorem putOx_outbox (i : Nat) (f : Ox → Ox) (s : State) : (s.putOx i f).outbox = s.outbox := Eq.trans rfl rfl
@[simp] theorem putOx_cxls (i : Nat) (f : Ox → Ox) (s : State) : (s.putOx i f).cxls = s.cxls := Eq.trans rfl rfl
@[simp] theorem putOx_wagon (i : Nat) (f : Ox → Ox) (s : State) : (s.putOx i f).wagon = s.wagon := Eq.trans rfl rfl
@[simp] theorem putOx_deepNext (i : Nat) (f : Ox → Ox) (s : State) : (s.putOx i f).deepNext = s.deepNext := Eq.trans rfl rfl
@[simp] theorem putOx_history (i : Nat) (f : Ox → Ox) (s : State) : (s.putOx i f).history = s.history := Eq.trans rfl rfl
@[simp] theorem putOx_trPend (i : Nat) (f : Ox → Ox) (s : State) : (s.putOx i f).trPend = s.trPend := Eq.trans rfl rfl
@[simp] theorem putOx_resets (i : Nat) (f : Ox → Ox) (s : State) : (s.putOx i f).resets = s.resets := Eq.trans rfl rfl
@[simp] theorem putOx_ports (i : Nat) (f : Ox → Ox) (s : State) : (s.putOx i f).ports = s.ports := Eq.trans rfl rfl
@[simp] theorem putOx_fab (i : Nat) (f : Ox → Ox) (s : State) : (s.putOx i f).fab = s.fab := Eq.trans rfl rfl
@[simp] theorem putOx_sec (i : Nat) (f : Ox → Ox) (s : State) : (s.putOx i f).sec = s.sec := Eq.trans rfl rfl
@[simp] theorem putOx_flash (i : Nat) (f : Ox → Ox) (s : State) : (s.putOx i f).flash = s.flash := Eq.trans rfl rfl
@[simp] theorem putOx_chain (i : Nat) (f : Ox → Ox) (s : State) : (s.putOx i f).chain = s.chain := Eq.trans rfl rfl
@[simp] theorem putOx_pwr (i : Nat) (f : Ox → Ox) (s : State) : (s.putOx i f).pwr = s.pwr := Eq.trans rfl rfl
@[simp] theorem putOx_link (i : Nat) (f : Ox → Ox) (s : State) : (s.putOx i f).link = s.link := Eq.trans rfl rfl
@[simp] theorem putCore_part (i : Nat) (f : CoreSt → CoreSt) (s : State) : (s.putCore i f).part = s.part := Eq.trans rfl rfl
@[simp] theorem putCore_pending (i : Nat) (f : CoreSt → CoreSt) (s : State) : (s.putCore i f).pending = s.pending := Eq.trans rfl rfl
@[simp] theorem putCore_freeCtr (i : Nat) (f : CoreSt → CoreSt) (s : State) : (s.putCore i f).freeCtr = s.freeCtr := Eq.trans rfl rfl
@[simp] theorem putCore_regs (i : Nat) (f : CoreSt → CoreSt) (s : State) : (s.putCore i f).regs = s.regs := Eq.trans rfl rfl
@[simp] theorem putCore_mem (i : Nat) (f : CoreSt → CoreSt) (s : State) : (s.putCore i f).mem = s.mem := Eq.trans rfl rfl
@[simp] theorem putCore_syn (i : Nat) (f : CoreSt → CoreSt) (s : State) : (s.putCore i f).syn = s.syn := Eq.trans rfl rfl
@[simp] theorem putCore_draw (i : Nat) (f : CoreSt → CoreSt) (s : State) : (s.putCore i f).draw = s.draw := Eq.trans rfl rfl
@[simp] theorem putCore_tick (i : Nat) (f : CoreSt → CoreSt) (s : State) : (s.putCore i f).tick = s.tick := Eq.trans rfl rfl
@[simp] theorem putCore_time (i : Nat) (f : CoreSt → CoreSt) (s : State) : (s.putCore i f).time = s.time := Eq.trans rfl rfl
@[simp] theorem putCore_latched (i : Nat) (f : CoreSt → CoreSt) (s : State) : (s.putCore i f).latched = s.latched := Eq.trans rfl rfl
@[simp] theorem putCore_due (i : Nat) (f : CoreSt → CoreSt) (s : State) : (s.putCore i f).due = s.due := Eq.trans rfl rfl
@[simp] theorem putCore_lineErrs (i : Nat) (f : CoreSt → CoreSt) (s : State) : (s.putCore i f).lineErrs = s.lineErrs := Eq.trans rfl rfl
@[simp] theorem putCore_oxen (i : Nat) (f : CoreSt → CoreSt) (s : State) : (s.putCore i f).oxen = s.oxen := Eq.trans rfl rfl
@[simp] theorem putCore_ctxs (i : Nat) (f : CoreSt → CoreSt) (s : State) : (s.putCore i f).ctxs = s.ctxs := Eq.trans rfl rfl
@[simp] theorem putCore_hbm (i : Nat) (f : CoreSt → CoreSt) (s : State) : (s.putCore i f).hbm = s.hbm := Eq.trans rfl rfl
@[simp] theorem putCore_trouble (i : Nat) (f : CoreSt → CoreSt) (s : State) : (s.putCore i f).trouble = s.trouble := Eq.trans rfl rfl
@[simp] theorem putCore_cond (i : Nat) (f : CoreSt → CoreSt) (s : State) : (s.putCore i f).cond = s.cond := Eq.trans rfl rfl
@[simp] theorem putCore_outbox (i : Nat) (f : CoreSt → CoreSt) (s : State) : (s.putCore i f).outbox = s.outbox := Eq.trans rfl rfl
@[simp] theorem putCore_cxls (i : Nat) (f : CoreSt → CoreSt) (s : State) : (s.putCore i f).cxls = s.cxls := Eq.trans rfl rfl
@[simp] theorem putCore_wagon (i : Nat) (f : CoreSt → CoreSt) (s : State) : (s.putCore i f).wagon = s.wagon := Eq.trans rfl rfl
@[simp] theorem putCore_deepNext (i : Nat) (f : CoreSt → CoreSt) (s : State) : (s.putCore i f).deepNext = s.deepNext := Eq.trans rfl rfl
@[simp] theorem putCore_history (i : Nat) (f : CoreSt → CoreSt) (s : State) : (s.putCore i f).history = s.history := Eq.trans rfl rfl
@[simp] theorem putCore_trPend (i : Nat) (f : CoreSt → CoreSt) (s : State) : (s.putCore i f).trPend = s.trPend := Eq.trans rfl rfl
@[simp] theorem putCore_resets (i : Nat) (f : CoreSt → CoreSt) (s : State) : (s.putCore i f).resets = s.resets := Eq.trans rfl rfl
@[simp] theorem putCore_ports (i : Nat) (f : CoreSt → CoreSt) (s : State) : (s.putCore i f).ports = s.ports := Eq.trans rfl rfl
@[simp] theorem putCore_fab (i : Nat) (f : CoreSt → CoreSt) (s : State) : (s.putCore i f).fab = s.fab := Eq.trans rfl rfl
@[simp] theorem putCore_sec (i : Nat) (f : CoreSt → CoreSt) (s : State) : (s.putCore i f).sec = s.sec := Eq.trans rfl rfl
@[simp] theorem putCore_flash (i : Nat) (f : CoreSt → CoreSt) (s : State) : (s.putCore i f).flash = s.flash := Eq.trans rfl rfl
@[simp] theorem putCore_chain (i : Nat) (f : CoreSt → CoreSt) (s : State) : (s.putCore i f).chain = s.chain := Eq.trans rfl rfl
@[simp] theorem putCore_pwr (i : Nat) (f : CoreSt → CoreSt) (s : State) : (s.putCore i f).pwr = s.pwr := Eq.trans rfl rfl
@[simp] theorem putCore_link (i : Nat) (f : CoreSt → CoreSt) (s : State) : (s.putCore i f).link = s.link := Eq.trans rfl rfl
@[simp] theorem putCtx_part (i : Nat) (f : CtxSt → CtxSt) (s : State) : (s.putCtx i f).part = s.part := Eq.trans rfl rfl
@[simp] theorem putCtx_pending (i : Nat) (f : CtxSt → CtxSt) (s : State) : (s.putCtx i f).pending = s.pending := Eq.trans rfl rfl
@[simp] theorem putCtx_freeCtr (i : Nat) (f : CtxSt → CtxSt) (s : State) : (s.putCtx i f).freeCtr = s.freeCtr := Eq.trans rfl rfl
@[simp] theorem putCtx_regs (i : Nat) (f : CtxSt → CtxSt) (s : State) : (s.putCtx i f).regs = s.regs := Eq.trans rfl rfl
@[simp] theorem putCtx_mem (i : Nat) (f : CtxSt → CtxSt) (s : State) : (s.putCtx i f).mem = s.mem := Eq.trans rfl rfl
@[simp] theorem putCtx_syn (i : Nat) (f : CtxSt → CtxSt) (s : State) : (s.putCtx i f).syn = s.syn := Eq.trans rfl rfl
@[simp] theorem putCtx_draw (i : Nat) (f : CtxSt → CtxSt) (s : State) : (s.putCtx i f).draw = s.draw := Eq.trans rfl rfl
@[simp] theorem putCtx_tick (i : Nat) (f : CtxSt → CtxSt) (s : State) : (s.putCtx i f).tick = s.tick := Eq.trans rfl rfl
@[simp] theorem putCtx_time (i : Nat) (f : CtxSt → CtxSt) (s : State) : (s.putCtx i f).time = s.time := Eq.trans rfl rfl
@[simp] theorem putCtx_latched (i : Nat) (f : CtxSt → CtxSt) (s : State) : (s.putCtx i f).latched = s.latched := Eq.trans rfl rfl
@[simp] theorem putCtx_due (i : Nat) (f : CtxSt → CtxSt) (s : State) : (s.putCtx i f).due = s.due := Eq.trans rfl rfl
@[simp] theorem putCtx_lineErrs (i : Nat) (f : CtxSt → CtxSt) (s : State) : (s.putCtx i f).lineErrs = s.lineErrs := Eq.trans rfl rfl
@[simp] theorem putCtx_oxen (i : Nat) (f : CtxSt → CtxSt) (s : State) : (s.putCtx i f).oxen = s.oxen := Eq.trans rfl rfl
@[simp] theorem putCtx_cores (i : Nat) (f : CtxSt → CtxSt) (s : State) : (s.putCtx i f).cores = s.cores := Eq.trans rfl rfl
@[simp] theorem putCtx_hbm (i : Nat) (f : CtxSt → CtxSt) (s : State) : (s.putCtx i f).hbm = s.hbm := Eq.trans rfl rfl
@[simp] theorem putCtx_trouble (i : Nat) (f : CtxSt → CtxSt) (s : State) : (s.putCtx i f).trouble = s.trouble := Eq.trans rfl rfl
@[simp] theorem putCtx_cond (i : Nat) (f : CtxSt → CtxSt) (s : State) : (s.putCtx i f).cond = s.cond := Eq.trans rfl rfl
@[simp] theorem putCtx_outbox (i : Nat) (f : CtxSt → CtxSt) (s : State) : (s.putCtx i f).outbox = s.outbox := Eq.trans rfl rfl
@[simp] theorem putCtx_cxls (i : Nat) (f : CtxSt → CtxSt) (s : State) : (s.putCtx i f).cxls = s.cxls := Eq.trans rfl rfl
@[simp] theorem putCtx_wagon (i : Nat) (f : CtxSt → CtxSt) (s : State) : (s.putCtx i f).wagon = s.wagon := Eq.trans rfl rfl
@[simp] theorem putCtx_deepNext (i : Nat) (f : CtxSt → CtxSt) (s : State) : (s.putCtx i f).deepNext = s.deepNext := Eq.trans rfl rfl
@[simp] theorem putCtx_history (i : Nat) (f : CtxSt → CtxSt) (s : State) : (s.putCtx i f).history = s.history := Eq.trans rfl rfl
@[simp] theorem putCtx_trPend (i : Nat) (f : CtxSt → CtxSt) (s : State) : (s.putCtx i f).trPend = s.trPend := Eq.trans rfl rfl
@[simp] theorem putCtx_resets (i : Nat) (f : CtxSt → CtxSt) (s : State) : (s.putCtx i f).resets = s.resets := Eq.trans rfl rfl
@[simp] theorem putCtx_ports (i : Nat) (f : CtxSt → CtxSt) (s : State) : (s.putCtx i f).ports = s.ports := Eq.trans rfl rfl
@[simp] theorem putCtx_fab (i : Nat) (f : CtxSt → CtxSt) (s : State) : (s.putCtx i f).fab = s.fab := Eq.trans rfl rfl
@[simp] theorem putCtx_sec (i : Nat) (f : CtxSt → CtxSt) (s : State) : (s.putCtx i f).sec = s.sec := Eq.trans rfl rfl
@[simp] theorem putCtx_flash (i : Nat) (f : CtxSt → CtxSt) (s : State) : (s.putCtx i f).flash = s.flash := Eq.trans rfl rfl
@[simp] theorem putCtx_chain (i : Nat) (f : CtxSt → CtxSt) (s : State) : (s.putCtx i f).chain = s.chain := Eq.trans rfl rfl
@[simp] theorem putCtx_pwr (i : Nat) (f : CtxSt → CtxSt) (s : State) : (s.putCtx i f).pwr = s.pwr := Eq.trans rfl rfl
@[simp] theorem putCtx_link (i : Nat) (f : CtxSt → CtxSt) (s : State) : (s.putCtx i f).link = s.link := Eq.trans rfl rfl
@[simp] theorem putStack_part (i : Nat) (f : StackSt → StackSt) (s : State) : (s.putStack i f).part = s.part := Eq.trans rfl rfl
@[simp] theorem putStack_pending (i : Nat) (f : StackSt → StackSt) (s : State) : (s.putStack i f).pending = s.pending := Eq.trans rfl rfl
@[simp] theorem putStack_freeCtr (i : Nat) (f : StackSt → StackSt) (s : State) : (s.putStack i f).freeCtr = s.freeCtr := Eq.trans rfl rfl
@[simp] theorem putStack_regs (i : Nat) (f : StackSt → StackSt) (s : State) : (s.putStack i f).regs = s.regs := Eq.trans rfl rfl
@[simp] theorem putStack_mem (i : Nat) (f : StackSt → StackSt) (s : State) : (s.putStack i f).mem = s.mem := Eq.trans rfl rfl
@[simp] theorem putStack_syn (i : Nat) (f : StackSt → StackSt) (s : State) : (s.putStack i f).syn = s.syn := Eq.trans rfl rfl
@[simp] theorem putStack_draw (i : Nat) (f : StackSt → StackSt) (s : State) : (s.putStack i f).draw = s.draw := Eq.trans rfl rfl
@[simp] theorem putStack_tick (i : Nat) (f : StackSt → StackSt) (s : State) : (s.putStack i f).tick = s.tick := Eq.trans rfl rfl
@[simp] theorem putStack_time (i : Nat) (f : StackSt → StackSt) (s : State) : (s.putStack i f).time = s.time := Eq.trans rfl rfl
@[simp] theorem putStack_latched (i : Nat) (f : StackSt → StackSt) (s : State) : (s.putStack i f).latched = s.latched := Eq.trans rfl rfl
@[simp] theorem putStack_due (i : Nat) (f : StackSt → StackSt) (s : State) : (s.putStack i f).due = s.due := Eq.trans rfl rfl
@[simp] theorem putStack_lineErrs (i : Nat) (f : StackSt → StackSt) (s : State) : (s.putStack i f).lineErrs = s.lineErrs := Eq.trans rfl rfl
@[simp] theorem putStack_oxen (i : Nat) (f : StackSt → StackSt) (s : State) : (s.putStack i f).oxen = s.oxen := Eq.trans rfl rfl
@[simp] theorem putStack_cores (i : Nat) (f : StackSt → StackSt) (s : State) : (s.putStack i f).cores = s.cores := Eq.trans rfl rfl
@[simp] theorem putStack_ctxs (i : Nat) (f : StackSt → StackSt) (s : State) : (s.putStack i f).ctxs = s.ctxs := Eq.trans rfl rfl
@[simp] theorem putStack_trouble (i : Nat) (f : StackSt → StackSt) (s : State) : (s.putStack i f).trouble = s.trouble := Eq.trans rfl rfl
@[simp] theorem putStack_cond (i : Nat) (f : StackSt → StackSt) (s : State) : (s.putStack i f).cond = s.cond := Eq.trans rfl rfl
@[simp] theorem putStack_outbox (i : Nat) (f : StackSt → StackSt) (s : State) : (s.putStack i f).outbox = s.outbox := Eq.trans rfl rfl
@[simp] theorem putStack_cxls (i : Nat) (f : StackSt → StackSt) (s : State) : (s.putStack i f).cxls = s.cxls := Eq.trans rfl rfl
@[simp] theorem putStack_wagon (i : Nat) (f : StackSt → StackSt) (s : State) : (s.putStack i f).wagon = s.wagon := Eq.trans rfl rfl
@[simp] theorem putStack_deepNext (i : Nat) (f : StackSt → StackSt) (s : State) : (s.putStack i f).deepNext = s.deepNext := Eq.trans rfl rfl
@[simp] theorem putStack_history (i : Nat) (f : StackSt → StackSt) (s : State) : (s.putStack i f).history = s.history := Eq.trans rfl rfl
@[simp] theorem putStack_trPend (i : Nat) (f : StackSt → StackSt) (s : State) : (s.putStack i f).trPend = s.trPend := Eq.trans rfl rfl
@[simp] theorem putStack_resets (i : Nat) (f : StackSt → StackSt) (s : State) : (s.putStack i f).resets = s.resets := Eq.trans rfl rfl
@[simp] theorem putStack_ports (i : Nat) (f : StackSt → StackSt) (s : State) : (s.putStack i f).ports = s.ports := Eq.trans rfl rfl
@[simp] theorem putStack_fab (i : Nat) (f : StackSt → StackSt) (s : State) : (s.putStack i f).fab = s.fab := Eq.trans rfl rfl
@[simp] theorem putStack_sec (i : Nat) (f : StackSt → StackSt) (s : State) : (s.putStack i f).sec = s.sec := Eq.trans rfl rfl
@[simp] theorem putStack_flash (i : Nat) (f : StackSt → StackSt) (s : State) : (s.putStack i f).flash = s.flash := Eq.trans rfl rfl
@[simp] theorem putStack_chain (i : Nat) (f : StackSt → StackSt) (s : State) : (s.putStack i f).chain = s.chain := Eq.trans rfl rfl
@[simp] theorem putStack_pwr (i : Nat) (f : StackSt → StackSt) (s : State) : (s.putStack i f).pwr = s.pwr := Eq.trans rfl rfl
@[simp] theorem putStack_link (i : Nat) (f : StackSt → StackSt) (s : State) : (s.putStack i f).link = s.link := Eq.trans rfl rfl
@[simp] theorem putTrouble_part (f : (List (List Byte)) → (List (List Byte))) (s : State) : (s.putTrouble f).part = s.part := Eq.trans rfl rfl
@[simp] theorem putTrouble_pending (f : (List (List Byte)) → (List (List Byte))) (s : State) : (s.putTrouble f).pending = s.pending := Eq.trans rfl rfl
@[simp] theorem putTrouble_freeCtr (f : (List (List Byte)) → (List (List Byte))) (s : State) : (s.putTrouble f).freeCtr = s.freeCtr := Eq.trans rfl rfl
@[simp] theorem putTrouble_regs (f : (List (List Byte)) → (List (List Byte))) (s : State) : (s.putTrouble f).regs = s.regs := Eq.trans rfl rfl
@[simp] theorem putTrouble_mem (f : (List (List Byte)) → (List (List Byte))) (s : State) : (s.putTrouble f).mem = s.mem := Eq.trans rfl rfl
@[simp] theorem putTrouble_syn (f : (List (List Byte)) → (List (List Byte))) (s : State) : (s.putTrouble f).syn = s.syn := Eq.trans rfl rfl
@[simp] theorem putTrouble_draw (f : (List (List Byte)) → (List (List Byte))) (s : State) : (s.putTrouble f).draw = s.draw := Eq.trans rfl rfl
@[simp] theorem putTrouble_tick (f : (List (List Byte)) → (List (List Byte))) (s : State) : (s.putTrouble f).tick = s.tick := Eq.trans rfl rfl
@[simp] theorem putTrouble_time (f : (List (List Byte)) → (List (List Byte))) (s : State) : (s.putTrouble f).time = s.time := Eq.trans rfl rfl
@[simp] theorem putTrouble_latched (f : (List (List Byte)) → (List (List Byte))) (s : State) : (s.putTrouble f).latched = s.latched := Eq.trans rfl rfl
@[simp] theorem putTrouble_due (f : (List (List Byte)) → (List (List Byte))) (s : State) : (s.putTrouble f).due = s.due := Eq.trans rfl rfl
@[simp] theorem putTrouble_lineErrs (f : (List (List Byte)) → (List (List Byte))) (s : State) : (s.putTrouble f).lineErrs = s.lineErrs := Eq.trans rfl rfl
@[simp] theorem putTrouble_oxen (f : (List (List Byte)) → (List (List Byte))) (s : State) : (s.putTrouble f).oxen = s.oxen := Eq.trans rfl rfl
@[simp] theorem putTrouble_cores (f : (List (List Byte)) → (List (List Byte))) (s : State) : (s.putTrouble f).cores = s.cores := Eq.trans rfl rfl
@[simp] theorem putTrouble_ctxs (f : (List (List Byte)) → (List (List Byte))) (s : State) : (s.putTrouble f).ctxs = s.ctxs := Eq.trans rfl rfl
@[simp] theorem putTrouble_hbm (f : (List (List Byte)) → (List (List Byte))) (s : State) : (s.putTrouble f).hbm = s.hbm := Eq.trans rfl rfl
@[simp] theorem putTrouble_trouble (f : (List (List Byte)) → (List (List Byte))) (s : State) : (s.putTrouble f).trouble = f s.trouble := Eq.trans rfl rfl
@[simp] theorem putTrouble_cond (f : (List (List Byte)) → (List (List Byte))) (s : State) : (s.putTrouble f).cond = s.cond := Eq.trans rfl rfl
@[simp] theorem putTrouble_outbox (f : (List (List Byte)) → (List (List Byte))) (s : State) : (s.putTrouble f).outbox = s.outbox := Eq.trans rfl rfl
@[simp] theorem putTrouble_cxls (f : (List (List Byte)) → (List (List Byte))) (s : State) : (s.putTrouble f).cxls = s.cxls := Eq.trans rfl rfl
@[simp] theorem putTrouble_wagon (f : (List (List Byte)) → (List (List Byte))) (s : State) : (s.putTrouble f).wagon = s.wagon := Eq.trans rfl rfl
@[simp] theorem putTrouble_deepNext (f : (List (List Byte)) → (List (List Byte))) (s : State) : (s.putTrouble f).deepNext = s.deepNext := Eq.trans rfl rfl
@[simp] theorem putTrouble_history (f : (List (List Byte)) → (List (List Byte))) (s : State) : (s.putTrouble f).history = s.history := Eq.trans rfl rfl
@[simp] theorem putTrouble_trPend (f : (List (List Byte)) → (List (List Byte))) (s : State) : (s.putTrouble f).trPend = s.trPend := Eq.trans rfl rfl
@[simp] theorem putTrouble_resets (f : (List (List Byte)) → (List (List Byte))) (s : State) : (s.putTrouble f).resets = s.resets := Eq.trans rfl rfl
@[simp] theorem putTrouble_ports (f : (List (List Byte)) → (List (List Byte))) (s : State) : (s.putTrouble f).ports = s.ports := Eq.trans rfl rfl
@[simp] theorem putTrouble_fab (f : (List (List Byte)) → (List (List Byte))) (s : State) : (s.putTrouble f).fab = s.fab := Eq.trans rfl rfl
@[simp] theorem putTrouble_sec (f : (List (List Byte)) → (List (List Byte))) (s : State) : (s.putTrouble f).sec = s.sec := Eq.trans rfl rfl
@[simp] theorem putTrouble_flash (f : (List (List Byte)) → (List (List Byte))) (s : State) : (s.putTrouble f).flash = s.flash := Eq.trans rfl rfl
@[simp] theorem putTrouble_chain (f : (List (List Byte)) → (List (List Byte))) (s : State) : (s.putTrouble f).chain = s.chain := Eq.trans rfl rfl
@[simp] theorem putTrouble_pwr (f : (List (List Byte)) → (List (List Byte))) (s : State) : (s.putTrouble f).pwr = s.pwr := Eq.trans rfl rfl
@[simp] theorem putTrouble_link (f : (List (List Byte)) → (List (List Byte))) (s : State) : (s.putTrouble f).link = s.link := Eq.trans rfl rfl
@[simp] theorem putCond_part (f : (List (List Byte)) → (List (List Byte))) (s : State) : (s.putCond f).part = s.part := Eq.trans rfl rfl
@[simp] theorem putCond_pending (f : (List (List Byte)) → (List (List Byte))) (s : State) : (s.putCond f).pending = s.pending := Eq.trans rfl rfl
@[simp] theorem putCond_freeCtr (f : (List (List Byte)) → (List (List Byte))) (s : State) : (s.putCond f).freeCtr = s.freeCtr := Eq.trans rfl rfl
@[simp] theorem putCond_regs (f : (List (List Byte)) → (List (List Byte))) (s : State) : (s.putCond f).regs = s.regs := Eq.trans rfl rfl
@[simp] theorem putCond_mem (f : (List (List Byte)) → (List (List Byte))) (s : State) : (s.putCond f).mem = s.mem := Eq.trans rfl rfl
@[simp] theorem putCond_syn (f : (List (List Byte)) → (List (List Byte))) (s : State) : (s.putCond f).syn = s.syn := Eq.trans rfl rfl
@[simp] theorem putCond_draw (f : (List (List Byte)) → (List (List Byte))) (s : State) : (s.putCond f).draw = s.draw := Eq.trans rfl rfl
@[simp] theorem putCond_tick (f : (List (List Byte)) → (List (List Byte))) (s : State) : (s.putCond f).tick = s.tick := Eq.trans rfl rfl
@[simp] theorem putCond_time (f : (List (List Byte)) → (List (List Byte))) (s : State) : (s.putCond f).time = s.time := Eq.trans rfl rfl
@[simp] theorem putCond_latched (f : (List (List Byte)) → (List (List Byte))) (s : State) : (s.putCond f).latched = s.latched := Eq.trans rfl rfl
@[simp] theorem putCond_due (f : (List (List Byte)) → (List (List Byte))) (s : State) : (s.putCond f).due = s.due := Eq.trans rfl rfl
@[simp] theorem putCond_lineErrs (f : (List (List Byte)) → (List (List Byte))) (s : State) : (s.putCond f).lineErrs = s.lineErrs := Eq.trans rfl rfl
@[simp] theorem putCond_oxen (f : (List (List Byte)) → (List (List Byte))) (s : State) : (s.putCond f).oxen = s.oxen := Eq.trans rfl rfl
@[simp] theorem putCond_cores (f : (List (List Byte)) → (List (List Byte))) (s : State) : (s.putCond f).cores = s.cores := Eq.trans rfl rfl
@[simp] theorem putCond_ctxs (f : (List (List Byte)) → (List (List Byte))) (s : State) : (s.putCond f).ctxs = s.ctxs := Eq.trans rfl rfl
@[simp] theorem putCond_hbm (f : (List (List Byte)) → (List (List Byte))) (s : State) : (s.putCond f).hbm = s.hbm := Eq.trans rfl rfl
@[simp] theorem putCond_trouble (f : (List (List Byte)) → (List (List Byte))) (s : State) : (s.putCond f).trouble = s.trouble := Eq.trans rfl rfl
@[simp] theorem putCond_cond (f : (List (List Byte)) → (List (List Byte))) (s : State) : (s.putCond f).cond = f s.cond := Eq.trans rfl rfl
@[simp] theorem putCond_outbox (f : (List (List Byte)) → (List (List Byte))) (s : State) : (s.putCond f).outbox = s.outbox := Eq.trans rfl rfl
@[simp] theorem putCond_cxls (f : (List (List Byte)) → (List (List Byte))) (s : State) : (s.putCond f).cxls = s.cxls := Eq.trans rfl rfl
@[simp] theorem putCond_wagon (f : (List (List Byte)) → (List (List Byte))) (s : State) : (s.putCond f).wagon = s.wagon := Eq.trans rfl rfl
@[simp] theorem putCond_deepNext (f : (List (List Byte)) → (List (List Byte))) (s : State) : (s.putCond f).deepNext = s.deepNext := Eq.trans rfl rfl
@[simp] theorem putCond_history (f : (List (List Byte)) → (List (List Byte))) (s : State) : (s.putCond f).history = s.history := Eq.trans rfl rfl
@[simp] theorem putCond_trPend (f : (List (List Byte)) → (List (List Byte))) (s : State) : (s.putCond f).trPend = s.trPend := Eq.trans rfl rfl
@[simp] theorem putCond_resets (f : (List (List Byte)) → (List (List Byte))) (s : State) : (s.putCond f).resets = s.resets := Eq.trans rfl rfl
@[simp] theorem putCond_ports (f : (List (List Byte)) → (List (List Byte))) (s : State) : (s.putCond f).ports = s.ports := Eq.trans rfl rfl
@[simp] theorem putCond_fab (f : (List (List Byte)) → (List (List Byte))) (s : State) : (s.putCond f).fab = s.fab := Eq.trans rfl rfl
@[simp] theorem putCond_sec (f : (List (List Byte)) → (List (List Byte))) (s : State) : (s.putCond f).sec = s.sec := Eq.trans rfl rfl
@[simp] theorem putCond_flash (f : (List (List Byte)) → (List (List Byte))) (s : State) : (s.putCond f).flash = s.flash := Eq.trans rfl rfl
@[simp] theorem putCond_chain (f : (List (List Byte)) → (List (List Byte))) (s : State) : (s.putCond f).chain = s.chain := Eq.trans rfl rfl
@[simp] theorem putCond_pwr (f : (List (List Byte)) → (List (List Byte))) (s : State) : (s.putCond f).pwr = s.pwr := Eq.trans rfl rfl
@[simp] theorem putCond_link (f : (List (List Byte)) → (List (List Byte))) (s : State) : (s.putCond f).link = s.link := Eq.trans rfl rfl
@[simp] theorem putOutbox_part (f : (List OutMsg) → (List OutMsg)) (s : State) : (s.putOutbox f).part = s.part := Eq.trans rfl rfl
@[simp] theorem putOutbox_pending (f : (List OutMsg) → (List OutMsg)) (s : State) : (s.putOutbox f).pending = s.pending := Eq.trans rfl rfl
@[simp] theorem putOutbox_freeCtr (f : (List OutMsg) → (List OutMsg)) (s : State) : (s.putOutbox f).freeCtr = s.freeCtr := Eq.trans rfl rfl
@[simp] theorem putOutbox_regs (f : (List OutMsg) → (List OutMsg)) (s : State) : (s.putOutbox f).regs = s.regs := Eq.trans rfl rfl
@[simp] theorem putOutbox_mem (f : (List OutMsg) → (List OutMsg)) (s : State) : (s.putOutbox f).mem = s.mem := Eq.trans rfl rfl
@[simp] theorem putOutbox_syn (f : (List OutMsg) → (List OutMsg)) (s : State) : (s.putOutbox f).syn = s.syn := Eq.trans rfl rfl
@[simp] theorem putOutbox_draw (f : (List OutMsg) → (List OutMsg)) (s : State) : (s.putOutbox f).draw = s.draw := Eq.trans rfl rfl
@[simp] theorem putOutbox_tick (f : (List OutMsg) → (List OutMsg)) (s : State) : (s.putOutbox f).tick = s.tick := Eq.trans rfl rfl
@[simp] theorem putOutbox_time (f : (List OutMsg) → (List OutMsg)) (s : State) : (s.putOutbox f).time = s.time := Eq.trans rfl rfl
@[simp] theorem putOutbox_latched (f : (List OutMsg) → (List OutMsg)) (s : State) : (s.putOutbox f).latched = s.latched := Eq.trans rfl rfl
@[simp] theorem putOutbox_due (f : (List OutMsg) → (List OutMsg)) (s : State) : (s.putOutbox f).due = s.due := Eq.trans rfl rfl
@[simp] theorem putOutbox_lineErrs (f : (List OutMsg) → (List OutMsg)) (s : State) : (s.putOutbox f).lineErrs = s.lineErrs := Eq.trans rfl rfl
@[simp] theorem putOutbox_oxen (f : (List OutMsg) → (List OutMsg)) (s : State) : (s.putOutbox f).oxen = s.oxen := Eq.trans rfl rfl
@[simp] theorem putOutbox_cores (f : (List OutMsg) → (List OutMsg)) (s : State) : (s.putOutbox f).cores = s.cores := Eq.trans rfl rfl
@[simp] theorem putOutbox_ctxs (f : (List OutMsg) → (List OutMsg)) (s : State) : (s.putOutbox f).ctxs = s.ctxs := Eq.trans rfl rfl
@[simp] theorem putOutbox_hbm (f : (List OutMsg) → (List OutMsg)) (s : State) : (s.putOutbox f).hbm = s.hbm := Eq.trans rfl rfl
@[simp] theorem putOutbox_trouble (f : (List OutMsg) → (List OutMsg)) (s : State) : (s.putOutbox f).trouble = s.trouble := Eq.trans rfl rfl
@[simp] theorem putOutbox_cond (f : (List OutMsg) → (List OutMsg)) (s : State) : (s.putOutbox f).cond = s.cond := Eq.trans rfl rfl
@[simp] theorem putOutbox_outbox (f : (List OutMsg) → (List OutMsg)) (s : State) : (s.putOutbox f).outbox = f s.outbox := Eq.trans rfl rfl
@[simp] theorem putOutbox_cxls (f : (List OutMsg) → (List OutMsg)) (s : State) : (s.putOutbox f).cxls = s.cxls := Eq.trans rfl rfl
@[simp] theorem putOutbox_wagon (f : (List OutMsg) → (List OutMsg)) (s : State) : (s.putOutbox f).wagon = s.wagon := Eq.trans rfl rfl
@[simp] theorem putOutbox_deepNext (f : (List OutMsg) → (List OutMsg)) (s : State) : (s.putOutbox f).deepNext = s.deepNext := Eq.trans rfl rfl
@[simp] theorem putOutbox_history (f : (List OutMsg) → (List OutMsg)) (s : State) : (s.putOutbox f).history = s.history := Eq.trans rfl rfl
@[simp] theorem putOutbox_trPend (f : (List OutMsg) → (List OutMsg)) (s : State) : (s.putOutbox f).trPend = s.trPend := Eq.trans rfl rfl
@[simp] theorem putOutbox_resets (f : (List OutMsg) → (List OutMsg)) (s : State) : (s.putOutbox f).resets = s.resets := Eq.trans rfl rfl
@[simp] theorem putOutbox_ports (f : (List OutMsg) → (List OutMsg)) (s : State) : (s.putOutbox f).ports = s.ports := Eq.trans rfl rfl
@[simp] theorem putOutbox_fab (f : (List OutMsg) → (List OutMsg)) (s : State) : (s.putOutbox f).fab = s.fab := Eq.trans rfl rfl
@[simp] theorem putOutbox_sec (f : (List OutMsg) → (List OutMsg)) (s : State) : (s.putOutbox f).sec = s.sec := Eq.trans rfl rfl
@[simp] theorem putOutbox_flash (f : (List OutMsg) → (List OutMsg)) (s : State) : (s.putOutbox f).flash = s.flash := Eq.trans rfl rfl
@[simp] theorem putOutbox_chain (f : (List OutMsg) → (List OutMsg)) (s : State) : (s.putOutbox f).chain = s.chain := Eq.trans rfl rfl
@[simp] theorem putOutbox_pwr (f : (List OutMsg) → (List OutMsg)) (s : State) : (s.putOutbox f).pwr = s.pwr := Eq.trans rfl rfl
@[simp] theorem putOutbox_link (f : (List OutMsg) → (List OutMsg)) (s : State) : (s.putOutbox f).link = s.link := Eq.trans rfl rfl
@[simp] theorem putCxl_part (i : Nat) (f : CxlSt → CxlSt) (s : State) : (s.putCxl i f).part = s.part := Eq.trans rfl rfl
@[simp] theorem putCxl_pending (i : Nat) (f : CxlSt → CxlSt) (s : State) : (s.putCxl i f).pending = s.pending := Eq.trans rfl rfl
@[simp] theorem putCxl_freeCtr (i : Nat) (f : CxlSt → CxlSt) (s : State) : (s.putCxl i f).freeCtr = s.freeCtr := Eq.trans rfl rfl
@[simp] theorem putCxl_regs (i : Nat) (f : CxlSt → CxlSt) (s : State) : (s.putCxl i f).regs = s.regs := Eq.trans rfl rfl
@[simp] theorem putCxl_mem (i : Nat) (f : CxlSt → CxlSt) (s : State) : (s.putCxl i f).mem = s.mem := Eq.trans rfl rfl
@[simp] theorem putCxl_syn (i : Nat) (f : CxlSt → CxlSt) (s : State) : (s.putCxl i f).syn = s.syn := Eq.trans rfl rfl
@[simp] theorem putCxl_draw (i : Nat) (f : CxlSt → CxlSt) (s : State) : (s.putCxl i f).draw = s.draw := Eq.trans rfl rfl
@[simp] theorem putCxl_tick (i : Nat) (f : CxlSt → CxlSt) (s : State) : (s.putCxl i f).tick = s.tick := Eq.trans rfl rfl
@[simp] theorem putCxl_time (i : Nat) (f : CxlSt → CxlSt) (s : State) : (s.putCxl i f).time = s.time := Eq.trans rfl rfl
@[simp] theorem putCxl_latched (i : Nat) (f : CxlSt → CxlSt) (s : State) : (s.putCxl i f).latched = s.latched := Eq.trans rfl rfl
@[simp] theorem putCxl_due (i : Nat) (f : CxlSt → CxlSt) (s : State) : (s.putCxl i f).due = s.due := Eq.trans rfl rfl
@[simp] theorem putCxl_lineErrs (i : Nat) (f : CxlSt → CxlSt) (s : State) : (s.putCxl i f).lineErrs = s.lineErrs := Eq.trans rfl rfl
@[simp] theorem putCxl_oxen (i : Nat) (f : CxlSt → CxlSt) (s : State) : (s.putCxl i f).oxen = s.oxen := Eq.trans rfl rfl
@[simp] theorem putCxl_cores (i : Nat) (f : CxlSt → CxlSt) (s : State) : (s.putCxl i f).cores = s.cores := Eq.trans rfl rfl
@[simp] theorem putCxl_ctxs (i : Nat) (f : CxlSt → CxlSt) (s : State) : (s.putCxl i f).ctxs = s.ctxs := Eq.trans rfl rfl
@[simp] theorem putCxl_hbm (i : Nat) (f : CxlSt → CxlSt) (s : State) : (s.putCxl i f).hbm = s.hbm := Eq.trans rfl rfl
@[simp] theorem putCxl_trouble (i : Nat) (f : CxlSt → CxlSt) (s : State) : (s.putCxl i f).trouble = s.trouble := Eq.trans rfl rfl
@[simp] theorem putCxl_cond (i : Nat) (f : CxlSt → CxlSt) (s : State) : (s.putCxl i f).cond = s.cond := Eq.trans rfl rfl
@[simp] theorem putCxl_outbox (i : Nat) (f : CxlSt → CxlSt) (s : State) : (s.putCxl i f).outbox = s.outbox := Eq.trans rfl rfl
@[simp] theorem putCxl_wagon (i : Nat) (f : CxlSt → CxlSt) (s : State) : (s.putCxl i f).wagon = s.wagon := Eq.trans rfl rfl
@[simp] theorem putCxl_deepNext (i : Nat) (f : CxlSt → CxlSt) (s : State) : (s.putCxl i f).deepNext = s.deepNext := Eq.trans rfl rfl
@[simp] theorem putCxl_history (i : Nat) (f : CxlSt → CxlSt) (s : State) : (s.putCxl i f).history = s.history := Eq.trans rfl rfl
@[simp] theorem putCxl_trPend (i : Nat) (f : CxlSt → CxlSt) (s : State) : (s.putCxl i f).trPend = s.trPend := Eq.trans rfl rfl
@[simp] theorem putCxl_resets (i : Nat) (f : CxlSt → CxlSt) (s : State) : (s.putCxl i f).resets = s.resets := Eq.trans rfl rfl
@[simp] theorem putCxl_ports (i : Nat) (f : CxlSt → CxlSt) (s : State) : (s.putCxl i f).ports = s.ports := Eq.trans rfl rfl
@[simp] theorem putCxl_fab (i : Nat) (f : CxlSt → CxlSt) (s : State) : (s.putCxl i f).fab = s.fab := Eq.trans rfl rfl
@[simp] theorem putCxl_sec (i : Nat) (f : CxlSt → CxlSt) (s : State) : (s.putCxl i f).sec = s.sec := Eq.trans rfl rfl
@[simp] theorem putCxl_flash (i : Nat) (f : CxlSt → CxlSt) (s : State) : (s.putCxl i f).flash = s.flash := Eq.trans rfl rfl
@[simp] theorem putCxl_chain (i : Nat) (f : CxlSt → CxlSt) (s : State) : (s.putCxl i f).chain = s.chain := Eq.trans rfl rfl
@[simp] theorem putCxl_pwr (i : Nat) (f : CxlSt → CxlSt) (s : State) : (s.putCxl i f).pwr = s.pwr := Eq.trans rfl rfl
@[simp] theorem putCxl_link (i : Nat) (f : CxlSt → CxlSt) (s : State) : (s.putCxl i f).link = s.link := Eq.trans rfl rfl
@[simp] theorem putWagon_part (f : WagonSt → WagonSt) (s : State) : (s.putWagon f).part = s.part := Eq.trans rfl rfl
@[simp] theorem putWagon_pending (f : WagonSt → WagonSt) (s : State) : (s.putWagon f).pending = s.pending := Eq.trans rfl rfl
@[simp] theorem putWagon_freeCtr (f : WagonSt → WagonSt) (s : State) : (s.putWagon f).freeCtr = s.freeCtr := Eq.trans rfl rfl
@[simp] theorem putWagon_regs (f : WagonSt → WagonSt) (s : State) : (s.putWagon f).regs = s.regs := Eq.trans rfl rfl
@[simp] theorem putWagon_mem (f : WagonSt → WagonSt) (s : State) : (s.putWagon f).mem = s.mem := Eq.trans rfl rfl
@[simp] theorem putWagon_syn (f : WagonSt → WagonSt) (s : State) : (s.putWagon f).syn = s.syn := Eq.trans rfl rfl
@[simp] theorem putWagon_draw (f : WagonSt → WagonSt) (s : State) : (s.putWagon f).draw = s.draw := Eq.trans rfl rfl
@[simp] theorem putWagon_tick (f : WagonSt → WagonSt) (s : State) : (s.putWagon f).tick = s.tick := Eq.trans rfl rfl
@[simp] theorem putWagon_time (f : WagonSt → WagonSt) (s : State) : (s.putWagon f).time = s.time := Eq.trans rfl rfl
@[simp] theorem putWagon_latched (f : WagonSt → WagonSt) (s : State) : (s.putWagon f).latched = s.latched := Eq.trans rfl rfl
@[simp] theorem putWagon_due (f : WagonSt → WagonSt) (s : State) : (s.putWagon f).due = s.due := Eq.trans rfl rfl
@[simp] theorem putWagon_lineErrs (f : WagonSt → WagonSt) (s : State) : (s.putWagon f).lineErrs = s.lineErrs := Eq.trans rfl rfl
@[simp] theorem putWagon_oxen (f : WagonSt → WagonSt) (s : State) : (s.putWagon f).oxen = s.oxen := Eq.trans rfl rfl
@[simp] theorem putWagon_cores (f : WagonSt → WagonSt) (s : State) : (s.putWagon f).cores = s.cores := Eq.trans rfl rfl
@[simp] theorem putWagon_ctxs (f : WagonSt → WagonSt) (s : State) : (s.putWagon f).ctxs = s.ctxs := Eq.trans rfl rfl
@[simp] theorem putWagon_hbm (f : WagonSt → WagonSt) (s : State) : (s.putWagon f).hbm = s.hbm := Eq.trans rfl rfl
@[simp] theorem putWagon_trouble (f : WagonSt → WagonSt) (s : State) : (s.putWagon f).trouble = s.trouble := Eq.trans rfl rfl
@[simp] theorem putWagon_cond (f : WagonSt → WagonSt) (s : State) : (s.putWagon f).cond = s.cond := Eq.trans rfl rfl
@[simp] theorem putWagon_outbox (f : WagonSt → WagonSt) (s : State) : (s.putWagon f).outbox = s.outbox := Eq.trans rfl rfl
@[simp] theorem putWagon_cxls (f : WagonSt → WagonSt) (s : State) : (s.putWagon f).cxls = s.cxls := Eq.trans rfl rfl
@[simp] theorem putWagon_wagon (f : WagonSt → WagonSt) (s : State) : (s.putWagon f).wagon = f s.wagon := Eq.trans rfl rfl
@[simp] theorem putWagon_deepNext (f : WagonSt → WagonSt) (s : State) : (s.putWagon f).deepNext = s.deepNext := Eq.trans rfl rfl
@[simp] theorem putWagon_history (f : WagonSt → WagonSt) (s : State) : (s.putWagon f).history = s.history := Eq.trans rfl rfl
@[simp] theorem putWagon_trPend (f : WagonSt → WagonSt) (s : State) : (s.putWagon f).trPend = s.trPend := Eq.trans rfl rfl
@[simp] theorem putWagon_resets (f : WagonSt → WagonSt) (s : State) : (s.putWagon f).resets = s.resets := Eq.trans rfl rfl
@[simp] theorem putWagon_ports (f : WagonSt → WagonSt) (s : State) : (s.putWagon f).ports = s.ports := Eq.trans rfl rfl
@[simp] theorem putWagon_fab (f : WagonSt → WagonSt) (s : State) : (s.putWagon f).fab = s.fab := Eq.trans rfl rfl
@[simp] theorem putWagon_sec (f : WagonSt → WagonSt) (s : State) : (s.putWagon f).sec = s.sec := Eq.trans rfl rfl
@[simp] theorem putWagon_flash (f : WagonSt → WagonSt) (s : State) : (s.putWagon f).flash = s.flash := Eq.trans rfl rfl
@[simp] theorem putWagon_chain (f : WagonSt → WagonSt) (s : State) : (s.putWagon f).chain = s.chain := Eq.trans rfl rfl
@[simp] theorem putWagon_pwr (f : WagonSt → WagonSt) (s : State) : (s.putWagon f).pwr = s.pwr := Eq.trans rfl rfl
@[simp] theorem putWagon_link (f : WagonSt → WagonSt) (s : State) : (s.putWagon f).link = s.link := Eq.trans rfl rfl
@[simp] theorem putDeepNext_part (f : Nat → Nat) (s : State) : (s.putDeepNext f).part = s.part := Eq.trans rfl rfl
@[simp] theorem putDeepNext_pending (f : Nat → Nat) (s : State) : (s.putDeepNext f).pending = s.pending := Eq.trans rfl rfl
@[simp] theorem putDeepNext_freeCtr (f : Nat → Nat) (s : State) : (s.putDeepNext f).freeCtr = s.freeCtr := Eq.trans rfl rfl
@[simp] theorem putDeepNext_regs (f : Nat → Nat) (s : State) : (s.putDeepNext f).regs = s.regs := Eq.trans rfl rfl
@[simp] theorem putDeepNext_mem (f : Nat → Nat) (s : State) : (s.putDeepNext f).mem = s.mem := Eq.trans rfl rfl
@[simp] theorem putDeepNext_syn (f : Nat → Nat) (s : State) : (s.putDeepNext f).syn = s.syn := Eq.trans rfl rfl
@[simp] theorem putDeepNext_draw (f : Nat → Nat) (s : State) : (s.putDeepNext f).draw = s.draw := Eq.trans rfl rfl
@[simp] theorem putDeepNext_tick (f : Nat → Nat) (s : State) : (s.putDeepNext f).tick = s.tick := Eq.trans rfl rfl
@[simp] theorem putDeepNext_time (f : Nat → Nat) (s : State) : (s.putDeepNext f).time = s.time := Eq.trans rfl rfl
@[simp] theorem putDeepNext_latched (f : Nat → Nat) (s : State) : (s.putDeepNext f).latched = s.latched := Eq.trans rfl rfl
@[simp] theorem putDeepNext_due (f : Nat → Nat) (s : State) : (s.putDeepNext f).due = s.due := Eq.trans rfl rfl
@[simp] theorem putDeepNext_lineErrs (f : Nat → Nat) (s : State) : (s.putDeepNext f).lineErrs = s.lineErrs := Eq.trans rfl rfl
@[simp] theorem putDeepNext_oxen (f : Nat → Nat) (s : State) : (s.putDeepNext f).oxen = s.oxen := Eq.trans rfl rfl
@[simp] theorem putDeepNext_cores (f : Nat → Nat) (s : State) : (s.putDeepNext f).cores = s.cores := Eq.trans rfl rfl
@[simp] theorem putDeepNext_ctxs (f : Nat → Nat) (s : State) : (s.putDeepNext f).ctxs = s.ctxs := Eq.trans rfl rfl
@[simp] theorem putDeepNext_hbm (f : Nat → Nat) (s : State) : (s.putDeepNext f).hbm = s.hbm := Eq.trans rfl rfl
@[simp] theorem putDeepNext_trouble (f : Nat → Nat) (s : State) : (s.putDeepNext f).trouble = s.trouble := Eq.trans rfl rfl
@[simp] theorem putDeepNext_cond (f : Nat → Nat) (s : State) : (s.putDeepNext f).cond = s.cond := Eq.trans rfl rfl
@[simp] theorem putDeepNext_outbox (f : Nat → Nat) (s : State) : (s.putDeepNext f).outbox = s.outbox := Eq.trans rfl rfl
@[simp] theorem putDeepNext_cxls (f : Nat → Nat) (s : State) : (s.putDeepNext f).cxls = s.cxls := Eq.trans rfl rfl
@[simp] theorem putDeepNext_wagon (f : Nat → Nat) (s : State) : (s.putDeepNext f).wagon = s.wagon := Eq.trans rfl rfl
@[simp] theorem putDeepNext_deepNext (f : Nat → Nat) (s : State) : (s.putDeepNext f).deepNext = f s.deepNext := Eq.trans rfl rfl
@[simp] theorem putDeepNext_history (f : Nat → Nat) (s : State) : (s.putDeepNext f).history = s.history := Eq.trans rfl rfl
@[simp] theorem putDeepNext_trPend (f : Nat → Nat) (s : State) : (s.putDeepNext f).trPend = s.trPend := Eq.trans rfl rfl
@[simp] theorem putDeepNext_resets (f : Nat → Nat) (s : State) : (s.putDeepNext f).resets = s.resets := Eq.trans rfl rfl
@[simp] theorem putDeepNext_ports (f : Nat → Nat) (s : State) : (s.putDeepNext f).ports = s.ports := Eq.trans rfl rfl
@[simp] theorem putDeepNext_fab (f : Nat → Nat) (s : State) : (s.putDeepNext f).fab = s.fab := Eq.trans rfl rfl
@[simp] theorem putDeepNext_sec (f : Nat → Nat) (s : State) : (s.putDeepNext f).sec = s.sec := Eq.trans rfl rfl
@[simp] theorem putDeepNext_flash (f : Nat → Nat) (s : State) : (s.putDeepNext f).flash = s.flash := Eq.trans rfl rfl
@[simp] theorem putDeepNext_chain (f : Nat → Nat) (s : State) : (s.putDeepNext f).chain = s.chain := Eq.trans rfl rfl
@[simp] theorem putDeepNext_pwr (f : Nat → Nat) (s : State) : (s.putDeepNext f).pwr = s.pwr := Eq.trans rfl rfl
@[simp] theorem putDeepNext_link (f : Nat → Nat) (s : State) : (s.putDeepNext f).link = s.link := Eq.trans rfl rfl
@[simp] theorem putHistory_part (f : (List RepEnt) → (List RepEnt)) (s : State) : (s.putHistory f).part = s.part := Eq.trans rfl rfl
@[simp] theorem putHistory_pending (f : (List RepEnt) → (List RepEnt)) (s : State) : (s.putHistory f).pending = s.pending := Eq.trans rfl rfl
@[simp] theorem putHistory_freeCtr (f : (List RepEnt) → (List RepEnt)) (s : State) : (s.putHistory f).freeCtr = s.freeCtr := Eq.trans rfl rfl
@[simp] theorem putHistory_regs (f : (List RepEnt) → (List RepEnt)) (s : State) : (s.putHistory f).regs = s.regs := Eq.trans rfl rfl
@[simp] theorem putHistory_mem (f : (List RepEnt) → (List RepEnt)) (s : State) : (s.putHistory f).mem = s.mem := Eq.trans rfl rfl
@[simp] theorem putHistory_syn (f : (List RepEnt) → (List RepEnt)) (s : State) : (s.putHistory f).syn = s.syn := Eq.trans rfl rfl
@[simp] theorem putHistory_draw (f : (List RepEnt) → (List RepEnt)) (s : State) : (s.putHistory f).draw = s.draw := Eq.trans rfl rfl
@[simp] theorem putHistory_tick (f : (List RepEnt) → (List RepEnt)) (s : State) : (s.putHistory f).tick = s.tick := Eq.trans rfl rfl
@[simp] theorem putHistory_time (f : (List RepEnt) → (List RepEnt)) (s : State) : (s.putHistory f).time = s.time := Eq.trans rfl rfl
@[simp] theorem putHistory_latched (f : (List RepEnt) → (List RepEnt)) (s : State) : (s.putHistory f).latched = s.latched := Eq.trans rfl rfl
@[simp] theorem putHistory_due (f : (List RepEnt) → (List RepEnt)) (s : State) : (s.putHistory f).due = s.due := Eq.trans rfl rfl
@[simp] theorem putHistory_lineErrs (f : (List RepEnt) → (List RepEnt)) (s : State) : (s.putHistory f).lineErrs = s.lineErrs := Eq.trans rfl rfl
@[simp] theorem putHistory_oxen (f : (List RepEnt) → (List RepEnt)) (s : State) : (s.putHistory f).oxen = s.oxen := Eq.trans rfl rfl
@[simp] theorem putHistory_cores (f : (List RepEnt) → (List RepEnt)) (s : State) : (s.putHistory f).cores = s.cores := Eq.trans rfl rfl
@[simp] theorem putHistory_ctxs (f : (List RepEnt) → (List RepEnt)) (s : State) : (s.putHistory f).ctxs = s.ctxs := Eq.trans rfl rfl
@[simp] theorem putHistory_hbm (f : (List RepEnt) → (List RepEnt)) (s : State) : (s.putHistory f).hbm = s.hbm := Eq.trans rfl rfl
@[simp] theorem putHistory_trouble (f : (List RepEnt) → (List RepEnt)) (s : State) : (s.putHistory f).trouble = s.trouble := Eq.trans rfl rfl
@[simp] theorem putHistory_cond (f : (List RepEnt) → (List RepEnt)) (s : State) : (s.putHistory f).cond = s.cond := Eq.trans rfl rfl
@[simp] theorem putHistory_outbox (f : (List RepEnt) → (List RepEnt)) (s : State) : (s.putHistory f).outbox = s.outbox := Eq.trans rfl rfl
@[simp] theorem putHistory_cxls (f : (List RepEnt) → (List RepEnt)) (s : State) : (s.putHistory f).cxls = s.cxls := Eq.trans rfl rfl
@[simp] theorem putHistory_wagon (f : (List RepEnt) → (List RepEnt)) (s : State) : (s.putHistory f).wagon = s.wagon := Eq.trans rfl rfl
@[simp] theorem putHistory_deepNext (f : (List RepEnt) → (List RepEnt)) (s : State) : (s.putHistory f).deepNext = s.deepNext := Eq.trans rfl rfl
@[simp] theorem putHistory_history (f : (List RepEnt) → (List RepEnt)) (s : State) : (s.putHistory f).history = f s.history := Eq.trans rfl rfl
@[simp] theorem putHistory_trPend (f : (List RepEnt) → (List RepEnt)) (s : State) : (s.putHistory f).trPend = s.trPend := Eq.trans rfl rfl
@[simp] theorem putHistory_resets (f : (List RepEnt) → (List RepEnt)) (s : State) : (s.putHistory f).resets = s.resets := Eq.trans rfl rfl
@[simp] theorem putHistory_ports (f : (List RepEnt) → (List RepEnt)) (s : State) : (s.putHistory f).ports = s.ports := Eq.trans rfl rfl
@[simp] theorem putHistory_fab (f : (List RepEnt) → (List RepEnt)) (s : State) : (s.putHistory f).fab = s.fab := Eq.trans rfl rfl
@[simp] theorem putHistory_sec (f : (List RepEnt) → (List RepEnt)) (s : State) : (s.putHistory f).sec = s.sec := Eq.trans rfl rfl
@[simp] theorem putHistory_flash (f : (List RepEnt) → (List RepEnt)) (s : State) : (s.putHistory f).flash = s.flash := Eq.trans rfl rfl
@[simp] theorem putHistory_chain (f : (List RepEnt) → (List RepEnt)) (s : State) : (s.putHistory f).chain = s.chain := Eq.trans rfl rfl
@[simp] theorem putHistory_pwr (f : (List RepEnt) → (List RepEnt)) (s : State) : (s.putHistory f).pwr = s.pwr := Eq.trans rfl rfl
@[simp] theorem putHistory_link (f : (List RepEnt) → (List RepEnt)) (s : State) : (s.putHistory f).link = s.link := Eq.trans rfl rfl
@[simp] theorem putTrPend_part (f : (List PendRec) → (List PendRec)) (s : State) : (s.putTrPend f).part = s.part := Eq.trans rfl rfl
@[simp] theorem putTrPend_pending (f : (List PendRec) → (List PendRec)) (s : State) : (s.putTrPend f).pending = s.pending := Eq.trans rfl rfl
@[simp] theorem putTrPend_freeCtr (f : (List PendRec) → (List PendRec)) (s : State) : (s.putTrPend f).freeCtr = s.freeCtr := Eq.trans rfl rfl
@[simp] theorem putTrPend_regs (f : (List PendRec) → (List PendRec)) (s : State) : (s.putTrPend f).regs = s.regs := Eq.trans rfl rfl
@[simp] theorem putTrPend_mem (f : (List PendRec) → (List PendRec)) (s : State) : (s.putTrPend f).mem = s.mem := Eq.trans rfl rfl
@[simp] theorem putTrPend_syn (f : (List PendRec) → (List PendRec)) (s : State) : (s.putTrPend f).syn = s.syn := Eq.trans rfl rfl
@[simp] theorem putTrPend_draw (f : (List PendRec) → (List PendRec)) (s : State) : (s.putTrPend f).draw = s.draw := Eq.trans rfl rfl
@[simp] theorem putTrPend_tick (f : (List PendRec) → (List PendRec)) (s : State) : (s.putTrPend f).tick = s.tick := Eq.trans rfl rfl
@[simp] theorem putTrPend_time (f : (List PendRec) → (List PendRec)) (s : State) : (s.putTrPend f).time = s.time := Eq.trans rfl rfl
@[simp] theorem putTrPend_latched (f : (List PendRec) → (List PendRec)) (s : State) : (s.putTrPend f).latched = s.latched := Eq.trans rfl rfl
@[simp] theorem putTrPend_due (f : (List PendRec) → (List PendRec)) (s : State) : (s.putTrPend f).due = s.due := Eq.trans rfl rfl
@[simp] theorem putTrPend_lineErrs (f : (List PendRec) → (List PendRec)) (s : State) : (s.putTrPend f).lineErrs = s.lineErrs := Eq.trans rfl rfl
@[simp] theorem putTrPend_oxen (f : (List PendRec) → (List PendRec)) (s : State) : (s.putTrPend f).oxen = s.oxen := Eq.trans rfl rfl
@[simp] theorem putTrPend_cores (f : (List PendRec) → (List PendRec)) (s : State) : (s.putTrPend f).cores = s.cores := Eq.trans rfl rfl
@[simp] theorem putTrPend_ctxs (f : (List PendRec) → (List PendRec)) (s : State) : (s.putTrPend f).ctxs = s.ctxs := Eq.trans rfl rfl
@[simp] theorem putTrPend_hbm (f : (List PendRec) → (List PendRec)) (s : State) : (s.putTrPend f).hbm = s.hbm := Eq.trans rfl rfl
@[simp] theorem putTrPend_trouble (f : (List PendRec) → (List PendRec)) (s : State) : (s.putTrPend f).trouble = s.trouble := Eq.trans rfl rfl
@[simp] theorem putTrPend_cond (f : (List PendRec) → (List PendRec)) (s : State) : (s.putTrPend f).cond = s.cond := Eq.trans rfl rfl
@[simp] theorem putTrPend_outbox (f : (List PendRec) → (List PendRec)) (s : State) : (s.putTrPend f).outbox = s.outbox := Eq.trans rfl rfl
@[simp] theorem putTrPend_cxls (f : (List PendRec) → (List PendRec)) (s : State) : (s.putTrPend f).cxls = s.cxls := Eq.trans rfl rfl
@[simp] theorem putTrPend_wagon (f : (List PendRec) → (List PendRec)) (s : State) : (s.putTrPend f).wagon = s.wagon := Eq.trans rfl rfl
@[simp] theorem putTrPend_deepNext (f : (List PendRec) → (List PendRec)) (s : State) : (s.putTrPend f).deepNext = s.deepNext := Eq.trans rfl rfl
@[simp] theorem putTrPend_history (f : (List PendRec) → (List PendRec)) (s : State) : (s.putTrPend f).history = s.history := Eq.trans rfl rfl
@[simp] theorem putTrPend_trPend (f : (List PendRec) → (List PendRec)) (s : State) : (s.putTrPend f).trPend = f s.trPend := Eq.trans rfl rfl
@[simp] theorem putTrPend_resets (f : (List PendRec) → (List PendRec)) (s : State) : (s.putTrPend f).resets = s.resets := Eq.trans rfl rfl
@[simp] theorem putTrPend_ports (f : (List PendRec) → (List PendRec)) (s : State) : (s.putTrPend f).ports = s.ports := Eq.trans rfl rfl
@[simp] theorem putTrPend_fab (f : (List PendRec) → (List PendRec)) (s : State) : (s.putTrPend f).fab = s.fab := Eq.trans rfl rfl
@[simp] theorem putTrPend_sec (f : (List PendRec) → (List PendRec)) (s : State) : (s.putTrPend f).sec = s.sec := Eq.trans rfl rfl
@[simp] theorem putTrPend_flash (f : (List PendRec) → (List PendRec)) (s : State) : (s.putTrPend f).flash = s.flash := Eq.trans rfl rfl
@[simp] theorem putTrPend_chain (f : (List PendRec) → (List PendRec)) (s : State) : (s.putTrPend f).chain = s.chain := Eq.trans rfl rfl
@[simp] theorem putTrPend_pwr (f : (List PendRec) → (List PendRec)) (s : State) : (s.putTrPend f).pwr = s.pwr := Eq.trans rfl rfl
@[simp] theorem putTrPend_link (f : (List PendRec) → (List PendRec)) (s : State) : (s.putTrPend f).link = s.link := Eq.trans rfl rfl
@[simp] theorem putResets_part (f : (List ResetOp) → (List ResetOp)) (s : State) : (s.putResets f).part = s.part := Eq.trans rfl rfl
@[simp] theorem putResets_pending (f : (List ResetOp) → (List ResetOp)) (s : State) : (s.putResets f).pending = s.pending := Eq.trans rfl rfl
@[simp] theorem putResets_freeCtr (f : (List ResetOp) → (List ResetOp)) (s : State) : (s.putResets f).freeCtr = s.freeCtr := Eq.trans rfl rfl
@[simp] theorem putResets_regs (f : (List ResetOp) → (List ResetOp)) (s : State) : (s.putResets f).regs = s.regs := Eq.trans rfl rfl
@[simp] theorem putResets_mem (f : (List ResetOp) → (List ResetOp)) (s : State) : (s.putResets f).mem = s.mem := Eq.trans rfl rfl
@[simp] theorem putResets_syn (f : (List ResetOp) → (List ResetOp)) (s : State) : (s.putResets f).syn = s.syn := Eq.trans rfl rfl
@[simp] theorem putResets_draw (f : (List ResetOp) → (List ResetOp)) (s : State) : (s.putResets f).draw = s.draw := Eq.trans rfl rfl
@[simp] theorem putResets_tick (f : (List ResetOp) → (List ResetOp)) (s : State) : (s.putResets f).tick = s.tick := Eq.trans rfl rfl
@[simp] theorem putResets_time (f : (List ResetOp) → (List ResetOp)) (s : State) : (s.putResets f).time = s.time := Eq.trans rfl rfl
@[simp] theorem putResets_latched (f : (List ResetOp) → (List ResetOp)) (s : State) : (s.putResets f).latched = s.latched := Eq.trans rfl rfl
@[simp] theorem putResets_due (f : (List ResetOp) → (List ResetOp)) (s : State) : (s.putResets f).due = s.due := Eq.trans rfl rfl
@[simp] theorem putResets_lineErrs (f : (List ResetOp) → (List ResetOp)) (s : State) : (s.putResets f).lineErrs = s.lineErrs := Eq.trans rfl rfl
@[simp] theorem putResets_oxen (f : (List ResetOp) → (List ResetOp)) (s : State) : (s.putResets f).oxen = s.oxen := Eq.trans rfl rfl
@[simp] theorem putResets_cores (f : (List ResetOp) → (List ResetOp)) (s : State) : (s.putResets f).cores = s.cores := Eq.trans rfl rfl
@[simp] theorem putResets_ctxs (f : (List ResetOp) → (List ResetOp)) (s : State) : (s.putResets f).ctxs = s.ctxs := Eq.trans rfl rfl
@[simp] theorem putResets_hbm (f : (List ResetOp) → (List ResetOp)) (s : State) : (s.putResets f).hbm = s.hbm := Eq.trans rfl rfl
@[simp] theorem putResets_trouble (f : (List ResetOp) → (List ResetOp)) (s : State) : (s.putResets f).trouble = s.trouble := Eq.trans rfl rfl
@[simp] theorem putResets_cond (f : (List ResetOp) → (List ResetOp)) (s : State) : (s.putResets f).cond = s.cond := Eq.trans rfl rfl
@[simp] theorem putResets_outbox (f : (List ResetOp) → (List ResetOp)) (s : State) : (s.putResets f).outbox = s.outbox := Eq.trans rfl rfl
@[simp] theorem putResets_cxls (f : (List ResetOp) → (List ResetOp)) (s : State) : (s.putResets f).cxls = s.cxls := Eq.trans rfl rfl
@[simp] theorem putResets_wagon (f : (List ResetOp) → (List ResetOp)) (s : State) : (s.putResets f).wagon = s.wagon := Eq.trans rfl rfl
@[simp] theorem putResets_deepNext (f : (List ResetOp) → (List ResetOp)) (s : State) : (s.putResets f).deepNext = s.deepNext := Eq.trans rfl rfl
@[simp] theorem putResets_history (f : (List ResetOp) → (List ResetOp)) (s : State) : (s.putResets f).history = s.history := Eq.trans rfl rfl
@[simp] theorem putResets_trPend (f : (List ResetOp) → (List ResetOp)) (s : State) : (s.putResets f).trPend = s.trPend := Eq.trans rfl rfl
@[simp] theorem putResets_resets (f : (List ResetOp) → (List ResetOp)) (s : State) : (s.putResets f).resets = f s.resets := Eq.trans rfl rfl
@[simp] theorem putResets_ports (f : (List ResetOp) → (List ResetOp)) (s : State) : (s.putResets f).ports = s.ports := Eq.trans rfl rfl
@[simp] theorem putResets_fab (f : (List ResetOp) → (List ResetOp)) (s : State) : (s.putResets f).fab = s.fab := Eq.trans rfl rfl
@[simp] theorem putResets_sec (f : (List ResetOp) → (List ResetOp)) (s : State) : (s.putResets f).sec = s.sec := Eq.trans rfl rfl
@[simp] theorem putResets_flash (f : (List ResetOp) → (List ResetOp)) (s : State) : (s.putResets f).flash = s.flash := Eq.trans rfl rfl
@[simp] theorem putResets_chain (f : (List ResetOp) → (List ResetOp)) (s : State) : (s.putResets f).chain = s.chain := Eq.trans rfl rfl
@[simp] theorem putResets_pwr (f : (List ResetOp) → (List ResetOp)) (s : State) : (s.putResets f).pwr = s.pwr := Eq.trans rfl rfl
@[simp] theorem putResets_link (f : (List ResetOp) → (List ResetOp)) (s : State) : (s.putResets f).link = s.link := Eq.trans rfl rfl
@[simp] theorem putPort_part (i : Nat) (f : PortSt → PortSt) (s : State) : (s.putPort i f).part = s.part := Eq.trans rfl rfl
@[simp] theorem putPort_pending (i : Nat) (f : PortSt → PortSt) (s : State) : (s.putPort i f).pending = s.pending := Eq.trans rfl rfl
@[simp] theorem putPort_freeCtr (i : Nat) (f : PortSt → PortSt) (s : State) : (s.putPort i f).freeCtr = s.freeCtr := Eq.trans rfl rfl
@[simp] theorem putPort_regs (i : Nat) (f : PortSt → PortSt) (s : State) : (s.putPort i f).regs = s.regs := Eq.trans rfl rfl
@[simp] theorem putPort_mem (i : Nat) (f : PortSt → PortSt) (s : State) : (s.putPort i f).mem = s.mem := Eq.trans rfl rfl
@[simp] theorem putPort_syn (i : Nat) (f : PortSt → PortSt) (s : State) : (s.putPort i f).syn = s.syn := Eq.trans rfl rfl
@[simp] theorem putPort_draw (i : Nat) (f : PortSt → PortSt) (s : State) : (s.putPort i f).draw = s.draw := Eq.trans rfl rfl
@[simp] theorem putPort_tick (i : Nat) (f : PortSt → PortSt) (s : State) : (s.putPort i f).tick = s.tick := Eq.trans rfl rfl
@[simp] theorem putPort_time (i : Nat) (f : PortSt → PortSt) (s : State) : (s.putPort i f).time = s.time := Eq.trans rfl rfl
@[simp] theorem putPort_latched (i : Nat) (f : PortSt → PortSt) (s : State) : (s.putPort i f).latched = s.latched := Eq.trans rfl rfl
@[simp] theorem putPort_due (i : Nat) (f : PortSt → PortSt) (s : State) : (s.putPort i f).due = s.due := Eq.trans rfl rfl
@[simp] theorem putPort_lineErrs (i : Nat) (f : PortSt → PortSt) (s : State) : (s.putPort i f).lineErrs = s.lineErrs := Eq.trans rfl rfl
@[simp] theorem putPort_oxen (i : Nat) (f : PortSt → PortSt) (s : State) : (s.putPort i f).oxen = s.oxen := Eq.trans rfl rfl
@[simp] theorem putPort_cores (i : Nat) (f : PortSt → PortSt) (s : State) : (s.putPort i f).cores = s.cores := Eq.trans rfl rfl
@[simp] theorem putPort_ctxs (i : Nat) (f : PortSt → PortSt) (s : State) : (s.putPort i f).ctxs = s.ctxs := Eq.trans rfl rfl
@[simp] theorem putPort_hbm (i : Nat) (f : PortSt → PortSt) (s : State) : (s.putPort i f).hbm = s.hbm := Eq.trans rfl rfl
@[simp] theorem putPort_trouble (i : Nat) (f : PortSt → PortSt) (s : State) : (s.putPort i f).trouble = s.trouble := Eq.trans rfl rfl
@[simp] theorem putPort_cond (i : Nat) (f : PortSt → PortSt) (s : State) : (s.putPort i f).cond = s.cond := Eq.trans rfl rfl
@[simp] theorem putPort_outbox (i : Nat) (f : PortSt → PortSt) (s : State) : (s.putPort i f).outbox = s.outbox := Eq.trans rfl rfl
@[simp] theorem putPort_cxls (i : Nat) (f : PortSt → PortSt) (s : State) : (s.putPort i f).cxls = s.cxls := Eq.trans rfl rfl
@[simp] theorem putPort_wagon (i : Nat) (f : PortSt → PortSt) (s : State) : (s.putPort i f).wagon = s.wagon := Eq.trans rfl rfl
@[simp] theorem putPort_deepNext (i : Nat) (f : PortSt → PortSt) (s : State) : (s.putPort i f).deepNext = s.deepNext := Eq.trans rfl rfl
@[simp] theorem putPort_history (i : Nat) (f : PortSt → PortSt) (s : State) : (s.putPort i f).history = s.history := Eq.trans rfl rfl
@[simp] theorem putPort_trPend (i : Nat) (f : PortSt → PortSt) (s : State) : (s.putPort i f).trPend = s.trPend := Eq.trans rfl rfl
@[simp] theorem putPort_resets (i : Nat) (f : PortSt → PortSt) (s : State) : (s.putPort i f).resets = s.resets := Eq.trans rfl rfl
@[simp] theorem putPort_fab (i : Nat) (f : PortSt → PortSt) (s : State) : (s.putPort i f).fab = s.fab := Eq.trans rfl rfl
@[simp] theorem putPort_sec (i : Nat) (f : PortSt → PortSt) (s : State) : (s.putPort i f).sec = s.sec := Eq.trans rfl rfl
@[simp] theorem putPort_flash (i : Nat) (f : PortSt → PortSt) (s : State) : (s.putPort i f).flash = s.flash := Eq.trans rfl rfl
@[simp] theorem putPort_chain (i : Nat) (f : PortSt → PortSt) (s : State) : (s.putPort i f).chain = s.chain := Eq.trans rfl rfl
@[simp] theorem putPort_pwr (i : Nat) (f : PortSt → PortSt) (s : State) : (s.putPort i f).pwr = s.pwr := Eq.trans rfl rfl
@[simp] theorem putPort_link (i : Nat) (f : PortSt → PortSt) (s : State) : (s.putPort i f).link = s.link := Eq.trans rfl rfl
@[simp] theorem putFab_part (f : FabSt → FabSt) (s : State) : (s.putFab f).part = s.part := Eq.trans rfl rfl
@[simp] theorem putFab_pending (f : FabSt → FabSt) (s : State) : (s.putFab f).pending = s.pending := Eq.trans rfl rfl
@[simp] theorem putFab_freeCtr (f : FabSt → FabSt) (s : State) : (s.putFab f).freeCtr = s.freeCtr := Eq.trans rfl rfl
@[simp] theorem putFab_regs (f : FabSt → FabSt) (s : State) : (s.putFab f).regs = s.regs := Eq.trans rfl rfl
@[simp] theorem putFab_mem (f : FabSt → FabSt) (s : State) : (s.putFab f).mem = s.mem := Eq.trans rfl rfl
@[simp] theorem putFab_syn (f : FabSt → FabSt) (s : State) : (s.putFab f).syn = s.syn := Eq.trans rfl rfl
@[simp] theorem putFab_draw (f : FabSt → FabSt) (s : State) : (s.putFab f).draw = s.draw := Eq.trans rfl rfl
@[simp] theorem putFab_tick (f : FabSt → FabSt) (s : State) : (s.putFab f).tick = s.tick := Eq.trans rfl rfl
@[simp] theorem putFab_time (f : FabSt → FabSt) (s : State) : (s.putFab f).time = s.time := Eq.trans rfl rfl
@[simp] theorem putFab_latched (f : FabSt → FabSt) (s : State) : (s.putFab f).latched = s.latched := Eq.trans rfl rfl
@[simp] theorem putFab_due (f : FabSt → FabSt) (s : State) : (s.putFab f).due = s.due := Eq.trans rfl rfl
@[simp] theorem putFab_lineErrs (f : FabSt → FabSt) (s : State) : (s.putFab f).lineErrs = s.lineErrs := Eq.trans rfl rfl
@[simp] theorem putFab_oxen (f : FabSt → FabSt) (s : State) : (s.putFab f).oxen = s.oxen := Eq.trans rfl rfl
@[simp] theorem putFab_cores (f : FabSt → FabSt) (s : State) : (s.putFab f).cores = s.cores := Eq.trans rfl rfl
@[simp] theorem putFab_ctxs (f : FabSt → FabSt) (s : State) : (s.putFab f).ctxs = s.ctxs := Eq.trans rfl rfl
@[simp] theorem putFab_hbm (f : FabSt → FabSt) (s : State) : (s.putFab f).hbm = s.hbm := Eq.trans rfl rfl
@[simp] theorem putFab_trouble (f : FabSt → FabSt) (s : State) : (s.putFab f).trouble = s.trouble := Eq.trans rfl rfl
@[simp] theorem putFab_cond (f : FabSt → FabSt) (s : State) : (s.putFab f).cond = s.cond := Eq.trans rfl rfl
@[simp] theorem putFab_outbox (f : FabSt → FabSt) (s : State) : (s.putFab f).outbox = s.outbox := Eq.trans rfl rfl
@[simp] theorem putFab_cxls (f : FabSt → FabSt) (s : State) : (s.putFab f).cxls = s.cxls := Eq.trans rfl rfl
@[simp] theorem putFab_wagon (f : FabSt → FabSt) (s : State) : (s.putFab f).wagon = s.wagon := Eq.trans rfl rfl
@[simp] theorem putFab_deepNext (f : FabSt → FabSt) (s : State) : (s.putFab f).deepNext = s.deepNext := Eq.trans rfl rfl
@[simp] theorem putFab_history (f : FabSt → FabSt) (s : State) : (s.putFab f).history = s.history := Eq.trans rfl rfl
@[simp] theorem putFab_trPend (f : FabSt → FabSt) (s : State) : (s.putFab f).trPend = s.trPend := Eq.trans rfl rfl
@[simp] theorem putFab_resets (f : FabSt → FabSt) (s : State) : (s.putFab f).resets = s.resets := Eq.trans rfl rfl
@[simp] theorem putFab_ports (f : FabSt → FabSt) (s : State) : (s.putFab f).ports = s.ports := Eq.trans rfl rfl
@[simp] theorem putFab_fab (f : FabSt → FabSt) (s : State) : (s.putFab f).fab = f s.fab := Eq.trans rfl rfl
@[simp] theorem putFab_sec (f : FabSt → FabSt) (s : State) : (s.putFab f).sec = s.sec := Eq.trans rfl rfl
@[simp] theorem putFab_flash (f : FabSt → FabSt) (s : State) : (s.putFab f).flash = s.flash := Eq.trans rfl rfl
@[simp] theorem putFab_chain (f : FabSt → FabSt) (s : State) : (s.putFab f).chain = s.chain := Eq.trans rfl rfl
@[simp] theorem putFab_pwr (f : FabSt → FabSt) (s : State) : (s.putFab f).pwr = s.pwr := Eq.trans rfl rfl
@[simp] theorem putFab_link (f : FabSt → FabSt) (s : State) : (s.putFab f).link = s.link := Eq.trans rfl rfl
@[simp] theorem putSec_part (f : SecSt → SecSt) (s : State) : (s.putSec f).part = s.part := Eq.trans rfl rfl
@[simp] theorem putSec_pending (f : SecSt → SecSt) (s : State) : (s.putSec f).pending = s.pending := Eq.trans rfl rfl
@[simp] theorem putSec_freeCtr (f : SecSt → SecSt) (s : State) : (s.putSec f).freeCtr = s.freeCtr := Eq.trans rfl rfl
@[simp] theorem putSec_regs (f : SecSt → SecSt) (s : State) : (s.putSec f).regs = s.regs := Eq.trans rfl rfl
@[simp] theorem putSec_mem (f : SecSt → SecSt) (s : State) : (s.putSec f).mem = s.mem := Eq.trans rfl rfl
@[simp] theorem putSec_syn (f : SecSt → SecSt) (s : State) : (s.putSec f).syn = s.syn := Eq.trans rfl rfl
@[simp] theorem putSec_draw (f : SecSt → SecSt) (s : State) : (s.putSec f).draw = s.draw := Eq.trans rfl rfl
@[simp] theorem putSec_tick (f : SecSt → SecSt) (s : State) : (s.putSec f).tick = s.tick := Eq.trans rfl rfl
@[simp] theorem putSec_time (f : SecSt → SecSt) (s : State) : (s.putSec f).time = s.time := Eq.trans rfl rfl
@[simp] theorem putSec_latched (f : SecSt → SecSt) (s : State) : (s.putSec f).latched = s.latched := Eq.trans rfl rfl
@[simp] theorem putSec_due (f : SecSt → SecSt) (s : State) : (s.putSec f).due = s.due := Eq.trans rfl rfl
@[simp] theorem putSec_lineErrs (f : SecSt → SecSt) (s : State) : (s.putSec f).lineErrs = s.lineErrs := Eq.trans rfl rfl
@[simp] theorem putSec_oxen (f : SecSt → SecSt) (s : State) : (s.putSec f).oxen = s.oxen := Eq.trans rfl rfl
@[simp] theorem putSec_cores (f : SecSt → SecSt) (s : State) : (s.putSec f).cores = s.cores := Eq.trans rfl rfl
@[simp] theorem putSec_ctxs (f : SecSt → SecSt) (s : State) : (s.putSec f).ctxs = s.ctxs := Eq.trans rfl rfl
@[simp] theorem putSec_hbm (f : SecSt → SecSt) (s : State) : (s.putSec f).hbm = s.hbm := Eq.trans rfl rfl
@[simp] theorem putSec_trouble (f : SecSt → SecSt) (s : State) : (s.putSec f).trouble = s.trouble := Eq.trans rfl rfl
@[simp] theorem putSec_cond (f : SecSt → SecSt) (s : State) : (s.putSec f).cond = s.cond := Eq.trans rfl rfl
@[simp] theorem putSec_outbox (f : SecSt → SecSt) (s : State) : (s.putSec f).outbox = s.outbox := Eq.trans rfl rfl
@[simp] theorem putSec_cxls (f : SecSt → SecSt) (s : State) : (s.putSec f).cxls = s.cxls := Eq.trans rfl rfl
@[simp] theorem putSec_wagon (f : SecSt → SecSt) (s : State) : (s.putSec f).wagon = s.wagon := Eq.trans rfl rfl
@[simp] theorem putSec_deepNext (f : SecSt → SecSt) (s : State) : (s.putSec f).deepNext = s.deepNext := Eq.trans rfl rfl
@[simp] theorem putSec_history (f : SecSt → SecSt) (s : State) : (s.putSec f).history = s.history := Eq.trans rfl rfl
@[simp] theorem putSec_trPend (f : SecSt → SecSt) (s : State) : (s.putSec f).trPend = s.trPend := Eq.trans rfl rfl
@[simp] theorem putSec_resets (f : SecSt → SecSt) (s : State) : (s.putSec f).resets = s.resets := Eq.trans rfl rfl
@[simp] theorem putSec_ports (f : SecSt → SecSt) (s : State) : (s.putSec f).ports = s.ports := Eq.trans rfl rfl
@[simp] theorem putSec_fab (f : SecSt → SecSt) (s : State) : (s.putSec f).fab = s.fab := Eq.trans rfl rfl
@[simp] theorem putSec_sec (f : SecSt → SecSt) (s : State) : (s.putSec f).sec = f s.sec := Eq.trans rfl rfl
@[simp] theorem putSec_flash (f : SecSt → SecSt) (s : State) : (s.putSec f).flash = s.flash := Eq.trans rfl rfl
@[simp] theorem putSec_chain (f : SecSt → SecSt) (s : State) : (s.putSec f).chain = s.chain := Eq.trans rfl rfl
@[simp] theorem putSec_pwr (f : SecSt → SecSt) (s : State) : (s.putSec f).pwr = s.pwr := Eq.trans rfl rfl
@[simp] theorem putSec_link (f : SecSt → SecSt) (s : State) : (s.putSec f).link = s.link := Eq.trans rfl rfl
@[simp] theorem putFlash_part (f : FlashSt → FlashSt) (s : State) : (s.putFlash f).part = s.part := Eq.trans rfl rfl
@[simp] theorem putFlash_pending (f : FlashSt → FlashSt) (s : State) : (s.putFlash f).pending = s.pending := Eq.trans rfl rfl
@[simp] theorem putFlash_freeCtr (f : FlashSt → FlashSt) (s : State) : (s.putFlash f).freeCtr = s.freeCtr := Eq.trans rfl rfl
@[simp] theorem putFlash_regs (f : FlashSt → FlashSt) (s : State) : (s.putFlash f).regs = s.regs := Eq.trans rfl rfl
@[simp] theorem putFlash_mem (f : FlashSt → FlashSt) (s : State) : (s.putFlash f).mem = s.mem := Eq.trans rfl rfl
@[simp] theorem putFlash_syn (f : FlashSt → FlashSt) (s : State) : (s.putFlash f).syn = s.syn := Eq.trans rfl rfl
@[simp] theorem putFlash_draw (f : FlashSt → FlashSt) (s : State) : (s.putFlash f).draw = s.draw := Eq.trans rfl rfl
@[simp] theorem putFlash_tick (f : FlashSt → FlashSt) (s : State) : (s.putFlash f).tick = s.tick := Eq.trans rfl rfl
@[simp] theorem putFlash_time (f : FlashSt → FlashSt) (s : State) : (s.putFlash f).time = s.time := Eq.trans rfl rfl
@[simp] theorem putFlash_latched (f : FlashSt → FlashSt) (s : State) : (s.putFlash f).latched = s.latched := Eq.trans rfl rfl
@[simp] theorem putFlash_due (f : FlashSt → FlashSt) (s : State) : (s.putFlash f).due = s.due := Eq.trans rfl rfl
@[simp] theorem putFlash_lineErrs (f : FlashSt → FlashSt) (s : State) : (s.putFlash f).lineErrs = s.lineErrs := Eq.trans rfl rfl
@[simp] theorem putFlash_oxen (f : FlashSt → FlashSt) (s : State) : (s.putFlash f).oxen = s.oxen := Eq.trans rfl rfl
@[simp] theorem putFlash_cores (f : FlashSt → FlashSt) (s : State) : (s.putFlash f).cores = s.cores := Eq.trans rfl rfl
@[simp] theorem putFlash_ctxs (f : FlashSt → FlashSt) (s : State) : (s.putFlash f).ctxs = s.ctxs := Eq.trans rfl rfl
@[simp] theorem putFlash_hbm (f : FlashSt → FlashSt) (s : State) : (s.putFlash f).hbm = s.hbm := Eq.trans rfl rfl
@[simp] theorem putFlash_trouble (f : FlashSt → FlashSt) (s : State) : (s.putFlash f).trouble = s.trouble := Eq.trans rfl rfl
@[simp] theorem putFlash_cond (f : FlashSt → FlashSt) (s : State) : (s.putFlash f).cond = s.cond := Eq.trans rfl rfl
@[simp] theorem putFlash_outbox (f : FlashSt → FlashSt) (s : State) : (s.putFlash f).outbox = s.outbox := Eq.trans rfl rfl
@[simp] theorem putFlash_cxls (f : FlashSt → FlashSt) (s : State) : (s.putFlash f).cxls = s.cxls := Eq.trans rfl rfl
@[simp] theorem putFlash_wagon (f : FlashSt → FlashSt) (s : State) : (s.putFlash f).wagon = s.wagon := Eq.trans rfl rfl
@[simp] theorem putFlash_deepNext (f : FlashSt → FlashSt) (s : State) : (s.putFlash f).deepNext = s.deepNext := Eq.trans rfl rfl
@[simp] theorem putFlash_history (f : FlashSt → FlashSt) (s : State) : (s.putFlash f).history = s.history := Eq.trans rfl rfl
@[simp] theorem putFlash_trPend (f : FlashSt → FlashSt) (s : State) : (s.putFlash f).trPend = s.trPend := Eq.trans rfl rfl
@[simp] theorem putFlash_resets (f : FlashSt → FlashSt) (s : State) : (s.putFlash f).resets = s.resets := Eq.trans rfl rfl
@[simp] theorem putFlash_ports (f : FlashSt → FlashSt) (s : State) : (s.putFlash f).ports = s.ports := Eq.trans rfl rfl
@[simp] theorem putFlash_fab (f : FlashSt → FlashSt) (s : State) : (s.putFlash f).fab = s.fab := Eq.trans rfl rfl
@[simp] theorem putFlash_sec (f : FlashSt → FlashSt) (s : State) : (s.putFlash f).sec = s.sec := Eq.trans rfl rfl
@[simp] theorem putFlash_flash (f : FlashSt → FlashSt) (s : State) : (s.putFlash f).flash = f s.flash := Eq.trans rfl rfl
@[simp] theorem putFlash_chain (f : FlashSt → FlashSt) (s : State) : (s.putFlash f).chain = s.chain := Eq.trans rfl rfl
@[simp] theorem putFlash_pwr (f : FlashSt → FlashSt) (s : State) : (s.putFlash f).pwr = s.pwr := Eq.trans rfl rfl
@[simp] theorem putFlash_link (f : FlashSt → FlashSt) (s : State) : (s.putFlash f).link = s.link := Eq.trans rfl rfl
@[simp] theorem putChain_part (f : ChainSt → ChainSt) (s : State) : (s.putChain f).part = s.part := Eq.trans rfl rfl
@[simp] theorem putChain_pending (f : ChainSt → ChainSt) (s : State) : (s.putChain f).pending = s.pending := Eq.trans rfl rfl
@[simp] theorem putChain_freeCtr (f : ChainSt → ChainSt) (s : State) : (s.putChain f).freeCtr = s.freeCtr := Eq.trans rfl rfl
@[simp] theorem putChain_regs (f : ChainSt → ChainSt) (s : State) : (s.putChain f).regs = s.regs := Eq.trans rfl rfl
@[simp] theorem putChain_mem (f : ChainSt → ChainSt) (s : State) : (s.putChain f).mem = s.mem := Eq.trans rfl rfl
@[simp] theorem putChain_syn (f : ChainSt → ChainSt) (s : State) : (s.putChain f).syn = s.syn := Eq.trans rfl rfl
@[simp] theorem putChain_draw (f : ChainSt → ChainSt) (s : State) : (s.putChain f).draw = s.draw := Eq.trans rfl rfl
@[simp] theorem putChain_tick (f : ChainSt → ChainSt) (s : State) : (s.putChain f).tick = s.tick := Eq.trans rfl rfl
@[simp] theorem putChain_time (f : ChainSt → ChainSt) (s : State) : (s.putChain f).time = s.time := Eq.trans rfl rfl
@[simp] theorem putChain_latched (f : ChainSt → ChainSt) (s : State) : (s.putChain f).latched = s.latched := Eq.trans rfl rfl
@[simp] theorem putChain_due (f : ChainSt → ChainSt) (s : State) : (s.putChain f).due = s.due := Eq.trans rfl rfl
@[simp] theorem putChain_lineErrs (f : ChainSt → ChainSt) (s : State) : (s.putChain f).lineErrs = s.lineErrs := Eq.trans rfl rfl
@[simp] theorem putChain_oxen (f : ChainSt → ChainSt) (s : State) : (s.putChain f).oxen = s.oxen := Eq.trans rfl rfl
@[simp] theorem putChain_cores (f : ChainSt → ChainSt) (s : State) : (s.putChain f).cores = s.cores := Eq.trans rfl rfl
@[simp] theorem putChain_ctxs (f : ChainSt → ChainSt) (s : State) : (s.putChain f).ctxs = s.ctxs := Eq.trans rfl rfl
@[simp] theorem putChain_hbm (f : ChainSt → ChainSt) (s : State) : (s.putChain f).hbm = s.hbm := Eq.trans rfl rfl
@[simp] theorem putChain_trouble (f : ChainSt → ChainSt) (s : State) : (s.putChain f).trouble = s.trouble := Eq.trans rfl rfl
@[simp] theorem putChain_cond (f : ChainSt → ChainSt) (s : State) : (s.putChain f).cond = s.cond := Eq.trans rfl rfl
@[simp] theorem putChain_outbox (f : ChainSt → ChainSt) (s : State) : (s.putChain f).outbox = s.outbox := Eq.trans rfl rfl
@[simp] theorem putChain_cxls (f : ChainSt → ChainSt) (s : State) : (s.putChain f).cxls = s.cxls := Eq.trans rfl rfl
@[simp] theorem putChain_wagon (f : ChainSt → ChainSt) (s : State) : (s.putChain f).wagon = s.wagon := Eq.trans rfl rfl
@[simp] theorem putChain_deepNext (f : ChainSt → ChainSt) (s : State) : (s.putChain f).deepNext = s.deepNext := Eq.trans rfl rfl
@[simp] theorem putChain_history (f : ChainSt → ChainSt) (s : State) : (s.putChain f).history = s.history := Eq.trans rfl rfl
@[simp] theorem putChain_trPend (f : ChainSt → ChainSt) (s : State) : (s.putChain f).trPend = s.trPend := Eq.trans rfl rfl
@[simp] theorem putChain_resets (f : ChainSt → ChainSt) (s : State) : (s.putChain f).resets = s.resets := Eq.trans rfl rfl
@[simp] theorem putChain_ports (f : ChainSt → ChainSt) (s : State) : (s.putChain f).ports = s.ports := Eq.trans rfl rfl
@[simp] theorem putChain_fab (f : ChainSt → ChainSt) (s : State) : (s.putChain f).fab = s.fab := Eq.trans rfl rfl
@[simp] theorem putChain_sec (f : ChainSt → ChainSt) (s : State) : (s.putChain f).sec = s.sec := Eq.trans rfl rfl
@[simp] theorem putChain_flash (f : ChainSt → ChainSt) (s : State) : (s.putChain f).flash = s.flash := Eq.trans rfl rfl
@[simp] theorem putChain_chain (f : ChainSt → ChainSt) (s : State) : (s.putChain f).chain = f s.chain := Eq.trans rfl rfl
@[simp] theorem putChain_pwr (f : ChainSt → ChainSt) (s : State) : (s.putChain f).pwr = s.pwr := Eq.trans rfl rfl
@[simp] theorem putChain_link (f : ChainSt → ChainSt) (s : State) : (s.putChain f).link = s.link := Eq.trans rfl rfl
@[simp] theorem putPwr_part (f : PwrSt → PwrSt) (s : State) : (s.putPwr f).part = s.part := Eq.trans rfl rfl
@[simp] theorem putPwr_pending (f : PwrSt → PwrSt) (s : State) : (s.putPwr f).pending = s.pending := Eq.trans rfl rfl
@[simp] theorem putPwr_freeCtr (f : PwrSt → PwrSt) (s : State) : (s.putPwr f).freeCtr = s.freeCtr := Eq.trans rfl rfl
@[simp] theorem putPwr_regs (f : PwrSt → PwrSt) (s : State) : (s.putPwr f).regs = s.regs := Eq.trans rfl rfl
@[simp] theorem putPwr_mem (f : PwrSt → PwrSt) (s : State) : (s.putPwr f).mem = s.mem := Eq.trans rfl rfl
@[simp] theorem putPwr_syn (f : PwrSt → PwrSt) (s : State) : (s.putPwr f).syn = s.syn := Eq.trans rfl rfl
@[simp] theorem putPwr_draw (f : PwrSt → PwrSt) (s : State) : (s.putPwr f).draw = s.draw := Eq.trans rfl rfl
@[simp] theorem putPwr_tick (f : PwrSt → PwrSt) (s : State) : (s.putPwr f).tick = s.tick := Eq.trans rfl rfl
@[simp] theorem putPwr_time (f : PwrSt → PwrSt) (s : State) : (s.putPwr f).time = s.time := Eq.trans rfl rfl
@[simp] theorem putPwr_latched (f : PwrSt → PwrSt) (s : State) : (s.putPwr f).latched = s.latched := Eq.trans rfl rfl
@[simp] theorem putPwr_due (f : PwrSt → PwrSt) (s : State) : (s.putPwr f).due = s.due := Eq.trans rfl rfl
@[simp] theorem putPwr_lineErrs (f : PwrSt → PwrSt) (s : State) : (s.putPwr f).lineErrs = s.lineErrs := Eq.trans rfl rfl
@[simp] theorem putPwr_oxen (f : PwrSt → PwrSt) (s : State) : (s.putPwr f).oxen = s.oxen := Eq.trans rfl rfl
@[simp] theorem putPwr_cores (f : PwrSt → PwrSt) (s : State) : (s.putPwr f).cores = s.cores := Eq.trans rfl rfl
@[simp] theorem putPwr_ctxs (f : PwrSt → PwrSt) (s : State) : (s.putPwr f).ctxs = s.ctxs := Eq.trans rfl rfl
@[simp] theorem putPwr_hbm (f : PwrSt → PwrSt) (s : State) : (s.putPwr f).hbm = s.hbm := Eq.trans rfl rfl
@[simp] theorem putPwr_trouble (f : PwrSt → PwrSt) (s : State) : (s.putPwr f).trouble = s.trouble := Eq.trans rfl rfl
@[simp] theorem putPwr_cond (f : PwrSt → PwrSt) (s : State) : (s.putPwr f).cond = s.cond := Eq.trans rfl rfl
@[simp] theorem putPwr_outbox (f : PwrSt → PwrSt) (s : State) : (s.putPwr f).outbox = s.outbox := Eq.trans rfl rfl
@[simp] theorem putPwr_cxls (f : PwrSt → PwrSt) (s : State) : (s.putPwr f).cxls = s.cxls := Eq.trans rfl rfl
@[simp] theorem putPwr_wagon (f : PwrSt → PwrSt) (s : State) : (s.putPwr f).wagon = s.wagon := Eq.trans rfl rfl
@[simp] theorem putPwr_deepNext (f : PwrSt → PwrSt) (s : State) : (s.putPwr f).deepNext = s.deepNext := Eq.trans rfl rfl
@[simp] theorem putPwr_history (f : PwrSt → PwrSt) (s : State) : (s.putPwr f).history = s.history := Eq.trans rfl rfl
@[simp] theorem putPwr_trPend (f : PwrSt → PwrSt) (s : State) : (s.putPwr f).trPend = s.trPend := Eq.trans rfl rfl
@[simp] theorem putPwr_resets (f : PwrSt → PwrSt) (s : State) : (s.putPwr f).resets = s.resets := Eq.trans rfl rfl
@[simp] theorem putPwr_ports (f : PwrSt → PwrSt) (s : State) : (s.putPwr f).ports = s.ports := Eq.trans rfl rfl
@[simp] theorem putPwr_fab (f : PwrSt → PwrSt) (s : State) : (s.putPwr f).fab = s.fab := Eq.trans rfl rfl
@[simp] theorem putPwr_sec (f : PwrSt → PwrSt) (s : State) : (s.putPwr f).sec = s.sec := Eq.trans rfl rfl
@[simp] theorem putPwr_flash (f : PwrSt → PwrSt) (s : State) : (s.putPwr f).flash = s.flash := Eq.trans rfl rfl
@[simp] theorem putPwr_chain (f : PwrSt → PwrSt) (s : State) : (s.putPwr f).chain = s.chain := Eq.trans rfl rfl
@[simp] theorem putPwr_pwr (f : PwrSt → PwrSt) (s : State) : (s.putPwr f).pwr = f s.pwr := Eq.trans rfl rfl
@[simp] theorem putPwr_link (f : PwrSt → PwrSt) (s : State) : (s.putPwr f).link = s.link := Eq.trans rfl rfl
@[simp] theorem putLink_part (f : LinkSt → LinkSt) (s : State) : (s.putLink f).part = s.part := Eq.trans rfl rfl
@[simp] theorem putLink_pending (f : LinkSt → LinkSt) (s : State) : (s.putLink f).pending = s.pending := Eq.trans rfl rfl
@[simp] theorem putLink_freeCtr (f : LinkSt → LinkSt) (s : State) : (s.putLink f).freeCtr = s.freeCtr := Eq.trans rfl rfl
@[simp] theorem putLink_regs (f : LinkSt → LinkSt) (s : State) : (s.putLink f).regs = s.regs := Eq.trans rfl rfl
@[simp] theorem putLink_mem (f : LinkSt → LinkSt) (s : State) : (s.putLink f).mem = s.mem := Eq.trans rfl rfl
@[simp] theorem putLink_syn (f : LinkSt → LinkSt) (s : State) : (s.putLink f).syn = s.syn := Eq.trans rfl rfl
@[simp] theorem putLink_draw (f : LinkSt → LinkSt) (s : State) : (s.putLink f).draw = s.draw := Eq.trans rfl rfl
@[simp] theorem putLink_tick (f : LinkSt → LinkSt) (s : State) : (s.putLink f).tick = s.tick := Eq.trans rfl rfl
@[simp] theorem putLink_time (f : LinkSt → LinkSt) (s : State) : (s.putLink f).time = s.time := Eq.trans rfl rfl
@[simp] theorem putLink_latched (f : LinkSt → LinkSt) (s : State) : (s.putLink f).latched = s.latched := Eq.trans rfl rfl
@[simp] theorem putLink_due (f : LinkSt → LinkSt) (s : State) : (s.putLink f).due = s.due := Eq.trans rfl rfl
@[simp] theorem putLink_lineErrs (f : LinkSt → LinkSt) (s : State) : (s.putLink f).lineErrs = s.lineErrs := Eq.trans rfl rfl
@[simp] theorem putLink_oxen (f : LinkSt → LinkSt) (s : State) : (s.putLink f).oxen = s.oxen := Eq.trans rfl rfl
@[simp] theorem putLink_cores (f : LinkSt → LinkSt) (s : State) : (s.putLink f).cores = s.cores := Eq.trans rfl rfl
@[simp] theorem putLink_ctxs (f : LinkSt → LinkSt) (s : State) : (s.putLink f).ctxs = s.ctxs := Eq.trans rfl rfl
@[simp] theorem putLink_hbm (f : LinkSt → LinkSt) (s : State) : (s.putLink f).hbm = s.hbm := Eq.trans rfl rfl
@[simp] theorem putLink_trouble (f : LinkSt → LinkSt) (s : State) : (s.putLink f).trouble = s.trouble := Eq.trans rfl rfl
@[simp] theorem putLink_cond (f : LinkSt → LinkSt) (s : State) : (s.putLink f).cond = s.cond := Eq.trans rfl rfl
@[simp] theorem putLink_outbox (f : LinkSt → LinkSt) (s : State) : (s.putLink f).outbox = s.outbox := Eq.trans rfl rfl
@[simp] theorem putLink_cxls (f : LinkSt → LinkSt) (s : State) : (s.putLink f).cxls = s.cxls := Eq.trans rfl rfl
@[simp] theorem putLink_wagon (f : LinkSt → LinkSt) (s : State) : (s.putLink f).wagon = s.wagon := Eq.trans rfl rfl
@[simp] theorem putLink_deepNext (f : LinkSt → LinkSt) (s : State) : (s.putLink f).deepNext = s.deepNext := Eq.trans rfl rfl
@[simp] theorem putLink_history (f : LinkSt → LinkSt) (s : State) : (s.putLink f).history = s.history := Eq.trans rfl rfl
@[simp] theorem putLink_trPend (f : LinkSt → LinkSt) (s : State) : (s.putLink f).trPend = s.trPend := Eq.trans rfl rfl
@[simp] theorem putLink_resets (f : LinkSt → LinkSt) (s : State) : (s.putLink f).resets = s.resets := Eq.trans rfl rfl
@[simp] theorem putLink_ports (f : LinkSt → LinkSt) (s : State) : (s.putLink f).ports = s.ports := Eq.trans rfl rfl
@[simp] theorem putLink_fab (f : LinkSt → LinkSt) (s : State) : (s.putLink f).fab = s.fab := Eq.trans rfl rfl
@[simp] theorem putLink_sec (f : LinkSt → LinkSt) (s : State) : (s.putLink f).sec = s.sec := Eq.trans rfl rfl
@[simp] theorem putLink_flash (f : LinkSt → LinkSt) (s : State) : (s.putLink f).flash = s.flash := Eq.trans rfl rfl
@[simp] theorem putLink_chain (f : LinkSt → LinkSt) (s : State) : (s.putLink f).chain = s.chain := Eq.trans rfl rfl
@[simp] theorem putLink_pwr (f : LinkSt → LinkSt) (s : State) : (s.putLink f).pwr = s.pwr := Eq.trans rfl rfl
@[simp] theorem putLink_link (f : LinkSt → LinkSt) (s : State) : (s.putLink f).link = f s.link := Eq.trans rfl rfl
@[simp] theorem putReg_part (a : Nat) (v : Nat) (s : State) : (s.putReg a v).part = s.part := Eq.trans rfl rfl
@[simp] theorem putReg_pending (a : Nat) (v : Nat) (s : State) : (s.putReg a v).pending = s.pending := Eq.trans rfl rfl
@[simp] theorem putReg_freeCtr (a : Nat) (v : Nat) (s : State) : (s.putReg a v).freeCtr = s.freeCtr := Eq.trans rfl rfl
@[simp] theorem putReg_mem (a : Nat) (v : Nat) (s : State) : (s.putReg a v).mem = s.mem := Eq.trans rfl rfl
@[simp] theorem putReg_syn (a : Nat) (v : Nat) (s : State) : (s.putReg a v).syn = s.syn := Eq.trans rfl rfl
@[simp] theorem putReg_draw (a : Nat) (v : Nat) (s : State) : (s.putReg a v).draw = s.draw := Eq.trans rfl rfl
@[simp] theorem putReg_tick (a : Nat) (v : Nat) (s : State) : (s.putReg a v).tick = s.tick := Eq.trans rfl rfl
@[simp] theorem putReg_time (a : Nat) (v : Nat) (s : State) : (s.putReg a v).time = s.time := Eq.trans rfl rfl
@[simp] theorem putReg_latched (a : Nat) (v : Nat) (s : State) : (s.putReg a v).latched = s.latched := Eq.trans rfl rfl
@[simp] theorem putReg_due (a : Nat) (v : Nat) (s : State) : (s.putReg a v).due = s.due := Eq.trans rfl rfl
@[simp] theorem putReg_lineErrs (a : Nat) (v : Nat) (s : State) : (s.putReg a v).lineErrs = s.lineErrs := Eq.trans rfl rfl
@[simp] theorem putReg_oxen (a : Nat) (v : Nat) (s : State) : (s.putReg a v).oxen = s.oxen := Eq.trans rfl rfl
@[simp] theorem putReg_cores (a : Nat) (v : Nat) (s : State) : (s.putReg a v).cores = s.cores := Eq.trans rfl rfl
@[simp] theorem putReg_ctxs (a : Nat) (v : Nat) (s : State) : (s.putReg a v).ctxs = s.ctxs := Eq.trans rfl rfl
@[simp] theorem putReg_hbm (a : Nat) (v : Nat) (s : State) : (s.putReg a v).hbm = s.hbm := Eq.trans rfl rfl
@[simp] theorem putReg_trouble (a : Nat) (v : Nat) (s : State) : (s.putReg a v).trouble = s.trouble := Eq.trans rfl rfl
@[simp] theorem putReg_cond (a : Nat) (v : Nat) (s : State) : (s.putReg a v).cond = s.cond := Eq.trans rfl rfl
@[simp] theorem putReg_outbox (a : Nat) (v : Nat) (s : State) : (s.putReg a v).outbox = s.outbox := Eq.trans rfl rfl
@[simp] theorem putReg_cxls (a : Nat) (v : Nat) (s : State) : (s.putReg a v).cxls = s.cxls := Eq.trans rfl rfl
@[simp] theorem putReg_wagon (a : Nat) (v : Nat) (s : State) : (s.putReg a v).wagon = s.wagon := Eq.trans rfl rfl
@[simp] theorem putReg_deepNext (a : Nat) (v : Nat) (s : State) : (s.putReg a v).deepNext = s.deepNext := Eq.trans rfl rfl
@[simp] theorem putReg_history (a : Nat) (v : Nat) (s : State) : (s.putReg a v).history = s.history := Eq.trans rfl rfl
@[simp] theorem putReg_trPend (a : Nat) (v : Nat) (s : State) : (s.putReg a v).trPend = s.trPend := Eq.trans rfl rfl
@[simp] theorem putReg_resets (a : Nat) (v : Nat) (s : State) : (s.putReg a v).resets = s.resets := Eq.trans rfl rfl
@[simp] theorem putReg_ports (a : Nat) (v : Nat) (s : State) : (s.putReg a v).ports = s.ports := Eq.trans rfl rfl
@[simp] theorem putReg_fab (a : Nat) (v : Nat) (s : State) : (s.putReg a v).fab = s.fab := Eq.trans rfl rfl
@[simp] theorem putReg_sec (a : Nat) (v : Nat) (s : State) : (s.putReg a v).sec = s.sec := Eq.trans rfl rfl
@[simp] theorem putReg_flash (a : Nat) (v : Nat) (s : State) : (s.putReg a v).flash = s.flash := Eq.trans rfl rfl
@[simp] theorem putReg_chain (a : Nat) (v : Nat) (s : State) : (s.putReg a v).chain = s.chain := Eq.trans rfl rfl
@[simp] theorem putReg_pwr (a : Nat) (v : Nat) (s : State) : (s.putReg a v).pwr = s.pwr := Eq.trans rfl rfl
@[simp] theorem putReg_link (a : Nat) (v : Nat) (s : State) : (s.putReg a v).link = s.link := Eq.trans rfl rfl
@[simp] theorem resetRegs_part (p : Nat → Bool) (s : State) : (s.resetRegs p).part = s.part := Eq.trans rfl rfl
@[simp] theorem resetRegs_pending (p : Nat → Bool) (s : State) : (s.resetRegs p).pending = s.pending := Eq.trans rfl rfl
@[simp] theorem resetRegs_freeCtr (p : Nat → Bool) (s : State) : (s.resetRegs p).freeCtr = s.freeCtr := Eq.trans rfl rfl
@[simp] theorem resetRegs_mem (p : Nat → Bool) (s : State) : (s.resetRegs p).mem = s.mem := Eq.trans rfl rfl
@[simp] theorem resetRegs_syn (p : Nat → Bool) (s : State) : (s.resetRegs p).syn = s.syn := Eq.trans rfl rfl
@[simp] theorem resetRegs_draw (p : Nat → Bool) (s : State) : (s.resetRegs p).draw = s.draw := Eq.trans rfl rfl
@[simp] theorem resetRegs_tick (p : Nat → Bool) (s : State) : (s.resetRegs p).tick = s.tick := Eq.trans rfl rfl
@[simp] theorem resetRegs_time (p : Nat → Bool) (s : State) : (s.resetRegs p).time = s.time := Eq.trans rfl rfl
@[simp] theorem resetRegs_latched (p : Nat → Bool) (s : State) : (s.resetRegs p).latched = s.latched := Eq.trans rfl rfl
@[simp] theorem resetRegs_due (p : Nat → Bool) (s : State) : (s.resetRegs p).due = s.due := Eq.trans rfl rfl
@[simp] theorem resetRegs_lineErrs (p : Nat → Bool) (s : State) : (s.resetRegs p).lineErrs = s.lineErrs := Eq.trans rfl rfl
@[simp] theorem resetRegs_oxen (p : Nat → Bool) (s : State) : (s.resetRegs p).oxen = s.oxen := Eq.trans rfl rfl
@[simp] theorem resetRegs_cores (p : Nat → Bool) (s : State) : (s.resetRegs p).cores = s.cores := Eq.trans rfl rfl
@[simp] theorem resetRegs_ctxs (p : Nat → Bool) (s : State) : (s.resetRegs p).ctxs = s.ctxs := Eq.trans rfl rfl
@[simp] theorem resetRegs_hbm (p : Nat → Bool) (s : State) : (s.resetRegs p).hbm = s.hbm := Eq.trans rfl rfl
@[simp] theorem resetRegs_trouble (p : Nat → Bool) (s : State) : (s.resetRegs p).trouble = s.trouble := Eq.trans rfl rfl
@[simp] theorem resetRegs_cond (p : Nat → Bool) (s : State) : (s.resetRegs p).cond = s.cond := Eq.trans rfl rfl
@[simp] theorem resetRegs_outbox (p : Nat → Bool) (s : State) : (s.resetRegs p).outbox = s.outbox := Eq.trans rfl rfl
@[simp] theorem resetRegs_cxls (p : Nat → Bool) (s : State) : (s.resetRegs p).cxls = s.cxls := Eq.trans rfl rfl
@[simp] theorem resetRegs_wagon (p : Nat → Bool) (s : State) : (s.resetRegs p).wagon = s.wagon := Eq.trans rfl rfl
@[simp] theorem resetRegs_deepNext (p : Nat → Bool) (s : State) : (s.resetRegs p).deepNext = s.deepNext := Eq.trans rfl rfl
@[simp] theorem resetRegs_history (p : Nat → Bool) (s : State) : (s.resetRegs p).history = s.history := Eq.trans rfl rfl
@[simp] theorem resetRegs_trPend (p : Nat → Bool) (s : State) : (s.resetRegs p).trPend = s.trPend := Eq.trans rfl rfl
@[simp] theorem resetRegs_resets (p : Nat → Bool) (s : State) : (s.resetRegs p).resets = s.resets := Eq.trans rfl rfl
@[simp] theorem resetRegs_ports (p : Nat → Bool) (s : State) : (s.resetRegs p).ports = s.ports := Eq.trans rfl rfl
@[simp] theorem resetRegs_fab (p : Nat → Bool) (s : State) : (s.resetRegs p).fab = s.fab := Eq.trans rfl rfl
@[simp] theorem resetRegs_sec (p : Nat → Bool) (s : State) : (s.resetRegs p).sec = s.sec := Eq.trans rfl rfl
@[simp] theorem resetRegs_flash (p : Nat → Bool) (s : State) : (s.resetRegs p).flash = s.flash := Eq.trans rfl rfl
@[simp] theorem resetRegs_chain (p : Nat → Bool) (s : State) : (s.resetRegs p).chain = s.chain := Eq.trans rfl rfl
@[simp] theorem resetRegs_pwr (p : Nat → Bool) (s : State) : (s.resetRegs p).pwr = s.pwr := Eq.trans rfl rfl
@[simp] theorem resetRegs_link (p : Nat → Bool) (s : State) : (s.resetRegs p).link = s.link := Eq.trans rfl rfl
@[simp] theorem putBytes_part (a : Nat) (bs : List Byte) (s : State) : (s.putBytes a bs).part = s.part := Eq.trans rfl rfl
@[simp] theorem putBytes_pending (a : Nat) (bs : List Byte) (s : State) : (s.putBytes a bs).pending = s.pending := Eq.trans rfl rfl
@[simp] theorem putBytes_freeCtr (a : Nat) (bs : List Byte) (s : State) : (s.putBytes a bs).freeCtr = s.freeCtr := Eq.trans rfl rfl
@[simp] theorem putBytes_regs (a : Nat) (bs : List Byte) (s : State) : (s.putBytes a bs).regs = s.regs := Eq.trans rfl rfl
@[simp] theorem putBytes_syn (a : Nat) (bs : List Byte) (s : State) : (s.putBytes a bs).syn = s.syn := Eq.trans rfl rfl
@[simp] theorem putBytes_draw (a : Nat) (bs : List Byte) (s : State) : (s.putBytes a bs).draw = s.draw := Eq.trans rfl rfl
@[simp] theorem putBytes_tick (a : Nat) (bs : List Byte) (s : State) : (s.putBytes a bs).tick = s.tick := Eq.trans rfl rfl
@[simp] theorem putBytes_time (a : Nat) (bs : List Byte) (s : State) : (s.putBytes a bs).time = s.time := Eq.trans rfl rfl
@[simp] theorem putBytes_latched (a : Nat) (bs : List Byte) (s : State) : (s.putBytes a bs).latched = s.latched := Eq.trans rfl rfl
@[simp] theorem putBytes_due (a : Nat) (bs : List Byte) (s : State) : (s.putBytes a bs).due = s.due := Eq.trans rfl rfl
@[simp] theorem putBytes_lineErrs (a : Nat) (bs : List Byte) (s : State) : (s.putBytes a bs).lineErrs = s.lineErrs := Eq.trans rfl rfl
@[simp] theorem putBytes_oxen (a : Nat) (bs : List Byte) (s : State) : (s.putBytes a bs).oxen = s.oxen := Eq.trans rfl rfl
@[simp] theorem putBytes_cores (a : Nat) (bs : List Byte) (s : State) : (s.putBytes a bs).cores = s.cores := Eq.trans rfl rfl
@[simp] theorem putBytes_ctxs (a : Nat) (bs : List Byte) (s : State) : (s.putBytes a bs).ctxs = s.ctxs := Eq.trans rfl rfl
@[simp] theorem putBytes_hbm (a : Nat) (bs : List Byte) (s : State) : (s.putBytes a bs).hbm = s.hbm := Eq.trans rfl rfl
@[simp] theorem putBytes_trouble (a : Nat) (bs : List Byte) (s : State) : (s.putBytes a bs).trouble = s.trouble := Eq.trans rfl rfl
@[simp] theorem putBytes_cond (a : Nat) (bs : List Byte) (s : State) : (s.putBytes a bs).cond = s.cond := Eq.trans rfl rfl
@[simp] theorem putBytes_outbox (a : Nat) (bs : List Byte) (s : State) : (s.putBytes a bs).outbox = s.outbox := Eq.trans rfl rfl
@[simp] theorem putBytes_cxls (a : Nat) (bs : List Byte) (s : State) : (s.putBytes a bs).cxls = s.cxls := Eq.trans rfl rfl
@[simp] theorem putBytes_wagon (a : Nat) (bs : List Byte) (s : State) : (s.putBytes a bs).wagon = s.wagon := Eq.trans rfl rfl
@[simp] theorem putBytes_deepNext (a : Nat) (bs : List Byte) (s : State) : (s.putBytes a bs).deepNext = s.deepNext := Eq.trans rfl rfl
@[simp] theorem putBytes_history (a : Nat) (bs : List Byte) (s : State) : (s.putBytes a bs).history = s.history := Eq.trans rfl rfl
@[simp] theorem putBytes_trPend (a : Nat) (bs : List Byte) (s : State) : (s.putBytes a bs).trPend = s.trPend := Eq.trans rfl rfl
@[simp] theorem putBytes_resets (a : Nat) (bs : List Byte) (s : State) : (s.putBytes a bs).resets = s.resets := Eq.trans rfl rfl
@[simp] theorem putBytes_ports (a : Nat) (bs : List Byte) (s : State) : (s.putBytes a bs).ports = s.ports := Eq.trans rfl rfl
@[simp] theorem putBytes_fab (a : Nat) (bs : List Byte) (s : State) : (s.putBytes a bs).fab = s.fab := Eq.trans rfl rfl
@[simp] theorem putBytes_sec (a : Nat) (bs : List Byte) (s : State) : (s.putBytes a bs).sec = s.sec := Eq.trans rfl rfl
@[simp] theorem putBytes_flash (a : Nat) (bs : List Byte) (s : State) : (s.putBytes a bs).flash = s.flash := Eq.trans rfl rfl
@[simp] theorem putBytes_chain (a : Nat) (bs : List Byte) (s : State) : (s.putBytes a bs).chain = s.chain := Eq.trans rfl rfl
@[simp] theorem putBytes_pwr (a : Nat) (bs : List Byte) (s : State) : (s.putBytes a bs).pwr = s.pwr := Eq.trans rfl rfl
@[simp] theorem putBytes_link (a : Nat) (bs : List Byte) (s : State) : (s.putBytes a bs).link = s.link := Eq.trans rfl rfl
@[simp] theorem clearBytes_part (p : Nat → Bool) (s : State) : (s.clearBytes p).part = s.part := Eq.trans rfl rfl
@[simp] theorem clearBytes_pending (p : Nat → Bool) (s : State) : (s.clearBytes p).pending = s.pending := Eq.trans rfl rfl
@[simp] theorem clearBytes_freeCtr (p : Nat → Bool) (s : State) : (s.clearBytes p).freeCtr = s.freeCtr := Eq.trans rfl rfl
@[simp] theorem clearBytes_regs (p : Nat → Bool) (s : State) : (s.clearBytes p).regs = s.regs := Eq.trans rfl rfl
@[simp] theorem clearBytes_syn (p : Nat → Bool) (s : State) : (s.clearBytes p).syn = s.syn := Eq.trans rfl rfl
@[simp] theorem clearBytes_draw (p : Nat → Bool) (s : State) : (s.clearBytes p).draw = s.draw := Eq.trans rfl rfl
@[simp] theorem clearBytes_tick (p : Nat → Bool) (s : State) : (s.clearBytes p).tick = s.tick := Eq.trans rfl rfl
@[simp] theorem clearBytes_time (p : Nat → Bool) (s : State) : (s.clearBytes p).time = s.time := Eq.trans rfl rfl
@[simp] theorem clearBytes_latched (p : Nat → Bool) (s : State) : (s.clearBytes p).latched = s.latched := Eq.trans rfl rfl
@[simp] theorem clearBytes_due (p : Nat → Bool) (s : State) : (s.clearBytes p).due = s.due := Eq.trans rfl rfl
@[simp] theorem clearBytes_lineErrs (p : Nat → Bool) (s : State) : (s.clearBytes p).lineErrs = s.lineErrs := Eq.trans rfl rfl
@[simp] theorem clearBytes_oxen (p : Nat → Bool) (s : State) : (s.clearBytes p).oxen = s.oxen := Eq.trans rfl rfl
@[simp] theorem clearBytes_cores (p : Nat → Bool) (s : State) : (s.clearBytes p).cores = s.cores := Eq.trans rfl rfl
@[simp] theorem clearBytes_ctxs (p : Nat → Bool) (s : State) : (s.clearBytes p).ctxs = s.ctxs := Eq.trans rfl rfl
@[simp] theorem clearBytes_hbm (p : Nat → Bool) (s : State) : (s.clearBytes p).hbm = s.hbm := Eq.trans rfl rfl
@[simp] theorem clearBytes_trouble (p : Nat → Bool) (s : State) : (s.clearBytes p).trouble = s.trouble := Eq.trans rfl rfl
@[simp] theorem clearBytes_cond (p : Nat → Bool) (s : State) : (s.clearBytes p).cond = s.cond := Eq.trans rfl rfl
@[simp] theorem clearBytes_outbox (p : Nat → Bool) (s : State) : (s.clearBytes p).outbox = s.outbox := Eq.trans rfl rfl
@[simp] theorem clearBytes_cxls (p : Nat → Bool) (s : State) : (s.clearBytes p).cxls = s.cxls := Eq.trans rfl rfl
@[simp] theorem clearBytes_wagon (p : Nat → Bool) (s : State) : (s.clearBytes p).wagon = s.wagon := Eq.trans rfl rfl
@[simp] theorem clearBytes_deepNext (p : Nat → Bool) (s : State) : (s.clearBytes p).deepNext = s.deepNext := Eq.trans rfl rfl
@[simp] theorem clearBytes_history (p : Nat → Bool) (s : State) : (s.clearBytes p).history = s.history := Eq.trans rfl rfl
@[simp] theorem clearBytes_trPend (p : Nat → Bool) (s : State) : (s.clearBytes p).trPend = s.trPend := Eq.trans rfl rfl
@[simp] theorem clearBytes_resets (p : Nat → Bool) (s : State) : (s.clearBytes p).resets = s.resets := Eq.trans rfl rfl
@[simp] theorem clearBytes_ports (p : Nat → Bool) (s : State) : (s.clearBytes p).ports = s.ports := Eq.trans rfl rfl
@[simp] theorem clearBytes_fab (p : Nat → Bool) (s : State) : (s.clearBytes p).fab = s.fab := Eq.trans rfl rfl
@[simp] theorem clearBytes_sec (p : Nat → Bool) (s : State) : (s.clearBytes p).sec = s.sec := Eq.trans rfl rfl
@[simp] theorem clearBytes_flash (p : Nat → Bool) (s : State) : (s.clearBytes p).flash = s.flash := Eq.trans rfl rfl
@[simp] theorem clearBytes_chain (p : Nat → Bool) (s : State) : (s.clearBytes p).chain = s.chain := Eq.trans rfl rfl
@[simp] theorem clearBytes_pwr (p : Nat → Bool) (s : State) : (s.clearBytes p).pwr = s.pwr := Eq.trans rfl rfl
@[simp] theorem clearBytes_link (p : Nat → Bool) (s : State) : (s.clearBytes p).link = s.link := Eq.trans rfl rfl
@[simp] theorem copyBytes_part (src dst len : Nat) (s : State) : (s.copyBytes src dst len).part = s.part := Eq.trans rfl rfl
@[simp] theorem copyBytes_pending (src dst len : Nat) (s : State) : (s.copyBytes src dst len).pending = s.pending := Eq.trans rfl rfl
@[simp] theorem copyBytes_freeCtr (src dst len : Nat) (s : State) : (s.copyBytes src dst len).freeCtr = s.freeCtr := Eq.trans rfl rfl
@[simp] theorem copyBytes_regs (src dst len : Nat) (s : State) : (s.copyBytes src dst len).regs = s.regs := Eq.trans rfl rfl
@[simp] theorem copyBytes_syn (src dst len : Nat) (s : State) : (s.copyBytes src dst len).syn = s.syn := Eq.trans rfl rfl
@[simp] theorem copyBytes_draw (src dst len : Nat) (s : State) : (s.copyBytes src dst len).draw = s.draw := Eq.trans rfl rfl
@[simp] theorem copyBytes_tick (src dst len : Nat) (s : State) : (s.copyBytes src dst len).tick = s.tick := Eq.trans rfl rfl
@[simp] theorem copyBytes_time (src dst len : Nat) (s : State) : (s.copyBytes src dst len).time = s.time := Eq.trans rfl rfl
@[simp] theorem copyBytes_latched (src dst len : Nat) (s : State) : (s.copyBytes src dst len).latched = s.latched := Eq.trans rfl rfl
@[simp] theorem copyBytes_due (src dst len : Nat) (s : State) : (s.copyBytes src dst len).due = s.due := Eq.trans rfl rfl
@[simp] theorem copyBytes_lineErrs (src dst len : Nat) (s : State) : (s.copyBytes src dst len).lineErrs = s.lineErrs := Eq.trans rfl rfl
@[simp] theorem copyBytes_oxen (src dst len : Nat) (s : State) : (s.copyBytes src dst len).oxen = s.oxen := Eq.trans rfl rfl
@[simp] theorem copyBytes_cores (src dst len : Nat) (s : State) : (s.copyBytes src dst len).cores = s.cores := Eq.trans rfl rfl
@[simp] theorem copyBytes_ctxs (src dst len : Nat) (s : State) : (s.copyBytes src dst len).ctxs = s.ctxs := Eq.trans rfl rfl
@[simp] theorem copyBytes_hbm (src dst len : Nat) (s : State) : (s.copyBytes src dst len).hbm = s.hbm := Eq.trans rfl rfl
@[simp] theorem copyBytes_trouble (src dst len : Nat) (s : State) : (s.copyBytes src dst len).trouble = s.trouble := Eq.trans rfl rfl
@[simp] theorem copyBytes_cond (src dst len : Nat) (s : State) : (s.copyBytes src dst len).cond = s.cond := Eq.trans rfl rfl
@[simp] theorem copyBytes_outbox (src dst len : Nat) (s : State) : (s.copyBytes src dst len).outbox = s.outbox := Eq.trans rfl rfl
@[simp] theorem copyBytes_cxls (src dst len : Nat) (s : State) : (s.copyBytes src dst len).cxls = s.cxls := Eq.trans rfl rfl
@[simp] theorem copyBytes_wagon (src dst len : Nat) (s : State) : (s.copyBytes src dst len).wagon = s.wagon := Eq.trans rfl rfl
@[simp] theorem copyBytes_deepNext (src dst len : Nat) (s : State) : (s.copyBytes src dst len).deepNext = s.deepNext := Eq.trans rfl rfl
@[simp] theorem copyBytes_history (src dst len : Nat) (s : State) : (s.copyBytes src dst len).history = s.history := Eq.trans rfl rfl
@[simp] theorem copyBytes_trPend (src dst len : Nat) (s : State) : (s.copyBytes src dst len).trPend = s.trPend := Eq.trans rfl rfl
@[simp] theorem copyBytes_resets (src dst len : Nat) (s : State) : (s.copyBytes src dst len).resets = s.resets := Eq.trans rfl rfl
@[simp] theorem copyBytes_ports (src dst len : Nat) (s : State) : (s.copyBytes src dst len).ports = s.ports := Eq.trans rfl rfl
@[simp] theorem copyBytes_fab (src dst len : Nat) (s : State) : (s.copyBytes src dst len).fab = s.fab := Eq.trans rfl rfl
@[simp] theorem copyBytes_sec (src dst len : Nat) (s : State) : (s.copyBytes src dst len).sec = s.sec := Eq.trans rfl rfl
@[simp] theorem copyBytes_flash (src dst len : Nat) (s : State) : (s.copyBytes src dst len).flash = s.flash := Eq.trans rfl rfl
@[simp] theorem copyBytes_chain (src dst len : Nat) (s : State) : (s.copyBytes src dst len).chain = s.chain := Eq.trans rfl rfl
@[simp] theorem copyBytes_pwr (src dst len : Nat) (s : State) : (s.copyBytes src dst len).pwr = s.pwr := Eq.trans rfl rfl
@[simp] theorem copyBytes_link (src dst len : Nat) (s : State) : (s.copyBytes src dst len).link = s.link := Eq.trans rfl rfl
@[simp] theorem putSyn_part (a : Nat) (v : BitVec 32) (s : State) : (s.putSyn a v).part = s.part := Eq.trans rfl rfl
@[simp] theorem putSyn_pending (a : Nat) (v : BitVec 32) (s : State) : (s.putSyn a v).pending = s.pending := Eq.trans rfl rfl
@[simp] theorem putSyn_freeCtr (a : Nat) (v : BitVec 32) (s : State) : (s.putSyn a v).freeCtr = s.freeCtr := Eq.trans rfl rfl
@[simp] theorem putSyn_regs (a : Nat) (v : BitVec 32) (s : State) : (s.putSyn a v).regs = s.regs := Eq.trans rfl rfl
@[simp] theorem putSyn_mem (a : Nat) (v : BitVec 32) (s : State) : (s.putSyn a v).mem = s.mem := Eq.trans rfl rfl
@[simp] theorem putSyn_draw (a : Nat) (v : BitVec 32) (s : State) : (s.putSyn a v).draw = s.draw := Eq.trans rfl rfl
@[simp] theorem putSyn_tick (a : Nat) (v : BitVec 32) (s : State) : (s.putSyn a v).tick = s.tick := Eq.trans rfl rfl
@[simp] theorem putSyn_time (a : Nat) (v : BitVec 32) (s : State) : (s.putSyn a v).time = s.time := Eq.trans rfl rfl
@[simp] theorem putSyn_latched (a : Nat) (v : BitVec 32) (s : State) : (s.putSyn a v).latched = s.latched := Eq.trans rfl rfl
@[simp] theorem putSyn_due (a : Nat) (v : BitVec 32) (s : State) : (s.putSyn a v).due = s.due := Eq.trans rfl rfl
@[simp] theorem putSyn_lineErrs (a : Nat) (v : BitVec 32) (s : State) : (s.putSyn a v).lineErrs = s.lineErrs := Eq.trans rfl rfl
@[simp] theorem putSyn_oxen (a : Nat) (v : BitVec 32) (s : State) : (s.putSyn a v).oxen = s.oxen := Eq.trans rfl rfl
@[simp] theorem putSyn_cores (a : Nat) (v : BitVec 32) (s : State) : (s.putSyn a v).cores = s.cores := Eq.trans rfl rfl
@[simp] theorem putSyn_ctxs (a : Nat) (v : BitVec 32) (s : State) : (s.putSyn a v).ctxs = s.ctxs := Eq.trans rfl rfl
@[simp] theorem putSyn_hbm (a : Nat) (v : BitVec 32) (s : State) : (s.putSyn a v).hbm = s.hbm := Eq.trans rfl rfl
@[simp] theorem putSyn_trouble (a : Nat) (v : BitVec 32) (s : State) : (s.putSyn a v).trouble = s.trouble := Eq.trans rfl rfl
@[simp] theorem putSyn_cond (a : Nat) (v : BitVec 32) (s : State) : (s.putSyn a v).cond = s.cond := Eq.trans rfl rfl
@[simp] theorem putSyn_outbox (a : Nat) (v : BitVec 32) (s : State) : (s.putSyn a v).outbox = s.outbox := Eq.trans rfl rfl
@[simp] theorem putSyn_cxls (a : Nat) (v : BitVec 32) (s : State) : (s.putSyn a v).cxls = s.cxls := Eq.trans rfl rfl
@[simp] theorem putSyn_wagon (a : Nat) (v : BitVec 32) (s : State) : (s.putSyn a v).wagon = s.wagon := Eq.trans rfl rfl
@[simp] theorem putSyn_deepNext (a : Nat) (v : BitVec 32) (s : State) : (s.putSyn a v).deepNext = s.deepNext := Eq.trans rfl rfl
@[simp] theorem putSyn_history (a : Nat) (v : BitVec 32) (s : State) : (s.putSyn a v).history = s.history := Eq.trans rfl rfl
@[simp] theorem putSyn_trPend (a : Nat) (v : BitVec 32) (s : State) : (s.putSyn a v).trPend = s.trPend := Eq.trans rfl rfl
@[simp] theorem putSyn_resets (a : Nat) (v : BitVec 32) (s : State) : (s.putSyn a v).resets = s.resets := Eq.trans rfl rfl
@[simp] theorem putSyn_ports (a : Nat) (v : BitVec 32) (s : State) : (s.putSyn a v).ports = s.ports := Eq.trans rfl rfl
@[simp] theorem putSyn_fab (a : Nat) (v : BitVec 32) (s : State) : (s.putSyn a v).fab = s.fab := Eq.trans rfl rfl
@[simp] theorem putSyn_sec (a : Nat) (v : BitVec 32) (s : State) : (s.putSyn a v).sec = s.sec := Eq.trans rfl rfl
@[simp] theorem putSyn_flash (a : Nat) (v : BitVec 32) (s : State) : (s.putSyn a v).flash = s.flash := Eq.trans rfl rfl
@[simp] theorem putSyn_chain (a : Nat) (v : BitVec 32) (s : State) : (s.putSyn a v).chain = s.chain := Eq.trans rfl rfl
@[simp] theorem putSyn_pwr (a : Nat) (v : BitVec 32) (s : State) : (s.putSyn a v).pwr = s.pwr := Eq.trans rfl rfl
@[simp] theorem putSyn_link (a : Nat) (v : BitVec 32) (s : State) : (s.putSyn a v).link = s.link := Eq.trans rfl rfl
@[simp] theorem clearSyn_part (p : Nat → Bool) (s : State) : (s.clearSyn p).part = s.part := Eq.trans rfl rfl
@[simp] theorem clearSyn_pending (p : Nat → Bool) (s : State) : (s.clearSyn p).pending = s.pending := Eq.trans rfl rfl
@[simp] theorem clearSyn_freeCtr (p : Nat → Bool) (s : State) : (s.clearSyn p).freeCtr = s.freeCtr := Eq.trans rfl rfl
@[simp] theorem clearSyn_regs (p : Nat → Bool) (s : State) : (s.clearSyn p).regs = s.regs := Eq.trans rfl rfl
@[simp] theorem clearSyn_mem (p : Nat → Bool) (s : State) : (s.clearSyn p).mem = s.mem := Eq.trans rfl rfl
@[simp] theorem clearSyn_draw (p : Nat → Bool) (s : State) : (s.clearSyn p).draw = s.draw := Eq.trans rfl rfl
@[simp] theorem clearSyn_tick (p : Nat → Bool) (s : State) : (s.clearSyn p).tick = s.tick := Eq.trans rfl rfl
@[simp] theorem clearSyn_time (p : Nat → Bool) (s : State) : (s.clearSyn p).time = s.time := Eq.trans rfl rfl
@[simp] theorem clearSyn_latched (p : Nat → Bool) (s : State) : (s.clearSyn p).latched = s.latched := Eq.trans rfl rfl
@[simp] theorem clearSyn_due (p : Nat → Bool) (s : State) : (s.clearSyn p).due = s.due := Eq.trans rfl rfl
@[simp] theorem clearSyn_lineErrs (p : Nat → Bool) (s : State) : (s.clearSyn p).lineErrs = s.lineErrs := Eq.trans rfl rfl
@[simp] theorem clearSyn_oxen (p : Nat → Bool) (s : State) : (s.clearSyn p).oxen = s.oxen := Eq.trans rfl rfl
@[simp] theorem clearSyn_cores (p : Nat → Bool) (s : State) : (s.clearSyn p).cores = s.cores := Eq.trans rfl rfl
@[simp] theorem clearSyn_ctxs (p : Nat → Bool) (s : State) : (s.clearSyn p).ctxs = s.ctxs := Eq.trans rfl rfl
@[simp] theorem clearSyn_hbm (p : Nat → Bool) (s : State) : (s.clearSyn p).hbm = s.hbm := Eq.trans rfl rfl
@[simp] theorem clearSyn_trouble (p : Nat → Bool) (s : State) : (s.clearSyn p).trouble = s.trouble := Eq.trans rfl rfl
@[simp] theorem clearSyn_cond (p : Nat → Bool) (s : State) : (s.clearSyn p).cond = s.cond := Eq.trans rfl rfl
@[simp] theorem clearSyn_outbox (p : Nat → Bool) (s : State) : (s.clearSyn p).outbox = s.outbox := Eq.trans rfl rfl
@[simp] theorem clearSyn_cxls (p : Nat → Bool) (s : State) : (s.clearSyn p).cxls = s.cxls := Eq.trans rfl rfl
@[simp] theorem clearSyn_wagon (p : Nat → Bool) (s : State) : (s.clearSyn p).wagon = s.wagon := Eq.trans rfl rfl
@[simp] theorem clearSyn_deepNext (p : Nat → Bool) (s : State) : (s.clearSyn p).deepNext = s.deepNext := Eq.trans rfl rfl
@[simp] theorem clearSyn_history (p : Nat → Bool) (s : State) : (s.clearSyn p).history = s.history := Eq.trans rfl rfl
@[simp] theorem clearSyn_trPend (p : Nat → Bool) (s : State) : (s.clearSyn p).trPend = s.trPend := Eq.trans rfl rfl
@[simp] theorem clearSyn_resets (p : Nat → Bool) (s : State) : (s.clearSyn p).resets = s.resets := Eq.trans rfl rfl
@[simp] theorem clearSyn_ports (p : Nat → Bool) (s : State) : (s.clearSyn p).ports = s.ports := Eq.trans rfl rfl
@[simp] theorem clearSyn_fab (p : Nat → Bool) (s : State) : (s.clearSyn p).fab = s.fab := Eq.trans rfl rfl
@[simp] theorem clearSyn_sec (p : Nat → Bool) (s : State) : (s.clearSyn p).sec = s.sec := Eq.trans rfl rfl
@[simp] theorem clearSyn_flash (p : Nat → Bool) (s : State) : (s.clearSyn p).flash = s.flash := Eq.trans rfl rfl
@[simp] theorem clearSyn_chain (p : Nat → Bool) (s : State) : (s.clearSyn p).chain = s.chain := Eq.trans rfl rfl
@[simp] theorem clearSyn_pwr (p : Nat → Bool) (s : State) : (s.clearSyn p).pwr = s.pwr := Eq.trans rfl rfl
@[simp] theorem clearSyn_link (p : Nat → Bool) (s : State) : (s.clearSyn p).link = s.link := Eq.trans rfl rfl
@[simp] theorem putDraw_part (a v : Nat) (s : State) : (s.putDraw a v).part = s.part := Eq.trans rfl rfl
@[simp] theorem putDraw_pending (a v : Nat) (s : State) : (s.putDraw a v).pending = s.pending := Eq.trans rfl rfl
@[simp] theorem putDraw_freeCtr (a v : Nat) (s : State) : (s.putDraw a v).freeCtr = s.freeCtr := Eq.trans rfl rfl
@[simp] theorem putDraw_regs (a v : Nat) (s : State) : (s.putDraw a v).regs = s.regs := Eq.trans rfl rfl
@[simp] theorem putDraw_mem (a v : Nat) (s : State) : (s.putDraw a v).mem = s.mem := Eq.trans rfl rfl
@[simp] theorem putDraw_syn (a v : Nat) (s : State) : (s.putDraw a v).syn = s.syn := Eq.trans rfl rfl
@[simp] theorem putDraw_tick (a v : Nat) (s : State) : (s.putDraw a v).tick = s.tick := Eq.trans rfl rfl
@[simp] theorem putDraw_time (a v : Nat) (s : State) : (s.putDraw a v).time = s.time := Eq.trans rfl rfl
@[simp] theorem putDraw_latched (a v : Nat) (s : State) : (s.putDraw a v).latched = s.latched := Eq.trans rfl rfl
@[simp] theorem putDraw_due (a v : Nat) (s : State) : (s.putDraw a v).due = s.due := Eq.trans rfl rfl
@[simp] theorem putDraw_lineErrs (a v : Nat) (s : State) : (s.putDraw a v).lineErrs = s.lineErrs := Eq.trans rfl rfl
@[simp] theorem putDraw_oxen (a v : Nat) (s : State) : (s.putDraw a v).oxen = s.oxen := Eq.trans rfl rfl
@[simp] theorem putDraw_cores (a v : Nat) (s : State) : (s.putDraw a v).cores = s.cores := Eq.trans rfl rfl
@[simp] theorem putDraw_ctxs (a v : Nat) (s : State) : (s.putDraw a v).ctxs = s.ctxs := Eq.trans rfl rfl
@[simp] theorem putDraw_hbm (a v : Nat) (s : State) : (s.putDraw a v).hbm = s.hbm := Eq.trans rfl rfl
@[simp] theorem putDraw_trouble (a v : Nat) (s : State) : (s.putDraw a v).trouble = s.trouble := Eq.trans rfl rfl
@[simp] theorem putDraw_cond (a v : Nat) (s : State) : (s.putDraw a v).cond = s.cond := Eq.trans rfl rfl
@[simp] theorem putDraw_outbox (a v : Nat) (s : State) : (s.putDraw a v).outbox = s.outbox := Eq.trans rfl rfl
@[simp] theorem putDraw_cxls (a v : Nat) (s : State) : (s.putDraw a v).cxls = s.cxls := Eq.trans rfl rfl
@[simp] theorem putDraw_wagon (a v : Nat) (s : State) : (s.putDraw a v).wagon = s.wagon := Eq.trans rfl rfl
@[simp] theorem putDraw_deepNext (a v : Nat) (s : State) : (s.putDraw a v).deepNext = s.deepNext := Eq.trans rfl rfl
@[simp] theorem putDraw_history (a v : Nat) (s : State) : (s.putDraw a v).history = s.history := Eq.trans rfl rfl
@[simp] theorem putDraw_trPend (a v : Nat) (s : State) : (s.putDraw a v).trPend = s.trPend := Eq.trans rfl rfl
@[simp] theorem putDraw_resets (a v : Nat) (s : State) : (s.putDraw a v).resets = s.resets := Eq.trans rfl rfl
@[simp] theorem putDraw_ports (a v : Nat) (s : State) : (s.putDraw a v).ports = s.ports := Eq.trans rfl rfl
@[simp] theorem putDraw_fab (a v : Nat) (s : State) : (s.putDraw a v).fab = s.fab := Eq.trans rfl rfl
@[simp] theorem putDraw_sec (a v : Nat) (s : State) : (s.putDraw a v).sec = s.sec := Eq.trans rfl rfl
@[simp] theorem putDraw_flash (a v : Nat) (s : State) : (s.putDraw a v).flash = s.flash := Eq.trans rfl rfl
@[simp] theorem putDraw_chain (a v : Nat) (s : State) : (s.putDraw a v).chain = s.chain := Eq.trans rfl rfl
@[simp] theorem putDraw_pwr (a v : Nat) (s : State) : (s.putDraw a v).pwr = s.pwr := Eq.trans rfl rfl
@[simp] theorem putDraw_link (a v : Nat) (s : State) : (s.putDraw a v).link = s.link := Eq.trans rfl rfl
@[simp] theorem clearDraw_part (p : Nat → Bool) (s : State) : (s.clearDraw p).part = s.part := Eq.trans rfl rfl
@[simp] theorem clearDraw_pending (p : Nat → Bool) (s : State) : (s.clearDraw p).pending = s.pending := Eq.trans rfl rfl
@[simp] theorem clearDraw_freeCtr (p : Nat → Bool) (s : State) : (s.clearDraw p).freeCtr = s.freeCtr := Eq.trans rfl rfl
@[simp] theorem clearDraw_regs (p : Nat → Bool) (s : State) : (s.clearDraw p).regs = s.regs := Eq.trans rfl rfl
@[simp] theorem clearDraw_mem (p : Nat → Bool) (s : State) : (s.clearDraw p).mem = s.mem := Eq.trans rfl rfl
@[simp] theorem clearDraw_syn (p : Nat → Bool) (s : State) : (s.clearDraw p).syn = s.syn := Eq.trans rfl rfl
@[simp] theorem clearDraw_tick (p : Nat → Bool) (s : State) : (s.clearDraw p).tick = s.tick := Eq.trans rfl rfl
@[simp] theorem clearDraw_time (p : Nat → Bool) (s : State) : (s.clearDraw p).time = s.time := Eq.trans rfl rfl
@[simp] theorem clearDraw_latched (p : Nat → Bool) (s : State) : (s.clearDraw p).latched = s.latched := Eq.trans rfl rfl
@[simp] theorem clearDraw_due (p : Nat → Bool) (s : State) : (s.clearDraw p).due = s.due := Eq.trans rfl rfl
@[simp] theorem clearDraw_lineErrs (p : Nat → Bool) (s : State) : (s.clearDraw p).lineErrs = s.lineErrs := Eq.trans rfl rfl
@[simp] theorem clearDraw_oxen (p : Nat → Bool) (s : State) : (s.clearDraw p).oxen = s.oxen := Eq.trans rfl rfl
@[simp] theorem clearDraw_cores (p : Nat → Bool) (s : State) : (s.clearDraw p).cores = s.cores := Eq.trans rfl rfl
@[simp] theorem clearDraw_ctxs (p : Nat → Bool) (s : State) : (s.clearDraw p).ctxs = s.ctxs := Eq.trans rfl rfl
@[simp] theorem clearDraw_hbm (p : Nat → Bool) (s : State) : (s.clearDraw p).hbm = s.hbm := Eq.trans rfl rfl
@[simp] theorem clearDraw_trouble (p : Nat → Bool) (s : State) : (s.clearDraw p).trouble = s.trouble := Eq.trans rfl rfl
@[simp] theorem clearDraw_cond (p : Nat → Bool) (s : State) : (s.clearDraw p).cond = s.cond := Eq.trans rfl rfl
@[simp] theorem clearDraw_outbox (p : Nat → Bool) (s : State) : (s.clearDraw p).outbox = s.outbox := Eq.trans rfl rfl
@[simp] theorem clearDraw_cxls (p : Nat → Bool) (s : State) : (s.clearDraw p).cxls = s.cxls := Eq.trans rfl rfl
@[simp] theorem clearDraw_wagon (p : Nat → Bool) (s : State) : (s.clearDraw p).wagon = s.wagon := Eq.trans rfl rfl
@[simp] theorem clearDraw_deepNext (p : Nat → Bool) (s : State) : (s.clearDraw p).deepNext = s.deepNext := Eq.trans rfl rfl
@[simp] theorem clearDraw_history (p : Nat → Bool) (s : State) : (s.clearDraw p).history = s.history := Eq.trans rfl rfl
@[simp] theorem clearDraw_trPend (p : Nat → Bool) (s : State) : (s.clearDraw p).trPend = s.trPend := Eq.trans rfl rfl
@[simp] theorem clearDraw_resets (p : Nat → Bool) (s : State) : (s.clearDraw p).resets = s.resets := Eq.trans rfl rfl
@[simp] theorem clearDraw_ports (p : Nat → Bool) (s : State) : (s.clearDraw p).ports = s.ports := Eq.trans rfl rfl
@[simp] theorem clearDraw_fab (p : Nat → Bool) (s : State) : (s.clearDraw p).fab = s.fab := Eq.trans rfl rfl
@[simp] theorem clearDraw_sec (p : Nat → Bool) (s : State) : (s.clearDraw p).sec = s.sec := Eq.trans rfl rfl
@[simp] theorem clearDraw_flash (p : Nat → Bool) (s : State) : (s.clearDraw p).flash = s.flash := Eq.trans rfl rfl
@[simp] theorem clearDraw_chain (p : Nat → Bool) (s : State) : (s.clearDraw p).chain = s.chain := Eq.trans rfl rfl
@[simp] theorem clearDraw_pwr (p : Nat → Bool) (s : State) : (s.clearDraw p).pwr = s.pwr := Eq.trans rfl rfl
@[simp] theorem clearDraw_link (p : Nat → Bool) (s : State) : (s.clearDraw p).link = s.link := Eq.trans rfl rfl
@[simp] theorem put_part (f : Fld) (v : Nat) (s : State) : (s.put f v).part = s.part := Eq.trans rfl rfl
@[simp] theorem put_pending (f : Fld) (v : Nat) (s : State) : (s.put f v).pending = s.pending := Eq.trans rfl rfl
@[simp] theorem put_freeCtr (f : Fld) (v : Nat) (s : State) : (s.put f v).freeCtr = s.freeCtr := Eq.trans rfl rfl
@[simp] theorem put_mem (f : Fld) (v : Nat) (s : State) : (s.put f v).mem = s.mem := Eq.trans rfl rfl
@[simp] theorem put_syn (f : Fld) (v : Nat) (s : State) : (s.put f v).syn = s.syn := Eq.trans rfl rfl
@[simp] theorem put_draw (f : Fld) (v : Nat) (s : State) : (s.put f v).draw = s.draw := Eq.trans rfl rfl
@[simp] theorem put_tick (f : Fld) (v : Nat) (s : State) : (s.put f v).tick = s.tick := Eq.trans rfl rfl
@[simp] theorem put_time (f : Fld) (v : Nat) (s : State) : (s.put f v).time = s.time := Eq.trans rfl rfl
@[simp] theorem put_latched (f : Fld) (v : Nat) (s : State) : (s.put f v).latched = s.latched := Eq.trans rfl rfl
@[simp] theorem put_due (f : Fld) (v : Nat) (s : State) : (s.put f v).due = s.due := Eq.trans rfl rfl
@[simp] theorem put_lineErrs (f : Fld) (v : Nat) (s : State) : (s.put f v).lineErrs = s.lineErrs := Eq.trans rfl rfl
@[simp] theorem put_oxen (f : Fld) (v : Nat) (s : State) : (s.put f v).oxen = s.oxen := Eq.trans rfl rfl
@[simp] theorem put_cores (f : Fld) (v : Nat) (s : State) : (s.put f v).cores = s.cores := Eq.trans rfl rfl
@[simp] theorem put_ctxs (f : Fld) (v : Nat) (s : State) : (s.put f v).ctxs = s.ctxs := Eq.trans rfl rfl
@[simp] theorem put_hbm (f : Fld) (v : Nat) (s : State) : (s.put f v).hbm = s.hbm := Eq.trans rfl rfl
@[simp] theorem put_trouble (f : Fld) (v : Nat) (s : State) : (s.put f v).trouble = s.trouble := Eq.trans rfl rfl
@[simp] theorem put_cond (f : Fld) (v : Nat) (s : State) : (s.put f v).cond = s.cond := Eq.trans rfl rfl
@[simp] theorem put_outbox (f : Fld) (v : Nat) (s : State) : (s.put f v).outbox = s.outbox := Eq.trans rfl rfl
@[simp] theorem put_cxls (f : Fld) (v : Nat) (s : State) : (s.put f v).cxls = s.cxls := Eq.trans rfl rfl
@[simp] theorem put_wagon (f : Fld) (v : Nat) (s : State) : (s.put f v).wagon = s.wagon := Eq.trans rfl rfl
@[simp] theorem put_deepNext (f : Fld) (v : Nat) (s : State) : (s.put f v).deepNext = s.deepNext := Eq.trans rfl rfl
@[simp] theorem put_history (f : Fld) (v : Nat) (s : State) : (s.put f v).history = s.history := Eq.trans rfl rfl
@[simp] theorem put_trPend (f : Fld) (v : Nat) (s : State) : (s.put f v).trPend = s.trPend := Eq.trans rfl rfl
@[simp] theorem put_resets (f : Fld) (v : Nat) (s : State) : (s.put f v).resets = s.resets := Eq.trans rfl rfl
@[simp] theorem put_ports (f : Fld) (v : Nat) (s : State) : (s.put f v).ports = s.ports := Eq.trans rfl rfl
@[simp] theorem put_fab (f : Fld) (v : Nat) (s : State) : (s.put f v).fab = s.fab := Eq.trans rfl rfl
@[simp] theorem put_sec (f : Fld) (v : Nat) (s : State) : (s.put f v).sec = s.sec := Eq.trans rfl rfl
@[simp] theorem put_flash (f : Fld) (v : Nat) (s : State) : (s.put f v).flash = s.flash := Eq.trans rfl rfl
@[simp] theorem put_chain (f : Fld) (v : Nat) (s : State) : (s.put f v).chain = s.chain := Eq.trans rfl rfl
@[simp] theorem put_pwr (f : Fld) (v : Nat) (s : State) : (s.put f v).pwr = s.pwr := Eq.trans rfl rfl
@[simp] theorem put_link (f : Fld) (v : Nat) (s : State) : (s.put f v).link = s.link := Eq.trans rfl rfl
@[simp] theorem count_part (f : Fld) (n : Nat) (s : State) : (s.count f n).part = s.part := Eq.trans rfl rfl
@[simp] theorem count_pending (f : Fld) (n : Nat) (s : State) : (s.count f n).pending = s.pending := Eq.trans rfl rfl
@[simp] theorem count_freeCtr (f : Fld) (n : Nat) (s : State) : (s.count f n).freeCtr = s.freeCtr := Eq.trans rfl rfl
@[simp] theorem count_mem (f : Fld) (n : Nat) (s : State) : (s.count f n).mem = s.mem := Eq.trans rfl rfl
@[simp] theorem count_syn (f : Fld) (n : Nat) (s : State) : (s.count f n).syn = s.syn := Eq.trans rfl rfl
@[simp] theorem count_draw (f : Fld) (n : Nat) (s : State) : (s.count f n).draw = s.draw := Eq.trans rfl rfl
@[simp] theorem count_tick (f : Fld) (n : Nat) (s : State) : (s.count f n).tick = s.tick := Eq.trans rfl rfl
@[simp] theorem count_time (f : Fld) (n : Nat) (s : State) : (s.count f n).time = s.time := Eq.trans rfl rfl
@[simp] theorem count_latched (f : Fld) (n : Nat) (s : State) : (s.count f n).latched = s.latched := Eq.trans rfl rfl
@[simp] theorem count_due (f : Fld) (n : Nat) (s : State) : (s.count f n).due = s.due := Eq.trans rfl rfl
@[simp] theorem count_lineErrs (f : Fld) (n : Nat) (s : State) : (s.count f n).lineErrs = s.lineErrs := Eq.trans rfl rfl
@[simp] theorem count_oxen (f : Fld) (n : Nat) (s : State) : (s.count f n).oxen = s.oxen := Eq.trans rfl rfl
@[simp] theorem count_cores (f : Fld) (n : Nat) (s : State) : (s.count f n).cores = s.cores := Eq.trans rfl rfl
@[simp] theorem count_ctxs (f : Fld) (n : Nat) (s : State) : (s.count f n).ctxs = s.ctxs := Eq.trans rfl rfl
@[simp] theorem count_hbm (f : Fld) (n : Nat) (s : State) : (s.count f n).hbm = s.hbm := Eq.trans rfl rfl
@[simp] theorem count_trouble (f : Fld) (n : Nat) (s : State) : (s.count f n).trouble = s.trouble := Eq.trans rfl rfl
@[simp] theorem count_cond (f : Fld) (n : Nat) (s : State) : (s.count f n).cond = s.cond := Eq.trans rfl rfl
@[simp] theorem count_outbox (f : Fld) (n : Nat) (s : State) : (s.count f n).outbox = s.outbox := Eq.trans rfl rfl
@[simp] theorem count_cxls (f : Fld) (n : Nat) (s : State) : (s.count f n).cxls = s.cxls := Eq.trans rfl rfl
@[simp] theorem count_wagon (f : Fld) (n : Nat) (s : State) : (s.count f n).wagon = s.wagon := Eq.trans rfl rfl
@[simp] theorem count_deepNext (f : Fld) (n : Nat) (s : State) : (s.count f n).deepNext = s.deepNext := Eq.trans rfl rfl
@[simp] theorem count_history (f : Fld) (n : Nat) (s : State) : (s.count f n).history = s.history := Eq.trans rfl rfl
@[simp] theorem count_trPend (f : Fld) (n : Nat) (s : State) : (s.count f n).trPend = s.trPend := Eq.trans rfl rfl
@[simp] theorem count_resets (f : Fld) (n : Nat) (s : State) : (s.count f n).resets = s.resets := Eq.trans rfl rfl
@[simp] theorem count_ports (f : Fld) (n : Nat) (s : State) : (s.count f n).ports = s.ports := Eq.trans rfl rfl
@[simp] theorem count_fab (f : Fld) (n : Nat) (s : State) : (s.count f n).fab = s.fab := Eq.trans rfl rfl
@[simp] theorem count_sec (f : Fld) (n : Nat) (s : State) : (s.count f n).sec = s.sec := Eq.trans rfl rfl
@[simp] theorem count_flash (f : Fld) (n : Nat) (s : State) : (s.count f n).flash = s.flash := Eq.trans rfl rfl
@[simp] theorem count_chain (f : Fld) (n : Nat) (s : State) : (s.count f n).chain = s.chain := Eq.trans rfl rfl
@[simp] theorem count_pwr (f : Fld) (n : Nat) (s : State) : (s.count f n).pwr = s.pwr := Eq.trans rfl rfl
@[simp] theorem count_link (f : Fld) (n : Nat) (s : State) : (s.count f n).link = s.link := Eq.trans rfl rfl
@[simp] theorem latching_part (e : Ev) (s : State) : (s.latching e).part = s.part := Eq.trans rfl rfl
@[simp] theorem latching_pending (e : Ev) (s : State) : (s.latching e).pending = s.pending := Eq.trans rfl rfl
@[simp] theorem latching_freeCtr (e : Ev) (s : State) : (s.latching e).freeCtr = s.freeCtr := Eq.trans rfl rfl
@[simp] theorem latching_regs (e : Ev) (s : State) : (s.latching e).regs = s.regs := Eq.trans rfl rfl
@[simp] theorem latching_mem (e : Ev) (s : State) : (s.latching e).mem = s.mem := Eq.trans rfl rfl
@[simp] theorem latching_syn (e : Ev) (s : State) : (s.latching e).syn = s.syn := Eq.trans rfl rfl
@[simp] theorem latching_draw (e : Ev) (s : State) : (s.latching e).draw = s.draw := Eq.trans rfl rfl
@[simp] theorem latching_tick (e : Ev) (s : State) : (s.latching e).tick = s.tick := Eq.trans rfl rfl
@[simp] theorem latching_time (e : Ev) (s : State) : (s.latching e).time = s.time := Eq.trans rfl rfl
@[simp] theorem latching_latched (e : Ev) (s : State) : (s.latching e).latched = s.latched ++ [e] := Eq.trans rfl rfl
@[simp] theorem latching_due (e : Ev) (s : State) : (s.latching e).due = s.due := Eq.trans rfl rfl
@[simp] theorem latching_lineErrs (e : Ev) (s : State) : (s.latching e).lineErrs = s.lineErrs := Eq.trans rfl rfl
@[simp] theorem latching_oxen (e : Ev) (s : State) : (s.latching e).oxen = s.oxen := Eq.trans rfl rfl
@[simp] theorem latching_cores (e : Ev) (s : State) : (s.latching e).cores = s.cores := Eq.trans rfl rfl
@[simp] theorem latching_ctxs (e : Ev) (s : State) : (s.latching e).ctxs = s.ctxs := Eq.trans rfl rfl
@[simp] theorem latching_hbm (e : Ev) (s : State) : (s.latching e).hbm = s.hbm := Eq.trans rfl rfl
@[simp] theorem latching_trouble (e : Ev) (s : State) : (s.latching e).trouble = s.trouble := Eq.trans rfl rfl
@[simp] theorem latching_cond (e : Ev) (s : State) : (s.latching e).cond = s.cond := Eq.trans rfl rfl
@[simp] theorem latching_outbox (e : Ev) (s : State) : (s.latching e).outbox = s.outbox := Eq.trans rfl rfl
@[simp] theorem latching_cxls (e : Ev) (s : State) : (s.latching e).cxls = s.cxls := Eq.trans rfl rfl
@[simp] theorem latching_wagon (e : Ev) (s : State) : (s.latching e).wagon = s.wagon := Eq.trans rfl rfl
@[simp] theorem latching_deepNext (e : Ev) (s : State) : (s.latching e).deepNext = s.deepNext := Eq.trans rfl rfl
@[simp] theorem latching_history (e : Ev) (s : State) : (s.latching e).history = s.history := Eq.trans rfl rfl
@[simp] theorem latching_trPend (e : Ev) (s : State) : (s.latching e).trPend = s.trPend := Eq.trans rfl rfl
@[simp] theorem latching_resets (e : Ev) (s : State) : (s.latching e).resets = s.resets := Eq.trans rfl rfl
@[simp] theorem latching_ports (e : Ev) (s : State) : (s.latching e).ports = s.ports := Eq.trans rfl rfl
@[simp] theorem latching_fab (e : Ev) (s : State) : (s.latching e).fab = s.fab := Eq.trans rfl rfl
@[simp] theorem latching_sec (e : Ev) (s : State) : (s.latching e).sec = s.sec := Eq.trans rfl rfl
@[simp] theorem latching_flash (e : Ev) (s : State) : (s.latching e).flash = s.flash := Eq.trans rfl rfl
@[simp] theorem latching_chain (e : Ev) (s : State) : (s.latching e).chain = s.chain := Eq.trans rfl rfl
@[simp] theorem latching_pwr (e : Ev) (s : State) : (s.latching e).pwr = s.pwr := Eq.trans rfl rfl
@[simp] theorem latching_link (e : Ev) (s : State) : (s.latching e).link = s.link := Eq.trans rfl rfl
@[simp] theorem says_part (m : OutMsg) (s : State) : (s.says m).part = s.part := Eq.trans rfl rfl
@[simp] theorem says_pending (m : OutMsg) (s : State) : (s.says m).pending = s.pending := Eq.trans rfl rfl
@[simp] theorem says_freeCtr (m : OutMsg) (s : State) : (s.says m).freeCtr = s.freeCtr := Eq.trans rfl rfl
@[simp] theorem says_regs (m : OutMsg) (s : State) : (s.says m).regs = s.regs := Eq.trans rfl rfl
@[simp] theorem says_mem (m : OutMsg) (s : State) : (s.says m).mem = s.mem := Eq.trans rfl rfl
@[simp] theorem says_syn (m : OutMsg) (s : State) : (s.says m).syn = s.syn := Eq.trans rfl rfl
@[simp] theorem says_draw (m : OutMsg) (s : State) : (s.says m).draw = s.draw := Eq.trans rfl rfl
@[simp] theorem says_tick (m : OutMsg) (s : State) : (s.says m).tick = s.tick := Eq.trans rfl rfl
@[simp] theorem says_time (m : OutMsg) (s : State) : (s.says m).time = s.time := Eq.trans rfl rfl
@[simp] theorem says_latched (m : OutMsg) (s : State) : (s.says m).latched = s.latched := Eq.trans rfl rfl
@[simp] theorem says_due (m : OutMsg) (s : State) : (s.says m).due = s.due := Eq.trans rfl rfl
@[simp] theorem says_lineErrs (m : OutMsg) (s : State) : (s.says m).lineErrs = s.lineErrs := Eq.trans rfl rfl
@[simp] theorem says_oxen (m : OutMsg) (s : State) : (s.says m).oxen = s.oxen := Eq.trans rfl rfl
@[simp] theorem says_cores (m : OutMsg) (s : State) : (s.says m).cores = s.cores := Eq.trans rfl rfl
@[simp] theorem says_ctxs (m : OutMsg) (s : State) : (s.says m).ctxs = s.ctxs := Eq.trans rfl rfl
@[simp] theorem says_hbm (m : OutMsg) (s : State) : (s.says m).hbm = s.hbm := Eq.trans rfl rfl
@[simp] theorem says_trouble (m : OutMsg) (s : State) : (s.says m).trouble = s.trouble := Eq.trans rfl rfl
@[simp] theorem says_cond (m : OutMsg) (s : State) : (s.says m).cond = s.cond := Eq.trans rfl rfl
@[simp] theorem says_outbox (m : OutMsg) (s : State) : (s.says m).outbox = m :: s.outbox := Eq.trans rfl rfl
@[simp] theorem says_cxls (m : OutMsg) (s : State) : (s.says m).cxls = s.cxls := Eq.trans rfl rfl
@[simp] theorem says_wagon (m : OutMsg) (s : State) : (s.says m).wagon = s.wagon := Eq.trans rfl rfl
@[simp] theorem says_deepNext (m : OutMsg) (s : State) : (s.says m).deepNext = s.deepNext := Eq.trans rfl rfl
@[simp] theorem says_history (m : OutMsg) (s : State) : (s.says m).history = s.history := Eq.trans rfl rfl
@[simp] theorem says_trPend (m : OutMsg) (s : State) : (s.says m).trPend = s.trPend := Eq.trans rfl rfl
@[simp] theorem says_resets (m : OutMsg) (s : State) : (s.says m).resets = s.resets := Eq.trans rfl rfl
@[simp] theorem says_ports (m : OutMsg) (s : State) : (s.says m).ports = s.ports := Eq.trans rfl rfl
@[simp] theorem says_fab (m : OutMsg) (s : State) : (s.says m).fab = s.fab := Eq.trans rfl rfl
@[simp] theorem says_sec (m : OutMsg) (s : State) : (s.says m).sec = s.sec := Eq.trans rfl rfl
@[simp] theorem says_flash (m : OutMsg) (s : State) : (s.says m).flash = s.flash := Eq.trans rfl rfl
@[simp] theorem says_chain (m : OutMsg) (s : State) : (s.says m).chain = s.chain := Eq.trans rfl rfl
@[simp] theorem says_pwr (m : OutMsg) (s : State) : (s.says m).pwr = s.pwr := Eq.trans rfl rfl
@[simp] theorem says_link (m : OutMsg) (s : State) : (s.says m).link = s.link := Eq.trans rfl rfl
@[simp] theorem faulting_part (t : Trouble) (s : State) : (s.faulting t).part = s.part := Eq.trans rfl rfl
@[simp] theorem faulting_pending (t : Trouble) (s : State) : (s.faulting t).pending = s.pending := Eq.trans rfl rfl
@[simp] theorem faulting_freeCtr (t : Trouble) (s : State) : (s.faulting t).freeCtr = s.freeCtr := Eq.trans rfl rfl
@[simp] theorem faulting_regs (t : Trouble) (s : State) : (s.faulting t).regs = s.regs := Eq.trans rfl rfl
@[simp] theorem faulting_mem (t : Trouble) (s : State) : (s.faulting t).mem = s.mem := Eq.trans rfl rfl
@[simp] theorem faulting_syn (t : Trouble) (s : State) : (s.faulting t).syn = s.syn := Eq.trans rfl rfl
@[simp] theorem faulting_draw (t : Trouble) (s : State) : (s.faulting t).draw = s.draw := Eq.trans rfl rfl
@[simp] theorem faulting_tick (t : Trouble) (s : State) : (s.faulting t).tick = s.tick := Eq.trans rfl rfl
@[simp] theorem faulting_time (t : Trouble) (s : State) : (s.faulting t).time = s.time := Eq.trans rfl rfl
@[simp] theorem faulting_due (t : Trouble) (s : State) : (s.faulting t).due = s.due := Eq.trans rfl rfl
@[simp] theorem faulting_lineErrs (t : Trouble) (s : State) : (s.faulting t).lineErrs = s.lineErrs := Eq.trans rfl rfl
@[simp] theorem faulting_oxen (t : Trouble) (s : State) : (s.faulting t).oxen = s.oxen := Eq.trans rfl rfl
@[simp] theorem faulting_cores (t : Trouble) (s : State) : (s.faulting t).cores = s.cores := Eq.trans rfl rfl
@[simp] theorem faulting_ctxs (t : Trouble) (s : State) : (s.faulting t).ctxs = s.ctxs := Eq.trans rfl rfl
@[simp] theorem faulting_hbm (t : Trouble) (s : State) : (s.faulting t).hbm = s.hbm := Eq.trans rfl rfl
@[simp] theorem faulting_trouble (t : Trouble) (s : State) : (s.faulting t).trouble = s.trouble := Eq.trans rfl rfl
@[simp] theorem faulting_cond (t : Trouble) (s : State) : (s.faulting t).cond = s.cond := Eq.trans rfl rfl
@[simp] theorem faulting_outbox (t : Trouble) (s : State) : (s.faulting t).outbox = s.outbox := Eq.trans rfl rfl
@[simp] theorem faulting_cxls (t : Trouble) (s : State) : (s.faulting t).cxls = s.cxls := Eq.trans rfl rfl
@[simp] theorem faulting_wagon (t : Trouble) (s : State) : (s.faulting t).wagon = s.wagon := Eq.trans rfl rfl
@[simp] theorem faulting_deepNext (t : Trouble) (s : State) : (s.faulting t).deepNext = s.deepNext := Eq.trans rfl rfl
@[simp] theorem faulting_history (t : Trouble) (s : State) : (s.faulting t).history = s.history := Eq.trans rfl rfl
@[simp] theorem faulting_trPend (t : Trouble) (s : State) : (s.faulting t).trPend = s.trPend := Eq.trans rfl rfl
@[simp] theorem faulting_resets (t : Trouble) (s : State) : (s.faulting t).resets = s.resets := Eq.trans rfl rfl
@[simp] theorem faulting_ports (t : Trouble) (s : State) : (s.faulting t).ports = s.ports := Eq.trans rfl rfl
@[simp] theorem faulting_fab (t : Trouble) (s : State) : (s.faulting t).fab = s.fab := Eq.trans rfl rfl
@[simp] theorem faulting_sec (t : Trouble) (s : State) : (s.faulting t).sec = s.sec := Eq.trans rfl rfl
@[simp] theorem faulting_flash (t : Trouble) (s : State) : (s.faulting t).flash = s.flash := Eq.trans rfl rfl
@[simp] theorem faulting_chain (t : Trouble) (s : State) : (s.faulting t).chain = s.chain := Eq.trans rfl rfl
@[simp] theorem faulting_pwr (t : Trouble) (s : State) : (s.faulting t).pwr = s.pwr := Eq.trans rfl rfl
@[simp] theorem faulting_link (t : Trouble) (s : State) : (s.faulting t).link = s.link := Eq.trans rfl rfl
@[simp] theorem refused_part (a g : Nat) (s : State) : (s.refused a g).part = s.part := Eq.trans rfl rfl
@[simp] theorem refused_pending (a g : Nat) (s : State) : (s.refused a g).pending = s.pending := Eq.trans rfl rfl
@[simp] theorem refused_freeCtr (a g : Nat) (s : State) : (s.refused a g).freeCtr = s.freeCtr := Eq.trans rfl rfl
@[simp] theorem refused_mem (a g : Nat) (s : State) : (s.refused a g).mem = s.mem := Eq.trans rfl rfl
@[simp] theorem refused_syn (a g : Nat) (s : State) : (s.refused a g).syn = s.syn := Eq.trans rfl rfl
@[simp] theorem refused_draw (a g : Nat) (s : State) : (s.refused a g).draw = s.draw := Eq.trans rfl rfl
@[simp] theorem refused_tick (a g : Nat) (s : State) : (s.refused a g).tick = s.tick := Eq.trans rfl rfl
@[simp] theorem refused_time (a g : Nat) (s : State) : (s.refused a g).time = s.time := Eq.trans rfl rfl
@[simp] theorem refused_latched (a g : Nat) (s : State) : (s.refused a g).latched = s.latched := Eq.trans rfl rfl
@[simp] theorem refused_due (a g : Nat) (s : State) : (s.refused a g).due = s.due := Eq.trans rfl rfl
@[simp] theorem refused_lineErrs (a g : Nat) (s : State) : (s.refused a g).lineErrs = s.lineErrs := Eq.trans rfl rfl
@[simp] theorem refused_oxen (a g : Nat) (s : State) : (s.refused a g).oxen = s.oxen := Eq.trans rfl rfl
@[simp] theorem refused_cores (a g : Nat) (s : State) : (s.refused a g).cores = s.cores := Eq.trans rfl rfl
@[simp] theorem refused_ctxs (a g : Nat) (s : State) : (s.refused a g).ctxs = s.ctxs := Eq.trans rfl rfl
@[simp] theorem refused_hbm (a g : Nat) (s : State) : (s.refused a g).hbm = s.hbm := Eq.trans rfl rfl
@[simp] theorem refused_trouble (a g : Nat) (s : State) : (s.refused a g).trouble = s.trouble := Eq.trans rfl rfl
@[simp] theorem refused_cond (a g : Nat) (s : State) : (s.refused a g).cond = s.cond := Eq.trans rfl rfl
@[simp] theorem refused_cxls (a g : Nat) (s : State) : (s.refused a g).cxls = s.cxls := Eq.trans rfl rfl
@[simp] theorem refused_wagon (a g : Nat) (s : State) : (s.refused a g).wagon = s.wagon := Eq.trans rfl rfl
@[simp] theorem refused_deepNext (a g : Nat) (s : State) : (s.refused a g).deepNext = s.deepNext := Eq.trans rfl rfl
@[simp] theorem refused_history (a g : Nat) (s : State) : (s.refused a g).history = s.history := Eq.trans rfl rfl
@[simp] theorem refused_trPend (a g : Nat) (s : State) : (s.refused a g).trPend = s.trPend := Eq.trans rfl rfl
@[simp] theorem refused_resets (a g : Nat) (s : State) : (s.refused a g).resets = s.resets := Eq.trans rfl rfl
@[simp] theorem refused_ports (a g : Nat) (s : State) : (s.refused a g).ports = s.ports := Eq.trans rfl rfl
@[simp] theorem refused_fab (a g : Nat) (s : State) : (s.refused a g).fab = s.fab := Eq.trans rfl rfl
@[simp] theorem refused_sec (a g : Nat) (s : State) : (s.refused a g).sec = s.sec := Eq.trans rfl rfl
@[simp] theorem refused_flash (a g : Nat) (s : State) : (s.refused a g).flash = s.flash := Eq.trans rfl rfl
@[simp] theorem refused_chain (a g : Nat) (s : State) : (s.refused a g).chain = s.chain := Eq.trans rfl rfl
@[simp] theorem refused_pwr (a g : Nat) (s : State) : (s.refused a g).pwr = s.pwr := Eq.trans rfl rfl
@[simp] theorem refused_link (a g : Nat) (s : State) : (s.refused a g).link = s.link := Eq.trans rfl rfl

end Sys2Proof.Machine
end

