-- ==== Sys2Proof/Laws/Read.lean ====
section
/-!
SUPPORT. Laws/Read.lean: what registers, fields and units read as after each change of a state.
-/

namespace Sys2Proof.Machine

@[simp] theorem rg_putFreeCtr (f : Nat → Nat) (x : Nat) (s : State) : rg (s.putFreeCtr f) x = rg s x := Eq.trans rfl rfl
@[simp] theorem fv_putFreeCtr (f : Nat → Nat) (x : Fld) (s : State) : fv (s.putFreeCtr f) x = fv s x := Eq.trans rfl rfl
@[simp] theorem fb_putFreeCtr (f : Nat → Nat) (x : Fld) (s : State) : fb (s.putFreeCtr f) x = fb s x := Eq.trans rfl rfl
@[simp] theorem theOx_putFreeCtr (f : Nat → Nat) (x : Nat) (s : State) : theOx (s.putFreeCtr f) x = theOx s x := Eq.trans rfl rfl
@[simp] theorem theCore_putFreeCtr (f : Nat → Nat) (x : Nat) (s : State) : theCore (s.putFreeCtr f) x = theCore s x := Eq.trans rfl rfl
@[simp] theorem theCtx_putFreeCtr (f : Nat → Nat) (x : Nat) (s : State) : theCtx (s.putFreeCtr f) x = theCtx s x := Eq.trans rfl rfl
@[simp] theorem theStack_putFreeCtr (f : Nat → Nat) (x : Nat) (s : State) : theStack (s.putFreeCtr f) x = theStack s x := Eq.trans rfl rfl
@[simp] theorem thePort_putFreeCtr (f : Nat → Nat) (x : Nat) (s : State) : thePort (s.putFreeCtr f) x = thePort s x := Eq.trans rfl rfl
@[simp] theorem theCxl_putFreeCtr (f : Nat → Nat) (x : Nat) (s : State) : theCxl (s.putFreeCtr f) x = theCxl s x := Eq.trans rfl rfl
@[simp] theorem rg_putTick (f : Nat → Nat) (x : Nat) (s : State) : rg (s.putTick f) x = rg s x := Eq.trans rfl rfl
@[simp] theorem fv_putTick (f : Nat → Nat) (x : Fld) (s : State) : fv (s.putTick f) x = fv s x := Eq.trans rfl rfl
@[simp] theorem fb_putTick (f : Nat → Nat) (x : Fld) (s : State) : fb (s.putTick f) x = fb s x := Eq.trans rfl rfl
@[simp] theorem theOx_putTick (f : Nat → Nat) (x : Nat) (s : State) : theOx (s.putTick f) x = theOx s x := Eq.trans rfl rfl
@[simp] theorem theCore_putTick (f : Nat → Nat) (x : Nat) (s : State) : theCore (s.putTick f) x = theCore s x := Eq.trans rfl rfl
@[simp] theorem theCtx_putTick (f : Nat → Nat) (x : Nat) (s : State) : theCtx (s.putTick f) x = theCtx s x := Eq.trans rfl rfl
@[simp] theorem theStack_putTick (f : Nat → Nat) (x : Nat) (s : State) : theStack (s.putTick f) x = theStack s x := Eq.trans rfl rfl
@[simp] theorem thePort_putTick (f : Nat → Nat) (x : Nat) (s : State) : thePort (s.putTick f) x = thePort s x := Eq.trans rfl rfl
@[simp] theorem theCxl_putTick (f : Nat → Nat) (x : Nat) (s : State) : theCxl (s.putTick f) x = theCxl s x := Eq.trans rfl rfl
@[simp] theorem rg_putTime (f : TimeSt → TimeSt) (x : Nat) (s : State) : rg (s.putTime f) x = rg s x := Eq.trans rfl rfl
@[simp] theorem fv_putTime (f : TimeSt → TimeSt) (x : Fld) (s : State) : fv (s.putTime f) x = fv s x := Eq.trans rfl rfl
@[simp] theorem fb_putTime (f : TimeSt → TimeSt) (x : Fld) (s : State) : fb (s.putTime f) x = fb s x := Eq.trans rfl rfl
@[simp] theorem theOx_putTime (f : TimeSt → TimeSt) (x : Nat) (s : State) : theOx (s.putTime f) x = theOx s x := Eq.trans rfl rfl
@[simp] theorem theCore_putTime (f : TimeSt → TimeSt) (x : Nat) (s : State) : theCore (s.putTime f) x = theCore s x := Eq.trans rfl rfl
@[simp] theorem theCtx_putTime (f : TimeSt → TimeSt) (x : Nat) (s : State) : theCtx (s.putTime f) x = theCtx s x := Eq.trans rfl rfl
@[simp] theorem theStack_putTime (f : TimeSt → TimeSt) (x : Nat) (s : State) : theStack (s.putTime f) x = theStack s x := Eq.trans rfl rfl
@[simp] theorem thePort_putTime (f : TimeSt → TimeSt) (x : Nat) (s : State) : thePort (s.putTime f) x = thePort s x := Eq.trans rfl rfl
@[simp] theorem theCxl_putTime (f : TimeSt → TimeSt) (x : Nat) (s : State) : theCxl (s.putTime f) x = theCxl s x := Eq.trans rfl rfl
@[simp] theorem rg_putLatched (f : (List Ev) → (List Ev)) (x : Nat) (s : State) : rg (s.putLatched f) x = rg s x := Eq.trans rfl rfl
@[simp] theorem fv_putLatched (f : (List Ev) → (List Ev)) (x : Fld) (s : State) : fv (s.putLatched f) x = fv s x := Eq.trans rfl rfl
@[simp] theorem fb_putLatched (f : (List Ev) → (List Ev)) (x : Fld) (s : State) : fb (s.putLatched f) x = fb s x := Eq.trans rfl rfl
@[simp] theorem theOx_putLatched (f : (List Ev) → (List Ev)) (x : Nat) (s : State) : theOx (s.putLatched f) x = theOx s x := Eq.trans rfl rfl
@[simp] theorem theCore_putLatched (f : (List Ev) → (List Ev)) (x : Nat) (s : State) : theCore (s.putLatched f) x = theCore s x := Eq.trans rfl rfl
@[simp] theorem theCtx_putLatched (f : (List Ev) → (List Ev)) (x : Nat) (s : State) : theCtx (s.putLatched f) x = theCtx s x := Eq.trans rfl rfl
@[simp] theorem theStack_putLatched (f : (List Ev) → (List Ev)) (x : Nat) (s : State) : theStack (s.putLatched f) x = theStack s x := Eq.trans rfl rfl
@[simp] theorem thePort_putLatched (f : (List Ev) → (List Ev)) (x : Nat) (s : State) : thePort (s.putLatched f) x = thePort s x := Eq.trans rfl rfl
@[simp] theorem theCxl_putLatched (f : (List Ev) → (List Ev)) (x : Nat) (s : State) : theCxl (s.putLatched f) x = theCxl s x := Eq.trans rfl rfl
@[simp] theorem rg_putDue (f : (List Ev) → (List Ev)) (x : Nat) (s : State) : rg (s.putDue f) x = rg s x := Eq.trans rfl rfl
@[simp] theorem fv_putDue (f : (List Ev) → (List Ev)) (x : Fld) (s : State) : fv (s.putDue f) x = fv s x := Eq.trans rfl rfl
@[simp] theorem fb_putDue (f : (List Ev) → (List Ev)) (x : Fld) (s : State) : fb (s.putDue f) x = fb s x := Eq.trans rfl rfl
@[simp] theorem theOx_putDue (f : (List Ev) → (List Ev)) (x : Nat) (s : State) : theOx (s.putDue f) x = theOx s x := Eq.trans rfl rfl
@[simp] theorem theCore_putDue (f : (List Ev) → (List Ev)) (x : Nat) (s : State) : theCore (s.putDue f) x = theCore s x := Eq.trans rfl rfl
@[simp] theorem theCtx_putDue (f : (List Ev) → (List Ev)) (x : Nat) (s : State) : theCtx (s.putDue f) x = theCtx s x := Eq.trans rfl rfl
@[simp] theorem theStack_putDue (f : (List Ev) → (List Ev)) (x : Nat) (s : State) : theStack (s.putDue f) x = theStack s x := Eq.trans rfl rfl
@[simp] theorem thePort_putDue (f : (List Ev) → (List Ev)) (x : Nat) (s : State) : thePort (s.putDue f) x = thePort s x := Eq.trans rfl rfl
@[simp] theorem theCxl_putDue (f : (List Ev) → (List Ev)) (x : Nat) (s : State) : theCxl (s.putDue f) x = theCxl s x := Eq.trans rfl rfl
@[simp] theorem rg_putLineErrs (f : (List LineErr) → (List LineErr)) (x : Nat) (s : State) : rg (s.putLineErrs f) x = rg s x := Eq.trans rfl rfl
@[simp] theorem fv_putLineErrs (f : (List LineErr) → (List LineErr)) (x : Fld) (s : State) : fv (s.putLineErrs f) x = fv s x := Eq.trans rfl rfl
@[simp] theorem fb_putLineErrs (f : (List LineErr) → (List LineErr)) (x : Fld) (s : State) : fb (s.putLineErrs f) x = fb s x := Eq.trans rfl rfl
@[simp] theorem theOx_putLineErrs (f : (List LineErr) → (List LineErr)) (x : Nat) (s : State) : theOx (s.putLineErrs f) x = theOx s x := Eq.trans rfl rfl
@[simp] theorem theCore_putLineErrs (f : (List LineErr) → (List LineErr)) (x : Nat) (s : State) : theCore (s.putLineErrs f) x = theCore s x := Eq.trans rfl rfl
@[simp] theorem theCtx_putLineErrs (f : (List LineErr) → (List LineErr)) (x : Nat) (s : State) : theCtx (s.putLineErrs f) x = theCtx s x := Eq.trans rfl rfl
@[simp] theorem theStack_putLineErrs (f : (List LineErr) → (List LineErr)) (x : Nat) (s : State) : theStack (s.putLineErrs f) x = theStack s x := Eq.trans rfl rfl
@[simp] theorem thePort_putLineErrs (f : (List LineErr) → (List LineErr)) (x : Nat) (s : State) : thePort (s.putLineErrs f) x = thePort s x := Eq.trans rfl rfl
@[simp] theorem theCxl_putLineErrs (f : (List LineErr) → (List LineErr)) (x : Nat) (s : State) : theCxl (s.putLineErrs f) x = theCxl s x := Eq.trans rfl rfl
@[simp] theorem rg_putOx (i : Nat) (f : Ox → Ox) (x : Nat) (s : State) : rg (s.putOx i f) x = rg s x := Eq.trans rfl rfl
@[simp] theorem fv_putOx (i : Nat) (f : Ox → Ox) (x : Fld) (s : State) : fv (s.putOx i f) x = fv s x := Eq.trans rfl rfl
@[simp] theorem fb_putOx (i : Nat) (f : Ox → Ox) (x : Fld) (s : State) : fb (s.putOx i f) x = fb s x := Eq.trans rfl rfl
@[simp] theorem theCore_putOx (i : Nat) (f : Ox → Ox) (x : Nat) (s : State) : theCore (s.putOx i f) x = theCore s x := Eq.trans rfl rfl
@[simp] theorem theCtx_putOx (i : Nat) (f : Ox → Ox) (x : Nat) (s : State) : theCtx (s.putOx i f) x = theCtx s x := Eq.trans rfl rfl
@[simp] theorem theStack_putOx (i : Nat) (f : Ox → Ox) (x : Nat) (s : State) : theStack (s.putOx i f) x = theStack s x := Eq.trans rfl rfl
@[simp] theorem thePort_putOx (i : Nat) (f : Ox → Ox) (x : Nat) (s : State) : thePort (s.putOx i f) x = thePort s x := Eq.trans rfl rfl
@[simp] theorem theCxl_putOx (i : Nat) (f : Ox → Ox) (x : Nat) (s : State) : theCxl (s.putOx i f) x = theCxl s x := Eq.trans rfl rfl
@[simp] theorem rg_putCore (i : Nat) (f : CoreSt → CoreSt) (x : Nat) (s : State) : rg (s.putCore i f) x = rg s x := Eq.trans rfl rfl
@[simp] theorem fv_putCore (i : Nat) (f : CoreSt → CoreSt) (x : Fld) (s : State) : fv (s.putCore i f) x = fv s x := Eq.trans rfl rfl
@[simp] theorem fb_putCore (i : Nat) (f : CoreSt → CoreSt) (x : Fld) (s : State) : fb (s.putCore i f) x = fb s x := Eq.trans rfl rfl
@[simp] theorem theOx_putCore (i : Nat) (f : CoreSt → CoreSt) (x : Nat) (s : State) : theOx (s.putCore i f) x = theOx s x := Eq.trans rfl rfl
@[simp] theorem theCtx_putCore (i : Nat) (f : CoreSt → CoreSt) (x : Nat) (s : State) : theCtx (s.putCore i f) x = theCtx s x := Eq.trans rfl rfl
@[simp] theorem theStack_putCore (i : Nat) (f : CoreSt → CoreSt) (x : Nat) (s : State) : theStack (s.putCore i f) x = theStack s x := Eq.trans rfl rfl
@[simp] theorem thePort_putCore (i : Nat) (f : CoreSt → CoreSt) (x : Nat) (s : State) : thePort (s.putCore i f) x = thePort s x := Eq.trans rfl rfl
@[simp] theorem theCxl_putCore (i : Nat) (f : CoreSt → CoreSt) (x : Nat) (s : State) : theCxl (s.putCore i f) x = theCxl s x := Eq.trans rfl rfl
@[simp] theorem rg_putCtx (i : Nat) (f : CtxSt → CtxSt) (x : Nat) (s : State) : rg (s.putCtx i f) x = rg s x := Eq.trans rfl rfl
@[simp] theorem fv_putCtx (i : Nat) (f : CtxSt → CtxSt) (x : Fld) (s : State) : fv (s.putCtx i f) x = fv s x := Eq.trans rfl rfl
@[simp] theorem fb_putCtx (i : Nat) (f : CtxSt → CtxSt) (x : Fld) (s : State) : fb (s.putCtx i f) x = fb s x := Eq.trans rfl rfl
@[simp] theorem theOx_putCtx (i : Nat) (f : CtxSt → CtxSt) (x : Nat) (s : State) : theOx (s.putCtx i f) x = theOx s x := Eq.trans rfl rfl
@[simp] theorem theCore_putCtx (i : Nat) (f : CtxSt → CtxSt) (x : Nat) (s : State) : theCore (s.putCtx i f) x = theCore s x := Eq.trans rfl rfl
@[simp] theorem theStack_putCtx (i : Nat) (f : CtxSt → CtxSt) (x : Nat) (s : State) : theStack (s.putCtx i f) x = theStack s x := Eq.trans rfl rfl
@[simp] theorem thePort_putCtx (i : Nat) (f : CtxSt → CtxSt) (x : Nat) (s : State) : thePort (s.putCtx i f) x = thePort s x := Eq.trans rfl rfl
@[simp] theorem theCxl_putCtx (i : Nat) (f : CtxSt → CtxSt) (x : Nat) (s : State) : theCxl (s.putCtx i f) x = theCxl s x := Eq.trans rfl rfl
@[simp] theorem rg_putStack (i : Nat) (f : StackSt → StackSt) (x : Nat) (s : State) : rg (s.putStack i f) x = rg s x := Eq.trans rfl rfl
@[simp] theorem fv_putStack (i : Nat) (f : StackSt → StackSt) (x : Fld) (s : State) : fv (s.putStack i f) x = fv s x := Eq.trans rfl rfl
@[simp] theorem fb_putStack (i : Nat) (f : StackSt → StackSt) (x : Fld) (s : State) : fb (s.putStack i f) x = fb s x := Eq.trans rfl rfl
@[simp] theorem theOx_putStack (i : Nat) (f : StackSt → StackSt) (x : Nat) (s : State) : theOx (s.putStack i f) x = theOx s x := Eq.trans rfl rfl
@[simp] theorem theCore_putStack (i : Nat) (f : StackSt → StackSt) (x : Nat) (s : State) : theCore (s.putStack i f) x = theCore s x := Eq.trans rfl rfl
@[simp] theorem theCtx_putStack (i : Nat) (f : StackSt → StackSt) (x : Nat) (s : State) : theCtx (s.putStack i f) x = theCtx s x := Eq.trans rfl rfl
@[simp] theorem thePort_putStack (i : Nat) (f : StackSt → StackSt) (x : Nat) (s : State) : thePort (s.putStack i f) x = thePort s x := Eq.trans rfl rfl
@[simp] theorem theCxl_putStack (i : Nat) (f : StackSt → StackSt) (x : Nat) (s : State) : theCxl (s.putStack i f) x = theCxl s x := Eq.trans rfl rfl
@[simp] theorem rg_putTrouble (f : (List (List Byte)) → (List (List Byte))) (x : Nat) (s : State) : rg (s.putTrouble f) x = rg s x := Eq.trans rfl rfl
@[simp] theorem fv_putTrouble (f : (List (List Byte)) → (List (List Byte))) (x : Fld) (s : State) : fv (s.putTrouble f) x = fv s x := Eq.trans rfl rfl
@[simp] theorem fb_putTrouble (f : (List (List Byte)) → (List (List Byte))) (x : Fld) (s : State) : fb (s.putTrouble f) x = fb s x := Eq.trans rfl rfl
@[simp] theorem theOx_putTrouble (f : (List (List Byte)) → (List (List Byte))) (x : Nat) (s : State) : theOx (s.putTrouble f) x = theOx s x := Eq.trans rfl rfl
@[simp] theorem theCore_putTrouble (f : (List (List Byte)) → (List (List Byte))) (x : Nat) (s : State) : theCore (s.putTrouble f) x = theCore s x := Eq.trans rfl rfl
@[simp] theorem theCtx_putTrouble (f : (List (List Byte)) → (List (List Byte))) (x : Nat) (s : State) : theCtx (s.putTrouble f) x = theCtx s x := Eq.trans rfl rfl
@[simp] theorem theStack_putTrouble (f : (List (List Byte)) → (List (List Byte))) (x : Nat) (s : State) : theStack (s.putTrouble f) x = theStack s x := Eq.trans rfl rfl
@[simp] theorem thePort_putTrouble (f : (List (List Byte)) → (List (List Byte))) (x : Nat) (s : State) : thePort (s.putTrouble f) x = thePort s x := Eq.trans rfl rfl
@[simp] theorem theCxl_putTrouble (f : (List (List Byte)) → (List (List Byte))) (x : Nat) (s : State) : theCxl (s.putTrouble f) x = theCxl s x := Eq.trans rfl rfl
@[simp] theorem rg_putCond (f : (List (List Byte)) → (List (List Byte))) (x : Nat) (s : State) : rg (s.putCond f) x = rg s x := Eq.trans rfl rfl
@[simp] theorem fv_putCond (f : (List (List Byte)) → (List (List Byte))) (x : Fld) (s : State) : fv (s.putCond f) x = fv s x := Eq.trans rfl rfl
@[simp] theorem fb_putCond (f : (List (List Byte)) → (List (List Byte))) (x : Fld) (s : State) : fb (s.putCond f) x = fb s x := Eq.trans rfl rfl
@[simp] theorem theOx_putCond (f : (List (List Byte)) → (List (List Byte))) (x : Nat) (s : State) : theOx (s.putCond f) x = theOx s x := Eq.trans rfl rfl
@[simp] theorem theCore_putCond (f : (List (List Byte)) → (List (List Byte))) (x : Nat) (s : State) : theCore (s.putCond f) x = theCore s x := Eq.trans rfl rfl
@[simp] theorem theCtx_putCond (f : (List (List Byte)) → (List (List Byte))) (x : Nat) (s : State) : theCtx (s.putCond f) x = theCtx s x := Eq.trans rfl rfl
@[simp] theorem theStack_putCond (f : (List (List Byte)) → (List (List Byte))) (x : Nat) (s : State) : theStack (s.putCond f) x = theStack s x := Eq.trans rfl rfl
@[simp] theorem thePort_putCond (f : (List (List Byte)) → (List (List Byte))) (x : Nat) (s : State) : thePort (s.putCond f) x = thePort s x := Eq.trans rfl rfl
@[simp] theorem theCxl_putCond (f : (List (List Byte)) → (List (List Byte))) (x : Nat) (s : State) : theCxl (s.putCond f) x = theCxl s x := Eq.trans rfl rfl
@[simp] theorem rg_putOutbox (f : (List OutMsg) → (List OutMsg)) (x : Nat) (s : State) : rg (s.putOutbox f) x = rg s x := Eq.trans rfl rfl
@[simp] theorem fv_putOutbox (f : (List OutMsg) → (List OutMsg)) (x : Fld) (s : State) : fv (s.putOutbox f) x = fv s x := Eq.trans rfl rfl
@[simp] theorem fb_putOutbox (f : (List OutMsg) → (List OutMsg)) (x : Fld) (s : State) : fb (s.putOutbox f) x = fb s x := Eq.trans rfl rfl
@[simp] theorem theOx_putOutbox (f : (List OutMsg) → (List OutMsg)) (x : Nat) (s : State) : theOx (s.putOutbox f) x = theOx s x := Eq.trans rfl rfl
@[simp] theorem theCore_putOutbox (f : (List OutMsg) → (List OutMsg)) (x : Nat) (s : State) : theCore (s.putOutbox f) x = theCore s x := Eq.trans rfl rfl
@[simp] theorem theCtx_putOutbox (f : (List OutMsg) → (List OutMsg)) (x : Nat) (s : State) : theCtx (s.putOutbox f) x = theCtx s x := Eq.trans rfl rfl
@[simp] theorem theStack_putOutbox (f : (List OutMsg) → (List OutMsg)) (x : Nat) (s : State) : theStack (s.putOutbox f) x = theStack s x := Eq.trans rfl rfl
@[simp] theorem thePort_putOutbox (f : (List OutMsg) → (List OutMsg)) (x : Nat) (s : State) : thePort (s.putOutbox f) x = thePort s x := Eq.trans rfl rfl
@[simp] theorem theCxl_putOutbox (f : (List OutMsg) → (List OutMsg)) (x : Nat) (s : State) : theCxl (s.putOutbox f) x = theCxl s x := Eq.trans rfl rfl
@[simp] theorem rg_putCxl (i : Nat) (f : CxlSt → CxlSt) (x : Nat) (s : State) : rg (s.putCxl i f) x = rg s x := Eq.trans rfl rfl
@[simp] theorem fv_putCxl (i : Nat) (f : CxlSt → CxlSt) (x : Fld) (s : State) : fv (s.putCxl i f) x = fv s x := Eq.trans rfl rfl
@[simp] theorem fb_putCxl (i : Nat) (f : CxlSt → CxlSt) (x : Fld) (s : State) : fb (s.putCxl i f) x = fb s x := Eq.trans rfl rfl
@[simp] theorem theOx_putCxl (i : Nat) (f : CxlSt → CxlSt) (x : Nat) (s : State) : theOx (s.putCxl i f) x = theOx s x := Eq.trans rfl rfl
@[simp] theorem theCore_putCxl (i : Nat) (f : CxlSt → CxlSt) (x : Nat) (s : State) : theCore (s.putCxl i f) x = theCore s x := Eq.trans rfl rfl
@[simp] theorem theCtx_putCxl (i : Nat) (f : CxlSt → CxlSt) (x : Nat) (s : State) : theCtx (s.putCxl i f) x = theCtx s x := Eq.trans rfl rfl
@[simp] theorem theStack_putCxl (i : Nat) (f : CxlSt → CxlSt) (x : Nat) (s : State) : theStack (s.putCxl i f) x = theStack s x := Eq.trans rfl rfl
@[simp] theorem thePort_putCxl (i : Nat) (f : CxlSt → CxlSt) (x : Nat) (s : State) : thePort (s.putCxl i f) x = thePort s x := Eq.trans rfl rfl
@[simp] theorem rg_putWagon (f : WagonSt → WagonSt) (x : Nat) (s : State) : rg (s.putWagon f) x = rg s x := Eq.trans rfl rfl
@[simp] theorem fv_putWagon (f : WagonSt → WagonSt) (x : Fld) (s : State) : fv (s.putWagon f) x = fv s x := Eq.trans rfl rfl
@[simp] theorem fb_putWagon (f : WagonSt → WagonSt) (x : Fld) (s : State) : fb (s.putWagon f) x = fb s x := Eq.trans rfl rfl
@[simp] theorem theOx_putWagon (f : WagonSt → WagonSt) (x : Nat) (s : State) : theOx (s.putWagon f) x = theOx s x := Eq.trans rfl rfl
@[simp] theorem theCore_putWagon (f : WagonSt → WagonSt) (x : Nat) (s : State) : theCore (s.putWagon f) x = theCore s x := Eq.trans rfl rfl
@[simp] theorem theCtx_putWagon (f : WagonSt → WagonSt) (x : Nat) (s : State) : theCtx (s.putWagon f) x = theCtx s x := Eq.trans rfl rfl
@[simp] theorem theStack_putWagon (f : WagonSt → WagonSt) (x : Nat) (s : State) : theStack (s.putWagon f) x = theStack s x := Eq.trans rfl rfl
@[simp] theorem thePort_putWagon (f : WagonSt → WagonSt) (x : Nat) (s : State) : thePort (s.putWagon f) x = thePort s x := Eq.trans rfl rfl
@[simp] theorem theCxl_putWagon (f : WagonSt → WagonSt) (x : Nat) (s : State) : theCxl (s.putWagon f) x = theCxl s x := Eq.trans rfl rfl
@[simp] theorem rg_putDeepNext (f : Nat → Nat) (x : Nat) (s : State) : rg (s.putDeepNext f) x = rg s x := Eq.trans rfl rfl
@[simp] theorem fv_putDeepNext (f : Nat → Nat) (x : Fld) (s : State) : fv (s.putDeepNext f) x = fv s x := Eq.trans rfl rfl
@[simp] theorem fb_putDeepNext (f : Nat → Nat) (x : Fld) (s : State) : fb (s.putDeepNext f) x = fb s x := Eq.trans rfl rfl
@[simp] theorem theOx_putDeepNext (f : Nat → Nat) (x : Nat) (s : State) : theOx (s.putDeepNext f) x = theOx s x := Eq.trans rfl rfl
@[simp] theorem theCore_putDeepNext (f : Nat → Nat) (x : Nat) (s : State) : theCore (s.putDeepNext f) x = theCore s x := Eq.trans rfl rfl
@[simp] theorem theCtx_putDeepNext (f : Nat → Nat) (x : Nat) (s : State) : theCtx (s.putDeepNext f) x = theCtx s x := Eq.trans rfl rfl
@[simp] theorem theStack_putDeepNext (f : Nat → Nat) (x : Nat) (s : State) : theStack (s.putDeepNext f) x = theStack s x := Eq.trans rfl rfl
@[simp] theorem thePort_putDeepNext (f : Nat → Nat) (x : Nat) (s : State) : thePort (s.putDeepNext f) x = thePort s x := Eq.trans rfl rfl
@[simp] theorem theCxl_putDeepNext (f : Nat → Nat) (x : Nat) (s : State) : theCxl (s.putDeepNext f) x = theCxl s x := Eq.trans rfl rfl
@[simp] theorem rg_putHistory (f : (List RepEnt) → (List RepEnt)) (x : Nat) (s : State) : rg (s.putHistory f) x = rg s x := Eq.trans rfl rfl
@[simp] theorem fv_putHistory (f : (List RepEnt) → (List RepEnt)) (x : Fld) (s : State) : fv (s.putHistory f) x = fv s x := Eq.trans rfl rfl
@[simp] theorem fb_putHistory (f : (List RepEnt) → (List RepEnt)) (x : Fld) (s : State) : fb (s.putHistory f) x = fb s x := Eq.trans rfl rfl
@[simp] theorem theOx_putHistory (f : (List RepEnt) → (List RepEnt)) (x : Nat) (s : State) : theOx (s.putHistory f) x = theOx s x := Eq.trans rfl rfl
@[simp] theorem theCore_putHistory (f : (List RepEnt) → (List RepEnt)) (x : Nat) (s : State) : theCore (s.putHistory f) x = theCore s x := Eq.trans rfl rfl
@[simp] theorem theCtx_putHistory (f : (List RepEnt) → (List RepEnt)) (x : Nat) (s : State) : theCtx (s.putHistory f) x = theCtx s x := Eq.trans rfl rfl
@[simp] theorem theStack_putHistory (f : (List RepEnt) → (List RepEnt)) (x : Nat) (s : State) : theStack (s.putHistory f) x = theStack s x := Eq.trans rfl rfl
@[simp] theorem thePort_putHistory (f : (List RepEnt) → (List RepEnt)) (x : Nat) (s : State) : thePort (s.putHistory f) x = thePort s x := Eq.trans rfl rfl
@[simp] theorem theCxl_putHistory (f : (List RepEnt) → (List RepEnt)) (x : Nat) (s : State) : theCxl (s.putHistory f) x = theCxl s x := Eq.trans rfl rfl
@[simp] theorem rg_putTrPend (f : (List PendRec) → (List PendRec)) (x : Nat) (s : State) : rg (s.putTrPend f) x = rg s x := Eq.trans rfl rfl
@[simp] theorem fv_putTrPend (f : (List PendRec) → (List PendRec)) (x : Fld) (s : State) : fv (s.putTrPend f) x = fv s x := Eq.trans rfl rfl
@[simp] theorem fb_putTrPend (f : (List PendRec) → (List PendRec)) (x : Fld) (s : State) : fb (s.putTrPend f) x = fb s x := Eq.trans rfl rfl
@[simp] theorem theOx_putTrPend (f : (List PendRec) → (List PendRec)) (x : Nat) (s : State) : theOx (s.putTrPend f) x = theOx s x := Eq.trans rfl rfl
@[simp] theorem theCore_putTrPend (f : (List PendRec) → (List PendRec)) (x : Nat) (s : State) : theCore (s.putTrPend f) x = theCore s x := Eq.trans rfl rfl
@[simp] theorem theCtx_putTrPend (f : (List PendRec) → (List PendRec)) (x : Nat) (s : State) : theCtx (s.putTrPend f) x = theCtx s x := Eq.trans rfl rfl
@[simp] theorem theStack_putTrPend (f : (List PendRec) → (List PendRec)) (x : Nat) (s : State) : theStack (s.putTrPend f) x = theStack s x := Eq.trans rfl rfl
@[simp] theorem thePort_putTrPend (f : (List PendRec) → (List PendRec)) (x : Nat) (s : State) : thePort (s.putTrPend f) x = thePort s x := Eq.trans rfl rfl
@[simp] theorem theCxl_putTrPend (f : (List PendRec) → (List PendRec)) (x : Nat) (s : State) : theCxl (s.putTrPend f) x = theCxl s x := Eq.trans rfl rfl
@[simp] theorem rg_putResets (f : (List ResetOp) → (List ResetOp)) (x : Nat) (s : State) : rg (s.putResets f) x = rg s x := Eq.trans rfl rfl
@[simp] theorem fv_putResets (f : (List ResetOp) → (List ResetOp)) (x : Fld) (s : State) : fv (s.putResets f) x = fv s x := Eq.trans rfl rfl
@[simp] theorem fb_putResets (f : (List ResetOp) → (List ResetOp)) (x : Fld) (s : State) : fb (s.putResets f) x = fb s x := Eq.trans rfl rfl
@[simp] theorem theOx_putResets (f : (List ResetOp) → (List ResetOp)) (x : Nat) (s : State) : theOx (s.putResets f) x = theOx s x := Eq.trans rfl rfl
@[simp] theorem theCore_putResets (f : (List ResetOp) → (List ResetOp)) (x : Nat) (s : State) : theCore (s.putResets f) x = theCore s x := Eq.trans rfl rfl
@[simp] theorem theCtx_putResets (f : (List ResetOp) → (List ResetOp)) (x : Nat) (s : State) : theCtx (s.putResets f) x = theCtx s x := Eq.trans rfl rfl
@[simp] theorem theStack_putResets (f : (List ResetOp) → (List ResetOp)) (x : Nat) (s : State) : theStack (s.putResets f) x = theStack s x := Eq.trans rfl rfl
@[simp] theorem thePort_putResets (f : (List ResetOp) → (List ResetOp)) (x : Nat) (s : State) : thePort (s.putResets f) x = thePort s x := Eq.trans rfl rfl
@[simp] theorem theCxl_putResets (f : (List ResetOp) → (List ResetOp)) (x : Nat) (s : State) : theCxl (s.putResets f) x = theCxl s x := Eq.trans rfl rfl
@[simp] theorem rg_putPort (i : Nat) (f : PortSt → PortSt) (x : Nat) (s : State) : rg (s.putPort i f) x = rg s x := Eq.trans rfl rfl
@[simp] theorem fv_putPort (i : Nat) (f : PortSt → PortSt) (x : Fld) (s : State) : fv (s.putPort i f) x = fv s x := Eq.trans rfl rfl
@[simp] theorem fb_putPort (i : Nat) (f : PortSt → PortSt) (x : Fld) (s : State) : fb (s.putPort i f) x = fb s x := Eq.trans rfl rfl
@[simp] theorem theOx_putPort (i : Nat) (f : PortSt → PortSt) (x : Nat) (s : State) : theOx (s.putPort i f) x = theOx s x := Eq.trans rfl rfl
@[simp] theorem theCore_putPort (i : Nat) (f : PortSt → PortSt) (x : Nat) (s : State) : theCore (s.putPort i f) x = theCore s x := Eq.trans rfl rfl
@[simp] theorem theCtx_putPort (i : Nat) (f : PortSt → PortSt) (x : Nat) (s : State) : theCtx (s.putPort i f) x = theCtx s x := Eq.trans rfl rfl
@[simp] theorem theStack_putPort (i : Nat) (f : PortSt → PortSt) (x : Nat) (s : State) : theStack (s.putPort i f) x = theStack s x := Eq.trans rfl rfl
@[simp] theorem theCxl_putPort (i : Nat) (f : PortSt → PortSt) (x : Nat) (s : State) : theCxl (s.putPort i f) x = theCxl s x := Eq.trans rfl rfl
@[simp] theorem rg_putFab (f : FabSt → FabSt) (x : Nat) (s : State) : rg (s.putFab f) x = rg s x := Eq.trans rfl rfl
@[simp] theorem fv_putFab (f : FabSt → FabSt) (x : Fld) (s : State) : fv (s.putFab f) x = fv s x := Eq.trans rfl rfl
@[simp] theorem fb_putFab (f : FabSt → FabSt) (x : Fld) (s : State) : fb (s.putFab f) x = fb s x := Eq.trans rfl rfl
@[simp] theorem theOx_putFab (f : FabSt → FabSt) (x : Nat) (s : State) : theOx (s.putFab f) x = theOx s x := Eq.trans rfl rfl
@[simp] theorem theCore_putFab (f : FabSt → FabSt) (x : Nat) (s : State) : theCore (s.putFab f) x = theCore s x := Eq.trans rfl rfl
@[simp] theorem theCtx_putFab (f : FabSt → FabSt) (x : Nat) (s : State) : theCtx (s.putFab f) x = theCtx s x := Eq.trans rfl rfl
@[simp] theorem theStack_putFab (f : FabSt → FabSt) (x : Nat) (s : State) : theStack (s.putFab f) x = theStack s x := Eq.trans rfl rfl
@[simp] theorem thePort_putFab (f : FabSt → FabSt) (x : Nat) (s : State) : thePort (s.putFab f) x = thePort s x := Eq.trans rfl rfl
@[simp] theorem theCxl_putFab (f : FabSt → FabSt) (x : Nat) (s : State) : theCxl (s.putFab f) x = theCxl s x := Eq.trans rfl rfl
@[simp] theorem rg_putSec (f : SecSt → SecSt) (x : Nat) (s : State) : rg (s.putSec f) x = rg s x := Eq.trans rfl rfl
@[simp] theorem fv_putSec (f : SecSt → SecSt) (x : Fld) (s : State) : fv (s.putSec f) x = fv s x := Eq.trans rfl rfl
@[simp] theorem fb_putSec (f : SecSt → SecSt) (x : Fld) (s : State) : fb (s.putSec f) x = fb s x := Eq.trans rfl rfl
@[simp] theorem theOx_putSec (f : SecSt → SecSt) (x : Nat) (s : State) : theOx (s.putSec f) x = theOx s x := Eq.trans rfl rfl
@[simp] theorem theCore_putSec (f : SecSt → SecSt) (x : Nat) (s : State) : theCore (s.putSec f) x = theCore s x := Eq.trans rfl rfl
@[simp] theorem theCtx_putSec (f : SecSt → SecSt) (x : Nat) (s : State) : theCtx (s.putSec f) x = theCtx s x := Eq.trans rfl rfl
@[simp] theorem theStack_putSec (f : SecSt → SecSt) (x : Nat) (s : State) : theStack (s.putSec f) x = theStack s x := Eq.trans rfl rfl
@[simp] theorem thePort_putSec (f : SecSt → SecSt) (x : Nat) (s : State) : thePort (s.putSec f) x = thePort s x := Eq.trans rfl rfl
@[simp] theorem theCxl_putSec (f : SecSt → SecSt) (x : Nat) (s : State) : theCxl (s.putSec f) x = theCxl s x := Eq.trans rfl rfl
@[simp] theorem rg_putFlash (f : FlashSt → FlashSt) (x : Nat) (s : State) : rg (s.putFlash f) x = rg s x := Eq.trans rfl rfl
@[simp] theorem fv_putFlash (f : FlashSt → FlashSt) (x : Fld) (s : State) : fv (s.putFlash f) x = fv s x := Eq.trans rfl rfl
@[simp] theorem fb_putFlash (f : FlashSt → FlashSt) (x : Fld) (s : State) : fb (s.putFlash f) x = fb s x := Eq.trans rfl rfl
@[simp] theorem theOx_putFlash (f : FlashSt → FlashSt) (x : Nat) (s : State) : theOx (s.putFlash f) x = theOx s x := Eq.trans rfl rfl
@[simp] theorem theCore_putFlash (f : FlashSt → FlashSt) (x : Nat) (s : State) : theCore (s.putFlash f) x = theCore s x := Eq.trans rfl rfl
@[simp] theorem theCtx_putFlash (f : FlashSt → FlashSt) (x : Nat) (s : State) : theCtx (s.putFlash f) x = theCtx s x := Eq.trans rfl rfl
@[simp] theorem theStack_putFlash (f : FlashSt → FlashSt) (x : Nat) (s : State) : theStack (s.putFlash f) x = theStack s x := Eq.trans rfl rfl
@[simp] theorem thePort_putFlash (f : FlashSt → FlashSt) (x : Nat) (s : State) : thePort (s.putFlash f) x = thePort s x := Eq.trans rfl rfl
@[simp] theorem theCxl_putFlash (f : FlashSt → FlashSt) (x : Nat) (s : State) : theCxl (s.putFlash f) x = theCxl s x := Eq.trans rfl rfl
@[simp] theorem rg_putChain (f : ChainSt → ChainSt) (x : Nat) (s : State) : rg (s.putChain f) x = rg s x := Eq.trans rfl rfl
@[simp] theorem fv_putChain (f : ChainSt → ChainSt) (x : Fld) (s : State) : fv (s.putChain f) x = fv s x := Eq.trans rfl rfl
@[simp] theorem fb_putChain (f : ChainSt → ChainSt) (x : Fld) (s : State) : fb (s.putChain f) x = fb s x := Eq.trans rfl rfl
@[simp] theorem theOx_putChain (f : ChainSt → ChainSt) (x : Nat) (s : State) : theOx (s.putChain f) x = theOx s x := Eq.trans rfl rfl
@[simp] theorem theCore_putChain (f : ChainSt → ChainSt) (x : Nat) (s : State) : theCore (s.putChain f) x = theCore s x := Eq.trans rfl rfl
@[simp] theorem theCtx_putChain (f : ChainSt → ChainSt) (x : Nat) (s : State) : theCtx (s.putChain f) x = theCtx s x := Eq.trans rfl rfl
@[simp] theorem theStack_putChain (f : ChainSt → ChainSt) (x : Nat) (s : State) : theStack (s.putChain f) x = theStack s x := Eq.trans rfl rfl
@[simp] theorem thePort_putChain (f : ChainSt → ChainSt) (x : Nat) (s : State) : thePort (s.putChain f) x = thePort s x := Eq.trans rfl rfl
@[simp] theorem theCxl_putChain (f : ChainSt → ChainSt) (x : Nat) (s : State) : theCxl (s.putChain f) x = theCxl s x := Eq.trans rfl rfl
@[simp] theorem rg_putPwr (f : PwrSt → PwrSt) (x : Nat) (s : State) : rg (s.putPwr f) x = rg s x := Eq.trans rfl rfl
@[simp] theorem fv_putPwr (f : PwrSt → PwrSt) (x : Fld) (s : State) : fv (s.putPwr f) x = fv s x := Eq.trans rfl rfl
@[simp] theorem fb_putPwr (f : PwrSt → PwrSt) (x : Fld) (s : State) : fb (s.putPwr f) x = fb s x := Eq.trans rfl rfl
@[simp] theorem theOx_putPwr (f : PwrSt → PwrSt) (x : Nat) (s : State) : theOx (s.putPwr f) x = theOx s x := Eq.trans rfl rfl
@[simp] theorem theCore_putPwr (f : PwrSt → PwrSt) (x : Nat) (s : State) : theCore (s.putPwr f) x = theCore s x := Eq.trans rfl rfl
@[simp] theorem theCtx_putPwr (f : PwrSt → PwrSt) (x : Nat) (s : State) : theCtx (s.putPwr f) x = theCtx s x := Eq.trans rfl rfl
@[simp] theorem theStack_putPwr (f : PwrSt → PwrSt) (x : Nat) (s : State) : theStack (s.putPwr f) x = theStack s x := Eq.trans rfl rfl
@[simp] theorem thePort_putPwr (f : PwrSt → PwrSt) (x : Nat) (s : State) : thePort (s.putPwr f) x = thePort s x := Eq.trans rfl rfl
@[simp] theorem theCxl_putPwr (f : PwrSt → PwrSt) (x : Nat) (s : State) : theCxl (s.putPwr f) x = theCxl s x := Eq.trans rfl rfl
@[simp] theorem rg_putLink (f : LinkSt → LinkSt) (x : Nat) (s : State) : rg (s.putLink f) x = rg s x := Eq.trans rfl rfl
@[simp] theorem fv_putLink (f : LinkSt → LinkSt) (x : Fld) (s : State) : fv (s.putLink f) x = fv s x := Eq.trans rfl rfl
@[simp] theorem fb_putLink (f : LinkSt → LinkSt) (x : Fld) (s : State) : fb (s.putLink f) x = fb s x := Eq.trans rfl rfl
@[simp] theorem theOx_putLink (f : LinkSt → LinkSt) (x : Nat) (s : State) : theOx (s.putLink f) x = theOx s x := Eq.trans rfl rfl
@[simp] theorem theCore_putLink (f : LinkSt → LinkSt) (x : Nat) (s : State) : theCore (s.putLink f) x = theCore s x := Eq.trans rfl rfl
@[simp] theorem theCtx_putLink (f : LinkSt → LinkSt) (x : Nat) (s : State) : theCtx (s.putLink f) x = theCtx s x := Eq.trans rfl rfl
@[simp] theorem theStack_putLink (f : LinkSt → LinkSt) (x : Nat) (s : State) : theStack (s.putLink f) x = theStack s x := Eq.trans rfl rfl
@[simp] theorem thePort_putLink (f : LinkSt → LinkSt) (x : Nat) (s : State) : thePort (s.putLink f) x = thePort s x := Eq.trans rfl rfl
@[simp] theorem theCxl_putLink (f : LinkSt → LinkSt) (x : Nat) (s : State) : theCxl (s.putLink f) x = theCxl s x := Eq.trans rfl rfl
@[simp] theorem theOx_putReg (a : Nat) (v : Nat) (x : Nat) (s : State) : theOx (s.putReg a v) x = theOx s x := Eq.trans rfl rfl
@[simp] theorem theCore_putReg (a : Nat) (v : Nat) (x : Nat) (s : State) : theCore (s.putReg a v) x = theCore s x := Eq.trans rfl rfl
@[simp] theorem theCtx_putReg (a : Nat) (v : Nat) (x : Nat) (s : State) : theCtx (s.putReg a v) x = theCtx s x := Eq.trans rfl rfl
@[simp] theorem theStack_putReg (a : Nat) (v : Nat) (x : Nat) (s : State) : theStack (s.putReg a v) x = theStack s x := Eq.trans rfl rfl
@[simp] theorem thePort_putReg (a : Nat) (v : Nat) (x : Nat) (s : State) : thePort (s.putReg a v) x = thePort s x := Eq.trans rfl rfl
@[simp] theorem theCxl_putReg (a : Nat) (v : Nat) (x : Nat) (s : State) : theCxl (s.putReg a v) x = theCxl s x := Eq.trans rfl rfl
@[simp] theorem theOx_resetRegs (p : Nat → Bool) (x : Nat) (s : State) : theOx (s.resetRegs p) x = theOx s x := Eq.trans rfl rfl
@[simp] theorem theCore_resetRegs (p : Nat → Bool) (x : Nat) (s : State) : theCore (s.resetRegs p) x = theCore s x := Eq.trans rfl rfl
@[simp] theorem theCtx_resetRegs (p : Nat → Bool) (x : Nat) (s : State) : theCtx (s.resetRegs p) x = theCtx s x := Eq.trans rfl rfl
@[simp] theorem theStack_resetRegs (p : Nat → Bool) (x : Nat) (s : State) : theStack (s.resetRegs p) x = theStack s x := Eq.trans rfl rfl
@[simp] theorem thePort_resetRegs (p : Nat → Bool) (x : Nat) (s : State) : thePort (s.resetRegs p) x = thePort s x := Eq.trans rfl rfl
@[simp] theorem theCxl_resetRegs (p : Nat → Bool) (x : Nat) (s : State) : theCxl (s.resetRegs p) x = theCxl s x := Eq.trans rfl rfl
@[simp] theorem rg_putBytes (a : Nat) (bs : List Byte) (x : Nat) (s : State) : rg (s.putBytes a bs) x = rg s x := Eq.trans rfl rfl
@[simp] theorem fv_putBytes (a : Nat) (bs : List Byte) (x : Fld) (s : State) : fv (s.putBytes a bs) x = fv s x := Eq.trans rfl rfl
@[simp] theorem fb_putBytes (a : Nat) (bs : List Byte) (x : Fld) (s : State) : fb (s.putBytes a bs) x = fb s x := Eq.trans rfl rfl
@[simp] theorem theOx_putBytes (a : Nat) (bs : List Byte) (x : Nat) (s : State) : theOx (s.putBytes a bs) x = theOx s x := Eq.trans rfl rfl
@[simp] theorem theCore_putBytes (a : Nat) (bs : List Byte) (x : Nat) (s : State) : theCore (s.putBytes a bs) x = theCore s x := Eq.trans rfl rfl
@[simp] theorem theCtx_putBytes (a : Nat) (bs : List Byte) (x : Nat) (s : State) : theCtx (s.putBytes a bs) x = theCtx s x := Eq.trans rfl rfl
@[simp] theorem theStack_putBytes (a : Nat) (bs : List Byte) (x : Nat) (s : State) : theStack (s.putBytes a bs) x = theStack s x := Eq.trans rfl rfl
@[simp] theorem thePort_putBytes (a : Nat) (bs : List Byte) (x : Nat) (s : State) : thePort (s.putBytes a bs) x = thePort s x := Eq.trans rfl rfl
@[simp] theorem theCxl_putBytes (a : Nat) (bs : List Byte) (x : Nat) (s : State) : theCxl (s.putBytes a bs) x = theCxl s x := Eq.trans rfl rfl
@[simp] theorem rg_clearBytes (p : Nat → Bool) (x : Nat) (s : State) : rg (s.clearBytes p) x = rg s x := Eq.trans rfl rfl
@[simp] theorem fv_clearBytes (p : Nat → Bool) (x : Fld) (s : State) : fv (s.clearBytes p) x = fv s x := Eq.trans rfl rfl
@[simp] theorem fb_clearBytes (p : Nat → Bool) (x : Fld) (s : State) : fb (s.clearBytes p) x = fb s x := Eq.trans rfl rfl
@[simp] theorem theOx_clearBytes (p : Nat → Bool) (x : Nat) (s : State) : theOx (s.clearBytes p) x = theOx s x := Eq.trans rfl rfl
@[simp] theorem theCore_clearBytes (p : Nat → Bool) (x : Nat) (s : State) : theCore (s.clearBytes p) x = theCore s x := Eq.trans rfl rfl
@[simp] theorem theCtx_clearBytes (p : Nat → Bool) (x : Nat) (s : State) : theCtx (s.clearBytes p) x = theCtx s x := Eq.trans rfl rfl
@[simp] theorem theStack_clearBytes (p : Nat → Bool) (x : Nat) (s : State) : theStack (s.clearBytes p) x = theStack s x := Eq.trans rfl rfl
@[simp] theorem thePort_clearBytes (p : Nat → Bool) (x : Nat) (s : State) : thePort (s.clearBytes p) x = thePort s x := Eq.trans rfl rfl
@[simp] theorem theCxl_clearBytes (p : Nat → Bool) (x : Nat) (s : State) : theCxl (s.clearBytes p) x = theCxl s x := Eq.trans rfl rfl
@[simp] theorem rg_copyBytes (src dst len : Nat) (x : Nat) (s : State) : rg (s.copyBytes src dst len) x = rg s x := Eq.trans rfl rfl
@[simp] theorem fv_copyBytes (src dst len : Nat) (x : Fld) (s : State) : fv (s.copyBytes src dst len) x = fv s x := Eq.trans rfl rfl
@[simp] theorem fb_copyBytes (src dst len : Nat) (x : Fld) (s : State) : fb (s.copyBytes src dst len) x = fb s x := Eq.trans rfl rfl
@[simp] theorem theOx_copyBytes (src dst len : Nat) (x : Nat) (s : State) : theOx (s.copyBytes src dst len) x = theOx s x := Eq.trans rfl rfl
@[simp] theorem theCore_copyBytes (src dst len : Nat) (x : Nat) (s : State) : theCore (s.copyBytes src dst len) x = theCore s x := Eq.trans rfl rfl
@[simp] theorem theCtx_copyBytes (src dst len : Nat) (x : Nat) (s : State) : theCtx (s.copyBytes src dst len) x = theCtx s x := Eq.trans rfl rfl
@[simp] theorem theStack_copyBytes (src dst len : Nat) (x : Nat) (s : State) : theStack (s.copyBytes src dst len) x = theStack s x := Eq.trans rfl rfl
@[simp] theorem thePort_copyBytes (src dst len : Nat) (x : Nat) (s : State) : thePort (s.copyBytes src dst len) x = thePort s x := Eq.trans rfl rfl
@[simp] theorem theCxl_copyBytes (src dst len : Nat) (x : Nat) (s : State) : theCxl (s.copyBytes src dst len) x = theCxl s x := Eq.trans rfl rfl
@[simp] theorem rg_putSyn (a : Nat) (v : BitVec 32) (x : Nat) (s : State) : rg (s.putSyn a v) x = rg s x := Eq.trans rfl rfl
@[simp] theorem fv_putSyn (a : Nat) (v : BitVec 32) (x : Fld) (s : State) : fv (s.putSyn a v) x = fv s x := Eq.trans rfl rfl
@[simp] theorem fb_putSyn (a : Nat) (v : BitVec 32) (x : Fld) (s : State) : fb (s.putSyn a v) x = fb s x := Eq.trans rfl rfl
@[simp] theorem theOx_putSyn (a : Nat) (v : BitVec 32) (x : Nat) (s : State) : theOx (s.putSyn a v) x = theOx s x := Eq.trans rfl rfl
@[simp] theorem theCore_putSyn (a : Nat) (v : BitVec 32) (x : Nat) (s : State) : theCore (s.putSyn a v) x = theCore s x := Eq.trans rfl rfl
@[simp] theorem theCtx_putSyn (a : Nat) (v : BitVec 32) (x : Nat) (s : State) : theCtx (s.putSyn a v) x = theCtx s x := Eq.trans rfl rfl
@[simp] theorem theStack_putSyn (a : Nat) (v : BitVec 32) (x : Nat) (s : State) : theStack (s.putSyn a v) x = theStack s x := Eq.trans rfl rfl
@[simp] theorem thePort_putSyn (a : Nat) (v : BitVec 32) (x : Nat) (s : State) : thePort (s.putSyn a v) x = thePort s x := Eq.trans rfl rfl
@[simp] theorem theCxl_putSyn (a : Nat) (v : BitVec 32) (x : Nat) (s : State) : theCxl (s.putSyn a v) x = theCxl s x := Eq.trans rfl rfl
@[simp] theorem rg_clearSyn (p : Nat → Bool) (x : Nat) (s : State) : rg (s.clearSyn p) x = rg s x := Eq.trans rfl rfl
@[simp] theorem fv_clearSyn (p : Nat → Bool) (x : Fld) (s : State) : fv (s.clearSyn p) x = fv s x := Eq.trans rfl rfl
@[simp] theorem fb_clearSyn (p : Nat → Bool) (x : Fld) (s : State) : fb (s.clearSyn p) x = fb s x := Eq.trans rfl rfl
@[simp] theorem theOx_clearSyn (p : Nat → Bool) (x : Nat) (s : State) : theOx (s.clearSyn p) x = theOx s x := Eq.trans rfl rfl
@[simp] theorem theCore_clearSyn (p : Nat → Bool) (x : Nat) (s : State) : theCore (s.clearSyn p) x = theCore s x := Eq.trans rfl rfl
@[simp] theorem theCtx_clearSyn (p : Nat → Bool) (x : Nat) (s : State) : theCtx (s.clearSyn p) x = theCtx s x := Eq.trans rfl rfl
@[simp] theorem theStack_clearSyn (p : Nat → Bool) (x : Nat) (s : State) : theStack (s.clearSyn p) x = theStack s x := Eq.trans rfl rfl
@[simp] theorem thePort_clearSyn (p : Nat → Bool) (x : Nat) (s : State) : thePort (s.clearSyn p) x = thePort s x := Eq.trans rfl rfl
@[simp] theorem theCxl_clearSyn (p : Nat → Bool) (x : Nat) (s : State) : theCxl (s.clearSyn p) x = theCxl s x := Eq.trans rfl rfl
@[simp] theorem rg_putDraw (a v : Nat) (x : Nat) (s : State) : rg (s.putDraw a v) x = rg s x := Eq.trans rfl rfl
@[simp] theorem fv_putDraw (a v : Nat) (x : Fld) (s : State) : fv (s.putDraw a v) x = fv s x := Eq.trans rfl rfl
@[simp] theorem fb_putDraw (a v : Nat) (x : Fld) (s : State) : fb (s.putDraw a v) x = fb s x := Eq.trans rfl rfl
@[simp] theorem theOx_putDraw (a v : Nat) (x : Nat) (s : State) : theOx (s.putDraw a v) x = theOx s x := Eq.trans rfl rfl
@[simp] theorem theCore_putDraw (a v : Nat) (x : Nat) (s : State) : theCore (s.putDraw a v) x = theCore s x := Eq.trans rfl rfl
@[simp] theorem theCtx_putDraw (a v : Nat) (x : Nat) (s : State) : theCtx (s.putDraw a v) x = theCtx s x := Eq.trans rfl rfl
@[simp] theorem theStack_putDraw (a v : Nat) (x : Nat) (s : State) : theStack (s.putDraw a v) x = theStack s x := Eq.trans rfl rfl
@[simp] theorem thePort_putDraw (a v : Nat) (x : Nat) (s : State) : thePort (s.putDraw a v) x = thePort s x := Eq.trans rfl rfl
@[simp] theorem theCxl_putDraw (a v : Nat) (x : Nat) (s : State) : theCxl (s.putDraw a v) x = theCxl s x := Eq.trans rfl rfl
@[simp] theorem rg_clearDraw (p : Nat → Bool) (x : Nat) (s : State) : rg (s.clearDraw p) x = rg s x := Eq.trans rfl rfl
@[simp] theorem fv_clearDraw (p : Nat → Bool) (x : Fld) (s : State) : fv (s.clearDraw p) x = fv s x := Eq.trans rfl rfl
@[simp] theorem fb_clearDraw (p : Nat → Bool) (x : Fld) (s : State) : fb (s.clearDraw p) x = fb s x := Eq.trans rfl rfl
@[simp] theorem theOx_clearDraw (p : Nat → Bool) (x : Nat) (s : State) : theOx (s.clearDraw p) x = theOx s x := Eq.trans rfl rfl
@[simp] theorem theCore_clearDraw (p : Nat → Bool) (x : Nat) (s : State) : theCore (s.clearDraw p) x = theCore s x := Eq.trans rfl rfl
@[simp] theorem theCtx_clearDraw (p : Nat → Bool) (x : Nat) (s : State) : theCtx (s.clearDraw p) x = theCtx s x := Eq.trans rfl rfl
@[simp] theorem theStack_clearDraw (p : Nat → Bool) (x : Nat) (s : State) : theStack (s.clearDraw p) x = theStack s x := Eq.trans rfl rfl
@[simp] theorem thePort_clearDraw (p : Nat → Bool) (x : Nat) (s : State) : thePort (s.clearDraw p) x = thePort s x := Eq.trans rfl rfl
@[simp] theorem theCxl_clearDraw (p : Nat → Bool) (x : Nat) (s : State) : theCxl (s.clearDraw p) x = theCxl s x := Eq.trans rfl rfl
@[simp] theorem theOx_put (f : Fld) (v : Nat) (x : Nat) (s : State) : theOx (s.put f v) x = theOx s x := Eq.trans rfl rfl
@[simp] theorem theCore_put (f : Fld) (v : Nat) (x : Nat) (s : State) : theCore (s.put f v) x = theCore s x := Eq.trans rfl rfl
@[simp] theorem theCtx_put (f : Fld) (v : Nat) (x : Nat) (s : State) : theCtx (s.put f v) x = theCtx s x := Eq.trans rfl rfl
@[simp] theorem theStack_put (f : Fld) (v : Nat) (x : Nat) (s : State) : theStack (s.put f v) x = theStack s x := Eq.trans rfl rfl
@[simp] theorem thePort_put (f : Fld) (v : Nat) (x : Nat) (s : State) : thePort (s.put f v) x = thePort s x := Eq.trans rfl rfl
@[simp] theorem theCxl_put (f : Fld) (v : Nat) (x : Nat) (s : State) : theCxl (s.put f v) x = theCxl s x := Eq.trans rfl rfl
@[simp] theorem theOx_count (f : Fld) (n : Nat) (x : Nat) (s : State) : theOx (s.count f n) x = theOx s x := Eq.trans rfl rfl
@[simp] theorem theCore_count (f : Fld) (n : Nat) (x : Nat) (s : State) : theCore (s.count f n) x = theCore s x := Eq.trans rfl rfl
@[simp] theorem theCtx_count (f : Fld) (n : Nat) (x : Nat) (s : State) : theCtx (s.count f n) x = theCtx s x := Eq.trans rfl rfl
@[simp] theorem theStack_count (f : Fld) (n : Nat) (x : Nat) (s : State) : theStack (s.count f n) x = theStack s x := Eq.trans rfl rfl
@[simp] theorem thePort_count (f : Fld) (n : Nat) (x : Nat) (s : State) : thePort (s.count f n) x = thePort s x := Eq.trans rfl rfl
@[simp] theorem theCxl_count (f : Fld) (n : Nat) (x : Nat) (s : State) : theCxl (s.count f n) x = theCxl s x := Eq.trans rfl rfl
@[simp] theorem rg_latching (e : Ev) (x : Nat) (s : State) : rg (s.latching e) x = rg s x := Eq.trans rfl rfl
@[simp] theorem fv_latching (e : Ev) (x : Fld) (s : State) : fv (s.latching e) x = fv s x := Eq.trans rfl rfl
@[simp] theorem fb_latching (e : Ev) (x : Fld) (s : State) : fb (s.latching e) x = fb s x := Eq.trans rfl rfl
@[simp] theorem theOx_latching (e : Ev) (x : Nat) (s : State) : theOx (s.latching e) x = theOx s x := Eq.trans rfl rfl
@[simp] theorem theCore_latching (e : Ev) (x : Nat) (s : State) : theCore (s.latching e) x = theCore s x := Eq.trans rfl rfl
@[simp] theorem theCtx_latching (e : Ev) (x : Nat) (s : State) : theCtx (s.latching e) x = theCtx s x := Eq.trans rfl rfl
@[simp] theorem theStack_latching (e : Ev) (x : Nat) (s : State) : theStack (s.latching e) x = theStack s x := Eq.trans rfl rfl
@[simp] theorem thePort_latching (e : Ev) (x : Nat) (s : State) : thePort (s.latching e) x = thePort s x := Eq.trans rfl rfl
@[simp] theorem theCxl_latching (e : Ev) (x : Nat) (s : State) : theCxl (s.latching e) x = theCxl s x := Eq.trans rfl rfl
@[simp] theorem rg_says (m : OutMsg) (x : Nat) (s : State) : rg (s.says m) x = rg s x := Eq.trans rfl rfl
@[simp] theorem fv_says (m : OutMsg) (x : Fld) (s : State) : fv (s.says m) x = fv s x := Eq.trans rfl rfl
@[simp] theorem fb_says (m : OutMsg) (x : Fld) (s : State) : fb (s.says m) x = fb s x := Eq.trans rfl rfl
@[simp] theorem theOx_says (m : OutMsg) (x : Nat) (s : State) : theOx (s.says m) x = theOx s x := Eq.trans rfl rfl
@[simp] theorem theCore_says (m : OutMsg) (x : Nat) (s : State) : theCore (s.says m) x = theCore s x := Eq.trans rfl rfl
@[simp] theorem theCtx_says (m : OutMsg) (x : Nat) (s : State) : theCtx (s.says m) x = theCtx s x := Eq.trans rfl rfl
@[simp] theorem theStack_says (m : OutMsg) (x : Nat) (s : State) : theStack (s.says m) x = theStack s x := Eq.trans rfl rfl
@[simp] theorem thePort_says (m : OutMsg) (x : Nat) (s : State) : thePort (s.says m) x = thePort s x := Eq.trans rfl rfl
@[simp] theorem theCxl_says (m : OutMsg) (x : Nat) (s : State) : theCxl (s.says m) x = theCxl s x := Eq.trans rfl rfl
@[simp] theorem rg_faulting (t : Trouble) (x : Nat) (s : State) : rg (s.faulting t) x = rg s x := Eq.trans rfl rfl
@[simp] theorem fv_faulting (t : Trouble) (x : Fld) (s : State) : fv (s.faulting t) x = fv s x := Eq.trans rfl rfl
@[simp] theorem fb_faulting (t : Trouble) (x : Fld) (s : State) : fb (s.faulting t) x = fb s x := Eq.trans rfl rfl
@[simp] theorem theOx_faulting (t : Trouble) (x : Nat) (s : State) : theOx (s.faulting t) x = theOx s x := Eq.trans rfl rfl
@[simp] theorem theCore_faulting (t : Trouble) (x : Nat) (s : State) : theCore (s.faulting t) x = theCore s x := Eq.trans rfl rfl
@[simp] theorem theCtx_faulting (t : Trouble) (x : Nat) (s : State) : theCtx (s.faulting t) x = theCtx s x := Eq.trans rfl rfl
@[simp] theorem theStack_faulting (t : Trouble) (x : Nat) (s : State) : theStack (s.faulting t) x = theStack s x := Eq.trans rfl rfl
@[simp] theorem thePort_faulting (t : Trouble) (x : Nat) (s : State) : thePort (s.faulting t) x = thePort s x := Eq.trans rfl rfl
@[simp] theorem theCxl_faulting (t : Trouble) (x : Nat) (s : State) : theCxl (s.faulting t) x = theCxl s x := Eq.trans rfl rfl
@[simp] theorem theOx_refused (a g : Nat) (x : Nat) (s : State) : theOx (s.refused a g) x = theOx s x := Eq.trans rfl rfl
@[simp] theorem theCore_refused (a g : Nat) (x : Nat) (s : State) : theCore (s.refused a g) x = theCore s x := Eq.trans rfl rfl
@[simp] theorem theCtx_refused (a g : Nat) (x : Nat) (s : State) : theCtx (s.refused a g) x = theCtx s x := Eq.trans rfl rfl
@[simp] theorem theStack_refused (a g : Nat) (x : Nat) (s : State) : theStack (s.refused a g) x = theStack s x := Eq.trans rfl rfl
@[simp] theorem thePort_refused (a g : Nat) (x : Nat) (s : State) : thePort (s.refused a g) x = thePort s x := Eq.trans rfl rfl
@[simp] theorem theCxl_refused (a g : Nat) (x : Nat) (s : State) : theCxl (s.refused a g) x = theCxl s x := Eq.trans rfl rfl

theorem rg_putReg (s : State) (a v b : Nat) :
    rg (s.putReg a v) b = if b = a then (regKeep a v).toNat else rg s b := by
  unfold rg State.putReg
  simp only [mget_mset]
  split <;> rfl

@[simp] theorem rg_putReg_same (s : State) (a v : Nat) : rg (s.putReg a v) a = (regKeep a v).toNat := by simp [rg_putReg]
theorem rg_putReg_ne (s : State) (a v b : Nat) (h : b ≠ a) : rg (s.putReg a v) b = rg s b := by simp [rg_putReg, h]
theorem rg_put_ne (s : State) (f : Fld) (v b : Nat) (h : b ≠ f.addr) : rg (s.put f v) b = rg s b := rg_putReg_ne _ _ _ _ h
theorem rg_count_ne (s : State) (f : Fld) (n b : Nat) (h : b ≠ f.addr) : rg (s.count f n) b = rg s b := rg_put_ne _ _ _ _ h
theorem fv_putReg_ne (s : State) (a v : Nat) (g : Fld) (h : g.addr ≠ a) : fv (s.putReg a v) g = fv s g := by
  simp [fv, rg_putReg_ne _ _ _ _ h]
theorem fv_put_ne (s : State) (f g : Fld) (v : Nat) (h : g.addr ≠ f.addr) : fv (s.put f v) g = fv s g := by
  simp [fv, rg_put_ne _ _ _ _ h]
theorem fv_count_ne (s : State) (f g : Fld) (n : Nat) (h : g.addr ≠ f.addr) : fv (s.count f n) g = fv s g := by
  simp [fv, rg_count_ne _ _ _ _ h]

theorem theOx_putOx (s : State) (i : Nat) (f : Ox → Ox) (j : Nat) :
    theOx (s.putOx i f) j = if j = i then f (theOx s i) else theOx s j := by
  unfold theOx State.putOx
  simp only [mmod, mget_mset]
@[simp] theorem theOx_putOx_same (s : State) (i : Nat) (f : Ox → Ox) : theOx (s.putOx i f) i = f (theOx s i) := by simp [theOx_putOx]

theorem theCore_putCore (s : State) (i : Nat) (f : CoreSt → CoreSt) (j : Nat) :
    theCore (s.putCore i f) j = if j = i then f (theCore s i) else theCore s j := by
  unfold theCore State.putCore
  simp only [mmod, mget_mset]
@[simp] theorem theCore_putCore_same (s : State) (i : Nat) (f : CoreSt → CoreSt) : theCore (s.putCore i f) i = f (theCore s i) := by simp [theCore_putCore]

theorem theCtx_putCtx (s : State) (i : Nat) (f : CtxSt → CtxSt) (j : Nat) :
    theCtx (s.putCtx i f) j = if j = i then f (theCtx s i) else theCtx s j := by
  unfold theCtx State.putCtx
  simp only [mmod, mget_mset]
@[simp] theorem theCtx_putCtx_same (s : State) (i : Nat) (f : CtxSt → CtxSt) : theCtx (s.putCtx i f) i = f (theCtx s i) := by simp [theCtx_putCtx]

theorem theStack_putStack (s : State) (i : Nat) (f : StackSt → StackSt) (j : Nat) :
    theStack (s.putStack i f) j = if j = i then f (theStack s i) else theStack s j := by
  unfold theStack State.putStack
  simp only [mmod, mget_mset]
@[simp] theorem theStack_putStack_same (s : State) (i : Nat) (f : StackSt → StackSt) : theStack (s.putStack i f) i = f (theStack s i) := by simp [theStack_putStack]

theorem thePort_putPort (s : State) (i : Nat) (f : PortSt → PortSt) (j : Nat) :
    thePort (s.putPort i f) j = if j = i then f (thePort s i) else thePort s j := by
  unfold thePort State.putPort
  simp only [mmod, mget_mset]
@[simp] theorem thePort_putPort_same (s : State) (i : Nat) (f : PortSt → PortSt) : thePort (s.putPort i f) i = f (thePort s i) := by simp [thePort_putPort]

theorem theCxl_putCxl (s : State) (i : Nat) (f : CxlSt → CxlSt) (j : Nat) :
    theCxl (s.putCxl i f) j = if j = i then f (theCxl s i) else theCxl s j := by
  unfold theCxl State.putCxl
  simp only [mmod, mget_mset]
@[simp] theorem theCxl_putCxl_same (s : State) (i : Nat) (f : CxlSt → CxlSt) : theCxl (s.putCxl i f) i = f (theCxl s i) := by simp [theCxl_putCxl]

end Sys2Proof.Machine
end

