-- ==== Sys2Proof/Laws/Run.lean ====
section
/-!
SUPPORT. Laws/Run.lean: how an action is carried out: the pieces of do-notation one after another, and the shared
operations in the words of Safety.lean.
-/

namespace Sys2Proof.Machine

variable {α β : Type}

@[simp] theorem run_pure (a : α) (k : α → Act) (s : State) : Act.run ((pure a : M α) k) s = Act.run (k a) s := Eq.trans rfl rfl
@[simp] theorem run_bind (x : M α) (f : α → M β) (k : β → Act) (s : State) :
    Act.run ((x >>= f) k) s = Act.run (x (fun a => f a k)) s := Eq.trans rfl rfl
@[simp] theorem run_map (f : α → β) (x : M α) (k : β → Act) (s : State) :
    Act.run ((f <$> x) k) s = Act.run (x (fun a => k (f a))) s := Eq.trans rfl rfl
@[simp] theorem run_getS (k : State → Act) (s : State) : Act.run (getS k) s = Act.run (k s) s := Eq.trans rfl rfl
@[simp] theorem run_done (s : State) : Act.run Act.done s = s := Eq.trans rfl rfl
@[simp] theorem run_ite (c : Prop) [Decidable c] (x y : M α) (k : α → Act) (s : State) :
    Act.run ((if c then x else y) k) s = if c then Act.run (x k) s else Act.run (y k) s := by split <;> rfl

/-- A meaning answers the state that its action leaves. -/
theorem runM_eq (m : M Unit) (s : State) : runM m s = .next (Act.run (m (fun _ => Act.done)) s) := Eq.trans rfl rfl

/-- A meaning whose records are written when it ends. -/
theorem runT_eq (m : M Unit) (s : State) : runT m s = .next (Act.run (m (fun _ => flushRecords (fun _ => Act.done))) s) := Eq.trans rfl rfl

theorem run_when' (c : Bool) (m : M Unit) (k : Unit → Act) (s : State) :
    Act.run (when' c m k) s = if c = true then Act.run (m k) s else Act.run (k ()) s := by cases c <;> rfl
@[simp] theorem run_when'_true (m : M Unit) (k : Unit → Act) (s : State) : Act.run (when' true m k) s = Act.run (m k) s := Eq.trans rfl rfl
@[simp] theorem run_when'_false (m : M Unit) (k : Unit → Act) (s : State) : Act.run (when' false m k) s = Act.run (k ()) s := Eq.trans rfl rfl
@[simp] theorem run_each_nil (f : α → M Unit) (k : Unit → Act) (s : State) :
    Act.run (each ([] : List α) f k) s = Act.run (k ()) s := Eq.trans rfl rfl
@[simp] theorem run_each_cons (x : α) (xs : List α) (f : α → M Unit) (k : Unit → Act) (s : State) :
    Act.run (each (x :: xs) f k) s = Act.run (f x (fun _ => each xs f k)) s := Eq.trans rfl rfl
@[simp] theorem run_gather_nil (f : α → M β) (k : List β → Act) (s : State) :
    Act.run (gather ([] : List α) f k) s = Act.run (k []) s := Eq.trans rfl rfl
@[simp] theorem run_gather_cons (x : α) (xs : List α) (f : α → M β) (k : List β → Act) (s : State) :
    Act.run (gather (x :: xs) f k) s = Act.run (f x (fun y => gather xs f (fun ys => k (y :: ys)))) s := Eq.trans rfl rfl

@[simp] theorem run_modFreeCtr (f : Nat → Nat) (k : Unit → Act) (s : State) : Act.run (modFreeCtr f k) s = Act.run (k ()) (s.putFreeCtr f) := Eq.trans rfl rfl
@[simp] theorem run_modTick (f : Nat → Nat) (k : Unit → Act) (s : State) : Act.run (modTick f k) s = Act.run (k ()) (s.putTick f) := Eq.trans rfl rfl
@[simp] theorem run_modTime (f : TimeSt → TimeSt) (k : Unit → Act) (s : State) : Act.run (modTime f k) s = Act.run (k ()) (s.putTime f) := Eq.trans rfl rfl
@[simp] theorem run_modLatched (f : (List Ev) → (List Ev)) (k : Unit → Act) (s : State) : Act.run (modLatched f k) s = Act.run (k ()) (s.putLatched f) := Eq.trans rfl rfl
@[simp] theorem run_modDue (f : (List Ev) → (List Ev)) (k : Unit → Act) (s : State) : Act.run (modDue f k) s = Act.run (k ()) (s.putDue f) := Eq.trans rfl rfl
@[simp] theorem run_modLineErrs (f : (List LineErr) → (List LineErr)) (k : Unit → Act) (s : State) : Act.run (modLineErrs f k) s = Act.run (k ()) (s.putLineErrs f) := Eq.trans rfl rfl
@[simp] theorem run_modOx (i : Nat) (f : Ox → Ox) (k : Unit → Act) (s : State) : Act.run (modOx i f k) s = Act.run (k ()) (s.putOx i f) := Eq.trans rfl rfl
@[simp] theorem run_modCore (i : Nat) (f : CoreSt → CoreSt) (k : Unit → Act) (s : State) : Act.run (modCore i f k) s = Act.run (k ()) (s.putCore i f) := Eq.trans rfl rfl
@[simp] theorem run_modCtx (i : Nat) (f : CtxSt → CtxSt) (k : Unit → Act) (s : State) : Act.run (modCtx i f k) s = Act.run (k ()) (s.putCtx i f) := Eq.trans rfl rfl
@[simp] theorem run_modStack (i : Nat) (f : StackSt → StackSt) (k : Unit → Act) (s : State) : Act.run (modStack i f k) s = Act.run (k ()) (s.putStack i f) := Eq.trans rfl rfl
@[simp] theorem run_modTrouble (f : (List (List Byte)) → (List (List Byte))) (k : Unit → Act) (s : State) : Act.run (modTrouble f k) s = Act.run (k ()) (s.putTrouble f) := Eq.trans rfl rfl
@[simp] theorem run_modCond (f : (List (List Byte)) → (List (List Byte))) (k : Unit → Act) (s : State) : Act.run (modCond f k) s = Act.run (k ()) (s.putCond f) := Eq.trans rfl rfl
@[simp] theorem run_modOutbox (f : (List OutMsg) → (List OutMsg)) (k : Unit → Act) (s : State) : Act.run (modOutbox f k) s = Act.run (k ()) (s.putOutbox f) := Eq.trans rfl rfl
@[simp] theorem run_modCxl (i : Nat) (f : CxlSt → CxlSt) (k : Unit → Act) (s : State) : Act.run (modCxl i f k) s = Act.run (k ()) (s.putCxl i f) := Eq.trans rfl rfl
@[simp] theorem run_modWagon (f : WagonSt → WagonSt) (k : Unit → Act) (s : State) : Act.run (modWagon f k) s = Act.run (k ()) (s.putWagon f) := Eq.trans rfl rfl
@[simp] theorem run_modDeepNext (f : Nat → Nat) (k : Unit → Act) (s : State) : Act.run (modDeepNext f k) s = Act.run (k ()) (s.putDeepNext f) := Eq.trans rfl rfl
@[simp] theorem run_modHistory (f : (List RepEnt) → (List RepEnt)) (k : Unit → Act) (s : State) : Act.run (modHistory f k) s = Act.run (k ()) (s.putHistory f) := Eq.trans rfl rfl
@[simp] theorem run_modTrPend (f : (List PendRec) → (List PendRec)) (k : Unit → Act) (s : State) : Act.run (modTrPend f k) s = Act.run (k ()) (s.putTrPend f) := Eq.trans rfl rfl
@[simp] theorem run_modResets (f : (List ResetOp) → (List ResetOp)) (k : Unit → Act) (s : State) : Act.run (modResets f k) s = Act.run (k ()) (s.putResets f) := Eq.trans rfl rfl
@[simp] theorem run_modPort (i : Nat) (f : PortSt → PortSt) (k : Unit → Act) (s : State) : Act.run (modPort i f k) s = Act.run (k ()) (s.putPort i f) := Eq.trans rfl rfl
@[simp] theorem run_modFab (f : FabSt → FabSt) (k : Unit → Act) (s : State) : Act.run (modFab f k) s = Act.run (k ()) (s.putFab f) := Eq.trans rfl rfl
@[simp] theorem run_modSec (f : SecSt → SecSt) (k : Unit → Act) (s : State) : Act.run (modSec f k) s = Act.run (k ()) (s.putSec f) := Eq.trans rfl rfl
@[simp] theorem run_modFlash (f : FlashSt → FlashSt) (k : Unit → Act) (s : State) : Act.run (modFlash f k) s = Act.run (k ()) (s.putFlash f) := Eq.trans rfl rfl
@[simp] theorem run_modChain (f : ChainSt → ChainSt) (k : Unit → Act) (s : State) : Act.run (modChain f k) s = Act.run (k ()) (s.putChain f) := Eq.trans rfl rfl
@[simp] theorem run_modPwr (f : PwrSt → PwrSt) (k : Unit → Act) (s : State) : Act.run (modPwr f k) s = Act.run (k ()) (s.putPwr f) := Eq.trans rfl rfl
@[simp] theorem run_modLink (f : LinkSt → LinkSt) (k : Unit → Act) (s : State) : Act.run (modLink f k) s = Act.run (k ()) (s.putLink f) := Eq.trans rfl rfl
@[simp] theorem run_setReg (a : Nat) (v : Nat) (k : Unit → Act) (s : State) : Act.run (setReg a v k) s = Act.run (k ()) (s.putReg a v) := Eq.trans rfl rfl
@[simp] theorem run_resetRegs (p : Nat → Bool) (k : Unit → Act) (s : State) : Act.run (resetRegs p k) s = Act.run (k ()) (s.resetRegs p) := Eq.trans rfl rfl
@[simp] theorem run_setMem (a : Nat) (bs : List Byte) (k : Unit → Act) (s : State) : Act.run (setMem a bs k) s = Act.run (k ()) (s.putBytes a bs) := Eq.trans rfl rfl
@[simp] theorem run_clearMem (p : Nat → Bool) (k : Unit → Act) (s : State) : Act.run (clearMem p k) s = Act.run (k ()) (s.clearBytes p) := Eq.trans rfl rfl
@[simp] theorem run_copyMem (src dst len : Nat) (k : Unit → Act) (s : State) : Act.run (copyMem src dst len k) s = Act.run (k ()) (s.copyBytes src dst len) := Eq.trans rfl rfl
@[simp] theorem run_setSyn (a : Nat) (v : BitVec 32) (k : Unit → Act) (s : State) : Act.run (setSyn a v k) s = Act.run (k ()) (s.putSyn a v) := Eq.trans rfl rfl
@[simp] theorem run_clearSyn (p : Nat → Bool) (k : Unit → Act) (s : State) : Act.run (clearSyn p k) s = Act.run (k ()) (s.clearSyn p) := Eq.trans rfl rfl
@[simp] theorem run_setDraw (a v : Nat) (k : Unit → Act) (s : State) : Act.run (setDraw a v k) s = Act.run (k ()) (s.putDraw a v) := Eq.trans rfl rfl
@[simp] theorem run_clearDraw (p : Nat → Bool) (k : Unit → Act) (s : State) : Act.run (clearDraw p k) s = Act.run (k ()) (s.clearDraw p) := Eq.trans rfl rfl

@[simp] theorem run_setFld (f : Fld) (v : Nat) (k : Unit → Act) (s : State) :
    Act.run (setFld f v k) s = Act.run (k ()) (s.put f v) := Eq.trans rfl rfl
@[simp] theorem run_flag (f : Fld) (k : Unit → Act) (s : State) : Act.run (flag f k) s = Act.run (k ()) (s.put f 1) := Eq.trans rfl rfl
@[simp] theorem run_fld (f : Fld) (k : Nat → Act) (s : State) : Act.run (fld f k) s = Act.run (k (fv s f)) s := Eq.trans rfl rfl
@[simp] theorem run_reg (a : Nat) (k : Nat → Act) (s : State) : Act.run (reg a k) s = Act.run (k (rg s a)) s := Eq.trans rfl rfl
@[simp] theorem run_bump (f : Fld) (k : Unit → Act) (s : State) : Act.run (bump f k) s = Act.run (k ()) (s.count f 1) := Eq.trans rfl rfl
@[simp] theorem run_bumpBy (f : Fld) (n : Nat) (k : Unit → Act) (s : State) :
    Act.run (bumpBy f n k) s = Act.run (k ()) (if n = 0 then s else s.count f n) := by
  unfold bumpBy; by_cases h : n = 0 <;> simp [h] <;> rfl
@[simp] theorem run_latch (e : Ev) (k : Unit → Act) (s : State) : Act.run (latch e k) s = Act.run (k ()) (s.latching e) := Eq.trans rfl rfl
@[simp] theorem run_emit (m : OutMsg) (k : Unit → Act) (s : State) : Act.run (emit m k) s = Act.run (k ()) (s.says m) := Eq.trans rfl rfl
@[simp] theorem run_faultEv (t : Trouble) (k : Unit → Act) (s : State) :
    Act.run (faultEv t k) s = Act.run (k ()) (s.faulting t) := Eq.trans rfl rfl
@[simp] theorem run_faultCore (n kind code unit d32 addr detail : Nat) (k : Unit → Act) (s : State) :
    Act.run (faultCore n kind code unit d32 addr detail k) s
      = Act.run (k ()) (s.faulting (troubleOf s n kind code unit d32 addr detail)) := Eq.trans rfl rfl
@[simp] theorem run_faultCtxAs (c kind code unit d32 addr detail : Nat) (k : Unit → Act) (s : State) :
    Act.run (faultCtxAs c kind code unit d32 addr detail k) s
      = Act.run (k ()) (s.faulting ⟨kind, code, c, 0xFF, unit, none, d32, addr, detail⟩) := Eq.trans rfl rfl
@[simp] theorem run_refuseAt (a g : Nat) (k : Unit → Act) (s : State) :
    Act.run (refuseAt a g k) s = Act.run (k ()) (s.refused a g) := Eq.trans rfl rfl
@[simp] theorem run_withErrs (errs : List LineErr) (m : M Unit) (k : Unit → Act) (s : State) :
    Act.run (withErrs errs m k) s = Act.run (m (fun _ => modLineErrs (fun _ => []) k)) (s.putLineErrs (fun _ => errs)) := Eq.trans rfl rfl

/-- With no record taken nothing is written when the meaning ends. -/
theorem run_flush (k : Unit → Act) (s : State) (h : s.trPend = []) :
    Act.run (flushRecords k) s = Act.run (k ()) s := by
  unfold flushRecords
  simp only [run_bind, run_getS, h, run_each_nil, run_modTrPend]
  congr 1
  cases s
  simp_all [State.putTrPend]

end Sys2Proof.Machine
end

