-- ==== Sys2Proof/Laws/Touch.lean ====
section
/-!
SUPPORT. Laws/Touch.lean: the parts of a state that each command may change, one lemma each, by the numbers of
Laws/Keep.lean.
-/

namespace Sys2Proof.Machine

theorem touch_registerWrite (who : Who) (addr : Nat) (size : Nat) (data : Nat) (s : State) : ∃ t, SameBut 0x233f3c8f s t ∧ execRegisterWrite who addr size data s = .next t := by
  delta execRegisterWrite
  refine Keep.meaning (n := 0x233f3c8f) (Keep.bind ?_ fun _ => Keep.mono (keep_flushRecords ..) rfl) _
  exact Keep.mono (keep_regRow ..) rfl

theorem touch_readClearField (who : Who) (addr : Nat) (size : Nat) (s : State) : ∃ t, SameBut 0x233f3c8f s t ∧ execReadClearField who addr size s = .next t := by
  delta execReadClearField
  refine Keep.meaning (n := 0x233f3c8f) (Keep.bind ?_ fun _ => Keep.mono (keep_flushRecords ..) rfl) _
  exact Keep.mono (keep_regRow ..) rfl

theorem touch_tickEdge (i : TickInput) (s : State) : ∃ t, SameBut 0x3fff3fff s t ∧ execTickEdge i s = .next t := by
  delta execTickEdge
  refine Keep.meaning (n := 0x3fff3fff) (Keep.bind ?_ fun _ => Keep.mono (keep_flushRecords ..) rfl) _
  exact Keep.mono (keep_tickEdge ..) rfl

theorem touch_holdoverEntry (s : State) : ∃ t, SameBut 0x42 s t ∧ execHoldoverEntry s = .next t := by
  delta execHoldoverEntry
  refine Keep.meaning (n := 0x42) ?_ _
  refine Keep.bind ?_ fun _ => ?_
  · exact Keep.getS _
  · refine Keep.when' ?_
    exact Keep.mono (keep_enterHoldover ..) rfl

theorem touch_holdoverLimitExceeded (s : State) : ∃ t, SameBut 0x202f204f s t ∧ execHoldoverLimitExceeded s = .next t := by
  delta execHoldoverLimitExceeded
  refine Keep.meaning (n := 0x202f204f) (Keep.bind ?_ fun _ => Keep.mono (keep_flushRecords ..) rfl) _
  exact Keep.mono (keep_holdExceeds ..) rfl

theorem touch_upstreamTickReturn (back : TickBack) (s : State) : ∃ t, SameBut 0x202f204f s t ∧ execUpstreamTickReturn back s = .next t := by
  delta execUpstreamTickReturn
  refine Keep.meaning (n := 0x202f204f) (Keep.bind ?_ fun _ => Keep.mono (keep_flushRecords ..) rfl) _
  refine Keep.bind ?_ fun _ => ?_
  · exact Keep.getS _
  · refine Keep.ite ?_ ?_
    · refine Keep.ite ?_ ?_
      · refine Keep.bind ?_ fun _ => ?_
        · exact Keep.mono (keep_setReg ..) rfl
        · refine Keep.ite ?_ ?_
          · exact Keep.mono (keep_relock ..) rfl
          · exact Keep.mono (keep_modTime ..) rfl
      · refine Keep.bind ?_ fun _ => ?_
        · exact Keep.mono (keep_flag ..) rfl
        · refine Keep.bind ?_ fun _ => ?_
          · exact Keep.mono (keep_modTime ..) rfl
          · exact Keep.mono (keep_tickRecord ..) rfl
    · exact Keep.pure _ _

theorem touch_ptpLockGained (s : State) : ∃ t, SameBut 0x2 s t ∧ execPtpLockGained s = .next t := by
  delta execPtpLockGained
  refine Keep.meaning (n := 0x2) ?_ _
  exact Keep.mono (keep_setFld ..) rfl

theorem touch_passPush (ox : Fin 256) (w3 : Nat) (s : State) : ∃ t, SameBut 0x10402 s t ∧ execPassPush ox w3 s = .next t := by
  delta execPassPush
  refine Keep.meaning (n := 0x10402) ?_ _
  refine keep_atOx (hs := rfl) (h := ?_) ..
  exact Keep.mono (keep_passWrite ..) rfl

theorem touch_passHeadCheck (ox : Fin 256) (s : State) : ∃ t, SameBut 0x482 s t ∧ execPassHeadCheck ox s = .next t := by
  delta execPassHeadCheck
  refine Keep.meaning (n := 0x482) ?_ _
  refine Keep.bind ?_ fun _ => ?_
  · exact Keep.getS _
  · split
    · refine Keep.ite ?_ ?_
      · refine Keep.bind ?_ fun _ => ?_
        · exact Keep.mono (keep_checkHead ..) rfl
        · exact Keep.pure _ _
      · exact Keep.pure _ _
    · exact Keep.pure _ _

theorem touch_segmentBegin (core : Fin 64) (ready : Bool) (s : State) : ∃ t, SameBut 0xc82 s t ∧ execSegmentBegin core ready s = .next t := by
  delta execSegmentBegin
  refine Keep.meaning (n := 0xc82) ?_ _
  exact Keep.mono (keep_segmentBegin ..) rfl

theorem touch_passStart (ox : Fin 256) (bubble : Nat) (s : State) : ∃ t, SameBut 0xc82 s t ∧ execPassStart ox bubble s = .next t := by
  delta execPassStart
  refine Keep.meaning (n := 0xc82) ?_ _
  exact Keep.mono (keep_startPass ..) rfl

theorem touch_yokeRowIssue (core : Fin 64) (issue : Bool) (hold : Nat) (s : State) : ∃ t, SameBut 0xc82 s t ∧ execYokeRowIssue core issue hold s = .next t := by
  delta execYokeRowIssue
  refine Keep.meaning (n := 0xc82) ?_ _
  exact Keep.mono (keep_yokeCycle ..) rfl

theorem touch_oxAttach (ox : Fin 256) (s : State) : ∃ t, SameBut 0x400 s t ∧ execOxAttach ox s = .next t := by
  delta execOxAttach
  refine Keep.meaning (n := 0x400) ?_ _
  exact Keep.mono (keep_attach ..) rfl

theorem touch_passComplete (ox : Fin 256) (s : State) : ∃ t, SameBut 0xc9e s t ∧ execPassComplete ox s = .next t := by
  delta execPassComplete
  refine Keep.meaning (n := 0xc9e) ?_ _
  exact Keep.mono (keep_completePass ..) rfl

theorem touch_oxFence (ox : Fin 256) (s : State) : ∃ t, SameBut 0x110c8f s t ∧ execOxFence ox s = .next t := by
  delta execOxFence
  refine Keep.meaning (n := 0x110c8f) ?_ _
  refine keep_atOx (hs := rfl) (h := ?_) ..
  exact Keep.mono (keep_fenceOx ..) rfl

theorem touch_fenceLift (ox : Fin 256) (s : State) : ∃ t, SameBut 0x10002 s t ∧ execFenceLift ox s = .next t := by
  delta execFenceLift
  refine Keep.meaning (n := 0x10002) ?_ _
  refine keep_atOx (hs := rfl) (h := ?_) ..
  exact Keep.mono (keep_setFld ..) rfl

theorem touch_ctxStepParamsWrite (ctx : Fin 16) (which : Fin 4) (data : Nat) (s : State) : ∃ t, SameBut 0x2 s t ∧ execCtxStepParamsWrite ctx which data s = .next t := by
  delta execCtxStepParamsWrite
  refine Keep.meaning (n := 0x2) ?_ _
  exact Keep.mono (keep_stepWrite ..) rfl

theorem touch_drainEncode (core : Fin 64) (errs : List LineErr) (s : State) : ∃ t, SameBut 0x21af3e8f s t ∧ execDrainEncode core errs s = .next t := by
  delta execDrainEncode
  refine Keep.meaning (n := 0x21af3e8f) (Keep.bind ?_ fun _ => Keep.mono (keep_flushRecords ..) rfl) _
  refine keep_withErrs (hs := rfl) (h := ?_) ..
  exact Keep.mono (keep_startOf ..) rfl

theorem touch_mergedRecordReread (core : Fin 64) (errs : List LineErr) (s : State) : ∃ t, SameBut 0x21af3e8f s t ∧ execMergedRecordReread core errs s = .next t := by
  delta execMergedRecordReread
  refine Keep.meaning (n := 0x21af3e8f) (Keep.bind ?_ fun _ => Keep.mono (keep_flushRecords ..) rfl) _
  refine keep_withErrs (hs := rfl) (h := ?_) ..
  dsimp only
  refine Keep.bind ?_ fun _ => ?_
  · exact Keep.getS _
  · refine Keep.each fun _ => ?_
    refine Keep.bind ?_ fun _ => ?_
    · exact Keep.mono (keep_startTile ..) rfl
    · refine Keep.ite ?_ ?_
      · refine Keep.bind ?_ fun _ => ?_
        · exact Keep.getS _
        · exact Keep.mono (keep_bump ..) rfl
      · exact Keep.pure _ _

theorem touch_muleTileStart (core : Fin 64) (errs : List LineErr) (s : State) : ∃ t, SameBut 0x21af3e8f s t ∧ execMuleTileStart core errs s = .next t := by
  delta execMuleTileStart
  refine Keep.meaning (n := 0x21af3e8f) (Keep.bind ?_ fun _ => Keep.mono (keep_flushRecords ..) rfl) _
  refine keep_withErrs (hs := rfl) (h := ?_) ..
  exact Keep.mono (keep_startOf ..) rfl

theorem touch_muleProgWrite (core : Fin 64) (off : Nat) (data : Nat) (s : State) : ∃ t, SameBut 0x10802 s t ∧ execMuleProgWrite core off data s = .next t := by
  delta execMuleProgWrite
  refine Keep.meaning (n := 0x10802) ?_ _
  dsimp only
  refine Keep.ite ?_ ?_
  · refine keep_atCore (hs := rfl) (h := ?_) ..
    exact Keep.mono (keep_muleWrite ..) rfl
  · exact Keep.pure _ _

theorem touch_reduceTile (core : Fin 64) (s : State) : ∃ t, SameBut 0x21af3c8f s t ∧ execReduceTile core s = .next t := by
  delta execReduceTile
  refine Keep.meaning (n := 0x21af3c8f) (Keep.bind ?_ fun _ => Keep.mono (keep_flushRecords ..) rfl) _
  exact Keep.mono (keep_startOf ..) rfl

theorem touch_sramWindowAccess (who : Who) (addr : Nat) (len : Nat) (data : Option (List Byte)) (s : State) : ∃ t, SameBut 0x202f288f s t ∧ execSramWindowAccess who addr len data s = .next t := by
  delta execSramWindowAccess
  refine Keep.meaning (n := 0x202f288f) (Keep.bind ?_ fun _ => Keep.mono (keep_flushRecords ..) rfl) _
  refine Keep.bind ?_ fun _ => ?_
  · exact Keep.getS _
  · split
    · exact Keep.mono (keep_winAccess ..) rfl
    · exact Keep.mono (keep_notDone ..) rfl
    · exact Keep.pure _ _

theorem touch_bankPowerRequest (core : Fin 64) (bank : Fin 12) (target : Fin 4) (s : State) : ∃ t, SameBut 0x20110c8e s t ∧ execBankPowerRequest core bank target s = .next t := by
  delta execBankPowerRequest
  refine Keep.meaning (n := 0x20110c8e) ?_ _
  refine keep_atCore (hs := rfl) (h := ?_) ..
  exact Keep.mono (keep_bankWriteReq ..) rfl

theorem touch_bankTransitionComplete (core : Fin 64) (bank : Fin 12) (s : State) : ∃ t, SameBut 0x20010c9e s t ∧ execBankTransitionComplete core bank s = .next t := by
  delta execBankTransitionComplete
  refine Keep.meaning (n := 0x20010c9e) ?_ _
  exact Keep.mono (keep_bankComplete ..) rfl

theorem touch_bankRetire (core : Fin 64) (bank : Fin 12) (s : State) : ∃ t, SameBut 0x20110c8e s t ∧ execBankRetire core bank s = .next t := by
  delta execBankRetire
  refine Keep.meaning (n := 0x20110c8e) ?_ _
  refine keep_atCore (hs := rfl) (h := ?_) ..
  exact Keep.mono (keep_bankWriteReq ..) rfl

theorem touch_bankBind (core : Fin 64) (slot : Fin 16) (s : State) : ∃ t, SameBut 0x202f288f s t ∧ execBankBind core slot s = .next t := by
  delta execBankBind
  refine Keep.meaning (n := 0x202f288f) (Keep.bind ?_ fun _ => Keep.mono (keep_flushRecords ..) rfl) _
  exact Keep.mono (keep_bindTry ..) rfl

theorem touch_streamProgramStart (core : Fin 64) (errs : List LineErr) (s : State) : ∃ t, SameBut 0x202f2a8f s t ∧ execStreamProgramStart core errs s = .next t := by
  delta execStreamProgramStart
  refine Keep.meaning (n := 0x202f2a8f) (Keep.bind ?_ fun _ => Keep.mono (keep_flushRecords ..) rfl) _
  refine keep_withErrs (hs := rfl) (h := ?_) ..
  exact Keep.mono (keep_programStart ..) rfl

theorem touch_stationTileStart (core : Fin 64) (slot : Fin 16) (errs : List LineErr) (s : State) : ∃ t, SameBut 0x21af3e8f s t ∧ execStationTileStart core slot errs s = .next t := by
  delta execStationTileStart
  refine Keep.meaning (n := 0x21af3e8f) (Keep.bind ?_ fun _ => Keep.mono (keep_flushRecords ..) rfl) _
  refine keep_withErrs (hs := rfl) (h := ?_) ..
  refine Keep.bind ?_ fun _ => ?_
  · exact Keep.mono (keep_startTile ..) rfl
  · exact Keep.pure _ _

theorem touch_tileEventComplete (core : Fin 64) (slot : Fin 16) (event : Bool) (s : State) : ∃ t, SameBut 0x202f2c8f s t ∧ execTileEventComplete core slot event s = .next t := by
  delta execTileEventComplete
  refine Keep.meaning (n := 0x202f2c8f) (Keep.bind ?_ fun _ => Keep.mono (keep_flushRecords ..) rfl) _
  exact Keep.mono (keep_tileEvent ..) rfl

theorem touch_hcAdd (core : Fin 64) (hc : Fin 16) (add : Nat) (s : State) : ∃ t, SameBut 0x10002 s t ∧ execHcAdd core hc add s = .next t := by
  delta execHcAdd
  refine Keep.meaning (n := 0x10002) ?_ _
  refine keep_atCore (hs := rfl) (h := ?_) ..
  exact Keep.mono (keep_hcAddWrite ..) rfl

theorem touch_exchange (core : Fin 64) (pair : Bool) (s : State) : ∃ t, SameBut 0x802 s t ∧ execExchange core pair s = .next t := by
  delta execExchange
  refine Keep.meaning (n := 0x802) ?_ _
  dsimp only
  refine Keep.bind ?_ fun _ => ?_
  · exact Keep.getS _
  · split
    · refine Keep.ite ?_ ?_
      · refine Keep.bind ?_ fun _ => ?_
        · exact Keep.mono (keep_setBind ..) rfl
        · refine Keep.bind ?_ fun _ => ?_
          · exact Keep.mono (keep_setBind ..) rfl
          · refine Keep.bind ?_ fun _ => ?_
            · exact Keep.mono (keep_modStream ..) rfl
            · exact Keep.mono (keep_modStream ..) rfl
      · exact Keep.pure _ _
    · exact Keep.pure _ _

theorem touch_streamProgramEnd (core : Fin 64) (s : State) : ∃ t, SameBut 0x202f288f s t ∧ execStreamProgramEnd core s = .next t := by
  delta execStreamProgramEnd
  refine Keep.meaning (n := 0x202f288f) (Keep.bind ?_ fun _ => Keep.mono (keep_flushRecords ..) rfl) _
  dsimp only
  refine Keep.bind ?_ fun _ => ?_
  · exact Keep.mono (keep_drainStats ..) rfl
  · refine Keep.bind ?_ fun _ => ?_
    · exact Keep.getS _
    · refine Keep.when' ?_
      refine Keep.bind ?_ fun _ => ?_
      · exact Keep.mono (keep_programEnd ..) rfl
      · refine Keep.bind ?_ fun _ => ?_
        · exact Keep.mono (keep_modCore ..) rfl
        · exact Keep.mono (keep_latch ..) rfl

theorem touch_collieHandoff (core : Fin 64) (slot : Fin 16) (s : State) : ∃ t, SameBut 0x21af3c8f s t ∧ execCollieHandoff core slot s = .next t := by
  delta execCollieHandoff
  refine Keep.meaning (n := 0x21af3c8f) (Keep.bind ?_ fun _ => Keep.mono (keep_flushRecords ..) rfl) _
  refine Keep.bind ?_ fun _ => ?_
  · exact Keep.getS _
  · refine Keep.when' ?_
    refine Keep.bind ?_ fun _ => ?_
    · exact Keep.mono (keep_startTile ..) rfl
    · exact Keep.pure _ _

theorem touch_cqRead (core : Fin 64) (collie : Bool) (s : State) : ∃ t, SameBut 0x10802 s t ∧ execCqRead core collie s = .next t := by
  delta execCqRead
  refine Keep.meaning (n := 0x10802) ?_ _
  dsimp only
  refine keep_atCore (hs := rfl) (h := ?_) ..
  refine Keep.bind ?_ fun _ => ?_
  · exact Keep.mono (keep_cqRead ..) rfl
  · exact Keep.mono (keep_emit ..) rfl

theorem touch_cdone (core : Fin 64) (collie : Bool) (slot : Fin 16) (s : State) : ∃ t, SameBut 0x10802 s t ∧ execCdone core collie slot s = .next t := by
  delta execCdone
  refine Keep.meaning (n := 0x10802) ?_ _
  refine keep_atCore (hs := rfl) (h := ?_) ..
  exact Keep.mono (keep_cdoneWrite ..) rfl

theorem touch_startCmd (ctx : Fin 16) (s : State) : ∃ t, SameBut 0x212f3ddf s t ∧ execStartCmd ctx s = .next t := by
  delta execStartCmd
  refine Keep.meaning (n := 0x212f3ddf) (Keep.bind ?_ fun _ => Keep.mono (keep_flushRecords ..) rfl) _
  exact Keep.mono (keep_ctxCommand ..) rfl

theorem touch_holdCmd (ctx : Fin 16) (s : State) : ∃ t, SameBut 0x212f3ddf s t ∧ execHoldCmd ctx s = .next t := by
  delta execHoldCmd
  refine Keep.meaning (n := 0x212f3ddf) (Keep.bind ?_ fun _ => Keep.mono (keep_flushRecords ..) rfl) _
  exact Keep.mono (keep_ctxCommand ..) rfl

theorem touch_save (ctx : Fin 16) (s : State) : ∃ t, SameBut 0x212f3ddf s t ∧ execSave ctx s = .next t := by
  delta execSave
  refine Keep.meaning (n := 0x212f3ddf) (Keep.bind ?_ fun _ => Keep.mono (keep_flushRecords ..) rfl) _
  exact Keep.mono (keep_ctxCommand ..) rfl

theorem touch_restore (ctx : Fin 16) (errs : List LineErr) (s : State) : ∃ t, SameBut 0x212f3fdf s t ∧ execRestore ctx errs s = .next t := by
  delta execRestore
  refine Keep.meaning (n := 0x212f3fdf) (Keep.bind ?_ fun _ => Keep.mono (keep_flushRecords ..) rfl) _
  refine keep_withErrs (hs := rfl) (h := ?_) ..
  exact Keep.mono (keep_ctxCommand ..) rfl

theorem touch_kill (ctx : Fin 16) (wipe : Bool) (s : State) : ∃ t, SameBut 0x212f3ddf s t ∧ execKill ctx wipe s = .next t := by
  delta execKill
  refine Keep.meaning (n := 0x212f3ddf) (Keep.bind ?_ fun _ => Keep.mono (keep_flushRecords ..) rfl) _
  exact Keep.mono (keep_ctxCommand ..) rfl

theorem touch_flushXlate (ctx : Fin 16) (s : State) : ∃ t, SameBut 0x212f3ddf s t ∧ execFlushXlate ctx s = .next t := by
  delta execFlushXlate
  refine Keep.meaning (n := 0x212f3ddf) (Keep.bind ?_ fun _ => Keep.mono (keep_flushRecords ..) rfl) _
  exact Keep.mono (keep_ctxCommand ..) rfl

theorem touch_coresWrite (ctx : Fin 16) (which : Fin 3) (data : Nat) (s : State) : ∃ t, SameBut 0x2 s t ∧ execCoresWrite ctx which data s = .next t := by
  delta execCoresWrite
  refine Keep.meaning (n := 0x2) ?_ _
  exact Keep.mono (keep_coresWrite ..) rfl

theorem touch_penWrite (ctx : Fin 16) (pen : Fin 3) (data : Nat) (s : State) : ∃ t, SameBut 0x2 s t ∧ execPenWrite ctx pen data s = .next t := by
  delta execPenWrite
  refine Keep.meaning (n := 0x2) ?_ _
  exact Keep.mono (keep_penWrite ..) rfl

theorem touch_rosterCfgWrite (ctx : Fin 16) (roster : Fin 8) (data : Nat) (s : State) : ∃ t, SameBut 0x1002 s t ∧ execRosterCfgWrite ctx roster data s = .next t := by
  delta execRosterCfgWrite
  refine Keep.meaning (n := 0x1002) ?_ _
  exact Keep.mono (keep_rosterCfgWrite ..) rfl

theorem touch_rosterPubSample (ctx : Fin 16) (roster : Fin 8) (errs : List LineErr) (s : State) : ∃ t, SameBut 0x202f3acf s t ∧ execRosterPubSample ctx roster errs s = .next t := by
  delta execRosterPubSample
  refine Keep.meaning (n := 0x202f3acf) (Keep.bind ?_ fun _ => Keep.mono (keep_flushRecords ..) rfl) _
  refine keep_withErrs (hs := rfl) (h := ?_) ..
  exact Keep.mono (keep_rosterSample ..) rfl

theorem touch_entryFetch (ctx : Fin 16) (roster : Fin 8) (errs : List LineErr) (s : State) : ∃ t, SameBut 0x202f3a8f s t ∧ execEntryFetch ctx roster errs s = .next t := by
  delta execEntryFetch
  refine Keep.meaning (n := 0x202f3a8f) (Keep.bind ?_ fun _ => Keep.mono (keep_flushRecords ..) rfl) _
  refine keep_withErrs (hs := rfl) (h := ?_) ..
  exact Keep.mono (keep_fetchHead ..) rfl

theorem touch_taskCompletion (core : Fin 64) (s : State) : ∃ t, SameBut 0x202f38cf s t ∧ execTaskCompletion core s = .next t := by
  delta execTaskCompletion
  refine Keep.meaning (n := 0x202f38cf) (Keep.bind ?_ fun _ => Keep.mono (keep_flushRecords ..) rfl) _
  refine Keep.bind ?_ fun _ => ?_
  · exact Keep.getS _
  · refine Keep.when' ?_
    refine Keep.bind ?_ fun _ => ?_
    · exact Keep.mono (keep_modLatched ..) rfl
    · refine Keep.bind ?_ fun _ => ?_
      · exact Keep.mono (keep_noteRank ..) rfl
      · exact Keep.mono (keep_completeTask ..) rfl

theorem touch_coreStoppedForSave (core : Fin 64) (s : State) : ∃ t, SameBut 0x212f388f s t ∧ execCoreStoppedForSave core s = .next t := by
  delta execCoreStoppedForSave
  refine Keep.meaning (n := 0x212f388f) (Keep.bind ?_ fun _ => Keep.mono (keep_flushRecords ..) rfl) _
  exact Keep.mono (keep_coreStops ..) rfl

theorem touch_saveComplete (ctx : Fin 16) (s : State) : ∃ t, SameBut 0x203f3cdf s t ∧ execSaveComplete ctx s = .next t := by
  delta execSaveComplete
  refine Keep.meaning (n := 0x203f3cdf) (Keep.bind ?_ fun _ => Keep.mono (keep_flushRecords ..) rfl) _
  exact Keep.mono (keep_saveCompletes ..) rfl

theorem touch_saveStopTimeout (ctx : Fin 16) (s : State) : ∃ t, SameBut 0x21ff3ddf s t ∧ execSaveStopTimeout ctx s = .next t := by
  delta execSaveStopTimeout
  refine Keep.meaning (n := 0x21ff3ddf) (Keep.bind ?_ fun _ => Keep.mono (keep_flushRecords ..) rfl) _
  exact Keep.mono (keep_saveTimesOut ..) rfl

theorem touch_restoreComplete (ctx : Fin 16) (s : State) : ∃ t, SameBut 0x203f3cdf s t ∧ execRestoreComplete ctx s = .next t := by
  delta execRestoreComplete
  refine Keep.meaning (n := 0x203f3cdf) (Keep.bind ?_ fun _ => Keep.mono (keep_flushRecords ..) rfl) _
  exact Keep.mono (keep_restoreCompletes ..) rfl

theorem touch_pageWalk (core : Fin 64) (ctx : Fin 16) (va : Nat) (write : Bool) (errs : List LineErr) (s : State) : ∃ t, SameBut 0x202f2a8f s t ∧ execPageWalk core ctx va write errs s = .next t := by
  delta execPageWalk
  refine Keep.meaning (n := 0x202f2a8f) (Keep.bind ?_ fun _ => Keep.mono (keep_flushRecords ..) rfl) _
  refine keep_withErrs (hs := rfl) (h := ?_) ..
  refine Keep.bind ?_ fun _ => ?_
  · exact Keep.getS _
  · exact Keep.mono (keep_walkFor ..) rfl

theorem touch_sentinelRound (s : State) : ∃ t, SameBut 0x2 s t ∧ execSentinelRound s = .next t := by
  delta execSentinelRound
  refine Keep.meaning (n := 0x2) ?_ _
  refine Keep.bind ?_ fun _ => ?_
  · exact Keep.getS _
  · refine Keep.when' ?_
    exact Keep.mono (keep_beginRound ..) rfl

theorem touch_sentinelPass (core : Fin 64) (s : State) : ∃ t, SameBut 0x802 s t ∧ execSentinelPass core s = .next t := by
  delta execSentinelPass
  refine Keep.meaning (n := 0x802) ?_ _
  exact Keep.mono (keep_beginPass ..) rfl

theorem touch_sentinelCompletion (core : Fin 64) (defects : List (Fin 4 × Nat)) (s : State) : ∃ t, SameBut 0x203f2ccf s t ∧ execSentinelCompletion core defects s = .next t := by
  delta execSentinelCompletion
  refine Keep.meaning (n := 0x203f2ccf) (Keep.bind ?_ fun _ => Keep.mono (keep_flushRecords ..) rfl) _
  exact Keep.mono (keep_sentDone ..) rfl

theorem touch_sentStateClear (ox : Fin 256) (s : State) : ∃ t, SameBut 0x2 s t ∧ execSentStateClear ox s = .next t := by
  delta execSentStateClear
  refine Keep.meaning (n := 0x2) ?_ _
  exact Keep.mono (keep_setFld ..) rfl

theorem touch_hbmRead (req : Fin 73) (cls : Fin 4) (addr : Nat) (via : ReadVia) (errs : List LineErr) (s : State) : ∃ t, SameBut 0x202f3a8f s t ∧ execHbmRead req cls addr via errs s = .next t := by
  delta execHbmRead
  refine Keep.meaning (n := 0x202f3a8f) (Keep.bind ?_ fun _ => Keep.mono (keep_flushRecords ..) rfl) _
  refine keep_withErrs (hs := rfl) (h := ?_) ..
  dsimp only
  split
  · refine keep_submit (hs := rfl) (h := ?_) ..
    exact Keep.mono (keep_readReq ..) rfl
  · refine Keep.ite ?_ ?_
    · exact Keep.mono (keep_readCtxReq ..) rfl
    · refine keep_submit (hs := rfl) (h := ?_) ..
      exact Keep.mono (keep_readReq ..) rfl
  · refine Keep.ite ?_ ?_
    · exact Keep.mono (keep_readLoadReq ..) rfl
    · refine keep_submit (hs := rfl) (h := ?_) ..
      exact Keep.mono (keep_readReq ..) rfl

theorem touch_fullLineWrite (req : Fin 73) (addr : Nat) (data : Nat) (poison : Bool) (s : State) : ∃ t, SameBut 0x202f208f s t ∧ execFullLineWrite req addr data poison s = .next t := by
  delta execFullLineWrite
  refine Keep.meaning (n := 0x202f208f) (Keep.bind ?_ fun _ => Keep.mono (keep_flushRecords ..) rfl) _
  exact Keep.mono (keep_writeReq ..) rfl

theorem touch_partialWrite (req : Fin 73) (addr : Nat) (data : Nat) (mask : Nat) (poison : Bool) (errs : List LineErr) (s : State) : ∃ t, SameBut 0x202f228f s t ∧ execPartialWrite req addr data mask poison errs s = .next t := by
  delta execPartialWrite
  refine Keep.meaning (n := 0x202f228f) (Keep.bind ?_ fun _ => Keep.mono (keep_flushRecords ..) rfl) _
  refine keep_withErrs (hs := rfl) (h := ?_) ..
  refine Keep.when' ?_
  exact Keep.mono (keep_writeReq ..) rfl

theorem touch_wcbEntryComplete (stack : Fin 12) (line : Nat) (errs : List LineErr) (s : State) : ∃ t, SameBut 0x220f s t ∧ execWcbEntryComplete stack line errs s = .next t := by
  delta execWcbEntryComplete
  refine Keep.meaning (n := 0x220f) ?_ _
  refine keep_withErrs (hs := rfl) (h := ?_) ..
  exact Keep.mono (keep_completeLine ..) rfl

theorem touch_fence (req : Fin 73) (errs : List LineErr) (s : State) : ∃ t, SameBut 0x220f s t ∧ execFence req errs s = .next t := by
  delta execFence
  refine Keep.meaning (n := 0x220f) ?_ _
  refine keep_withErrs (hs := rfl) (h := ?_) ..
  exact Keep.mono (keep_fenceOf ..) rfl

theorem touch_class0Window (stack : Fin 12) (pc : Fin 64) (s : State) : ∃ t, SameBut 0x202f208f s t ∧ execClass0Window stack pc s = .next t := by
  delta execClass0Window
  refine Keep.meaning (n := 0x202f208f) (Keep.bind ?_ fun _ => Keep.mono (keep_flushRecords ..) rfl) _
  exact Keep.mono (keep_openWindow ..) rfl

theorem touch_requestAged (stack : Fin 12) (s : State) : ∃ t, SameBut 0x2002 s t ∧ execRequestAged stack s = .next t := by
  delta execRequestAged
  refine Keep.meaning (n := 0x2002) ?_ _
  refine Keep.bind ?_ fun _ => ?_
  · exact Keep.getS _
  · refine Keep.when' ?_
    refine Keep.bind ?_ fun _ => ?_
    · exact Keep.mono (keep_bump ..) rfl
    · exact Keep.mono (keep_modStack ..) rfl

theorem touch_hbmTraining (stack : Fin 12) (redundant : Nat) (fails : List (Fin 32 × Nat)) (untrained : List (Fin 32)) (s : State) : ∃ t, SameBut 0x2806 s t ∧ execHbmTraining stack redundant fails untrained s = .next t := by
  delta execHbmTraining
  refine Keep.meaning (n := 0x2806) ?_ _
  exact Keep.mono (keep_hbmTrained ..) rfl

theorem touch_maintEnter (who : Who) (stack : Fin 12) (s : State) : ∃ t, SameBut 0x2002 s t ∧ execMaintEnter who stack s = .next t := by
  delta execMaintEnter
  refine Keep.meaning (n := 0x2002) ?_ _
  exact Keep.mono (keep_maintEnter ..) rfl

theorem touch_maintExit (who : Who) (stack : Fin 12) (s : State) : ∃ t, SameBut 0x2002 s t ∧ execMaintExit who stack s = .next t := by
  delta execMaintExit
  refine Keep.meaning (n := 0x2002) ?_ _
  exact Keep.mono (keep_maintExit ..) rfl

theorem touch_mrRead (who : Who) (stack : Fin 12) (ch : Fin 32) (pc : Bool) (s : State) : ∃ t, SameBut 0x112003 s t ∧ execMrRead who stack ch pc s = .next t := by
  delta execMrRead
  refine Keep.meaning (n := 0x112003) ?_ _
  exact Keep.mono (keep_maintOp ..) rfl

theorem touch_mrWrite (who : Who) (stack : Fin 12) (ch : Fin 32) (pc : Bool) (s : State) : ∃ t, SameBut 0x112003 s t ∧ execMrWrite who stack ch pc s = .next t := by
  delta execMrWrite
  refine Keep.meaning (n := 0x112003) ?_ _
  exact Keep.mono (keep_maintOp ..) rfl

theorem touch_softPpr (who : Who) (stack : Fin 12) (ch : Fin 32) (pc : Bool) (s : State) : ∃ t, SameBut 0x112003 s t ∧ execSoftPpr who stack ch pc s = .next t := by
  delta execSoftPpr
  refine Keep.meaning (n := 0x112003) ?_ _
  exact Keep.mono (keep_maintOp ..) rfl

theorem touch_hardPpr (who : Who) (stack : Fin 12) (ch : Fin 32) (pc : Bool) (s : State) : ∃ t, SameBut 0x112003 s t ∧ execHardPpr who stack ch pc s = .next t := by
  delta execHardPpr
  refine Keep.meaning (n := 0x112003) ?_ _
  exact Keep.mono (keep_maintOp ..) rfl

theorem touch_softPprUndo (who : Who) (stack : Fin 12) (ch : Fin 32) (pc : Bool) (s : State) : ∃ t, SameBut 0x112003 s t ∧ execSoftPprUndo who stack ch pc s = .next t := by
  delta execSoftPprUndo
  refine Keep.meaning (n := 0x112003) ?_ _
  exact Keep.mono (keep_maintOp ..) rfl

theorem touch_mbist (who : Who) (stack : Fin 12) (ch : Fin 32) (pc : Bool) (rows : List Nat) (s : State) : ∃ t, SameBut 0x112003 s t ∧ execMbist who stack ch pc rows s = .next t := by
  delta execMbist
  refine Keep.meaning (n := 0x112003) ?_ _
  exact Keep.mono (keep_maintOp ..) rfl

theorem touch_ieee1500 (who : Who) (stack : Fin 12) (ch : Fin 32) (pc : Bool) (s : State) : ∃ t, SameBut 0x112003 s t ∧ execIeee1500 who stack ch pc s = .next t := by
  delta execIeee1500
  refine Keep.meaning (n := 0x112003) ?_ _
  exact Keep.mono (keep_maintOp ..) rfl

theorem touch_cxlTraining (port : Fin 8) (width : Nat) (rate : Fin 3) (cap : Nat) (s : State) : ∃ t, SameBut 0x806 s t ∧ execCxlTraining port width rate cap s = .next t := by
  delta execCxlTraining
  refine Keep.meaning (n := 0x806) ?_ _
  refine Keep.bind ?_ fun _ => ?_
  · exact Keep.getS _
  · refine Keep.ite ?_ ?_
    · refine Keep.bind ?_ fun _ => ?_
      · exact Keep.mono (keep_setFld ..) rfl
      · refine Keep.bind ?_ fun _ => ?_
        · exact Keep.mono (keep_cxlUp ..) rfl
        · exact Keep.mono (keep_startTry ..) rfl
    · exact Keep.pure _ _

theorem touch_deepAccess (req : Fin 73) (ctx : Option (Fin 16)) (addr : Nat) (va : Nat) (leaf2 : Bool) (data : Option (Nat × Nat)) (reply : Option Nat) (errs : List LineErr) (s : State) : ∃ t, SameBut 0x202f228f s t ∧ execDeepAccess req ctx addr va leaf2 data reply errs s = .next t := by
  delta execDeepAccess
  refine Keep.meaning (n := 0x202f228f) (Keep.bind ?_ fun _ => Keep.mono (keep_flushRecords ..) rfl) _
  refine keep_withErrs (hs := rfl) (h := ?_) ..
  exact Keep.mono (keep_deepAccess ..) rfl

theorem touch_heatEpoch (s : State) : ∃ t, SameBut 0x40000 s t ∧ execHeatEpoch s = .next t := by
  delta execHeatEpoch
  refine Keep.meaning (n := 0x40000) ?_ _
  refine Keep.bind ?_ fun _ => ?_
  · exact Keep.getS _
  · refine Keep.when' ?_
    exact Keep.mono (keep_halveHeat ..) rfl

theorem touch_promote (who : Who) (page : Nat) (count : Fin 4096) (s : State) : ∃ t, SameBut 0x40002 s t ∧ execPromote who page count s = .next t := by
  delta execPromote
  refine Keep.meaning (n := 0x40002) ?_ _
  exact Keep.mono (keep_hintWrite ..) rfl

theorem touch_evict (who : Who) (page : Nat) (count : Fin 4096) (s : State) : ∃ t, SameBut 0x40002 s t ∧ execEvict who page count s = .next t := by
  delta execEvict
  refine Keep.meaning (n := 0x40002) ?_ _
  exact Keep.mono (keep_hintWrite ..) rfl

theorem touch_pin (who : Who) (page : Nat) (count : Fin 4096) (s : State) : ∃ t, SameBut 0x40002 s t ∧ execPin who page count s = .next t := by
  delta execPin
  refine Keep.meaning (n := 0x40002) ?_ _
  exact Keep.mono (keep_hintWrite ..) rfl

theorem touch_unpin (who : Who) (page : Nat) (count : Fin 4096) (s : State) : ∃ t, SameBut 0x40002 s t ∧ execUnpin who page count s = .next t := by
  delta execUnpin
  refine Keep.meaning (n := 0x40002) ?_ _
  exact Keep.mono (keep_hintWrite ..) rfl

theorem touch_moveComplete (page : Nat) (errs : List LineErr) (s : State) : ∃ t, SameBut 0x80 s t ∧ execMoveComplete page errs s = .next t := by
  delta execMoveComplete
  refine Keep.meaning (n := 0x80) ?_ _
  refine Keep.bind ?_ fun _ => ?_
  · exact Keep.getS _
  · refine Keep.when' ?_
    exact Keep.mono (keep_latch ..) rfl

theorem touch_moveFail (page : Nat) (s : State) : ∃ t, SameBut 0x42002 s t ∧ execMoveFail page s = .next t := by
  delta execMoveFail
  refine Keep.meaning (n := 0x42002) ?_ _
  refine Keep.bind ?_ fun _ => ?_
  · exact Keep.getS _
  · split
    · refine Keep.when' ?_
      exact Keep.mono (keep_moveFails ..) rfl
    · exact Keep.pure _ _

theorem touch_wagonEnable (s : State) : ∃ t, SameBut 0x40002 s t ∧ execWagonEnable s = .next t := by
  delta execWagonEnable
  refine Keep.meaning (n := 0x40002) ?_ _
  exact Keep.mono (keep_wagonEnable ..) rfl

theorem touch_wagonDisable (s : State) : ∃ t, SameBut 0x2 s t ∧ execWagonDisable s = .next t := by
  delta execWagonDisable
  refine Keep.meaning (n := 0x2) ?_ _
  exact Keep.mono (keep_wagonDisable ..) rfl

theorem touch_wagonDrainComplete (s : State) : ∃ t, SameBut 0x2 s t ∧ execWagonDrainComplete s = .next t := by
  delta execWagonDrainComplete
  refine Keep.meaning (n := 0x2) ?_ _
  refine Keep.bind ?_ fun _ => ?_
  · exact Keep.getS _
  · refine Keep.when' ?_
    exact Keep.mono (keep_enterDisabled ..) rfl

theorem touch_wagonResumeComplete (errs : List LineErr) (s : State) : ∃ t, SameBut 0xf220f s t ∧ execWagonResumeComplete errs s = .next t := by
  delta execWagonResumeComplete
  refine Keep.meaning (n := 0xf220f) ?_ _
  refine keep_withErrs (hs := rfl) (h := ?_) ..
  exact Keep.mono (keep_resumeDone ..) rfl

theorem touch_deepAccessLate (port : Fin 8) (id : Nat) (s : State) : ∃ t, SameBut 0x20002 s t ∧ execDeepAccessLate port id s = .next t := by
  delta execDeepAccessLate
  refine Keep.meaning (n := 0x20002) ?_ _
  refine Keep.bind ?_ fun _ => ?_
  · exact Keep.getS _
  · split
    · exact Keep.mono (keep_deepLate ..) rfl
    · exact Keep.pure _ _

theorem touch_deepAccessFail (port : Fin 8) (id : Nat) (s : State) : ∃ t, SameBut 0x21ff3ddf s t ∧ execDeepAccessFail port id s = .next t := by
  delta execDeepAccessFail
  refine Keep.meaning (n := 0x21ff3ddf) (Keep.bind ?_ fun _ => Keep.mono (keep_flushRecords ..) rfl) _
  exact Keep.mono (keep_deepFails ..) rfl

theorem touch_lateAnswerDiscard (port : Fin 8) (id : Nat) (s : State) : ∃ t, SameBut 0x202f208f s t ∧ execLateAnswerDiscard port id s = .next t := by
  delta execLateAnswerDiscard
  refine Keep.meaning (n := 0x202f208f) (Keep.bind ?_ fun _ => Keep.mono (keep_flushRecords ..) rfl) _
  refine Keep.bind ?_ fun _ => ?_
  · exact Keep.getS _
  · split
    · refine Keep.when' ?_
      exact Keep.mono (keep_deepAnswers ..) rfl
    · exact Keep.pure _ _

theorem touch_recompAck (ctx : Fin 16) (q : Nat) (s : State) : ∃ t, SameBut 0x82 s t ∧ execRecompAck ctx q s = .next t := by
  delta execRecompAck
  refine Keep.meaning (n := 0x82) ?_ _
  exact Keep.mono (keep_recompAckWrite ..) rfl

theorem touch_recompExpiry (ctx : Fin 16) (q : Nat) (s : State) : ∃ t, SameBut 0x1942 s t ∧ execRecompExpiry ctx q s = .next t := by
  delta execRecompExpiry
  refine Keep.meaning (n := 0x1942) ?_ _
  exact Keep.mono (keep_recompExpires ..) rfl

theorem touch_scrubGroup (stack : Fin 12) (errs : List LineErr) (s : State) : ∃ t, SameBut 0x1220f s t ∧ execScrubGroup stack errs s = .next t := by
  delta execScrubGroup
  refine Keep.meaning (n := 0x1220f) ?_ _
  refine keep_withErrs (hs := rfl) (h := ?_) ..
  exact Keep.mono (keep_scrubGroup ..) rfl

theorem touch_retire (who : Who) (stack : Fin 12) (page : Nat) (slot : Nat) (s : State) : ∃ t, SameBut 0x2002 s t ∧ execRetire who stack page slot s = .next t := by
  delta execRetire
  refine Keep.meaning (n := 0x2002) ?_ _
  exact Keep.mono (keep_retireWrite ..) rfl

theorem touch_retireComplete (stack : Fin 12) (errs : List LineErr) (s : State) : ∃ t, SameBut 0x10220f s t ∧ execRetireComplete stack errs s = .next t := by
  delta execRetireComplete
  refine Keep.meaning (n := 0x10220f) ?_ _
  refine keep_withErrs (hs := rfl) (h := ?_) ..
  exact Keep.mono (keep_retireDone ..) rfl

theorem touch_portTraining (port : Fin 32) (tx : Nat) (rx : Nat) (peer : Nat) (s : State) : ∃ t, SameBut 0x810806 s t ∧ execPortTraining port tx rx peer s = .next t := by
  delta execPortTraining
  refine Keep.meaning (n := 0x810806) ?_ _
  refine Keep.bind ?_ fun _ => ?_
  · exact Keep.getS _
  · dsimp only
    refine Keep.ite ?_ ?_
    · refine Keep.bind ?_ fun _ => ?_
      · exact Keep.mono (keep_trainPort ..) rfl
      · exact Keep.mono (keep_startTry ..) rfl
    · exact Keep.pure _ _

theorem touch_wavelengthDegrade (port : Fin 32) (w : Fin 18) (corr : Nat) (uncorr : Bool) (s : State) : ∃ t, SameBut 0x810082 s t ∧ execWavelengthDegrade port w corr uncorr s = .next t := by
  delta execWavelengthDegrade
  refine Keep.meaning (n := 0x810082) ?_ _
  refine Keep.bind ?_ fun _ => ?_
  · exact Keep.getS _
  · refine Keep.ite ?_ ?_
    · refine Keep.ite ?_ ?_
      · refine Keep.bind ?_ fun _ => ?_
        · exact Keep.mono (keep_bump ..) rfl
        · exact Keep.mono (keep_degrade ..) rfl
      · refine Keep.ite ?_ ?_
        · refine Keep.bind ?_ fun _ => ?_
          · exact Keep.mono (keep_setFld ..) rfl
          · refine Keep.bind ?_ fun _ => ?_
            · exact Keep.mono (keep_bumpBy ..) rfl
            · refine Keep.when' ?_
              exact Keep.mono (keep_degrade ..) rfl
        · exact Keep.pure _ _
    · exact Keep.pure _ _

theorem touch_swapReq (port : Fin 32) (lane : Fin 16) (spare : Option (Fin 18)) (s : State) : ∃ t, SameBut 0x810000 s t ∧ execSwapReq port lane spare s = .next t := by
  delta execSwapReq
  refine Keep.meaning (n := 0x810000) ?_ _
  refine Keep.bind ?_ fun _ => ?_
  · exact Keep.getS _
  · refine Keep.ite ?_ ?_
    · refine Keep.bind ?_ fun _ => ?_
      · exact Keep.mono (keep_modPort ..) rfl
      · exact Keep.mono (keep_emit ..) rfl
    · exact Keep.pure _ _

theorem touch_swapAck (port : Fin 32) (s : State) : ∃ t, SameBut 0x810000 s t ∧ execSwapAck port s = .next t := by
  delta execSwapAck
  refine Keep.meaning (n := 0x810000) ?_ _
  refine Keep.bind ?_ fun _ => ?_
  · exact Keep.getS _
  · split
    · refine Keep.ite ?_ ?_
      · refine Keep.ite ?_ ?_
        · refine Keep.bind ?_ fun _ => ?_
          · exact Keep.mono (keep_modPort ..) rfl
          · exact Keep.mono (keep_emit ..) rfl
        · exact Keep.mono (keep_modPort ..) rfl
      · exact Keep.pure _ _
    · exact Keep.pure _ _

theorem touch_swapGo (port : Fin 32) (s : State) : ∃ t, SameBut 0x810002 s t ∧ execSwapGo port s = .next t := by
  delta execSwapGo
  refine Keep.meaning (n := 0x810002) ?_ _
  refine Keep.bind ?_ fun _ => ?_
  · exact Keep.getS _
  · split
    · refine Keep.ite ?_ ?_
      · refine Keep.bind ?_ fun _ => ?_
        · exact Keep.mono (keep_emit ..) rfl
        · refine Keep.bind ?_ fun _ => ?_
          · exact Keep.mono (keep_modPort ..) rfl
          · refine Keep.bind ?_ fun _ => ?_
            · exact Keep.mono (keep_applySwap ..) rfl
            · exact Keep.mono (keep_noteLanes ..) rfl
      · exact Keep.pure _ _
    · exact Keep.pure _ _

theorem touch_switchMarker (port : Fin 32) (s : State) : ∃ t, SameBut 0x800002 s t ∧ execSwitchMarker port s = .next t := by
  delta execSwitchMarker
  refine Keep.meaning (n := 0x800002) ?_ _
  refine Keep.bind ?_ fun _ => ?_
  · exact Keep.getS _
  · split
    · refine Keep.ite ?_ ?_
      · refine Keep.bind ?_ fun _ => ?_
        · exact Keep.mono (keep_modPort ..) rfl
        · refine Keep.bind ?_ fun _ => ?_
          · exact Keep.mono (keep_applySwap ..) rfl
          · dsimp only
            refine Keep.ite ?_ ?_
            · refine Keep.bind ?_ fun _ => ?_
              · exact Keep.mono (keep_bump ..) rfl
              · refine Keep.bind ?_ fun _ => ?_
                · exact Keep.mono (keep_flag ..) rfl
                · exact Keep.mono (keep_noteLanes ..) rfl
            · refine Keep.bind ?_ fun _ => ?_
              · exact Keep.mono (keep_bump ..) rfl
              · refine Keep.bind ?_ fun _ => ?_
                · exact Keep.mono (keep_flag ..) rfl
                · exact Keep.mono (keep_noteLanes ..) rfl
      · exact Keep.pure _ _
    · exact Keep.pure _ _

theorem touch_dataPacket (port : Fin 32) (crcOk : Bool) (lseq : Nat) (p : Packet) (errs : List LineErr) (s : State) : ∃ t, SameBut 0x21af2a8f s t ∧ execDataPacket port crcOk lseq p errs s = .next t := by
  delta execDataPacket
  delta typed
  refine Keep.meaning (n := 0x21af2a8f) (Keep.bind ?_ fun _ => Keep.mono (keep_flushRecords ..) rfl) _
  refine keep_withErrs (hs := rfl) (h := ?_) ..
  exact Keep.mono (keep_arrives ..) rfl

theorem touch_rts (port : Fin 32) (crcOk : Bool) (lseq : Nat) (p : Packet) (errs : List LineErr) (s : State) : ∃ t, SameBut 0x21af2a8f s t ∧ execRts port crcOk lseq p errs s = .next t := by
  delta execRts
  delta typed
  refine Keep.meaning (n := 0x21af2a8f) (Keep.bind ?_ fun _ => Keep.mono (keep_flushRecords ..) rfl) _
  refine keep_withErrs (hs := rfl) (h := ?_) ..
  exact Keep.mono (keep_arrives ..) rfl

theorem touch_grant (port : Fin 32) (crcOk : Bool) (lseq : Nat) (p : Packet) (errs : List LineErr) (s : State) : ∃ t, SameBut 0x21af2a8f s t ∧ execGrant port crcOk lseq p errs s = .next t := by
  delta execGrant
  delta typed
  refine Keep.meaning (n := 0x21af2a8f) (Keep.bind ?_ fun _ => Keep.mono (keep_flushRecords ..) rfl) _
  refine keep_withErrs (hs := rfl) (h := ?_) ..
  exact Keep.mono (keep_arrives ..) rfl

theorem touch_ack (port : Fin 32) (crcOk : Bool) (lseq : Nat) (p : Packet) (errs : List LineErr) (s : State) : ∃ t, SameBut 0x21af2a8f s t ∧ execAck port crcOk lseq p errs s = .next t := by
  delta execAck
  delta typed
  refine Keep.meaning (n := 0x21af2a8f) (Keep.bind ?_ fun _ => Keep.mono (keep_flushRecords ..) rfl) _
  refine keep_withErrs (hs := rfl) (h := ?_) ..
  exact Keep.mono (keep_arrives ..) rfl

theorem touch_refuse (port : Fin 32) (crcOk : Bool) (lseq : Nat) (p : Packet) (errs : List LineErr) (s : State) : ∃ t, SameBut 0x21af2a8f s t ∧ execRefuse port crcOk lseq p errs s = .next t := by
  delta execRefuse
  delta typed
  refine Keep.meaning (n := 0x21af2a8f) (Keep.bind ?_ fun _ => Keep.mono (keep_flushRecords ..) rfl) _
  refine keep_withErrs (hs := rfl) (h := ?_) ..
  exact Keep.mono (keep_arrives ..) rfl

theorem touch_xdata (port : Fin 32) (crcOk : Bool) (lseq : Nat) (p : Packet) (errs : List LineErr) (s : State) : ∃ t, SameBut 0x21af2a8f s t ∧ execXdata port crcOk lseq p errs s = .next t := by
  delta execXdata
  delta typed
  refine Keep.meaning (n := 0x21af2a8f) (Keep.bind ?_ fun _ => Keep.mono (keep_flushRecords ..) rfl) _
  refine keep_withErrs (hs := rfl) (h := ?_) ..
  exact Keep.mono (keep_arrives ..) rfl

theorem touch_mgmt (port : Fin 32) (crcOk : Bool) (lseq : Nat) (p : Packet) (errs : List LineErr) (s : State) : ∃ t, SameBut 0x21af2a8f s t ∧ execMgmt port crcOk lseq p errs s = .next t := by
  delta execMgmt
  delta typed
  refine Keep.meaning (n := 0x21af2a8f) (Keep.bind ?_ fun _ => Keep.mono (keep_flushRecords ..) rfl) _
  refine keep_withErrs (hs := rfl) (h := ?_) ..
  exact Keep.mono (keep_arrives ..) rfl

theorem touch_replayRequest (port : Fin 32) (lseq : Nat) (s : State) : ∃ t, SameBut 0x810002 s t ∧ execReplayRequest port lseq s = .next t := by
  delta execReplayRequest
  refine Keep.meaning (n := 0x810002) ?_ _
  refine Keep.bind ?_ fun _ => ?_
  · exact Keep.getS _
  · refine Keep.ite ?_ ?_
    · refine Keep.bind ?_ fun _ => ?_
      · exact Keep.mono (keep_bump ..) rfl
      · refine Keep.bind ?_ fun _ => ?_
        · exact Keep.mono (keep_modPort ..) rfl
        · exact Keep.mono (keep_resendFrom ..) rfl
    · exact Keep.pure _ _

theorem touch_linkAck (port : Fin 32) (lseq : Nat) (s : State) : ∃ t, SameBut 0x810002 s t ∧ execLinkAck port lseq s = .next t := by
  delta execLinkAck
  refine Keep.meaning (n := 0x810002) ?_ _
  refine Keep.bind ?_ fun _ => ?_
  · exact Keep.getS _
  · refine Keep.ite ?_ ?_
    · refine Keep.bind ?_ fun _ => ?_
      · exact Keep.mono (keep_modPort ..) rfl
      · exact Keep.mono (keep_pumpPort ..) rfl
    · exact Keep.pure _ _

theorem touch_linkDown (port : Fin 32) (s : State) : ∃ t, SameBut 0x82 s t ∧ execLinkDown port s = .next t := by
  delta execLinkDown
  refine Keep.meaning (n := 0x82) ?_ _
  refine Keep.bind ?_ fun _ => ?_
  · exact Keep.getS _
  · refine Keep.when' ?_
    exact Keep.mono (keep_portDown ..) rfl

theorem touch_routeSwitch (s : State) : ∃ t, SameBut 0x2 s t ∧ execRouteSwitch s = .next t := by
  delta execRouteSwitch
  refine Keep.meaning (n := 0x2) ?_ _
  refine Keep.bind ?_ fun _ => ?_
  · exact Keep.getS _
  · refine Keep.when' ?_
    exact Keep.mono (keep_routeSwitchNow ..) rfl

theorem touch_routeEntryWrite (page : Fin 4) (e : Fin 320) (data : Nat) (s : State) : ∃ t, SameBut 0x2 s t ∧ execRouteEntryWrite page e data s = .next t := by
  delta execRouteEntryWrite
  refine Keep.meaning (n := 0x2) ?_ _
  exact Keep.mono (keep_routeWrite ..) rfl

theorem touch_e2eTimeout (s : State) : ∃ t, SameBut 0x21ff3d9f s t ∧ execE2eTimeout s = .next t := by
  delta execE2eTimeout
  refine Keep.meaning (n := 0x21ff3d9f) (Keep.bind ?_ fun _ => Keep.mono (keep_flushRecords ..) rfl) _
  exact Keep.mono (keep_e2eExpires ..) rfl

theorem touch_xferRingWrite (who : Who) (data : Nat) (s : State) : ∃ t, SameBut 0x1000002 s t ∧ execXferRingWrite who data s = .next t := by
  delta execXferRingWrite
  refine Keep.meaning (n := 0x1000002) ?_ _
  exact Keep.mono (keep_xferRingWrite ..) rfl

theorem touch_xferPubSample (errs : List LineErr) (s : State) : ∃ t, SameBut 0x21af220f s t ∧ execXferPubSample errs s = .next t := by
  delta execXferPubSample
  refine Keep.meaning (n := 0x21af220f) (Keep.bind ?_ fun _ => Keep.mono (keep_flushRecords ..) rfl) _
  refine keep_withErrs (hs := rfl) (h := ?_) ..
  refine Keep.bind ?_ fun _ => ?_
  · exact Keep.mono (keep_ringSample ..) rfl
  · exact Keep.mono (keep_xferPump ..) rfl

theorem touch_keyInstall (who : Who) (ctx : Fin 16) (errs : List LineErr) (s : State) : ∃ t, SameBut 0xf320f s t ∧ execKeyInstall who ctx errs s = .next t := by
  delta execKeyInstall
  refine Keep.meaning (n := 0xf320f) ?_ _
  refine keep_withErrs (hs := rfl) (h := ?_) ..
  exact Keep.mono (keep_keyInstall ..) rfl

theorem touch_keyErase (who : Who) (ctx : Fin 16) (s : State) : ∃ t, SameBut 0x1002 s t ∧ execKeyErase who ctx s = .next t := by
  delta execKeyErase
  refine Keep.meaning (n := 0x1002) ?_ _
  exact Keep.mono (keep_keyErase ..) rfl

theorem touch_verifyQueue (who : Who) (ctx : Fin 16) (entry : Fin 16) (s : State) : ∃ t, SameBut 0x2000002 s t ∧ execVerifyQueue who ctx entry s = .next t := by
  delta execVerifyQueue
  refine Keep.meaning (n := 0x2000002) ?_ _
  exact Keep.mono (keep_verifyQueue ..) rfl

theorem touch_verifyComplete (errs : List LineErr) (s : State) : ∃ t, SameBut 0x222f2a8f s t ∧ execVerifyComplete errs s = .next t := by
  delta execVerifyComplete
  refine Keep.meaning (n := 0x222f2a8f) (Keep.bind ?_ fun _ => Keep.mono (keep_flushRecords ..) rfl) _
  refine keep_withErrs (hs := rfl) (h := ?_) ..
  exact Keep.mono (keep_verifyComplete ..) rfl

theorem touch_verifyDoneRead (s : State) : ∃ t, SameBut 0x2010000 s t ∧ execVerifyDoneRead s = .next t := by
  delta execVerifyDoneRead
  refine Keep.meaning (n := 0x2010000) ?_ _
  refine Keep.bind ?_ fun _ => ?_
  · exact Keep.mono (keep_verifyDoneRead ..) rfl
  · exact Keep.mono (keep_emit ..) rfl

theorem touch_gslotLoad (who : Who) (ctx : Fin 16) (k : Fin 4) (s : State) : ∃ t, SameBut 0x2 s t ∧ execGslotLoad who ctx k s = .next t := by
  delta execGslotLoad
  refine Keep.meaning (n := 0x2) ?_ _
  exact Keep.mono (keep_gslotWrite ..) rfl

theorem touch_gslotReady (who : Who) (ctx : Fin 16) (k : Fin 4) (s : State) : ∃ t, SameBut 0x2 s t ∧ execGslotReady who ctx k s = .next t := by
  delta execGslotReady
  refine Keep.meaning (n := 0x2) ?_ _
  exact Keep.mono (keep_gslotWrite ..) rfl

theorem touch_gslotAbandon (who : Who) (ctx : Fin 16) (k : Fin 4) (s : State) : ∃ t, SameBut 0x2 s t ∧ execGslotAbandon who ctx k s = .next t := by
  delta execGslotAbandon
  refine Keep.meaning (n := 0x2) ?_ _
  exact Keep.mono (keep_gslotWrite ..) rfl

theorem touch_rosterGenWrite (who : Who) (ctx : Fin 16) (data : Nat) (s : State) : ∃ t, SameBut 0x2 s t ∧ execRosterGenWrite who ctx data s = .next t := by
  delta execRosterGenWrite
  refine Keep.meaning (n := 0x2) ?_ _
  refine Keep.when' ?_
  exact Keep.mono (keep_setReg ..) rfl

theorem touch_genSwitch (ctx : Fin 16) (s : State) : ∃ t, SameBut 0x42 s t ∧ execGenSwitch ctx s = .next t := by
  delta execGenSwitch
  refine Keep.meaning (n := 0x42) ?_ _
  refine Keep.bind ?_ fun _ => ?_
  · exact Keep.getS _
  · refine Keep.when' ?_
    exact Keep.mono (keep_genSwitchNow ..) rfl

theorem touch_rsrcReqRead (s : State) : ∃ t, SameBut 0x10000 s t ∧ execRsrcReqRead s = .next t := by
  delta execRsrcReqRead
  refine Keep.meaning (n := 0x10000) ?_ _
  refine Keep.bind ?_ fun _ => ?_
  · exact Keep.getS _
  · exact Keep.mono (keep_emit ..) rfl

theorem touch_rsrcDone (page : Nat) (s : State) : ∃ t, SameBut 0x82 s t ∧ execRsrcDone page s = .next t := by
  delta execRsrcDone
  refine Keep.meaning (n := 0x82) ?_ _
  exact Keep.mono (keep_rsrcDoneWrite ..) rfl

theorem touch_rsrcExpiry (page : Nat) (s : State) : ∃ t, SameBut 0x202f294f s t ∧ execRsrcExpiry page s = .next t := by
  delta execRsrcExpiry
  refine Keep.meaning (n := 0x202f294f) (Keep.bind ?_ fun _ => Keep.mono (keep_flushRecords ..) rfl) _
  exact Keep.mono (keep_rsrcExpires ..) rfl

theorem touch_attestRequest (nonce : List Byte) (s : State) : ∃ t, SameBut 0x10001 s t ∧ execAttestRequest nonce s = .next t := by
  delta execAttestRequest
  refine Keep.meaning (n := 0x10001) ?_ _
  refine Keep.bind ?_ fun _ => ?_
  · exact Keep.getS _
  · refine Keep.when' ?_
    refine Keep.bind ?_ fun _ => ?_
    · exact Keep.mono (keep_freeWord ..) rfl
    · refine Keep.bind ?_ fun _ => ?_
      · exact Keep.getS _
      · exact Keep.mono (keep_emit ..) rfl

theorem touch_token (link : Bool) (crcOk : Bool) (hseq : Nat) (f : Frame) (s : State) : ∃ t, SameBut 0x3c15086e s t ∧ execToken link crcOk hseq f s = .next t := by
  delta execToken
  refine Keep.meaning (n := 0x3c15086e) ?_ _
  refine keep_frameIn (hs := rfl) (h := ?_) ..
  refine Keep.when' ?_
  exact Keep.mono (keep_tokenIn ..) rfl

theorem touch_headDecision (s : State) : ∃ t, SameBut 0x3c15086e s t ∧ execHeadDecision s = .next t := by
  delta execHeadDecision
  refine Keep.meaning (n := 0x3c15086e) ?_ _
  refine Keep.bind ?_ fun _ => ?_
  · exact Keep.getS _
  · refine Keep.ite ?_ ?_
    · refine Keep.bind ?_ fun _ => ?_
      · exact Keep.mono (keep_setFld ..) rfl
      · refine Keep.bind ?_ fun _ => ?_
        · exact Keep.mono (keep_setFld ..) rfl
        · refine Keep.bind ?_ fun _ => ?_
          · exact Keep.mono (keep_masterTick ..) rfl
          · refine Keep.bind ?_ fun _ => ?_
            · exact Keep.mono (keep_passToken ..) rfl
            · exact Keep.mono (keep_leavePhase3 ..) rfl
    · exact Keep.pure _ _

theorem touch_tickCountLoad (back : TickBack) (s : State) : ∃ t, SameBut 0x3c14086e s t ∧ execTickCountLoad back s = .next t := by
  delta execTickCountLoad
  refine Keep.meaning (n := 0x3c14086e) ?_ _
  refine Keep.bind ?_ fun _ => ?_
  · exact Keep.getS _
  · refine Keep.ite ?_ ?_
    · refine Keep.bind ?_ fun _ => ?_
      · exact Keep.mono (keep_modTick ..) rfl
      · refine Keep.bind ?_ fun _ => ?_
        · exact Keep.mono (keep_modTime ..) rfl
        · refine Keep.bind ?_ fun _ => ?_
          · exact Keep.mono (keep_setReg ..) rfl
          · refine Keep.bind ?_ fun _ => ?_
            · exact Keep.mono (keep_setFld ..) rfl
            · refine Keep.bind ?_ fun _ => ?_
              · exact Keep.mono (keep_setFld ..) rfl
              · exact Keep.mono (keep_leavePhase3 ..) rfl
    · exact Keep.pure _ _

theorem touch_nodeAssign (link : Bool) (crcOk : Bool) (hseq : Nat) (f : Frame) (s : State) : ∃ t, SameBut 0x8010002 s t ∧ execNodeAssign link crcOk hseq f s = .next t := by
  delta execNodeAssign
  refine Keep.meaning (n := 0x8010002) ?_ _
  refine keep_frameIn (hs := rfl) (h := ?_) ..
  refine Keep.when' ?_
  refine keep_onChain ?_
  exact Keep.mono (keep_nodeAssignIn ..) rfl

theorem touch_chainAck (link : Bool) (crcOk : Bool) (hseq : Nat) (f : Frame) (s : State) : ∃ t, SameBut 0x8010002 s t ∧ execChainAck link crcOk hseq f s = .next t := by
  delta execChainAck
  refine Keep.meaning (n := 0x8010002) ?_ _
  refine Keep.bind ?_ fun _ => ?_
  · exact Keep.getS _
  · dsimp only
    refine Keep.ite ?_ ?_
    · refine Keep.ite ?_ ?_
      · exact Keep.mono (keep_bump ..) rfl
      · refine Keep.bind ?_ fun _ => ?_
        · exact Keep.mono (keep_bump ..) rfl
        · refine Keep.bind ?_ fun _ => ?_
          · exact Keep.mono (keep_modHop ..) rfl
          · exact Keep.mono (keep_pumpHop ..) rfl
    · exact Keep.pure _ _

theorem touch_chainResend (link : Bool) (s : State) : ∃ t, SameBut 0x8010002 s t ∧ execChainResend link s = .next t := by
  delta execChainResend
  refine Keep.meaning (n := 0x8010002) ?_ _
  exact Keep.mono (keep_resendHop ..) rfl

theorem touch_offer (link : Bool) (crcOk : Bool) (hseq : Nat) (f : Frame) (s : State) : ∃ t, SameBut 0xc0f200f s t ∧ execOffer link crcOk hseq f s = .next t := by
  delta execOffer
  refine Keep.meaning (n := 0xc0f200f) ?_ _
  refine keep_frameIn (hs := rfl) (h := ?_) ..
  refine keep_onChain ?_
  exact Keep.mono (keep_offerIn ..) rfl

theorem touch_chainData (link : Bool) (crcOk : Bool) (hseq : Nat) (f : Frame) (errs : List LineErr) (s : State) : ∃ t, SameBut 0xc0f220f s t ∧ execChainData link crcOk hseq f errs s = .next t := by
  delta execChainData
  refine Keep.meaning (n := 0xc0f220f) ?_ _
  refine keep_withErrs (hs := rfl) (h := ?_) ..
  refine keep_frameIn (hs := rfl) (h := ?_) ..
  refine Keep.when' ?_
  refine keep_onChain ?_
  exact Keep.mono (keep_dataIn ..) rfl

theorem touch_result (link : Bool) (crcOk : Bool) (hseq : Nat) (f : Frame) (s : State) : ∃ t, SameBut 0x8010002 s t ∧ execResult link crcOk hseq f s = .next t := by
  delta execResult
  refine Keep.meaning (n := 0x8010002) ?_ _
  refine keep_frameIn (hs := rfl) (h := ?_) ..
  refine Keep.when' ?_
  refine keep_onChain ?_
  exact Keep.mono (keep_resultIn ..) rfl

theorem touch_delay (link : Bool) (crcOk : Bool) (hseq : Nat) (f : Frame) (loop : Nat) (s : State) : ∃ t, SameBut 0x8010002 s t ∧ execDelay link crcOk hseq f loop s = .next t := by
  delta execDelay
  refine Keep.meaning (n := 0x8010002) ?_ _
  refine keep_frameIn (hs := rfl) (h := ?_) ..
  exact Keep.mono (keep_delayIn ..) rfl

theorem touch_chainMgmt (link : Bool) (crcOk : Bool) (hseq : Nat) (f : Frame) (s : State) : ∃ t, SameBut 0x8010002 s t ∧ execChainMgmt link crcOk hseq f s = .next t := by
  delta execChainMgmt
  refine Keep.meaning (n := 0x8010002) ?_ _
  refine keep_frameIn (hs := rfl) (h := ?_) ..
  refine keep_onChain ?_
  exact Keep.mono (keep_mgmtIn ..) rfl

theorem touch_stageTimeout (xfer : Nat) (s : State) : ∃ t, SameBut 0x8000000 s t ∧ execStageTimeout xfer s = .next t := by
  delta execStageTimeout
  refine Keep.meaning (n := 0x8000000) ?_ _
  refine Keep.bind ?_ fun _ => ?_
  · exact Keep.getS _
  · split
    · refine Keep.when' ?_
      exact Keep.mono (keep_releaseStage ..) rfl
    · exact Keep.pure _ _

theorem touch_firmwareActivation (s : State) : ∃ t, SameBut 0x4000842 s t ∧ execFirmwareActivation s = .next t := by
  delta execFirmwareActivation
  refine Keep.meaning (n := 0x4000842) ?_ _
  exact Keep.mono (keep_firmwareActs ..) rfl

theorem touch_coldStart (i : StartInput) (s : State) : ∃ t, SameBut 0x2c000042 s t ∧ execColdStart i s = .next t := by
  delta execColdStart
  refine Keep.meaning (n := 0x2c000042) ?_ _
  refine Keep.bind ?_ fun _ => ?_
  · exact Keep.getS _
  · refine Keep.when' ?_
    exact Keep.mono (keep_startFrom ..) rfl

theorem touch_hangDeclaration (core : Fin 64) (s : State) : ∃ t, SameBut 0x21ff3ddf s t ∧ execHangDeclaration core s = .next t := by
  delta execHangDeclaration
  refine Keep.meaning (n := 0x21ff3ddf) (Keep.bind ?_ fun _ => Keep.mono (keep_flushRecords ..) rfl) _
  refine Keep.bind ?_ fun _ => ?_
  · exact Keep.mono (keep_closeWindow ..) rfl
  · split
    · refine Keep.bind ?_ fun _ => ?_
      · exact Keep.mono (keep_noteRank ..) rfl
      · exact Keep.mono (keep_takeHang ..) rfl
    · exact Keep.pure _ _

theorem touch_oxReset (unit : Fin 512) (s : State) : ∃ t, SameBut 0x21ff3d9f s t ∧ execOxReset unit s = .next t := by
  delta execOxReset
  refine Keep.meaning (n := 0x21ff3d9f) (Keep.bind ?_ fun _ => Keep.mono (keep_flushRecords ..) rfl) _
  exact Keep.mono (keep_takeReset ..) rfl

theorem touch_coreReset (unit : Fin 512) (s : State) : ∃ t, SameBut 0x21ff3d9f s t ∧ execCoreReset unit s = .next t := by
  delta execCoreReset
  refine Keep.meaning (n := 0x21ff3d9f) (Keep.bind ?_ fun _ => Keep.mono (keep_flushRecords ..) rfl) _
  exact Keep.mono (keep_takeReset ..) rfl

theorem touch_contextReset (unit : Fin 512) (s : State) : ∃ t, SameBut 0x21ff3d9f s t ∧ execContextReset unit s = .next t := by
  delta execContextReset
  refine Keep.meaning (n := 0x21ff3d9f) (Keep.bind ?_ fun _ => Keep.mono (keep_flushRecords ..) rfl) _
  exact Keep.mono (keep_takeReset ..) rfl

theorem touch_portReset (unit : Fin 512) (s : State) : ∃ t, SameBut 0x21ff3d9f s t ∧ execPortReset unit s = .next t := by
  delta execPortReset
  refine Keep.meaning (n := 0x21ff3d9f) (Keep.bind ?_ fun _ => Keep.mono (keep_flushRecords ..) rfl) _
  exact Keep.mono (keep_takeReset ..) rfl

theorem touch_iodReset (unit : Fin 512) (s : State) : ∃ t, SameBut 0x21ff3d9f s t ∧ execIodReset unit s = .next t := by
  delta execIodReset
  refine Keep.meaning (n := 0x21ff3d9f) (Keep.bind ?_ fun _ => Keep.mono (keep_flushRecords ..) rfl) _
  exact Keep.mono (keep_takeReset ..) rfl

theorem touch_stackReset (unit : Fin 512) (s : State) : ∃ t, SameBut 0x21ff3d9f s t ∧ execStackReset unit s = .next t := by
  delta execStackReset
  refine Keep.meaning (n := 0x21ff3d9f) (Keep.bind ?_ fun _ => Keep.mono (keep_flushRecords ..) rfl) _
  exact Keep.mono (keep_takeReset ..) rfl

theorem touch_dieReset (unit : Fin 512) (s : State) : ∃ t, SameBut 0x21ff3d9f s t ∧ execDieReset unit s = .next t := by
  delta execDieReset
  refine Keep.meaning (n := 0x21ff3d9f) (Keep.bind ?_ fun _ => Keep.mono (keep_flushRecords ..) rfl) _
  exact Keep.mono (keep_takeReset ..) rfl

theorem touch_deviceReset (i : StartInput) (s : State) : ∃ t, SameBut 0x3fef3ddf s t ∧ execDeviceReset i s = .next t := by
  delta execDeviceReset
  refine Keep.meaning (n := 0x3fef3ddf) (Keep.bind ?_ fun _ => Keep.mono (keep_flushRecords ..) rfl) _
  exact Keep.mono (keep_takeDevice ..) rfl

theorem touch_resetComplete (domain : Fin 9) (unit : Fin 512) (s : State) : ∃ t, SameBut 0x206f200f s t ∧ execResetComplete domain unit s = .next t := by
  delta execResetComplete
  refine Keep.meaning (n := 0x206f200f) (Keep.bind ?_ fun _ => Keep.mono (keep_flushRecords ..) rfl) _
  exact Keep.mono (keep_completeReset ..) rfl

theorem touch_resetEscalation (domain : Fin 9) (unit : Fin 512) (s : State) : ∃ t, SameBut 0x21ff3d9f s t ∧ execResetEscalation domain unit s = .next t := by
  delta execResetEscalation
  refine Keep.meaning (n := 0x21ff3d9f) (Keep.bind ?_ fun _ => Keep.mono (keep_flushRecords ..) rfl) _
  exact Keep.mono (keep_escalateReset ..) rfl

theorem touch_requestRefused (core : Fin 64) (slot : Fin 16) (domain : Fin 9) (unit : Fin 512) (s : State) : ∃ t, SameBut 0x20802 s t ∧ execRequestRefused core slot domain unit s = .next t := by
  delta execRequestRefused
  refine Keep.meaning (n := 0x20802) ?_ _
  refine Keep.bind ?_ fun _ => ?_
  · exact Keep.getS _
  · refine Keep.when' ?_
    exact Keep.mono (keep_holdRefused ..) rfl

theorem touch_refuseLimitExpiry (core : Fin 64) (slot : Fin 16) (s : State) : ∃ t, SameBut 0x21ff3d9f s t ∧ execRefuseLimitExpiry core slot s = .next t := by
  delta execRefuseLimitExpiry
  refine Keep.meaning (n := 0x21ff3d9f) (Keep.bind ?_ fun _ => Keep.mono (keep_flushRecords ..) rfl) _
  exact Keep.mono (keep_refuseExpires ..) rfl

theorem touch_staleReply (domain : Fin 9) (unit : Fin 512) (gen : Nat) (s : State) : ∃ t, SameBut 0x2 s t ∧ execStaleReply domain unit gen s = .next t := by
  delta execStaleReply
  refine Keep.meaning (n := 0x2) ?_ _
  refine Keep.bind ?_ fun _ => ?_
  · exact Keep.getS _
  · refine Keep.when' ?_
    exact Keep.mono (keep_bump ..) rfl

theorem touch_jobFaultRaise (who : Who) (ctx : Fin 16) (origin : Nat) (s : State) : ∃ t, SameBut 0x82 s t ∧ execJobFaultRaise who ctx origin s = .next t := by
  delta execJobFaultRaise
  refine Keep.meaning (n := 0x82) ?_ _
  exact Keep.mono (keep_jobFaultWrite ..) rfl

theorem touch_resetN (s : State) : ∃ t, SameBut 0x3fef3ddf s t ∧ execResetN s = .next t := by
  delta execResetN
  refine Keep.meaning (n := 0x3fef3ddf) (Keep.bind ?_ fun _ => Keep.mono (keep_flushRecords ..) rfl) _
  refine Keep.bind ?_ fun _ => ?_
  · exact Keep.getS _
  · refine Keep.ite ?_ ?_
    · exact Keep.mono (keep_requestReset ..) rfl
    · refine Keep.when' ?_
      exact Keep.mono (keep_takeDevice ..) rfl

theorem touch_thermalTrip (sensor : Fin 81) (reading : Nat) (s : State) : ∃ t, SameBut 0x35ff3ddf s t ∧ execThermalTrip sensor reading s = .next t := by
  delta execThermalTrip
  refine Keep.meaning (n := 0x35ff3ddf) (Keep.bind ?_ fun _ => Keep.mono (keep_flushRecords ..) rfl) _
  dsimp only
  refine Keep.bind ?_ fun _ => ?_
  · exact Keep.getS _
  · refine Keep.ite ?_ ?_
    · refine Keep.bind ?_ fun _ => ?_
      · exact Keep.mono (keep_setSensor ..) rfl
      · refine Keep.bind ?_ fun _ => ?_
        · exact Keep.mono (keep_thermalTrips ..) rfl
        · refine Keep.each fun _ => ?_
          exact Keep.mono (keep_takeTrip ..) rfl
    · exact Keep.pure _ _

theorem touch_powerTrip (s : State) : ∃ t, SameBut 0x35ff3ddf s t ∧ execPowerTrip s = .next t := by
  delta execPowerTrip
  refine Keep.meaning (n := 0x35ff3ddf) (Keep.bind ?_ fun _ => Keep.mono (keep_flushRecords ..) rfl) _
  refine Keep.bind ?_ fun _ => ?_
  · exact Keep.mono (keep_powerTrips ..) rfl
  · refine Keep.ite ?_ ?_
    · refine Keep.bind ?_ fun _ => ?_
      · exact Keep.getS _
      · exact Keep.mono (keep_takeTrip ..) rfl
    · exact Keep.pure _ _

theorem touch_railFault (rail : Fin 9) (current : Bool) (reading : Nat) (s : State) : ∃ t, SameBut 0x80 s t ∧ execRailFault rail current reading s = .next t := by
  delta execRailFault
  refine Keep.meaning (n := 0x80) ?_ _
  refine Keep.bind ?_ fun _ => ?_
  · exact Keep.getS _
  · refine Keep.when' ?_
    exact Keep.mono (keep_latch ..) rfl

theorem touch_throttleWindow (s : State) : ∃ t, SameBut 0x10000002 s t ∧ execThrottleWindow s = .next t := by
  delta execThrottleWindow
  refine Keep.meaning (n := 0x10000002) ?_ _
  exact Keep.mono (keep_closePower ..) rfl

theorem touch_dieLinkRead (module : Bool) (tag : Nat) (gen : Nat) (addr : Nat) (len : Nat) (errs : List LineErr) (s : State) : ∃ t, SameBut 0x233f3e8f s t ∧ execDieLinkRead module tag gen addr len errs s = .next t := by
  delta execDieLinkRead
  refine Keep.meaning (n := 0x233f3e8f) (Keep.bind ?_ fun _ => Keep.mono (keep_flushRecords ..) rfl) _
  refine keep_withErrs (hs := rfl) (h := ?_) ..
  exact Keep.mono (keep_dieLink ..) rfl

theorem touch_dieLinkWrite (module : Bool) (tag : Nat) (gen : Nat) (addr : Nat) (data : List Byte) (errs : List LineErr) (s : State) : ∃ t, SameBut 0x233f3e8f s t ∧ execDieLinkWrite module tag gen addr data errs s = .next t := by
  delta execDieLinkWrite
  refine Keep.meaning (n := 0x233f3e8f) (Keep.bind ?_ fun _ => Keep.mono (keep_flushRecords ..) rfl) _
  refine keep_withErrs (hs := rfl) (h := ?_) ..
  exact Keep.mono (keep_dieLink ..) rfl

theorem touch_readReply (module : Bool) (tag : Nat) (s : State) : ∃ t, SameBut 0x20010000 s t ∧ execReadReply module tag s = .next t := by
  delta execReadReply
  refine Keep.meaning (n := 0x20010000) ?_ _
  exact Keep.mono (keep_linkReply ..) rfl

theorem touch_writeAck (module : Bool) (tag : Nat) (s : State) : ∃ t, SameBut 0x20010000 s t ∧ execWriteAck module tag s = .next t := by
  delta execWriteAck
  refine Keep.meaning (n := 0x20010000) ?_ _
  exact Keep.mono (keep_linkReply ..) rfl

theorem touch_record (s : State) : ∃ t, SameBut 0x2401c000 s t ∧ execRecord s = .next t := by
  delta execRecord
  refine Keep.meaning (n := 0x2401c000) ?_ _
  refine Keep.bind ?_ fun _ => ?_
  · exact Keep.getS _
  · split
    · refine Keep.ite ?_ ?_
      · refine Keep.bind ?_ fun _ => ?_
        · exact Keep.mono (keep_modLink ..) rfl
        · dsimp only
          refine Keep.ite ?_ ?_
          · refine Keep.bind ?_ fun _ => ?_
            · exact Keep.mono (keep_modCond ..) rfl
            · refine Keep.bind ?_ fun _ => ?_
              · exact Keep.mono (keep_modFlash ..) rfl
              · exact Keep.mono (keep_emit ..) rfl
          · refine Keep.bind ?_ fun _ => ?_
            · exact Keep.mono (keep_modTrouble ..) rfl
            · refine Keep.bind ?_ fun _ => ?_
              · exact Keep.mono (keep_modFlash ..) rfl
              · exact Keep.mono (keep_emit ..) rfl
      · exact Keep.pure _ _
    · exact Keep.pure _ _

theorem touch_ucieModuleDown (module : Bool) (s : State) : ∃ t, SameBut 0x20000000 s t ∧ execUcieModuleDown module s = .next t := by
  delta execUcieModuleDown
  refine Keep.meaning (n := 0x20000000) ?_ _
  refine Keep.bind ?_ fun _ => ?_
  · exact Keep.mono (keep_modLink ..) rfl
  · refine Keep.bind ?_ fun _ => ?_
    · exact Keep.getS _
    · refine Keep.when' ?_
      exact Keep.mono (keep_modLink ..) rfl

theorem touch_ethernetFrame (port : Bool) (rx : Bool) (bs : List Byte) (stamp : Option Nat) (op : EthOp) (s : State) : ∃ t, SameBut 0xc0f200f s t ∧ execEthernetFrame port rx bs stamp op s = .next t := by
  delta execEthernetFrame
  refine Keep.meaning (n := 0xc0f200f) ?_ _
  refine Keep.when' ?_
  refine Keep.bind ?_ fun _ => ?_
  · exact Keep.mono (keep_emit ..) rfl
  · refine Keep.when' ?_
    exact Keep.mono (keep_ethOp ..) rfl

theorem touch_killComplete (ctx : Fin 16) (s : State) : ∃ t, SameBut 0x203f3cdf s t ∧ execKillComplete ctx s = .next t := by
  delta execKillComplete
  refine Keep.meaning (n := 0x203f3cdf) (Keep.bind ?_ fun _ => Keep.mono (keep_flushRecords ..) rfl) _
  exact Keep.mono (keep_killCompletes ..) rfl

theorem touch_chainLinkUp (link : Bool) (loop : Nat) (s : State) : ∃ t, SameBut 0x8010002 s t ∧ execChainLinkUp link loop s = .next t := by
  delta execChainLinkUp
  refine Keep.meaning (n := 0x8010002) ?_ _
  refine Keep.bind ?_ fun _ => ?_
  · exact Keep.getS _
  · dsimp only
    refine Keep.ite ?_ ?_
    · refine Keep.bind ?_ fun _ => ?_
      · exact Keep.mono (keep_setFld ..) rfl
      · refine Keep.bind ?_ fun _ => ?_
        · exact Keep.mono (keep_modHop ..) rfl
        · refine Keep.bind ?_ fun _ => ?_
          · exact Keep.mono (keep_pumpHop ..) rfl
          · refine Keep.ite ?_ ?_
            · refine Keep.ite ?_ ?_
              · exact Keep.mono (keep_flag ..) rfl
              · refine Keep.bind ?_ fun _ => ?_
                · exact Keep.mono (keep_sendFrame ..) rfl
                · exact Keep.mono (keep_hopDelay ..) rfl
            · refine Keep.bind ?_ fun _ => ?_
              · exact Keep.mono (keep_passToken ..) rfl
              · refine Keep.when' ?_
                exact Keep.mono (keep_assignNodes ..) rfl
    · exact Keep.pure _ _

theorem touch_chainLinkLost (link : Bool) (s : State) : ∃ t, SameBut 0x2 s t ∧ execChainLinkLost link s = .next t := by
  delta execChainLinkLost
  refine Keep.meaning (n := 0x2) ?_ _
  refine Keep.bind ?_ fun _ => ?_
  · exact Keep.getS _
  · refine Keep.when' ?_
    refine Keep.bind ?_ fun _ => ?_
    · exact Keep.mono (keep_setFld ..) rfl
    · exact Keep.mono (keep_flag ..) rfl

theorem touch_ptpLockLost (s : State) : ∃ t, SameBut 0x2 s t ∧ execPtpLockLost s = .next t := by
  delta execPtpLockLost
  refine Keep.meaning (n := 0x2) ?_ _
  exact Keep.mono (keep_setFld ..) rfl

theorem touch_cxlLinkDown (port : Fin 8) (s : State) : ∃ t, SameBut 0x2 s t ∧ execCxlLinkDown port s = .next t := by
  delta execCxlLinkDown
  refine Keep.meaning (n := 0x2) ?_ _
  refine Keep.bind ?_ fun _ => ?_
  · exact Keep.getS _
  · refine Keep.ite ?_ ?_
    · refine Keep.bind ?_ fun _ => ?_
      · exact Keep.mono (keep_setFld ..) rfl
      · refine Keep.bind ?_ fun _ => ?_
        · exact Keep.mono (keep_flag ..) rfl
        · exact Keep.mono (keep_capUpdate ..) rfl
    · exact Keep.pure _ _

theorem touch_cxlLinkRetrained (port : Fin 8) (width : Nat) (rate : Fin 3) (s : State) : ∃ t, SameBut 0x2 s t ∧ execCxlLinkRetrained port width rate s = .next t := by
  delta execCxlLinkRetrained
  refine Keep.meaning (n := 0x2) ?_ _
  refine Keep.bind ?_ fun _ => ?_
  · exact Keep.getS _
  · refine Keep.ite ?_ ?_
    · refine Keep.bind ?_ fun _ => ?_
      · exact Keep.mono (keep_bump ..) rfl
      · exact Keep.mono (keep_cxlUp ..) rfl
    · exact Keep.pure _ _

theorem touch_flashWriteComplete (ok : Bool) (s : State) : ∃ t, SameBut 0x2c010042 s t ∧ execFlashWriteComplete ok s = .next t := by
  delta execFlashWriteComplete
  refine Keep.meaning (n := 0x2c010042) ?_ _
  exact Keep.mono (keep_flashDone ..) rfl

theorem touch_powerLoss (s : State) : ∃ t, SameBut 0x3fcefcfe s t ∧ execPowerLoss s = .next t := by
  delta execPowerLoss
  refine Keep.meaning (n := 0x3fcefcfe) ?_ _
  refine Keep.bind ?_ fun _ => ?_
  · exact Keep.getS _
  · refine Keep.bind ?_ fun _ => ?_
    · exact Keep.mono (keep_clearDevice ..) rfl
    · refine Keep.bind ?_ fun _ => ?_
      · exact Keep.mono (keep_resetWhere ..) rfl
      · refine Keep.bind ?_ fun _ => ?_
        · exact Keep.mono (keep_clearMem ..) rfl
        · refine Keep.bind ?_ fun _ => ?_
          · exact Keep.mono (keep_clearSyn ..) rfl
          · refine Keep.bind ?_ fun _ => ?_
            · refine Keep.each fun _ => ?_
              exact Keep.mono (keep_modStack ..) rfl
            · refine Keep.bind ?_ fun _ => ?_
              · exact Keep.mono (keep_modTick ..) rfl
              · refine Keep.bind ?_ fun _ => ?_
                · exact Keep.mono (keep_modTime ..) rfl
                · refine Keep.bind ?_ fun _ => ?_
                  · exact Keep.mono (keep_modWagon ..) rfl
                  · refine Keep.bind ?_ fun _ => ?_
                    · exact Keep.mono (keep_modDeepNext ..) rfl
                    · refine Keep.bind ?_ fun _ => ?_
                      · exact Keep.mono (keep_modTrouble ..) rfl
                      · refine Keep.bind ?_ fun _ => ?_
                        · exact Keep.mono (keep_modCond ..) rfl
                        · refine Keep.bind ?_ fun _ => ?_
                          · exact Keep.mono (keep_modResets ..) rfl
                          · refine Keep.bind ?_ fun _ => ?_
                            · exact Keep.mono (keep_modChain ..) rfl
                            · refine Keep.bind ?_ fun _ => ?_
                              · exact Keep.mono (keep_modPwr ..) rfl
                              · exact Keep.mono (keep_modLink ..) rfl

end Sys2Proof.Machine
end

