-- ==== Sys2Proof/Laws/Ops.lean ====
section
/-!
SUPPORT. Laws/Ops.lean: what the shared operations leave, in the words of Safety.lean, and what a field reads after it is
put.
-/

namespace Sys2Proof.Machine

/-- A part outside the mask is unchanged. -/
theorem SameBut.at {n : Nat} {s t : State} (h : SameBut n s t) (f : Fd) (hf : n.testBit f.num = false) : State.sameAt f s t := h.2.2 f hf

/-- Putting records into their rings changes only what a write to memory may and the records that wait, never the copies
for the control die (R650, R661). -/
theorem run_flushRings_frame (l : List (Nat × List Byte)) (k : Unit → Act) (s : State) : ∃ t, Act.run (flushRings l k) s = Act.run (k ()) t
   ∧ SameBut 0x200f200f s t ∧ t.link.mirror = s.link.mirror := by
  have put : ∀ (r : List (Nat × List Byte)) (t : State), SameBut 0x200f200f t (t.putLink fun l => { l with rings := r }) := fun r t =>
    Prim.same (.modLink fun l => { l with rings := r }) _ (show Nat.testBit _ 29 = true by decide) t
  induction l generalizing s with
  | nil => exact ⟨_, rfl, put [] s, rfl⟩
  | cons x rest ih =>
    obtain ⟨a, bs⟩ := x
    obtain ⟨o, t, h, e⟩ := (keep_writePhys viaRec a bs false).frame s (fun o => (match o with
      | .hold _ => modLink (fun l => { l with rings := (a, bs) :: rest })
      | _ => flushRings rest : M Unit) k)
    have h' : SameBut 0x200f200f s t := ⟨h.1, h.2.1, fun f hf => h.2.2 f (by cases f <;> first | rfl | (exact absurd hf (by decide)))⟩
    have hm : t.link.mirror = s.link.mirror := congrArg _ (h.at .link (by decide))
    obtain ⟨u, eu, hu, mu⟩ := ih t
    cases o with
    | hold w => exact ⟨_, e.trans (run_modLink ..), h'.trans (put _ t), hm⟩
    | _ => exact ⟨u, e.trans eu, h'.trans hu, mu.trans hm⟩

/-- Writing one record changes only what a write to memory may, and sends the control die its copy (R650, R651). -/
theorem run_writeRecord_frame (r : PendRec) (k : Unit → Act) (s : State) : ∃ t, Act.run (writeRecord r k) s = Act.run (k ()) t
   ∧ SameBut 0x200f200f s t ∧ t.link.mirror = s.link.mirror ++ [(false, recBytes r)] ∧ t.trPend = s.trPend ∧ t.pwr = s.pwr ∧ t.tick = s.tick ∧ t.time = s.time := by
  unfold writeRecord ringRecord
  simp only [run_bind, run_getS, run_modLink]
  have base : SameBut 0x200f200f s (s.putLink fun l => { l with mirror := l.mirror ++ [(false, recBytes r)] }) :=
    Prim.same (.modLink fun l => { l with mirror := l.mirror ++ [(false, recBytes r)] }) _ (show Nat.testBit _ 29 = true by decide) s
  simp only [run_ite, run_bind, run_getS]
  split
  · obtain ⟨t, e, h, m⟩ := run_flushRings_frame (s.link.rings ++
      [(rg s RESET_TR_BASE + r.seq % 2 ^ fv s RESET_TR_CFG_LOG2_SIZE * 64, recBytes r)]) k
      (s.putLink fun l => { l with mirror := l.mirror ++ [(false, recBytes r)] })
    exact ⟨t, e, base.trans h, m, h.at .trPend (by decide), h.at .pwr (by decide), h.at .tick (by decide), h.at .time (by decide)⟩
  · exact ⟨_, rfl, base, rfl, rfl, rfl, rfl, rfl⟩

/-- One record that has been taken is written when the meaning ends (R650, R651). -/
theorem run_flush_one (r : PendRec) (k : Unit → Act) (s : State) (h : s.trPend = [r]) : ∃ t, Act.run (flushRecords k) s = Act.run (k ()) t
   ∧ SameBut 0x202f200f s t ∧ t.link.mirror = s.link.mirror ++ [(false, recBytes r)] ∧ t.trPend = [] := by
  unfold flushRecords
  simp only [run_bind, run_getS, h, run_each_cons, run_each_nil, run_modTrPend]
  obtain ⟨t, e, b, m, p, _⟩ := run_writeRecord_frame r (fun _ => modTrPend (fun _ => []) k) s
  have b' : SameBut 0x202f200f s t := ⟨b.1, b.2.1, fun f hf => b.2.2 f (by cases f <;> first | rfl | (exact absurd hf (by decide)))⟩
  refine ⟨_, e, ?_, ?_, rfl⟩
  · refine b'.trans (Prim.same (.modTrPend fun _ => []) _ (show Nat.testBit _ 21 = true by decide) t)
  · exact m

/-- Steps that each change the state by `g` change it by the fold. -/
theorem run_each_of {α : Type} (g : State → α → State) (f : α → M Unit) (h : ∀ x k t, Act.run (f x k) t = Act.run (k ()) (g t x))
   (l : List α) (k : Unit → Act) (s : State) : Act.run (each l f k) s = Act.run (k ()) (l.foldl g s) := by
  induction l generalizing s with
  | nil => rfl
  | cons x xs ih => simp [h, ih]

@[simp] theorem run_capUpdate (k : Unit → Act) (s : State) : Act.run (capUpdate k) s = Act.run (k ()) s.recapped := by
  unfold capUpdate State.recapped
  simp only [run_bind, run_getS]
  exact run_each_of (fun t w => t.putReg (DISP_CAP w) _) _ (fun _ _ _ => rfl) _ _ _

@[simp] theorem run_bankFault (n b off : Nat) (k : Unit → Act) (s : State) : Act.run (bankFault n b off k) s = Act.run (k ()) (s.bankFaulting n b off) := by
  unfold bankFault bankRefused State.bankFaulting
  simp only [run_bind, run_flag, run_bump, run_faultCore]

/-- What a sequence keeps, with its answer. -/
theorem frame_of {α : Type} {n : Nat} {m : M α} (h : Keep n m) (s : State) (k : α → Act) :
    ∃ a t, SameBut n s t ∧ Act.run (m k) s = Act.run (k a) t := h.frame s k

/-- A fold keeps what every step keeps. -/
theorem foldl_same {α β : Type} (p : State → β) (g : State → α → State) (h : ∀ t x, p (g t x) = p t) (l : List α) (s : State) :
    p (l.foldl g s) = p s := by
  induction l generalizing s with
  | nil => rfl
  | cons x xs ih => rw [List.foldl_cons, ih, h]

/-- The capability update keeps what a register write keeps. -/
theorem recapped_same {β : Type} (p : State → β) (h : ∀ t a v, p (State.putReg t a v) = p t) (s : State) : p s.recapped = p s := by
  unfold State.recapped
  exact foldl_same p _ (fun t x => h t _ _) _ s

@[simp] theorem theOx_recapped (s : State) (o : Nat) : theOx s.recapped o = theOx s o := recapped_same (theOx · o) (by simp) s

@[simp] theorem theCore_recapped (s : State) (o : Nat) : theCore s.recapped o = theCore s o := recapped_same (theCore · o) (by simp) s

@[simp] theorem recapped_history (s : State) : s.recapped.history = s.history := recapped_same _ (by simp) s

@[simp] theorem recapped_latched (s : State) : s.recapped.latched = s.latched := recapped_same _ (by simp) s

@[simp] theorem recapped_trPend (s : State) : s.recapped.trPend = s.trPend := recapped_same _ (by simp) s

@[simp] theorem recapped_hbm (s : State) : s.recapped.hbm = s.hbm := recapped_same _ (by simp) s

@[simp] theorem recapped_lineErrs (s : State) : s.recapped.lineErrs = s.lineErrs := recapped_same _ (by simp) s

@[simp] theorem run_noteRank (n : Nat) (k : Unit → Act) (s : State) : Act.run (noteRank n k) s = Act.run (k ()) (s.ranked n) := by
  unfold noteRank State.ranked
  simp only [run_bind, run_getS, run_ite, run_when', run_pure]
  by_cases h : s.time.ranks.contains n = true <;> by_cases h2 : s.time.ranks.length = 1 <;> simp only [h, h2, if_true, if_false, Bool.not_true, Bool.not_false, Bool.false_eq_true, run_bump, run_modTime, decide_true, decide_false]

@[simp] theorem run_dropXlate (p : Xlate → Bool) (k : Unit → Act) (s : State) : Act.run (dropXlate p k) s = Act.run (k ()) (s.forgetting p) := by
  unfold dropXlate State.forgetting
  simp only [run_bind, run_getS]
  exact run_each_of (fun t n => t.putCore n (fun c => { c with xlate := c.xlate.filter (fun x => !p x) })) _ (fun _ _ _ => rfl) _ _ _

@[simp] theorem forgetting_trPend (s : State) (p : Xlate → Bool) : (s.forgetting p).trPend = s.trPend := foldl_same (fun s => s.trPend) (fun t n => t.putCore n (fun c => { c with xlate := c.xlate.filter (fun x => !p x) })) (fun _ _ => rfl) _ s

@[simp] theorem ranked_trPend (s : State) (k : Nat) : (s.ranked k).trPend = s.trPend := by unfold State.ranked; split <;> simp; split <;> simp

@[simp] theorem reached_trPend (s : State) (c k : Nat) : (s.reached c k).trPend = s.trPend := by unfold State.reached; split <;> simp

@[simp] theorem ranked_lineErrs (s : State) (k : Nat) : (s.ranked k).lineErrs = s.lineErrs := by unfold State.ranked; split <;> simp; split <;> simp

@[simp] theorem ranked_ctxs (s : State) (k : Nat) : (s.ranked k).ctxs = s.ctxs := by unfold State.ranked; split <;> simp; split <;> simp

@[simp] theorem ranked_cores (s : State) (k : Nat) : (s.ranked k).cores = s.cores := by unfold State.ranked; split <;> simp; split <;> simp

@[simp] theorem reached_lineErrs (s : State) (c k : Nat) : (s.reached c k).lineErrs = s.lineErrs := by unfold State.reached; split <;> simp

@[simp] theorem reached_ctxs (s : State) (c k : Nat) : (s.reached c k).ctxs = s.ctxs := by unfold State.reached; split <;> simp

@[simp] theorem reached_cores (s : State) (c k : Nat) : (s.reached c k).cores = s.cores := by unfold State.reached; split <;> simp

@[simp] theorem run_unready (c : Nat) (k : Unit → Act) (s : State) : Act.run (unready c k) s = Act.run (k ()) (s.unreadied c) := rfl

@[simp] theorem unreadied_trPend (s : State) (c : Nat) : (s.unreadied c).trPend = s.trPend := rfl

@[simp] theorem run_uncountTick (n : Nat) (k : Unit → Act) (s : State) : Act.run (uncountTick n k) s = Act.run (k ()) (s.uncounted n) := by
  unfold uncountTick State.uncounted
  simp only [run_bind, run_getS]
  cases (theCore s n).task
  · simp only [run_pure]
  · simp only [modTask, run_bind, run_modCore, run_setReg]

@[simp] theorem uncounted_trPend (s : State) (n : Nat) : (s.uncounted n).trPend = s.trPend := by unfold State.uncounted; split <;> simp

/-- A context command that has come to its tick. -/
theorem run_reach (s : State) (c code : Nat) (k : Unit → Act) : Act.run (when' (fv s (CTX_CMD_CODE c) = code) (setFld (CTX_STATE_CMD_ARMED c) 0) k) (s.ranked 5) = Act.run (k ()) (s.reached c code) := by
  unfold State.reached
  by_cases h : fv s (CTX_CMD_CODE c) = code <;> simp [h]

/-- With no line error given nothing is put. -/
theorem putLineErrs_nil (s : State) (h : s.lineErrs = []) : (s.putLineErrs fun _ => []) = s := by
  cases s; simp_all [State.putLineErrs]

@[simp] theorem forgetting_ctxs (s : State) (p : Xlate → Bool) : (s.forgetting p).ctxs = s.ctxs := foldl_same (fun s => s.ctxs) (fun t n => t.putCore n (fun c => { c with xlate := c.xlate.filter (fun x => !p x) })) (fun _ _ => rfl) _ s

/-- What a sequence leaves, by its mask. -/
theorem Gives.same {α : Type} {n : Nat} {m : M α} {s t : State} {a : α} (hk : Keep n m) (h : Gives m s a t) : SameBut n s t := by
  obtain ⟨a', t', hs, h'⟩ := hk.gives s
  have := (h (fun _ => .done)).symm.trans (h' (fun _ => .done))
  simp at this
  rw [this]; exact hs

@[simp] theorem run_modRoster (c r : Nat) (f : Roster → Roster) (k : Unit → Act) (s : State) : Act.run (modRoster c r f k) s = Act.run (k ()) (s.putRoster c r f) := rfl

@[simp] theorem run_modStream (c r : Nat) (f : Stream → Stream) (k : Unit → Act) (s : State) : Act.run (modStream c r f k) s = Act.run (k ()) (s.putStream c r f) := rfl

@[simp] theorem putRoster_trPend (s : State) (c r : Nat) (f : Roster → Roster) : (s.putRoster c r f).trPend = s.trPend := rfl

@[simp] theorem putStream_lineErrs (s : State) (c r : Nat) (f : Stream → Stream) : (s.putStream c r f).lineErrs = s.lineErrs := rfl

@[simp] theorem putStream_trPend (s : State) (c r : Nat) (f : Stream → Stream) : (s.putStream c r f).trPend = s.trPend := rfl

/-- With no record taken nothing is written when the meaning ends. -/
theorem run_last (s : State) (h : s.trPend = []) : Act.run (flushRecords fun _ => Act.done) s = s := run_flush _ _ h

/-- A sequence whose mask lacks the records takes none. -/
theorem Gives.trPend {α : Type} {n : Nat} {m : M α} {s t : State} {a : α} (h : Gives m s a t) (hk : Keep n m) (hn : n.testBit 21 = false) : t.trPend = s.trPend := (h.same hk).at .trPend hn

/-- A sequence whose mask lacks the line errors keeps them. -/
theorem Gives.lineErrs {α : Type} {n : Nat} {m : M α} {s t : State} {a : α} (h : Gives m s a t) (hk : Keep n m) (hn : n.testBit 9 = false) : t.lineErrs = s.lineErrs := (h.same hk).at .lineErrs hn

@[simp] theorem run_dropFailed (n : Nat) (k : Unit → Act) (s : State) : Act.run (dropFailed n k) s = Act.run (k ()) (s.failedGone n) := by
  unfold dropFailed State.failedGone
  simp only [run_bind, run_getS]
  exact run_each_of (fun t x => t.putCxl x (fun c => { c with out := c.out.filter (fun a => !(a.polled && a.req = n && a.failed)) })) _
    (fun _ _ _ => rfl) _ _ _

@[simp] theorem failedGone_trPend (s : State) (n : Nat) : (s.failedGone n).trPend = s.trPend := by
  unfold State.failedGone
  exact foldl_same State.trPend (fun t x => State.putCxl t x fun c => { c with out := c.out.filter (fun a => !(a.polled && a.req = n && a.failed)) })
    (fun _ _ => rfl) _ s

@[simp] theorem failedGone_lineErrs (s : State) (n : Nat) : (s.failedGone n).lineErrs = s.lineErrs := by
  unfold State.failedGone
  exact foldl_same State.lineErrs (fun t x => State.putCxl t x fun c => { c with out := c.out.filter (fun a => !(a.polled && a.req = n && a.failed)) })
    (fun _ _ => rfl) _ s

@[simp] theorem run_bankHold (n u : Nat) (bs : List (Nat × Nat)) (k : Unit → Act) (s : State) :
    Act.run (bankHold n u bs k) s = Act.run (k ()) (s.bankHeld n u bs) := rfl

@[simp] theorem bankHeld_trPend (s : State) (n u : Nat) (bs : List (Nat × Nat)) : (s.bankHeld n u bs).trPend = s.trPend := rfl

@[simp] theorem run_bankFree (n u : Nat) (k : Unit → Act) (s : State) : Act.run (bankFree n u k) s = Act.run (k ()) (s.bankFreed n u) := by
  unfold bankFree State.bankFreed
  simp only [run_bind, run_getS, run_when']
  split <;> rfl

@[simp] theorem bankFreed_trPend (s : State) (n u : Nat) : (s.bankFreed n u).trPend = s.trPend := by unfold State.bankFreed; split <;> rfl

@[simp] theorem bankFreed_lineErrs (s : State) (n u : Nat) : (s.bankFreed n u).lineErrs = s.lineErrs := by
  unfold State.bankFreed; split <;> rfl

@[simp] theorem run_noteWait (c : Nat) (w : HoldWhy) (k : Unit → Act) (s : State) :
    Act.run (noteWait c w k) s = Act.run (k ()) (s.waiting c w) := by cases w <;> rfl

@[simp] theorem waiting_trPend (s : State) (c : Nat) (w : HoldWhy) : (s.waiting c w).trPend = s.trPend := by cases w <;> rfl

@[simp] theorem waiting_lineErrs (s : State) (c : Nat) (w : HoldWhy) : (s.waiting c w).lineErrs = s.lineErrs := by cases w <;> rfl

/-- Noting a tile's outcome, in the words of Safety.lean. -/
theorem run_noteTile (n k i : Nat) (r : TRes) (q : Unit → Act) (s : State) : Act.run (noteTile n k i r q) s = Act.run (q ()) (s.noted n k i r) := by
  cases r <;> unfold noteTile State.noted <;> simp only [run_bind, run_getS, run_when'_true, run_when'_false, run_dropFailed, run_bankFree]
  case hold w =>
    simp only [run_when', run_noteWait]
    split <;> rfl
  all_goals rfl

@[simp] theorem noted_trPend (n k i : Nat) (r : TRes) (s : State) : (s.noted n k i r).trPend = s.trPend := by
  unfold State.noted
  cases r <;> simp only <;> repeat' split
  all_goals simp

@[simp] theorem noted_lineErrs (n k i : Nat) (r : TRes) (s : State) : (s.noted n k i r).lineErrs = s.lineErrs := by
  unfold State.noted
  cases r <;> simp only <;> repeat' split
  all_goals simp

@[simp] theorem run_abandonSpans (n : Nat) (k : Unit → Act) (s : State) : Act.run (abandonSpans n k) s = Act.run (k ()) (s.spansLost n) := by
  unfold abandonSpans State.spansLost
  simp only [run_bind, run_getS]
  generalize b2n (spanOpen s n false) + b2n (spanOpen s n true) = m
  by_cases h : m = 0 <;> simp [h]

@[simp] theorem spansLost_trPend (s : State) (n : Nat) : (s.spansLost n).trPend = s.trPend := by
  unfold State.spansLost; simp only; split <;> simp

@[simp] theorem run_addMod (f : Fld) (n : Nat) (k : Unit → Act) (s : State) : Act.run (addMod f n k) s = Act.run (k ()) (s.addMod f n) := rfl

@[simp] theorem addMod_trPend (f : Fld) (n : Nat) (s : State) : (s.addMod f n).trPend = s.trPend := rfl

@[simp] theorem addMod_cores (f : Fld) (n : Nat) (s : State) : (s.addMod f n).cores = s.cores := rfl

/-- A counter's advance, where one of the stream's advances is due at a tile's event. -/
theorem run_advance (b : Bool) (n hc k : Nat) (q : Unit → Act) (s : State) :
    Act.run (when' b (addHc n hc k) q) s = Act.run (q ()) (if b then s.addMod (CORE_HC_VALUE n hc) k else s) := by
  cases b
  · exact run_when'_false ..
  · exact run_addMod ..

/-- Completing a tile's event, in the words of Safety.lean. -/
theorem run_completeEvent (n k i : Nat) (ev : Bool) (q : Unit → Act) (s : State) : Act.run (completeEvent n k i ev q) s = Act.run (q ()) (s.eventDone n k i ev) := by
  unfold completeEvent State.eventDone
  cases ev <;>
    simp only [run_bind, run_getS, run_modStream, run_each_cons, run_each_nil, run_advance, Bool.not_true, Bool.not_false,
      run_when'_true, run_when'_false, run_addMod, Bool.false_eq_true, if_true, if_false, run_ite, run_setFld, run_pure] <;>
    simp only [run_when', run_abandonSpans, decide_eq_true_eq] <;> repeat' split
  all_goals rfl

/-- Completing an event takes no record. -/
theorem eventDone_trPend (n k i : Nat) (ev : Bool) (s : State) : (s.eventDone n k i ev).trPend = s.trPend := by
  unfold State.eventDone
  cases ev <;> simp only [Bool.false_eq_true, if_true, if_false] <;> repeat' split
  all_goals simp

@[simp] theorem run_bankSet (n b t u : Nat) (k : Unit → Act) (s : State) : Act.run (bankSet n b t u k) s = Act.run (k ()) (s.bankAs n b t u) := rfl

@[simp] theorem run_modTr (n b : Nat) (f : BankTr → BankTr) (k : Unit → Act) (s : State) : Act.run (modTr n b f k) s = Act.run (k ()) (s.putTr n b f) := rfl

@[simp] theorem run_clearBank (n b : Nat) (k : Unit → Act) (s : State) : Act.run (clearBank n b k) s = Act.run (k ()) (s.bankCleared n b) := by
  unfold clearBank State.bankCleared
  simp only [run_bind, run_clearMem, run_clearSyn, run_when', run_clearDraw, decide_eq_true_eq]
  split <;> rfl

@[simp] theorem run_cxlUp (x w r : Nat) (k : Unit → Act) (s : State) : Act.run (cxlUp x w r k) s = Act.run (k ()) (s.cxlTrained x w r) := by
  unfold cxlUp State.cxlTrained deepCheck
  simp only [run_bind, run_getS, run_setFld, run_when', run_flag, run_capUpdate]
  split <;> split <;> rfl

@[simp] theorem run_hintDrop (n : Nat) (k : Unit → Act) (s : State) : Act.run (hintDrop n k) s = Act.run (k ()) (s.hintsDropped n) := by
  unfold hintDrop State.hintsDropped
  by_cases h : n = 0 <;> simp [h, run_when']

@[simp] theorem run_endMove (m : Move) (k : Unit → Act) (s : State) : Act.run (endMove m k) s = Act.run (k ()) (s.moveEnded m) := rfl

theorem run_winAnswer (who : Who) (a : Nat) (bs : List Byte) (p : Bool) (k : Unit → Act) (s : State) :
    Act.run (winAnswer who a bs p k) s = Act.run (k ()) (s.answered who a bs p) := by cases who <;> cases p <;> rfl

@[simp] theorem answered_trPend (who : Who) (a : Nat) (bs : List Byte) (p : Bool) (s : State) :
    (s.answered who a bs p).trPend = s.trPend := by cases who <;> cases p <;> rfl

theorem run_noteGuest (t : State) (n b len : Nat) (k : Unit → Act) : Act.run (noteGuest t n b len k) t = Act.run (k ()) (t.guested n b len) := by
  unfold noteGuest State.guested
  simp only [run_when', run_bumpBy, Bool.and_eq_true, decide_eq_true_eq, bne_iff_ne, and_assoc]
  by_cases h : ceilDiv len 512 = 0
  · simp [h]
  · simp only [h, if_false, ne_eq, not_false_eq_true, and_true]
    split <;> rfl

@[simp] theorem guested_trPend (n b len : Nat) (s : State) : (s.guested n b len).trPend = s.trPend := by
  unfold State.guested; split <;> simp

theorem run_notDone (who : Who) (a kind code unit : Nat) (k : Unit → Act) (s : State) :
    Act.run (notDone who a kind code unit k) s = Act.run (k ()) (s.turnedAway who a kind code unit) := by cases who <;> rfl

@[simp] theorem turnedAway_trPend (who : Who) (a kind code unit : Nat) (s : State) :
    (s.turnedAway who a kind code unit).trPend = s.trPend := by cases who <;> rfl

@[simp] theorem run_putFrame (out : Bool) (hseq : Nat) (f : Frame) (k : Unit → Act) (s : State) :
    Act.run (putFrame out hseq f k) s = Act.run (k ()) (s.framed out hseq f) := rfl

@[simp] theorem run_sendAck (out : Bool) (k : Unit → Act) (s : State) : Act.run (sendAck out k) s = Act.run (k ()) (s.hopAcked out) := rfl

@[simp] theorem run_modHop (out : Bool) (f : HopSt → HopSt) (k : Unit → Act) (s : State) :
    Act.run (modHop out f k) s = Act.run (k ()) (s.putHop out f) := rfl

/-! ## Fields -/

theorem bits_withBits (n lo w v : Nat) : bits (withBits n lo w v) lo w = v % 2 ^ w := by
  unfold bits withBits
  have hl : 0 < 2 ^ lo := Nat.two_pow_pos lo
  unfold bits
  generalize hx : n / 2 ^ lo = x
  have e1 : n = n % 2 ^ lo + x * 2 ^ lo := by rw [← hx, Nat.mul_comm]; exact (Nat.mod_add_div n (2 ^ lo)).symm
  have hb : x % 2 ^ w ≤ x := Nat.mod_le _ _
  have e3 : n - x % 2 ^ w * 2 ^ lo + v % 2 ^ w * 2 ^ lo = n % 2 ^ lo + (x - x % 2 ^ w + v % 2 ^ w) * 2 ^ lo := by
    have : x % 2 ^ w * 2 ^ lo ≤ x * 2 ^ lo := Nat.mul_le_mul_right _ hb
    rw [Nat.add_mul, Nat.sub_mul]; omega
  rw [e3, Nat.add_mul_div_right _ _ hl, Nat.div_eq_of_lt (Nat.mod_lt _ hl), Nat.zero_add]
  have : x - x % 2 ^ w = 2 ^ w * (x / 2 ^ w) := by have := Nat.mod_add_div x (2 ^ w); omega
  rw [this, Nat.add_comm, Nat.add_mul_mod_self_left, Nat.mod_mod]

theorem bits_land (a m lo w : Nat) (h : bits m lo w = 2 ^ w - 1) : bits (Nat.land a m) lo w = bits a lo w := by
  unfold bits at *
  apply Nat.eq_of_testBit_eq
  intro i
  have hm : (m / 2 ^ lo % 2 ^ w).testBit i = decide (i < w) := by rw [h, Nat.testBit_two_pow_sub_one]
  have : Nat.land a m = a &&& m := rfl
  rw [this]
  simp only [Nat.testBit_mod_two_pow, Nat.testBit_div_two_pow, Nat.testBit_and] at *
  by_cases hi : i < w
  · simp_all
  · simp [hi]

/-- A field whose register keeps every bit of it. -/
def Fld.kept (f : Fld) : Bool :=
  decide (f.lo + f.w ≤ 64) && match regAny f.addr with
    | some d => decide (bits d.mask f.lo f.w = 2 ^ f.w - 1)
    | none => false

theorem bits_mod (n lo w k : Nat) (h : lo + w ≤ k) : bits (n % 2 ^ k) lo w = bits n lo w := by
  unfold bits
  apply Nat.eq_of_testBit_eq
  intro i
  simp only [Nat.testBit_mod_two_pow, Nat.testBit_div_two_pow]
  by_cases hi : i < w <;> simp [hi]
  intro _; omega

/-- A field holds what is put into it. -/
theorem fv_put (s : State) (f : Fld) (v : Nat) (h : f.kept = true) : fv (s.put f v) f = v % 2 ^ f.w := by
  unfold Fld.kept at h
  simp only [Bool.and_eq_true, decide_eq_true_eq] at h
  unfold fv State.put rg State.putReg
  simp only [mget_mset, if_true, regKeep]
  cases hr : regAny f.addr with
  | none => simp [hr] at h
  | some d =>
    simp only [hr, decide_eq_true_eq] at h
    simp only [BitVec.toNat_ofNat]
    rw [bits_mod _ _ _ _ h.1, bits_land _ _ _ _ h.2, bits_withBits]

/-! ## How a command ends -/

/-- Two sequences after each other. -/
theorem Gives.bind {α β : Type} {m : M α} {f : α → M β} {s t u : State} {a : α} {b : β} (h : Gives m s a t) (g : Gives (f a) t b u) :
    Gives (m >>= f) s b u := fun k => (h (fun x => f x k)).trans (g k)

/-- The trouble records taken can always be written. -/
theorem flush_gives (s : State) : ∃ t, Gives flushRecords s () t :=
  let ⟨_, t, _, h⟩ := keep_flushRecords.gives s
  ⟨t, h⟩

/-- A command without trouble records ends in the state its sequence leaves. -/
theorem Ends.of_next {o : Host.Outcome State Fault Refusal} {u : State} (hp : u.trPend = []) (h : o = .next u) : Ends o u :=
  ⟨u, fun _ => run_flush _ _ hp, h⟩

/-- A command that writes its trouble records ends where its sequence leads. -/
theorem Ends.of_runT {m : M Unit} {s u : State} (h : Gives m s () u) : Ends (runT m s) u :=
  let ⟨t, ht⟩ := flush_gives u
  ⟨t, ht, by rw [runT_eq]; exact congrArg _ ((h _).trans (ht _))⟩

/-- A command whose reads meet errors ends where its sequence leads from the state with these errors. -/
theorem Ends.of_errs {m : M Unit} {errs : List LineErr} {s u : State} (h : Gives m (s.meeting errs) () u) :
    Ends (runT (withErrs errs m) s) (u.meeting []) :=
  Ends.of_runT (fun k => (h _).trans rfl)

/-- Without trouble records an outcome ends in a state where it is that state. -/
theorem Ends.next_eq {o : Host.Outcome State Fault Refusal} {u : State} (h : Ends o u) (hp : u.trPend = []) : o = .next u := by
  obtain ⟨t, ht, e⟩ := h
  have := (ht (fun _ => .done)).symm.trans (run_flush _ _ hp)
  rw [e]; exact congrArg _ this

/-- No errors met is no change. -/
theorem meeting_nil {s : State} (h : s.lineErrs = []) : s.meeting [] = s := by
  cases s; simp_all [State.meeting]
@[simp] theorem meeting_trPend (s : State) (errs : List LineErr) : (s.meeting errs).trPend = s.trPend := rfl
@[simp] theorem meeting_meeting (s : State) (a b : List LineErr) : (s.meeting a).meeting b = s.meeting b := rfl

end Sys2Proof.Machine
end

