-- ==== Sys2Proof/WellFormed.lean ====
section
/-!
DEFINITION. WellFormed.lean: what a command's operands look like, whatever the state: the widths of the fields that carry
them, and what a row may be given (log 33, DESIGN CHOICE). Every meaning is total; an ill-formed command is one that no sender can form.
-/

namespace Sys2Proof

/-- A value of `w` bits. -/
def fits (w n : Nat) : Bool := decide (n < 2 ^ w)

/-- A packet whose header fields fit Table 12.4, with a payload of 0-126 words of 32 B (R508). -/
def Packet.wf (p : Packet) : Bool :=
  fits 18 p.dest && (!p.mcast || fits 10 p.dest) && decide (p.vc < 6) && fits 2 p.page && fits 4 p.kind && fits 18 p.src
    && fits 16 p.tag && fits 16 p.job && fits 32 p.image && fits 40 p.off && fits 16 p.gen && fits 64 p.info
    && decide (p.payload.length % 32 = 0) && decide (p.payload.length ≤ 126 * 32) && fits (p.payload.length / 32) p.poison

/-- The frame of a row of type `code`: its header fields fit Table 14.1, its payload is at most 1,024 B (R599), and its
TYPE is the row's or a reserved code. -/
def Frame.wf (code : Nat) (f : Frame) : Bool :=
  decide (f.dst ≤ 0x40) && decide (f.src ≤ 0x3F) && fits 32 f.xfer && decide (f.payload.length ≤ 1024)
    && (decide (f.type = code) || decide (f.type = 0) || (decide (9 ≤ f.type) && decide (f.type ≤ 255)))

/-- The errors of a line: each read adds to a 32-bit syndrome (R442). -/
def LineErr.wf (e : LineErr) : Bool := fits 48 e.line && fits 32 e.e1 && fits 32 e.e2

/-- What a start finds: physical rows and columns of 130 (R45), and two die-link modules (R686). -/
def StartInput.wf (i : StartInput) : Bool :=
  i.oxDefects.all (fun d => d.2.1.all (· < 130) && d.2.2.all (· < 130)) && decide (i.badModules.length ≤ 2) && decide (i.print.length ≤ 480)
    && fits 64 i.ptp

/-- What the environment shows at a tick: readings as their registers hold them. -/
def TickInput.wf (i : TickInput) : Bool :=
  fits 32 i.offset && i.tj.all (fun x => fits 8 x.2) && i.activity.all (fun x => fits 32 x.2) && i.withheld.all (fun x => fits 32 x.2)
    && i.hbmTemp.all (fun x => fits 8 x.2) && i.dieTemp.all (fun x => fits 8 x.2) && i.power.all (fits 16)
    && i.rails.all (fun x => fits 32 x.2) && i.start.wf

/-- What an Ethernet frame brings (R606, R625). -/
def EthOp.wf : EthOp → Bool
  | .data => true
  | .nodeTable t => t.all (fun e => decide (e.1.length = 16) && fits 18 e.2)
  | .object kind first last _ => fits 16 kind && fits 8 first && fits 8 last

/-- A command whose operands can be sent. -/
def Instr.wf : Instr → Bool
  | .registerWrite _ addr size data => fits 48 addr && fits 4 size && fits 64 data
  | .readClearField _ addr size => fits 48 addr && fits 4 size
  | .tickEdge i => i.wf
  | .holdoverEntry | .holdoverLimitExceeded | .ptpLockGained | .ptpLockLost => true
  | .upstreamTickReturn back => fits 64 back.count && fits 32 back.offset
  | .passPush _ w3 => fits 64 w3
  | .passHeadCheck _ | .oxAttach _ | .passComplete _ | .oxFence _ | .fenceLift _ | .sentStateClear _ => true
  | .segmentBegin _ _ => true
  | .passStart _ bubble => fits 32 bubble
  | .yokeRowIssue _ _ hold => fits 4 hold
  | .ctxStepParamsWrite _ _ data => fits 64 data
  | .drainEncode _ errs | .mergedRecordReread _ errs | .muleTileStart _ errs | .streamProgramStart _ errs => errs.all LineErr.wf
  | .muleProgWrite _ off data => fits 18 off && fits 64 data
  | .reduceTile _ | .streamProgramEnd _ | .taskCompletion _ | .coreStoppedForSave _ | .sentinelPass _ => true
  | .sramWindowAccess _ addr len data => fits 48 addr && data.all (fun d => decide (d.length = len))
  | .bankPowerRequest _ _ _ | .bankTransitionComplete _ _ | .bankRetire _ _ | .bankBind _ _ => true
  | .stationTileStart _ _ errs => errs.all LineErr.wf
  | .tileEventComplete _ _ _ | .exchange _ _ | .collieHandoff _ _ | .cqRead _ _ | .cdone _ _ _ => true
  | .hcAdd _ _ add => fits 16 add
  | .startCmd _ | .holdCmd _ | .save _ | .kill _ _ | .flushXlate _ | .saveComplete _ | .saveStopTimeout _ | .restoreComplete _
  | .killComplete _ => true
  | .restore _ errs => errs.all LineErr.wf
  | .coresWrite _ _ data | .penWrite _ _ data | .rosterCfgWrite _ _ data => fits 64 data
  | .rosterPubSample _ _ errs | .entryFetch _ _ errs => errs.all LineErr.wf
  | .pageWalk _ _ va _ errs => fits 52 va && errs.all LineErr.wf
  | .sentinelRound => true
  | .sentinelCompletion _ defects => defects.all (fun d => fits 32 d.2)
  | .hbmRead _ _ addr _ errs => fits 52 addr && errs.all LineErr.wf
  | .fullLineWrite _ addr data _ => fits 52 addr && fits 2048 data
  | .partialWrite _ addr data mask _ errs => fits 52 addr && fits 2048 data && fits 2048 mask && errs.all LineErr.wf
  | .wcbEntryComplete _ line errs => fits 48 line && errs.all LineErr.wf
  | .fence _ errs => errs.all LineErr.wf
  | .class0Window _ _ | .requestAged _ => true
  | .hbmTraining _ redundant fails untrained =>
    fits 4 redundant && decide (fails.map Prod.fst).Nodup && decide untrained.Nodup
  | .maintEnter _ _ | .maintExit _ _ | .mrRead _ _ _ _ | .mrWrite _ _ _ _ | .softPpr _ _ _ _ | .hardPpr _ _ _ _ | .softPprUndo _ _ _ _
  | .ieee1500 _ _ _ _ => true
  | .mbist _ _ _ _ rows => rows.all (fits 32)
  | .cxlTraining _ width _ cap => decide (width ≤ 16) && fits 32 cap
  | .cxlLinkDown _ => true
  | .cxlLinkRetrained _ width _ => decide (width ≤ 16)
  | .deepAccess _ _ addr va _ data _ errs =>
    fits 48 addr && fits 52 va && data.all (fun d => fits 2048 d.1 && fits 2048 d.2) && errs.all LineErr.wf
  | .heatEpoch | .wagonEnable | .wagonDisable | .wagonDrainComplete => true
  | .promote _ page _ | .evict _ page _ | .pin _ page _ | .unpin _ page _ => fits 31 page
  | .moveComplete page errs => fits 31 page && errs.all LineErr.wf
  | .moveFail page => fits 31 page
  | .wagonResumeComplete errs => errs.all LineErr.wf
  | .deepAccessLate _ _ | .deepAccessFail _ _ | .lateAnswerDiscard _ _ => true
  | .recompAck _ q | .recompExpiry _ q => fits 16 q
  | .scrubGroup _ errs | .retireComplete _ errs => errs.all LineErr.wf
  | .retire _ _ page slot => fits 16 page && fits 9 slot
  | .portTraining _ tx rx peer => fits 18 tx && fits 18 rx && fits 16 peer
  | .wavelengthDegrade _ _ corr _ => fits 32 corr
  | .swapReq _ _ _ | .swapAck _ | .swapGo _ | .switchMarker _ | .linkDown _ => true
  | .dataPacket _ _ lseq p errs | .rts _ _ lseq p errs | .grant _ _ lseq p errs | .ack _ _ lseq p errs | .refuse _ _ lseq p errs
  | .xdata _ _ lseq p errs | .mgmt _ _ lseq p errs => fits 16 lseq && p.wf && errs.all LineErr.wf
  | .replayRequest _ lseq | .linkAck _ lseq => fits 16 lseq
  | .routeSwitch | .e2eTimeout => true
  | .routeEntryWrite _ _ data | .xferRingWrite _ data | .rosterGenWrite _ _ data => fits 64 data
  | .xferPubSample errs | .keyInstall _ _ errs | .verifyComplete errs => errs.all LineErr.wf
  | .keyErase _ _ | .verifyQueue _ _ _ | .verifyDoneRead | .gslotLoad _ _ _ | .gslotReady _ _ _ | .gslotAbandon _ _ _ | .genSwitch _
  | .rsrcReqRead => true
  | .rsrcDone page | .rsrcExpiry page => fits 48 page
  | .attestRequest nonce => decide (nonce.length = 32)
  | .token _ _ hseq f => fits 16 hseq && f.wf 1
  | .nodeAssign _ _ hseq f => fits 16 hseq && f.wf 2
  | .chainAck _ _ hseq f => fits 16 hseq && f.wf 3
  | .offer _ _ hseq f => fits 16 hseq && f.wf 4
  | .chainData _ _ hseq f errs => fits 16 hseq && f.wf 5 && errs.all LineErr.wf
  | .result _ _ hseq f => fits 16 hseq && f.wf 6
  | .delay _ _ hseq f _ => fits 16 hseq && f.wf 7
  | .chainMgmt _ _ hseq f => fits 16 hseq && f.wf 8
  | .headDecision | .chainResend _ | .chainLinkUp _ _ | .chainLinkLost _ | .firmwareActivation | .flashWriteComplete _ => true
  | .tickCountLoad back => fits 64 back.count && fits 32 back.offset
  | .stageTimeout xfer => fits 32 xfer
  | .coldStart i | .deviceReset i => i.wf
  | .hangDeclaration _ | .refuseLimitExpiry _ _ | .requestRefused _ _ _ _ => true
  | .oxReset _ | .coreReset _ | .contextReset _ | .portReset _ | .iodReset _ | .stackReset _ | .dieReset _ => true
  | .resetComplete _ _ | .resetEscalation _ _ | .resetN | .powerLoss | .record | .ucieModuleDown _ | .powerTrip | .throttleWindow => true
  | .staleReply _ _ gen => fits 16 gen
  | .jobFaultRaise _ _ origin => fits 18 origin
  | .thermalTrip _ reading | .railFault _ _ reading => fits 16 reading
  | .dieLinkRead _ tag gen addr len errs => fits 16 tag && fits 16 gen && fits 48 addr && fits 9 len && errs.all LineErr.wf
  | .dieLinkWrite _ tag gen addr data errs =>
    fits 16 tag && fits 16 gen && fits 48 addr && fits 9 data.length && errs.all LineErr.wf
  | .readReply _ tag | .writeAck _ tag => fits 16 tag
  | .ethernetFrame _ _ _ stamp op => stamp.all (fits 80) && op.wf

end Sys2Proof
end

