-- ==== Sys2Proof/Tests/Slice0.lean ====
section
/-!
SUPPORT. Slice0.lean: tests. Expected values come from the worked examples and the tables of the spec, or from a rule's own
words, as each test's comment sent; then a state and operands that meet the premises of every statement, clause by clause.
-/

open Sys2Proof Sys2Proof.Machine Sys2Proof.Machine.PassField

namespace Sys2Proof.Tests

set_option Elab.async false

/-- The state after reset with fields put. -/
def after (l : List (Fld × Nat)) : State := l.foldl (fun s x => s.put x.1 x.2) State.reset

/-- A task of context 0 that has run for `run` ticks of its window of 100. -/
def aTask (run : Nat) (begun ended : Bool) : Task :=
  ⟨0, 0, 0, [], 0, begun, ended, 0, 0, 0, 0, run, 0, false, 0, 100, true, 0, none, []⟩

/-- A pass of segment 1 with one Yoke row, into bank A0, or to the Mule. -/
def aPass (mule : Bool) : PassD := ⟨2 ^ 48 + 2 ^ 32, 0, b2n mule, 0⟩

/-- Core 0 after reset, changed. -/
def core0 (f : CoreSt → CoreSt) : State := State.reset.putCore 0 f

/-- Ox 0 after reset with one pass in its queue. -/
def queued (checked : Bool) (s : State) : State := s.putOx 0 (fun x => { x with queue := [⟨aPass false, checked, false⟩] })

/-- Ox 0 after reset with its one pass complete. -/
def ranOut (mule : Bool) (s : State) : State := s.putOx 0 (fun x => { x with run := some ⟨aPass mule, 1, 0, [], [], 0, none⟩ })

/-- The segment of that pass, with one row for OX0. -/
def aSeg : Seg := ⟨1, 0, 1, false, 0, 1, 0, [⟨1, 0, ⟨0, false⟩, 127, []⟩]⟩

/-- Core 0 running a task whose stream 0 has one tile of a station. -/
def streaming (d0 : Nat) (f : Stream → Stream) : State :=
  core0 (fun c => { c with
    task := some (aTask 0 true false)
    streams := f { Stream.unused with desc := [d0 + 2 ^ 32], state := 1 } :: List.replicate 15 .unused })

/-! ## Ill-formed commands are refused by the check, and well-formed ones pass it -/

def okPacket : Packet := ⟨0, false, 0, false, 0, 0, 0, 0, 0, 0, 0, true, 0, 0, [], 0⟩
def okFrame (type : Nat) : Frame := ⟨0x40, 0x3F, type, 0, []⟩
def okTick : TickInput := ⟨true, 0, [], [], [], [], [], none, [], .clean⟩

theorem test_wf_accepts : Packet.wf okPacket = true ∧ (List.range 8).all (fun k => (okFrame (k + 1)).wf (k + 1)) = true ∧ okTick.wf = true
    ∧ (Instr.registerWrite .controlDie 0xF00000000000 8 (2 ^ 64 - 1)).wf = true ∧ (Instr.passPush 255 (2 ^ 64 - 1)).wf = true := by decide +kernel

theorem test_wf_packet_fields :
    [{ okPacket with dest := 2 ^ 18 }, { okPacket with dest := 1024, mcast := true }, { okPacket with vc := 6 }, { okPacket with page := 4 },
      { okPacket with kind := 16 }, { okPacket with src := 2 ^ 18 }, { okPacket with tag := 65536 }, { okPacket with job := 65536 },
      { okPacket with image := 2 ^ 32 }, { okPacket with off := 2 ^ 40 }, { okPacket with gen := 65536 }, { okPacket with info := 2 ^ 64 },
      { okPacket with payload := [0] }, { okPacket with payload := List.replicate 4064 0 }, { okPacket with poison := 1 }].map Packet.wf
    = List.replicate 15 false := by decide +kernel

theorem test_wf_frame_fields :
    [{ okFrame 1 with dst := 0x41 }, { okFrame 1 with src := 0x40 }, { okFrame 1 with xfer := 2 ^ 32 }, { okFrame 1 with payload := List.replicate 1025 0 },
      { okFrame 1 with type := 2 }, { okFrame 1 with type := 256 }].map (Frame.wf 1) = List.replicate 6 false := by decide +kernel

theorem test_wf_inputs :
    [({ StartInput.clean with oxDefects := [(0, [130], [])] }).wf, ({ StartInput.clean with oxDefects := [(0, [], [130])] }).wf,
      ({ StartInput.clean with badModules := [true, true, true] }).wf, ({ StartInput.clean with print := List.replicate 481 0 }).wf,
      ({ StartInput.clean with ptp := 2 ^ 64 }).wf, ({ okTick with offset := 2 ^ 32 }).wf, ({ okTick with tj := [(0, 256)] }).wf,
      ({ okTick with activity := [(0, 2 ^ 32)] }).wf, ({ okTick with withheld := [(0, 2 ^ 32)] }).wf, ({ okTick with hbmTemp := [(0, 256)] }).wf,
      ({ okTick with dieTemp := [(0, 256)] }).wf, ({ okTick with power := some 65536 }).wf, ({ okTick with rails := [(0, 2 ^ 32)] }).wf,
      LineErr.wf ⟨2 ^ 48, 0, 0⟩, LineErr.wf ⟨0, 2 ^ 32, 0⟩, LineErr.wf ⟨0, 0, 2 ^ 32⟩, EthOp.wf (.nodeTable [([], 0)]), EthOp.wf (.object 65536 0 0 [])]
    = List.replicate 18 false := by decide +kernel

theorem test_wf_register_commands :
    [Instr.registerWrite .controlDie (2 ^ 48) 4 0, .registerWrite .controlDie 0 16 0, .registerWrite .controlDie 0 8 (2 ^ 64),
      .readClearField .controlDie (2 ^ 48) 4, .tickEdge { okTick with offset := 2 ^ 32 }, .upstreamTickReturn ⟨2 ^ 64, 0⟩, .upstreamTickReturn ⟨0, 2 ^ 32⟩, .passPush 0 (2 ^ 64),
      .passStart 0 (2 ^ 32), .yokeRowIssue 0 true 16, .ctxStepParamsWrite 0 0 (2 ^ 64), .muleProgWrite 0 (2 ^ 18) 0, .muleProgWrite 0 0 (2 ^ 64),
      .sramWindowAccess .controlDie (2 ^ 48) 1 none, .sramWindowAccess .controlDie 0 2 (some [0]), .hcAdd 0 0 65536, .coresWrite 0 0 (2 ^ 64),
      .routeEntryWrite 0 0 (2 ^ 64), .sentinelCompletion 0 [(0, 2 ^ 32)]].map Instr.wf = List.replicate 19 false := by decide +kernel

theorem test_wf_memory_commands :
    let bad : List LineErr := [⟨2 ^ 48, 0, 0⟩]
    [Instr.drainEncode 0 bad, .stationTileStart 0 0 bad, .restore 0 bad, .rosterPubSample 0 0 bad, .pageWalk 0 0 (2 ^ 52) false [],
      .hbmRead 0 0 (2 ^ 52) .physical [], .hbmRead 0 0 0 .physical bad, .fullLineWrite 0 0 (2 ^ 2048) false, .partialWrite 0 0 0 (2 ^ 2048) false [],
      .wcbEntryComplete 0 (2 ^ 48) [], .fence 0 bad, .hbmTraining 0 16 [] [], .hbmTraining 0 0 [(0, 1), (0, 2)] [], .hbmTraining 0 0 [] [0, 0],
      .mbist .controlDie 0 0 false [2 ^ 32], .cxlTraining 0 17 0 0, .cxlLinkRetrained 0 17 0, .deepAccess 0 none 0 (2 ^ 52) false none none [],
      .deepAccess 0 none 0 0 false (some (2 ^ 2048, 0)) none [], .promote .controlDie (2 ^ 31) 0, .moveComplete (2 ^ 31) [], .moveFail (2 ^ 31),
      .wagonResumeComplete bad, .recompAck 0 65536, .scrubGroup 0 bad, .retire .controlDie 0 65536 0, .retire .controlDie 0 0 512].map Instr.wf
    = List.replicate 27 false := by decide +kernel

theorem test_wf_other_commands :
    let bad : List LineErr := [⟨2 ^ 48, 0, 0⟩]
    [Instr.portTraining 0 (2 ^ 18) 0 0, .wavelengthDegrade 0 0 (2 ^ 32) false, .dataPacket 0 true 65536 okPacket [], .rts 0 true 0 { okPacket with vc := 6 } [],
      .mgmt 0 true 0 okPacket bad, .replayRequest 0 65536, .keyInstall .controlDie 0 bad, .rsrcDone (2 ^ 48), .attestRequest [],
      .token true true 65536 (okFrame 1), .nodeAssign true true 0 (okFrame 1), .chainAck true true 0 (okFrame 1), .offer true true 0 (okFrame 1),
      .chainData true true 0 (okFrame 1) [], .chainData true true 0 (okFrame 5) bad, .result true true 0 (okFrame 1), .delay true true 0 (okFrame 1) 0,
      .chainMgmt true true 0 (okFrame 1), .tickCountLoad ⟨2 ^ 64, 0⟩, .stageTimeout (2 ^ 32), .coldStart { StartInput.clean with print := List.replicate 481 0 },
      .staleReply 0 0 65536, .jobFaultRaise .controlDie 0 (2 ^ 18), .thermalTrip 0 65536, .dieLinkRead true 65536 0 0 4 [],
      .dieLinkRead true 0 65536 0 4 [], .dieLinkRead true 0 0 (2 ^ 48) 4 [], .dieLinkRead true 0 0 0 512 [],
      .dieLinkWrite true 0 0 0 (List.replicate 512 0) [], .readReply true 65536, .ethernetFrame true true [] (some (2 ^ 80)) .data].map Instr.wf
    = List.replicate 31 false := by decide +kernel

/-! ## Worked examples and tables of the spec -/

/-- The state a command leaves. -/
def now (c : Instr) (s : State) : State := match exec c s with | .next t => t | _ => s

/-- What left the block with the command. -/
def sent (c : Instr) (s : State) : List OutMsg := (now c s).outbox

/-- The column of the example after R123. -/
def exampleColumn : Col :=
  columnSum [product (decodeCode f8p 0x38 129) (decodeCode f16n 0x3C01 127), product (decodeCode f8p 0x01 129) (decodeCode f16n 0x8001 127),
    product (decodeCode f8p 0x00 129) (decodeCode f16n 0x5BFF 127)]

/-- Source: the example after R123. -/
theorem test_column_register : (exampleColumn.a, exampleColumn.u) = (134348799, -25) := by decide +kernel

/-- Source: the example after R123, with ACC = 1 and with ACC = 0. -/
theorem test_column_leaves_the_array :
    toFp32 ((ofFp32 0xC0800000).add exampleColumn.result) .rne = 0x3B7FFF80 ∧ toFp32 exampleColumn.result .rne = 0x40802000 := by decide +kernel

/-- Source: the conversion vectors at the end of 03_number_formats.md. -/
theorem test_conversion_vectors :
    encodeCode f8p 0x43700000 0 .rne = (0x77, .exact) ∧ encodeCode f8p 0x43780000 0 .rne = (0x77, .saturated)
      ∧ encodeCode f8r 0x47780000 0 .rne = (0x7C, .overflowed) ∧ encodeCode f8p 0xBA800000 0 .rne = (0x00, .vanished) := by decide +kernel

/-- Source: the GRADIENT example of 04_scales_and_statistics.md (3,000.0 has FP32 code 0x453B8000). -/
theorem test_gradient_scale : chooseScale 0x453B8000 f8p 0 = 131 ∧ encodeCode f8p 0x453B8000 4 .rne = (0x74, .inexact) := by decide +kernel

/-- Source: the stochastic rounding example of 04_scales_and_statistics.md. -/
theorem test_stochastic_rounding :
    encodeCode f16w 0x3F809800 0 (.sr 0x6001) = (0x3F80, .inexact) ∧ encodeCode f16w 0x3F809800 0 (.sr 0x6C79) = (0x3F81, .inexact) := by decide +kernel

/-- Source: the vectors of the random bits, 04_scales_and_statistics.md. -/
theorem test_random_bits : srHash 0 0 0 0 = 0x600154B9 ∧ srBits 0 0 0 0 = 0x6001 := by decide +kernel

/-- Source: the ROW SUM example of 05_mule_and_reduction.md (SUM is FUNC 0). -/
theorem test_row_sum_order :
    pw 0 [⟨0x4B800000, false⟩, ⟨fOne, false⟩, ⟨fOne, false⟩, ⟨fOne, false⟩] = ⟨0x4B800001, false⟩ := by decide +kernel

/-- Source: the address example of 09_hbm_subsystem.md. -/
theorem test_line_address :
    regionOf .ty4180 0x006012345600 = .hbm 3 0x12345600 ∧ pcOf 0x123456 = 32 := by decide +kernel

/-- Source: the deep page example of 10_deep_tier_and_wagon.md. -/
theorem test_deep_page_address :
    (match regionOf .ty4180 0x100246800000 with | .deep off => deepIdx off | _ => 0) = 0x1234 := by decide +kernel

/-- Source: R607. -/
theorem test_tick_pulses : pulseNs 0 = 300 ∧ pulseNs 63 = 100 ∧ pulseNs 70 = 100 ∧ pulseNs 71 = 200 ∧ pulseNs 64 = 300 := by decide +kernel

/-- H3 of core 0 in the example of 06_core_memory.md, its STATE and TARGET. -/
def h3 (s : State) : Nat × Nat := (fv s (bankState 0 3), fv s (bankTarget 0 3))
def goingOff : State := now (.bankPowerRequest 0 3 2) State.reset
def pendingOn : State := now (.bankPowerRequest 0 3 0) goingOff

/-- Source: the bank power example of 06_core_memory.md. -/
theorem test_bank_goes_off_and_wakes :
    h3 goingOff = (3, 2) ∧ h3 pendingOn = (5, 0) ∧ h3 (now (.bankTransitionComplete 0 3) pendingOn) = (4, 0)
      ∧ h3 (now (.bankTransitionComplete 0 3) (now (.bankTransitionComplete 0 3) pendingOn)) = (0, 0) := by decide +kernel

/-- Source: the same example, the RETENTION write that coalesces (R239). -/
theorem test_bank_request_coalesces :
    (h3 (now (.bankPowerRequest 0 3 1) pendingOn)).2 = 2
      ∧ h3 (now (.bankTransitionComplete 0 3) (now (.bankPowerRequest 0 3 1) pendingOn)) = (2, 2) := by decide +kernel

/-! ## Single commands -/

/-- Source: R63. -/
theorem test_push_overflow :
    let s := State.reset.putOx 0 (fun x => { x with queue := List.replicate 4 ⟨.zero, false, false⟩ })
    fb (now (.passPush 0 1) s) (OX_STATUS_PUSH_OVF 0) = true ∧ (theOx (now (.passPush 0 1) s) 0).queue.length = 4 := by decide +kernel

/-- Source: R60, Table 2.4: a pass of no rows has code 4. -/
theorem test_pass_of_no_rows :
    let s := now (.passHeadCheck 0) (State.reset.putOx 0 (fun x => { x with queue := [⟨⟨0, 0, 0, 7⟩, false, false⟩] }))
    (fv s (OX_FAULT_CODE 0), fv s (OX_FAULT_PASS_ID 0)) = (4, 7) := by decide +kernel

/-- Source: R309, Table 8.3: START of an EMPTY context, HOLD of it. -/
theorem test_context_commands :
    ctxState (now (.startCmd 3) State.reset) 3 = 1 ∧ fb (now (.holdCmd 3) State.reset) (CTX_STATE_CMD_REJECT 3) = true := by decide +kernel

/-- Source: R312: a core of another context. -/
theorem test_cores_taken : rg (now (.coresWrite 1 0 3) (State.reset.putReg (CTX_CORES 0) 1)) (CTX_CORES 1) = 0 := by decide +kernel

/-- Source: R270, R275: the counter has 32 bits. -/
theorem test_hc_wraps : fv (now (.hcAdd 0 5 3) (State.reset.put (CORE_HC_VALUE 0 5) (2 ^ 32 - 1))) (CORE_HC_VALUE 0 5) = 2 := by decide +kernel

/-- Source: R376: a full line reads back; another line does not change. -/
theorem test_full_line_write :
    let s := now (.fullLineWrite 64 256 5 false) (State.reset.put (HBM_STATUS_STATE 0) 2)
    (rawBytes s 256 2, rawBytes s 512 2) = ([5, 0], [0, 0]) := by decide +kernel

/-- Source: R7: an address with no memory gives the control die an error. -/
theorem test_no_memory : sent (.hbmRead 72 0 0xE00000000000 .physical []) State.reset = [.errorStatus 0xE00000000000] := by decide +kernel

/-- Source: R414: a hint of a DISABLED Wagon is dropped and counted. -/
theorem test_hint_dropped : fv (now (.promote .controlDie 1 0) State.reset) WAGON_HINT_DROPS_COUNT = 1 := by decide +kernel

/-- Source: R467: no page of the spare region is retired. -/
theorem test_retire_out_of_range :
    fv (now (.retire .controlDie 0 64256 0) State.reset) (HBM_RETIRE_STATUS_RESULT 0) = 3 := by decide +kernel

/-- Source: R580: a switch to a LOADING slot is rejected. -/
theorem test_generation_switch_rejected :
    fb (now (.genSwitch 0) (after [(CTX_GEN_STATUS_ARMED 0, 1), (CTX_GSLOTk_STATE 0 0, 1)])) (CTX_GEN_STATUS_SWITCH_REJECT 0) = true := by
  decide +kernel

/-- Source: R527: the current page is guarded. -/
theorem test_route_page_busy : fb (now (.routeEntryWrite 0 0 1) State.reset) PORT_ROUTE_STATUS_PAGE_BUSY = true := by decide +kernel

/-- Source: R512: a packet out of order asks for a replay from the expected LSEQ. -/
theorem test_packet_out_of_order :
    sent (.dataPacket 0 true 1 okPacket []) (after [(PORT_STATUS_STATE 0, 2), (PORT_NODE_NODE, 1)]) = [.replayRequest 0 0] := by decide +kernel

/-- Source: R602: a TOKEN gives the device its address, one more than the sender's. -/
theorem test_token_address :
    fv (now (.token true true 0 ⟨0, 1, 1, 0, [1]⟩) (after [(CHAIN_START_PHASE, 3), (linkFld false, 1)])) CHAIN_ADDR_ADDRESS = 2 := by decide +kernel

/-- Source: R656: a unit that does not exist. -/
theorem test_bad_unit : fb (now (.oxReset 256) State.reset) RESET_STATUS_BAD_UNIT = true := by decide +kernel

/-- Source: R655: a reset of a unit in reset is counted. -/
theorem test_reset_coalesced :
    fv (now (.oxReset 20) (State.reset.putResets (fun _ => [⟨2, 5, [], 0, 0, false⟩]))) RESET_COALESCED_COUNT = 1 := by decide +kernel

/-- Source: R660: a core in reset refuses with the generation it will have. -/
theorem test_refused_by_reset :
    sent (.registerWrite .controlDie (CORE_HC_ADD 5) 4 0) (State.reset.put (RESET_GEN_CORE_RESETTING 5) 1) = [.refusal (CORE_HC_ADD 5) 1] := by
  decide +kernel

/-- Source: R686, R687: a read of a register over the die link is answered under its tag. -/
theorem test_die_link_read :
    (now (.dieLinkRead false 9 0 TIME_TICK_NOW 8 []) (State.reset.putTick (fun _ => 258))).link.out.map (fun q => (q.tag, q.bs.take 2)) = [(9, [2, 1])] := by
  decide +kernel

/-- Source: R689: a frame of 9,217 bytes is not sent. -/
theorem test_long_ethernet_frame : sent (.ethernetFrame true false (List.replicate 9217 0) none .data) State.reset = [] := by decide +kernel

/-! ## The premises of the statements can be met -/

/-- The tick is put to 1 where a sequence's value and the state it leaves are as `p` says, else to 0. -/
def probe {α : Type} (p : α → State → Bool) (a : α) : Act := .read (fun u => .prim (.modTick (fun _ => b2n (p a u))) .done)

/-- What the probe finds is what the sequence gives. -/
theorem gives_of_probe {α : Type} {m : M α} {s : State} {n : Nat} (p : α → State → Bool) (hm : Keep n m)
    (h : (Act.run (m (probe p)) s).tick = 1) : ∃ a u, Gives m s a u ∧ p a u = true := by
  obtain ⟨a, u, -, g⟩ := hm.gives s
  refine ⟨a, u, g, ?_⟩
  rw [g (probe p)] at h
  cases hp : p a u
  · simp [probe, Act.run, Prim.apply, hp, b2n] at h
  · rfl

/-- CRC-32C byte by byte, each step's register made a number before the next: the same function, in a form that the kernel
evaluates without nesting the steps. -/
def crcForced : List Byte → Nat → Nat
  | [], c => c
  | b :: l, c => if crcByte 0x82F63B78 c b.toNat = 0 then crcForced l (crcByte 0x82F63B78 c b.toNat)
      else crcForced l (crcByte 0x82F63B78 c b.toNat)

theorem crc32c_eq_crcForced (bs : List Byte) : crc32c bs = Nat.xor (crcForced bs 0xFFFFFFFF) 0xFFFFFFFF := by
  have h : ∀ (l : List Byte) (c : Nat), crcForced l c = l.foldl (fun c b => crcByte 0x82F63B78 c b.toNat) c := by
    intro l
    induction l with
    | nil => intro c; rfl
    | cons b l ih => intro c; simp only [crcForced, ite_self, ih, List.foldl_cons]
  rw [h]; rfl

/-- Stack 0 in service with the tables of context 0: its first 1 GiB is that of the stack, readable only. -/
def mapped : State :=
  ((after [(HBM_STATUS_STATE 0, 2)]).putBytes 0 [1, 16]).putBytes 4096 [3]

/-- CORE_63 is context 0's, and the image of one core stands at SAVE_BASE; the CRC is that of R348 over the header. -/
def saved : State :=
  (((mapped.putReg (CTX_CORES 0) (2 ^ 63)).put (CTX_SAVE_BASE_BASE 0) 1).putBytes 0x200000 [0x54, 0x59, 0x53, 0x56, 1]).putBytes
    0x20002C [1] |>.putBytes 0x201080 [0xFD, 0xA5, 0x11, 0xF3]

/-- The Wagon has EN, its directory at the start of stack 0 and one deep port. -/
def wagonOn : State :=
  after [(WAGON_DEEP_CFG_PORTS, 1), (WAGON_DEEP_CFG_PORT_GIB, 1), (CXL_STATUS_STATE 0, 2), (CXL_CAP_GIB_GIB 0, 1), (HBM_STATUS_STATE 0, 2),
    (WAGON_STATUS_STATE, 1), (WAGON_POOL_STACKS_MASK, 1)]

theorem witness_StepRunsTheFrontCommand : ({ State.reset with pending := [.ptpLockGained] } : State).pending = .ptpLockGained :: [] := rfl

theorem witness_AnEmptyQueueIdles : State.reset.pending = [] := rfl

theorem witness_ColumnAdderFloorsTheExactSum :
    let t : Term := ⟨.fin, false, 2 ^ 22 - 1, -20⟩
    t.cls = .fin ∧ (⟨false, false, false, 2 ^ 29 - 1, 0⟩ : Col).a.natAbs < 2 ^ 29 ∧ t.q.natAbs < 2 ^ 22 ∧ (t.q ≠ 0 ∨ Col.start.a ≠ 0) := by
  decide +kernel

theorem witness_Fp32ResultsAreTheRoundedMagnitude :
    let q (k : ℤ) : ℤ := max ((Nat.log2 1 : ℤ) + k) (-126) - 23
    let i (k : ℤ) : ℤ := ⌊((1 : Nat) : ℚ) * 2 ^ (k - q k)⌋
    (1 : Nat) ≠ 0 ∧ (∀ r, Round.sr 65535 = .sr r → r < 2 ^ 16) ∧ i (-200) = 0 ∧ (2 ^ 24 - 1) * 2 ^ (104 : ℤ) < (i 200 : ℚ) * 2 ^ q 200
      ∧ 0 < i 0 ∧ (i 0 : ℚ) * 2 ^ q 0 ≤ (2 ^ 24 - 1) * 2 ^ (104 : ℤ) := by
  have h : Nat.log2 1 = 0 := by decide
  refine ⟨by decide, ?_, ?_, ?_, ?_, ?_⟩
  · rintro r ⟨⟩; decide
  · norm_num [h, Int.floor_eq_iff]
  all_goals norm_num [h]

theorem witness_EveryStepKeepsTheInvariant : State.reset.Inv ∧ ∃ t, step State.reset = .next t := by
  refine ⟨?_, State.reset, rfl⟩
  unfold State.Inv; decide +kernel

theorem witness_ResetLeavesTheResetValues : (regAt State.reset.part TIME_TICK_NOW).isSome = true := by decide +kernel

theorem witness_TickEdgeAdvancesTheCountByOne :
    State.reset.trPend = [] ∧ tickRuns State.reset = false ∧ tickRuns (after [(TIME_STATUS_LOCKED, 1)]) = true := by decide +kernel

theorem witness_HoldoverBeginsEndsAndIsRecorded :
    let s := (after [(TIME_STATUS_HOLDOVER, 1)]).putTime (fun t => { t with holdLen := 100001 })
    s.trPend = [] ∧ fb s TIME_STATUS_HOLDOVER = true ∧ s.tick = 0 ∧ holdLate s = true
      ∧ fb State.reset TIME_STATUS_HOLDOVER = false ∧ holdLate State.reset = false ∧ follows State.reset = false
      ∧ follows (after [(TIME_STATUS_LOCKED, 1)]) = true ∧ signed (2 ^ 32 - 50000) 32 = -50000 ∧ signed 50001 32 = 50001
      ∧ (s.putTime (fun t => { t with slew := true })).time.slew = true ∧ s.time.slew = false
      ∧ ({ okTick with upstream := true }).upstream = true ∧ ({ okTick with upstream := false }).upstream = false := by
  decide +kernel

theorem witness_AccessOfBadWidthIsNotPerformed :
    State.reset.trPend = [] ∧ isReg 0xF00000000000 = true ∧ widthOk 0xF00000000000 2 = false
      ∧ isReg 0xF0000FFFFFFF = true ∧ widthOk 0xF0000FFFFFFF 4 = false := by decide +kernel

theorem witness_GapsReadZeroAndDropWrites :
    isReg 0xF00000000028 = true ∧ widthOk 0xF00000000028 8 = true ∧ regRefuses State.reset 0xF00000000028 = none
      ∧ regAt State.reset.part 0xF00000000028 = none ∧ regAt State.reset.part (0xF00000000028 + 4) = none := by decide +kernel

theorem witness_NarrowAccessToAWideRegister :
    isReg TIME_TICK_NOW = true ∧ TIME_TICK_NOW % 4 = 0 ∧ regRefuses State.reset TIME_TICK_NOW = none
      ∧ (regAt State.reset.part TIME_TICK_NOW).map (·.width) = some 64 := by decide +kernel


theorem witness_WritesActFieldByField :
    isReg TIME_HOLDOVER_LIMIT = true ∧ widthOk TIME_HOLDOVER_LIMIT 4 = true ∧ regRefuses State.reset TIME_HOLDOVER_LIMIT = none
      ∧ (regAt State.reset.part TIME_HOLDOVER_LIMIT).map (·.width) = some 32 ∧ plainBlock (.collie 63) TIME_HOLDOVER_LIMIT = true
      ∧ isReg SEC_KEY_SRC = true ∧ (regAt State.reset.part SEC_KEY_SRC).map (·.width) = some 64 ∧ blkOf SEC_KEY_SRC = .sec
      ∧ isReg 0xFFFFFFFFFFFF = false ∧ regionOf State.reset.part 0xFFFFFFFFFFFF = .reserved
      ∧ isReg 0 = false ∧ regionOf State.reset.part 0 ≠ .reserved := by decide +kernel

theorem witness_ReadsAnswerTheRegisterAndResetsRefuse :
    regRefuses (after [(RESET_GEN_CORE_RESETTING 0, 1)]) (CORE_HC_ADD 0) = some 1
      ∧ isReg (CORE_HC_ADD 0) = true ∧ widthOk (CORE_HC_ADD 0) 4 = true ∧ regRefuses State.reset TIME_SAME_TICK = none
      ∧ (regAt State.reset.part TIME_SAME_TICK).map (fun d => (d.width, d.hasRc)) = some (32, true) := by decide +kernel

theorem witness_PassPushQueuesThePass :
    oxResetting (after [(RESET_GEN_OX_RESETTING 255, 1)]) 255 = true ∧ oxResetting State.reset 255 = false
      ∧ (theOx State.reset 255).queue.length < 4
      ∧ ¬ (theOx (State.reset.putOx 255 (fun x => { x with queue := List.replicate 4 ⟨.zero, false, false⟩ })) 255).queue.length < 4 := by
  decide +kernel

theorem witness_HeadCheckPassesOrFaults :
    (theOx State.reset 0).queue = [] ∧ (theOx (queued true State.reset) 0).queue = [⟨aPass false, true, false⟩]
      ∧ passCheck (queued false State.reset) 0 (aPass false) = none ∧ passCheck (queued false State.reset) 0 .zero = some 4 := by decide +kernel

theorem witness_OxenAttachAndFence :
    (theOx (State.reset.putOx 0 (fun x => { x with detached := true })) 0).detached = true ∧ lagOf (theOx State.reset 0) ≤ 32
      ∧ oxResetting (after [(RESET_GEN_OX_RESETTING 0, 1)]) 0 = true ∧ oxResetting State.reset 0 = false
      ∧ fb State.reset (OX_CTRL_FENCE 0) = false
      ∧ fb (((after [(OX_CTRL_FENCE 0, 1)]).putCore 0 (fun c => { c with fence := 1 }))) (OX_CTRL_FENCE 0) = true
      ∧ bit (theCore (core0 (fun c => { c with fence := 1 })) (oxCore 0)).fence (oxIdx 0) = true
      ∧ (theOx State.reset 0).run = none ∧ (theOx State.reset 0).drain = [] := by decide +kernel

theorem witness_SegmentsAndPassesBeginAndComplete :
    let b := queued true (core0 (fun c => { c with segs := [aSeg] }))
    let e := core0 (fun c => { c with segs := [aSeg] })
    let p := queued true (core0 (fun c => { c with issue := some aSeg }))
    let w := ((after [(bankState 0 0, 4)]).putCore 0 (fun c => { c with issue := some aSeg })).putOx 0
      (fun x => { x with queue := [⟨⟨2 ^ 48 + 2 ^ 32 + 8, 0, 0, 0⟩, true, false⟩] })
    let m := (core0 (fun c => { c with toMule := [List.replicate 32 ⟨⟨0, false⟩, []⟩, [], [], []] })).putOx 0
      (fun x => { x with run := some ⟨aPass true, 1, 0, [⟨⟨0, false⟩, []⟩], [], 0, none⟩ })
    ((theCore b 0).issue = none ∧ segGoes b 0 = true ∧ (theCore b 0).segs = [aSeg] ∧ oxenOfMask b 0 aSeg.mask = [0]
      ∧ canBegin b 0 1 true = true ∧ passCheck b 0 (aPass false) = none ∧ (theOx b 0).queue = [⟨aPass false, true, false⟩]
      ∧ (theOx e 0).queue = [] ∧ oxenOfMask e 0 aSeg.mask = [0] ∧ canBegin e 0 1 false = false ∧ (theCore p 0).issue ≠ none)
    ∧ ((runDone (theOx p 0) && oxAvail p 0 0 && rowComes p 0 (seg (aPass false)) && decide ((theCore p 0).stopped < 2)) = true
      ∧ banksGate p 0 ((startBanks (aPass false)).map Prod.fst) = .on ∧ aBank (aPass false) ≠ 7)
    ∧ ((runDone (theOx w 0) && oxAvail w 0 0 && rowComes w 0 1 && decide ((theCore w 0).stopped < 2)) = true
      ∧ seg ⟨2 ^ 48 + 2 ^ 32 + 8, 0, 0, 0⟩ = 1 ∧ banksGate w 0 ((startBanks ⟨2 ^ 48 + 2 ^ 32 + 8, 0, 0, 0⟩).map Prod.fst) = .waits)
    ∧ (nextOut (theOx State.reset 0) = none ∧ (nextOut (theOx (ranOut true State.reset) 0)).isSome = true
      ∧ toMule (aPass true) = true ∧ toMule (aPass false) = false
      ∧ (nextOut (theOx m 0)).map (fun p => (outRows p).drop p.given) = some [⟨⟨0, false⟩, []⟩]
      ∧ 32 + (theCore m 0).mule.takes - ((theCore m 0).toMule.getD 0 []).length = 0
      ∧ (nextOut (theOx (ranOut false State.reset) 0)).isSome = true ∧ bankGate (ranOut false State.reset) 0 4 = .on
      ∧ bankGate (after [(bankTarget 0 4, 1), (bankState 0 4, 1)]) 0 4 = .refused ∧ bankGate (after [(bankState 0 4, 4)]) 0 4 = .waits) := by
  decide +kernel

theorem witness_YokeRowsReachEveryParticipant :
    let s := (core0 (fun c => { c with issue := some aSeg })).putOx 0
      (fun x => { x with run := some ⟨aPass false, 0, 0, [], [], 0, none⟩ })
    (theCore s 0).issue = some aSeg
      ∧ (∀ k < 4, (theOx s k).lag = [] ∧ (theOx s k).detached = false ∧ bit 0 k = false ∧ behind (theOx s k) ≤ 128
        ∧ (theOx s k).run.all (fun p => mode p.d != 1) = true)
      ∧ (oxenOfMask s 0 aSeg.mask).contains 0 = true ∧ takes s 0 ⟨1, 0, ⟨0, false⟩, 127, []⟩ = true
      ∧ takes State.reset 0 ⟨1, 0, ⟨0, false⟩, 127, []⟩ = false ∧ (theCore State.reset 63).issue = none := by decide +kernel

theorem witness_ContextRegisterWritesAreChecked :
    ctxState State.reset 15 = 0 ∧ ctxState (after [(CTX_STATE_STATE 0, 1)]) 0 = 1
      ∧ Nat.land (rg ((State.reset).putReg (CTX_CORES 1) (2 ^ 63)) (CTX_CORES 1)) (2 ^ 63) ≠ 0
      ∧ (let s := ((State.reset).putReg (CTX_CORES 0) 1).putReg (CTX_PEN 0 1) 1
         Nat.land (Nat.land (rg s (CTX_PEN 0 1)) (rg s (CTX_CORES 0))) 1 ≠ 0)
      ∧ bits 1024 10 42 ≠ fv State.reset (CTX_ROSTER_BASE 0 7) ∧ fb (after [(CTX_ROSTER_EN 0 7, 1)]) (CTX_ROSTER_EN 0 7) = true := by decide +kernel

theorem witness_ContextCommandsActOrAreRejected :
    tripped State.reset = false ∧ cmdAllowed 1 (ctxState State.reset 15) = true ∧ cmdAllowed 2 (ctxState State.reset 15) = false
      ∧ cmdAllowed 3 0 = false ∧ cmdAllowed 4 1 = false ∧ cmdAllowed 5 0 = false ∧ cmdAllowed 6 0 = false ∧ cmdAllowed 1 7 = false
      ∧ cmdAllowed 2 1 = true ∧ cmdAllowed 6 2 = true ∧ fv (after [(CHAIN_START_MODE, 1)]) CHAIN_START_MODE = 1
      ∧ fv State.reset CHAIN_START_MODE ≠ 1 := by decide +kernel

theorem witness_SavesBeginAndCompleteWithTheHeaderLast :
    let op : SaveOp := ⟨0, [], [], true, [0, 0, 0, 0], [0, 0, 0]⟩
    let s := (after [(CTX_STATE_STATE 15, 3)]).putCtx 15 (fun x => { x with save := some op })
    tripped State.reset = false ∧ fv State.reset CHAIN_START_MODE ≠ 1 ∧ cmdAllowed 3 (ctxState (after [(CTX_STATE_STATE 0, 1)]) 0) = true
      ∧ cmdAllowed 5 (ctxState (after [(CTX_STATE_STATE 0, 6)]) 0) = true
      ∧ (theCtx s 15).save = some op ∧ ctxState s 15 = 3 ∧ op.begun = true ∧ op.cores.all op.copied.contains = true := by decide +kernel

theorem witness_CoresStopForASaveInTime :
    let op : SaveOp := ⟨0, [63], [], true, [0, 0, 0, 0], [0, 0, 0]⟩
    let s := ((((after [(CTX_STATE_STATE 0, 3), (DISP_STOP_LIMIT_TICKS, 0)]).putReg (CTX_CORES 0) (2 ^ 63)).putCtx 0
      (fun x => { x with save := some op })).putCore 63 (fun c => { c with stopped := 1 })).putTick (· + 1)
    let busy := s.putCore 63 (fun c => { c with issue := some aSeg })
    holderOf State.reset 63 = none ∧ holderOf s 63 = some 0 ∧ (theCtx s 0).save = some op ∧ (theCore s 63).stopped = 1
      ∧ stopReady s 63 = true ∧ op.cores.contains 63 = true ∧ op.copied.contains 63 = false ∧ stopReady busy 63 = false
      ∧ holderOf busy 63 = some 0 ∧ saveLate s 0 = some 63 ∧ saveLate State.reset 0 = none := by decide +kernel

theorem witness_RestoreAndKillCheckAndComplete :
    cmdAllowed 4 (ctxState State.reset 0) = true ∧ tripped State.reset = false ∧ fv State.reset CHAIN_START_MODE ≠ 1
      ∧ ctxState (after [(CTX_STATE_STATE 15, 5)]) 15 = 5 ∧ ctxState (after [(CTX_STATE_STATE 15, 7)]) 15 = 7
      ∧ ctxState State.reset 15 ≠ 5 ∧ ctxState State.reset 15 ≠ 7 := by decide +kernel

theorem witness_RestoreAndKillCheckAndComplete_goodHeader :
    tripped saved = false ∧ fv saved CHAIN_START_MODE ≠ 1 ∧ cmdAllowed 4 (ctxState saved 0) = true
      ∧ ∃ h u, Gives (readHeader 0) ((saved.reached 0 4).meeting []) (.ok h) u ∧ headerOk h = true
        ∧ fieldAt h 0x2C 1 ≤ (coresOf u 0).length
        ∧ ((coresOf u 0).take (fieldAt h 0x2C 1)).zipIdx.all (fun x => meetsSlot u x.1 (slotHdr h x.2)) = true := by
  refine ⟨by decide +kernel, by decide +kernel, by decide +kernel, ?_⟩
  obtain ⟨r, u, g, hp⟩ := gives_of_probe (m := readHeader 0) (s := (saved.reached 0 4).meeting [])
    (fun r u => match r with
      | .ok h => fieldAt h 0 4 = 0x56535954 && fieldAt h 4 4 % 2 = 1
          && fieldAt h 0x1080 4 = Nat.xor (crcForced (h.take 0x1080) 0xFFFFFFFF) 0xFFFFFFFF && decide (fieldAt h 0x2C 1 ≤ (coresOf u 0).length)
          && ((coresOf u 0).take (fieldAt h 0x2C 1)).zipIdx.all (fun x => meetsSlot u x.1 (slotHdr h x.2))
      | .error _ => false) (keep_readHeader 0) (by decide +kernel)
  cases r with
  | error w => simp at hp
  | ok h =>
    simp only [Bool.and_eq_true, decide_eq_true_eq, ← crc32c_eq_crcForced] at hp
    exact ⟨h, u, g, by simp [headerOk, hp.1.1.1.1, hp.1.1.1.2, hp.1.1.2], hp.1.2, hp.2⟩

theorem witness_RostersAreSampledFetchedAndFinished :
    let s := ((after [(CTX_STATE_STATE 0, 1), (CTX_ROSTER_LOG2_SIZE 0 7, 4)]).putRoster 0 7
      (fun x => { x with en := true, fresh := false, pub := 1 }))
    let d := (core0 (fun c => { c with task := some (aTask 0 true true) })).latching ⟨6, 0, some 0, 0, .taskDone 0⟩
    rosOn s 0 7 = true ∧ ctxState s 0 = 1 ∧ (theRoster s 0 7).fresh = false ∧ (theRoster s 0 7).head = none
      ∧ (theRoster s 0 7).taken < (theRoster s 0 7).pub ∧ rosOn State.reset 0 7 = false
      ∧ State.reset.latched.any (fun e => e.kind = .taskDone 0) = false ∧ d.latched.any (fun e => e.kind = .taskDone 0) = true
      ∧ (theCore d 0).task = some (aTask 0 true true) := by decide +kernel

theorem witness_TilesStartWhenTheirWaitsHold :
    let s := streaming stLoad id
    let w := streaming stLoad (fun x => { x with desc := [stLoad + 2 ^ 32, 0, 0, 0, 0, 16 + 2 ^ 32] })
    let e := streaming (stLoad + 2 * 32) id
    let h := streaming stLoad (fun x => { x with held := [⟨0, .retire 0, 0, false, false⟩] })
    let r := (streaming stLoad (fun x => { x with held := [⟨0, .rsrc 0, 0, false, false⟩] })).putWagon (fun w => { w with rsrc := [⟨0, 0, 0⟩] })
    (streamOpen s 0 0 = true ∧ muleReady s 0 0 = true ∧ (theCore s 0).encWait.any (fun w => w.slot = 0) = false
      ∧ (theStream s 0 0).held = [] ∧ waitsHold s 0 (theStream s 0 0).desc 0 = true ∧ exchOk (theStream s 0 0) 0 = true)
    ∧ (streamOpen w 0 0 = true ∧ waitsHold w 0 (theStream w 0 0).desc 0 = false)
    ∧ (streamOpen e 0 0 = true ∧ waitsHold e 0 (theStream e 0 0).desc 0 = true ∧ exchOk (theStream e 0 0) 0 = false)
    ∧ (streamOpen h 0 0 = true ∧ stillHeld h 0 ⟨0, .retire 0, 0, false, false⟩ = false)
    ∧ (streamOpen r 0 0 = true ∧ stillHeld r 0 ⟨0, .rsrc 0, 0, false, false⟩ = true) ∧ exchHeld s 0 0 0 = false
    ∧ streamOpen State.reset 63 15 = false ∧ (theCore State.reset 63).encWait = []
    ∧ (slotsOf (streaming stDrain id) 0 stDrain).head? = some 0 ∧ (slotsOf (streaming stMule id) 0 stMule).head? = some 0
    ∧ (slotsOf (streaming stReduce id) 0 stReduce).head? = some 0 ∧ dStation (theStream (streaming stCollie id) 0 0).desc = stCollie
    ∧ dStation (theStream State.reset 0 0).desc ≠ stCollie
    ∧ (theCore (core0 (fun c => { c with encWait := [⟨0, 0⟩] })) 0).encWait = [⟨0, 0⟩] := by decide +kernel

theorem witness_TileEventsAndCoreRegisterCommandsAct :
    let s := streaming stLoad (fun x => { x with next := 1 })
    let st := streaming stStore (fun x => { x with next := 1 })
    let m := streaming stMule (fun x => { x with next := 1 })
    let o := streaming stOx (fun x => { x with next := 1 })
    let h : Handoff := ⟨15, 0, 0, 0, 0, false⟩
    let q := core0 (fun c => { c with hand1 := [h] })
    ((theStream s 0 0).state = 1 ∧ (theCore s 0).stopped < 2 ∧ nextEvent (theStream s 0 0) false < (theStream s 0 0).next
      ∧ event0 s 0 0 0 = true ∧ dStation (theStream s 0 0).desc = stLoad)
    ∧ (event1 st 0 0 0 = true ∧ nextEvent (theStream st 0 0) true < 1 ∧ dStation (theStream st 0 0).desc = stStore)
    ∧ (event0 m 0 0 0 = true ∧ dStation (theStream m 0 0).desc = stMule)
    ∧ (dStation (theStream o 0 0).desc = stOx ∧ dStation (theStream s 0 0).desc ≠ stOx ∧ dStation (theStream s 0 0).desc ≠ stTrail)
    ∧ (theStream State.reset 63 15).state ≠ 1
    ∧ coreResetting (after [(RESET_GEN_CORE_RESETTING 63, 1)]) 63 = true ∧ coreResetting State.reset 63 = false
    ∧ (theCore State.reset 63).hand0.find? (fun h => !h.taken) = none ∧ (theCore q 0).hand1.find? (fun h => !h.taken) = some h
    ∧ (theCore q 0).hand1.find? (fun h => h.slot = 15) = some h := by decide +kernel

theorem witness_BanksExchangeAndBind :
    let x (side : Nat) : Stream := { Stream.unused with desc := [stLoad + side * 32 + 128 + 2 ^ 32], state := 1, next := 1, done0 := 1 }
    let s := core0 (fun c => { c with streams := x 1 :: x 2 :: List.replicate 14 .unused })
    let b := core0 (fun c => { c with bindWait := [(15, 3)] })
    exchStream s 0 1 1 = some 0 ∧ exchStream s 0 1 2 = some 1 ∧ exchDue (theStream s 0 0) (theStream s 0 1) = true
      ∧ (theCore s 0).progBad = false ∧ exchStream State.reset 0 0 1 = none
      ∧ (theCore b 0).bindWait.filter (fun b => b.1 = 15) = [(15, 3)] ∧ bankGate b 0 3 = .on ∧ bindOf b 0 3 = 0
      ∧ bankGate ((after [(bankTarget 0 3, 2)]).putCore 0 (fun c => { c with bindWait := [(15, 3)] })) 0 3 = .refused
      ∧ bindOf (after [(⟨CORE_HBIND 0, 12, 4⟩, 3)]) 0 3 = 3 ∧ (theCore State.reset 0).bindWait.filter (fun b => b.1 = 15) = []
      ∧ (theCore (core0 (fun c => { c with progBad := true })) 0).progBad = true ∧ (theCore b 0).progBad = false := by decide +kernel

theorem witness_YokeOxAndCollieTilesHandOverTheirWork :
    let c := streaming stCollie id
    let full := c.putCore 0 (fun k => { k with hand0 := List.replicate 8 ⟨0, 0, 0, 0, 0, false⟩ })
    let o := streaming stOx (fun x => { x with desc := [stOx + 2 ^ 32, 0, 0, 0, 0, 0, 0, 0, 0, 0, 0, 0, 1] })
    let of := o.putOx 0 (fun x => { x with queue := List.replicate 4 ⟨.zero, false, false⟩ })
    let y := streaming stYoke (fun x => { x with desc := [stYoke + 2 ^ 32, 0, 0, 0, 0, 0, 0, 0, 1] })
    (dStation (theStream c 0 0).desc = stCollie ∧ (origin (theStream c 0 0).desc 0).1 ≤ 2 ^ 32 - 1
      ∧ (theCore full 0).hand0.filter (fun h => !h.taken) ≠ [] ∧ 8 ≤ ((theCore full 0).hand0.filter (fun h => !h.taken)).length
      ∧ ((theCore c 0).hand0.filter (fun h => !h.taken)).length < 8)
    ∧ (dStation (theStream o 0 0).desc = stOx ∧ oxParts o 0 (theStream o 0 0).desc = [(0, 0)] ∧ (theOx o 0).queue.length < 4
      ∧ (theOx of 0).queue.length = 4)
    ∧ (dStation (theStream y 0 0).desc = stYoke ∧ tileCheck (theStream y 0 0).desc 0 (yokeImgs (theStream y 0 0).desc 0) false = none
      ∧ imgGate y 0 (yokeImgs (theStream y 0 0).desc 0) = .on) := by decide +kernel

theorem witness_AStreamProgramStartsAndEnds :
    let s := core0 (fun c => { c with task := some (aTask 0 false false) })
    programDone (core0 (fun c => { c with task := some (aTask 0 true false) })) 0 = true ∧ programDone State.reset 63 = false
      ∧ (theCore State.reset 63).statDue = [] ∧ (theCore State.reset 63).task = none ∧ (theCore s 0).task = some (aTask 0 false false)
      ∧ (aTask 0 false false).begun = false ∧ (theCore s 0).stopped = 0 ∧ (theCore s 0).sent = none := by decide +kernel

theorem witness_BanksChangePowerAndRetire :
    coreResetting (after [(RESET_GEN_CORE_RESETTING 63, 1)]) 63 = true ∧ coreResetting State.reset 63 = false
      ∧ (theCore State.reset 63).stopped < 2 ∧ 2 ≤ (theCore (core0 (fun c => { c with stopped := 2 })) 0).stopped
      ∧ (theCore State.reset 63).winWait = [] ∧ (theCore State.reset 63).bankWaits = []
      ∧ fb (after [(bankRetired 63 11, 1)]) (bankRetired 63 11) = true ∧ fb State.reset (bankRetired 63 11) = false := by decide +kernel

theorem witness_WindowAccessesReachTheBanks :
    regionOf State.reset.part 0xFFFFFFFFFFFF = .reserved ∧ regionOf State.reset.part (winBase 63 + 0xA40000) = .sram 63 0xA40000
      ∧ regionOf State.reset.part 0 = .hbm 0 0 ∧ regionOf State.reset.part (winBase 63 + 0xA60000) = .sram 63 0xA60000
      ∧ regionOf State.reset.part (winBase 63 + 0x9FFFFF) = .sram 63 0x9FFFFF ∧ (theTr State.reset 63 11).left = false
      ∧ (theTr (State.reset.putTr 63 11 (fun x => { x with left := true })) 63 11).left = true
      ∧ coreResetting State.reset 63 = false ∧ coreResetting (after [(RESET_GEN_CORE_RESETTING 63, 1)]) 63 = true
      ∧ bankGate State.reset 63 (winBank 0x9FFFFF).1 = .on ∧ bankGate (after [(bankState 63 11, 4)]) 63 (winBank 0x9FFFFF).1 = .waits
      ∧ bankGate (after [(bankTarget 63 11, 2)]) 63 (winBank 0x9FFFFF).1 = .refused
      ∧ (theCore State.reset 0).stopped < 2 ∧ 2 ≤ (theCore (core0 (fun c => { c with stopped := 2 })) 0).stopped := by decide +kernel

theorem witness_APageWalkFaultsOrCachesItsTranslation :
    let x : Xlate := ⟨15, none, 1, 1, false, false, true⟩
    let s := (after [(HBM_STATUS_STATE 0, 2)]).putCore 63 (fun c => { c with xlate := [x] })
    s.trPend = [] ∧ s.lineErrs = [] ∧ cacheSlot s { taskAcc s 63 1 with ctx := 15 } page2M = none
      ∧ (theCore s 63).xlate.find? (fun x => x.ctx = 15 && x.gslot = none && x.vpage = page2M / page2M) = some x
      ∧ regionOf s.part (x.ppage * page2M + page2M % page2M) = .hbm 0 page2M
      ∧ pageAbsent s 63 (x.ppage * page2M + page2M % page2M) = none := by decide +kernel

theorem witness_APageWalkFaultsOrCachesItsTranslation_completes :
    let a : CtxAcc := { taskAcc mapped 63 1 with ctx := 0 }
    mapped.trPend = [] ∧ mapped.lineErrs = []
      ∧ (theCore mapped 63).xlate.find? (fun x => x.ctx = 0 && x.gslot = cacheSlot mapped a 0 && x.vpage = 0 / page2M) = none
      ∧ ∃ x e u, Gives (walkTables a 0 false) (mapped.meeting []) (.ok x, e) u ∧ regionOf mapped.part x.pa = .hbm 0 0
        ∧ pageAbsent u 63 x.pa = none := by
  refine ⟨by decide +kernel, by decide +kernel, by decide +kernel, ?_⟩
  obtain ⟨⟨r, e⟩, u, g, hp⟩ := gives_of_probe (m := walkTables { taskAcc mapped 63 1 with ctx := 0 } 0 false)
    (s := mapped.meeting [])
    (fun r u => match r.1 with
      | .ok x => decide (regionOf mapped.part x.pa = .hbm 0 0) && decide (pageAbsent u 63 x.pa = none)
      | .stop _ => false) (keep_walkTables ..) (by decide +kernel)
  cases r with
  | stop w => simp at hp
  | ok x => simp only [Bool.and_eq_true, decide_eq_true_eq] at hp; exact ⟨x, e, u, g, hp.1, hp.2⟩

theorem witness_SentinelRoundsPassesAndCompletions :
    let s := (after [(DISP_SENT_CFG_EN, 1), (CHAIN_START_PHASE, 9), (DISP_SENT_TASKS_COUNT, 0)]).putReg DISP_SENT_PENDING 1
    let d := State.reset.putCore 63 (fun c => { c with sent := some ⟨0, [], 0, 0, 0, 0⟩ })
    roundDue s = true ∧ roundDue State.reset = false ∧ bit (rg s DISP_SENT_PENDING) 0 = true ∧ coreFree s 0 = true ∧ coreDead s 0 = false
      ∧ nextOx s 0 = some 0 ∧ bit (rg State.reset DISP_SENT_PENDING) 63 = false ∧ (theCore State.reset 0).sent = none
      ∧ (theCore d 63).sent = some ⟨0, [], 0, 0, 0, 0⟩ := by decide +kernel

theorem witness_RequestsByAddressAnswerWhatMemoryGives :
    let s := (after [(HBM_STATUS_STATE 0, 2)]).putStack 0 (fun k => { k with served := [(pcAt 0, windowLines)] })
    let f := s.put (HBM_SLOTS_CLASS0_RES 0) 5120
    State.reset.trPend = [] ∧ State.reset.lineErrs = [] ∧ (63 : Fin 73).val < 64 ∧ (2 ^ 2048) % 2 ^ 2048 = 0 ∧ 1 % 2 ^ 2048 ≠ 0
      ∧ regionOf s.part 0 = .hbm 0 0 ∧ rsrcOf s 0 = none ∧ gateHbm s 63 0 0 = .at 0 0 ∧ pcOpen s 0 (pcAt 0) = false
      ∧ pcOpen mapped 0 (pcAt 0) = true ∧ slotFor s 0 0 = true ∧ slotFor s 0 3 = true
      ∧ gateHbm f 63 0 0 = .at 0 0 ∧ pcOpen f 0 (pcAt 0) = false ∧ slotFor f 0 3 = false := by decide +kernel

theorem witness_AFullLineReadsBackAsWritten :
    gateHbm (after [(HBM_STATUS_STATE 7, 2)]) 64 7 (usableBytes - 1) = .at 7 (7 * stackBytes + usableBytes - 256)
      ∧ (theStack (after [(HBM_STATUS_STATE 7, 2)]) 7).queue = [] ∧ 2 ^ 2048 - 1 < 2 ^ 2048 := by decide +kernel

theorem witness_FencesEmptyTheWriteBuffer :
    let e : Wcb := ⟨11 * stackBytes + 256, 0, 1, false, [0]⟩
    let s := State.reset.putStack 11 (fun k => { k with wcb := [e] })
    let q : HbmReq := ⟨63, 3, 0, none, false⟩
    let w := (after [(HBM_STATUS_STATE 0, 2)]).putStack 0 (fun k => { k with queue := [q] })
    (theStack State.reset 11).queue = [] ∧ (theStack State.reset 11).waits = [] ∧ (theStack w 0).queue = [q] ∧ (theStack w 0).waits = []
      ∧ gateHbm w q.req 0 (q.addr % stackBytes) = .at 0 0 ∧ pcAt (reqLine w 0 q) = 0
      ∧ s.trPend = [] ∧ s.lineErrs = [] ∧ (theStack s 11).wcb.find? (fun e => e.line = 11 * stackBytes + 1 * 256) = some e
      ∧ (theStack s 11).wcb.find? (fun e => e.line = 11 * stackBytes + 0 * 256) = none := by decide +kernel

theorem witness_MaintenanceIsEnteredActsAndIsLeft :
    fv (after [(HBM_STATUS_STATE 7, 4)]) (HBM_STATUS_STATE 7) = 4 ∧ fv (after [(HBM_STATUS_STATE 7, 1)]) (HBM_STATUS_STATE 7) = 1
      ∧ fv (after [(HBM_STATUS_STATE 7, 5)]) (HBM_STATUS_STATE 7) = 5 ∧ 7 < State.reset.part.nStacks ∧ ¬ 11 < State.reset.part.nStacks
      ∧ (theStack State.reset 7).modeRegs.find? (fun e => e.1 = 0) = none
      ∧ (theStack (State.reset.putStack 7 (fun k => { k with modeRegs := [(modeId State.reset 7 31, 5)] })) 7).modeRegs.find?
          (fun e => e.1 = modeId State.reset 7 31) = some (modeId State.reset 7 31, 5) := by decide +kernel

theorem witness_TrainingEndsInServiceOrOut :
    let s := after [(HBM_STATUS_STATE 7, 1), (CXL_STATUS_STATE 3, 1), (CHAIN_START_PHASE, 6)]
    7 < s.part.nStacks ∧ fv s (HBM_STATUS_STATE 7) = 1 ∧ fv s CHAIN_START_PHASE ≥ 6 ∧ tripped s = false ∧ 3 < s.part.cxls
      ∧ fv s (CXL_STATUS_STATE 3) = 1 ∧ ¬ fv State.reset CHAIN_START_PHASE ≥ 6 ∧ fv (after [(HBM_STATUS_STATE 0, 3)]) (HBM_STATUS_STATE 0) = 3 := by
  decide +kernel

theorem witness_HintsQueueAndTheWagonMoves :
    let s := after [(WAGON_STATUS_STATE, 1)]
    let m : Move := ⟨0, 0, true, false⟩
    let e : Move := ⟨2, 1, false, false⟩
    let v := (after [(HBM_STATUS_STATE 0, 2), (WAGON_POOL_STACKS_MASK, 1)]).putWagon (fun w => { w with moves := [m, e] })
    let o := v.putCxl 0 (fun c => { c with out := [⟨0, 0, 0, 0, none, 0, none, none, false, false, false, false⟩] })
    fv (s.putReg WAGON_HINT 1) WAGON_STATUS_STATE = 1 ∧ ¬ 64 ≤ s.wagon.hints.length ∧ fv State.reset WAGON_STATUS_STATE = 0
      ∧ ctxOfCore s 0 = none ∧ (ctxOfCore (s.putReg (CTX_CORES 15) 1) 0).isSome = true
      ∧ moveOf State.reset 0 = none ∧ moveOf v 0 = some m ∧ moveOf v 2 = some e ∧ fv v (HBM_STATUS_STATE (frameAt v 0).1) = 2
      ∧ deepBusy v 0 = false ∧ storageOff v (frameAt v 0).1 (frameAt v 0).2 = some (frameAt v 0).2 ∧ deepBusy o 0 = true ∧ (deepPorts v).all (portUp v) = true
      ∧ deepBusy v 2 = false ∧ storageOff v (frameAt v 1).1 (frameAt v 1).2 = some (frameAt v 1).2 ∧ fv v (HBM_STATUS_STATE (frameAt v 1).1) = 2
      ∧ fb State.reset WAGON_CTRL_EN = false ∧ fv (after [(WAGON_STATUS_STATE, 3), (WAGON_CTRL_EN, 1)]) WAGON_STATUS_STATE = 3
      ∧ halveDue ((State.reset).putTick (fun _ => 1000)) = true ∧ halveDue State.reset = false
      ∧ drainOver (after [(WAGON_STATUS_STATE, 2)]) = true := by decide +kernel

theorem witness_DeepAccessesFollowTheirPage :
    let s := wagonOn.put WAGON_STATUS_STATE 0
    let f (failed polled : Bool) : DeepAcc := ⟨7, 0, 0, 0, none, 64, none, none, false, failed, false, polled⟩
    let out (a : DeepAcc) : State := (State.reset.putCxl 7 (fun c => { c with out := [a] })).putTick (fun _ => 2 ^ 40)
    regionOf s.part deepBase = .deep 0 ∧ regionOf s.part 0 = .hbm 0 0 ∧ regionOf s.part 0xFFFFFFFFFFFF = .reserved
      ∧ deepFitted State.reset = 0 ∧ 0 < deepFitted s ∧ portUp State.reset 0 = false ∧ (none : Option Nat) ≠ some 0
      ∧ rsrcOf s deepBase = none ∧ inTransit s (deepIdx 0) = false ∧ fv s WAGON_STATUS_STATE = 0 ∧ homeOf s 0 = .named 0 false
      ∧ portUp s (deepPort s 0) = true
      ∧ rsrcOf (s.putWagon (fun w => { w with rsrc := [⟨deepBase, 0, 0⟩] })) deepBase ≠ none
      ∧ inTransit (s.putWagon (fun w => { w with moves := [⟨0, 0, true, false⟩] })) (deepIdx 0) = true
      ∧ deepOf State.reset 7 7 = none ∧ deepOf (out (f false false)) 7 7 = some (f false false)
      ∧ deepOf (out (f false true)) 7 7 = some (f false true) ∧ deepOf (out (f true false)) 7 7 = some (f true false)
      ∧ (f false false).issued + fv (out (f false false)) WAGON_DEEP_LATE_TICKS < (out (f false false)).tick
      ∧ deepFailDue (out (f false false)) (f false false) = true ∧ deepFailDue State.reset (f false false) = false := by decide +kernel

theorem witness_DeepAccessesFollowTheirPage_directory :
    let q : DeepWait := ⟨64, none, deepBase, deepBase, true, none, some 0⟩
    let p := wagonOn.putBytes 0 [1]
    rsrcOf wagonOn deepBase = none ∧ inTransit wagonOn (deepIdx 0) = false
      ∧ (∃ u, Gives (deepDir q (deepIdx 0)) (wagonOn.meeting []) true u ∧ homeOf u 0 = .named 0 false ∧ portUp u (deepPort u 0) = true)
      ∧ rsrcOf p deepBase = none ∧ inTransit p (deepIdx 0) = false
      ∧ ∃ u, Gives (deepDir q (deepIdx 0)) (p.meeting []) true u ∧ homeOf u 0 = .pool (frameAt p 0).1 (frameAt p 0).2 := by
  refine ⟨by decide +kernel, by decide +kernel, ?_, by decide +kernel, by decide +kernel, ?_⟩
  · obtain ⟨b, u, g, hp⟩ := gives_of_probe (m := deepDir ⟨64, none, deepBase, deepBase, true, none, some 0⟩ (deepIdx 0))
      (s := wagonOn.meeting []) (fun b u => b && decide (homeOf u 0 = .named 0 false) && portUp u (deepPort u 0))
      (keep_deepDir ..) (by decide +kernel)
    simp only [Bool.and_eq_true, decide_eq_true_eq] at hp
    obtain ⟨⟨rfl, h1⟩, h2⟩ := hp
    exact ⟨u, g, h1, h2⟩
  · obtain ⟨b, u, g, hp⟩ := gives_of_probe (m := deepDir ⟨64, none, deepBase, deepBase, true, none, some 0⟩ (deepIdx 0))
      (s := (wagonOn.putBytes 0 [1]).meeting [])
      (fun b u => b && decide (homeOf u 0 = .pool (frameAt (wagonOn.putBytes 0 [1]) 0).1 (frameAt (wagonOn.putBytes 0 [1]) 0).2))
      (keep_deepDir ..) (by decide +kernel)
    simp only [Bool.and_eq_true, decide_eq_true_eq] at hp
    obtain ⟨rfl, h1⟩ := hp
    exact ⟨u, g, h1⟩

theorem witness_RecomputeScrubAndRetirement :
    let s := (State.reset.putCtx 15 (fun x => { x with recomp := [⟨65535, 0, 0, 0⟩] })).putTick (fun _ => 2 ^ 40)
    let g := (after [(HBM_STATUS_STATE 0, 2), (HBM_SCRUB_CFG_EN 0, 1)]).putTick (fun _ => 2 ^ 40)
    let r := (after [(HBM_STATUS_STATE 0, 2)]).putStack 0 (fun k => { k with retire := some ⟨64255, 255, false⟩ })
    recompLate s 15 65535 = true ∧ recompLate State.reset 0 0 = false ∧ scrubDue g 0 = true ∧ scrubDue State.reset 0 = false
      ∧ slotFree State.reset 11 255 = true ∧ slotFree State.reset 11 256 = false ∧ (remaps State.reset 11).length < 512
      ∧ (theStack r 0).retire = some ⟨64255, 255, false⟩ ∧ fv r (HBM_STATUS_STATE 0) = 2 ∧ (theStack State.reset 11).retire = none := by
  decide +kernel

theorem witness_PortsTrainAndLanesMoveToTheirSpares :
    let s := after [(PORT_STATUS_STATE 15, 1), (CHAIN_START_PHASE, 6), (PORT_CTRL_ENABLE 15, 1)]
    let c := after [(PORT_STATUS_STATE 15, 2)]
    let x := c.putPort 15 (fun p => { p with rxSwap := some ⟨15, 0, some 17, 2, 0⟩, txSwap := some ⟨15, some 17⟩ })
    15 < s.part.ports ∧ fv s (PORT_STATUS_STATE 15) = 1 ∧ 6 ≤ fv s CHAIN_START_PHASE ∧ tripped s = false ∧ fb s (PORT_CTRL_ENABLE 15) = true
      ∧ (passing 127).length < 8 ∧ 8 ≤ (passing 255).length ∧ portCarries s 15 = false ∧ portCarries c 15 = true
      ∧ waveOf (c.putReg (PORT_WL_RX 15) 0) (PORT_WL_RX 15) 17 ≤ 1 ∧ fv c (PORT_FEC_LIMIT_SYMBOLS 15) < 2 ^ 32 - 1 ∧ (thePort c 15).rxSwap = none
      ∧ (thePort x 15).rxSwap = some ⟨15, 0, some 17, 2, 0⟩ ∧ (thePort x 15).txSwap = some ⟨15, some 17⟩
      ∧ c.tick < monClose c 15 ∧ (let l := c.putTick (fun _ => monClose c 15); monClose l 15 ≤ l.tick) := by decide +kernel

theorem witness_PacketsAreRetriedAcceptedAndRouted :
    portCarries State.reset 15 = false ∧ portCarries (after [(PORT_STATUS_STATE 15, 3)]) 15 = true ∧ (thePort State.reset 15).rxNext = 0
      ∧ nodeOf State.reset = 0 ∧ nodeOf (after [(PORT_NODE_NODE, 2 ^ 18 - 2)]) ≠ 0 := by
  decide +kernel

theorem witness_RoutesRingsAndTransfers :
    State.reset.fab.offers = [] ∧ State.reset.fab.xfers = [] ∧ State.reset.due = [] ∧ ringOn State.reset = false
      ∧ ringOn (after [(PORT_XFER_RING_EN, 1), (PORT_XFER_RING_LOG2_SIZE, 16)]) = true := by decide +kernel

theorem witness_KeysAndGenerationSlotsFollowTheirCommands :
    let s := after [(SEC_STATUS_IDENTITY, 1)]
    Who.collie 63 ≠ .controlDie ∧ ctxState s 15 = 0 ∧ fv (s.put SEC_KEY_CMD_CTX 15) SEC_STATUS_IDENTITY = 1 ∧ fv State.reset SEC_STATUS_IDENTITY ≠ 1
      ∧ ctxState (after [(CTX_STATE_STATE 15, 1)]) 15 = 1 := by decide +kernel

theorem witness_GenerationSwitchesFollowTheNamedSlot :
    let s (st : Nat) : State := after [(CTX_GEN_STATUS_ARMED 15, 1), (CTX_GEN_SWITCH_SLOT 15, 3), (CTX_GSLOTk_STATE 15 3, st)]
    let t (st : Nat) : State := ((s st).ranked 5).put (CTX_GEN_STATUS_ARMED 15) 0
    fb (s 2) (CTX_GEN_STATUS_ARMED 15) = true ∧ rg (s 2) (CTX_GEN_AT 15) ≤ (s 2).tick ∧ fv (t 2) (CTX_GSLOTk_STATE 15 (fv (t 2) (CTX_GEN_SWITCH_SLOT 15))) = 2
      ∧ fv (t 3) (CTX_GSLOTk_STATE 15 (fv (t 3) (CTX_GEN_SWITCH_SLOT 15))) = 3 ∧ fv (t 0) (CTX_GSLOTk_STATE 15 (fv (t 0) (CTX_GEN_SWITCH_SLOT 15))) = 0
      ∧ fb State.reset (CTX_GEN_STATUS_ARMED 15) = false := by decide +kernel

theorem witness_SealsReSourcesAndReports :
    let s := State.reset.putSec (fun x => { x with queue := [⟨15, 15, 0, 0⟩], done := [⟨15, 15, true, 0, 255⟩] })
    let w := (State.reset.putWagon (fun w => { w with rsrc := [⟨0, 15, 0⟩] })).putTick (fun _ => 2 ^ 40)
    s.sec.queue = [⟨15, 15, 0, 0⟩] ∧ s.sec.done = [⟨15, 15, true, 0, 255⟩] ∧ State.reset.sec.queue = [] ∧ State.reset.sec.done = []
      ∧ State.reset.wagon.rsrc = [] ∧ w.wagon.rsrc = [⟨0, 15, 0⟩]
      ∧ w.wagon.rsrc.find? (fun r => r.page = 0 && decide (r.opened + fv w WAGON_RSRC_LIMIT_TICKS < w.tick)) = some ⟨0, 15, 0⟩
      ∧ fv State.reset SEC_STATUS_IDENTITY ≠ 1 ∧ fv (after [(SEC_STATUS_IDENTITY, 1)]) SEC_STATUS_IDENTITY = 1 := by decide +kernel

theorem witness_ChainFramesAreAcceptedInOrder :
    hopUp State.reset true = false ∧ hopUp (after [(linkFld true, 1), (linkFld false, 1)]) true = true
      ∧ hopUp (after [(linkFld true, 1), (linkFld false, 1)]) false = true ∧ (hopOf State.reset true).rxNext = 0
      ∧ (hopOf State.reset false).rxNext = 0 := by decide +kernel

theorem witness_AddressesAndCountsComeDownTheChain :
    let s := after [(CHAIN_START_PHASE, 3)]
    let u := ((after [(linkFld false, 1)]).putHop false (fun h => { h with unacked := [(0, ⟨0, 0, 4, 0, []⟩)] })).putTick (fun _ => 200)
    awaitsAddr s = true ∧ awaitsAddr State.reset = false ∧ startMode s = 0 ∧ ownAddr s = 0 ∧ hopUp s false = false
      ∧ ((after [(linkFld false, 1)]).putTime (fun t => { t with load := true })).time.load = true ∧ hopUp u false = true
      ∧ signed 50000 32 = 50000 ∧ signed (2 ^ 32 - 50000) 32 = -50000
      ∧ (hopOf u false).unacked ≠ [] ∧ (hopOf u false).sent + 200 ≤ u.tick ∧ fb State.reset CHAIN_STATUS_HEAD = false
      ∧ fb (after [(CHAIN_STATUS_HEAD, 1)]) CHAIN_STATUS_HEAD = true := by decide +kernel

theorem witness_OperatorFramesObjectsAndImages :
    let w : FlashWrite := ⟨2, 0, [], 0⟩
    let s := State.reset.putFlash (fun x => { x with writing := [w] })
    let d := (after [(CHAIN_START_PHASE, 4)]).putFlash (fun x => { x with dir := { x.dir with armed := true } })
    s.flash.writing = [w] ∧ w.kind = 2 ∧ State.reset.flash.writing = [] ∧ d.flash.dir.armed = true ∧ d.flash.dir.actTick ≤ d.tick
      ∧ 4 ≤ fv d CHAIN_START_PHASE ∧ fv State.reset CHAIN_START_PHASE = 0 ∧ (List.replicate 9216 (0 : Byte)).length ≤ 9216 := by decide +kernel

theorem witness_ResetsForUnitsInResetAreCoalesced :
    let s (d u : Nat) : State := State.reset.putResets (fun _ => [⟨d, u, [], 0, 0, false⟩])
    tooHot State.reset = false ∧ unitOk State.reset.part 1 255 = true ∧ inReset (s 1 255) 1 255 = true ∧ unitOk State.reset.part 3 15 = true
      ∧ inReset (s 3 15) 3 15 = true ∧ inReset (s 8 0) 8 0 = true ∧ inReset (s 8 0) 7 1 = true := by decide +kernel

theorem witness_ResetsBeginOnceAndMarkTheirUnits :
    unitOk State.reset.part 1 256 = false ∧ unitOk State.reset.part 1 255 = true ∧ inReset State.reset 1 255 = false
      ∧ resetEnds State.reset 1 255 = [] ∧ unitOk State.reset.part 7 1 = true ∧ inReset State.reset 7 1 = false ∧ resetEnds State.reset 7 1 = [] := by
  decide +kernel

theorem witness_TheDeviceResets :
    tooHot State.reset = false ∧ inReset State.reset 8 0 = false ∧ hasTick State.reset = false ∧ hasTick (after [(TIME_STATUS_MASTER, 1)]) = true
      ∧ fv State.reset CHAIN_START_PHASE = 0 ∧ fv (after [(CHAIN_START_PHASE, 9)]) CHAIN_START_PHASE ≠ 0
      ∧ tooHot ((after [(PWR_STATUS_TRIPPED, 1), (CORE_TJ_NOW 0, 255)]).putPwr (fun p => { p with measured := true })) = true
      ∧ State.reset.flash.writing = [] := by decide +kernel

theorem witness_ResetsCompleteOrEscalate :
    let op : ResetOp := ⟨1, 255, [], 0, 0, false⟩
    let p : ResetOp := ⟨4, 0, [], 0, 0, false⟩
    let s := State.reset.putResets (fun _ => [op])
    let w := (after [(PORT_STATUS_STATE 0, 1)]).putResets (fun _ => [p])
    s.resets.find? (fun x => x.domain = 1 && x.unit = 255) = some op ∧ (op.units s.part).all (fun x => unitReady s x.1 x.2) = true
      ∧ w.resets.find? (fun x => x.domain = 4 && x.unit = 0) = some p ∧ (p.units w.part).all (fun x => unitReady w x.1 x.2) = false
      ∧ State.reset.resets.find? (fun x => x.domain = 1 && x.unit = 255) = none := by decide +kernel

theorem witness_HangsRefusalsAndJobFaults :
    let run (n still : Nat) (moved : Bool) : State := core0 (fun c => { c with task := some { aTask n true false with still := still, moved := moved } })
    let h : HeldTile := ⟨0, .refused 6 0 0, 0, false, false⟩
    let l := ((streaming stLoad (fun x => { x with held := [h] })).putTick (fun _ => 2 ^ 40)).putResets (fun _ => [⟨6, 0, [], 0, 0, false⟩])
    let t := (streaming stStore (fun x => { x with held := [h] })).putTick (fun _ => 2 ^ 40)
    taskRuns State.reset 63 = false ∧ taskRuns (run 99 0 true) 0 = true ∧ hangCode { aTask 100 true false with still := 0 } true = none
      ∧ hangCode { aTask 100 true false with still := 7 } false = some 2 ∧ inReset l 6 0 = true ∧ (theStream l 0 0).state = 1
      ∧ (theStream l 0 0).next < dTiles (theStream l 0 0).desc ∧ refuseLate State.reset 0 0 = none ∧ refuseLate l 0 0 = some (h, 6, 0, 0)
      ∧ dStation (theStream l 0 0).desc = stLoad ∧ refuseLate t 0 0 = some (h, 6, 0, 0) ∧ dStation (theStream t 0 0).desc ≠ stLoad := by decide +kernel

theorem witness_TripsAndTheThrottle :
    let s := State.reset.putPwr (fun p => { p with measured := true })
    let t := (after [(PWR_STATUS_TRIPPED, 1)]).putPwr (fun p => { p with measured := true })
    s.pwr.measured = true ∧ (sensorList s).any (fun x => x.1 = 80) = true ∧ State.reset.pwr.measured = false ∧ overPower State.reset = false
      ∧ s.pwr.overTdp = false ∧ tripped t = true ∧ tripped s = false ∧ (8 : Fin 9).val ≠ 3 := by decide +kernel

theorem witness_TheDieLinkAnswersAndRecords :
    let q : LinkReq := ⟨true, 65535, false, 0, 0, []⟩
    let s := State.reset.putLink (fun l => { l with out := [q], mirror := [(true, [])] })
    let d := State.reset.putLink (fun l => { l with down := [true, true] })
    moduleFor State.reset true = some true ∧ moduleFor d true = none ∧ moduleDown d false = true
      ∧ s.link.out.find? (fun q => q.module = true && q.tag = 65535 && q.write = false) = some q ∧ s.link.mirror = [(true, [])]
      ∧ waitingLink s = [] ∧ ¬ 512 ≤ (s.link.out.filter (fun q => q.module = true)).length ∧ 256 % 4 = 0
      ∧ 512 ≤ ((State.reset.putLink (fun l => { l with out := List.replicate 512 q })).link.out.filter (fun q => q.module = true)).length := by
  decide +kernel
end Sys2Proof.Tests
end

section
/-!
What a command may change, and what it keeps whatever it changes: the two statements about every command, in one place.
The masks of Laws/Touch.lean are the lists of `touches`; canonical maps are kept by every action, and the two lists that
are empty between commands are emptied by the sequences that fill them.
-/

namespace Sys2Proof.Machine

/-! ## The parts that a command may change -/

/-- The parts of a list as a mask of their numbers, which is how Laws/Keep.lean names what a sequence may change. -/
def partMask : List Fd → Nat
  | [] => 0
  | f :: l => 2 ^ f.num ||| partMask l

theorem Fd.num_injective : Function.Injective Fd.num := by
  have h : Function.LeftInverse Fd.ofNat Fd.num := fun f => by cases f <;> rfl
  exact h.injective

theorem testBit_partMask (f : Fd) (l : List Fd) : (partMask l).testBit f.num = decide (f ∈ l) := by
  induction l with
  | nil => simp [partMask]
  | cons g l ih =>
    have key : (2 ^ g.num).testBit f.num = decide (f = g) := by
      simp only [Nat.testBit_two_pow, Fd.num_injective.eq_iff, eq_comm]
    simp [partMask, ih, key]

/-- Every command answers a next state and changes only the parts that `touches` lists for it. -/
theorem exec_sameBut (c : Instr) (s : State) : ∃ t, SameBut (partMask (touches c)) s t ∧ exec c s = .next t := by
  cases c with
  | registerWrite => exact touch_registerWrite ..
  | readClearField => exact touch_readClearField ..
  | tickEdge => exact touch_tickEdge ..
  | holdoverEntry => exact touch_holdoverEntry ..
  | holdoverLimitExceeded => exact touch_holdoverLimitExceeded ..
  | upstreamTickReturn => exact touch_upstreamTickReturn ..
  | ptpLockGained => exact touch_ptpLockGained ..
  | passPush => exact touch_passPush ..
  | passHeadCheck => exact touch_passHeadCheck ..
  | segmentBegin => exact touch_segmentBegin ..
  | passStart => exact touch_passStart ..
  | yokeRowIssue => exact touch_yokeRowIssue ..
  | oxAttach => exact touch_oxAttach ..
  | passComplete => exact touch_passComplete ..
  | oxFence => exact touch_oxFence ..
  | fenceLift => exact touch_fenceLift ..
  | ctxStepParamsWrite => exact touch_ctxStepParamsWrite ..
  | drainEncode => exact touch_drainEncode ..
  | mergedRecordReread => exact touch_mergedRecordReread ..
  | muleTileStart => exact touch_muleTileStart ..
  | muleProgWrite => exact touch_muleProgWrite ..
  | reduceTile => exact touch_reduceTile ..
  | sramWindowAccess => exact touch_sramWindowAccess ..
  | bankPowerRequest => exact touch_bankPowerRequest ..
  | bankTransitionComplete => exact touch_bankTransitionComplete ..
  | bankRetire => exact touch_bankRetire ..
  | bankBind => exact touch_bankBind ..
  | streamProgramStart => exact touch_streamProgramStart ..
  | stationTileStart => exact touch_stationTileStart ..
  | tileEventComplete => exact touch_tileEventComplete ..
  | hcAdd => exact touch_hcAdd ..
  | exchange => exact touch_exchange ..
  | streamProgramEnd => exact touch_streamProgramEnd ..
  | collieHandoff => exact touch_collieHandoff ..
  | cqRead => exact touch_cqRead ..
  | cdone => exact touch_cdone ..
  | startCmd => exact touch_startCmd ..
  | holdCmd => exact touch_holdCmd ..
  | save => exact touch_save ..
  | restore => exact touch_restore ..
  | kill => exact touch_kill ..
  | flushXlate => exact touch_flushXlate ..
  | coresWrite => exact touch_coresWrite ..
  | penWrite => exact touch_penWrite ..
  | rosterCfgWrite => exact touch_rosterCfgWrite ..
  | rosterPubSample => exact touch_rosterPubSample ..
  | entryFetch => exact touch_entryFetch ..
  | taskCompletion => exact touch_taskCompletion ..
  | coreStoppedForSave => exact touch_coreStoppedForSave ..
  | saveComplete => exact touch_saveComplete ..
  | saveStopTimeout => exact touch_saveStopTimeout ..
  | restoreComplete => exact touch_restoreComplete ..
  | pageWalk => exact touch_pageWalk ..
  | sentinelRound => exact touch_sentinelRound ..
  | sentinelPass => exact touch_sentinelPass ..
  | sentinelCompletion => exact touch_sentinelCompletion ..
  | sentStateClear => exact touch_sentStateClear ..
  | hbmRead => exact touch_hbmRead ..
  | fullLineWrite => exact touch_fullLineWrite ..
  | partialWrite => exact touch_partialWrite ..
  | wcbEntryComplete => exact touch_wcbEntryComplete ..
  | fence => exact touch_fence ..
  | class0Window => exact touch_class0Window ..
  | requestAged => exact touch_requestAged ..
  | hbmTraining => exact touch_hbmTraining ..
  | maintEnter => exact touch_maintEnter ..
  | maintExit => exact touch_maintExit ..
  | mrRead => exact touch_mrRead ..
  | mrWrite => exact touch_mrWrite ..
  | softPpr => exact touch_softPpr ..
  | hardPpr => exact touch_hardPpr ..
  | softPprUndo => exact touch_softPprUndo ..
  | mbist => exact touch_mbist ..
  | ieee1500 => exact touch_ieee1500 ..
  | cxlTraining => exact touch_cxlTraining ..
  | deepAccess => exact touch_deepAccess ..
  | heatEpoch => exact touch_heatEpoch ..
  | promote => exact touch_promote ..
  | evict => exact touch_evict ..
  | pin => exact touch_pin ..
  | unpin => exact touch_unpin ..
  | moveComplete => exact touch_moveComplete ..
  | moveFail => exact touch_moveFail ..
  | wagonEnable => exact touch_wagonEnable ..
  | wagonDisable => exact touch_wagonDisable ..
  | wagonDrainComplete => exact touch_wagonDrainComplete ..
  | wagonResumeComplete => exact touch_wagonResumeComplete ..
  | deepAccessLate => exact touch_deepAccessLate ..
  | deepAccessFail => exact touch_deepAccessFail ..
  | lateAnswerDiscard => exact touch_lateAnswerDiscard ..
  | recompAck => exact touch_recompAck ..
  | recompExpiry => exact touch_recompExpiry ..
  | scrubGroup => exact touch_scrubGroup ..
  | retire => exact touch_retire ..
  | retireComplete => exact touch_retireComplete ..
  | portTraining => exact touch_portTraining ..
  | wavelengthDegrade => exact touch_wavelengthDegrade ..
  | swapReq => exact touch_swapReq ..
  | swapAck => exact touch_swapAck ..
  | swapGo => exact touch_swapGo ..
  | switchMarker => exact touch_switchMarker ..
  | dataPacket => exact touch_dataPacket ..
  | rts => exact touch_rts ..
  | grant => exact touch_grant ..
  | ack => exact touch_ack ..
  | refuse => exact touch_refuse ..
  | xdata => exact touch_xdata ..
  | mgmt => exact touch_mgmt ..
  | replayRequest => exact touch_replayRequest ..
  | linkAck => exact touch_linkAck ..
  | linkDown => exact touch_linkDown ..
  | routeSwitch => exact touch_routeSwitch ..
  | routeEntryWrite => exact touch_routeEntryWrite ..
  | e2eTimeout => exact touch_e2eTimeout ..
  | xferRingWrite => exact touch_xferRingWrite ..
  | xferPubSample => exact touch_xferPubSample ..
  | keyInstall => exact touch_keyInstall ..
  | keyErase => exact touch_keyErase ..
  | verifyQueue => exact touch_verifyQueue ..
  | verifyComplete => exact touch_verifyComplete ..
  | verifyDoneRead => exact touch_verifyDoneRead ..
  | gslotLoad => exact touch_gslotLoad ..
  | gslotReady => exact touch_gslotReady ..
  | gslotAbandon => exact touch_gslotAbandon ..
  | rosterGenWrite => exact touch_rosterGenWrite ..
  | genSwitch => exact touch_genSwitch ..
  | rsrcReqRead => exact touch_rsrcReqRead ..
  | rsrcDone => exact touch_rsrcDone ..
  | rsrcExpiry => exact touch_rsrcExpiry ..
  | attestRequest => exact touch_attestRequest ..
  | token => exact touch_token ..
  | headDecision => exact touch_headDecision ..
  | tickCountLoad => exact touch_tickCountLoad ..
  | nodeAssign => exact touch_nodeAssign ..
  | chainAck _ _ hseq => exact touch_chainAck _ _ hseq ..
  | chainResend => exact touch_chainResend ..
  | offer => exact touch_offer ..
  | chainData => exact touch_chainData ..
  | result => exact touch_result ..
  | delay => exact touch_delay ..
  | chainMgmt => exact touch_chainMgmt ..
  | stageTimeout => exact touch_stageTimeout ..
  | firmwareActivation => exact touch_firmwareActivation ..
  | coldStart => exact touch_coldStart ..
  | hangDeclaration => exact touch_hangDeclaration ..
  | oxReset => exact touch_oxReset ..
  | coreReset => exact touch_coreReset ..
  | contextReset => exact touch_contextReset ..
  | portReset => exact touch_portReset ..
  | iodReset => exact touch_iodReset ..
  | stackReset => exact touch_stackReset ..
  | dieReset => exact touch_dieReset ..
  | deviceReset => exact touch_deviceReset ..
  | resetComplete => exact touch_resetComplete ..
  | resetEscalation => exact touch_resetEscalation ..
  | requestRefused => exact touch_requestRefused ..
  | refuseLimitExpiry => exact touch_refuseLimitExpiry ..
  | staleReply => exact touch_staleReply ..
  | jobFaultRaise => exact touch_jobFaultRaise ..
  | resetN => exact touch_resetN ..
  | thermalTrip => exact touch_thermalTrip ..
  | powerTrip => exact touch_powerTrip ..
  | railFault => exact touch_railFault ..
  | throttleWindow => exact touch_throttleWindow ..
  | dieLinkRead => exact touch_dieLinkRead ..
  | dieLinkWrite => exact touch_dieLinkWrite ..
  | readReply => exact touch_readReply ..
  | writeAck => exact touch_writeAck ..
  | record => exact touch_record ..
  | ucieModuleDown => exact touch_ucieModuleDown ..
  | ethernetFrame => exact touch_ethernetFrame ..
  | killComplete => exact touch_killComplete ..
  | chainLinkUp => exact touch_chainLinkUp ..
  | chainLinkLost => exact touch_chainLinkLost ..
  | ptpLockLost => exact touch_ptpLockLost ..
  | cxlLinkDown => exact touch_cxlLinkDown ..
  | cxlLinkRetrained => exact touch_cxlLinkRetrained ..
  | flashWriteComplete => exact touch_flashWriteComplete ..
  | powerLoss => exact touch_powerLoss ..

/-- The same part by part. -/
theorem exec_sameAt {c : Instr} {s t : State} (h : exec c s = .next t) {f : Fd} (hf : f ∉ touches c) : State.sameAt f s t := by
  obtain ⟨u, hu, e⟩ := exec_sameBut c s
  obtain rfl : u = t := Host.Outcome.next.inj (e.symm.trans h)
  exact hu.at f (by simp [testBit_partMask, hf])

/-- Settles O3: each command's own mask (Laws/Touch.lean) is the mask of its list. -/
theorem everyCommandCompletesWithinItsParts : Obligations.EveryCommandCompletesWithinItsParts := by
  intro c s
  obtain ⟨t, ⟨hq, hp, _⟩, e⟩ := exec_sameBut c s
  exact ⟨t, e, hq, hp, fun _ => exec_sameAt e⟩

/-! ## Every action keeps canonical maps -/

/-- What the invariant says of the maps: each is canonical, and a register holds only bits that its address can hold. -/
structure State.Canon (s : State) : Prop where
  regs : mwf (resetWord s.part) s.regs = true
  mem : mwf (fun _ => (0 : Byte)) s.mem = true
  syn : mwf (fun _ => (0 : BitVec 32)) s.syn = true
  draw : mwf (fun _ => 0) s.draw = true
  oxen : mwf (fun _ => Ox.idle) s.oxen = true
  cores : mwf (fun _ => CoreSt.idle) s.cores = true
  ctxs : mwf (fun _ => CtxSt.empty) s.ctxs = true
  hbm : mwf (fun _ => StackSt.fresh) s.hbm = true
  ports : mwf (fun _ => PortSt.start) s.ports = true
  cxls : mwf (fun _ => (⟨[]⟩ : CxlSt)) s.cxls = true
  kept : ∀ e ∈ s.regs, regKeep e.1 e.2.toNat = e.2

theorem State.inv_iff (s : State) : s.Inv ↔ s.Canon ∧ s.trPend = [] ∧ s.lineErrs = [] := by
  constructor
  · rintro ⟨h1, h2, h3, h4, h5, h6, h7, h8, h9, h10, h11, hp, hl⟩
    exact ⟨⟨h1, h2, h3, h4, h5, h6, h7, h8, h9, h10, h11⟩, hp, hl⟩
  · rintro ⟨h, hp, hl⟩
    exact ⟨h.regs, h.mem, h.syn, h.draw, h.oxen, h.cores, h.ctxs, h.hbm, h.ports, h.cxls, h.kept, hp, hl⟩

theorem mem_minsert {α : Type} {k : Nat} {v : α} {m : SMap α} {e : Nat × α} (h : e ∈ minsert k v m) : e = (k, v) ∨ e ∈ m := by
  induction m with
  | nil => simpa [minsert] using h
  | cons x m ih =>
    obtain ⟨j, w⟩ := x
    unfold minsert at h
    split at h
    · simpa using h
    · split at h
      · exact (List.mem_cons.mp h).imp_right (List.mem_cons_of_mem _)
      · rcases List.mem_cons.mp h with rfl | h
        · exact .inr (List.mem_cons_self ..)
        · exact (ih h).imp_right (List.mem_cons_of_mem _)

/-- A write adds at most its own entry. -/
theorem mem_mset {α : Type} [DecidableEq α] {d : Nat → α} {m : SMap α} {k : Nat} {v : α} {e : Nat × α} (h : e ∈ mset d m k v) :
    e = (k, v) ∨ e ∈ m := by
  unfold mset at h
  split at h
  · exact .inr (List.mem_of_mem_filter h)
  · exact mem_minsert h

/-- What a register keeps, it keeps again. -/
theorem regKeep_regKeep (a v : Nat) : regKeep a (regKeep a v).toNat = regKeep a v := by
  unfold regKeep
  cases regAny a with
  | none => rfl
  | some d =>
    refine BitVec.eq_of_toNat_eq (Nat.eq_of_testBit_eq fun i => ?_)
    simp only [BitVec.toNat_ofNat, show ∀ x y, Nat.land x y = x &&& y from fun _ _ => rfl, Nat.testBit_mod_two_pow, Nat.testBit_and]
    cases decide (i < 64) <;> simp

/-- A primitive change keeps canonical maps. -/
theorem Prim.apply_canon (p : Prim) {s : State} (h : s.Canon) : (p.apply s).Canon := by
  cases p with
  | setReg a v => exact { h with
      regs := mwf_mset h.regs
      kept := fun e he => (mem_mset he).elim (fun e' => e' ▸ regKeep_regKeep a v) (h.kept e) }
  | resetRegs p => exact { h with regs := mwf_mreset p h.regs, kept := fun e he => h.kept e (List.mem_of_mem_filter he) }
  | setMem a bs => exact { h with mem := mwf_msetRun bs h.mem }
  | clearMem p => exact { h with mem := mwf_mreset p h.mem }
  | copyMem src dst len => exact { h with mem := mwf_mcopy src dst len h.mem }
  | setSyn a v => exact { h with syn := mwf_mset h.syn }
  | clearSyn p => exact { h with syn := mwf_mreset p h.syn }
  | setDraw a v => exact { h with draw := mwf_mset h.draw }
  | clearDraw p => exact { h with draw := mwf_mreset p h.draw }
  | modOx i f => exact { h with oxen := mwf_mmod f h.oxen }
  | modCore i f => exact { h with cores := mwf_mmod f h.cores }
  | modCtx i f => exact { h with ctxs := mwf_mmod f h.ctxs }
  | modStack i f => exact { h with hbm := mwf_mmod f h.hbm }
  | modCxl i f => exact { h with cxls := mwf_mmod f h.cxls }
  | modPort i f => exact { h with ports := mwf_mmod f h.ports }
  | _ => exact { h with }

/-- Carrying out an action keeps canonical maps. -/
theorem Act.run_canon (a : Act) {s : State} (h : s.Canon) : (a.run s).Canon := by
  induction a generalizing s with
  | done => exact h
  | prim p k ih => exact ih (p.apply_canon h)
  | read k ih => exact ih s h

/-- Every command is an action. -/
theorem exec_is_action (c : Instr) (s : State) : ∃ a : Act, exec c s = .next (a.run s) := by
  cases c <;> exact ⟨_, rfl⟩

theorem exec_canon {c : Instr} {s t : State} (h : s.Canon) (e : exec c s = .next t) : t.Canon := by
  obtain ⟨a, ha⟩ := exec_is_action c s
  obtain rfl := Host.Outcome.next.inj (ha.symm.trans e)
  exact a.run_canon h

/-! ## The lists that are empty between commands -/

/-- A sequence that starts without line errors ends without line errors. -/
structure Restores {α : Type} (m : M α) : Prop where
  ends : ∀ s : State, s.lineErrs = [] → ∃ a t, t.lineErrs = [] ∧ Gives m s a t

section
variable {α β : Type}

/-- So does one that never sets them. -/
theorem Keep.restores {n : Nat} {m : M α} (h : Keep n m) (hn : n.testBit 9 = false) : Restores m := ⟨fun s hs =>
  let ⟨a, t, hb, hg⟩ := h.gives s
  ⟨a, t, (hb.at .lineErrs hn).trans hs, hg⟩⟩

theorem Restores.bind {m : M α} {f : α → M β} (h : Restores m) (hf : ∀ a, Restores (f a)) : Restores (m >>= f) := ⟨fun s hs =>
  let ⟨a, t, ht, hg⟩ := h.ends s hs
  let ⟨b, u, hu, hg'⟩ := (hf a).ends t ht
  ⟨b, u, hu, hg.bind hg'⟩⟩

theorem Restores.pure (a : α) : Restores (Pure.pure a : M α) := (Keep.pure 0 a).restores rfl

theorem Restores.getS : Restores Machine.getS := (Keep.getS 0).restores rfl

theorem Restores.when' {c : Bool} {m : M Unit} (h : Restores m) : Restores (Machine.when' c m) := by
  cases c
  · exact Restores.pure ()
  · exact h

/-- The errors that a command carries are gone when its reads are done. -/
theorem Keep.restores_withErrs {n : Nat} {m : M Unit} (h : Keep n m) (errs : List LineErr) : Restores (withErrs errs m) := ⟨fun s _ =>
  let ⟨_, t, _, hg⟩ := h.gives (s.putLineErrs fun _ => errs)
  ⟨(), t.putLineErrs fun _ => [], rfl, fun _ => (run_withErrs ..).trans (hg _)⟩⟩

end

/-- Writing the records that were taken leaves none. -/
theorem flushRecords_empties (s : State) : ∃ t, SameBut 0x202f200f s t ∧ t.trPend = [] ∧ Gives flushRecords s () t := by
  obtain ⟨_, t, _, hg⟩ := (Keep.each keep_writeRecord : Keep _ (each s.trPend writeRecord)).gives s
  have he : Gives flushRecords s () (t.putTrPend fun _ => []) := fun k => hg _
  exact ⟨_, he.same keep_flushRecords, rfl, he⟩

/-- An outcome that is a state between commands, as far as the lists go that commands empty. -/
def Quiet (o : Host.Outcome State Fault Refusal) : Prop := ∃ t, o = .next t ∧ t.trPend = [] ∧ t.lineErrs = []

theorem Restores.quiet {m : M Unit} (h : Restores m) {s : State} (hs : s.lineErrs = []) : Quiet (runT m s) := by
  obtain ⟨_, t, ht, hg⟩ := h.ends s hs
  obtain ⟨u, hb, hu, hg'⟩ := flushRecords_empties t
  exact ⟨u, congrArg _ ((hg.bind (f := fun _ => flushRecords) hg') fun _ => .done), hu, (hb.at .lineErrs (by decide)).trans ht⟩

/-- A command that writes its records and sets no line errors. -/
theorem Keep.quiet {n : Nat} {m : M Unit} (h : Keep n m) (hn : n.testBit 9 = false) {s : State} (hs : s.lineErrs = []) :
    Quiet (runT m s) := (h.restores hn).quiet hs

/-- A command that writes its records and carries line errors. -/
theorem Keep.quiet_withErrs {n : Nat} {m : M Unit} (h : Keep n m) {errs : List LineErr} {s : State} (hs : s.lineErrs = []) :
    Quiet (runT (withErrs errs m) s) := (h.restores_withErrs errs).quiet hs

/-- A command that carries line errors and takes no record. -/
theorem Keep.quiet_unflushed {n : Nat} {m : M Unit} (h : Keep n m) (hn : n.testBit 21 = false) {errs : List LineErr} {s : State}
    (hs : s.trPend = []) : Quiet (runM (withErrs errs m) s) := by
  obtain ⟨_, t, hb, hg⟩ := h.gives (s.putLineErrs fun _ => errs)
  exact ⟨t.putLineErrs fun _ => [], congrArg _ (hg _), (hb.at .trPend hn).trans hs, rfl⟩

/-- A command that touches neither list. -/
theorem quiet_of_untouched {c : Instr} {s : State} (hp : s.trPend = []) (hl : s.lineErrs = [])
    (h : (Fd.trPend ∉ touches c) ∧ Fd.lineErrs ∉ touches c) : Quiet (exec c s) := by
  obtain ⟨t, _, e⟩ := exec_sameBut c s
  exact ⟨t, e, (exec_sameAt e h.1 : t.trPend = s.trPend).trans hp, (exec_sameAt e h.2 : t.lineErrs = s.lineErrs).trans hl⟩

/-! ### The tick edge: the completion of a move is the one event that carries line errors -/

theorem moveCompletes_restores (page : Nat) (errs : List LineErr) : Restores (moveCompletes page errs) := by
  refine Keep.restores_withErrs (n := 0xf224f) (Keep.bind (Keep.getS _) fun s => ?_) errs
  split
  · exact (keep_moveDone ..).mono rfl
  · exact Keep.pure _ _

theorem takeEv_restores (start : StartInput) (e : Ev) : Restores (takeEv start e) := by
  obtain ⟨_, _, _, _, kind⟩ := e
  cases kind with
  | trip => exact (keep_takeTrip ..).restores rfl
  | reset d u =>
    refine (Keep.ite (n := 0x3fff3ddf) ?_ ?_).restores rfl
    · exact (keep_takeDevice ..).mono rfl
    · exact (keep_takeReset ..).mono rfl
  | fault => exact (keep_takeFault ..).restores rfl
  | jobFault => exact (keep_takeFault ..).restores rfl
  | taskDone => exact (keep_completeTask ..).restores rfl
  | hang => exact (keep_takeHang ..).restores rfl
  | deepFail => exact (keep_deepFails ..).restores rfl
  | recompExpiry => exact (keep_recompExpires ..).restores rfl
  | recompAck => exact (keep_recompAcked ..).restores rfl
  | rsrcExpiry => exact (keep_rsrcExpires ..).restores rfl
  | rsrcDone => exact (keep_rsrcCompletes ..).restores rfl
  | refuseExpiry => exact (keep_refuseExpires ..).restores rfl
  | turnedExpiry => exact (keep_turnedExpires ..).restores rfl
  | saveStop => exact (keep_saveTimesOut ..).restores rfl
  | e2eImage => exact (keep_imageExpires ..).restores rfl
  | e2eXfer => exact (keep_xferTimeout ..).restores rfl
  | linkDown => exact Restores.getS.bind fun _ => Restores.when' ((keep_portDown ..).restores rfl)
  | moveDone => exact moveCompletes_restores ..
  | saveDone => exact (keep_saveCompletes ..).restores rfl
  | restoreDone => exact (keep_restoreCompletes ..).restores rfl
  | escalate => exact (keep_escalateReset ..).restores rfl
  | command => exact (keep_ctxCommand ..).restores rfl
  | routeSwitch => exact (keep_routeSwitchNow ..).restores rfl
  | genSwitch => exact (keep_genSwitchNow ..).restores rfl
  | firmware => exact (keep_firmwareActs ..).restores rfl

theorem drainDue_restores (start : StartInput) (k : Nat) : Restores (drainDue start k) := by
  induction k with
  | zero => exact Restores.pure ()
  | succ k ih =>
    unfold drainDue
    refine Restores.getS.bind fun s => ?_
    split
    · exact Restores.pure ()
    · exact ((keep_modDue _).restores rfl).bind fun _ => (takeEv_restores ..).bind fun _ => ih

theorem tickEdge_restores (i : TickInput) : Restores (tickEdge i) := by
  unfold tickEdge
  refine Restores.getS.bind fun _ => Restores.when' ?_
  refine ((keep_tickSource ..).restores rfl).bind fun _ => ?_
  refine ((keep_modTick _).restores rfl).bind fun _ => ?_
  refine ((keep_modTime _).restores rfl).bind fun _ => ?_
  refine Restores.getS.bind fun _ => ((keep_emit _).restores rfl).bind fun _ => ?_
  refine (keep_holdExceeds.restores rfl).bind fun _ => ?_
  refine ((keep_measure ..).restores rfl).bind fun _ => ?_
  refine (keep_edgeRegs.restores rfl).bind fun _ => ?_
  refine (keep_openMonitors.restores rfl).bind fun _ => ?_
  refine (keep_deepTick.restores rfl).bind fun _ => ?_
  refine (keep_fillAgain.restores rfl).bind fun _ => ?_
  refine (keep_sampleEvents.restores rfl).bind fun _ => ?_
  refine Restores.getS.bind fun _ => (drainDue_restores ..).bind fun _ => ?_
  refine Restores.getS.bind fun _ => (Restores.when' (keep_afterEvents.restores rfl)).bind fun _ => ?_
  refine (keep_closePower.restores rfl).bind fun _ => ?_
  exact Restores.getS.bind fun _ => (Keep.each fun _ => keep_modCore ..).restores rfl

/-! ### The commands whose sequence is written out in their meaning -/

/-- Every part of a state, as a mask. -/
def anyPart : Nat := 0x3fffffff

theorem upstreamTickReturn_quiet (b : TickBack) {s : State} (hl : s.lineErrs = []) : Quiet (exec (.upstreamTickReturn b) s) := by
  refine Keep.quiet (n := 0x202f204f) (Keep.bind (Keep.getS _) fun s => Keep.ite (Keep.ite ?_ ?_) (Keep.pure _ _)) rfl hl
  · exact Keep.bind ((keep_setReg ..).mono rfl) fun _ => Keep.ite (keep_relock.mono rfl) ((keep_modTime _).mono rfl)
  · exact Keep.bind ((keep_flag _).mono rfl) fun _ => Keep.bind ((keep_modTime _).mono rfl) fun _ => (keep_tickRecord _).mono rfl

theorem mergedRecordReread_quiet (core : Fin 64) (errs : List LineErr) {s : State} (hl : s.lineErrs = []) :
    Quiet (exec (.mergedRecordReread core errs) s) := by
  refine Keep.quiet_withErrs (n := anyPart) (Keep.bind (Keep.getS _) fun s => Keep.each fun w => ?_) hl
  refine Keep.bind ((keep_startTile ..).mono rfl) fun r => Keep.ite ?_ (Keep.pure _ _)
  exact Keep.bind (Keep.getS _) fun _ => (keep_bump _).mono rfl

theorem stationTileStart_quiet (core : Fin 64) (slot : Fin 16) (errs : List LineErr) {s : State} (hl : s.lineErrs = []) :
    Quiet (exec (.stationTileStart core slot errs) s) :=
  Keep.quiet_withErrs (Keep.bind (keep_startTile ..) fun _ => Keep.pure _ _) hl

theorem collieHandoff_quiet (core : Fin 64) (slot : Fin 16) {s : State} (hl : s.lineErrs = []) :
    Quiet (exec (.collieHandoff core slot) s) :=
  Keep.quiet (Keep.bind (Keep.getS _) fun _ => Keep.when' (Keep.bind (keep_startTile ..) fun _ => Keep.pure _ _)) rfl hl

theorem sramWindowAccess_quiet (who : Who) (addr len : Nat) (data : Option (List Byte)) {s : State} (hl : s.lineErrs = []) :
    Quiet (exec (.sramWindowAccess who addr len data) s) := by
  refine Keep.quiet (n := 0x202f288f) (Keep.bind (Keep.getS _) fun s => ?_) rfl hl
  split
  · exact (keep_winAccess ..).mono rfl
  · exact (keep_notDone ..).mono rfl
  · exact Keep.pure _ _

theorem streamProgramEnd_quiet (core : Fin 64) {s : State} (hl : s.lineErrs = []) : Quiet (exec (.streamProgramEnd core) s) := by
  refine Keep.quiet (n := 0x202f288f) (Keep.bind ((keep_drainStats _).mono rfl) fun _ => ?_) rfl hl
  refine Keep.bind (Keep.getS _) fun s => Keep.when' (Keep.bind ((keep_programEnd _).mono rfl) fun _ => ?_)
  exact Keep.bind ((keep_modCore ..).mono rfl) fun _ => (keep_latch _).mono rfl

theorem pageWalk_quiet (core : Fin 64) (ctx : Fin 16) (va : Nat) (write : Bool) (errs : List LineErr) {s : State}
    (hl : s.lineErrs = []) : Quiet (exec (.pageWalk core ctx va write errs) s) :=
  Keep.quiet_withErrs (Keep.bind (Keep.getS _) fun _ => keep_walkFor ..) hl

theorem hbmRead_quiet (req : Fin 73) (cls : Fin 4) (addr : Nat) (via : ReadVia) (errs : List LineErr) {s : State}
    (hl : s.lineErrs = []) : Quiet (exec (.hbmRead req cls addr via errs) s) := by
  have read : Keep anyPart (submit ⟨req, cls, addr, none, false⟩ (readReq req cls addr)) :=
    keep_submit (hs := rfl) (h := (keep_readReq ..).mono rfl) ..
  refine Keep.quiet_withErrs (n := anyPart) ?_ hl
  cases via with
  | physical => exact read
  | context => exact Keep.ite ((keep_readCtxReq ..).mono rfl) read
  | load slot => exact Keep.ite ((keep_readLoadReq ..).mono rfl) read

theorem taskCompletion_quiet (core : Fin 64) {s : State} (hl : s.lineErrs = []) : Quiet (exec (.taskCompletion core) s) := by
  refine Keep.quiet (n := 0x202f38cf) (Keep.bind (Keep.getS _) fun s => Keep.when' ?_) rfl hl
  refine Keep.bind ((keep_modLatched _).mono rfl) fun _ => ?_
  exact Keep.bind ((keep_noteRank _).mono rfl) fun _ => (keep_completeTask _).mono rfl

theorem hangDeclaration_quiet (core : Fin 64) {s : State} (hl : s.lineErrs = []) : Quiet (exec (.hangDeclaration core) s) := by
  refine Keep.quiet (n := 0x21ff3ddf) (Keep.bind ((keep_closeWindow _).mono rfl) fun r => ?_) rfl hl
  cases r with
  | none => exact Keep.pure _ _
  | some code => exact Keep.bind ((keep_noteRank _).mono rfl) fun _ => (keep_takeHang ..).mono rfl

theorem lateAnswerDiscard_quiet (port : Fin 8) (id : Nat) {s : State} (hl : s.lineErrs = []) :
    Quiet (exec (.lateAnswerDiscard port id) s) := by
  refine Keep.quiet (n := 0x202f208f) (Keep.bind (Keep.getS _) fun s => ?_) rfl hl
  split
  · exact Keep.when' ((keep_deepAnswers ..).mono rfl)
  · exact Keep.pure _ _

theorem partialWrite_quiet (req : Fin 73) (addr data mask : Nat) (poison : Bool) (errs : List LineErr) {s : State}
    (hl : s.lineErrs = []) : Quiet (exec (.partialWrite req addr data mask poison errs) s) :=
  Keep.quiet_withErrs (Keep.when' (keep_writeReq ..)) hl

theorem xferPubSample_quiet (errs : List LineErr) {s : State} (hl : s.lineErrs = []) : Quiet (exec (.xferPubSample errs) s) :=
  Keep.quiet_withErrs (n := anyPart) (Keep.bind (keep_ringSample.mono rfl) fun _ => (keep_xferPump _).mono rfl) hl

theorem chainData_quiet (link crcOk : Bool) (hseq : Nat) (f : Frame) (errs : List LineErr) {s : State} (hp : s.trPend = []) :
    Quiet (exec (.chainData link crcOk hseq f errs) s) := by
  have body : Keep 0xc0f200f (when' link (onChain (dataIn f))) := Keep.when' (keep_onChain ((keep_dataIn f).mono rfl))
  exact Keep.quiet_unflushed (keep_frameIn (hs := rfl) (h := body) ..) rfl hp

theorem resetN_quiet {s : State} (hl : s.lineErrs = []) : Quiet (exec .resetN s) := by
  refine Keep.quiet (n := 0x3fef3ddf) (Keep.bind (Keep.getS _) fun s => Keep.ite ?_ (Keep.when' ?_)) rfl hl
  · exact (keep_requestReset ..).mono rfl
  · exact (keep_takeDevice ..).mono rfl

theorem thermalTrip_quiet (sensor : Fin 81) (reading : Nat) {s : State} (hl : s.lineErrs = []) :
    Quiet (exec (.thermalTrip sensor reading) s) := by
  refine Keep.quiet (n := 0x35ff3ddf) (Keep.bind (Keep.getS _) fun s => Keep.ite ?_ (Keep.pure _ _)) rfl hl
  refine Keep.bind ((keep_setSensor ..).mono rfl) fun _ => ?_
  exact Keep.bind (keep_thermalTrips.mono rfl) fun _ => Keep.each fun _ => (keep_takeTrip ..).mono rfl

theorem powerTrip_quiet {s : State} (hl : s.lineErrs = []) : Quiet (exec .powerTrip s) := by
  refine Keep.quiet (n := 0x35ff3ddf) (Keep.bind (keep_powerTrips.mono rfl) fun _ => Keep.ite ?_ (Keep.pure _ _)) rfl hl
  exact Keep.bind (Keep.getS _) fun _ => (keep_takeTrip ..).mono rfl

/-- No command leaves a record unwritten or line errors set. -/
theorem exec_quiet (c : Instr) {s : State} (hp : s.trPend = []) (hl : s.lineErrs = []) : Quiet (exec c s) := by
  cases c with
  | registerWrite => exact (keep_regRow ..).quiet rfl hl
  | readClearField => exact (keep_regRow ..).quiet rfl hl
  | tickEdge => exact (tickEdge_restores ..).quiet hl
  | holdoverLimitExceeded => exact (keep_holdExceeds ..).quiet rfl hl
  | upstreamTickReturn => exact upstreamTickReturn_quiet (hl := hl) ..
  | drainEncode => exact (keep_startOf ..).quiet_withErrs hl
  | mergedRecordReread => exact mergedRecordReread_quiet (hl := hl) ..
  | muleTileStart => exact (keep_startOf ..).quiet_withErrs hl
  | stationTileStart => exact stationTileStart_quiet (hl := hl) ..
  | reduceTile => exact (keep_startOf ..).quiet rfl hl
  | collieHandoff => exact collieHandoff_quiet (hl := hl) ..
  | sramWindowAccess => exact sramWindowAccess_quiet (hl := hl) ..
  | bankBind => exact (keep_bindTry ..).quiet rfl hl
  | streamProgramEnd => exact streamProgramEnd_quiet (hl := hl) ..
  | streamProgramStart => exact (keep_programStart ..).quiet_withErrs hl
  | pageWalk => exact pageWalk_quiet (hl := hl) ..
  | tileEventComplete => exact (keep_tileEvent ..).quiet rfl hl
  | startCmd => exact (keep_ctxCommand ..).quiet rfl hl
  | holdCmd => exact (keep_ctxCommand ..).quiet rfl hl
  | save => exact (keep_ctxCommand ..).quiet rfl hl
  | kill => exact (keep_ctxCommand ..).quiet rfl hl
  | flushXlate => exact (keep_ctxCommand ..).quiet rfl hl
  | restore => exact (keep_ctxCommand ..).quiet_withErrs hl
  | rosterPubSample => exact (keep_rosterSample ..).quiet_withErrs hl
  | entryFetch => exact (keep_fetchHead ..).quiet_withErrs hl
  | hbmRead => exact hbmRead_quiet (hl := hl) ..
  | taskCompletion => exact taskCompletion_quiet (hl := hl) ..
  | coreStoppedForSave => exact (keep_coreStops ..).quiet rfl hl
  | saveComplete => exact (keep_saveCompletes ..).quiet rfl hl
  | restoreComplete => exact (keep_restoreCompletes ..).quiet rfl hl
  | killComplete => exact (keep_killCompletes ..).quiet rfl hl
  | saveStopTimeout => exact (keep_saveTimesOut ..).quiet rfl hl
  | deepAccessFail => exact (keep_deepFails ..).quiet rfl hl
  | hangDeclaration => exact hangDeclaration_quiet (hl := hl) ..
  | sentinelCompletion => exact (keep_sentDone ..).quiet rfl hl
  | fullLineWrite => exact (keep_writeReq ..).quiet rfl hl
  | class0Window => exact (keep_openWindow ..).quiet rfl hl
  | lateAnswerDiscard => exact lateAnswerDiscard_quiet (hl := hl) ..
  | partialWrite => exact partialWrite_quiet (hl := hl) ..
  | deepAccess => exact (keep_deepAccess ..).quiet_withErrs hl
  | wcbEntryComplete => exact (keep_completeLine ..).quiet_unflushed rfl hp
  | fence => exact (keep_fenceOf ..).quiet_unflushed rfl hp
  | wagonResumeComplete => exact (keep_resumeDone ..).quiet_unflushed rfl hp
  | scrubGroup => exact (keep_scrubGroup ..).quiet_unflushed rfl hp
  | retireComplete => exact (keep_retireDone ..).quiet_unflushed rfl hp
  | dataPacket => exact (keep_arrives ..).quiet_withErrs hl
  | rts => exact (keep_arrives ..).quiet_withErrs hl
  | grant => exact (keep_arrives ..).quiet_withErrs hl
  | ack => exact (keep_arrives ..).quiet_withErrs hl
  | refuse => exact (keep_arrives ..).quiet_withErrs hl
  | xdata => exact (keep_arrives ..).quiet_withErrs hl
  | mgmt => exact (keep_arrives ..).quiet_withErrs hl
  | e2eTimeout => exact (keep_e2eExpires ..).quiet rfl hl
  | oxReset => exact (keep_takeReset ..).quiet rfl hl
  | coreReset => exact (keep_takeReset ..).quiet rfl hl
  | contextReset => exact (keep_takeReset ..).quiet rfl hl
  | portReset => exact (keep_takeReset ..).quiet rfl hl
  | iodReset => exact (keep_takeReset ..).quiet rfl hl
  | stackReset => exact (keep_takeReset ..).quiet rfl hl
  | dieReset => exact (keep_takeReset ..).quiet rfl hl
  | resetEscalation => exact (keep_escalateReset ..).quiet rfl hl
  | refuseLimitExpiry => exact (keep_refuseExpires ..).quiet rfl hl
  | xferPubSample => exact xferPubSample_quiet (hl := hl) ..
  | keyInstall => exact (keep_keyInstall ..).quiet_unflushed rfl hp
  | verifyComplete => exact (keep_verifyComplete ..).quiet_withErrs hl
  | rsrcExpiry => exact (keep_rsrcExpires ..).quiet rfl hl
  | chainData => exact chainData_quiet (hp := hp) ..
  | deviceReset => exact (keep_takeDevice ..).quiet rfl hl
  | resetN => exact resetN_quiet (hl := hl) ..
  | resetComplete => exact (keep_completeReset ..).quiet rfl hl
  | thermalTrip => exact thermalTrip_quiet (hl := hl) ..
  | powerTrip => exact powerTrip_quiet (hl := hl) ..
  | dieLinkRead => exact (keep_dieLink ..).quiet_withErrs hl
  | dieLinkWrite => exact (keep_dieLink ..).quiet_withErrs hl
  | _ => exact quiet_of_untouched hp hl ⟨of_decide_eq_true rfl, of_decide_eq_true rfl⟩

/-! ## The invariant -/

/-- The queue is no part of the invariant. -/
theorem inv_withPending {s : State} (h : s.Inv) (l : List Instr) : State.Inv { s with pending := l } := h

theorem exec_inv {c : Instr} {s t : State} (h : s.Inv) (e : exec c s = .next t) : t.Inv := by
  obtain ⟨hc, hp, hl⟩ := s.inv_iff.mp h
  obtain ⟨u, hu, hup, hul⟩ := exec_quiet c hp hl
  obtain rfl := Host.Outcome.next.inj (hu.symm.trans e)
  exact (State.inv_iff u).mpr ⟨exec_canon hc e, hup, hul⟩

/-- Settles O4: an empty queue changes nothing, and the front command keeps the invariant. -/
theorem everyStepKeepsTheInvariant : Obligations.EveryStepKeepsTheInvariant := by
  intro s t h e
  unfold step at e
  split at e
  · obtain rfl := Host.Outcome.next.inj e
    exact h
  · exact exec_inv (inv_withPending h _) e

/-! ## The state after reset -/

/-- Settles O5: after reset every map lists nothing. -/
theorem resetHoldsTheInvariant : Obligations.ResetHoldsTheInvariant :=
  (State.inv_iff _).mpr ⟨⟨rfl, rfl, rfl, rfl, rfl, rfl, rfl, rfl, rfl, rfl, fun _ he => nomatch he⟩, rfl, rfl⟩

/-- CTX_STATE resets to 0 in every context. -/
theorem ctxState_reset : ∀ c < 16, ctxState State.reset c = 0 := by decide

/-- A register that nothing has written reads its reset value. -/
theorem natCast_rg_reset (a : Nat) : (rg State.reset a : Word) = resetWord State.reset.part a := by
  have h : rg State.reset a = (resetWord State.reset.part a).toNat := rfl
  rw [h, BitVec.natCast_eq_ofNat, BitVec.ofNat_toNat, BitVec.setWidth_eq]

/-- Settles O6: after reset every map lists nothing, and an unlisted entry reads its default. -/
theorem resetLeavesTheResetValues : Obligations.ResetLeavesTheResetValues :=
  ⟨rfl, rfl, rfl, rfl, rfl, rfl, fun a _ _ => natCast_rg_reset a, fun _ => rfl, fun _ => ⟨rfl, rfl⟩, fun _ => rfl, ctxState_reset, fun _ => rfl⟩

end Sys2Proof.Machine
end

section
/-!
Accesses to registers (00_scope.md, R7, R8, R10 to R13, R660, R695): what an access of the bus gives and leaves, case by
case, and how REGISTER_WRITE and READ_CLEAR_FIELD answer it.
-/

namespace Sys2Proof.Machine

/-! ## How a command ends -/

/-- A meaning whose sequence takes no record answers the state that the sequence leaves. -/
theorem Gives.runT_eq {m : M Unit} {s t : State} (h : Gives m s () t) (hp : t.trPend = []) : runT m s = .next t :=
  (Ends.of_runT h).next_eq hp

/-! ## Half and whole accesses -/

section
variable {who : Who} {a v : Nat} {d : RegDef} {s t : State}

theorem gives_write32_of_none (h : regAt s.part a = none) : Gives (write32 who a v) s () s := fun k => by
  simp only [write32, run_bind, run_getS, h, run_pure]

theorem gives_read32_of_none (h : regAt s.part a = none) : Gives (read32 a) s 0 s := fun k => by
  simp only [read32, run_bind, run_getS, h, run_pure]

theorem gives_write32_of_wide (h : regAt s.part a = some d) (hd : d.width = 64) : Gives (write32 who a v) s () s := fun k => by
  simp [write32, h, hd]

theorem gives_read32_of_wide (h : regAt s.part a = some d) (hd : d.width = 64) : Gives (read32 a) s 0 s := fun k => by
  simp [read32, h, hd]

theorem gives_write64_of_none (h : regAt s.part a = none) (h' : regAt s.part (a + 4) = none) : Gives (write64 who a v) s () s := fun k => by
  simp only [write64, run_bind, run_getS, h]
  exact ((gives_write32_of_none h).bind (gives_write32_of_none h')) k

theorem gives_read64_of_none (h : regAt s.part a = none) (h' : regAt s.part (a + 4) = none) : Gives (read64 a) s 0 s := fun k => by
  simp only [read64, run_bind, run_getS, h]
  exact ((gives_read32_of_none h).bind ((gives_read32_of_none h').bind fun _ => rfl)) k

/-- A write of a register's own width reaches the register. -/
theorem gives_write_of_width (h : regAt s.part a = some d) (hw : d.width = 32 ∨ d.width = 64)
    (hg : Gives (writeReg who d a (v % 2 ^ d.width)) s () t) :
    Gives (if d.width / 8 = 4 then write32 who a v else write64 who a v) s () t := fun k => by
  rcases hw with hw | hw
  · simp only [hw, write32, run_bind, run_getS, h, decide_true, run_when'_true, Nat.reduceDiv, if_true] at hg ⊢
    exact hg k
  · simp only [hw, write64, run_bind, run_getS, h, Nat.reduceDiv, Nat.reduceEqDiff, if_true, if_false] at hg ⊢
    exact hg k

/-- A read of a register's own width reads the register. -/
theorem gives_read_of_width (h : regAt s.part a = some d) (hw : d.width = 32 ∨ d.width = 64) (hg : Gives (readReg d a) s v t) :
    Gives (if d.width / 8 = 4 then read32 a else read64 a) s v t := fun k => by
  rcases hw with hw | hw
  · simp [hw, read32, h, hg k]
  · simp [hw, read64, h, hg k]

end

/-! ## An access of the bus -/

/-- A write that leaves the cores as they were is held by no Mule. -/
theorem heldWrite_of_cores {s t : State} (h : t.cores = s.cores) (a : Nat) : heldWrite s t a = .done 0 := by
  unfold heldWrite theCore
  rw [h]
  split
  · exact if_neg (lt_irrefl _)
  · rfl

section
variable {who : Who} {a size v g : Nat} {data : Option Nat} {s t : State}

theorem gives_regAccess_of_badWidth (h : widthOk a size = false) : Gives (regAccess who a size data) s .error s := fun k => by
  simp [regAccess, h]

theorem gives_regAccess_of_refuses (h : widthOk a size = true) (hr : regRefuses s a = some g) :
    Gives (regAccess who a size data) s (.refused g) (s.count RESET_REFUSALS_COUNT 1) := fun k => by
  simp [regAccess, h, hr]

theorem gives_regAccess_write (h : widthOk a size = true) (hr : regRefuses s a = none)
    (hg : Gives (if size = 4 then write32 who a v else write64 who a v) s () t) (hc : t.cores = s.cores) :
    Gives (regAccess who a size (some v)) s (.done 0) t := fun k => by
  rw [← heldWrite_of_cores hc a]
  simp only [regAccess, h, hr, Bool.not_true, Bool.false_eq_true, if_false, run_bind, run_getS]
  by_cases h4 : size = 4 <;> simp only [h4, if_true, if_false] at hg ⊢ <;> exact hg _

theorem gives_regAccess_read (h : widthOk a size = true) (hr : regRefuses s a = none)
    (hg : Gives (if size = 4 then read32 a else read64 a) s v t) : Gives (regAccess who a size none) s (.done v) t := fun k => by
  simp only [regAccess, h, hr, Bool.not_true, Bool.false_eq_true, if_false, run_bind, run_getS]
  by_cases h4 : size = 4 <;> simp only [h4, if_true, if_false] at hg ⊢ <;> exact hg _

/-- What a requester is told of an access; `read` says that it is a read. -/
def State.busAnswered (s : State) (who : Who) (a : Nat) (read : Bool) (r : BusAns) : State :=
  match r with
  | .done v => if read then s.says (.regValue a v) else s
  | .held _ => s
  | .error => s.turnedAway who a 1 6 0xFFFF
  | .refused g => s.says (.refusal a g)

@[simp] theorem busAnswered_trPend (s : State) (who : Who) (a : Nat) (read : Bool) (r : BusAns) :
    (s.busAnswered who a read r).trPend = s.trPend := by
  cases r with
  | done v => cases read <;> rfl
  | error => exact turnedAway_trPend ..
  | _ => rfl

theorem gives_regRow {r : BusAns} (hi : isReg a = true) (hg : Gives (regAccess who a size data) s r t) :
    Gives (regRow who a size data) s () (t.busAnswered who a data.isNone r) := fun k => by
  simp only [regRow, hi, if_true, run_bind, hg _]
  cases r with
  | done v => cases data <;> rfl
  | held n => rfl
  | error => exact run_notDone ..
  | refused g => rfl

/-- An address that is no register's: a reserved one is turned away, another reaches nothing. -/
theorem gives_regRow_of_noReg (hi : isReg a = false) : Gives (regRow who a size data) s ()
    (if regionOf s.part a = .reserved then s.turnedAway who a 1 0 0xFFFF else s) := fun k => by
  simp only [regRow, hi, Bool.false_eq_true, if_false, run_bind, run_getS, run_when', run_notDone, decide_eq_true_eq]
  split <;> rfl

end

/-! ## The two commands -/

section
variable {who : Who} {addr size data g : Nat} {s t : State}

theorem exec_registerWrite_of_gives (hi : isReg addr = true) (hw : widthOk addr size = true) (hr : regRefuses s addr = none)
    (hg : Gives (if size = 4 then write32 who addr data else write64 who addr data) s () t) (hc : t.cores = s.cores)
    (hp : t.trPend = []) : exec (.registerWrite who addr size data) s = .next t :=
  (gives_regRow hi (gives_regAccess_write hw hr hg hc)).runT_eq hp

theorem exec_readClearField_of_gives {v : Nat} (hi : isReg addr = true) (hw : widthOk addr size = true) (hr : regRefuses s addr = none)
    (hg : Gives (if size = 4 then read32 addr else read64 addr) s v t) (hp : t.trPend = []) :
    exec (.readClearField who addr size) s = .next (t.says (.regValue addr v)) :=
  (gives_regRow hi (gives_regAccess_read hw hr hg)).runT_eq hp

end

/-- Settles O11: the access is an error, which every requester is told in its own way. -/
theorem accessOfBadWidthIsNotPerformed : Obligations.AccessOfBadWidthIsNotPerformed := by
  intro who addr size data s hp hi hw
  have hp' : (s.turnedAway who addr 1 6 0xFFFF).trPend = [] := (turnedAway_trPend ..).trans hp
  exact ⟨(gives_regRow hi (gives_regAccess_of_badWidth hw)).runT_eq hp', (gives_regRow hi (gives_regAccess_of_badWidth hw)).runT_eq hp'⟩

/-- Settles O12: both halves of the access meet no register. -/
theorem gapsReadZeroAndDropWrites : Obligations.GapsReadZeroAndDropWrites := by
  intro who addr size data s hp hi hw hr h h8
  have size_eq : size = 4 ∨ size = 8 := by
    simp only [widthOk, Bool.and_eq_true, Bool.or_eq_true, decide_eq_true_eq] at hw
    exact hw.1
  have write : Gives (if size = 4 then write32 who addr data else write64 who addr data) s () s := by
    rcases size_eq with rfl | rfl
    · exact gives_write32_of_none h
    · exact gives_write64_of_none h (h8 rfl)
  have read : Gives (if size = 4 then read32 addr else read64 addr) s 0 s := by
    rcases size_eq with rfl | rfl
    · exact gives_read32_of_none h
    · exact gives_read64_of_none h (h8 rfl)
  exact ⟨exec_registerWrite_of_gives hi hw hr write rfl hp, exec_readClearField_of_gives hi hw hr read hp⟩

/-- Settles O13: the 32-bit half of an access passes a 64-bit register by. -/
theorem narrowAccessToAWideRegister : Obligations.NarrowAccessToAWideRegister := by
  intro who addr data d s hp hi ha hr h hd
  have hw : widthOk addr 4 = true := by simp [widthOk, ha]
  exact ⟨exec_registerWrite_of_gives hi hw hr (gives_write32_of_wide h hd) rfl hp,
    exec_readClearField_of_gives hi hw hr (gives_read32_of_wide h hd) hp⟩

/-! ## Writes by the block of the register -/

section
variable {who : Who} {a v : Nat} {d : RegDef} {s : State}

/-- In a plain block a write acts on the fields and on nothing else. -/
theorem writeReg_of_plainBlock (h : plainBlock who a = true) :
    Gives (writeReg who d a v) s () (s.putReg a (d.written (startOver s) (rg s a) v)) := fun k => by
  unfold plainBlock at h
  unfold writeReg writeBlk
  generalize blkOf a = b at h ⊢
  cases b with
  | time | disp | cxl _ | gap => rfl
  | pwr | chain =>
    obtain rfl : who = .controlDie := of_decide_eq_true h
    rfl
  | _ => exact absurd h Bool.false_ne_true

/-- The blocks that only the control die writes. -/
theorem writeReg_of_dieOnly (h : blkOf a = .reset ∨ blkOf a = .pwr ∨ blkOf a = .chain ∨ blkOf a = .sec) (hw : who ≠ .controlDie) :
    Gives (writeReg who d a v) s () s := fun k => by
  rcases h with h | h | h | h <;> simp [writeReg, writeBlk, h, dieOnly, hw]

/-- A read shows the register and clears its clear-on-read fields; the queues are not of this kind. -/
theorem gives_readReg (hq : ∀ n, a ≠ CORE_CQ0 n ∧ a ≠ CORE_CQ1 n) (hm : ∀ i, a ≠ HBM_MAINT_DATA i) (hv : a ≠ SEC_VERIFY_DONE) :
    Gives (readReg d a) s (regShown s a) (if d.hasRc = true then s.putReg a (d.cleared (rg s a)) else s) := fun k => by
  have plain : Act.run ((when' d.hasRc (setReg a (d.cleared (rg s a))) >>= fun _ => (pure (regShown s a) : M Nat)) k) s
      = Act.run (k (regShown s a)) (if d.hasRc = true then s.putReg a (d.cleared (rg s a)) else s) := by
    simp only [run_bind, run_when', run_setReg, run_pure]
    split <;> rfl
  unfold readReg
  simp only [run_bind, run_getS]
  cases blkOf a with
  | core n => simpa only [(hq n).1, (hq n).2, if_false] using plain
  | hbm i => simpa only [hm i, if_false] using plain
  | sec => simpa only [hv, if_false] using plain
  | _ => exact plain

end

/-- Settles O14: the write reaches `writeReg`, whose block says what it does. -/
theorem writesActFieldByField : Obligations.WritesActFieldByField := by
  refine ⟨fun who addr data d s hp hi hw hd hr h => ⟨fun hb => ?_, fun hb hn => ?_⟩, fun who addr size data s hp hi => ?_⟩
  · exact exec_registerWrite_of_gives hi hw hr (gives_write_of_width h hd (writeReg_of_plainBlock hb)) (putReg_cores ..) hp
  · exact exec_registerWrite_of_gives hi hw hr (gives_write_of_width h hd (writeReg_of_dieOnly hb hn)) rfl hp
  · have hp' : (if regionOf s.part addr = .reserved then s.turnedAway who addr 1 0 0xFFFF else s).trPend = [] := by
      split
      · exact (turnedAway_trPend ..).trans hp
      · exact hp
    exact ⟨(gives_regRow_of_noReg hi).runT_eq hp', (gives_regRow_of_noReg hi).runT_eq hp'⟩

/-- Settles O15: the read reaches `readReg`, and a unit in reset answers before the register does. -/
theorem readsAnswerTheRegisterAndResetsRefuse : Obligations.ReadsAnswerTheRegisterAndResetsRefuse := by
  refine ⟨fun who addr d s hp hi hw hd hr h hq hm hv => ?_, fun who addr size data s g hp hi hw hr => ?_⟩
  · refine exec_readClearField_of_gives hi hw hr (gives_read_of_width h hd (gives_readReg hq hm hv)) ?_
    split
    · exact (putReg_trPend ..).trans hp
    · exact hp
  · exact ⟨(gives_regRow hi (gives_regAccess_of_refuses hw hr)).runT_eq hp, (gives_regRow hi (gives_regAccess_of_refuses hw hr)).runT_eq hp⟩

/-! ## The SRAM window of a core in reset -/

/-- A core that is being reset refuses an access to its window, and the refusal is counted (R660). -/
theorem exec_sramWindowAccess_of_resetting {who : Who} {addr len n off : Nat} {data : Option (List Byte)} {s : State}
    (hp : s.trPend = []) (hr : regionOf s.part addr = .sram n off) (hc : coreResetting s n = true) :
    exec (.sramWindowAccess who addr len data) s = .next (s.refused addr ((coreGen s n + 1) % 65536)) := by
  have hg : Gives (winAccess who n off addr len data none) s () (s.refused addr ((coreGen s n + 1) % 65536)) := fun k => by
    simp [winAccess, hc]
  refine Gives.runT_eq (fun k => ?_) hp
  simp only [run_bind, run_getS, hr]
  exact hg k

/-- The device after reset, but that core 0 is being reset. -/
def core0Resetting : State := State.reset.put (RESET_GEN_CORE_RESETTING 0) 1

/-- Refutes O33: the statement says that a refusal by a core in reset leaves all but the outbox as it was, while the model
counts it in RESET_REFUSALS (R660). The control die reads the first byte of core 0's window while core 0 is being reset:
the count is 1, where the statement asks for 0. -/
theorem not_windowAccessesReachTheBanks : ¬ Obligations.WindowAccessesReachTheBanks := by
  intro h
  have region : regionOf core0Resetting.part sramBase = .sram 0 0 := by decide
  have resetting : coreResetting core0Resetting 0 = true := by decide
  have claimed := ((h .controlDie sramBase 1 [] core0Resetting rfl).2.2 0 0 region).1 resetting |>.1
  have actual := exec_sramWindowAccess_of_resetting (who := .controlDie) (len := 1) (data := none) rfl region resetting
  have same := congrArg (fv · RESET_REFUSALS_COUNT) (Host.Outcome.next.inj (claimed.symm.trans actual))
  exact absurd same (by decide)

end Sys2Proof.Machine
end

section
/-!
PAGE_WALK (08_dispatch_and_contexts.md, R317, R318, R320): how a translation is found, where a walk stops, and what the command
leaves.
-/

namespace Sys2Proof.Machine

/-- Where a command carries line errors and takes no record, it answers what its sequence leaves, without them. -/
theorem Gives.runT_withErrs {m : M Unit} {errs : List LineErr} {s t : State} (h : Gives m (s.meeting errs) () t) (hp : t.trPend = []) :
    runT (withErrs errs m) s = .next (t.meeting []) :=
  (Ends.of_errs h).next_eq hp

/-! ## Translation -/

section
variable {a : CtxAcc} {va n st off : Nat} {write : Bool} {s t u v : State} {x : Xl} {w : Stop}

/-- A cached translation that allows the access answers at once. -/
theorem gives_translate_of_cached {y : Xlate} (hv : va < 2 ^ 52) (hn : a.core = some n) (hw : write = true → y.w = true)
    (hy : (theCore s n).xlate.find? (fun x => x.ctx = a.ctx && x.gslot = cacheSlot s a va && x.vpage = va / page2M) = some y) :
    Gives (translate a va write) s (.ok ⟨y.ppage * page2M + va % page2M, y.refetch, y.leaf2⟩) s := fun k => by
  have hno : (write && !y.w) = false := by
    cases write
    · rfl
    · simp [hw rfl]
  simp only [translate, ge_iff_le, not_le.mpr hv, if_false, run_bind, run_getS, hn, hy, hno, Bool.false_eq_true, run_pure]

/-- Without one the tables are walked, and the core's walker holds what the walk found. -/
theorem gives_translate_of_walked {e : Nat} (hv : va < 2 ^ 52) (hn : a.core = some n)
    (hy : (theCore s n).xlate.find? (fun x => x.ctx = a.ctx && x.gslot = cacheSlot s a va && x.vpage = va / page2M) = none)
    (hg : Gives (walkTables a va write) s (.ok x, e) u) :
    Gives (translate a va write) s (.ok x) (u.putCore n fun c => { c with
      xlate := c.xlate ++ [⟨a.ctx, cacheSlot s a va, va / page2M, x.pa / page2M, bit e 2, x.refetch, x.leaf2⟩] }) := fun k => by
  simp only [translate, ge_iff_le, not_le.mpr hv, if_false, run_bind, run_getS, hn, hy, hg _, run_modCore, run_pure]

/-- A page of HBM has no directory entry to read. -/
theorem gives_dirWalk_of_hbm (h : regionOf s.part x.pa = .hbm st off) : Gives (dirWalk a x) s none s := fun k => by
  simp only [dirWalk, run_bind, run_getS, h, run_pure]

/-! ## The walk of an access -/

theorem gives_walkFor_of_stop (h : Gives (translate a va write) s (.stop w) u) (hf : Gives (faultFor a w) u () v) :
    Gives (walkFor a n va write) s () v := fun k => by
  simp only [walkFor, run_bind, h _, hf k]

theorem gives_walkFor_of_dirStop (h : Gives (translate a va write) s (.ok x) u) (hd : Gives (dirWalk a x) u (some w) v)
    (hf : Gives (faultFor a w) v () t) : Gives (walkFor a n va write) s () t := fun k => by
  simp only [walkFor, run_bind, h _, hd _, hf k]

theorem gives_walkFor_of_absent {code : Nat} (h : Gives (translate a va write) s (.ok x) u) (hd : Gives (dirWalk a x) u none v)
    (hp : pageAbsent v n x.pa = some code) (hf : Gives (faultFor a (.fault 1 code va)) v () t) :
    Gives (walkFor a n va write) s () t := fun k => by
  simp only [walkFor, run_bind, h _, hd _, run_getS, hp, hf k]

theorem gives_walkFor_of_present (h : Gives (translate a va write) s (.ok x) u) (hd : Gives (dirWalk a x) u none v)
    (hp : pageAbsent v n x.pa = none) : Gives (walkFor a n va write) s () v := fun k => by
  simp only [walkFor, run_bind, h _, hd _, run_getS, hp, run_pure]

end

/-! ## The command -/

/-- The access that a core's walker makes for a context. -/
def walkAcc (s : State) (core : Fin 64) (ctx : Fin 16) : CtxAcc := { taskAcc s core 1 with ctx := ctx }

section
variable {core : Fin 64} {ctx : Fin 16} {va : Nat} {write : Bool} {errs : List LineErr} {s t : State}

/-- The command ends where its walk leads. -/
theorem ends_pageWalk (h : Gives (walkFor (walkAcc s core ctx) core va write) (s.meeting errs) () t) :
    Ends (exec (.pageWalk core ctx va write errs) s) (t.meeting []) :=
  Ends.of_errs (fun k => h k)

theorem exec_pageWalk_of_gives (h : Gives (walkFor (walkAcc s core ctx) core va write) (s.meeting errs) () t) (hp : t.trPend = []) :
    exec (.pageWalk core ctx va write errs) s = .next (t.meeting []) :=
  (ends_pageWalk h).next_eq hp

/-- Where a walk stops the context faults; where it ends, the page's directory entry and its memory are judged. -/
theorem pageWalk_faults_or_ends : ∃ r u, Gives (translate (walkAcc s core ctx) va write) (s.meeting errs) r u ∧
      ((∀ w, r = .stop w → ∃ v, Gives (faultFor (walkAcc s core ctx) w) u () v
          ∧ Ends (exec (.pageWalk core ctx va write errs) s) (v.meeting []))
      ∧ (∀ x, r = .ok x → ∃ q v, Gives (dirWalk (walkAcc s core ctx) x) u q v ∧
          ((∀ w, q = some w → ∃ t, Gives (faultFor (walkAcc s core ctx) w) v () t
              ∧ Ends (exec (.pageWalk core ctx va write errs) s) (t.meeting []))
          ∧ (q = none → pageAbsent v core x.pa = none → Ends (exec (.pageWalk core ctx va write errs) s) (v.meeting []))
          ∧ (∀ code, q = none → pageAbsent v core x.pa = some code →
              ∃ t, Gives (faultFor (walkAcc s core ctx) (.fault 1 code va)) v () t
                ∧ Ends (exec (.pageWalk core ctx va write errs) s) (t.meeting []))))) := by
  obtain ⟨r, u, _, hr⟩ := (keep_translate (walkAcc s core ctx) va write).gives (s.meeting errs)
  refine ⟨r, u, hr, fun w hw => ?_, fun x hx => ?_⟩
  · subst hw
    obtain ⟨_, v, _, hv⟩ := (keep_faultFor (walkAcc s core ctx) w).gives u
    exact ⟨v, hv, ends_pageWalk (gives_walkFor_of_stop hr hv)⟩
  · subst hx
    obtain ⟨q, v, _, hq⟩ := (keep_dirWalk (walkAcc s core ctx) x).gives u
    refine ⟨q, v, hq, fun w hw => ?_, fun hn hp => ?_, fun code hn hp => ?_⟩
    · subst hw
      obtain ⟨_, t, _, ht⟩ := (keep_faultFor (walkAcc s core ctx) w).gives v
      exact ⟨t, ht, ends_pageWalk (gives_walkFor_of_dirStop hr hq ht)⟩
    · subst hn
      exact ends_pageWalk (gives_walkFor_of_present hr hq hp)
    · subst hn
      obtain ⟨_, t, _, ht⟩ := (keep_faultFor (walkAcc s core ctx) (.fault 1 code va)).gives v
      exact ⟨t, ht, ends_pageWalk (gives_walkFor_of_absent hr hq hp ht)⟩

end

/-! ## What a judgement of an address looks at -/

@[simp] theorem meeting_part (s : State) (errs : List LineErr) : (s.meeting errs).part = s.part := rfl
theorem gateHbm_meeting (s : State) (errs : List LineErr) (req st off : Nat) :
    gateHbm (s.meeting errs) req st off = gateHbm s req st off := rfl
theorem gateHbm_putCore (s : State) (i : Nat) (f : CoreSt → CoreSt) (req st off : Nat) :
    gateHbm (s.putCore i f) req st off = gateHbm s req st off := rfl
theorem deepFitted_meeting (s : State) (errs : List LineErr) : deepFitted (s.meeting errs) = deepFitted s := rfl
theorem deepFitted_putCore (s : State) (i : Nat) (f : CoreSt → CoreSt) : deepFitted (s.putCore i f) = deepFitted s := rfl

/-- A page's absence depends on the assembly, on what stands before HBM, and on the fitted deep memory. With the assembly
unknown the kernel would evaluate the bound of `regionOf` step by step, so that the case split comes first. -/
theorem pageAbsent_congr {s t : State} (hp : t.part = s.part) (hg : ∀ req st off, gateHbm t req st off = gateHbm s req st off)
    (hd : deepFitted t = deepFitted s) (n pa : Nat) : pageAbsent t n pa = pageAbsent s n pa := by
  obtain ⟨p⟩ := s
  obtain ⟨q⟩ := t
  obtain rfl : q = p := hp
  cases q with | _ =>
  delta pageAbsent
  dsimp only
  generalize regionOf _ pa = r
  cases r with
  | hbm st off => simp only [hg]
  | deep off => simp only [hd]
  | _ => rfl

theorem pageAbsent_meeting (s : State) (errs : List LineErr) (n pa : Nat) : pageAbsent (s.meeting errs) n pa = pageAbsent s n pa :=
  pageAbsent_congr (meeting_part ..) (gateHbm_meeting s errs) (deepFitted_meeting ..) n pa

theorem pageAbsent_putCore (s : State) (i : Nat) (f : CoreSt → CoreSt) (n pa : Nat) :
    pageAbsent (s.putCore i f) n pa = pageAbsent s n pa :=
  pageAbsent_congr (putCore_part ..) (gateHbm_putCore s i f) (deepFitted_putCore ..) n pa

/-- Settles O34: a walk takes no record, so that one that reaches a page of HBM answers what the reads of the tables left. -/
theorem aPageWalkFaultsOrCachesItsTranslation : Obligations.APageWalkFaultsOrCachesItsTranslation := by
  intro core ctx va write errs s hp hl
  obtain ⟨r, u, hg, ends⟩ := pageWalk_faults_or_ends (core := core) (ctx := ctx) (va := va) (write := write) (errs := errs) (s := s)
  refine ⟨r, u, hg, ends, fun hv => ⟨fun x st off hx hw hr ha => ?_, fun x e u st off hx hg hr ha => ?_⟩⟩
  · have ht := gives_translate_of_cached (a := walkAcc s core ctx) (s := s.meeting errs) hv rfl hw hx
    exact (exec_pageWalk_of_gives (gives_walkFor_of_present ht (gives_dirWalk_of_hbm hr)
      ((pageAbsent_meeting ..).trans ha)) hp).trans (congrArg _ (meeting_nil hl))
  · have ht := gives_translate_of_walked (a := walkAcc s core ctx) (s := s.meeting errs) hv rfl hx hg
    have part_eq : u.part = s.part := (hg.same (keep_walkTables ..)).2.1
    have tables_trPend : u.trPend = [] := (hg.trPend (keep_walkTables ..) (by decide)).trans hp
    exact exec_pageWalk_of_gives (gives_walkFor_of_present ht (gives_dirWalk_of_hbm (part_eq ▸ hr))
      ((pageAbsent_putCore ..).trans ha)) tables_trPend

end Sys2Proof.Machine
end

section
/-!
Requests by device-physical address (09_hbm_subsystem.md, R366, R374 to R377, R443, R446; log 42): a request is carried out at
once where its pseudo-channel is open to it and waits where it is not, and what it meets is what the line answers.
-/

namespace Sys2Proof.Machine

/-! ## An address and its line -/

theorem regionOf_eq_hbm {p : Part} {a st off : Nat} :
    regionOf p a = .hbm st off ↔ a < p.nStacks * stackBytes ∧ a / stackBytes = st ∧ a % stackBytes = off := by
  cases p <;> unfold regionOf <;> split_ifs with h <;> simp [h]

/-- An address lies in HBM where its line does. -/
theorem regionOf_of_line {p : Part} {a st off : Nat} (h : regionOf p (a - a % 256) = .hbm st off) :
    ∃ o, regionOf p a = .hbm st o ∧ off = o - o % 256 := by
  obtain ⟨h1, rfl, rfl⟩ := regionOf_eq_hbm.mp h
  refine ⟨a % stackBytes, regionOf_eq_hbm.mpr ⟨?_, ?_, rfl⟩, ?_⟩ <;> unfold stackBytes at * <;> omega

/-- Lines begin at multiples of 256, and so does every part of a stack. -/
theorem storageOff_of_line (s : State) (st off : Nat) :
    storageOff s st (off - off % 256) = (storageOff s st off).map fun o => o - o % 256 := by
  have usable : off - off % 256 < usableBytes ↔ off < usableBytes := by unfold usableBytes; omega
  have page : (off - off % 256) / page2M = off / page2M := by unfold page2M; omega
  unfold storageOff
  simp only [usable, page]
  split
  · split
    · rfl
    · next slot _ =>
      have spare : (off - off % 256) % page2M = off % page2M - off % page2M % 256 := by unfold page2M; omega
      simp only [spare, Option.map_some, Option.some.injEq]
      unfold spareBase page2M
      omega
    · rfl
  · rfl

/-- What stands before a line stands before every byte of it. -/
theorem gateHbm_of_line {s : State} {req st off i a : Nat} (h : gateHbm s req st (off - off % 256) = .at i a) :
    gateHbm s req st off = .at i a := by
  have usable : off - off % 256 < usableBytes ↔ off < usableBytes := by unfold usableBytes; omega
  have below : usableBytes ≤ off - off % 256 ↔ usableBytes ≤ off := by unfold usableBytes; omega
  have check : checkBase ≤ off - off % 256 ↔ checkBase ≤ off := by unfold checkBase; omega
  have page : (off - off % 256) / page2M = off / page2M := by unfold page2M; omega
  have same : ∀ o : Nat, st * stackBytes + (o - o % 256) - (o - o % 256) % 256 = st * stackBytes + o - o % 256 := by
    intro o; unfold stackBytes; omega
  unfold gateHbm at h ⊢
  simp only [ge_iff_le, usable, below, check, page, storageOff_of_line] at h
  cases hs : storageOff s st off with
  | none =>
    simp only [hs, Option.map_none] at h ⊢
    split_ifs at h ⊢
    exact h
  | some o =>
    simp only [hs, Option.map_some, same] at h ⊢
    split_ifs at h ⊢
    exact h

/-! ## How a request reaches its stack -/

/-- A request meets no busy pseudo-channel: where the address has a line, its pseudo-channel is open. -/
def PcFree (s : State) (req addr : Nat) : Prop :=
  ∀ st off i a, regionOf s.part addr = .hbm st off → gateHbm s req st off = .at i a → pcOpen s st (pcAt a) = true

/-- A request meets the busy pseudo-channel of a line of stack `st`. -/
structure PcBusy (s : State) (req addr st : Nat) : Prop where
  free : rsrcOf s addr = none
  busy : ∃ off i a, regionOf s.part addr = .hbm st off ∧ gateHbm s req st off = .at i a ∧ pcOpen s st (pcAt a) = false

/-- What is done before a request waits: the directory's entries are kept from a write. -/
def KeptFrom (q : HbmReq) (s u : State) : Prop :=
  (q.write = none ∧ u = s) ∨ ∃ w, q.write = some w ∧ Gives (guardDir q.req q.addr w.2.1) s () u

/-- A request in a slot of its stack. -/
def State.queued (s : State) (st : Nat) (q : HbmReq) : State := s.putStack st fun k => { k with queue := k.queue ++ [q] }

/-- A request that waits at its requester for a slot, which is counted. -/
def State.slotless (s : State) (st : Nat) (q : HbmReq) : State :=
  (s.putStack st fun k => { k with waits := k.waits ++ [q] }).count (HBM_SLOT_WAIT_COUNT st) 1

section
variable {q : HbmReq} {m : M Unit} {st : Nat} {s t u : State}

/-- A request that meets no busy pseudo-channel is carried out. -/
theorem gives_submit_of_free (h : PcFree s q.req q.addr) (hg : Gives m s () t) : Gives (submit q m) s () t := fun k => by
  simp only [submit, run_bind, run_getS]
  cases hr : regionOf s.part q.addr with
  | hbm st off =>
    cases hi : (rsrcOf s q.addr).isSome with
    | true => exact hg k
    | false =>
      rcases ha : gateHbm s q.req st off with ⟨i, a⟩ | code | why | ⟨i, o⟩
      · simp only [h st off i a hr ha, Bool.false_eq_true, if_false, ha, if_true]
        exact hg k
      all_goals
        simp only [Bool.false_eq_true, if_false, ha]
        exact hg k
  | _ => exact hg k

/-- One that meets a busy one waits at its requester where its class finds no slot. -/
theorem gives_submit_slotless (hb : PcBusy s q.req q.addr st) (hk : KeptFrom q s u) (hs : slotFor s st q.cls = false) :
    Gives (submit q m) s () (u.slotless st q) := fun k => by
  obtain ⟨hn, off, i, a, hr, ha, ho⟩ := hb
  rcases hk with ⟨hw, rfl⟩ | ⟨w, hw, hg⟩
  · simp [submit, hr, hn, ha, ho, hw, hs, State.slotless]
  · simp [submit, hr, hn, ha, ho, hw, hs, hg _, State.slotless]

/-- And in a slot where it finds one; the slots in use are noted in the stack's registers. -/
theorem gives_submit_queued (hb : PcBusy s q.req q.addr st) (hk : KeptFrom q s u) (hs : slotFor s st q.cls = true) :
    ∃ t, SameBut 0x2 (u.queued st q) t ∧ Gives (submit q m) s () t := by
  obtain ⟨hn, off, i, a, hr, ha, ho⟩ := hb
  obtain ⟨_, t, ht, hg'⟩ := (keep_noteSlots st ((theStack s st).queue.length + 1)).gives (u.queued st q)
  refine ⟨t, ht, fun k => ?_⟩
  rw [← hg' k]
  rcases hk with ⟨hw, rfl⟩ | ⟨w, hw, hg⟩
  · simp [submit, hr, hn, ha, ho, hw, hs, State.queued]
  · simp [submit, hr, hn, ha, ho, hw, hs, hg _, State.queued]

end

/-! ## What a read and a write answer -/

/-- A request that is not performed: a core's context faults, another requester receives an error status (R7, R687). -/
def State.unperformed (s : State) (req code addr : Nat) : State :=
  if req < 64 then (s.faulting (troubleOf s req 1 code 0xFFFF 0 addr 0)).says (.notPerformed addr) else s.says (.errorStatus addr)

theorem gives_notPerformed (req code addr : Nat) (s : State) : Gives (notPerformed req code addr) s () (s.unperformed req code addr) := fun k => by
  unfold notPerformed State.unperformed
  split <;> rfl

section
variable {req cls addr data mask code : Nat} {poison : Bool} {bs : List Byte} {s u : State}

theorem gives_readReq_of_data (h : Gives (readLine (viaReq req cls 0) addr) s (.data bs poison) u) :
    Gives (readReq req cls addr) s () (u.says (.bytes (addr - addr % 256) bs poison)) := fun k => by
  simp only [readReq, run_bind, h _, run_emit]

/-- The bytes of an uncorrectable line are poisoned (R443, R446). -/
theorem gives_readReq_of_uncorr (h : Gives (readLine (viaReq req cls 0) addr) s (.uncorr bs) u) :
    Gives (readReq req cls addr) s () (u.says (.bytes (addr - addr % 256) bs true)) := fun k => by
  simp only [readReq, run_bind, h _, run_emit]

theorem gives_readReq_of_absent (h : Gives (readLine (viaReq req cls 0) addr) s (.absent code) u) :
    Gives (readReq req cls addr) s () (u.unperformed req code addr) := fun k => by
  simp only [readReq, run_bind, h _, gives_notPerformed req code addr u k]

theorem gives_writeNow_of_ok (h : Gives (writeLine (viaReq req 2 mask) addr data mask poison) s .ok u) :
    Gives (writeNow req addr data mask poison) s () u := fun k => by
  simp only [writeNow, run_bind, h _, run_pure]

theorem gives_writeNow_of_absent (h : Gives (writeLine (viaReq req 2 mask) addr data mask poison) s (.absent code) u) :
    Gives (writeNow req addr data mask poison) s () (u.unperformed req code addr) := fun k => by
  simp only [writeNow, run_bind, h _, gives_notPerformed req code addr u k]

end

/-! ## The commands -/

section
variable {s t u : State} {errs : List LineErr} {req : Fin 73} {cls : Fin 4} {addr data mask m st : Nat} {poison : Bool}

theorem pcFree_meeting {r : Nat} (h : PcFree s r addr) : PcFree (s.meeting errs) r addr := h
theorem pcBusy_meeting {r : Nat} (h : PcBusy s r addr st) : PcBusy (s.meeting errs) r addr st := ⟨h.free, h.busy⟩

/-- A line lies at the pseudo-channel of each of its bytes. -/
theorem pcFree_of_line {r : Nat} (h : PcFree s r addr) : PcFree s r (addr - addr % 256) := by
  intro st off i a hr ha
  obtain ⟨o, ho, rfl⟩ := regionOf_of_line hr
  exact h st o i a ho (gateHbm_of_line ha)

/-- A read at a stack whose pseudo-channel is open answers what the line gives. -/
theorem hbmRead_answers (h : PcFree s req addr) : ∃ r u, Gives (readLine (viaReq req cls 0) addr) (s.meeting errs) r u ∧
    (∀ bs p, r = .data bs p →
      Ends (exec (.hbmRead req cls addr .physical errs) s) ((u.says (.bytes (addr - addr % 256) bs p)).meeting []))
    ∧ (∀ bs, r = .uncorr bs →
      Ends (exec (.hbmRead req cls addr .physical errs) s) ((u.says (.bytes (addr - addr % 256) bs true)).meeting []))
    ∧ (∀ code, r = .absent code →
      Ends (exec (.hbmRead req cls addr .physical errs) s) ((u.unperformed req code addr).meeting [])) := by
  obtain ⟨r, u, _, hg⟩ := (keep_readLine (viaReq req cls 0) addr).gives (s.meeting errs)
  have ends {t : State} (ht : Gives (readReq req cls addr) (s.meeting errs) () t) :
      Ends (exec (.hbmRead req cls addr .physical errs) s) (t.meeting []) :=
    Ends.of_errs (gives_submit_of_free (q := ⟨req, cls, addr, none, false⟩) (pcFree_meeting h) ht)
  refine ⟨r, u, hg, fun bs p hr => ?_, fun bs hr => ?_, fun code hr => ?_⟩ <;> subst hr
  · exact ends (gives_readReq_of_data hg)
  · exact ends (gives_readReq_of_uncorr hg)
  · exact ends (gives_readReq_of_absent hg)

/-- A read at a busy pseudo-channel waits. -/
theorem hbmRead_slotless (hp : s.trPend = []) (hl : s.lineErrs = []) (hb : PcBusy s req addr st) (hs : slotFor s st cls = false) :
    exec (.hbmRead req cls addr .physical errs) s = .next (s.slotless st ⟨req, cls, addr, none, false⟩) := by
  have hg := gives_submit_slotless (m := readReq req cls addr) (q := ⟨req, cls, addr, none, false⟩)
    (pcBusy_meeting (errs := errs) hb) (.inl ⟨rfl, rfl⟩) hs
  refine (Gives.runT_withErrs hg hp).trans (congrArg _ ?_)
  conv_rhs => rw [← meeting_nil hl]
  rfl

theorem hbmRead_queued (hp : s.trPend = []) (hb : PcBusy s req addr st) (hs : slotFor s st cls = true) :
    ∃ t, exec (.hbmRead req cls addr .physical errs) s = .next t
      ∧ t.hbm = (s.queued st ⟨req, cls, addr, none, false⟩).hbm ∧ t.mem = s.mem ∧ t.outbox = s.outbox := by
  obtain ⟨t, ht, hg⟩ := gives_submit_queued (m := readReq req cls addr) (q := ⟨req, cls, addr, none, false⟩)
    (pcBusy_meeting (errs := errs) hb) (.inl ⟨rfl, rfl⟩) hs
  have trPend_eq : t.trPend = s.trPend := ht.at .trPend (by decide)
  exact ⟨_, Gives.runT_withErrs hg (trPend_eq.trans hp), ht.at .hbm (by decide), ht.at .mem (by decide), ht.at .outbox (by decide)⟩

/-! ### Writes -/

/-- A write request is submitted with the class of its requester's writes. -/
theorem gives_writeReq {a d : Nat}
    (hg : Gives (submit ⟨req, writeClass s req, a, some (d, m, poison), false⟩ (writeNow req a d m poison)) s () u) :
    Gives (writeReq req a d m poison) s () u := fun k => by
  simp only [writeReq, run_bind, run_getS]
  exact hg k

/-- A mask that selects bits lets a partial write reach its stack. -/
theorem gives_when_of_ne_zero {n : Nat} {w : M Unit} (hn : n ≠ 0) (hg : Gives w s () u) : Gives (when' (n != 0) w) s () u := fun k => by
  rw [run_when', if_pos (bne_iff_ne.mpr hn)]
  exact hg k

/-- A mask of zeros does not. -/
theorem gives_when_of_eq_zero {n : Nat} {w : M Unit} (hn : n = 0) : Gives (when' (n != 0) w) s () s := fun _ => by
  subst hn
  rfl

/-- A write of a whole line whose pseudo-channel is open is performed, or names an absent line. -/
theorem fullLineWrite_answers (h : PcFree s req addr) :
    ∃ r u, Gives (writeLine (viaReq req 2 fullMask) (addr - addr % 256) (data % 2 ^ 2048) fullMask poison) s r u ∧
      (r = .ok → Ends (exec (.fullLineWrite req addr data poison) s) u)
      ∧ (∀ code, r = .absent code →
        Ends (exec (.fullLineWrite req addr data poison) s) (u.unperformed req code (addr - addr % 256))) := by
  obtain ⟨r, u, _, hg⟩ :=
    (keep_writeLine (viaReq req 2 fullMask) (addr - addr % 256) (data % 2 ^ 2048) fullMask poison).gives s
  have ends {t : State} (ht : Gives (writeNow req (addr - addr % 256) (data % 2 ^ 2048) fullMask poison) s () t) :
      Ends (exec (.fullLineWrite req addr data poison) s) t := Ends.of_runT (gives_writeReq (gives_submit_of_free (pcFree_of_line h) ht))
  refine ⟨r, u, hg, fun hr => ?_, fun code hr => ?_⟩ <;> subst hr
  · exact ends (gives_writeNow_of_ok hg)
  · exact ends (gives_writeNow_of_absent hg)

/-- The same for the bits of a line that a mask selects. -/
theorem partialWrite_answers (hm : mask % 2 ^ 2048 ≠ 0) (h : PcFree s req addr) :
    ∃ r u, Gives (writeLine (viaReq req 2 (mask % 2 ^ 2048)) (addr - addr % 256) (data % 2 ^ 2048) (mask % 2 ^ 2048) poison)
        (s.meeting errs) r u ∧
      (r = .ok → Ends (exec (.partialWrite req addr data mask poison errs) s) (u.meeting []))
      ∧ (∀ code, r = .absent code →
        Ends (exec (.partialWrite req addr data mask poison errs) s) ((u.unperformed req code (addr - addr % 256)).meeting [])) := by
  obtain ⟨r, u, _, hg⟩ :=
    (keep_writeLine (viaReq req 2 (mask % 2 ^ 2048)) (addr - addr % 256) (data % 2 ^ 2048) (mask % 2 ^ 2048) poison).gives
      (s.meeting errs)
  have ends {t : State}
      (ht : Gives (writeNow req (addr - addr % 256) (data % 2 ^ 2048) (mask % 2 ^ 2048) poison) (s.meeting errs) () t) :
      Ends (exec (.partialWrite req addr data mask poison errs) s) (t.meeting []) :=
    Ends.of_errs (gives_when_of_ne_zero hm (gives_writeReq (gives_submit_of_free (pcFree_meeting (pcFree_of_line h)) ht)))
  refine ⟨r, u, hg, fun hr => ?_, fun code hr => ?_⟩ <;> subst hr
  · exact ends (gives_writeNow_of_ok hg)
  · exact ends (gives_writeNow_of_absent hg)

/-- A mask of zeros writes nothing. -/
theorem partialWrite_of_zeros (hp : s.trPend = []) (hl : s.lineErrs = []) (hm : mask % 2 ^ 2048 = 0) :
    exec (.partialWrite req addr data mask poison errs) s = .next s := by
  rw [exec_partialWrite, execPartialWrite, (gives_when_of_eq_zero (s := s.meeting errs) hm).runT_withErrs hp, meeting_meeting,
    meeting_nil hl]

/-- The two commands that write a line, each with the mask of the bits it writes and the errors that its reads meet. -/
def lineWrites (req : Fin 73) (addr data mask : Nat) (poison : Bool) (errs : List LineErr) : List (Instr × Nat × List LineErr) :=
  [(.fullLineWrite req addr data poison, fullMask, []), (.partialWrite req addr data mask poison errs, mask % 2 ^ 2048, errs)]

/-- Either command answers what its write request leaves. -/
theorem exec_of_lineWrites {c : Instr} {e : List LineErr} (hc : (c, m, e) ∈ lineWrites req addr data mask poison errs)
    (hm : mask % 2 ^ 2048 ≠ 0) (hl : s.lineErrs = [])
    (hg : Gives (writeReq req (addr - addr % 256) (data % 2 ^ 2048) m poison) (s.meeting e) () t) (hp : t.trPend = []) :
    exec c s = .next (t.meeting []) := by
  simp only [lineWrites, List.mem_cons, Prod.mk.injEq, List.not_mem_nil, or_false] at hc
  rcases hc with ⟨rfl, hmask, rfl⟩ | ⟨rfl, hmask, rfl⟩
  · rw [hmask] at hg
    have errs_eq : t.lineErrs = [] := hg.lineErrs (keep_writeReq ..) (by decide)
    rw [meeting_nil hl] at hg
    rw [meeting_nil errs_eq]
    rw [exec_fullLineWrite, execFullLineWrite]
    exact Gives.runT_eq hg hp
  · rw [hmask] at hg
    rw [exec_partialWrite, execPartialWrite]
    exact Gives.runT_withErrs (gives_when_of_ne_zero hm hg) hp

/-- A write at a busy pseudo-channel waits, and the directory's entries of its line are kept (R406). -/
theorem lineWrites_wait {c : Instr} {e : List LineErr} (hc : (c, m, e) ∈ lineWrites req addr data mask poison errs)
    (hm : mask % 2 ^ 2048 ≠ 0) (hp : s.trPend = []) (hl : s.lineErrs = []) (hb : PcBusy s req (addr - addr % 256) st) :
    let q : HbmReq := ⟨req, writeClass s req, addr - addr % 256, some (data % 2 ^ 2048, m, poison), false⟩
    ∃ u, Gives (guardDir req (addr - addr % 256) m) (s.meeting e) () u
      ∧ (slotFor s st q.cls = false → exec c s = .next ((u.slotless st q).meeting []))
      ∧ (slotFor s st q.cls = true → ∃ t, exec c s = .next t ∧ t.hbm = (u.queued st q).hbm ∧ t.mem = s.mem ∧ t.outbox = s.outbox) := by
  intro q
  obtain ⟨_, u, hu, hg⟩ := (keep_guardDir req (addr - addr % 256) m).gives (s.meeting e)
  have hk : KeptFrom q (s.meeting e) u := .inr ⟨_, rfl, hg⟩
  have trPend_eq : u.trPend = [] := (hu.at .trPend (by decide)).trans hp
  refine ⟨u, hg, fun hs => ?_, fun hs => ?_⟩
  · have hq := gives_writeReq (s := s.meeting e) (gives_submit_slotless (q := q) (pcBusy_meeting hb) hk hs)
    exact exec_of_lineWrites hc hm hl hq trPend_eq
  · obtain ⟨t, ht, hq⟩ := gives_submit_queued (q := q) (pcBusy_meeting hb) hk hs
    exact ⟨_, exec_of_lineWrites hc hm hl (gives_writeReq hq) ((ht.at .trPend (by decide)).trans trPend_eq), ht.at .hbm (by decide),
      (ht.at .mem (by decide)).trans (hu.at .mem (by decide)), (ht.at .outbox (by decide)).trans (hu.at .outbox (by decide))⟩

end

/-! ### Reads by context address -/

section
variable {s : State} {errs : List LineErr} {req : Fin 73} {cls : Fin 4} {addr : Nat}

/-- A core's load goes through its context's translation. -/
theorem hbmRead_context (h : req.val < 64) : ∃ u, Gives (readCtxReq req cls addr) (s.meeting errs) () u
    ∧ Ends (exec (.hbmRead req cls addr .context errs) s) (u.meeting []) := by
  obtain ⟨_, u, _, hg⟩ := (keep_readCtxReq req cls addr).gives (s.meeting errs)
  refine ⟨u, hg, Ends.of_errs fun k => ?_⟩
  simp only [h, if_true]
  exact hg k

/-- And so does a read of a LOAD stream's tile. -/
theorem hbmRead_load (slot : Fin 16) (h : req.val < 64) : ∃ u, Gives (readLoadReq req slot addr) (s.meeting errs) () u
    ∧ Ends (exec (.hbmRead req cls addr (.load slot) errs) s) (u.meeting []) := by
  obtain ⟨_, u, _, hg⟩ := (keep_readLoadReq req slot addr).gives (s.meeting errs)
  refine ⟨u, hg, Ends.of_errs fun k => ?_⟩
  simp only [h, if_true]
  exact hg k

end

/-- Settles O36: what a request by address does where its pseudo-channel is open, where it is busy, and by context address. -/
theorem requestsByAddressAnswerWhatMemoryGives : Obligations.RequestsByAddressAnswerWhatMemoryGives := by
  intro req cls addr data mask poison errs s hp hl
  refine ⟨hbmRead_answers, fun st off i a hr hn ha ho => ?_, fun c m e st off i a hc hm hr hn ha ho => ?_, hbmRead_context,
    hbmRead_load, fullLineWrite_answers, partialWrite_of_zeros hp hl, partialWrite_answers⟩
  · have hb : PcBusy s req addr st := ⟨hn, off, i, a, hr, ha, ho⟩
    exact ⟨hbmRead_slotless hp hl hb, hbmRead_queued hp hb⟩
  · exact lineWrites_wait hc hm hp hl ⟨hn, off, i, a, hr, ha, ho⟩

end Sys2Proof.Machine
end

section
/-!
The tick (01_tick_and_islands.md, R21 to R28, R690): what an edge makes of the count, how a holdover begins, outlasts its
limit and ends, and how the device slews to an upstream tick that has returned.
-/

namespace Sys2Proof.Machine

/-! ## How a command ends -/

/-- A meaning that takes no record answers the state that its sequence leaves. -/
theorem Gives.runM_eq {m : M Unit} {s t : State} (h : Gives m s () t) : runM m s = .next t := congrArg _ (h fun _ => .done)

/-- A trouble record is taken with the next SEQ and waits to be written (R650). -/
def State.recording (s : State) (t : Trouble) : State :=
  (s.putTrPend (· ++ [⟨t, s.tick, rg s RESET_TR_WR, recGen s t, 0, false⟩])).putReg RESET_TR_WR (rg s RESET_TR_WR + 1)

@[simp] theorem run_note (t : Trouble) (k : Unit → Act) (s : State) : Act.run (note t k) s = Act.run (k ()) (s.recording t) := rfl

section
variable {m : M Unit} {s t : State}

/-- Writing the records changes only what a write to memory may. -/
theorem Gives.runT_sameBut (h : Gives m s () t) : ∃ u, SameBut 0x202f200f t u ∧ runT m s = .next u := by
  obtain ⟨u, hu, _, hf⟩ := flushRecords_empties t
  exact ⟨u, hu, congrArg _ ((h.bind (f := fun _ => flushRecords) hf) fun _ => .done)⟩

/-- One record taken is sent to the control die when the command ends (R651). -/
theorem Gives.runT_record {tr : Trouble} (h : Gives m s () (t.recording tr)) (hp : t.trPend = []) :
    ∃ u, runT m s = .next u ∧ SameBut 0x202f200f (t.recording tr) u
      ∧ u.link.mirror = t.link.mirror ++ [(false, recBytes ⟨tr, t.tick, rg t RESET_TR_WR, recGen t tr, 0, false⟩)] := by
  have one : (t.recording tr).trPend = [⟨tr, t.tick, rg t RESET_TR_WR, recGen t tr, 0, false⟩] := by
    simp [State.recording, hp]
  obtain ⟨u, e, hu, hm, _⟩ := run_flush_one _ (fun _ => Act.done) _ one
  exact ⟨u, congrArg _ ((h fun _ => flushRecords fun _ => Act.done).trans e), hu, hm⟩

end

/-! ## The count at an edge -/

/-- An edge advances the count once; nothing before or after it in the edge touches the count (R28). -/
theorem tickEdge_counts (i : TickInput) : ∃ rest : M Unit, Keep 0x3fff3fdf rest
    ∧ tickEdge i = (do when' (tickRuns (← getS)) (do tickSource i; modTick (· + 1); rest)) := by
  refine ⟨_, ?_, rfl⟩
  refine Keep.bind ((keep_modTime _).mono rfl) fun _ => ?_
  refine Keep.bind (Keep.getS _) fun _ => Keep.bind ((keep_emit _).mono rfl) fun _ => ?_
  refine Keep.bind (keep_holdExceeds.mono rfl) fun _ => ?_
  refine Keep.bind ((keep_measure _).mono rfl) fun _ => ?_
  refine Keep.bind (keep_edgeRegs.mono rfl) fun _ => ?_
  refine Keep.bind (keep_openMonitors.mono rfl) fun _ => ?_
  refine Keep.bind (keep_deepTick.mono rfl) fun _ => ?_
  refine Keep.bind (keep_fillAgain.mono rfl) fun _ => ?_
  refine Keep.bind (keep_sampleEvents.mono rfl) fun _ => ?_
  refine Keep.bind (Keep.getS _) fun _ => Keep.bind ((keep_drainDue ..).mono rfl) fun _ => ?_
  refine Keep.bind (Keep.getS _) fun _ => Keep.bind (Keep.when' (keep_afterEvents.mono rfl)) fun _ => ?_
  refine Keep.bind (keep_closePower.mono rfl) fun _ => ?_
  exact Keep.bind (Keep.getS _) fun _ => Keep.each fun _ => (keep_modCore ..).mono rfl

theorem gives_tickEdge_of_runs {i : TickInput} {s : State} (h : tickRuns s = true) :
    ∃ t, t.tick = s.tick + 1 ∧ Gives (tickEdge i) s () t := by
  obtain ⟨rest, keep_rest, e⟩ := tickEdge_counts i
  obtain ⟨_, t, ht, source⟩ := (keep_tickSource i).gives s
  obtain ⟨_, u, hu, after⟩ := keep_rest.gives (t.putTick (· + 1))
  have t_tick : t.tick = s.tick := ht.at .tick (by decide)
  have u_tick : u.tick = t.tick + 1 := hu.at .tick (by decide)
  refine ⟨u, by rw [u_tick, t_tick], fun k => ?_⟩
  simp only [e, run_bind, run_getS, h, run_when'_true, source _, run_modTick, after _]

theorem gives_tickEdge_of_no_tick {i : TickInput} {s : State} (h : tickRuns s = false) : Gives (tickEdge i) s () s := fun k => by
  simp only [tickEdge, run_bind, run_getS, h, run_when'_false]

/-- Settles O9: the edge counts once, and writing its records leaves the count. -/
theorem tickEdgeAdvancesTheCountByOne : Obligations.TickEdgeAdvancesTheCountByOne := by
  intro i s hp
  obtain ⟨t, ⟨same_pending, same_part, _⟩, e⟩ := exec_sameBut (.tickEdge i) s
  refine ⟨t, e, same_pending, same_part, ?_⟩
  cases h : tickRuns s with
  | false =>
    obtain rfl : s = t := Host.Outcome.next.inj (((gives_tickEdge_of_no_tick h).runT_eq hp).symm.trans e)
    exact ⟨rfl, fun _ => rfl⟩
  | true =>
    obtain ⟨u, u_tick, hg⟩ := gives_tickEdge_of_runs (i := i) h
    obtain ⟨v, hv, e'⟩ := hg.runT_sameBut
    obtain rfl : v = t := Host.Outcome.next.inj (e'.symm.trans e)
    exact ⟨(hv.at .tick (by decide)).trans u_tick, fun h => nomatch h⟩

/-! ## The record of a tick's trouble -/

/-- A record of the tick, with a bit of TIME.STATUS set and a change of the tick's source: the count stays. -/
theorem runT_tickRecord {m : M Unit} {s : State} {fld : Fld} {g : TimeSt → TimeSt} {code : Nat} (hp : s.trPend = [])
    (h : Gives m s () (((s.put fld 1).putTime g).recording ⟨17, code, 0xFF, 0xFF, 0xFFFF, none, 0, 0, 0⟩)) :
    ∃ t, runT m s = .next t ∧ t.tick = s.tick ∧ t.time = g s.time ∧ t.link.mirror = s.link.mirror ++ [(false,
      recBytes ⟨⟨17, code, 0xFF, 0xFF, 0xFFFF, none, 0, 0, 0⟩, s.tick, rg (s.put fld 1) RESET_TR_WR, 0, 0, false⟩)] := by
  obtain ⟨t, e, ht, hm⟩ := h.runT_record hp
  exact ⟨t, e, ht.at .tick (by decide), ht.at .time (by decide), hm⟩

/-! ## Locking and slewing -/

theorem edgesNear_eq_decide (off : Nat) : edgesNear off = decide (-50000 ≤ signed off 32 ∧ signed off 32 ≤ 50000) :=
  (Bool.decide_and ..).symm

theorem edgesNear_iff {off : Nat} : edgesNear off = true ↔ -50000 ≤ signed off 32 ∧ signed off 32 ≤ 50000 := by
  rw [edgesNear_eq_decide, decide_eq_true_eq]

@[simp] theorem run_relock (k : Unit → Act) (s : State) : Act.run (relock k) s = Act.run (k ())
    (((s.put TIME_STATUS_LOCKED 1).put TIME_STATUS_HOLDOVER 0).putTime fun t => { t with missing := 0, slew := false }) := rfl

theorem signed_bounds (n : Nat) : -2 ^ 31 ≤ signed n 32 ∧ signed n 32 < 2 ^ 31 := by
  unfold signed
  simp only
  split <;> omega

theorem signed_unsigned {i : Int} (h : -2 ^ 31 ≤ i) (h' : i < 2 ^ 31) : signed (unsigned i 32) 32 = i := by
  unfold signed unsigned
  simp only
  split <;> omega

/-- A tick of slewing moves the offset by at most 1 ns (R26). -/
theorem slewed_within (old new : Nat) :
    signed (slewed old new) 32 - signed old 32 ≤ 1000 ∧ signed old 32 - signed (slewed old new) 32 ≤ 1000 := by
  obtain ⟨_, _⟩ := signed_bounds old
  obtain ⟨_, _⟩ := signed_bounds new
  rw [slewed, signed_unsigned (by omega) (by omega)]
  omega

section
variable {i : TickInput} {s : State}

theorem gives_slewTick (h : s.time.slew = true) (hi : i.upstream = true) :
    let off := slewed (fv s TIME_OFFSET_OFFSET_PS) i.offset
    Gives (slewTick i) s () (if -50000 ≤ signed off 32 ∧ signed off 32 ≤ 50000
      then (((s.putReg TIME_OFFSET off).put TIME_STATUS_LOCKED 1).put TIME_STATUS_HOLDOVER 0).putTime
        (fun t => { t with missing := 0, slew := false })
      else s.putReg TIME_OFFSET off) := by
  intro off k
  simp only [slewTick, run_bind, run_getS, h, hi, if_true, run_setReg, run_when', run_relock, edgesNear_iff]
  split <;> rfl

theorem gives_slewTick_of_gone (h : s.time.slew = true) (hi : i.upstream = false) :
    Gives (slewTick i) s () (s.putTime fun t => { t with slew := false }) := fun k => by
  simp only [slewTick, run_bind, run_getS, h, run_when'_true, hi, Bool.false_eq_true, if_false, run_modTime]

theorem gives_slewTick_of_still (h : s.time.slew = false) : Gives (slewTick i) s () s := fun k => by
  simp only [slewTick, run_bind, run_getS, h, run_when'_false]

end

/-! ## Holdover -/

theorem exec_holdoverEntry_eq (s : State) : exec .holdoverEntry s = .next (if follows s = true
    then (((s.put TIME_STATUS_LOCKED 0).put TIME_STATUS_HOLDOVER 1).putReg TIME_HOLDOVER_TICKS 0).putTime
      fun t => { t with missing := 0, holdLen := 0, unaligned := false, slew := false }
    else s) := by
  refine Gives.runM_eq fun k => ?_
  simp only [run_bind, run_getS, run_when', enterHoldover, run_setFld, run_setReg, run_modTime]
  split <;> rfl

section
variable {b : TickBack} {s : State} (hp : s.trPend = [])
include hp

theorem exec_upstreamTickReturn_of_no_holdover (h : fb s TIME_STATUS_HOLDOVER = false) :
    exec (.upstreamTickReturn b) s = .next s := by
  refine Gives.runT_eq (fun k => ?_) hp
  simp only [run_bind, run_getS, h, Bool.false_eq_true, if_false, run_pure]

theorem exec_upstreamTickReturn_of_same_count (h : fb s TIME_STATUS_HOLDOVER = true) (hb : b.count = s.tick) :
    exec (.upstreamTickReturn b) s = .next (let t := s.putReg TIME_OFFSET b.offset
      if -50000 ≤ signed b.offset 32 ∧ signed b.offset 32 ≤ 50000
      then ((t.put TIME_STATUS_LOCKED 1).put TIME_STATUS_HOLDOVER 0).putTime (fun t => { t with missing := 0, slew := false })
      else t.putTime (fun t => { t with slew := true })) := by
  refine Gives.runT_eq (fun k => ?_) ?_
  · simp only [run_bind, run_getS, h, hb, if_true, run_setReg, run_ite, edgesNear_iff, run_relock, run_modTime]
    split <;> rfl
  · simp only
    split <;> exact hp

theorem exec_upstreamTickReturn_of_other_count (h : fb s TIME_STATUS_HOLDOVER = true) (hb : b.count ≠ s.tick) :
    ∃ t, exec (.upstreamTickReturn b) s = .next t ∧ t.tick = s.tick ∧ t.time = { s.time with slew := false }
      ∧ t.link.mirror = s.link.mirror ++ [(false, recBytes ⟨⟨17, 2, 0xFF, 0xFF, 0xFFFF, none, 0, 0, 0⟩, s.tick,
        rg (s.put TIME_STATUS_COUNT_MISMATCH 1) RESET_TR_WR, 0, 0, false⟩)] := by
  refine runT_tickRecord (g := fun t => { t with slew := false }) hp fun k => ?_
  simp only [run_bind, run_getS, h, hb, if_true, if_false, run_flag, run_modTime, tickRecord, run_note]

theorem exec_holdoverLimitExceeded_of_not_late (h : holdLate s = false) : exec .holdoverLimitExceeded s = .next s := by
  refine Gives.runT_eq (fun k => ?_) hp
  simp only [holdExceeds, run_bind, run_getS, h, run_when'_false]

theorem exec_holdoverLimitExceeded_of_late (h : holdLate s = true) :
    ∃ t, exec .holdoverLimitExceeded s = .next t ∧ t.tick = s.tick ∧ t.time = { s.time with unaligned := true }
      ∧ t.link.mirror = s.link.mirror ++ [(false, recBytes ⟨⟨17, 1, 0xFF, 0xFF, 0xFFFF, none, 0, 0, 0⟩, s.tick,
        rg (s.put TIME_STATUS_UNALIGNED 1) RESET_TR_WR, 0, 0, false⟩)] := by
  refine runT_tickRecord (g := fun t => { t with unaligned := true }) hp fun k => ?_
  simp only [holdExceeds, run_bind, run_getS, h, run_when'_true, run_flag, run_modTime, tickRecord, run_note]

end

/-- Settles O10: the cases of each command and of a tick of the slew. -/
theorem holdoverBeginsEndsAndIsRecorded : Obligations.HoldoverBeginsEndsAndIsRecorded := by
  refine ⟨exec_holdoverEntry_eq, fun b s hp => ?_, fun s hp => ?_, fun i s => ?_⟩
  · exact ⟨exec_upstreamTickReturn_of_no_holdover hp, exec_upstreamTickReturn_of_same_count hp, exec_upstreamTickReturn_of_other_count hp⟩
  · exact ⟨exec_holdoverLimitExceeded_of_not_late hp, exec_holdoverLimitExceeded_of_late hp, rfl, rfl⟩
  · exact ⟨fun h hi => ⟨_, gives_slewTick h hi, slewed_within ..⟩, gives_slewTick_of_gone, gives_slewTick_of_still⟩

end Sys2Proof.Machine
end

section
/-!
The chain (14_doloma_chain.md, R600 to R608, R627): how addresses and the count come down it, and how its links come up, are
lost, acknowledge and resend.
-/

namespace Sys2Proof.Machine

/-! ## Sequences that the chain's commands call -/

/-- A sequence without an answer gives some state. -/
theorem Keep.gives_unit {n : Nat} {m : M Unit} (h : Keep n m) (s : State) : ∃ t, Gives m s () t :=
  let ⟨_, t, _, hg⟩ := h.gives s
  ⟨t, hg⟩

/-! ## Addresses -/

section
variable {f : Frame} {s : State}

theorem gives_tokenIn_of_addressed (h : awaitsAddr s = false) : Gives (tokenIn f) s () s := fun k => by
  simp only [tokenIn, run_bind, run_getS, h, Bool.false_eq_true, if_false, run_pure]

theorem gives_tokenIn_of_overlong (h : awaitsAddr s = true) (ha : 63 ≤ fieldAt f.payload 0 1) :
    Gives (tokenIn f) s () (s.put CHAIN_STATUS_OVERLONG 1) := fun k => by
  simp only [tokenIn, run_bind, run_getS, h, if_true, ha, run_flag]

/-- A token from a device with an address gives the next one, and the device awaits its count. -/
theorem gives_tokenIn_of_next {t : State} (h : awaitsAddr s = true) (ha : fieldAt f.payload 0 1 < 63) (h0 : fieldAt f.payload 0 1 ≠ 0)
    (hg : Gives passToken ((s.put CHAIN_ADDR_ADDRESS (fieldAt f.payload 0 1 + 1)).putTime fun x => { x with load := true, keep := false }) () t) :
    Gives (tokenIn f) s () t := fun k => by
  simp only [tokenIn, run_bind, run_getS, h, if_true, not_le.mpr ha, if_false, run_setFld, bne_iff_ne.mpr h0, run_when'_true,
    run_modTime, h0, decide_false, run_when'_false, hg _]

end

section
variable {s t u v : State}

/-- No device upstream: HEAD_DECISION finds a starting device without an address and without an IN link (R603). -/
def Heads (s : State) : Prop := fv s CHAIN_START_PHASE = 3 ∧ startMode s = 0 ∧ ownAddr s = 0 ∧ hopUp s false = false

theorem exec_headDecision_of_not_heads (h : ¬ Heads s) : exec .headDecision s = .next s := by
  refine Gives.runM_eq fun k => ?_
  simp only [Heads, ← and_assoc] at h
  simp only [run_bind, run_getS, Bool.and_eq_true, decide_eq_true_eq, Bool.not_eq_true', h, if_false, run_pure]

theorem exec_headDecision_of_heads (h : Heads s) (master : Gives masterTick ((s.put CHAIN_STATUS_HEAD 1).put CHAIN_ADDR_ADDRESS 1) () t)
    (pass : Gives passToken t () u) (leave : Gives leavePhase3 u () v) : exec .headDecision s = .next v := by
  refine Gives.runM_eq fun k => ?_
  simp only [Heads, ← and_assoc] at h
  simp only [run_bind, run_getS, Bool.and_eq_true, decide_eq_true_eq, Bool.not_eq_true', h, and_self, if_true, run_setFld,
    master _, pass _, leave _]

end

/-! ## The count -/

section
variable {back : TickBack} {s t : State}

/-- The next frame of the tick pair starts for a device that awaits its count, and the last one gave it (R607, R608). -/
def CountStarts (back : TickBack) (s : State) : Prop := s.time.load = true ∧ hopUp s false = true ∧ back.count % 64 = 0

/-- The count is loaded: near edges lock the device, and else it slews (R26, R608). -/
def State.countLoaded (s : State) (back : TickBack) : State :=
  ((((s.putTick fun _ => back.count % 2 ^ 64).putTime fun t => { t with load := false, missing := 0, slew := !edgesNear back.offset }).putReg
    TIME_OFFSET back.offset).put TIME_STATUS_LOCKED (b2n (edgesNear back.offset))).put TIME_STATUS_HOLDOVER 0

theorem exec_tickCountLoad_of_not_starts (h : ¬ CountStarts back s) : exec (.tickCountLoad back) s = .next s := by
  refine Gives.runM_eq fun k => ?_
  simp only [CountStarts, ← and_assoc] at h
  simp only [run_bind, run_getS, Bool.and_eq_true, decide_eq_true_eq, h, if_false, run_pure]

theorem exec_tickCountLoad_of_starts (h : CountStarts back s) (hg : Gives leavePhase3 (s.countLoaded back) () t) :
    exec (.tickCountLoad back) s = .next t := by
  refine Gives.runM_eq fun k => ?_
  simp only [CountStarts, ← and_assoc] at h
  simp only [run_bind, run_getS, Bool.and_eq_true, decide_eq_true_eq, h, and_self, if_true, run_modTick, run_modTime, run_setReg, run_setFld]
  exact hg k

end

/-! ## Links -/

section
variable {link : Bool} {loop : Nat} {s u v w : State}

theorem exec_chainLinkLost_eq (link : Bool) (s : State) : exec (.chainLinkLost link) s = .next (if hopUp s (!link) = true
    then (s.put (linkFld (!link)) 0).put CHAIN_STATUS_LINK_LOST 1 else s) := by
  refine Gives.runM_eq fun k => ?_
  simp only [run_bind, run_getS, run_when', run_setFld, run_flag]
  split <;> rfl

/-- A link is up with its numbering begun again, and what was unacknowledged waits before the rest (R600; log 17). -/
def State.linkedUp (s : State) (out : Bool) : State :=
  (s.put (linkFld out) 1).putHop out fun h => ⟨0, 0, [], h.unacked.map Prod.snd ++ h.queue, s.tick⟩

theorem exec_chainLinkUp_of_up (h : hopUp s (!link) = true) : exec (.chainLinkUp link loop) s = .next s := by
  refine Gives.runM_eq fun k => ?_
  simp only [run_bind, run_getS, h, Bool.not_true, Bool.false_eq_true, if_false, run_pure]

/-- The head only records an upstream link that comes late (R605). -/
theorem exec_chainLinkUp_of_late (h : hopUp s false = false) (pump : Gives (pumpHop false) (s.linkedUp false) () u)
    (head : fb s CHAIN_STATUS_HEAD = true) : exec (.chainLinkUp true loop) s = .next (u.put CHAIN_STATUS_LATE_UPSTREAM 1) := by
  refine Gives.runM_eq fun k => ?_
  simp only [run_bind, run_getS, Bool.not_true, h, Bool.not_false, if_true, run_setFld, run_modHop, head]
  exact pump _

/-- A device with an upstream one measures the delay of its IN hop (R601). -/
theorem exec_chainLinkUp_of_upstream (h : hopUp s false = false) (pump : Gives (pumpHop false) (s.linkedUp false) () u)
    (head : fb s CHAIN_STATUS_HEAD = false) (send : Gives (sendFrame false ⟨0, ownAddr s, 7, 0, []⟩) u () v)
    (delay : Gives (hopDelay loop) v () w) : exec (.chainLinkUp true loop) s = .next w := by
  refine Gives.runM_eq fun k => ?_
  simp only [run_bind, run_getS, Bool.not_true, h, Bool.not_false, if_true, run_setFld, run_modHop, head, Bool.false_eq_true, if_false]
  exact (pump _).trans ((send _).trans (delay _))

/-- A link downstream takes the token, and the head's table of nodes (R602, R606). -/
theorem exec_chainLinkUp_of_downstream (h : hopUp s true = false) (pump : Gives (pumpHop true) (s.linkedUp true) () u)
    (pass : Gives passToken u () v) (assign : Gives (when' (fb s CHAIN_STATUS_HEAD) assignNodes) v () w) :
    exec (.chainLinkUp false loop) s = .next w := by
  refine Gives.runM_eq fun k => ?_
  simp only [run_bind, run_getS, Bool.not_false, h, if_true, run_setFld, run_modHop, Bool.false_eq_true, if_false]
  exact (pump _).trans ((pass _).trans (assign _))

end

/-! ## Acknowledgement and resending -/

section
variable {link crcOk : Bool} {hseq : Nat} {f : Frame} {s t : State}

theorem exec_chainAck_of_down (h : hopUp s (!link) = false) : exec (.chainAck link crcOk hseq f) s = .next s := by
  refine Gives.runM_eq fun k => ?_
  simp only [run_bind, run_getS, h, Bool.false_eq_true, if_false, run_pure]

theorem exec_chainAck_of_bad (h : hopUp s (!link) = true) (hf : crcOk = false ∨ f.type ≠ 3) :
    exec (.chainAck link crcOk hseq f) s = .next (s.count CHAIN_CRC_ERRORS_COUNT 1) := by
  refine Gives.runM_eq fun k => ?_
  simp only [run_bind, run_getS, h, if_true, Bool.or_eq_true, Bool.not_eq_true', bne_iff_ne, hf, run_bump]

/-- The frames up to an HSEQ are acknowledged on a hop (R600). -/
def State.ackedTo (s : State) (out : Bool) (seq : Nat) : State :=
  (s.count CHAIN_FRAMES_RX_COUNT 1).putHop out fun h => { h with
    unacked := h.unacked.filter (fun e => decide (32768 ≤ seqDist e.1 seq)), sent := s.tick }

theorem exec_chainAck_of_good (h : hopUp s (!link) = true) (hf : f.type = 3)
    (pump : Gives (pumpHop (!link)) (s.ackedTo (!link) (fieldAt f.payload 0 2)) () t) :
    exec (.chainAck link true hseq f) s = .next t := by
  refine Gives.runM_eq fun k => ?_
  simp only [run_bind, run_getS, h, if_true, hf, Bool.not_true, bne_self_eq_false, Bool.or_false, Bool.false_eq_true, if_false, run_bump,
    run_modHop]
  exact pump k

theorem resendDue_iff (out : Bool) : resendDue s out = true
    ↔ hopUp s out = true ∧ (hopOf s out).unacked ≠ [] ∧ (hopOf s out).sent + 200 ≤ s.tick := by
  simp only [resendDue, Bool.and_eq_true, bne_iff_ne, decide_eq_true_eq, and_assoc]

theorem exec_chainResend_eq (link : Bool) (s : State) : exec (.chainResend link) s = .next
    (if hopUp s (!link) = true ∧ (hopOf s (!link)).unacked ≠ [] ∧ (hopOf s (!link)).sent + 200 ≤ s.tick
     then ((hopOf s (!link)).unacked.foldl (fun t e => t.framed (!link) e.1 e.2) (s.count CHAIN_RETRIES_COUNT 1)).putHop (!link)
       (fun h => { h with sent := s.tick })
     else s) := by
  refine Gives.runM_eq fun k => ?_
  have frames := run_each_of (fun t (e : Nat × Frame) => t.framed (!link) e.1 e.2) (fun e => putFrame (!link) e.1 e.2) fun _ _ _ => rfl
  simp only [resendHop, run_bind, run_getS, run_ite, resendDue_iff, run_bump, frames, run_modHop, run_pure]
  split <;> rfl

end

/-! ## The staged object -/

section
variable {s : State} {st : Stage}

/-- A staged object is dropped when it is late, and else stays (R627). -/
theorem gives_releaseStage (h : s.chain.stage = some st) : Gives releaseStage s ()
    (if stageLate s st = true then s.putChain fun c => { c with stage := none } else s) := fun k => by
  have left : s.chain.stage.filter (fun x => !stageLate s x) = if stageLate s st = true then none else s.chain.stage := by
    rw [h, Option.filter_some]
    cases stageLate s st <;> rfl
  have same : (s.putChain fun c => { c with stage := c.stage.filter fun x => !stageLate s x })
      = s.putChain fun c => { c with stage := if stageLate s st = true then none else s.chain.stage } := by
    rw [← left]; rfl
  simp only [releaseStage, run_bind, run_getS, run_modChain, same]
  split <;> rfl

theorem exec_stageTimeout_eq (xfer : Nat) (s : State) : exec (.stageTimeout xfer) s = .next (match s.chain.stage with
    | some st => if st.xfer = xfer ∧ st.whole = true ∧ st.since + 60000000 ≤ s.tick
        then s.putChain (fun c => { c with stage := none }) else s
    | none => s) := by
  refine Gives.runM_eq fun k => ?_
  simp only [run_bind, run_getS]
  cases h : s.chain.stage with
  | none => rfl
  | some st =>
    simp only [run_when', decide_eq_true_eq, gives_releaseStage h _, stageLate, Bool.and_eq_true]
    by_cases hx : st.xfer = xfer <;> simp only [hx, if_true, if_false, true_and, false_and]

end

/-- Settles O51: what each command does, case by case, from what its sequences give. -/
theorem addressesAndCountsComeDownTheChain : Obligations.AddressesAndCountsComeDownTheChain := by
  intro loop back link crcOk hseq xfer f s a
  refine ⟨gives_tokenIn_of_addressed, gives_tokenIn_of_overlong, fun h ha h0 => ?token, ⟨exec_headDecision_of_not_heads, fun h => ?head⟩,
    ⟨exec_tickCountLoad_of_not_starts, fun h => ?count⟩, exec_chainLinkLost_eq .., exec_chainLinkUp_of_up, fun h => ?up,
    exec_chainAck_of_down, exec_chainAck_of_bad, fun h hf => ?ack, exec_chainResend_eq .., exec_stageTimeout_eq ..⟩
  case token =>
    obtain ⟨t, pass⟩ := keep_passToken.gives_unit _
    exact ⟨t, pass, gives_tokenIn_of_next h ha h0 pass⟩
  case head =>
    obtain ⟨t, master⟩ := keep_masterTick.gives_unit _
    obtain ⟨u, pass⟩ := keep_passToken.gives_unit t
    obtain ⟨v, leave⟩ := keep_leavePhase3.gives_unit u
    exact ⟨t, u, v, master, pass, leave, exec_headDecision_of_heads h master pass leave⟩
  case count =>
    obtain ⟨t, leave⟩ := keep_leavePhase3.gives_unit (s.countLoaded back)
    refine ⟨t, ?_, exec_tickCountLoad_of_starts h leave⟩
    simp only [State.countLoaded, edgesNear_eq_decide, b2n, decide_eq_true_eq] at leave
    exact leave
  case up =>
    obtain ⟨u, pump⟩ := (keep_pumpHop (!link)).gives_unit (s.linkedUp (!link))
    refine ⟨u, pump, ?_, ?_, ?_⟩
    · rintro rfl head
      exact exec_chainLinkUp_of_late h pump head
    · rintro rfl head
      obtain ⟨v, send⟩ := (keep_sendFrame false ⟨0, ownAddr s, 7, 0, []⟩).gives_unit u
      obtain ⟨w, delay⟩ := (keep_hopDelay loop).gives_unit v
      exact ⟨v, w, send, delay, exec_chainLinkUp_of_upstream h pump head send delay⟩
    · rintro rfl
      obtain ⟨v, pass⟩ := keep_passToken.gives_unit u
      refine ⟨v, pass, fun head => ?_, fun head => ?_⟩
      · exact exec_chainLinkUp_of_downstream h pump pass (head ▸ fun _ => rfl)
      · obtain ⟨w, assign⟩ := keep_assignNodes.gives_unit v
        exact ⟨w, assign, exec_chainLinkUp_of_downstream h pump pass (head ▸ assign)⟩
  case ack =>
    obtain ⟨t, pump⟩ := (keep_pumpHop (!link)).gives_unit (s.ackedTo (!link) (fieldAt f.payload 0 2))
    exact ⟨t, pump, exec_chainAck_of_good h hf pump⟩

end Sys2Proof.Machine
end

section
/-!
The Oxen (02_ox_and_yoke.md, R58 to R63, R85, R89 to R96, R660): how a pass is queued and checked at the head of its queue,
how a detached Ox attaches, and what a fence takes from an Ox.
-/

namespace Sys2Proof.Machine

open PassField

section
variable {o a g : Nat} {d : PassD} {q : QPass} {rest : List QPass} {m : M Unit} {s t : State}

/-! ## An Ox in reset (R660) -/

theorem gives_atOx_of_resetting (h : oxResetting s o = true) :
    Gives (atOx o a m) s () (s.refused a ((fv s (RESET_GEN_OX_GEN o) + 1) % 65536)) := fun k => by
  simp only [atOx, run_bind, run_getS, h, if_true, run_refuseAt]

theorem gives_atOx_of_live (h : oxResetting s o = false) (hg : Gives m s () t) : Gives (atOx o a m) s () t := fun k => by
  simp only [atOx, run_bind, run_getS, h, Bool.false_eq_true, if_false, hg k]

/-! ## Pushes (R62, R63) -/

theorem gives_pushPass : Gives (pushPass o d) s () (if (theOx s o).queue.length < 4
    then s.putOx o (fun x => { x with queue := x.queue ++ [⟨d, false, false⟩] }) else s.put (OX_STATUS_PUSH_OVF o) 1) := fun k => by
  simp only [pushPass, run_bind, run_getS, run_ite, run_flag, run_modOx]
  by_cases h : (theOx s o).queue.length < 4
  · rw [if_neg (by omega), if_pos h]
  · rw [if_pos (by omega), if_neg h]

/-! ## The check at the head of a queue (R58 to R60) -/

theorem gives_checkHead_of_passes (hq : (theOx s o).queue = q :: rest) (hc : passCheck s o q.d = none) :
    Gives (checkHead o) s true (s.putOx o fun x => { x with queue := { q with checked := true } :: rest }) := fun k => by
  simp only [checkHead, run_bind, run_getS, hq, hc, run_modOx, run_pure]

theorem gives_headFault {code : Nat} (h7 : code ≠ 7) : Gives (headFault o code d) s () (s.passFaulting o code d) := fun k => by
  simp only [headFault, passFault, run_bind, run_getS, run_modOx, run_setFld, run_flag, run_faultCore, h7, decide_false, run_when'_false]
  rfl

theorem gives_checkHead_of_faults {code : Nat} (hq : (theOx s o).queue = q :: rest) (hc : passCheck s o q.d = some code) (h7 : code ≠ 7) :
    Gives (checkHead o) s false (s.passFaulting o code q.d) := fun k => by
  simp only [checkHead, run_bind, run_getS, hq, hc, gives_headFault h7 _, run_pure]

theorem exec_passHeadCheck_of_empty {ox : Fin 256} (hq : (theOx s ox).queue = []) : exec (.passHeadCheck ox) s = .next s :=
  Gives.runM_eq fun k => by simp only [run_bind, run_getS, hq, run_pure]

theorem exec_passHeadCheck_of_checked {ox : Fin 256} (hq : (theOx s ox).queue = q :: rest) (hc : q.checked = true) :
    exec (.passHeadCheck ox) s = .next s :=
  Gives.runM_eq fun k => by simp [hq, hc]

theorem exec_passHeadCheck_of_unchecked {ox : Fin 256} {b : Bool} (hq : (theOx s ox).queue = q :: rest) (hc : q.checked = false)
    (h : Gives (checkHead ox) s b t) : exec (.passHeadCheck ox) s = .next t :=
  Gives.runM_eq fun k => by simp [hq, hc, h _]

end

/-- Settles O16: the push comes after the write of the register, whose word it takes. -/
theorem passPushQueuesThePass : Obligations.PassPushQueuesThePass := by
  intro ox w3 s
  refine ⟨fun h => Gives.runM_eq (gives_atOx_of_resetting h), fun h => Gives.runM_eq (gives_atOx_of_live h fun k => ?_)⟩
  simp only [passWrite, run_bind, run_setReg, run_getS, gives_pushPass k]

/-- Settles O17: the check of the head answers, and no code but 7 reaches another Ox. -/
theorem headCheckPassesOrFaults : Obligations.HeadCheckPassesOrFaults := by
  intro ox s
  refine ⟨exec_passHeadCheck_of_empty, fun q rest hq =>
    ⟨exec_passHeadCheck_of_checked hq, fun hc hp => ?_, fun code hc hp h7 => ?_⟩⟩
  · exact exec_passHeadCheck_of_unchecked hq hc (gives_checkHead_of_passes hq hp)
  · exact exec_passHeadCheck_of_unchecked hq hc (gives_checkHead_of_faults hq hp h7)

end Sys2Proof.Machine
end

section
/-!
Attaching and fences (02_ox_and_yoke.md, R85, R89 to R96): a detached Ox attaches again, and a fence takes from an Ox what it
held and faults it, pass by pass.
-/

namespace Sys2Proof.Machine

open PassField

theorem theOx_congr {s t : State} (h : t.oxen = s.oxen) (o : Nat) : theOx t o = theOx s o := congrArg (mget _ · o) h

theorem theCore_congr {s t : State} (h : t.cores = s.cores) (n : Nat) : theCore t n = theCore s n := congrArg (mget _ · n) h

/-- A sequence of changes may be named by a larger mask. -/
theorem SameBut.mono {n k : Nat} {s t : State} (h : SameBut n s t) (hs : n &&& k = n) : SameBut k s t := by
  obtain ⟨pending, part, same⟩ := h
  refine ⟨pending, part, fun f hf => same f ?_⟩
  rw [← hs, Nat.testBit_and, hf, Bool.and_false]

theorem sameBut_put (f : Fld) (v : Nat) (s : State) : SameBut 0x2 s (s.put f v) :=
  Prim.same (.setReg f.addr (withBits (rg s f.addr) f.lo f.w v)) _ (show Nat.testBit _ 1 = true by decide) s

section
variable {o : Nat} {s : State}

/-! ## Attaching (R85) -/

theorem gives_attach : Gives (attach o) s () (if (theOx s o).detached = true ∧ lagOf (theOx s o) ≤ 32
    then s.putOx o (fun x => { x with detached := false }) else s) := fun k => by
  simp only [attach, run_bind, run_getS, run_when', Bool.and_eq_true, decide_eq_true_eq, run_modOx]
  split <;> rfl

/-! ## The fault of a pass (R60, R89) -/

/-- The fault of a pass: the code and the PASS_ID are recorded, and the core's context faults. -/
def State.passFaulted (s : State) (o code : Nat) (d : PassD) : State :=
  let t := ((s.put (OX_FAULT_CODE o) code).put (OX_FAULT_PASS_ID o) (passId d)).put (OX_STATUS_PASS_FAULT o) 1
  t.faulting (troubleOf t (oxCore o) 3 code o (passId d) 0 0)

@[simp] theorem run_passFault (o code : Nat) (d : PassD) (k : Unit → Act) (s : State) :
    Act.run (passFault o code d k) s = Act.run (k ()) (s.passFaulted o code d) := by
  simp only [passFault, State.passFaulted, run_bind, run_setFld, run_flag, run_faultCore]

@[simp] theorem theOx_passFaulted (o code i : Nat) (d : PassD) (s : State) : theOx (s.passFaulted o code d) i = theOx s i := by
  simp [State.passFaulted]

@[simp] theorem theCore_passFaulted (o code n : Nat) (d : PassD) (s : State) : theCore (s.passFaulted o code d) n = theCore s n := by
  simp [State.passFaulted]

@[simp] theorem passFaulted_history (o code : Nat) (d : PassD) (s : State) : (s.passFaulted o code d).history = s.history := by
  simp [State.passFaulted]

/-- What a latched event says of a pass's fault: rank, kind, code, Ox and PASS_ID. -/
def Ev.seen (e : Ev) : Option (Nat × Nat × Nat × Nat × Nat) :=
  match e.kind with
  | .fault x => some (e.rank, x.kind, x.code, x.unit, x.d32)
  | _ => none

/-- Faulting passes one after the other latches one event for each, in their order. -/
theorem foldl_passFaulted_latched (o code : Nat) (l : List PassD) (s : State) :
    ∃ es, (l.foldl (fun t d => t.passFaulted o code d) s).latched = s.latched ++ es
      ∧ es.map Ev.seen = l.map fun d => some (3, 3, code, o, passId d) := by
  induction l generalizing s with
  | nil => exact ⟨[], (List.append_nil _).symm, rfl⟩
  | cons d l ih =>
    obtain ⟨e, one, seen⟩ : ∃ e, (s.passFaulted o code d).latched = s.latched ++ [e] ∧ e.seen = some (3, 3, code, o, passId d) := by
      simp only [State.passFaulted, State.faulting, latching_latched, put_latched]
      exact ⟨_, rfl, rfl⟩
    obtain ⟨es, all, rest⟩ := ih (s.passFaulted o code d)
    exact ⟨e :: es, by rw [List.foldl_cons, all, one, List.append_assoc, List.singleton_append], by simp [seen, rest]⟩

@[simp] theorem theOx_foldl_passFaulted (o code i : Nat) (l : List PassD) (s : State) :
    theOx (l.foldl (fun t d => t.passFaulted o code d) s) i = theOx s i :=
  foldl_same (theOx · i) (fun t d => t.passFaulted o code d) (by simp) l s

@[simp] theorem theCore_foldl_passFaulted (o code n : Nat) (l : List PassD) (s : State) :
    theCore (l.foldl (fun t d => t.passFaulted o code d) s) n = theCore s n :=
  foldl_same (theCore · n) (fun t d => t.passFaulted o code d) (by simp) l s

@[simp] theorem foldl_passFaulted_history (o code : Nat) (l : List PassD) (s : State) :
    (l.foldl (fun t d => t.passFaulted o code d) s).history = s.history :=
  foldl_same State.history (fun t d => t.passFaulted o code d) (by simp) l s

/-! ## What a fence takes (R89) -/

/-- The passes that an Ox holds, the oldest first. -/
def Ox.held (x : Ox) : List PassD := (x.drain ++ x.run.toList).map RunPass.d ++ x.queue.map QPass.d

/-- An Ox whose passes have ended. -/
def Ox.emptied (x : Ox) : Ox := { x with queue := [], run := none, drain := [], lag := [], detached := false }

/-- The mask of a core's fences with that of an Ox. -/
def fenceWith (f k : Nat) : Nat := if bit f k then f else f + 2 ^ k

theorem bit_fenceWith (f k : Nat) : bit (fenceWith f k) k = true := by
  unfold fenceWith
  by_cases h : bit f k = true
  · rw [if_pos h, h]
  · rw [if_neg h]
    simp only [bit, beq_iff_eq, Nat.add_div_right _ (Nat.two_pow_pos k)] at h ⊢
    omega

/-- A fence comes to the core of an Ox: a task that runs keeps its count of Ox slots (log 11). -/
def CoreSt.fenced (f : Nat) (c : CoreSt) : CoreSt := { c with fence := f, modeF := if c.task = none then f else c.modeF }

theorem gives_endPasses : ∃ t, SameBut 0xd s t ∧ Gives (endPasses o) s (theOx s o).held (t.putOx o Ox.emptied) := by
  obtain ⟨_, t, ht, rows⟩ := (Keep.each (l := (theOx s o).drain ++ (theOx s o).run.toList) (keep_undefRows o)).gives s
  refine ⟨t, ht, fun k => ?_⟩
  cases hr : (theOx s o).run <;>
    simp only [hr, Option.toList_none, Option.toList_some] at rows <;>
    simp only [endPasses, Ox.held, run_bind, run_getS, hr, rows _, run_modOx, run_pure, Option.toList_none, Option.toList_some] <;> rfl

/-- An entry of the repair history is live and stands behind the others (R614). -/
theorem gives_historyAdd (kind unit data : Nat) : ∃ t, SameBut 0x100000 s t ∧ Gives (historyAdd kind unit data) s () t
    ∧ ∃ e, t.history.getLast? = some e ∧ e.kind = kind ∧ e.unit = unit ∧ e.live = true :=
  ⟨_, Prim.same (.modHistory _) _ (show Nat.testBit _ 20 = true by decide) s, fun _ => rfl, _, List.getLast?_concat .., rfl, rfl, rfl⟩

theorem gives_fenceOx_of_fenced {data : Nat} (hf : fb s (OX_CTRL_FENCE o) = true)
    (hb : bit (theCore s (oxCore o)).fence (oxIdx o) = true) : Gives (fenceOx o data) s () s := fun k => by
  simp only [fenceOx, run_bind, run_getS, hf, hb, Bool.not_true, Bool.or_self, Bool.false_eq_true, if_false, run_pure]

/-- A fence ends the passes of its Ox, comes to the core, faults the passes and writes the capability record anew. -/
theorem gives_fenceOx_of_unfenced {data : Nat} (hf : fb s (OX_CTRL_FENCE o) = false) : ∃ u, SameBut 0x10000f s u
    ∧ (∃ e, u.history.getLast? = some e ∧ e.kind = 3 ∧ e.unit = o ∧ e.live = true)
    ∧ Gives (fenceOx o data) s () ((theOx s o).held.foldl (fun t d => t.passFaulted o 9 d)
        ((u.putOx o Ox.emptied).putCore (oxCore o) (CoreSt.fenced (fenceWith (theCore s (oxCore o)).fence (oxIdx o))))).recapped := by
  obtain ⟨t, ht, history, e, last, kind, unit, live⟩ := gives_historyAdd (s := s.put (OX_CTRL_FENCE o) 1) 3 o data
  obtain ⟨u, hu, passes⟩ := gives_endPasses (o := o) (s := t)
  have same : SameBut 0x10000f s u := (((sameBut_put _ 1 s).mono rfl).trans (ht.mono rfl)).trans (hu.mono rfl)
  have held : theOx t o = theOx s o := (theOx_congr (ht.at .oxen (by decide)) o).trans (theOx_put ..)
  refine ⟨u, same, ⟨e, ?_, kind, unit, live⟩, fun k => ?_⟩
  · rw [hu.at .history (by decide), last]
  · rw [held] at passes
    simp only [fenceOx, run_bind, run_getS, hf, Bool.not_false, Bool.true_or, if_true, run_setFld, history _, passes _, run_modCore,
      run_each_of (fun t d => t.passFaulted o 9 d) (passFault o 9) (run_passFault o 9), run_capUpdate]
    rfl

end

/-- Settles O18: each command by what its sequence gives, the fence by the state between its ended passes and their faults. -/
theorem oxenAttachAndFence : Obligations.OxenAttachAndFence := by
  refine ⟨fun ox s => Gives.runM_eq gives_attach, fun ox s => ?lift, fun ox s => ⟨?refused, ?fenced, ?fence⟩⟩
  case lift =>
    split
    · next h => exact Gives.runM_eq (gives_atOx_of_resetting h)
    · next h => exact Gives.runM_eq (gives_atOx_of_live (Bool.eq_false_iff.mpr h) fun _ => run_setFld ..)
  case refused => exact fun h => Gives.runM_eq (gives_atOx_of_resetting h)
  case fenced => exact fun h hf hb => Gives.runM_eq (gives_atOx_of_live h (gives_fenceOx_of_fenced hf hb))
  case fence =>
    intro h hf
    obtain ⟨u, hu, history, hg⟩ := gives_fenceOx_of_unfenced (data := 0) hf
    obtain ⟨es, latched, seen⟩ := foldl_passFaulted_latched ox 9 (theOx s ox).held
      ((u.putOx ox Ox.emptied).putCore (oxCore ox) (CoreSt.fenced (fenceWith (theCore s (oxCore ox)).fence (oxIdx ox))))
    have ox_same (o : Nat) : theOx u o = theOx s o := theOx_congr (hu.at .oxen (by decide)) o
    have latched_same : u.latched = s.latched := hu.at .latched (by decide)
    refine ⟨_, Gives.runM_eq (gives_atOx_of_live h hg), ?_, fun o ho => ?_, ?_, ?_, es, ?_, seen⟩
    · simp [ox_same, Ox.emptied]
    · simp [theOx_putOx, ho, ox_same]
    · simp [CoreSt.fenced, bit_fenceWith]
    · simpa using history
    · simp [latched, latched_same]

end Sys2Proof.Machine
end

section
/-!
Segments and passes (02_ox_and_yoke.md, R61, R66 to R76, R183, R235, R236): when a segment begins, how a pass enters the array,
and where the results of a complete pass go.
-/

namespace Sys2Proof.Machine

open PassField

/-! ## What two states agree in -/

theorem put_regs_congr {s t : State} (hr : t.regs = s.regs) (hp : t.part = s.part) (f : Fld) (v : Nat) :
    (t.put f v).regs = (s.put f v).regs := by
  simp only [State.put, State.putReg, rg, hr, hp]

theorem count_regs_congr {s t : State} (hr : t.regs = s.regs) (hp : t.part = s.part) (f : Fld) (n : Nat) :
    (t.count f n).regs = (s.count f n).regs := by
  simp only [State.count, State.put, State.putReg, fv, rg, hr, hp]

theorem sameBut_putOx (i : Nat) (f : Ox → Ox) (s : State) : SameBut 0x400 s (s.putOx i f) :=
  Prim.same (.modOx i f) _ (show Nat.testBit _ 10 = true by decide) s

theorem sameBut_putCore (i : Nat) (f : CoreSt → CoreSt) (s : State) : SameBut 0x800 s (s.putCore i f) :=
  Prim.same (.modCore i f) _ (show Nat.testBit _ 11 = true by decide) s

/-- A change that an Ox already shows changes no Ox. -/
theorem theOx_putOx_of_fixed {s : State} {i : Nat} {f : Ox → Ox} (h : f (theOx s i) = theOx s i) (o : Nat) :
    theOx (s.putOx i f) o = theOx s o := by
  rw [theOx_putOx]
  split
  · next e => rw [h, e]
  · rfl

/-- The Oxen that a mask names follow from the core's fences and the mode of its program. -/
theorem oxenOfMask_congr {s t : State} {n : Nat} (hf : (theCore t n).fence = (theCore s n).fence)
    (hm : (theCore t n).modeF = (theCore s n).modeF) (mask : Nat) : oxenOfMask t n mask = oxenOfMask s n mask := by
  have avail : oxAvail t n = oxAvail s n := by funext k; simp only [oxAvail, coreMode, hf]
  simp only [oxenOfMask, slotMode, hm, avail]

/-- The check of a pass looks at the Oxen and the cores alone. -/
theorem passCheck_congr {s t : State} (ho : ∀ o, theOx t o = theOx s o) (hc : ∀ n, theCore t n = theCore s n) (o : Nat) (d : PassD) :
    passCheck t o d = passCheck s o d := by
  have mask (n m : Nat) : oxenOfMask t n m = oxenOfMask s n m := oxenOfMask_congr (by rw [hc]) (by rw [hc]) m
  simp only [passCheck, segMismatch, headerOf, lagsBy, peersOf, passesOfSeg, mask, ho, hc] <;> rfl

theorem canBegin_congr {s t : State} (ho : ∀ o, theOx t o = theOx s o) (o g : Nat) (ready : Bool) :
    canBegin t o g ready = canBegin s o g ready := by
  simp only [canBegin, ho]

/-! ## A segment begins (R74, R75) -/

/-- The check of the head of a participant's queue, where it is a pass of the segment that is to begin. -/
def checkSegHead (n num k : Nat) : M Unit := do
  match (theOx (← getS) (4 * n + k)).queue with
  | q :: _ => if seg q.d = num then let _ ← checkHead (4 * n + k)
  | [] => pure ()

/-- The head of an Ox's queue has been checked, and would pass again. -/
def headPasses (s : State) (o : Nat) : Prop :=
  ∃ q l, (theOx s o).queue = q :: l ∧ q.checked = true ∧ passCheck s o q.d = none

section
variable {n k num : Nat} {ks : List Nat} {g : Seg} {rest : List Seg} {s t : State} {ready : Bool}

/-- Checking a head that has passed its check changes no Ox. -/
theorem gives_checkSegHead_of_passes (h : headPasses s (4 * n + k)) :
    ∃ t, SameBut 0x400 s t ∧ (∀ o, theOx t o = theOx s o) ∧ Gives (checkSegHead n num k) s () t := by
  obtain ⟨q, l, hq, hc, hp⟩ := h
  by_cases hs : seg q.d = num
  · have fixed : { theOx s (4 * n + k) with queue := { q with checked := true } :: l } = theOx s (4 * n + k) := by rw [← hc, ← hq]
    refine ⟨s.putOx (4 * n + k) fun x => { x with queue := { q with checked := true } :: l }, sameBut_putOx ..,
      theOx_putOx_of_fixed fixed, fun k => ?_⟩
    simp only [checkSegHead, run_bind, run_getS, hq, hs, if_true, gives_checkHead_of_passes hq hp _, run_pure]
  · exact ⟨s, SameBut.refl _ s, fun _ => rfl, fun k => by simp only [checkSegHead, run_bind, run_getS, hq, hs, if_false, run_pure]⟩

theorem gives_checkSegHeads_of_passes (h : ∀ k ∈ ks, headPasses s (4 * n + k)) :
    ∃ t, SameBut 0x400 s t ∧ (∀ o, theOx t o = theOx s o) ∧ Gives (each ks (checkSegHead n num)) s () t := by
  induction ks generalizing s with
  | nil => exact ⟨s, SameBut.refl _ s, fun _ => rfl, fun _ => rfl⟩
  | cons k ks ih =>
    obtain ⟨t, ht, same, one⟩ := gives_checkSegHead_of_passes (num := num) (h k List.mem_cons_self)
    have core (m : Nat) : theCore t m = theCore s m := theCore_congr (ht.at .cores (by decide)) m
    have still : ∀ j ∈ ks, headPasses t (4 * n + j) := fun j hj => by
      simpa only [headPasses, same, passCheck_congr same core] using h j (List.mem_cons_of_mem k hj)
    obtain ⟨u, hu, same', all⟩ := ih still
    exact ⟨u, ht.trans hu, fun o => (same' o).trans (same o), one.bind all⟩

/-- A participant whose head is of another segment, or that has none, is not checked. -/
theorem gives_checkSegHeads_of_others (h : ∀ k ∈ ks, ∀ q l, (theOx s (4 * n + k)).queue = q :: l → seg q.d ≠ num) :
    Gives (each ks (checkSegHead n num)) s () s := by
  induction ks with
  | nil => exact fun _ => rfl
  | cons k ks ih =>
    refine Gives.bind (a := ()) (t := s) (fun q => ?_) (ih fun j hj => h j (List.mem_cons_of_mem k hj))
    cases hq : (theOx s (4 * n + k)).queue with
    | nil => simp only [checkSegHead, run_bind, run_getS, hq, run_pure]
    | cons p l => simp only [checkSegHead, run_bind, run_getS, hq, h k List.mem_cons_self p l hq, if_false, run_pure]

theorem gives_segmentBegin_of_held (h : (theCore s n).issue ≠ none ∨ segGoes s n = false ∨ (theCore s n).segs = []) :
    Gives (segmentBegin n ready) s () s := fun k => by
  rcases h with h | h | h <;> simp only [segmentBegin, run_bind, run_getS, h] <;> simp

theorem gives_segmentBegin_of_all (hi : (theCore s n).issue = none) (hg : segGoes s n = true) (hs : (theCore s n).segs = g :: rest)
    (checks : Gives (each (oxenOfMask s n g.mask) (checkSegHead n g.num)) s () t)
    (all : ∀ k ∈ oxenOfMask s n g.mask, canBegin t (4 * n + k) g.num ready = true) :
    Gives (segmentBegin n ready) s () ((t.putCore n fun c => { c with segs := rest, issue := some g }).put (CORE_YOKE_SEG_ACTIVE n) 1) :=
  fun k => by
  have all' := List.all_eq_true.mpr all
  simp only [segmentBegin, run_bind, run_getS, hi, hg, hs, decide_true, Bool.and_self, if_true]
  refine (checks _).trans ?_
  simp only [run_bind, run_getS, all', if_true, run_modCore, run_setFld]

theorem gives_segmentBegin_of_waits (hi : (theCore s n).issue = none) (hg : segGoes s n = true) (hs : (theCore s n).segs = g :: rest)
    (checks : Gives (each (oxenOfMask s n g.mask) (checkSegHead n g.num)) s () t)
    (one : ∃ k ∈ oxenOfMask s n g.mask, canBegin t (4 * n + k) g.num ready = false) :
    Gives (segmentBegin n ready) s () (t.count (CORE_YOKE_START_WAIT_COUNT n) 1) := fun k => by
  have one' := List.all_eq_false.mpr (one.imp fun k h => ⟨h.1, Bool.eq_false_iff.mp h.2⟩)
  simp only [segmentBegin, run_bind, run_getS, hi, hg, hs, decide_true, Bool.and_self, if_true]
  refine (checks _).trans ?_
  simp only [run_bind, run_getS, one', Bool.false_eq_true, if_false, run_bump]

end

/-! ## A pass starts (R61, R66 to R69) -/

section
variable {o bubble : Nat} {q : QPass} {rest : List QPass} {s : State}

/-- The Ox is free and in service, the first row of the pass's segment comes, and its core has not stopped (R66). -/
def startsNow (s : State) (o : Nat) (q : QPass) : Bool :=
  runDone (theOx s o) && oxAvail s (oxCore o) (oxIdx o) && rowComes s o (seg q.d) && decide ((theCore s (oxCore o)).stopped < 2)

/-- How the banks of a pass's stationary tile answer; one that the loader has read needs none (R67). -/
def startGate (s : State) (o : Nat) (q : QPass) : BankGate :=
  if q.loaded = true then .on else banksGate s (oxCore o) ((startBanks q.d).map Prod.fst)

/-- The pass enters the array; one that names a new stationary tile takes it from the shadow half (R66, R67). -/
def Ox.started (x : Ox) (q : QPass) (rest : List QPass) (tile : Tile) (slot : Nat) (place : Option DrainAt) : Ox :=
  { x with
    queue := rest
    drain := match x.run with | some p => x.drain ++ [p] | none => x.drain
    run := some ⟨q.d, 0, 0, [], [], slot, place⟩
    live := if newStat q.d = true ∧ mode q.d ≠ 1 then tile else x.live
    shadow := if newStat q.d = true ∧ mode q.d ≠ 1 then x.live else x.shadow
    liveRec := if newStat q.d = true ∧ mode q.d ≠ 1 then q.d else x.liveRec }

theorem gives_startPass_of_waits (hq : (theOx s o).queue = q :: rest) (hgo : startsNow s o q = true) (hc : q.checked = true)
    (hb : startGate s o q = .waits) : Gives (startPass o bubble) s () (s.bankHeld (oxCore o) (16 + oxIdx o) (startBanks q.d)) := fun k => by
  unfold startsNow at hgo
  unfold startGate at hb
  simp only [startPass, run_bind, run_getS, hq, hgo, hc, hb, if_true, run_pure, run_bankHold]

theorem gives_startPass_of_on (hq : (theOx s o).queue = q :: rest) (hgo : startsNow s o q = true) (hc : q.checked = true)
    (hb : startGate s o q = .on) (hd : toMule q.d = true ∨ aBank q.d ≠ 7 ∨ drainAt s (oxCore o) q.d ≠ none) :
    let t := s.bankFreed (oxCore o) (16 + oxIdx o)
    let cycles := min bubble (bubbleOf s o q.d)
    Gives (startPass o bubble) s () ((if cycles = 0 then t else t.count (OX_BUBBLE_CYCLES_COUNT o) cycles).putOx o fun x =>
      x.started q rest (if q.loaded = true then (theOx s o).shadow else fillHalf (theOx s o).shadow (loadTile s (oxCore o) q.d))
        (slotOf s (oxCore o) (oxIdx o)) (drainAt s (oxCore o) q.d)) := by
  intro t cycles k
  have placed : (!toMule q.d && decide (aBank q.d = 7) && decide (drainAt s (oxCore o) q.d = none)) = false := by
    rcases hd with h | h | h <;> simp [h]
  unfold startsNow at hgo
  unfold startGate at hb
  simp only [startPass, run_bind, run_getS, hq, hgo, hc, hb, placed, if_true, Bool.false_eq_true, if_false, run_pure,
    run_bankFree, run_bumpBy, run_modOx]
  simp only [Ox.started, Bool.and_eq_true, bne_iff_ne]
  rfl

end

/-! ## The rows that the Mule is handed (R80, R123, R183) -/

section
variable {o : Nat} {p q : RunPass} {x : Ox} {row : OutRow} {s t u : State}

theorem oldestPass_of_nextOut (h : nextOut x = some p) : oldestPass x = some p := by
  unfold nextOut at h
  unfold oldestPass
  cases hd : x.drain <;> cases hr : x.run <;> simp_all

@[simp] theorem oldestPass_setOldest : oldestPass (setOldest x p) = some p := by
  unfold oldestPass setOldest
  cases x.drain <;> simp

@[simp] theorem setOldest_setOldest : setOldest (setOldest x p) q = setOldest x q := by
  unfold setOldest
  cases x.drain <;> simp

@[simp] theorem dropOut_setOldest : dropOut (setOldest x p) = dropOut x := by
  unfold dropOut setOldest
  cases x.drain <;> simp

theorem setOldest_of_oldest (h : oldestPass x = some p) : setOldest x p = x := by
  unfold oldestPass at h
  unfold setOldest
  cases hd : x.drain <;> simp only [hd] at h ⊢
  · rw [← h, ← hd]
  · rw [← Option.some.inj h, ← hd]

/-- A pass's rows of results are there whether or not they have been handed over. -/
theorem outRows_given (p : RunPass) (n : Nat) : outRows { p with given := n } = outRows p := rfl

/-- One row goes from an Ox's oldest pass to the Mule. -/
def State.rowGiven (s : State) (o : Nat) (p : RunPass) (row : OutRow) : State :=
  (s.putCore (oxCore o) fun c => { c with toMule := modNth c.toMule p.slot (· ++ [muleRow row]) }).putOx o
    fun x => setOldest x { p with given := p.given + 1 }

theorem gives_giveRow_of_room (hp : oldestPass (theOx s o) = some p) (hr : (outRows p)[p.given]? = some row) (hm : toMule p.d = true)
    (room : muleRoom s (oxCore o) p.slot = true) : Gives (giveRow o) s () (s.rowGiven o p row) := fun k => by
  simp only [giveRow, placeMule, run_bind, run_getS, hp, hr, hm, room, Bool.and_self, run_when'_true, run_modCore, run_modOx]
  rfl

theorem gives_giveRow_of_full (hp : oldestPass (theOx s o) = some p) (room : muleRoom s (oxCore o) p.slot = false) :
    Gives (giveRow o) s () s := fun k => by
  simp only [giveRow, run_bind, run_getS, hp, room, Bool.and_false]
  cases (outRows p)[p.given]? <;> rfl

/-- The rows of results of an Ox's oldest pass have gone to the Mule, in order, and nothing else has changed. -/
structure RowsGiven (s t : State) (o : Nat) (p : RunPass) (rows : List OutRow) : Prop where
  same : SameBut 0xc00 s t
  ox : theOx t o = setOldest (theOx s o) { p with given := p.given + rows.length }
  oxen : ∀ i, i ≠ o → theOx t i = theOx s i
  core : theCore t (oxCore o)
    = { theCore s (oxCore o) with toMule := modNth (theCore s (oxCore o)).toMule p.slot (· ++ rows.map muleRow) }
  cores : ∀ m, m ≠ oxCore o → theCore t m = theCore s m

theorem rowsGiven_nil (hp : oldestPass (theOx s o) = some p) : RowsGiven s s o p [] where
  same := SameBut.refl _ s
  ox := (setOldest_of_oldest hp).symm
  oxen _ _ := rfl
  core := by
    have : (fun l : List OutFp => l ++ [].map muleRow) = id := by funext l; simp
    rw [this, modNth, List.modify_id]
  cores _ _ := rfl

theorem rowsGiven_cons {rows : List OutRow} (h : RowsGiven (s.rowGiven o p row) t o { p with given := p.given + 1 } rows) :
    RowsGiven s t o p (row :: rows) where
  same := (((sameBut_putCore ..).mono rfl).trans ((sameBut_putOx ..).mono rfl)).trans h.same
  ox := by
    rw [h.ox, State.rowGiven, theOx_putOx_same, setOldest_setOldest, theOx_putCore, List.length_cons]
    simp only [Nat.add_assoc, Nat.add_comm 1]
  oxen i hi := by rw [h.oxen i hi, State.rowGiven, theOx_putOx, if_neg hi, theOx_putCore]
  core := by
    rw [h.core, State.rowGiven, theCore_putOx, theCore_putCore_same]
    simp only [modNth, List.modify_modify_eq]
    congr 2
    funext l
    simp
  cores m hm := by rw [h.cores m hm, State.rowGiven, theCore_putOx, theCore_putCore, if_neg hm]

theorem muleRoom_of_lt {n slot : Nat} (h : ((theCore s n).toMule.getD slot []).length < 32 + (theCore s n).mule.takes) :
    muleRoom s n slot = true := decide_eq_true h

/-- The rows waiting in a slot's buffer are at most one more once a row is put there. -/
theorem length_getD_modNth_concat (l : List (List OutFp)) (i : Nat) (r : OutFp) :
    ((modNth l i (· ++ [r])).getD i []).length ≤ (l.getD i []).length + 1 := by
  simp only [modNth, List.getD_eq_getElem?_getD, List.getElem?_modify_eq]
  cases l[i]? <;> simp

theorem rowGiven_toMule_length (s : State) (o : Nat) (p : RunPass) (row : OutRow) :
    ((theCore (s.rowGiven o p row) (oxCore o)).toMule.getD p.slot []).length
      ≤ ((theCore s (oxCore o)).toMule.getD p.slot []).length + 1 := by
  rw [State.rowGiven, theCore_putOx, theCore_putCore_same]
  exact length_getD_modNth_concat ..

theorem rowGiven_takes (s : State) (o : Nat) (p : RunPass) (row : OutRow) :
    (theCore (s.rowGiven o p row) (oxCore o)).mule.takes = (theCore s (oxCore o)).mule.takes := by
  rw [State.rowGiven, theCore_putOx, theCore_putCore_same]

theorem gives_giveRows {rows : List OutRow} {l : List Nat} (hp : oldestPass (theOx s o) = some p) (hm : toMule p.d = true)
    (hl : (outRows p).drop p.given = rows) (hn : l.length = rows.length)
    (room : rows.length ≤ 32 + (theCore s (oxCore o)).mule.takes - ((theCore s (oxCore o)).toMule.getD p.slot []).length) :
    ∃ t, RowsGiven s t o p rows ∧ Gives (each l fun _ => giveRow o) s () t := by
  induction rows generalizing s p l with
  | nil =>
    obtain rfl := List.eq_nil_of_length_eq_zero hn
    exact ⟨s, rowsGiven_nil hp, fun _ => rfl⟩
  | cons row rows ih =>
    obtain ⟨i, l, rfl⟩ := List.exists_cons_of_length_eq_add_one hn
    rw [List.length_cons] at room
    have head : (outRows p)[p.given]? = some row := by rw [← List.head?_drop, hl, List.head?_cons]
    have tail : (outRows p).drop (p.given + 1) = rows := by rw [← List.drop_drop, hl, List.drop_one, List.tail_cons]
    have one := gives_giveRow_of_room hp head hm (muleRoom_of_lt (by omega))
    have grown := rowGiven_toMule_length s o p row
    have takes := rowGiven_takes s o p row
    obtain ⟨t, ht, all⟩ := ih (s := s.rowGiven o p row) (p := { p with given := p.given + 1 }) (l := l)
      (by rw [State.rowGiven, theOx_putOx_same, oldestPass_setOldest]) hm tail (by simpa using hn) (by simp only; omega)
    exact ⟨t, rowsGiven_cons ht, one.bind all⟩

/-- A sequence that does nothing, done for each element, does nothing. -/
theorem gives_each_of_stays {α : Type} {f : α → M Unit} {l : List α} (h : ∀ a ∈ l, Gives (f a) s () s) :
    Gives (each l f) s () s := by
  induction l with
  | nil => exact fun _ => rfl
  | cons a l ih => exact (h a List.mem_cons_self).bind (ih fun b hb => h b (List.mem_cons_of_mem a hb))

end

/-! ## A pass completes (R65, R71, R183, R235, R236) -/

section
variable {o : Nat} {p : RunPass} {s t : State}

theorem gives_completePass_of_none (h : nextOut (theOx s o) = none) : Gives (completePass o) s () s := fun k => by
  simp only [completePass, run_bind, run_getS, h, run_pure]

/-- A pass of which the Mule has every row leaves its Ox. -/
theorem gives_completePass_of_given (h : nextOut (theOx s o) = some p) (hm : toMule p.d = true)
    (rows : Gives (each (List.range ((outRows p).length - p.given)) fun _ => giveRow o) s () t)
    (given : RowsGiven s t o p ((outRows p).drop p.given)) :
    Gives (completePass o) s () ((t.putOx o dropOut).count (OX_PASSES_COUNT o) 1) := fun k => by
  have last : oldestPass (theOx t o) = some { p with given := p.given + ((outRows p).drop p.given).length } := by
    rw [given.ox, oldestPass_setOldest]
  have none_left : (outRows p).length - (p.given + ((outRows p).drop p.given).length) = 0 := by rw [List.length_drop]; omega
  simp only [completePass, run_bind, run_getS, h, hm, if_true, rows _, last, outRows_given, none_left, run_modOx, run_bump]

/-- A pass of which the Mule takes no row goes on draining. -/
theorem gives_completePass_of_full (h : nextOut (theOx s o) = some p) (hm : toMule p.d = true) (hl : (outRows p).drop p.given ≠ [])
    (room : muleRoom s (oxCore o) p.slot = false) : Gives (completePass o) s () s := fun k => by
  have hp := oldestPass_of_nextOut h
  have some_left : (outRows p).length - p.given ≠ 0 := by rwa [← List.length_drop, ne_eq, List.length_eq_zero_iff]
  have stays := gives_each_of_stays (l := List.range ((outRows p).length - p.given)) fun _ _ => gives_giveRow_of_full hp room
  simp only [completePass, run_bind, run_getS, h, hm, if_true, stays _, hp, some_left, if_false, run_pure]

theorem gives_completePass_of_refused (h : nextOut (theOx s o) = some p) (hm : toMule p.d = false)
    (hb : bankGate s (oxCore o) (4 + aBank p.d) = .refused) : Gives (completePass o) s ()
      (((s.bankFaulting (oxCore o) (4 + aBank p.d) (aRow p.d * 512)).putOx o dropOut).count (OX_PASSES_COUNT o) 1) := fun k => by
  simp only [completePass, run_bind, run_getS, h, hm, hb, Bool.false_eq_true, if_false, run_bankFault, run_modOx, run_bump]

theorem gives_completePass_of_waits (h : nextOut (theOx s o) = some p) (hm : toMule p.d = false)
    (hb : bankGate s (oxCore o) (4 + aBank p.d) = .waits) :
    Gives (completePass o) s () (s.bankHeld (oxCore o) (20 + oxIdx o) [(4 + aBank p.d, aRow p.d * 512)]) := fun k => by
  simp only [completePass, run_bind, run_getS, h, hm, hb, Bool.false_eq_true, if_false, run_bankHold]

/-- A bank that is on takes the results, whose placing changes the bank and its draw counters alone. -/
theorem gives_completePass_of_on (h : nextOut (theOx s o) = some p) (hm : toMule p.d = false)
    (hb : bankGate s (oxCore o) (4 + aBank p.d) = .on) : ∃ t, SameBut 0x1c (s.bankFreed (oxCore o) (20 + oxIdx o)) t
      ∧ Gives (completePass o) s () ((t.putOx o dropOut).count (OX_PASSES_COUNT o) 1) := by
  obtain ⟨_, t, ht, rows⟩ := (Keep.each (l := (outRows p).zipIdx) fun r => keep_placeAcc (oxCore o) p r.2 r.1).gives
    (s.bankFreed (oxCore o) (20 + oxIdx o))
  refine ⟨t, ht, fun k => ?_⟩
  simp only [completePass, run_bind, run_getS, h, hm, hb, Bool.false_eq_true, if_false, run_bankFree, rows _, run_modOx, run_bump]

end

theorem bankFreed_sameBut (n u : Nat) (s : State) : SameBut 0x800 s (s.bankFreed n u) := by
  unfold State.bankFreed
  split
  · exact sameBut_putCore ..
  · exact SameBut.refl _ s

/-- Settles O19: a segment by the checks of its participants' heads, a pass by its gate, a complete pass by where its rows go. -/
theorem segmentsAndPassesBeginAndComplete : Obligations.SegmentsAndPassesBeginAndComplete := by
  refine ⟨fun core ready s => ⟨fun h => ?held, fun g rest hi hg hs => ⟨fun all => ?begins, fun others one => ?startWait⟩⟩,
    fun ox bubble s q rest hq hgo hc => ⟨fun hb => ?passWaits, fun hb hd => ?passStarts⟩,
    fun ox s => ⟨fun h => ?idle, fun p h => ?complete⟩⟩
  case held => exact Gives.runM_eq (gives_segmentBegin_of_held h)
  case begins =>
    obtain ⟨t, ht, same, checks⟩ := gives_checkSegHeads_of_passes (num := g.num) fun k hk => (all k hk).2
    have regs : t.regs = s.regs := ht.at .regs (by decide)
    have cores : t.cores = s.cores := ht.at .cores (by decide)
    have can : ∀ k ∈ oxenOfMask s core g.mask, canBegin t (4 * core + k) g.num ready = true := fun k hk => by
      rw [canBegin_congr same, (all k hk).1]
    refine ⟨_, Gives.runM_eq (gives_segmentBegin_of_all hi hg hs checks can), ?_, ?_, fun o => ?_⟩
    · simp only [put_cores, State.putCore, cores]
    · exact put_regs_congr regs ht.2.1 ..
    · rw [theOx_put, theOx_putCore, same]
  case startWait => exact Gives.runM_eq (gives_segmentBegin_of_waits hi hg hs (gives_checkSegHeads_of_others others) one)
  case passWaits => exact Gives.runM_eq (gives_startPass_of_waits hq hgo hc hb)
  case passStarts => exact Gives.runM_eq (gives_startPass_of_on hq hgo hc hb hd)
  case idle => exact Gives.runM_eq (gives_completePass_of_none h)
  case complete =>
    intro left room
    refine ⟨fun hm hr => ?given, fun hm hl hr => ?full, fun hm hb => ?refused, fun hm hb => ?waits, fun hm hb => ?on⟩
    case given =>
      obtain ⟨t, given, rows⟩ := gives_giveRows (l := List.range ((outRows p).length - p.given)) (oldestPass_of_nextOut h) hm rfl
        (by rw [List.length_range, List.length_drop]) hr
      have regs : t.regs = s.regs := given.same.at .regs (by decide)
      refine ⟨_, Gives.runM_eq (gives_completePass_of_given h hm rows given), ?_, ?_, fun i hi => ?_, ?_, fun m hm' => ?_⟩
      · exact count_regs_congr (s := s) (t := t.putOx ox dropOut) regs given.same.2.1 ..
      · rw [theOx_count, theOx_putOx_same, given.ox, dropOut_setOldest]
      · rw [theOx_count, theOx_putOx, if_neg hi, given.oxen i hi]
      · rw [theCore_count, theCore_putOx, given.core]
      · rw [theCore_count, theCore_putOx, given.cores m hm']
    case full =>
      have full : muleRoom s (oxCore ox) p.slot = false := decide_eq_false (by omega)
      exact Gives.runM_eq (gives_completePass_of_full h hm hl full)
    case refused => exact Gives.runM_eq (gives_completePass_of_refused h hm hb)
    case waits => exact Gives.runM_eq (gives_completePass_of_waits h hm hb)
    case on =>
      obtain ⟨t, ht, hg⟩ := gives_completePass_of_on h hm hb
      have freed := bankFreed_sameBut (oxCore ox) (20 + oxIdx ox) s
      have same : SameBut 0x81c s t := (freed.mono rfl).trans (ht.mono rfl)
      have oxen : t.oxen = s.oxen := same.at .oxen (by decide)
      have regs : t.regs = s.regs := same.at .regs (by decide)
      have latched : t.latched = s.latched := same.at .latched (by decide)
      refine ⟨_, Gives.runM_eq hg, ?_, ?_, ?_, ?_⟩
      · rw [count_oxen, State.putOx, State.putOx, oxen]
      · exact count_regs_congr (s := s) (t := t.putOx ox dropOut) regs same.2.1 ..
      · rw [count_cores, putOx_cores]
        exact ht.at .cores (by decide)
      · rw [count_latched, putOx_latched]
        exact latched

end Sys2Proof.Machine
end

section
/-!
A cycle of the Yoke (02_ox_and_yoke.md, R79 to R86): what it keeps of the core's segments, and what the row that it issues does to
the participants that do not lag.
-/

namespace Sys2Proof.Machine

open PassField

/-! ## Sequences that keep a relation -/

/-- A sequence leaves a state that is related to the one it starts from. -/
def Within {α : Type} (R : Rel) (m : M α) : Prop := ∀ s, ∃ a t, R.r s t ∧ Gives m s a t

section
variable {α β : Type} {R : Rel} {m : M α}

theorem Within.of_keep {mask : Nat} (h : Keep mask m) (hR : R.of mask) : Within R m := fun s => h.ends R hR s

theorem Within.pure (a : α) : Within R (Pure.pure a : M α) := fun s => ⟨a, s, R.refl s, fun _ => rfl⟩

theorem Within.getS : Within R getS := fun s => ⟨s, s, R.refl s, fun _ => rfl⟩

theorem Within.bind {f : α → M β} (h : Within R m) (hf : ∀ a, Within R (f a)) : Within R (m >>= f) := fun s => by
  obtain ⟨a, t, ht, g⟩ := h s
  obtain ⟨b, u, hu, g'⟩ := hf a t
  exact ⟨b, u, R.trans _ _ _ ht hu, g.bind g'⟩

theorem Within.when' {c : Bool} {m : M Unit} (h : Within R m) : Within R (when' c m) := by
  cases c
  · exact Within.pure ()
  · exact h

theorem Within.ite {c : Prop} [Decidable c] {x y : M α} (hx : Within R x) (hy : Within R y) : Within R (if c then x else y) := by
  split
  · exact hx
  · exact hy

theorem Within.each {l : List α} {f : α → M Unit} (h : ∀ a ∈ l, Within R (f a)) : Within R (each l f) := by
  induction l with
  | nil => exact Within.pure ()
  | cons a l ih => exact (h a List.mem_cons_self).bind fun _ => ih fun b hb => h b (List.mem_cons_of_mem a hb)

end

theorem Gives.unique {m : M Unit} {s t u : State} (h : Gives m s () t) (h' : Gives m s () u) : t = u :=
  (h fun _ => .done).symm.trans (h' fun _ => .done)

/-! ## What a cycle keeps of the cores -/

/-- Core `n` issues, waits for and fences what it did, and no other core is changed. -/
structure YokeKept (n : Nat) (s t : State) : Prop where
  issue : (theCore t n).issue = (theCore s n).issue
  segs : (theCore t n).segs = (theCore s n).segs
  fence : (theCore t n).fence = (theCore s n).fence
  modeF : (theCore t n).modeF = (theCore s n).modeF
  cores : ∀ m, m ≠ n → theCore t m = theCore s m

section
variable {n o k : Nat} {s t u : State}

theorem YokeKept.of_cores (h : t.cores = s.cores) : YokeKept n s t := by
  have same := theCore_congr h
  exact ⟨by rw [same], by rw [same], by rw [same], by rw [same], fun m _ => same m⟩

theorem YokeKept.trans (h : YokeKept n s t) (h' : YokeKept n t u) : YokeKept n s u :=
  ⟨h'.issue.trans h.issue, h'.segs.trans h.segs, h'.fence.trans h.fence, h'.modeF.trans h.modeF,
    fun m hm => (h'.cores m hm).trans (h.cores m hm)⟩

theorem YokeKept.putCore {f : CoreSt → CoreSt} (h : ∀ c, (f c).issue = c.issue ∧ (f c).segs = c.segs ∧ (f c).fence = c.fence
    ∧ (f c).modeF = c.modeF) : YokeKept n s (s.putCore n f) := by
  obtain ⟨issue, segs, fence, modeF⟩ := h (theCore s n)
  refine ⟨?_, ?_, ?_, ?_, fun m hm => ?_⟩
  · rw [theCore_putCore_same, issue]
  · rw [theCore_putCore_same, segs]
  · rw [theCore_putCore_same, fence]
  · rw [theCore_putCore_same, modeF]
  · rw [theCore_putCore, if_neg hm]

/-- What a cycle keeps, as a relation that goes on from change to change. -/
def yokeRel (n : Nat) : Rel := ⟨YokeKept n, fun _ => .of_cores rfl, fun _ _ _ => .trans⟩

theorem yokeRel_of {mask : Nat} (h : mask.testBit 11 = false) : (yokeRel n).of mask :=
  fun p hp s => .of_cores ((p.same mask hp s).at .cores h)

theorem within_modCore {f : CoreSt → CoreSt} (h : ∀ c, (f c).issue = c.issue ∧ (f c).segs = c.segs ∧ (f c).fence = c.fence
    ∧ (f c).modeF = c.modeF) : Within (yokeRel n) (modCore n f) := fun s => ⟨(), s.putCore n f, .putCore h, fun _ => rfl⟩

theorem within_bankHold (unit : Nat) (bs : List (Nat × Nat)) : Within (yokeRel n) (bankHold n unit bs) :=
  fun s => ⟨(), s.bankHeld n unit bs, .putCore fun _ => ⟨rfl, rfl, rfl, rfl⟩, fun _ => rfl⟩

theorem within_bankFree (unit : Nat) : Within (yokeRel n) (bankFree n unit) := by
  unfold bankFree
  exact Within.getS.bind fun _ => (within_bankHold unit []).when'

/-- Handing a row to the Mule (R80) changes a buffer of the core. -/
theorem within_giveRow (h : oxCore o = n) : Within (yokeRel n) (giveRow o) := by
  unfold giveRow
  refine Within.getS.bind fun _ => ?_
  dsimp only
  split
  · split
    · refine Within.when' (Within.bind ?_ fun _ => ?_)
      · rw [h]
        exact within_modCore fun _ => ⟨rfl, rfl, rfl, rfl⟩
      · exact .of_keep (keep_modOx ..) (yokeRel_of (by decide))
    · exact .pure _
  · exact .pure _

/-- The banks of a top row (R235, R236) change the waits of the core. -/
theorem within_topGate (h : oxCore o = n) (p : RunPass) : Within (yokeRel n) (topGate o p) := by
  unfold topGate
  refine Within.getS.bind fun _ => ?_
  simp only [h]
  refine Within.ite (.pure _) ?_
  split
  · exact (Within.of_keep (keep_bankFaultOf ..) (yokeRel_of (by decide))).bind fun _ => (within_bankFree _).bind fun _ => .pure _
  · exact (within_bankHold _ _).bind fun _ => .pure _
  · exact (within_bankFree _).bind fun _ => .pure _

theorem within_topCheck (h : oxCore o = n) (issue : Bool) : Within (yokeRel n) (topCheck o issue) := by
  unfold topCheck
  refine Within.getS.bind fun _ => ?_
  dsimp only
  split
  · exact Within.when' ((within_topGate h _).bind fun _ => .pure _)
  · exact .pure _

end

/-! ## The parts of a cycle -/

/-- The start of a cycle for one Ox: a row of results that the array pushes out (R80), and the banks of its top operand. -/
def yokeGive (n : Nat) (issue : Bool) (k : Nat) : M Unit := do
  when' (decide (128 < behind (theOx (← getS) (4 * n + k)))) (giveRow (4 * n + k))
  topCheck (4 * n + k) issue

/-- The end of a cycle: the headers still needed, and the holds and lags counted. -/
def yokeEnd (n hold : Nat) : M Unit := do
  let s ← getS
  when' ((theCore s n).past != []) (modCore n (fun c => { c with past := keepPast s n c.past }))
  each [0, 1, 2, 3] (fun k => do
    noteHold (4 * n + k) hold
    noteLag (4 * n + k))

/-- The first row of the segment has been issued; with the last one the segment is past. -/
def State.rowIssued (s : State) (n : Nat) (g : Seg) (rest : List YRow) : State :=
  if rest = [] then
    (s.putCore n fun c => { c with issue := none, past := c.past ++ [{ g with rows := [] }] }).put (CORE_YOKE_SEG_ACTIVE n) 0
  else s.putCore n fun c => { c with issue := some { g with rows := rest } }

/-- A row of the segment is counted and its segment shown. -/
def State.rowCounted (s : State) (n num : Nat) : State := (s.count (CORE_YOKE_ROWS_COUNT n) 1).put (CORE_YOKE_SEG_SEG n) num

section
variable {n hold took : Nat} {issue : Bool} {g : Seg} {r : YRow} {rest : List YRow} {s t u v w x : State}

theorem gives_yokeCycle_of_row (first : Gives (each [0, 1, 2, 3] (yokeGive n true)) s () u) (hi : (theCore u n).issue = some g)
    (hr : g.rows = r :: rest) (takes : Gives (takeAll n hold [0, 1, 2, 3] (512 - operandBytes g.fmt)) u took v)
    (attaches : Gives (each [0, 1, 2, 3] fun k => attach (4 * n + k)) v () w)
    (places : Gives (each (oxenOfMask u n g.mask) fun k => placeRow n hold took k r) (w.rowCounted n g.num) () x)
    (ends : Gives (yokeEnd n hold) (x.rowIssued n g rest) () t) : Gives (yokeCycle n true hold) s () t := fun k => by
  refine Eq.trans ?_ (ends k)
  simp only [yokeCycle, run_bind]
  refine (first _).trans ?_
  simp only [run_bind, run_getS, hi, hr, if_true]
  refine (takes _).trans ?_
  simp only [run_bind]
  refine (attaches _).trans ?_
  simp only [run_bind, run_bump, run_setFld]
  refine (places _).trans ?_
  unfold State.rowIssued
  by_cases h : rest = []
  · simp only [h, if_true, run_bind, run_modCore, run_setFld, yokeEnd]
  · simp only [h, if_false, run_bind, run_modCore, yokeEnd]

theorem gives_yokeCycle_of_none (first : Gives (each [0, 1, 2, 3] (yokeGive n issue)) s () u)
    (hi : issue = false ∨ (theCore u n).issue = none) (takes : Gives (takeAll n hold [0, 1, 2, 3] 512) u took v)
    (attaches : Gives (each [0, 1, 2, 3] fun k => attach (4 * n + k)) v () w) (ends : Gives (yokeEnd n hold) w () t) :
    Gives (yokeCycle n issue hold) s () t := fun k => by
  have no : (if issue = true then (theCore u n).issue else none) = none := by
    rcases hi with rfl | hi
    · rfl
    · rw [hi, ite_self]
  refine Eq.trans ?_ (ends k)
  simp only [yokeCycle, run_bind]
  refine (first _).trans ?_
  simp only [run_bind, run_getS, no]
  refine (takes _).trans ?_
  simp only [run_bind]
  refine (attaches _).trans ?_
  simp only [run_bind, yokeEnd]

end

/-! ## What a cycle keeps of the segments -/

section
variable {n hold k : Nat} {issue : Bool} {g : Seg} {r : YRow} {rest : List YRow} {s : State}

theorem oxCore_of_lt (h : k < 4) : oxCore (4 * n + k) = n := by unfold oxCore; omega

theorem lt_four_of_mem (h : k ∈ [0, 1, 2, 3]) : k < 4 := List.mem_range.mp h

theorem within_yokeGive (h : k < 4) : Within (yokeRel n) (yokeGive n issue k) :=
  Within.getS.bind fun _ => ((within_giveRow (oxCore_of_lt h)).when').bind fun _ => within_topCheck (oxCore_of_lt h) issue

theorem within_yokeGives : Within (yokeRel n) (each [0, 1, 2, 3] (yokeGive n issue)) :=
  Within.each fun _ hk => within_yokeGive (lt_four_of_mem hk)

theorem within_takeAll (spare : Nat) : Within (yokeRel n) (takeAll n hold [0, 1, 2, 3] spare) :=
  .of_keep (keep_takeAll ..) (yokeRel_of (by decide))

theorem within_attaches : Within (yokeRel n) (each [0, 1, 2, 3] fun k => attach (4 * n + k)) :=
  Within.each fun _ _ => .of_keep (keep_attach _) (yokeRel_of (by decide))

theorem within_placeRows {ks : List Nat} {took : Nat} : Within (yokeRel n) (each ks fun k => placeRow n hold took k r) :=
  Within.each fun _ _ => .of_keep (keep_placeRow ..) (yokeRel_of (by decide))

theorem within_yokeEnd : Within (yokeRel n) (yokeEnd n hold) := by
  have past (s : State) : Within (yokeRel n) (modCore n fun c => { c with past := keepPast s n c.past }) :=
    within_modCore fun _ => ⟨rfl, rfl, rfl, rfl⟩
  refine Within.getS.bind fun s => ((past s).when').bind fun _ => Within.each fun k _ => ?_
  exact (Within.of_keep (keep_noteHold ..) (yokeRel_of (by decide))).bind fun _ => .of_keep (keep_noteLag ..) (yokeRel_of (by decide))

/-- With no row to issue, a cycle keeps the segments of its core and every other core. -/
theorem gives_yokeCycle_kept (h : issue = false ∨ (theCore s n).issue = none) :
    ∃ t, YokeKept n s t ∧ Gives (yokeCycle n issue hold) s () t := by
  obtain ⟨_, u, hu, first⟩ := within_yokeGives (n := n) (issue := issue) s
  obtain ⟨_, v, hv, takes⟩ := within_takeAll (n := n) (hold := hold) 512 u
  obtain ⟨_, w, hw, attaches⟩ := within_attaches (n := n) v
  obtain ⟨_, t, ht, ends⟩ := within_yokeEnd (n := n) (hold := hold) w
  have none_issued : issue = false ∨ (theCore u n).issue = none := h.imp_right fun h => hu.issue.trans h
  exact ⟨t, YokeKept.trans (YokeKept.trans (YokeKept.trans hu hv) hw) ht, gives_yokeCycle_of_none first none_issued takes attaches ends⟩

theorem rowIssued_issue (x : State) :
    (theCore (x.rowIssued n g rest) n).issue = if rest = [] then none else some { g with rows := rest } := by
  unfold State.rowIssued
  split
  · rw [theCore_put, theCore_putCore_same]
  · rw [theCore_putCore_same]

theorem rowIssued_segs (x : State) : (theCore (x.rowIssued n g rest) n).segs = (theCore x n).segs := by
  unfold State.rowIssued
  split
  · rw [theCore_put, theCore_putCore_same]
  · rw [theCore_putCore_same]

theorem theCore_rowIssued_ne (x : State) {m : Nat} (h : m ≠ n) : theCore (x.rowIssued n g rest) m = theCore x m := by
  unfold State.rowIssued
  split
  · rw [theCore_put, theCore_putCore, if_neg h]
  · rw [theCore_putCore, if_neg h]

/-- A row issue takes the segment's first row, keeps the segments that wait and every other core. -/
theorem gives_yokeCycle_issued (hi : (theCore s n).issue = some g) (hr : g.rows = r :: rest) : ∃ t,
    Gives (yokeCycle n true hold) s () t ∧ (theCore t n).issue = (if rest = [] then none else some { g with rows := rest })
      ∧ (theCore t n).segs = (theCore s n).segs ∧ ∀ m, m ≠ n → theCore t m = theCore s m := by
  obtain ⟨_, u, hu, first⟩ := within_yokeGives (n := n) (issue := true) s
  obtain ⟨took, v, hv, takes⟩ := within_takeAll (n := n) (hold := hold) (512 - operandBytes g.fmt) u
  obtain ⟨_, w, hw, attaches⟩ := within_attaches (n := n) v
  obtain ⟨_, x, hx, places⟩ := within_placeRows (n := n) (hold := hold) (r := r) (ks := oxenOfMask u n g.mask) (took := took)
    (w.rowCounted n g.num)
  obtain ⟨_, t, ht, ends⟩ := within_yokeEnd (n := n) (hold := hold) (x.rowIssued n g rest)
  have counted : YokeKept n w (w.rowCounted n g.num) := .of_cores (by rw [State.rowCounted, put_cores, count_cores])
  have kept : YokeKept n s x := YokeKept.trans (YokeKept.trans (YokeKept.trans (YokeKept.trans hu hv) hw) counted) hx
  refine ⟨t, gives_yokeCycle_of_row first (hu.issue.trans hi) hr takes attaches places ends, ?_, ?_, fun m hm => ?_⟩
  · rw [ht.issue, rowIssued_issue]
  · rw [ht.segs, rowIssued_segs, kept.segs]
  · rw [ht.cores m hm, theCore_rowIssued_ne x hm, kept.cores m hm]

end

/-! ## A row that meets no lag -/

/-- The stationary and top operands' banks of a core answer as they did. -/
def BanksKept (n : Nat) (s t : State) : Prop := ∀ b < 4, bankGate t n b = bankGate s n b

/-- What a row does to an Ox that lags by none: taken at once, or held alone in the side buffer (R82). -/
def Placed (s : State) (o : Nat) (r : YRow) (y : Ox) : Prop :=
  (takes s o r = true → y.lag = [] ∧ y.run.map RunPass.taken = (theOx s o).run.map fun p => p.taken + 1)
    ∧ (takes s o r = false → y.lag = [⟨r, true⟩] ∧ y.run = (theOx s o).run)

/-- An Ox that neither lags nor is held, whose column links have room and whose top operand's banks are on. -/
structure InStep (s : State) (n hold k : Nat) : Prop where
  lag : (theOx s (4 * n + k)).lag = []
  detached : (theOx s (4 * n + k)).detached = false
  hold : bit hold k = false
  behind : behind (theOx s (4 * n + k)) ≤ 128
  top : ∀ p, (theOx s (4 * n + k)).run = some p → mode p.d = 1 → banksGate s n ((topBanks p).map Prod.fst) = .on

section
variable {n hold took k o : Nat} {ks : List Nat} {issue : Bool} {g : Seg} {r : YRow} {rest : List YRow} {p : RunPass} {s t u : State}

theorem BanksKept.of_regs (hr : t.regs = s.regs) (hp : t.part = s.part) : BanksKept n s t := fun b _ => by
  have field (f : Fld) : fv t f = fv s f := by simp only [fv, rg, hr, hp]
  unfold bankGate
  rw [field, field]

theorem BanksKept.trans (h : BanksKept n s t) (h' : BanksKept n t u) : BanksKept n s u := fun b hb => (h' b hb).trans (h b hb)

/-- The registers of the Yoke stand below those of its core's banks. -/
theorem BanksKept.put {f : Fld} (h : f.addr < CORE_HPWR n 0) (v : Nat) : BanksKept n s (s.put f v) := fun b hb => by
  have apart : bankReg n b ≠ f.addr := by
    rw [bankReg, if_pos hb]
    simp only [CORE_HPWR] at h ⊢
    omega
  simp only [bankGate, fv_put_ne _ f (bankTarget n b) _ apart, fv_put_ne _ f (bankState n b) _ apart]

theorem BanksKept.count {f : Fld} (h : f.addr < CORE_HPWR n 0) (m : Nat) : BanksKept n s (s.count f m) := .put h _

theorem BanksKept.putOx (i : Nat) (f : Ox → Ox) : BanksKept n s (s.putOx i f) := .of_regs (putOx_regs ..) (putOx_part ..)

theorem topBanks_lt (p : RunPass) : ∀ b ∈ (topBanks p).map Prod.fst, b < 4 := by
  have small (w lo : Nat) : bits w lo 2 < 4 := Nat.mod_lt _ (by decide)
  unfold topBanks
  split <;> simp [sBank, cBank, small]

theorem banksGate_congr {bs : List Nat} (h : ∀ b ∈ bs, bankGate t n b = bankGate s n b) : banksGate t n bs = banksGate s n bs := by
  have any (x : BankGate) : (bs.any fun b => bankGate t n b = x) = bs.any fun b => bankGate s n b = x := by
    rw [Bool.eq_iff_iff, List.any_eq_true, List.any_eq_true]
    exact exists_congr fun b => and_congr_right fun hb => by rw [h b hb]
  simp only [banksGate, any]

theorem banksGate_top (h : BanksKept n s t) (p : RunPass) :
    banksGate t n ((topBanks p).map Prod.fst) = banksGate s n ((topBanks p).map Prod.fst) :=
  banksGate_congr fun b hb => h b (topBanks_lt p b hb)

theorem takes_congr (ho : oxCore o = n) (hx : theOx t o = theOx s o) (h : BanksKept n s t) (r : YRow) : takes t o r = takes s o r := by
  simp only [takes, hx, ho, banksGate_top h]

theorem Placed.of_same {y : Ox} (ho : oxCore o = n) (hx : theOx t o = theOx s o) (h : BanksKept n s t) (hy : Placed t o r y) :
    Placed s o r y := by
  simpa only [Placed, takes_congr ho hx h, hx] using hy

theorem InStep.of_same (hx : theOx t (4 * n + k) = theOx s (4 * n + k)) (h : BanksKept n s t) (hq : InStep s n hold k) :
    InStep t n hold k := by
  obtain ⟨lag, detached, held, behind, top⟩ := hq
  refine ⟨by rw [hx, lag], by rw [hx, detached], held, by rwa [hx], fun p hp hm => ?_⟩
  rw [banksGate_top h, top p (hx ▸ hp) hm]

/-! ### The start of the cycle -/

theorem gives_topGate_of_on (ho : oxCore o = n) (hm : mode p.d = 1) (top : banksGate s n ((topBanks p).map Prod.fst) = .on) :
    Gives (topGate o p) s true (s.bankFreed n (24 + oxIdx o)) := fun k => by
  simp only [topGate, run_bind, run_getS, ho, hm, top, bne_self_eq_false, Bool.false_eq_true, if_false, run_bankFree, run_pure]

/-- A top operand whose banks are on leaves only its core's waits changed. -/
theorem gives_topCheck_of_on (ho : oxCore o = n)
    (top : ∀ p, (theOx s o).run = some p → mode p.d = 1 → banksGate s n ((topBanks p).map Prod.fst) = .on) :
    Gives (topCheck o issue) s () s ∨ Gives (topCheck o issue) s () (s.bankFreed n (24 + oxIdx o)) := by
  cases hr : (theOx s o).run with
  | none => exact .inl fun k => by simp only [topCheck, run_bind, run_getS, hr, run_pure]
  | some p =>
    by_cases hc : (decide (mode p.d = 1) && decide (p.taken < rows p.d) && (issue || (theOx s o).lag != [])) = true
    · have hm : mode p.d = 1 := by simp only [Bool.and_eq_true, decide_eq_true_eq] at hc; exact hc.1.1
      have gate := gives_topGate_of_on ho hm (top p hr hm)
      exact .inr fun k => by simp only [topCheck, run_bind, run_getS, hr, hc, run_when'_true, gate _, run_pure]
    · exact .inl fun k => by simp only [topCheck, run_bind, run_getS, hr, hc, run_when'_false]

theorem gives_yokeGive_of_inStep (hk : k < 4) (h : InStep s n hold k) :
    ∃ t, SameBut 0x800 s t ∧ YokeKept n s t ∧ Gives (yokeGive n issue k) s () t := by
  have quiet : decide (128 < behind (theOx s (4 * n + k))) = false := decide_eq_false (Nat.not_lt.mpr h.behind)
  have check {u : State} (hu : Gives (topCheck (4 * n + k) issue) s () u) : Gives (yokeGive n issue k) s () u := fun q => by
    simp only [yokeGive, run_bind, run_getS, quiet, run_when'_false, hu q]
  rcases gives_topCheck_of_on (issue := issue) (oxCore_of_lt hk) h.top with hu | hu
  · exact ⟨s, SameBut.refl _ s, .of_cores rfl, check hu⟩
  · refine ⟨_, bankFreed_sameBut .., ?_, check hu⟩
    obtain ⟨_, t, ht, hg⟩ := within_bankFree (n := n) (24 + oxIdx (4 * n + k)) s
    rwa [hg.unique (fun q => run_bankFree ..)] at ht

theorem gives_yokeGives_of_inStep (hks : ∀ k ∈ ks, k < 4) (h : ∀ k < 4, InStep s n hold k) :
    ∃ t, SameBut 0x800 s t ∧ YokeKept n s t ∧ Gives (each ks (yokeGive n issue)) s () t := by
  induction ks generalizing s with
  | nil => exact ⟨s, SameBut.refl _ s, .of_cores rfl, fun _ => rfl⟩
  | cons k ks ih =>
    have hk := hks k List.mem_cons_self
    obtain ⟨t, ht, kept, one⟩ := gives_yokeGive_of_inStep (issue := issue) hk (h k hk)
    have banks : BanksKept n s t := .of_regs (ht.at .regs (by decide)) ht.2.1
    obtain ⟨u, hu, kept', all⟩ := ih (fun j hj => hks j (List.mem_cons_of_mem k hj))
      fun j hj => (h j hj).of_same (theOx_congr (ht.at .oxen (by decide)) _) banks
    exact ⟨u, ht.trans hu, kept.trans kept', one.bind all⟩

theorem gives_takeAll_of_inStep {spare : Nat} (h : ∀ k ∈ ks, InStep s n hold k) : Gives (takeAll n hold ks spare) s 0 s := by
  induction ks generalizing spare with
  | nil => exact fun _ => rfl
  | cons k ks ih =>
    obtain ⟨lag, _, held, _, _⟩ := h k List.mem_cons_self
    have rest := ih (spare := spare) fun j hj => h j (List.mem_cons_of_mem k hj)
    intro q
    simp [takeAll, takeOld, held, lag, rest _, b2n]

theorem gives_attaches_of_inStep (h : ∀ k ∈ ks, InStep s n hold k) : Gives (each ks fun k => attach (4 * n + k)) s () s :=
  gives_each_of_stays fun k hk => by
    have := gives_attach (o := 4 * n + k) (s := s)
    rwa [if_neg (by simp [(h k hk).detached])] at this

/-! ### The placing of the row -/

/-- A pass once it has taken a row: in OS the row's products are in its cells (R71), else the row's results are formed (R65). -/
def RunPass.withRow (p : RunPass) (s : State) (o : Nat) (r : YRow) : RunPass :=
  let ys := yVals (fmtY p.d) r
  if mode p.d = 1 then { p with taken := p.taken + 1, sums := osAdd p.sums ys (statRow s (oxCore o) p.d p.taken) (ka p.d) (na p.d) }
  else { p with taken := p.taken + 1, out := p.out ++ [⟨r.tag, (List.range (na p.d)).map (colSum ys (theOx s o).live (ka p.d))⟩] }

theorem withRow_taken : (p.withRow s o r).taken = p.taken + 1 := by
  unfold RunPass.withRow
  split <;> rfl

theorem gives_takeRow_of_run (hp : (theOx s o).run = some p) :
    Gives (takeRow o r) s () (s.putOx o fun x => { x with run := some (p.withRow s o r) }) := fun k => by
  by_cases hm : mode p.d = 1 <;>
    simp only [takeRow, RunPass.withRow, run_bind, run_getS, hp, hm, if_true, if_false, run_modOx]

theorem run_of_takes (h : takes s o r = true) : ∃ p, (theOx s o).run = some p := by
  cases hr : (theOx s o).run with
  | none => simp [takes, hr] at h
  | some p => exact ⟨p, rfl⟩

/-- One participant takes the row or holds it; its banks and the other Oxen stay as they were. -/
theorem gives_placeRow_of_inStep (ht : bit took k = false) (h : InStep s n hold k) :
    ∃ t, BanksKept n s t ∧ (∀ i, i ≠ 4 * n + k → theOx t i = theOx s i) ∧ Placed s (4 * n + k) r (theOx t (4 * n + k))
      ∧ Gives (placeRow n hold took k r) s () t := by
  obtain ⟨lag, attached, held, _, _⟩ := h
  have none_side : sideRows (theOx s (4 * n + k)) = 0 := by simp [sideRows, lag]
  have none_lag : lagOf (theOx s (4 * n + k)) = 0 := by simp [lagOf, lag]
  cases hr : takes s (4 * n + k) r with
  | true =>
    obtain ⟨p, hp⟩ := run_of_takes hr
    have row := gives_takeRow_of_run (r := r) hp
    refine ⟨s.putOx (4 * n + k) fun x => { x with run := some (p.withRow s (4 * n + k) r) }, .putOx _ _, fun i hi => ?_,
      ⟨fun _ => ⟨?_, ?_⟩, fun hf => ?_⟩, fun q => ?_⟩
    · rw [theOx_putOx, if_neg hi]
    · rw [theOx_putOx_same, lag]
    · simp [hp, withRow_taken]
    · exact nomatch hr.symm.trans hf
    · simp [placeRow, attached, none_lag, ht, held, hr, row _]
  | false =>
    refine ⟨(s.count (CORE_YOKE_SIDEBUF_ROWS_COUNT n) 1).putOx (4 * n + k) fun x => { x with lag := x.lag ++ [⟨r, true⟩] },
      (BanksKept.count ?_ 1).trans (.putOx _ _), fun i hi => ?_, ⟨fun hf => ?_, fun _ => ⟨?_, ?_⟩⟩, fun q => ?_⟩
    · simp only [CORE_YOKE_SIDEBUF_ROWS_COUNT, CORE_YOKE_SIDEBUF_ROWS, CORE_HPWR]; omega
    · rw [theOx_putOx, if_neg hi, theOx_count]
    · exact nomatch hr.symm.trans hf
    · simp [lag]
    · simp
    · simp [placeRow, attached, none_side, hr]

theorem gives_placeRows_of_inStep (ht : ∀ k ∈ ks, bit took k = false) (hks : ∀ k ∈ ks, k < 4) (distinct : ks.Nodup)
    (h : ∀ k ∈ ks, InStep s n hold k) : ∃ t, (∀ i, (∀ k ∈ ks, i ≠ 4 * n + k) → theOx t i = theOx s i)
      ∧ (∀ k ∈ ks, Placed s (4 * n + k) r (theOx t (4 * n + k))) ∧ Gives (each ks fun k => placeRow n hold took k r) s () t := by
  induction ks generalizing s with
  | nil => exact ⟨s, fun _ _ => rfl, fun _ hk => absurd hk List.not_mem_nil, fun _ => rfl⟩
  | cons k ks ih =>
    obtain ⟨absent, distinct⟩ := List.nodup_cons.mp distinct
    obtain ⟨t, banks, others, here, one⟩ := gives_placeRow_of_inStep (r := r) (ht k List.mem_cons_self) (h k List.mem_cons_self)
    have apart : ∀ j ∈ ks, 4 * n + j ≠ 4 * n + k := fun j hj e => absent (Nat.add_left_cancel e ▸ hj)
    obtain ⟨u, others', there, all⟩ := ih (s := t) (fun j hj => ht j (List.mem_cons_of_mem k hj))
      (fun j hj => hks j (List.mem_cons_of_mem k hj)) distinct
      fun j hj => (h j (List.mem_cons_of_mem k hj)).of_same (others _ (apart j hj)) banks
    refine ⟨u, fun i hi => ?_, fun j hj => ?_, one.bind all⟩
    · rw [others' i fun j hj => hi j (List.mem_cons_of_mem k hj), others i (hi k List.mem_cons_self)]
    · rcases List.mem_cons.mp hj with rfl | hj'
      · rwa [others' _ fun i hi e => apart i hi e.symm]
      · exact .of_same (oxCore_of_lt (hks j hj)) (others _ (apart j hj')) banks (there j hj')

/-! ### The end of the cycle -/

/-- Every Ox's rows and running pass are as they were. -/
def rowsRel : Rel where
  r s t := ∀ o, (theOx t o).lag = (theOx s o).lag ∧ (theOx t o).run = (theOx s o).run
  refl _ _ := ⟨rfl, rfl⟩
  trans _ _ _ h h' o := ⟨(h' o).1.trans (h o).1, (h' o).2.trans (h o).2⟩

theorem rowsRel_of {mask : Nat} (h : mask.testBit 10 = false) : rowsRel.of mask := fun p hp s o => by
  rw [theOx_congr ((p.same mask hp s).at .oxen h) o]
  exact ⟨rfl, rfl⟩

theorem within_noteHold : Within rowsRel (noteHold o hold) := by
  have count (f : Fld) : Within rowsRel (bump f) := .of_keep (keep_bump f) (rowsRel_of (by decide))
  have flag (b : Bool) : Within rowsRel (modOx o fun x => { x with holding := b }) := fun s =>
    ⟨(), s.putOx o fun x => { x with holding := b }, fun i => by rw [theOx_putOx]; split <;> simp_all, fun _ => rfl⟩
  unfold noteHold
  refine Within.getS.bind fun s => ?_
  dsimp only
  refine Within.ite ((count _).bind fun _ => ((count _).when').bind fun _ => ?_) ?_ <;> exact (flag _).when'

theorem within_yokeEnd_rows : Within rowsRel (yokeEnd n hold) := by
  have past (f : CoreSt → CoreSt) : Within rowsRel (modCore n f) := .of_keep (keep_modCore ..) (rowsRel_of (by decide))
  refine Within.getS.bind fun s => ((past _).when').bind fun _ => Within.each fun k _ => ?_
  exact within_noteHold.bind fun _ => .of_keep (keep_noteLag ..) (rowsRel_of (by decide))

/-! ### The cycle -/

theorem BanksKept.rowCounted (num : Nat) : BanksKept n s (s.rowCounted n num) := by
  refine (BanksKept.count ?_ 1).trans (.put ?_ num)
  · simp only [CORE_YOKE_ROWS_COUNT, CORE_YOKE_ROWS, CORE_HPWR]; omega
  · simp only [CORE_YOKE_SEG_SEG, CORE_YOKE_SEG, CORE_HPWR]; omega

theorem theOx_rowCounted (num i : Nat) : theOx (s.rowCounted n num) i = theOx s i := by
  rw [State.rowCounted, theOx_put, theOx_count]

theorem theOx_rowIssued (i : Nat) : theOx (s.rowIssued n g rest) i = theOx s i := by
  unfold State.rowIssued
  split
  · rw [theOx_put, theOx_putCore]
  · rw [theOx_putCore]

theorem slotOxen_sublist (m : Nat) : (slotOxen m).Sublist [0, 1, 2, 3] := by
  unfold slotOxen
  split_ifs <;> decide

/-- The Oxen that a mask names are some of the core's four, each once. -/
theorem oxenOfMask_sublist (mask : Nat) : (oxenOfMask s n mask).Sublist [0, 1, 2, 3] := by
  unfold oxenOfMask
  refine (List.filter_sublist.trans ((List.filter_sublist.map _).trans ?_)).trans (slotOxen_sublist (slotMode s n))
  rw [List.zipIdx_map_fst]

/-- A row issued to Oxen that do not lag is taken by each participant at once, or is all that it lags by (R82, R83). -/
theorem gives_yokeCycle_inStep (hi : (theCore s n).issue = some g) (hr : g.rows = r :: rest) (h : ∀ k < 4, InStep s n hold k) :
    ∃ t, Gives (yokeCycle n true hold) s () t ∧ ∀ k ∈ oxenOfMask s n g.mask, Placed s (4 * n + k) r (theOx t (4 * n + k)) := by
  have four : ∀ k ∈ [0, 1, 2, 3], k < 4 := fun k hk => lt_four_of_mem hk
  obtain ⟨u, hu, kept, first⟩ := gives_yokeGives_of_inStep (issue := true) four h
  have banks : BanksKept n s u := .of_regs (hu.at .regs (by decide)) hu.2.1
  have oxen (o : Nat) : theOx u o = theOx s o := theOx_congr (hu.at .oxen (by decide)) o
  have still : ∀ k < 4, InStep u n hold k := fun k hk => (h k hk).of_same (oxen _) banks
  have takes := gives_takeAll_of_inStep (spare := 512 - operandBytes g.fmt) fun k hk => still k (four k hk)
  have attaches := gives_attaches_of_inStep fun k hk => still k (four k hk)
  have mask : oxenOfMask u n g.mask = oxenOfMask s n g.mask := oxenOfMask_congr kept.fence kept.modeF _
  have among := oxenOfMask_sublist (s := u) (n := n) g.mask
  obtain ⟨x, _, placed, places⟩ := gives_placeRows_of_inStep (s := u.rowCounted n g.num) (r := r) (took := 0) (hold := hold)
    (ks := oxenOfMask u n g.mask) (fun k _ => by simp [bit]) (fun k hk => four k (among.subset hk)) (among.nodup (by decide))
    fun k hk => (still k (four k (among.subset hk))).of_same (theOx_rowCounted ..) (.rowCounted _)
  obtain ⟨_, t, ht, ends⟩ := within_yokeEnd_rows (n := n) (hold := hold) (x.rowIssued n g rest)
  refine ⟨t, gives_yokeCycle_of_row first (kept.issue.trans hi) hr takes attaches places ends, fun k hk => ?_⟩
  rw [← mask] at hk
  have hk4 := four k (among.subset hk)
  have same : Placed s (4 * n + k) r (theOx x (4 * n + k)) :=
    .of_same (oxCore_of_lt hk4) ((theOx_rowCounted ..).trans (oxen _)) (banks.trans (.rowCounted _)) (placed k hk)
  obtain ⟨lag, run⟩ := ht (4 * n + k)
  simpa only [Placed, lag, run, theOx_rowIssued] using same

end

/-- Settles O20: what the cycle keeps of the cores, and the row placed where no Ox lags. -/
theorem yokeRowsReachEveryParticipant : Obligations.YokeRowsReachEveryParticipant := by
  refine ⟨fun core hold s g r rest hi hr => ?_, fun core issue hold s h => ?_⟩
  · obtain ⟨t, cycle, issued, segs, cores⟩ := gives_yokeCycle_issued (hold := hold) hi hr
    refine ⟨t, Gives.runM_eq cycle, issued, segs, cores, fun quiet k _ => ?_⟩
    intro x y part
    have inStep : ∀ k < 4, InStep s core hold k := fun k hk =>
      let ⟨lag, attached, held, room, top⟩ := quiet k hk
      ⟨lag, attached, held, room, top⟩
    obtain ⟨u, cycle', placed⟩ := gives_yokeCycle_inStep hi hr inStep
    obtain rfl := cycle.unique cycle'
    exact placed k (List.contains_iff_mem.mp part)
  · obtain ⟨t, kept, cycle⟩ := gives_yokeCycle_kept (hold := hold) h
    exact ⟨t, Gives.runM_eq cycle, kept.issue, kept.segs, kept.cores⟩

end Sys2Proof.Machine
end

section
/-!
The column adder (03_number_formats.md, R110, R111): one of its two operands is exact on the guard grid 2^(L - 28), so the sum of
the two floors, halved with a floor, is the floor of the exact sum.
-/

namespace Sys2Proof.Machine

/-! ## Leads and shifts -/

/-- A shift to the left loses nothing. -/
theorem floorShift_exact {x k : ℤ} (h : k ≤ 0) : (floorShift x k : ℚ) = x / 2 ^ k := by
  obtain ⟨n, hn⟩ := Int.eq_ofNat_of_zero_le (neg_nonneg.mpr h)
  rw [floorShift, if_pos h, div_eq_mul_inv, ← zpow_neg, hn]; push_cast; rfl

/-- A shift by `k` places is the floor of the exact quotient. -/
theorem floorShift_eq_floor (x k : ℤ) : floorShift x k = ⌊(x : ℚ) / 2 ^ k⌋ := by
  rcases le_or_gt k 0 with left | right
  · rw [← floorShift_exact left, Int.floor_intCast]
  · lift k to ℕ using right.le
    have quotient := Rat.floor_intCast_div_natCast x (2 ^ k)
    push_cast at quotient
    rw [floorShift, if_neg right.not_ge, Int.toNat_natCast, zpow_natCast, quotient]

theorem leadI_lt {x : ℤ} {n : ℕ} (hx : x ≠ 0) (h : x.natAbs < 2 ^ n) : leadI x < n := by
  have := (Nat.log2_lt (Int.natAbs_ne_zero.mpr hx)).mpr h
  unfold leadI; omega

/-- A value of `n` bits whose lead is at most `l` is at most the largest one of `n` bits whose lead is `l`. -/
theorem abs_le_of_lead {x e l : ℤ} {n : ℕ} (hb : x.natAbs < 2 ^ n) (h : x ≠ 0 → leadI x + e ≤ l) :
    |(x : ℚ) * 2 ^ e| ≤ (2 ^ n - 1) * 2 ^ (l + 1 - n) := by
  have digits : (1 : ℚ) ≤ 2 ^ n := one_le_pow₀ one_le_two
  rcases eq_or_ne x 0 with rfl | hx
  · simp only [Int.cast_zero, zero_mul, abs_zero]
    exact mul_nonneg (sub_nonneg.mpr digits) (by positivity)
  obtain ⟨j, hj⟩ := Nat.exists_eq_add_of_le (Nat.succ_le_of_lt ((Nat.log2_lt (Int.natAbs_ne_zero.mpr hx)).mpr hb))
  have widened : x.natAbs * 2 ^ j ≤ 2 ^ n - 1 := by
    have top := Nat.mul_le_mul_right (2 ^ j) (Nat.succ_le_of_lt (Nat.lt_log2_self (n := x.natAbs)))
    rw [← pow_add, ← Nat.succ_eq_add_one (Nat.log2 _), ← hj, Nat.succ_mul] at top
    have := Nat.two_pow_pos j
    omega
  have place : e ≤ j + (l + 1 - n) := by have := h hx; unfold leadI at this; omega
  calc |(x : ℚ) * 2 ^ e| = x.natAbs * 2 ^ e := by
        rw [abs_mul, abs_of_pos (by positivity : (0 : ℚ) < 2 ^ e), Nat.cast_natAbs, Int.cast_abs]
    _ ≤ x.natAbs * 2 ^ (j + (l + 1 - n)) := by gcongr; exact one_le_two
    _ = (x.natAbs * 2 ^ j : ℕ) * 2 ^ (l + 1 - n) := by
        rw [zpow_add₀ two_ne_zero, zpow_natCast, ← mul_assoc]; push_cast; rfl
    _ ≤ (2 ^ n - 1 : ℕ) * 2 ^ (l + 1 - n) := by gcongr
    _ = (2 ^ n - 1) * 2 ^ (l + 1 - n) := by push_cast [Nat.one_le_two_pow]; rfl

/-! ## The sum -/

/-- The largest lead among a register's finite part and a term, omitting whichever is zero (R110). -/
def sumLead (c : Col) (q e : ℤ) : ℤ :=
  if c.a = 0 then leadI q + e else if q = 0 then leadI c.a + c.u else max (leadI q + e) (leadI c.a + c.u)

section
variable {c : Col} {q e : ℤ}

theorem addFinite_of_nonzero (h : q ≠ 0 ∨ c.a ≠ 0) : addFinite c q e = { c with
    a := (floorShift c.a (sumLead c q e - 28 - c.u) + floorShift q (sumLead c q e - 28 - e)) / 2
    u := sumLead c q e - 28 + 1 } := if_neg (by tauto)

theorem lead_term_le_sumLead (hq : q ≠ 0) : leadI q + e ≤ sumLead c q e := by
  unfold sumLead
  split_ifs
  · exact le_rfl
  · exact le_max_left ..

theorem lead_register_le_sumLead (ha : c.a ≠ 0) : leadI c.a + c.u ≤ sumLead c q e := by
  rw [sumLead, if_neg ha]
  split_ifs
  · exact le_rfl
  · exact le_max_right ..

theorem sumLead_cases (h : q ≠ 0 ∨ c.a ≠ 0) :
    (q ≠ 0 ∧ sumLead c q e = leadI q + e) ∨ (c.a ≠ 0 ∧ sumLead c q e = leadI c.a + c.u) := by
  unfold sumLead
  split_ifs with ha hq
  · exact .inl ⟨h.resolve_right (not_not.mpr ha), rfl⟩
  · exact .inr ⟨ha, rfl⟩
  · exact (max_choice _ _).imp (⟨hq, ·⟩) (⟨ha, ·⟩)

/-- The operand with the larger lead is exact on the guard grid, so the two floors add up to the floor of the sum. -/
theorem floorShift_add_eq_floor (ha : c.a.natAbs < 2 ^ 29) (hq : q.natAbs < 2 ^ 22) (h : q ≠ 0 ∨ c.a ≠ 0) :
    floorShift c.a (sumLead c q e - 28 - c.u) + floorShift q (sumLead c q e - 28 - e)
      = ⌊((c.a : ℚ) * 2 ^ c.u + q * 2 ^ e) / 2 ^ (sumLead c q e - 28)⌋ := by
  have onGrid (x k : ℤ) : (x : ℚ) * 2 ^ k / 2 ^ (sumLead c q e - 28) = x / 2 ^ (sumLead c q e - 28 - k) := by
    rw [zpow_sub₀ two_ne_zero _ k]; field_simp
  rw [add_div, onGrid, onGrid]
  obtain ⟨hq0, hl⟩ | ⟨ha0, hl⟩ := sumLead_cases (e := e) h
  · have lead := leadI_lt hq0 hq
    rw [← floorShift_exact (x := q) (by omega), Int.floor_add_intCast, ← floorShift_eq_floor]
  · have lead := leadI_lt ha0 ha
    rw [← floorShift_exact (x := c.a) (by omega), Int.floor_intCast_add, ← floorShift_eq_floor]

/-- R110: the new finite part is the floor of the exact sum on the unit 2^(L - 27). -/
theorem addFinite_a (ha : c.a.natAbs < 2 ^ 29) (hq : q.natAbs < 2 ^ 22) (h : q ≠ 0 ∨ c.a ≠ 0) :
    (addFinite c q e).a = ⌊((c.a : ℚ) * 2 ^ c.u + q * 2 ^ e) / 2 ^ (sumLead c q e - 27)⌋ := by
  have halve : (2 : ℚ) ^ (sumLead c q e - 27) = 2 ^ (sumLead c q e - 28) * (2 : ℕ) := by
    rw [show sumLead c q e - 27 = sumLead c q e - 28 + 1 by ring, zpow_add_one₀ two_ne_zero]; rfl
  rw [addFinite_of_nonzero h, floorShift_add_eq_floor ha hq h, halve, ← div_div, Int.floor_div_natCast]; rfl

/-- The exact sum stays a unit of 2^(L - 27) inside 29 bits: a term of 22 bits leaves room for the floor. -/
theorem abs_exact_sum_lt (ha : c.a.natAbs < 2 ^ 29) (hq : q.natAbs < 2 ^ 22) :
    |((c.a : ℚ) * 2 ^ c.u + q * 2 ^ e) / 2 ^ (sumLead c q e - 27)| < 2 ^ 29 - 1 := by
  have unit : (0 : ℚ) < 2 ^ (sumLead c q e - 27) := by positivity
  have units (k : ℤ) : (2 : ℚ) ^ (sumLead c q e - 27 + k) = 2 ^ (sumLead c q e - 27) * 2 ^ k := zpow_add₀ two_ne_zero _ _
  have register := abs_le_of_lead ha (lead_register_le_sumLead (c := c) (q := q) (e := e))
  have term := abs_le_of_lead hq (lead_term_le_sumLead (c := c) (q := q) (e := e))
  rw [show sumLead c q e + 1 - (29 : ℕ) = sumLead c q e - 27 + (-1) by push_cast; ring, units] at register
  rw [show sumLead c q e + 1 - (22 : ℕ) = sumLead c q e - 27 + 6 by push_cast; ring, units] at term
  rw [abs_div, abs_of_pos unit, div_lt_iff₀ unit]
  calc |(c.a : ℚ) * 2 ^ c.u + q * 2 ^ e| ≤ |(c.a : ℚ) * 2 ^ c.u| + |(q : ℚ) * 2 ^ e| := abs_add_le _ _
    _ ≤ (2 ^ 29 - 1) * (2 ^ (sumLead c q e - 27) * 2 ^ (-1 : ℤ)) + (2 ^ 22 - 1) * (2 ^ (sumLead c q e - 27) * 2 ^ (6 : ℤ)) :=
      add_le_add register term
    _ < (2 ^ 29 - 1) * 2 ^ (sumLead c q e - 27) := by norm_num; linarith

/-- A number closer to zero than `n - 1` has a floor closer than `n`. -/
theorem natAbs_floor_lt {x : ℚ} {n : ℕ} (h : |x| < n - 1) : ⌊x⌋.natAbs < n := by
  obtain ⟨low, high⟩ := abs_lt.mp h
  have above : -n < ⌊x⌋ := Int.lt_iff_add_one_le.mpr (Int.le_floor.mpr (by push_cast; linarith))
  have below : ⌊x⌋ < n := Int.floor_lt.mpr (by push_cast; linarith)
  omega

end

/-- Settles O7: one operand is exact on the guard grid, and the exact sum fits 29 bits. -/
theorem columnAdderFloorsTheExactSum : Obligations.ColumnAdderFloorsTheExactSum := by
  intro c t ht ha hq h
  have add : addTerm c t = addFinite c t.q t.e := by rw [addTerm, ht]
  have floor : (addFinite c t.q t.e).a = ⌊((c.a : ℚ) * 2 ^ c.u + t.q * 2 ^ t.e) / 2 ^ (sumLead c t.q t.e - 27)⌋ :=
    addFinite_a ha hq h
  have fits := natAbs_floor_lt (n := 2 ^ 29) (by push_cast; exact abs_exact_sum_lt (e := t.e) ha hq)
  rw [← floor] at fits
  dsimp only
  rw [add]
  refine ⟨?_, fits, ?_, ?_, ?_, floor⟩ <;> rw [addFinite_of_nonzero h]
  show sumLead c t.q t.e - 28 + 1 = sumLead c t.q t.e - 27
  ring

end Sys2Proof.Machine
end

section
/-!
Rounding to FP32 (03_number_formats.md, R117 to R123): the rounded magnitude of the model is the I' of Table 3.7, and the code that
is packed of it reads back as I' on the grid.
-/

namespace Sys2Proof.Machine

/-! ## The rounded magnitude (Table 3.7) -/

/-- I' of a magnitude that is `x` units of the grid, as Table 3.7 gives it for a mode. -/
def wholeRounded (m : Round) (x : ℚ) : ℤ :=
  match m with
  | .rne => if 1 / 2 < Int.fract x ∨ (Int.fract x = 1 / 2 ∧ ⌊x⌋ % 2 = 1) then ⌊x⌋ + 1 else ⌊x⌋
  | .trn => ⌊x⌋
  | .sr r => ⌊x⌋ + ⌊((⌊Int.fract x * 2 ^ 16⌋ : ℚ) + r) / 2 ^ 16⌋

/-- The random value of SR, where the mode is SR, has 16 bits. -/
def Round.Draws16 (m : Round) : Prop := ∀ r, m = .sr r → r < 2 ^ 16

section
variable {mag : ℕ} {k q : ℤ} {m : Round}

/-- The carry that a 16-bit random value makes is 0 or 1. -/
theorem sr_carry_cases {f : ℚ} {r : ℕ} (h0 : 0 ≤ f) (h1 : f < 1) (hr : r < 2 ^ 16) :
    0 ≤ ⌊((⌊f * 2 ^ 16⌋ : ℚ) + r) / 2 ^ 16⌋ ∧ ⌊((⌊f * 2 ^ 16⌋ : ℚ) + r) / 2 ^ 16⌋ ≤ 1 := by
  have low : (0 : ℚ) ≤ ⌊f * 2 ^ 16⌋ := by exact_mod_cast Int.floor_nonneg.mpr (by positivity)
  have high : (⌊f * 2 ^ 16⌋ : ℚ) < 2 ^ 16 := (Int.floor_le _).trans_lt (by linarith)
  have draw : (r : ℚ) < 2 ^ 16 := by exact_mod_cast hr
  refine ⟨Int.floor_nonneg.mpr (by positivity), Int.lt_add_one_iff.mp (Int.floor_lt.mpr ?_)⟩
  rw [div_lt_iff₀ (by positivity)]; push_cast; linarith

/-- Rounding moves a magnitude to one of the two grid points about it. -/
theorem wholeRounded_bounds (hr : m.Draws16) (x : ℚ) : ⌊x⌋ ≤ wholeRounded m x ∧ wholeRounded m x ≤ ⌊x⌋ + 1 := by
  cases m with
  | rne => simp only [wholeRounded]; split_ifs <;> omega
  | trn => simp only [wholeRounded]; omega
  | sr r =>
    have := sr_carry_cases (Int.fract_nonneg x) (Int.fract_lt_one x) (hr r rfl)
    simp only [wholeRounded]; omega

/-- A magnitude on the grid is kept. -/
theorem wholeRounded_natCast (hr : m.Draws16) (n : ℕ) : wholeRounded m n = n := by
  cases m with
  | rne => norm_num [wholeRounded]
  | trn => exact Int.floor_natCast n
  | sr r =>
    have draw : (r : ℚ) < 2 ^ 16 := by exact_mod_cast hr r rfl
    have carry : ⌊(r : ℚ) / 2 ^ 16⌋ = 0 :=
      Int.floor_eq_zero_iff.mpr ⟨by positivity, (div_lt_one (by positivity)).mpr draw⟩
    simp only [wholeRounded, Int.floor_natCast, Int.fract_natCast, zero_mul, Int.floor_zero, Int.cast_zero, zero_add, carry,
      add_zero]

theorem wholeRounded_rne_div (n d : ℕ) (hd : 0 < d) : wholeRounded .rne (n / d)
    = (if 2 * (n % d) > d ∨ (2 * (n % d) = d ∧ n / d % 2 = 1) then n / d + 1 else n / d : ℕ) := by
  have pos : (0 : ℚ) < d := by exact_mod_cast hd
  have above : 1 / 2 < ((n % d : ℕ) : ℚ) / d ↔ 2 * (n % d) > d := by
    rw [div_lt_div_iff₀ two_pos pos, one_mul, mul_comm]; exact_mod_cast Iff.rfl
  have tie : ((n % d : ℕ) : ℚ) / d = 1 / 2 ↔ 2 * (n % d) = d := by
    rw [div_eq_div_iff pos.ne' two_ne_zero, one_mul, mul_comm]; exact_mod_cast Iff.rfl
  have odd : (n / d : ℤ) % 2 = 1 ↔ n / d % 2 = 1 := by exact_mod_cast Iff.rfl
  simp only [wholeRounded, Rat.floor_natCast_div_natCast, Int.fract_div_natCast_eq_div_natCast_mod, above, tie, odd,
    Nat.cast_ite, Nat.cast_succ, Int.natCast_ediv]

theorem wholeRounded_sr_div (n d r : ℕ) :
    wholeRounded (.sr r) (n / d) = (n / d + (n % d * 2 ^ 16 / d + r) / 2 ^ 16 : ℕ) := by
  have kept : ⌊((n % d : ℕ) : ℚ) / d * 2 ^ 16⌋ = (n % d * 2 ^ 16 / d : ℕ) := by
    rw [div_mul_eq_mul_div]; exact_mod_cast Rat.floor_natCast_div_natCast (n % d * 2 ^ 16) d
  have carry : ⌊(((n % d * 2 ^ 16 / d : ℕ) : ℚ) + r) / 2 ^ 16⌋ = ((n % d * 2 ^ 16 / d + r) / 2 ^ 16 : ℕ) := by
    exact_mod_cast Rat.floor_natCast_div_natCast (n % d * 2 ^ 16 / d + r) (2 ^ 16)
  simp only [wholeRounded, Rat.floor_natCast_div_natCast, Int.fract_div_natCast_eq_div_natCast_mod, kept, Int.cast_natCast, carry, Nat.cast_add,
    Int.natCast_ediv n d]

/-- R117: the model's rounded magnitude is I' of Table 3.7. -/
theorem roundMag_eq_wholeRounded (hr : m.Draws16) : (roundMag mag k q m : ℤ) = wholeRounded m (mag * 2 ^ (k - q)) := by
  unfold roundMag
  split
  case isTrue h =>
    obtain ⟨n, hn⟩ := Int.eq_ofNat_of_zero_le (sub_nonneg.mpr h)
    have onGrid : (mag : ℚ) * 2 ^ (k - q) = (mag * 2 ^ n : ℕ) := by rw [hn]; push_cast; rfl
    rw [onGrid, wholeRounded_natCast hr, hn]; rfl
  case isFalse h =>
    obtain ⟨n, hn⟩ := Int.eq_ofNat_of_zero_le (sub_nonneg.mpr (not_le.mp h).le)
    have quotient : (mag : ℚ) * 2 ^ (k - q) = mag / (2 ^ n : ℕ) := by
      rw [← neg_sub, hn, zpow_neg, zpow_natCast, div_eq_mul_inv]; push_cast; rfl
    rw [quotient, hn]
    cases m with
    | rne => exact (wholeRounded_rne_div _ _ (Nat.two_pow_pos n)).symm
    | trn => exact (Rat.floor_natCast_div_natCast _ _).symm
    | sr r => exact (wholeRounded_sr_div ..).symm

end

/-! ## The largest finite value -/

/-- A value on a coarser grid, on a finer one. -/
theorem natCast_mul_zpow_of_le (x : ℕ) {e d : ℤ} (h : d ≤ e) : (x : ℚ) * 2 ^ e = (x * 2 ^ (e - d).toNat : ℕ) * 2 ^ d := by
  obtain ⟨n, hn⟩ := Int.eq_ofNat_of_zero_le (sub_nonneg.mpr h)
  rw [← sub_add_cancel e d, zpow_add₀ two_ne_zero, ← mul_assoc, add_sub_cancel_right, hn]; push_cast; rfl

theorem dyGt_iff (a b : ℕ) (i j : ℤ) : dyGt a i b j = true ↔ (b : ℚ) * 2 ^ j < a * 2 ^ i := by
  unfold dyGt
  split
  case isTrue h => rw [natCast_mul_zpow_of_le b h, mul_lt_mul_iff_left₀ (by positivity), Nat.cast_lt, decide_eq_true_iff]
  case isFalse h =>
    rw [natCast_mul_zpow_of_le a (not_le.mp h).le, mul_lt_mul_iff_left₀ (by positivity), Nat.cast_lt, decide_eq_true_iff]

/-- The largest finite FP32 value. -/
def fp32Top : ℚ := (2 ^ 24 - 1) * 2 ^ (104 : ℤ)

theorem encodeBig_fp32 (s : Bool) (m : Round) :
    (encodeBig fp32 s m).1 = b2n s * 2 ^ 31 + (if m = .trn then 0x7F7FFFFF else 0x7F800000) := by
  have largest : maxCode fp32 s = b2n s * 2 ^ 31 + 0x7F7FFFFF := by cases s <;> decide
  have infinity : infCode fp32 s = b2n s * 2 ^ 31 + 0x7F800000 := by cases s <;> decide
  cases m with
  | trn => rw [if_pos rfl]; exact largest
  | rne => rw [if_neg nofun]; exact infinity
  | sr r => rw [if_neg nofun]; exact infinity

theorem dyGt_fp32Top (i : ℕ) (q : ℤ) : dyGt i q (2 ^ 24 - 1) 104 = true ↔ fp32Top < (i : ℚ) * 2 ^ q := by
  rw [dyGt_iff, fp32Top]; norm_num

/-! ## The packed code -/

/-- The FP32 code of `n` x 2^`q`, `n` below 2^24, as the model packs it. -/
def fp32Code (s : Bool) (n : ℕ) (q : ℤ) : ℕ :=
  b2n s * 2 ^ 31 + (if n < 2 ^ 23 then 0 else (q + 23 + 127).toNat) * 2 ^ 23 + n % 2 ^ 23

theorem fields_of_fp32 (s : Bool) {ef fr : ℕ} (he : ef < 2 ^ 8) (hf : fr < 2 ^ 23) :
    bit (b2n s * 2 ^ 31 + ef * 2 ^ 23 + fr) 31 = s ∧ bits (b2n s * 2 ^ 31 + ef * 2 ^ 23 + fr) 23 8 = ef
      ∧ bits (b2n s * 2 ^ 31 + ef * 2 ^ 23 + fr) 0 23 = fr := by
  have low : b2n s < 2 := by cases s <;> decide
  unfold bit bits
  refine ⟨?_, by omega, by omega⟩
  have sign : (b2n s * 2 ^ 31 + ef * 2 ^ 23 + fr) / 2 ^ 31 % 2 = b2n s := by omega
  rw [sign]; cases s <;> rfl

/-- A packed code reads back as what was packed. -/
theorem ofFp32_fp32Code (s : Bool) {n : ℕ} {q : ℤ} (h0 : 0 < n) (hn : n < 2 ^ 24) (hq : -149 ≤ q)
    (sub : n < 2 ^ 23 → q = -149) (top : (n : ℚ) * 2 ^ q ≤ fp32Top) : ofFp32 (fp32Code s n q) = .fin s n q := by
  unfold fp32Code
  by_cases small : n < 2 ^ 23
  · obtain ⟨sign, exponent, fraction⟩ := fields_of_fp32 s (ef := 0) (by decide) small
    rw [if_pos small, Nat.mod_eq_of_lt small]
    simp only [ofFp32, sign, exponent, fraction, h0.ne', sub small, if_false, if_true, Nat.reduceEqDiff]
  · have le : q ≤ 104 := by
      by_contra above
      have big : (2 ^ 23 : ℕ) * (2 : ℚ) ^ (105 : ℤ) ≤ n * 2 ^ q := by
        gcongr
        · exact not_lt.mp small
        · exact one_le_two
        · omega
      exact absurd (big.trans top) (by norm_num [fp32Top])
    obtain ⟨sign, exponent, fraction⟩ := fields_of_fp32 s (ef := (q + 23 + 127).toNat) (fr := n % 2 ^ 23) (by omega) (by omega)
    rw [if_neg small]
    simp only [ofFp32, sign, exponent, fraction]
    rw [if_neg (by omega), if_neg (by omega)]
    congr 1 <;> omega

/-! ## Rounding into FP32 -/

/-- The exponent of FP32's grid at a magnitude (R117). -/
def fp32Grid (mag : ℕ) (k : ℤ) : ℤ := max ((Nat.log2 mag : ℤ) + k) (-126) - 23

section
variable {s : Bool} {mag : ℕ} {k : ℤ} {m : Round}

/-- What a rounding into FP32 answers: Table 3.9's code, the zero of the sign, or the packed code, after a carry of the halved
significand. -/
theorem toFp32_fin : toFp32 (.fin s mag k) m =
    let i := roundMag mag k (fp32Grid mag k) m
    if dyGt i (fp32Grid mag k) (2 ^ 24 - 1) 104 then (encodeBig fp32 s m).1
    else if i = 0 then zeroCode fp32 s
    else if i = 2 ^ 24 then fp32Code s (i / 2) (fp32Grid mag k + 1) else fp32Code s i (fp32Grid mag k) := by
  have float : ¬ fp32.code = 4 := by decide
  have grid : max ((Nat.log2 mag : ℤ) + k) fp32.emin - fp32.mb = fp32Grid mag k := rfl
  have lim : maxSig fp32 s = (2 ^ 24 - 1, 104) := rfl
  have eb : fp32.eb = 8 := rfl
  have mb : fp32.mb = 23 := rfl
  have bias : fp32.bias = 127 := rfl
  simp only [toFp32, roundTo, if_neg float, apply_ite Prod.fst, grid, lim]
  generalize roundMag mag k (fp32Grid mag k) m = i
  refine if_congr Iff.rfl rfl (if_congr Iff.rfl rfl ?_)
  simp only [eb, mb, bias, Nat.reduceAdd, Nat.cast_ofNat]
  by_cases carry : i = 2 ^ 24
  · simp only [if_pos carry, fp32Code]
  · simp only [if_neg carry, fp32Code]

/-- I' on FP32's grid has at most 24 bits, or is 2^24. -/
theorem wholeRounded_le_of_fp32Grid (hr : m.Draws16) : wholeRounded m (mag * 2 ^ (k - fp32Grid mag k)) ≤ 2 ^ 24 := by
  have below : (mag : ℚ) * 2 ^ (k - fp32Grid mag k) < (2 ^ 24 : ℤ) := by
    calc (mag : ℚ) * 2 ^ (k - fp32Grid mag k) < (2 ^ (Nat.log2 mag + 1) : ℕ) * 2 ^ (k - fp32Grid mag k) := by
          gcongr; exact Nat.lt_log2_self
      _ = 2 ^ (Nat.log2 mag + 1 + (k - fp32Grid mag k)) := by rw [zpow_add₀ two_ne_zero]; push_cast; rfl
      _ ≤ 2 ^ (24 : ℤ) := zpow_le_zpow_right₀ one_le_two (by unfold fp32Grid; omega)
      _ = (2 ^ 24 : ℤ) := by norm_num
  exact (wholeRounded_bounds hr _).2.trans (Int.floor_lt.mpr below)

/-- Below 2^23 the grid is that of the subnormals. -/
theorem fp32Grid_of_wholeRounded_lt (hm : mag ≠ 0) (hr : m.Draws16)
    (small : wholeRounded m (mag * 2 ^ (k - fp32Grid mag k)) < 2 ^ 23) : fp32Grid mag k = -149 := by
  by_contra normal
  have above : ((2 ^ 23 : ℤ) : ℚ) ≤ mag * 2 ^ (k - fp32Grid mag k) := by
    calc ((2 ^ 23 : ℤ) : ℚ) = 2 ^ (23 : ℤ) := by norm_num
      _ = 2 ^ (Nat.log2 mag + (k - fp32Grid mag k)) := by congr 1; unfold fp32Grid at *; omega
      _ = (2 ^ Nat.log2 mag : ℕ) * 2 ^ (k - fp32Grid mag k) := by rw [zpow_add₀ two_ne_zero]; push_cast; rfl
      _ ≤ mag * 2 ^ (k - fp32Grid mag k) := by gcongr; exact Nat.log2_self_le hm
  exact small.not_ge ((Int.le_floor.mpr above).trans (wholeRounded_bounds hr _).1)

/-- What FP32 answers for a rounded magnitude of `i` units of 2^`q`: the zero of the sign, Table 3.9 above the largest finite
value, and else a code that reads back as it. -/
def IsFp32Of (s : Bool) (m : Round) (i q : ℤ) (z : ℕ) : Prop :=
  (i = 0 → z = b2n s * 2 ^ 31)
    ∧ (fp32Top < (i : ℚ) * 2 ^ q → z = b2n s * 2 ^ 31 + (if m = .trn then 0x7F7FFFFF else 0x7F800000))
    ∧ (0 < i → (i : ℚ) * 2 ^ q ≤ fp32Top → ∃ (n : Nat) (l : ℤ), ofFp32 z = .fin s n l ∧ (n : ℚ) * 2 ^ l = i * 2 ^ q)

theorem toFp32_isFp32Of (hm : mag ≠ 0) (hr : m.Draws16) :
    IsFp32Of s m (wholeRounded m (mag * 2 ^ (k - fp32Grid mag k))) (fp32Grid mag k) (toFp32 (.fin s mag k) m) := by
  have code := toFp32_fin (s := s) (mag := mag) (k := k) (m := m)
  have full := wholeRounded_le_of_fp32Grid (mag := mag) (k := k) hr
  have subnormal := fp32Grid_of_wholeRounded_lt (k := k) hm hr
  have low : -149 ≤ fp32Grid mag k := by unfold fp32Grid; omega
  rw [← roundMag_eq_wholeRounded hr] at full subnormal ⊢
  generalize roundMag mag k (fp32Grid mag k) m = i at code full subnormal ⊢
  generalize fp32Grid mag k = q at code subnormal low ⊢
  simp only [dyGt_fp32Top] at code
  have top : (0 : ℚ) ≤ fp32Top := by norm_num [fp32Top]
  rw [code]
  refine ⟨fun zero => ?_, fun above => ?_, fun pos within => ?_⟩
  · obtain rfl : i = 0 := by exact_mod_cast zero
    rw [if_neg (by simpa using top), if_pos rfl]; rfl
  · rw [if_pos (by exact_mod_cast above), encodeBig_fp32]
  · rw [Int.cast_natCast] at within ⊢
    rw [if_neg within.not_gt, if_neg (by omega)]
    split_ifs with carry
    · have same : ((i / 2 : ℕ) : ℚ) * 2 ^ (q + 1) = i * 2 ^ q := by
        rw [zpow_add_one₀ two_ne_zero, mul_comm _ (2 : ℚ), ← mul_assoc, carry]; norm_num
      exact ⟨i / 2, q + 1, ofFp32_fp32Code s (by omega) (by omega) (by omega) (by omega) (same.trans_le within), same⟩
    · exact ⟨i, q, ofFp32_fp32Code s (by omega) (by omega) low (by omega) within, rfl⟩

end

/-- Settles O8: the model's rounded magnitude is I' (R117), and the code packed of it reads back as I' on the grid. -/
theorem fp32ResultsAreTheRoundedMagnitude : Obligations.Fp32ResultsAreTheRoundedMagnitude := by
  intro s mag k m hm hr
  exact toFp32_isFp32Of (m := m) hm hr

end Sys2Proof.Machine
end

section
/-!
Writes of a context's own registers (08_dispatch_and_contexts.md, R312 to R315, R327; 04_scales_and_statistics.md, R145): which
are stored, and which set CFG_REJECT.
-/

namespace Sys2Proof.Machine

section
variable {c k r which data : Nat} {s : State}

/-! ## CTX_CORES, PT_BASE and SAVE_BASE (R312, R313) -/

/-- The context's state holds its cores, page table and save area (R312). -/
def CtxHolds (s : State) (c : Nat) : Prop := ctxState s c ≠ 0 ∧ ctxState s c ≠ 4

/-- Another context has one of the cores of a mask (R313). -/
def CoresTaken (s : State) (c mask : Nat) : Prop := ∃ k < 16, k ≠ c ∧ Nat.land (rg s (CTX_CORES k)) mask ≠ 0

theorem any_ctxNums_iff_coresTaken (s : State) (c mask : Nat) :
    ctxNums.any (fun k => k != c && Nat.land (rg s (CTX_CORES k)) mask != 0) = true ↔ CoresTaken s c mask := by
  simp only [ctxNums, CoresTaken, List.any_eq_true, List.mem_range, Bool.and_eq_true, bne_iff_ne]

theorem bne_empty_and_bne_saved_iff_ctxHolds : (ctxState s c != 0 && ctxState s c != 4) = true ↔ CtxHolds s c := by
  simp only [CtxHolds, Bool.and_eq_true, bne_iff_ne]

theorem gives_coresWrite_of_bad (h : CtxHolds s c ∨ (which = 0 ∧ CoresTaken s c (data % 2 ^ 64))) :
    Gives (coresWrite c which data) s () (s.put (CTX_STATE_CFG_REJECT c) 1) := fun q => by
  by_cases holds : CtxHolds s c
  · simp only [coresWrite, run_bind, run_getS, bne_empty_and_bne_saved_iff_ctxHolds, holds, if_true, run_flag]
  · obtain ⟨rfl, taken⟩ := h.resolve_left holds
    simp only [coresWrite, run_bind, run_getS, bne_empty_and_bne_saved_iff_ctxHolds, holds, if_false, if_true,
      any_ctxNums_iff_coresTaken, taken, run_flag]

theorem gives_coresWrite_of_good (h : ¬ (CtxHolds s c ∨ (which = 0 ∧ CoresTaken s c (data % 2 ^ 64)))) :
    Gives (coresWrite c which data) s ()
      (s.putReg (if which = 0 then CTX_CORES c else if which = 1 then CTX_PT_BASE c else CTX_SAVE_BASE c) data) := fun q => by
  obtain ⟨free, untaken⟩ := not_or.mp h
  simp only [coresWrite, run_bind, run_getS, bne_empty_and_bne_saved_iff_ctxHolds, free, if_false]
  by_cases first : which = 0
  · have mine : ¬ CoresTaken s c (data % 2 ^ 64) := fun taken => untaken ⟨first, taken⟩
    simp only [first, if_true, any_ctxNums_iff_coresTaken, mine, if_false, run_setReg]
  · simp only [first, if_false]
    split <;> exact run_setReg ..

/-! ## The pens (R314, R315) -/

/-- Another pen of the context has one of the cores of a mask (R314). -/
def PenTaken (s : State) (c k mask : Nat) : Prop :=
  ∃ j < 3, j ≠ k ∧ Nat.land (Nat.land (rg s (CTX_PEN c j)) (rg s (CTX_CORES c))) mask ≠ 0

theorem any_pens_iff_penTaken (s : State) (c k mask : Nat) : ((List.range 3).filter (fun j => j != k)).any
      (fun j => Nat.land (Nat.land (rg s (CTX_PEN c j)) (rg s (CTX_CORES c))) mask != 0) = true ↔ PenTaken s c k mask := by
  simp only [PenTaken, List.any_eq_true, List.mem_filter, List.mem_range, bne_iff_ne, and_assoc]

theorem gives_penWrite_of_taken (h : PenTaken s c k (data % 2 ^ 64)) :
    Gives (penWrite c k data) s () (s.put (CTX_STATE_CFG_REJECT c) 1) := fun q => by
  simp only [penWrite, run_bind, run_getS, any_pens_iff_penTaken, h, if_true, run_flag]

theorem gives_penWrite_of_free (h : ¬ PenTaken s c k (data % 2 ^ 64)) :
    Gives (penWrite c k data) s () (s.putReg (CTX_PEN c k) data) := fun q => by
  simp only [penWrite, run_bind, run_getS, any_pens_iff_penTaken, h, if_false, run_setReg]

/-! ## The step's parameters (R145; Table 4.10) -/

theorem gives_stepWrite : Gives (stepWrite c which data) s () (if which = 3 ∧ (bits data 4 5 < 8 ∨ 16 < bits data 4 5)
    then (s.putReg (stepReg c which) data).put (CTX_STAT_STATUS_CFG_ERR c) 1 else s.putReg (stepReg c which) data) := fun q => by
  simp only [stepWrite, run_bind, run_setReg, run_when', Bool.and_eq_true, Bool.or_eq_true, decide_eq_true_eq, run_flag]
  split <;> rfl

/-! ## The rosters (R327) -/

/-- A word of ROSTERr gives another BASE or LOG2_SIZE. -/
def RosterMoves (s : State) (c r v : Nat) : Prop :=
  bits v 10 42 ≠ fv s (CTX_ROSTER_BASE c r) ∨ bits v 1 5 ≠ fv s (CTX_ROSTER_LOG2_SIZE c r)

/-- A roster is enabled or has an entry placed. -/
def RosterBusy (s : State) (c r : Nat) : Prop := fb s (CTX_ROSTER_EN c r) = true ∨ (theRoster s c r).placed ≠ []

/-- A word of ROSTERr is stored; a roster that moves is read afresh, and a LOG2_SIZE outside 4 to 16 sets CFG_REJECT. -/
def State.rosterSet (s : State) (c r v : Nat) (moves : Bool) : State :=
  let t := s.putReg (CTX_ROSTER c r) v
  let u := if moves then t.putRoster c r (fun x => { x with fresh := true }) else t
  if bits v 1 5 < 4 ∨ 16 < bits v 1 5 then u.put (CTX_STATE_CFG_REJECT c) 1 else u

theorem rosterSet_regs (s : State) (c r v : Nat) (moves : Bool) : (s.rosterSet c r v moves).regs =
    (if bits v 1 5 < 4 ∨ 16 < bits v 1 5 then (s.putReg (CTX_ROSTER c r) v).put (CTX_STATE_CFG_REJECT c) 1
      else s.putReg (CTX_ROSTER c r) v).regs := by
  simp only [State.rosterSet]
  cases moves <;> split <;> rfl

/-- Only a roster that moves is read afresh. -/
theorem rosterSet_ctxs_of_stays (s : State) (c r v : Nat) : (s.rosterSet c r v false).ctxs = s.ctxs := by
  simp only [State.rosterSet, Bool.false_eq_true, if_false]
  split <;> rfl

theorem gives_rosterCfgWrite_of_bad (moves : RosterMoves s c r (data % 2 ^ 64)) (busy : RosterBusy s c r) :
    Gives (rosterCfgWrite c r data) s () (s.put (CTX_STATE_CFG_REJECT c) 1) := fun q => by
  simp only [RosterMoves, RosterBusy] at moves busy
  simp only [rosterCfgWrite, run_bind, run_getS, Bool.and_eq_true, Bool.or_eq_true, bne_iff_ne, moves, busy, and_self, if_true,
    run_flag]

theorem gives_rosterCfgWrite_of_good (h : ¬ (RosterMoves s c r (data % 2 ^ 64) ∧ RosterBusy s c r)) :
    ∃ moves : Bool, (moves = true ↔ RosterMoves s c r (data % 2 ^ 64))
      ∧ Gives (rosterCfgWrite c r data) s () (s.rosterSet c r (data % 2 ^ 64) moves) := by
  refine ⟨bits (data % 2 ^ 64) 10 42 != fv s (CTX_ROSTER_BASE c r) || bits (data % 2 ^ 64) 1 5 != fv s (CTX_ROSTER_LOG2_SIZE c r),
    by simp only [RosterMoves, Bool.or_eq_true, bne_iff_ne], fun q => ?_⟩
  simp only [RosterMoves, RosterBusy] at h
  simp only [rosterCfgWrite, State.rosterSet, run_bind, run_getS, Bool.and_eq_true, Bool.or_eq_true, bne_iff_ne, h, if_false,
    run_setReg, run_when', run_modRoster, run_flag, decide_eq_true_eq]
  split <;> split <;> rfl

end

/-- Settles O21: each write by what its sequence gives where its check fails and where it holds. -/
theorem contextRegisterWritesAreChecked : Obligations.ContextRegisterWritesAreChecked := by
  refine ⟨fun ctx data s => ⟨fun which => ?cores, fun pen => ?pen, fun which => ?step⟩, fun ctx roster data s => ?roster⟩
  case cores =>
    have first : which = 0 ↔ which.val = 0 := Fin.ext_iff
    have second : which = 1 ↔ which.val = 1 := Fin.ext_iff
    simp only [first, second]
    exact ⟨fun h => Gives.runM_eq (gives_coresWrite_of_bad h), fun h => Gives.runM_eq (gives_coresWrite_of_good h)⟩
  case pen => exact ⟨fun h => Gives.runM_eq (gives_penWrite_of_taken h), fun h => Gives.runM_eq (gives_penWrite_of_free h)⟩
  case step =>
    have last : which = 3 ↔ which.val = 3 := Fin.ext_iff
    simp only [last]
    exact Gives.runM_eq gives_stepWrite
  case roster =>
    refine ⟨fun h => Gives.runM_eq (gives_rosterCfgWrite_of_bad h.1 h.2), fun h => ?_⟩
    obtain ⟨moves, iff_moves, hg⟩ := gives_rosterCfgWrite_of_good h
    refine ⟨_, Gives.runM_eq hg, rosterSet_regs .., fun stays => ?_⟩
    obtain rfl : moves = false := Bool.eq_false_iff.mpr fun h => stays (iff_moves.mp h)
    exact rosterSet_ctxs_of_stays ..

end Sys2Proof.Machine
end

section
/-!
Tiles (07_stations_and_streams.md, R271, R272, R278, R279; 04_scales_and_statistics.md, R148): what the start of a stream's next tile
does where its waits hold, where they do not and where it is held, and the commands that start one.
-/

namespace Sys2Proof.Machine

/-- Line errors that reads will meet are no part of a core. What the start of a tile judges reads no line errors either, so that
it is the same by definition in `s.meeting errs` and in `s`. -/
@[simp] theorem theCore_meeting (s : State) (errs : List LineErr) (n : Nat) : theCore (s.meeting errs) n = theCore s n := rfl

/-- Where a command's sequence changes nothing, the errors that it carried are gone and the state is as it was. -/
theorem Gives.runT_withErrs_unchanged {m : M Unit} {errs : List LineErr} {s : State} (h : Gives m (s.meeting errs) () (s.meeting errs))
    (hp : s.trPend = []) (hl : s.lineErrs = []) : runT (withErrs errs m) s = .next s := by
  rw [h.runT_withErrs hp, meeting_meeting, meeting_nil hl]

/-! ## The start of a tile -/

/-- A stream may try its next tile, but for its waits: it is open, its station is free, and no encode of it waits. -/
def TileFree (s : State) (n k : Nat) : Prop :=
  streamOpen s n k = true ∧ muleReady s n k = true ∧ (theCore s n).encWait.any (fun w => w.slot = k) = false

theorem open_and_ready_and_unwaiting_iff_tileFree (s : State) (n k : Nat) : (streamOpen s n k && muleReady s n k
    && (theCore s n).encWait.any (fun w => w.slot = k) == false) = true ↔ TileFree s n k := by
  simp only [TileFree, Bool.and_eq_true, beq_iff_eq, and_assoc]

section
variable {n k : Nat} {s u : State} {r : TRes} {h : HeldTile} {rest : List HeldTile}

theorem gives_tryTile {i : Nat} {a b : Bool} (work : Gives (tileWork n k i a b) s r u) :
    Gives (tryTile n k i a b) s (some r) (u.noted n k i r) := fun q => by
  simp only [tryTile, run_bind, work _, run_noteTile, run_pure]

theorem gives_startTile_of_not_free (free : ¬ TileFree s n k) : Gives (startTile n k false) s none s := fun q => by
  simp only [startTile, run_bind, run_getS, open_and_ready_and_unwaiting_iff_tileFree, free, if_false, run_pure]

theorem gives_startTile_of_held (free : TileFree s n k) (held : (theStream s n k).held = h :: rest) (still : stillHeld s n h = true) :
    Gives (startTile n k false) s none s := fun q => by
  simp only [startTile, run_bind, run_getS, open_and_ready_and_unwaiting_iff_tileFree, free, if_true, held, still, run_pure]

theorem gives_startTile_of_come (free : TileFree s n k) (held : (theStream s n k).held = h :: rest) (come : stillHeld s n h = false)
    (work : Gives (tileWork n k (theStream s n k).next h.noRecomp h.again) s r u) :
    Gives (startTile n k false) s (some r) (u.noted n k (theStream s n k).next r) := fun q => by
  simp only [startTile, run_bind, run_getS, open_and_ready_and_unwaiting_iff_tileFree, free, if_true, held, come, Bool.false_eq_true,
    if_false, gives_tryTile work q]

theorem gives_startTile_of_waits (free : TileFree s n k) (held : (theStream s n k).held = [])
    (waits : waitsHold s n (theStream s n k).desc (theStream s n k).next = false) :
    Gives (startTile n k false) s none (s.count (CORE_WAIT_COUNT n k) 1) := fun q => by
  simp only [startTile, run_bind, run_getS, open_and_ready_and_unwaiting_iff_tileFree, free, if_true, held, waits, Bool.not_false,
    run_bump, run_pure]

theorem gives_startTile_of_exchange (free : TileFree s n k) (held : (theStream s n k).held = [])
    (hold : waitsHold s n (theStream s n k).desc (theStream s n k).next = true)
    (exch : exchOk (theStream s n k) (theStream s n k).next = false ∨ exchHeld s n k (theStream s n k).next = true) :
    Gives (startTile n k false) s none (s.count (CORE_EXCH_WAIT_COUNT n) 1) := fun q => by
  have exchanging : (!exchOk (theStream s n k) (theStream s n k).next || exchHeld s n k (theStream s n k).next) = true := by
    simpa only [Bool.or_eq_true, Bool.not_eq_true'] using exch
  simp only [startTile, run_bind, run_getS, open_and_ready_and_unwaiting_iff_tileFree, free, if_true, held, hold, Bool.not_true,
    Bool.false_eq_true, if_false, exchanging, run_bump, run_pure]

theorem gives_startTile_of_starts (free : TileFree s n k) (held : (theStream s n k).held = [])
    (hold : waitsHold s n (theStream s n k).desc (theStream s n k).next = true)
    (ok : exchOk (theStream s n k) (theStream s n k).next = true) (unheld : exchHeld s n k (theStream s n k).next = false)
    (work : Gives (tileWork n k (theStream s n k).next false false) s r u) :
    Gives (startTile n k false) s (some r) (u.noted n k (theStream s n k).next r) := fun q => by
  simp only [startTile, run_bind, run_getS, open_and_ready_and_unwaiting_iff_tileFree, free, if_true, held, hold, Bool.not_true,
    Bool.false_eq_true, if_false, ok, unheld, Bool.or_self, gives_tryTile work q]

end

/-! ## The commands that start a tile -/

section
variable {c : Instr} {core : Fin 64} {slot : Fin 16} {station : Nat} {errs : List LineErr} {s u : State} {o : Option TRes}

/-- A station starts the tile of its first stream. -/
theorem gives_startOf_of_head {n k : Nat} (first : (slotsOf s n station).head? = some k) (start : Gives (startTile n k false) s o u) :
    Gives (startOf n station) s () u := fun q => by
  obtain ⟨rest, slots⟩ := List.head?_eq_some_iff.mp first
  simp only [startOf, run_bind, run_getS, slots, start _, run_pure]

/-- Each of the commands ends where the start of its stream's tile leads. -/
theorem ends_of_startsTile (starts : startsTile c core slot errs s) (hl : s.lineErrs = [])
    (start : Gives (startTile core slot false) (s.meeting errs) o u) : Ends (exec c s) (u.meeting []) := by
  have quiet (none_met : errs = []) : s.meeting errs = s ∧ u.meeting [] = u := by
    subst none_met
    have u_lineErrs : u.lineErrs = [] := start.lineErrs (keep_startTile ..) (by decide)
    exact ⟨meeting_nil hl, meeting_nil u_lineErrs⟩
  rcases starts with rfl | ⟨rfl, first⟩ | ⟨rfl, first⟩ | ⟨none_met, rfl, first⟩ | ⟨none_met, rfl, collie⟩
  · exact Ends.of_errs fun q => start _
  · exact Ends.of_errs (gives_startOf_of_head first start)
  · exact Ends.of_errs (gives_startOf_of_head first start)
  · obtain ⟨s_same, u_same⟩ := quiet none_met
    rw [s_same] at start
    rw [u_same]
    exact Ends.of_runT (gives_startOf_of_head first start)
  · obtain ⟨s_same, u_same⟩ := quiet none_met
    rw [s_same] at start
    rw [u_same]
    exact Ends.of_runT fun q => by
      simp only [run_bind, run_getS, collie, decide_true, run_when'_true, start _, run_pure]

/-- Where the start takes no record, the command answers the state that it leaves. -/
theorem exec_of_startsTile (starts : startsTile c core slot errs s) (hp : s.trPend = []) (hl : s.lineErrs = [])
    (start : Gives (startTile core slot false) (s.meeting errs) o (u.meeting errs)) (u_trPend : u.trPend = s.trPend)
    (u_lineErrs : u.lineErrs = s.lineErrs) : exec c s = .next u := by
  have done := (ends_of_startsTile starts hl start).next_eq (u_trPend.trans hp)
  rw [done, meeting_meeting, meeting_nil (u_lineErrs.trans hl)]

theorem exec_of_startsTile_unchanged (starts : startsTile c core slot errs s) (hp : s.trPend = []) (hl : s.lineErrs = [])
    (start : Gives (startTile core slot false) (s.meeting errs) o (s.meeting errs)) : exec c s = .next s :=
  exec_of_startsTile starts hp hl start rfl rfl

theorem exec_of_startsTile_counted {f : Fld} (starts : startsTile c core slot errs s) (hp : s.trPend = []) (hl : s.lineErrs = [])
    (start : Gives (startTile core slot false) (s.meeting errs) o ((s.meeting errs).count f 1)) : exec c s = .next (s.count f 1) :=
  exec_of_startsTile starts hp hl start (count_trPend ..) (count_lineErrs ..)

/-! ## Encodes that wait for a merged record (R148) -/

theorem exec_mergedRecordReread_of_none (none_waits : (theCore s core).encWait = []) (hp : s.trPend = []) (hl : s.lineErrs = []) :
    exec (.mergedRecordReread core errs) s = .next s :=
  Gives.runT_withErrs_unchanged (fun q => by simp only [run_bind, run_getS, theCore_meeting, none_waits, run_each_nil]) hp hl

theorem ends_mergedRecordReread_of_one {w : EncWait} (one : (theCore s core).encWait = [w])
    (start : Gives (startTile core w.slot true) (s.meeting errs) o u) : Ends (exec (.mergedRecordReread core errs) s)
      ((if o = some .record then u.count (CTX_STAT_WAIT_TICKS_COUNT ((ctxOfCore u core).getD 0)) 1 else u).meeting []) :=
  Ends.of_errs fun q => by
    simp only [run_bind, run_getS, theCore_meeting, one, run_each_cons, run_each_nil, start _, run_ite, run_bump, run_pure]
    split <;> rfl

theorem exec_collieHandoff_of_other (other : dStation (theStream s core slot).desc ≠ stCollie) (hp : s.trPend = []) :
    exec (.collieHandoff core slot) s = .next s :=
  Gives.runT_eq (fun q => by simp only [run_bind, run_getS, other, decide_false, run_when'_false]) hp

end

/-- Settles O27: the commands by the start of their stream's tile, the reread by the one encode that waits. -/
theorem tilesStartWhenTheirWaitsHold : Obligations.TilesStartWhenTheirWaitsHold := by
  refine ⟨fun core slot errs c s hp hl starts => ⟨fun free => ?unfree, fun free held => ⟨fun waits => ?waits, fun hold exch => ?exchange,
    fun hold ok unheld => ?starts⟩, fun h rest free held => ⟨fun still => ?held, fun come => ?come⟩⟩, fun core errs s hp hl =>
    ⟨fun none_waits => exec_mergedRecordReread_of_none none_waits hp hl, fun w one => ?one,
      fun slot other => exec_collieHandoff_of_other other hp⟩⟩
  case unfree => exact exec_of_startsTile_unchanged starts hp hl (gives_startTile_of_not_free free)
  case waits => exact exec_of_startsTile_counted starts hp hl (gives_startTile_of_waits free held waits)
  case exchange => exact exec_of_startsTile_counted starts hp hl (gives_startTile_of_exchange free held hold exch)
  case held => exact exec_of_startsTile_unchanged starts hp hl (gives_startTile_of_held free held still)
  case starts =>
    obtain ⟨r, u, _, work⟩ := (keep_tileWork core slot (theStream s core slot).next false false).gives (s.meeting errs)
    exact ⟨r, u, work, ends_of_startsTile starts hl (gives_startTile_of_starts free held hold ok unheld work)⟩
  case come =>
    obtain ⟨r, u, _, work⟩ := (keep_tileWork core slot (theStream s core slot).next h.noRecomp h.again).gives (s.meeting errs)
    exact ⟨r, u, work, ends_of_startsTile starts hl (gives_startTile_of_come free held come work)⟩
  case one =>
    obtain ⟨o, u, _, start⟩ := (keep_startTile core w.slot true).gives (s.meeting errs)
    exact ⟨o, u, start, ends_mergedRecordReread_of_one one start⟩

end Sys2Proof.Machine
end

section
/-!
Stream programs (07_stations_and_streams.md, R265, R267, R268; 04_scales_and_statistics.md, R154): how a task's program starts from its
descriptors, and how it ends with the statistics it owes in memory.
-/

namespace Sys2Proof.Machine

/-! ## The start (R267) -/

/-- The task of a core has begun. -/
def State.taskBegun (s : State) (n : Nat) : State :=
  s.putCore n fun c => { c with task := c.task.map fun t => { t with begun := true } }

/-- The streams of a program are on a core: its units are idle, and ACTIVE and RUNNING are set. -/
def State.streamsLoaded (s : State) (n : Nat) (xs : List Stream) : State :=
  let t := s.putCore n fun c => { c with
    streams := xs, bindWait := [], hand0 := [], hand1 := [], encWait := [], progBad := false, trailQ := []
    mule := { MuleSt.idle with prog := c.mule.prog }, toMule := [[], [], [], []], modeF := c.fence, trailAt := [] }
  let u := (List.range 16).foldl (fun u h => u.putReg (CORE_HC n h) 0) t
  let v := (List.range 16).foldl (fun v k => v.putReg (CORE_NEXT_TILE n k) 0) u
  (v.put (CORE_STREAM_STATUS_ACTIVE n) (activeMask xs)).put (CORE_STREAM_STATUS_RUNNING n) 1

theorem streamsLoaded_streams (s : State) (n : Nat) (xs : List Stream) : (theCore (s.streamsLoaded n xs) n).streams = xs := by
  have counters := foldl_same (theCore · n) (fun u h => u.putReg (CORE_HC n h) 0) (by simp)
  have tiles := foldl_same (theCore · n) (fun v k => v.putReg (CORE_NEXT_TILE n k) 0) (by simp)
  simp only [State.streamsLoaded, theCore_put, tiles, counters, theCore_putCore_same]

theorem running_kept : ∀ core : Fin 64, (CORE_STREAM_STATUS_RUNNING core).kept = true := by decide

theorem streamsLoaded_running (s : State) (core : Fin 64) (xs : List Stream) :
    fb (s.streamsLoaded core xs) (CORE_STREAM_STATUS_RUNNING core) = true := by
  rw [fb, State.streamsLoaded, fv_put _ _ _ (running_kept core)]
  rfl

section
variable {n : Nat} {t : Task} {s u w : State} {ds : List (List Nat)}

/-- The address of a task's program, and the number of its descriptors. -/
def progAddr (t : Task) : Nat := bits (t.words.getD 0 0) 0 52
def progDescs (t : Task) : Nat := bits (t.words.getD 0 0) 52 4 + 1

/-- The fetch of a program's descriptors. -/
def progFetch (s : State) (n : Nat) (t : Task) : M (Except (Option Nat) (List (List Nat))) :=
  fetchDescs (taskAcc s n (readClass s n none)) (progAddr t) (progDescs t)

theorem gives_programStart_of_idle (h : (theCore s n).task = none) : Gives (programStart n) s () s := fun q => by
  simp only [programStart, run_bind, run_getS, h, run_pure]

/-- The core may start the program of its task: it neither runs it yet nor stops for a save or is under test. -/
structure ProgramStarts (s : State) (n : Nat) (t : Task) : Prop where
  task : (theCore s n).task = some t
  unbegun : t.begun = false
  running : (theCore s n).stopped = 0
  untested : (theCore s n).sent = none

theorem ProgramStarts.can_start (h : ProgramStarts s n t) :
    (!t.begun && decide ((theCore s n).stopped = 0) && (theCore s n).sent.isNone) = true := by
  simp only [h.unbegun, h.running, h.untested, Bool.not_false, decide_true, Option.isNone_none, Bool.and_self]

theorem gives_programStart_of_waits (h : ProgramStarts s n t) (fetch : Gives (progFetch s n t) s (.error none) u) :
    Gives (programStart n) s () u := fun q => by
  simp only [progFetch, progAddr, progDescs] at fetch
  simp only [programStart, run_bind, run_getS, h.task, h.can_start, if_true, fetch _, run_pure]

theorem gives_programStart_of_unread {k : Nat} (h : ProgramStarts s n t) (fetch : Gives (progFetch s n t) s (.error (some k)) u)
    (fault : Gives (streamFault n 1 k 0xFFFFFFFF) (u.taskBegun n) () w) : Gives (programStart n) s () w := fun q => by
  simp only [progFetch, progAddr, progDescs] at fetch
  simp only [programStart, run_bind, run_getS, h.task, h.can_start, if_true, fetch _, run_modCore]
  exact fault q

theorem gives_programStart_of_bad {code k : Nat} (h : ProgramStarts s n t) (fetch : Gives (progFetch s n t) s (.ok ds) u)
    (bad : progCheck (slotOxen (coreMode s n)).length ds = some (code, k))
    (fault : Gives (streamFault n code k 0xFFFFFFFF) (u.taskBegun n) () w) : Gives (programStart n) s () w := fun q => by
  simp only [progFetch, progAddr, progDescs] at fetch
  simp only [programStart, run_bind, run_getS, h.task, h.can_start, if_true, fetch _, run_modCore, bad]
  exact fault q

/-- A good program without a bank to bind is loaded. -/
theorem gives_programStart_of_good (h : ProgramStarts s n t) (fetch : Gives (progFetch s n t) s (.ok ds) u)
    (good : progCheck (slotOxen (coreMode s n)).length ds = none) (unbound : programBinds ds = []) :
    Gives (programStart n) s () ((u.taskBegun n).streamsLoaded n (startStreams (progAddr t) ds)) := fun q => by
  have counters := run_each_of (fun u h => u.putReg (CORE_HC n h) 0) (fun h => setReg (CORE_HC n h) 0) fun _ _ _ => rfl
  have tiles := run_each_of (fun v k => v.putReg (CORE_NEXT_TILE n k) 0) (fun k => setReg (CORE_NEXT_TILE n k) 0) fun _ _ _ => rfl
  simp only [progFetch, progAddr, progDescs] at fetch
  simp only [programStart, run_bind, run_getS, h.task, h.can_start, if_true, fetch _, run_modCore, good, counters, tiles, run_setFld,
    unbound, run_each_nil]
  rfl

/-! ## The end (R154, R268) -/

/-- The task of a core has ended, and its completion is latched for the next tick (R29). -/
def State.taskEnded (u : State) (n : Nat) (ctx : Option Nat) : State :=
  (u.putCore n fun c => { c with task := c.task.map fun t => { t with ended := true } }).latching ⟨6, 0, ctx, n, .taskDone n⟩

theorem gives_drainStats_of_none (h : (theCore s n).statDue = []) : Gives (drainStats n) s () s := fun q => by
  simp only [drainStats, run_bind, run_getS, h, bne_self_eq_false, run_when'_false]

theorem ends_streamProgramEnd_of_undone {core : Fin 64} (drain : Gives (drainStats core) s () u) (undone : programDone u core = false) :
    Ends (exec (.streamProgramEnd core) s) u :=
  Ends.of_runT fun q => by simp only [run_bind, drain _, run_getS, undone, run_when'_false]

theorem ends_streamProgramEnd_of_done {core : Fin 64} (drain : Gives (drainStats core) s () u) (done : programDone u core = true)
    (stop : Gives (programEnd core) u () w) : Ends (exec (.streamProgramEnd core) s) (w.taskEnded core (ctxOfCore u core)) :=
  Ends.of_runT fun q => by
    simp only [run_bind, drain _, run_getS, done, run_when'_true, stop _, run_modCore, run_latch]
    rfl

end

/-- Settles O31: the end by what the owed statistics leave, and the start by what the fetch of the descriptors answers. -/
theorem aStreamProgramStartsAndEnds : Obligations.AStreamProgramStartsAndEnds := by
  intro core errs s hp hl
  refine ⟨?ends, fun idle => ?idle, fun t task unbegun running untested => ?starts⟩
  case ends =>
    obtain ⟨v, drain⟩ := (keep_drainStats core).gives_unit s
    obtain ⟨u, stop⟩ := (keep_programEnd core).gives_unit v
    exact ⟨v, drain, fun none_due => drain.unique (gives_drainStats_of_none none_due), ends_streamProgramEnd_of_undone drain,
      fun done => ⟨u, stop, ends_streamProgramEnd_of_done drain done stop⟩⟩
  case idle => exact (gives_programStart_of_idle (s := s.meeting errs) idle).runT_withErrs_unchanged hp hl
  case starts =>
    have starts : ProgramStarts (s.meeting errs) core t := ⟨task, unbegun, running, untested⟩
    obtain ⟨r, u, _, fetch⟩ := (keep_fetchDescs (taskAcc s core (readClass s core none)) (progAddr t) (progDescs t)).gives (s.meeting errs)
    refine ⟨r, u, fetch, fun waits => ?waits, fun k unread => ?unread, fun ds read => ⟨fun code k bad => ?bad, fun good unbound => ?good⟩⟩
    case waits =>
      subst waits
      exact Ends.of_errs (gives_programStart_of_waits starts fetch)
    case unread =>
      subst unread
      obtain ⟨w, fault⟩ := (keep_streamFault core 1 k 0xFFFFFFFF).gives_unit (u.taskBegun core)
      exact ⟨w, fault, Ends.of_errs (gives_programStart_of_unread starts fetch fault)⟩
    case bad =>
      subst read
      obtain ⟨w, fault⟩ := (keep_streamFault core code k 0xFFFFFFFF).gives_unit (u.taskBegun core)
      exact ⟨w, fault, Ends.of_errs (gives_programStart_of_bad starts fetch bad fault)⟩
    case good =>
      subst read
      exact ⟨_, Ends.of_errs (gives_programStart_of_good starts fetch good unbound), streamsLoaded_streams .., streamsLoaded_running ..⟩

end Sys2Proof.Machine
end

section
/-!
Tile events and the registers of a core (07_stations_and_streams.md, R268, R273, R275, R302, R303; 05_mule_and_reduction.md, R187;
15_hangs_resets_recovery.md, R639, R660): when the next event of a stream completes and what must be done before it, and what the
hand-over counters, the Collies' hand-off queues and the Mule's programs make of an access.
-/

namespace Sys2Proof.Machine

/-! ## The event of a tile (R268, R273, R639) -/

/-- The loader's part before an event: for event 0 of an OX stream it reads the stationary tile of a pass that stands at the head. -/
def loadFirst (x : Stream) (n k : Nat) (ev : Bool) : M Unit :=
  when' (dStation x.desc = stOx && !ev && x.state = 1 && decide (nextEvent x ev < x.next)) (loadPass n k (nextEvent x ev))

/-- The next event of a stream is due in the state that the loader left. -/
def EventDue (u : State) (x : Stream) (n k : Nat) (ev : Bool) : Prop :=
  x.state = 1 ∧ (theCore u n).stopped < 2 ∧ nextEvent x ev < x.next
    ∧ (if ev then event1 u n k (nextEvent x ev) else event0 u n k (nextEvent x ev)) = true

theorem running_and_begun_and_occurred_iff_eventDue (u : State) (x : Stream) (n k : Nat) (ev : Bool) :
    (x.state = 1 && decide ((theCore u n).stopped < 2) && decide (nextEvent x ev < x.next)
      && (if ev then event1 u n k (nextEvent x ev) else event0 u n k (nextEvent x ev))) = true ↔ EventDue u x n k ev := by
  simp only [EventDue, Bool.and_eq_true, decide_eq_true_eq, and_assoc]

/-- What the station does before its event completes: a tile that stores fences the core's writes, and the Mule finishes its tile. -/
def finishTile (d : List Nat) (n : Nat) (ev : Bool) : M Unit := do
  when' (dStation d = stStore && ev) (fenceOf n)
  when' (dStation d = stMule && !ev) (muleTileDone n)

section
variable {n k : Nat} {ev : Bool} {d : List Nat} {x : Stream} {s u v : State}

theorem gives_loadFirst_of_ox (ox : dStation x.desc = stOx)
    (load : Gives (when' (decide (x.state = 1) && decide (nextEvent x false < x.next)) (loadPass n k (nextEvent x false))) s () u) :
    Gives (loadFirst x n k false) s () u := by
  simpa only [loadFirst, ox, decide_true, Bool.not_false, Bool.true_and] using load

theorem gives_loadFirst_of_not_ox_event0 (other : dStation x.desc = stOx → ev = true) : Gives (loadFirst x n k ev) s () s := fun q => by
  cases ev with
  | true => simp only [loadFirst, Bool.not_true, Bool.and_false, Bool.false_and, run_when'_false]
  | false =>
    have not_ox : dStation x.desc ≠ stOx := fun ox => Bool.false_ne_true (other ox)
    simp only [loadFirst, not_ox, decide_false, Bool.false_and, run_when'_false]

theorem gives_finishTile_of_store (store : dStation d = stStore) (fence : Gives (fenceOf n) s () u) :
    Gives (finishTile d n true) s () u := fun q => by
  simp only [finishTile, run_bind, store, decide_true, Bool.true_and, run_when'_true, fence _, Bool.not_true, Bool.and_false,
    run_when'_false]

theorem gives_finishTile_of_mule (mule : dStation d = stMule) (done : Gives (muleTileDone n) s () u) :
    Gives (finishTile d n false) s () u := fun q => by
  simp only [finishTile, run_bind, mule, Bool.and_false, run_when'_false, decide_true, Bool.not_false, Bool.true_and, run_when'_true,
    done _]

theorem gives_finishTile_of_other (unstored : dStation d ≠ stStore ∨ ev = false) (not_mule : dStation d ≠ stMule) :
    Gives (finishTile d n ev) s () s := fun q => by
  have no_fence : (decide (dStation d = stStore) && ev) = false := by
    rcases unstored with h | h <;> simp only [h, decide_false, Bool.false_and, Bool.and_false]
  simp only [finishTile, run_bind, no_fence, not_mule, decide_false, Bool.false_and, run_when'_false]

theorem gives_tileEvent_of_undue (load : Gives (loadFirst (theStream s n k) n k ev) s () u)
    (undue : ¬ EventDue u (theStream s n k) n k ev) : Gives (tileEvent n k ev) s () u := fun q => by
  simp only [loadFirst] at load
  simp only [tileEvent, run_bind, run_getS, load _, running_and_begun_and_occurred_iff_eventDue, undue, if_false, run_pure]

/-- A due event completes after what its station does first; a TRAIL stream, which writes a record first (R301), is left out. -/
theorem gives_tileEvent_of_due (load : Gives (loadFirst (theStream s n k) n k ev) s () u) (due : EventDue u (theStream s n k) n k ev)
    (untrailed : dStation (theStream s n k).desc ≠ stTrail) (finish : Gives (finishTile (theStream s n k).desc n ev) u () v) :
    Gives (tileEvent n k ev) s () (v.eventDone n k (nextEvent (theStream s n k) ev) ev) := fun q => by
  have finished := finish fun _ => completeEvent n k (nextEvent (theStream s n k) ev) ev q
  simp only [loadFirst] at load
  simp only [tileEvent, run_bind, run_getS, load _, running_and_begun_and_occurred_iff_eventDue, due, if_true, untrailed, decide_false,
    Bool.false_and, Bool.false_eq_true, if_false]
  exact finished.trans (run_completeEvent ..)

end

section
variable {core : Fin 64} {slot : Fin 16} {ev : Bool} {s u : State}

/-- Where neither the loader nor a record comes between, the command answers the state in which the event is complete. -/
theorem exec_tileEventComplete_of_due (hp : s.trPend = []) (unloaded : dStation (theStream s core slot).desc = stOx → ev = true)
    (due : EventDue s (theStream s core slot) core slot ev) (untrailed : dStation (theStream s core slot).desc ≠ stTrail)
    (finish : Gives (finishTile (theStream s core slot).desc core ev) s () u) (u_trPend : u.trPend = s.trPend) :
    exec (.tileEventComplete core slot ev) s = .next (u.eventDone core slot (nextEvent (theStream s core slot) ev) ev) :=
  (gives_tileEvent_of_due (gives_loadFirst_of_not_ox_event0 unloaded) due untrailed finish).runT_eq
    ((eventDone_trPend ..).trans (u_trPend.trans hp))

end

/-! ## Requests to a core (R660) -/

section
variable {n a : Nat} {m : M Unit} {s t : State}

theorem gives_atCore_of_resetting (h : coreResetting s n = true) :
    Gives (atCore n a m) s () (s.refused a ((fv s (RESET_GEN_CORE_GEN n) + 1) % 65536)) := fun k => by
  simp only [atCore, run_bind, run_getS, h, if_true, run_refuseAt]

theorem gives_atCore_of_live (h : coreResetting s n = false) (hg : Gives m s () t) : Gives (atCore n a m) s () t := fun k => by
  simp only [atCore, run_bind, run_getS, h, Bool.false_eq_true, if_false, hg k]

end

/-! ## Hand-over counters (R275) -/

theorem gives_hcAddWrite (n h v : Nat) (s : State) : Gives (hcAddWrite n h v) s ()
    ((s.putReg (CORE_HC_ADD n) (h + v % 65536 * 2 ^ 16)).addMod (CORE_HC_VALUE n h) (v % 65536)) := fun k => by
  simp only [hcAddWrite, addHc, run_bind, run_setReg, run_addMod]

/-! ## The Collies' queues (R302, R303) -/

/-- The hand-offs that a Collie of a core has, the oldest first. -/
def handsOf (s : State) (n : Nat) (col : Bool) : List Handoff := if col then (theCore s n).hand1 else (theCore s n).hand0

/-- The hand-offs of a Collie are changed. -/
def State.putHands (s : State) (n : Nat) (col : Bool) (f : List Handoff → List Handoff) : State :=
  s.putCore n fun c => if col then { c with hand1 := f c.hand1 } else { c with hand0 := f c.hand0 }

/-- The hand-offs of a tile are taken. -/
def Handoff.takenWith (h x : Handoff) : Handoff := if x.slot = h.slot && x.tile = h.tile then { x with taken := true } else x

section
variable {n slot : Nat} {col : Bool} {h : Handoff} {s : State}

theorem handOf_theCore (s : State) (n : Nat) (col : Bool) : handOf (theCore s n) (b2n col) = handsOf s n col := by cases col <;> rfl

theorem run_modHand (f : List Handoff → List Handoff) (k : Unit → Act) (s : State) :
    Act.run (modHand n (b2n col) f k) s = Act.run (k ()) (s.putHands n col f) := by cases col <;> rfl

theorem gives_cqRead_of_none (none_left : (handsOf s n col).find? (fun h => !h.taken) = none) :
    Gives (cqRead n (b2n col)) s 0 s := fun k => by
  simp only [cqRead, run_bind, run_getS, handOf_theCore, none_left, run_pure]

theorem gives_cqRead_of_some (oldest : (handsOf s n col).find? (fun h => !h.taken) = some h) :
    Gives (cqRead n (b2n col)) s (h.tile % 2 ^ 32 + h.slot * 2 ^ 32 + 2 ^ 36) (s.putHands n col (·.map h.takenWith)) := fun k => by
  simp only [cqRead, run_bind, run_getS, handOf_theCore, oldest, run_modHand, run_pure]
  rfl

/-- The register that a write of CDONE reaches. -/
def cdoneReg (n : Nat) (col : Bool) : Nat := if col then CORE_CDONE1 n else CORE_CDONE0 n

theorem cdoneReg_b2n (n : Nat) (col : Bool) : (if b2n col = 0 then CORE_CDONE0 n else CORE_CDONE1 n) = cdoneReg n col := by
  cases col <;> rfl

theorem handsOf_putReg (a v : Nat) : handsOf (s.putReg a v) n col = handsOf s n col := rfl

theorem gives_cdoneWrite_of_none (none_held : (handsOf s n col).find? (fun h => h.slot = slot) = none) :
    Gives (cdoneWrite n (b2n col) slot) s () (s.putReg (cdoneReg n col) slot) := fun k => by
  simp only [cdoneWrite, run_bind, run_setReg, run_getS, cdoneReg_b2n, handOf_theCore, handsOf_putReg, none_held, run_pure]

theorem gives_cdoneWrite_of_some (oldest : (handsOf s n col).find? (fun h => h.slot = slot) = some h) :
    Gives (cdoneWrite n (b2n col) slot) s () ((s.putReg (cdoneReg n col) slot).putHands n col (·.erase h)) := fun k => by
  simp only [cdoneWrite, run_bind, run_setReg, run_getS, cdoneReg_b2n, handOf_theCore, handsOf_putReg, oldest, run_modHand]

theorem exec_cqRead_of_live {core : Fin 64} {v : Nat} {t : State} (live : coreResetting s core = false)
    (read : Gives (cqRead core (b2n col)) s v t) : exec (.cqRead core col) s
      = .next (t.says (.regValue (if col then CORE_CQ1 core else CORE_CQ0 core) v)) :=
  Gives.runM_eq (gives_atCore_of_live live fun k => by simp only [run_bind, read _, run_emit])

end

/-! ## The Mule's programs and tables (R187) -/

/-- An offset of a core is that of a word of PROG or TABLE. -/
def InMuleProg (off : Nat) : Prop := off % 8 = 0 ∧ ((0x4000 ≤ off ∧ off < 0x6000) ∨ (0x8000 ≤ off ∧ off < 0xC000 ∧ off % 0x1000 < 3088))

theorem aligned_and_in_range_iff_inMuleProg (off : Nat) : (off % 8 = 0 && ((decide (0x4000 ≤ off) && decide (off < 0x6000))
    || (decide (0x8000 ≤ off) && decide (off < 0xC000) && decide (off % 0x1000 < 3088)))) = true ↔ InMuleProg off := by
  simp only [InMuleProg, Bool.and_eq_true, Bool.or_eq_true, decide_eq_true_eq, and_assoc]

/-- A write comes to a word of a program or table: it is held while a tile uses the word. -/
def State.muleWritten (s : State) (n a v : Nat) : State :=
  if muleUses s n a = true then s.putCore n fun c => { c with mule := { c.mule with held := c.mule.held ++ [⟨a, v, none⟩] } }
  else s.putReg a v

section
variable {core : Fin 64} {off data : Nat} {s t : State}

theorem gives_muleWrite (n a v : Nat) (s : State) : Gives (muleWrite n a v) s () (s.muleWritten n a v) := fun k => by
  simp only [muleWrite, State.muleWritten, run_bind, run_getS, run_ite, run_modCore, run_setReg]
  split <;> rfl

theorem exec_muleProgWrite_of_outside (outside : ¬ InMuleProg off) : exec (.muleProgWrite core off data) s = .next s :=
  Gives.runM_eq fun k => by simp only [aligned_and_in_range_iff_inMuleProg, outside, if_false, run_pure]

theorem exec_muleProgWrite_of_inside (inside : InMuleProg off)
    (write : Gives (atCore core (0xF00001000000 + 0x40000 * core.val + off) (muleWrite core (0xF00001000000 + 0x40000 * core.val + off) data))
      s () t) : exec (.muleProgWrite core off data) s = .next t :=
  Gives.runM_eq fun k => by simp only [aligned_and_in_range_iff_inMuleProg, inside, if_true, write k]

end

/-- Settles O28: an event by whether it is due and by what its station does before it, the registers by what each write gives. -/
theorem tileEventsAndCoreRegisterCommandsAct : Obligations.TileEventsAndCoreRegisterCommandsAct := by
  refine ⟨fun core slot event s hp => ⟨fun undue other => ?undue, fun due other untrailed not_mule unstored => ?plain,
    fun due store ev => ?store, fun due mule ev => ?mule, fun ox ev => ?ox⟩, fun core slot hc col add off data s =>
    ⟨fun resetting => ?resetting, exec_muleProgWrite_of_outside, fun live => ?live⟩⟩
  case undue => exact (gives_tileEvent_of_undue (gives_loadFirst_of_not_ox_event0 other) undue).runT_eq hp
  case plain => exact exec_tileEventComplete_of_due hp other due untrailed (gives_finishTile_of_other unstored not_mule) rfl
  case store =>
    subst ev
    obtain ⟨u, fence⟩ := (keep_fenceOf core).gives_unit s
    exact ⟨u, fence, exec_tileEventComplete_of_due hp (fun _ => rfl) due (by rw [store]; decide) (gives_finishTile_of_store store fence)
      (fence.trPend (keep_fenceOf ..) (by decide))⟩
  case mule =>
    subst ev
    obtain ⟨u, done⟩ := (keep_muleTileDone core).gives_unit s
    exact ⟨u, done, exec_tileEventComplete_of_due hp (by rw [mule]; decide) due (by rw [mule]; decide)
      (gives_finishTile_of_mule mule done) (done.trPend (keep_muleTileDone ..) (by decide))⟩
  case ox =>
    subst ev
    obtain ⟨u, load⟩ := (Keep.when' (keep_loadPass core slot (nextEvent (theStream s core slot) false))).gives_unit s
    have first := gives_loadFirst_of_ox ox load
    refine ⟨u, load, fun due => Ends.of_runT ?_, fun undue => Ends.of_runT (gives_tileEvent_of_undue first undue)⟩
    exact gives_tileEvent_of_due first due (by rw [ox]; decide) (gives_finishTile_of_other (.inr rfl) (by rw [ox]; decide))
  case resetting =>
    exact ⟨Gives.runM_eq (gives_atCore_of_resetting resetting), Gives.runM_eq (gives_atCore_of_resetting resetting),
      Gives.runM_eq (gives_atCore_of_resetting resetting),
      fun inside => exec_muleProgWrite_of_inside inside (gives_atCore_of_resetting resetting)⟩
  case live =>
    exact ⟨Gives.runM_eq (gives_atCore_of_live live (gives_hcAddWrite _ _ _ _)),
      fun none_left => exec_cqRead_of_live live (gives_cqRead_of_none none_left),
      fun h oldest => exec_cqRead_of_live live (gives_cqRead_of_some oldest),
      fun none_held => Gives.runM_eq (gives_atCore_of_live live (gives_cdoneWrite_of_none none_held)),
      fun h oldest => Gives.runM_eq (gives_atCore_of_live live (gives_cdoneWrite_of_some oldest)),
      fun inside => exec_muleProgWrite_of_inside inside (gives_atCore_of_live live (gives_muleWrite _ _ _ _))⟩

end Sys2Proof.Machine
end

section
/-!
Waits for a bank (06_core_memory.md, R222, R242): what BANK_BIND does where the bank it waits for faults, and why the wait is
counted too where the fault itself moves the field that judged the bank.
-/

namespace Sys2Proof.Machine

section
variable {n k : Nat} {w : Nat × Nat} {s : State}

/-- The wait for a bank stays on the core through the fault, so it counts a cycle where the bank no longer refuses (R222). -/
theorem gives_bindTry_of_lifted (good : (theCore s n).progBad = false)
    (one : (theCore s n).bindWait.filter (fun b => b.1 = k) = [w]) (refused : bankGate s n w.2 = .refused)
    (lifted : bankGate (s.bankFaulting n w.2 0) n w.2 ≠ .refused) :
    Gives (bindTry n k) s () ((s.bankFaulting n w.2 0).count (CORE_BIND_WAIT_COUNT n) 1) := fun q => by
  have waits : w ∈ (theCore s n).bindWait ∧ decide (w.1 = k) = true := List.mem_filter.mp (one ▸ List.mem_singleton_self w)
  have core : theCore (s.bankFaulting n w.2 0) n = theCore s n := rfl
  have counts : (theCore (s.bankFaulting n w.2 0) n).bindWait.any
      (fun b => b.1 = k && bankGate (s.bankFaulting n w.2 0) n b.2 != .refused) = true := by
    rw [core, List.any_eq_true]
    exact ⟨w, waits.1, by rw [waits.2, Bool.true_and, bne_iff_ne]; exact lifted⟩
  simp only [bindTry, run_bind, run_getS, good, Bool.not_false, if_true, one, run_each_cons, run_each_nil, refused, run_bankFault, counts,
    run_when'_true, run_bump]

end

/-- The device after reset, but that slot 15 of core 0 waits for a bank 17, which no core has, while the core has counted 3
bank faults: BANK_FAULTS stands where the power register of a bank 17 would. -/
def waitsForBank17 : State :=
  (State.reset.put (CORE_BANK_FAULTS_COUNT 0) 3).putCore 0 fun c => { c with bindWait := [(15, 17)] }

/-- Refutes O29: the statement takes a wait for any number of a bank, also one that no core has. The bank 17 of
`waitsForBank17` refuses as 3 modulo 4 is no TARGET of ON; its fault is the fourth that BANK_FAULTS counts, after which the
bank no longer refuses, and the model counts a waiting cycle where the statement asks for none. -/
theorem not_banksExchangeAndBind : ¬ Obligations.BanksExchangeAndBind := by
  intro h
  have one : (theCore waitsForBank17 0).bindWait.filter (fun b => b.1 = 15) = [(15, 17)] := by decide
  have good : (theCore waitsForBank17 0).progBad = false := by decide
  have refused : bankGate waitsForBank17 0 17 = .refused := by decide
  have lifted : bankGate (waitsForBank17.bankFaulting 0 17 0) 0 17 ≠ .refused := by decide
  obtain ⟨_, _, _, _, binds⟩ := h 0 15 false waitsForBank17 rfl
  have claimed := (binds (15, 17) one good).1 refused
  have actual : exec (.bankBind 0 15) waitsForBank17 = .next _ := (gives_bindTry_of_lifted good one refused lifted).runT_eq rfl
  have same := congrArg (fv · (CORE_BIND_WAIT_COUNT 0)) (Host.Outcome.next.inj (claimed.symm.trans actual))
  exact absurd same (by decide)

end Sys2Proof.Machine
end

section
/-!
Power of the banks (06_core_memory.md, R231 to R243, R250, R702): the state that a request and the end of a transition turn a
bank to, and what a retirement adds to the history and leaves of the other cores.
-/

namespace Sys2Proof.Machine

/-! ## Requests (R232 to R241, R702) -/

/-- A bank begins to go down to RETENTION or OFF. -/
def State.bankGoing (s : State) (n b reach : Nat) : State := (s.putTr n b fun _ => ⟨true, reach, none, false⟩).bankAs n b reach 3

/-- A bank begins to wake from RETENTION or OFF. -/
def State.bankWaking (s : State) (n b reach : Nat) : State := (s.putTr n b fun _ => ⟨true, reach, none, false⟩).bankAs n b 0 4

/-- A request for ON (0), RETENTION (1) or OFF (2) has come to a bank (R232 to R241, R702). -/
def State.bankTurned (s : State) (n b t : Nat) : State :=
  let st := fv s (bankState n b)
  let tr := theTr s n b
  if t = 3 ∨ (t = 0 ∧ fb s (bankRetired n b) = true) then s
  else if st = 0 then if t = 0 then s else s.bankGoing n b t
  else if st = 1 then if t = 0 then s.bankWaking n b 1 else if t = 2 then s.bankGoing n b 2 else s
  else if st = 2 then if t = 0 then s.bankWaking n b 2 else s
  else if st = 3 then
    if t = 0 then (s.putTr n b fun x => { x with latched := some 0 }).bankAs n b 0 5 else s.bankGoing n b (max tr.reach t)
  else if st = 4 then if t = 0 then s else (s.putTr n b fun x => { x with latched := some t }).bankAs n b t 6
  else if st = 5 then if t = 0 then s else s.bankGoing n b (max tr.reach t)
  else if t = 0 then (s.putTr n b fun x => { x with latched := none }).bankAs n b 0 4
  else (s.putTr n b fun x => { x with latched := some (max t (tr.latched.getD t)) }).put (bankTarget n b)
    (max t (tr.latched.getD t))

section
variable {n b t m : Nat} {s u : State}

theorem run_bankDown (n b t : Nat) (k : Unit → Act) (s : State) :
    Act.run (bankDown n b t k) s = Act.run (k ()) (s.bankGoing n b t) := rfl

theorem run_bankWake (n b t : Nat) (k : Unit → Act) (s : State) :
    Act.run (bankWake n b t k) s = Act.run (k ()) (s.bankWaking n b t) := rfl

/-- The request and the state it leaves branch alike: by the request, then by the state of the bank. -/
theorem gives_bankTurn (h : t ≤ 3) : Gives (bankTurn n b t) s () (s.bankTurned n b t) := fun k => by
  have reserved : 3 ≤ t ↔ t = 3 := by omega
  simp only [bankTurn, State.bankTurned, apply_ite (Act.run (k ())), run_bind, run_getS, run_ite, run_when', run_pure, run_bankDown,
    run_bankWake, run_modTr, run_bankSet, run_setFld, ge_iff_le, reserved, Bool.or_eq_true, Bool.and_eq_true, decide_eq_true_eq,
    bne_iff_ne, ne_eq, ite_not]

theorem theCore_putTr_ne (hm : m ≠ n) (f : BankTr → BankTr) : theCore (s.putTr n b f) m = theCore s m := by
  rw [State.putTr, theCore_putCore, if_neg hm]

theorem theCore_bankAs (target state : Nat) : theCore (s.bankAs n b target state) m = theCore s m := rfl

theorem theCore_bankTurned_ne (hm : m ≠ n) : theCore (s.bankTurned n b t) m = theCore s m := by
  simp only [State.bankTurned, State.bankGoing, State.bankWaking, apply_ite (theCore · m), theCore_bankAs, theCore_put,
    theCore_putTr_ne hm, ite_self]

/-! ## What waits for a bank (R235 to R237) -/

/-- No access waits for a bank. -/
def NoneWaits (s : State) (n b : Nat) : Prop :=
  (theCore s n).winWait.any (fun w => w.bank = b) = false ∧ (theCore s n).bankWaits.any (fun w => w.bank = b) = false

theorem gives_bankJudge_of_noneWaits (h : NoneWaits s n b) : Gives (bankJudge n b) s () s := fun k => by
  obtain ⟨win, units⟩ := h
  simp only [bankJudge, run_bind, run_getS, win, units, Bool.or_self, run_when'_false]

/-- No other core is changed. -/
def CoresKept (n : Nat) (s t : State) : Prop := ∀ m, m ≠ n → theCore t m = theCore s m

/-- The other cores' being kept goes on from change to change. -/
def coresRel (n : Nat) : Rel := ⟨CoresKept n, fun _ _ _ => rfl, fun _ _ _ h h' m hm => (h' m hm).trans (h m hm)⟩

theorem coresRel_of {mask : Nat} (h : mask.testBit 11 = false) : (coresRel n).of mask :=
  fun p hp s m _ => theCore_congr ((p.same mask hp s).at .cores h) m

theorem within_coresRel_modCore (f : CoreSt → CoreSt) : Within (coresRel n) (modCore n f) :=
  fun s => ⟨(), s.putCore n f, fun m hm => by rw [theCore_putCore, if_neg hm], fun _ => rfl⟩

theorem within_unitRefuse (w : BankWait) : Within (coresRel n) (unitRefuse n w) := by
  unfold unitRefuse
  refine (Within.of_keep (keep_bankFault ..) (coresRel_of (by decide))).bind fun _ => .ite (within_coresRel_modCore _) (.when' ?_)
  exact (Within.of_keep (keep_modOx ..) (coresRel_of (by decide))).bind fun _ => .of_keep (keep_bump ..) (coresRel_of (by decide))

/-- What waits for a bank waits in its core. -/
theorem within_bankJudge (n b : Nat) : Within (coresRel n) (bankJudge n b) := by
  have serve (w : WinReq) : Within (coresRel n) (winServe n w) := .of_keep (keep_winServe ..) (coresRel_of (by decide))
  have refuse (w : WinReq) : Within (coresRel n) (winRefuse n w) := .of_keep (keep_winRefuse ..) (coresRel_of (by decide))
  unfold bankJudge
  refine Within.getS.bind fun _ => Within.when' ?_
  split
  · exact .pure ()
  · exact (within_coresRel_modCore _).bind fun _ => .each fun w _ => serve w
  · exact (within_coresRel_modCore _).bind fun _ => Within.bind (.each fun w _ => refuse w) fun _ =>
      .each fun w _ => within_unitRefuse w

theorem gives_bankRequest (h : t ≤ 3) (judge : Gives (bankJudge n b) (s.bankTurned n b t) () u) :
    Gives (bankRequest n b t) s () u := (gives_bankTurn h).bind judge

/-! ## The end of a transition (R231, R232, R238, R240) -/

/-- A bank that was OFF holds zeros. -/
def State.bankEmptied (s : State) (n b : Nat) : State := if (theTr s n b).reach = 2 then s.bankCleared n b else s

/-- A bank's transition is complete, and the request that it latched begins. -/
def State.bankArrived (s : State) (n b : Nat) : State :=
  let st := fv s (bankState n b)
  let tr := theTr s n b
  if st = 3 then ((s.bankEmptied n b).putTr n b fun _ => .none).put (bankState n b) tr.reach
  else if st = 5 then (s.bankEmptied n b).bankWaking n b tr.reach
  else if st = 4 then ((s.bankEmptied n b).putTr n b fun _ => .none).put (bankState n b) 0
  else if st = 6 then (s.bankEmptied n b).bankGoing n b (tr.latched.getD 1)
  else s

theorem run_bankEmptied (n b : Nat) (k : Unit → Act) (s : State) :
    Act.run (when' ((theTr s n b).reach = 2) (clearBank n b) k) s = Act.run (k ()) (s.bankEmptied n b) := by
  simp only [State.bankEmptied, apply_ite (Act.run (k ())), run_when', decide_eq_true_eq, run_clearBank]

theorem gives_bankArrive (n b : Nat) (s : State) : Gives (bankArrive n b) s () (s.bankArrived n b) := fun k => by
  simp only [bankArrive, bankAwake, State.bankArrived, apply_ite (Act.run (k ())), run_bind, run_getS, run_ite, run_bankEmptied,
    run_modTr, run_setFld, run_bankWake, run_bankDown, run_pure]

/-! ## Retirement (R242, R243) -/

/-- The history ends with the live entry of a bank's retirement at a tick (Table 14.7a). -/
def RetirementNoted (s : State) (n b tick : Nat) : Prop :=
  ∃ e, s.history.getLast? = some e ∧ e.kind = 4 ∧ e.unit = n ∧ e.data = b ∧ e.tick = tick ∧ e.live = true

theorem gives_historyAdd_of_retirement (n b : Nat) (s : State) :
    ∃ t, SameBut 0x100000 s t ∧ Gives (historyAdd 4 n b) s () t ∧ RetirementNoted t n b s.tick :=
  ⟨_, Prim.same (.modHistory _) _ (show Nat.testBit _ 20 = true by decide) s, fun _ => rfl, _, List.getLast?_concat .., rfl, rfl, rfl,
    rfl, rfl⟩

theorem gives_bankRetireNow_of_retired (h : fb s (bankRetired n b) = true) : Gives (bankRetireNow n b) s () s := fun k => by
  simp only [bankRetireNow, run_bind, run_getS, h, Bool.not_true, Bool.false_eq_true, if_false, run_pure]

/-- OFF is requested first, which leaves the tick and the other cores, then the entry is made and the capability record written. -/
theorem gives_bankRetireNow_of_unretired (h : fb s (bankRetired n b) = false) :
    ∃ t, Gives (bankRetireNow n b) s () t ∧ RetirementNoted t n b s.tick ∧ CoresKept n s t := by
  obtain ⟨_, u, others, judge⟩ := within_bankJudge n b ((s.put (bankRetired n b) 1).bankTurned n b 2)
  have request : Gives (bankRequest n b 2) (s.put (bankRetired n b) 1) () u := gives_bankRequest (by decide) judge
  have tick : u.tick = s.tick := (request.same (keep_bankRequest ..)).at .tick (by decide)
  obtain ⟨v, same, add, noted⟩ := gives_historyAdd_of_retirement n b u
  rw [tick] at noted
  refine ⟨v.recapped, fun k => ?_, by rwa [RetirementNoted, recapped_history], fun m hm => ?_⟩
  · simp only [bankRetireNow, run_bind, run_getS, h, Bool.not_false, if_true, run_setFld, request _, add _, run_capUpdate]
  · calc theCore v.recapped m = theCore v m := theCore_recapped ..
      _ = theCore u m := theCore_congr (same.at .cores (by decide)) m
      _ = theCore ((s.put (bankRetired n b) 1).bankTurned n b 2) m := others m hm
      _ = theCore s m := theCore_bankTurned_ne hm

/-! ## A write of TARGET or RETIRED (R250) -/

theorem gives_bankWriteReq_of_stopped (h : 2 ≤ (theCore s n).stopped) : Gives (bankWriteReq n b t) s ()
    (s.putCore n fun c => { c with deferred := c.deferred ++ [(b, t)] }) := fun k => by
  simp only [bankWriteReq, run_bind, run_getS, h, if_true, run_modCore]

theorem gives_bankWriteReq_of_target (going : (theCore s n).stopped < 2) (h : t ≤ 3)
    (judge : Gives (bankJudge n b) (s.bankTurned n b t) () u) : Gives (bankWriteReq n b t) s () u := fun k => by
  simp only [bankWriteReq, run_bind, run_getS, not_le.mpr going, if_false, show t ≠ 4 by omega]
  exact gives_bankRequest h judge k

theorem gives_bankWriteReq_of_retired (going : (theCore s n).stopped < 2) (retire : Gives (bankRetireNow n b) s () u) :
    Gives (bankWriteReq n b 4) s () u := fun k => by
  simp only [bankWriteReq, run_bind, run_getS, not_le.mpr going, if_false, if_true, retire k]

end

/-- Settles O32: a request and the end of a transition by the state they turn the bank to, a retirement by the request for OFF
and the entry that follow it. -/
theorem banksChangePowerAndRetire : Obligations.BanksChangePowerAndRetire := by
  refine ⟨fun core bank target s => ⟨fun resetting => ?refused, fun live stopped => ?deferred, fun live going => ?turned⟩,
    fun core bank s => ⟨?arrived, fun resetting => ?retireRefused, fun live going retired => ?retiredBefore,
      fun live going unretired => ?retires⟩⟩
  case refused => exact Gives.runM_eq (gives_atCore_of_resetting resetting)
  case deferred => exact Gives.runM_eq (gives_atCore_of_live live (gives_bankWriteReq_of_stopped stopped))
  case turned =>
    obtain ⟨u, judge⟩ := (keep_bankJudge core bank).gives_unit (s.bankTurned core bank target)
    have write := gives_bankWriteReq_of_target going (Nat.le_of_lt_succ target.isLt) judge
    exact ⟨u, judge, Gives.runM_eq (gives_atCore_of_live live write), fun none => judge.unique (gives_bankJudge_of_noneWaits none)⟩
  case arrived =>
    obtain ⟨u, judge⟩ := (keep_bankJudge core bank).gives_unit (s.bankArrived core bank)
    exact ⟨u, judge, Gives.runM_eq ((gives_bankArrive core bank s).bind judge),
      fun window units => judge.unique (gives_bankJudge_of_noneWaits ⟨window, units⟩)⟩
  case retireRefused => exact Gives.runM_eq (gives_atCore_of_resetting resetting)
  case retiredBefore =>
    exact Gives.runM_eq (gives_atCore_of_live live (gives_bankWriteReq_of_retired going (gives_bankRetireNow_of_retired retired)))
  case retires =>
    obtain ⟨t, retire, noted, others⟩ := gives_bankRetireNow_of_unretired unretired
    exact ⟨t, Gives.runM_eq (gives_atCore_of_live live (gives_bankWriteReq_of_retired going retire)), noted, others⟩

end Sys2Proof.Machine
end

section
/-!
Cores that stop for a save (07_stations_and_streams.md, R304; 08_dispatch_and_contexts.md, R343, R345): when a core of a saving context
stands and its image is copied, and the fault of a save whose cores do not stand in time.
-/

namespace Sys2Proof.Machine

theorem theCtx_congr {s t : State} (h : t.ctxs = s.ctxs) (c : Nat) : theCtx t c = theCtx s c := congrArg (mget _ · c) h

/-! ## A core stands (R304) -/

/-- A core stands: it receives nothing more, its segments are gone, and its status says that it has stopped. -/
def State.stood (s : State) (n : Nat) : State :=
  let t := (s.putFab fun f => { f with recvs := f.recvs.filter fun r => r.core != n || r.dead }).putCore n fun c =>
    { c with stopped := 2, segs := [] }
  (t.put (CORE_STREAM_STATUS_STOPPED n) 1).put (CORE_MULE_STATUS_STATE n) 3

theorem theCore_stood_stopped (s : State) (n : Nat) : (theCore (s.stood n) n).stopped = 2 := by
  simp only [State.stood, theCore_put, theCore_putCore_same]

section
variable {n c : Nat} {op : SaveOp} {s u v : State}

theorem gives_standCore (fence : Gives (fenceOf n) s () u) (area : Gives (putArea n) u () v) :
    Gives (standCore n) s () (v.stood n) := fun k => by
  simp only [standCore, run_bind, fence _, area _, run_modFab, run_modCore, run_setFld, State.stood]

theorem exists_gives_standCore (n : Nat) (s : State) : ∃ u, Gives (standCore n) s () u ∧ (theCore u n).stopped = 2 := by
  obtain ⟨u, fence⟩ := (keep_fenceOf n).gives_unit s
  obtain ⟨v, area⟩ := (keep_putArea n).gives_unit u
  exact ⟨v.stood n, gives_standCore fence area, theCore_stood_stopped v n⟩

theorem theCtx_of_standCore (stand : Gives (standCore n) s () u) (c : Nat) : theCtx u c = theCtx s c :=
  theCtx_congr ((stand.same (keep_standCore n)).at .ctxs (by decide)) c

/-! ## The cores of a save (R304, R343) -/

/-- A core belongs to a context whose save has begun, and is still to stand for it. -/
structure StopsForSave (s : State) (n c : Nat) (op : SaveOp) : Prop where
  holder : holderOf s n = some c
  save : (theCtx s c).save = some op
  begun : op.begun = true
  stopping : (theCore s n).stopped = 1

theorem gives_coreStops_of_unheld (unheld : holderOf s n = none) : Gives (coreStops n) s () s := fun k => by
  simp only [coreStops, run_bind, run_getS, unheld, run_pure]

theorem gives_coreStops_of_working (h : StopsForSave s n c op) (working : stopReady s n = false) : Gives (coreStops n) s () s :=
  fun k => by
    simp only [coreStops, run_bind, run_getS, h.holder, h.save, h.begun, Bool.not_true, run_when'_false, working, Bool.and_false,
      h.stopping, Nat.reduceEqDiff, decide_false, Bool.false_and]

/-- Standing leaves the save as it was, so that the copy of the core's image comes next. -/
theorem gives_coreStops_of_ready (h : StopsForSave s n c op) (ready : stopReady s n = true) (listed : op.cores.contains n = true)
    (uncopied : op.copied.contains n = false) (stand : Gives (standCore n) s () u) (stood : (theCore u n).stopped = 2)
    (copy : Gives (copyImage n c (op.cores.findIdx (· = n))) u () v) : Gives (coreStops n) s () v := fun k => by
  have same_save : (theCtx u c).save = some op := by rw [theCtx_of_standCore stand, h.save]
  simp only [coreStops, run_bind, run_getS, h.holder, h.save, h.begun, Bool.not_true, run_when'_false, h.stopping, decide_true, ready,
    Bool.and_self, run_when'_true, stand _, same_save, stood, listed, uncopied, Bool.not_false, copy k]

/-! ## A save that takes too long (R345) -/

theorem gives_saveTimesOut_of_in_time (in_time : saveLate s c = none) : Gives (saveTimesOut c) s () s := fun k => by
  simp only [saveTimesOut, run_bind, run_getS, in_time, run_pure]

theorem gives_saveTimesOut_of_late (late : saveLate s c = some n)
    (fault : Gives (takeFault ⟨14, 3, c, n, 0xFFFF, taskRef s n, 0, 0, 0⟩) (s.ranked 4) () u) : Gives (saveTimesOut c) s () u :=
  fun k => by simp only [saveTimesOut, run_bind, run_getS, late, run_noteRank, fault k]

end

/-- Settles O24: a core by whether a save holds it and by whether its units are done, the timeout by whether a core is late. -/
theorem coresStopForASaveInTime : Obligations.CoresStopForASaveInTime := by
  refine ⟨fun core s hp => ⟨fun unheld => ?unheld, fun c op holder save begun => ⟨fun stopping working => ?working,
    fun stopping ready listed uncopied => ?ready⟩⟩, fun ctx s hp => ⟨fun in_time => ?inTime, fun n late => ?late⟩⟩
  case unheld => exact (gives_coreStops_of_unheld unheld).runT_eq hp
  case working => exact (gives_coreStops_of_working ⟨holder, save, begun, stopping⟩ working).runT_eq hp
  case ready =>
    obtain ⟨u, stand, stood⟩ := exists_gives_standCore core s
    obtain ⟨t, copy⟩ := (keep_copyImage core c (op.cores.findIdx (· = core.val))).gives_unit u
    exact ⟨u, t, stand, stood, copy,
      Ends.of_runT (gives_coreStops_of_ready ⟨holder, save, begun, stopping⟩ ready listed uncopied stand stood copy)⟩
  case inTime => exact (gives_saveTimesOut_of_in_time in_time).runT_eq hp
  case late =>
    obtain ⟨u, fault⟩ := (keep_takeFault ⟨14, 3, ctx, n, 0xFFFF, taskRef s n, 0, 0, 0⟩).gives_unit (s.ranked 4)
    exact ⟨u, fault, Ends.of_runT (gives_saveTimesOut_of_late late fault)⟩

end Sys2Proof.Machine
end

section
/-!
Tiles that move no bytes (07_stations_and_streams.md, R291 to R293, R302): what a tile of YOKE, OX or COLLIE hands over to the
Yoke, the Oxen or the Collie, and when it waits.
-/

namespace Sys2Proof.Machine

section
variable {n k i col : Nat} {a b : Bool} {s u : State} {r : TRes} {d : List Nat}

/-! ## The work of a station's tile: where the start's check finds nothing, the codes of Table 7.6 choose it by computing -/

theorem gives_tileWork_of_yoke (station : dStation (theStream s n k).desc = stYoke)
    (good : startCheck s n k (theStream s n k).desc i = none) (work : Gives (yokeTileWork n k i) s r u) :
    Gives (tileWork n k i a b) s r u := fun q => by
  simp only [tileWork, run_bind, run_getS, run_ite, station, good]
  exact work q

theorem gives_tileWork_of_ox (station : dStation (theStream s n k).desc = stOx)
    (good : startCheck s n k (theStream s n k).desc i = none) (work : Gives (oxTileWork n k i) s r u) :
    Gives (tileWork n k i a b) s r u := fun q => by
  simp only [tileWork, run_bind, run_getS, run_ite, station, good]
  exact work q

theorem gives_tileWork_of_collie (station : dStation (theStream s n k).desc = stCollie)
    (good : startCheck s n k (theStream s n k).desc i = none) (work : Gives (collieTileWork n k i) s r u) :
    Gives (tileWork n k i a b) s r u := fun q => by
  simp only [tileWork, run_bind, run_getS, run_ite, station, good]
  exact work q

/-! ## COLLIE (R302) -/

/-- The hand-off of tile i of a COLLIE stream. -/
def collieHandoff (d : List Nat) (k i : Nat) : Handoff := ⟨k, i, (origin d i).1, (origin d i).2, df d 8 32 32, false⟩

/-- The hand-offs that a Collie has not taken yet. -/
def untaken (s : State) (n col : Nat) : List Handoff := (handOf (theCore s n) col).filter fun h => !h.taken

theorem gives_collieTileWork_of_full (full : 8 ≤ (untaken s n (df (theStream s n k).desc 8 0 1)).length) :
    Gives (collieTileWork n k i) s .wait s := fun q => by
  unfold untaken at full
  simp only [collieTileWork, run_bind, run_getS, full, ge_iff_le, if_true, run_pure]

/-- A Collie is handed a hand-off, the newest of its queue. -/
def State.handedOff (s : State) (n col : Nat) (h : Handoff) : State :=
  s.putCore n fun c => if col = 0 then { c with hand0 := c.hand0 ++ [h] } else { c with hand1 := c.hand1 ++ [h] }

theorem gives_collieTileWork_of_room (room : (untaken s n (df (theStream s n k).desc 8 0 1)).length < 8) :
    Gives (collieTileWork n k i) s .ok ((s.handedOff n (df (theStream s n k).desc 8 0 1)
      (collieHandoff (theStream s n k).desc k i)).says (.collieIrq n (df (theStream s n k).desc 8 0 1))) := fun q => by
  unfold untaken at room
  simp only [collieTileWork, run_bind, run_getS, ge_iff_le, not_le.mpr room, if_false, modHand, run_modCore, run_emit, run_pure,
    State.handedOff, collieHandoff]

/-! ## OX (R293) -/

theorem gives_oxTileWork_of_full (full : ∃ p ∈ oxParts s n (theStream s n k).desc, 4 ≤ (theOx s p.2).queue.length) :
    Gives (oxTileWork n k i) s .wait s := fun q => by
  have one_full : (oxParts s n (theStream s n k).desc).any (fun p => decide ((theOx s p.2).queue.length ≥ 4)) = true := by
    simpa only [List.any_eq_true, decide_eq_true_eq] using full
  simp only [oxTileWork, run_bind, run_getS, one_full, if_true, run_pure]

theorem gives_oxTileWork_of_one {p : Nat × Nat} (one : oxParts s n (theStream s n k).desc = [p])
    (room : (theOx s p.2).queue.length < 4) : Gives (oxTileWork n k i) s .ok (s.putOx p.2 fun y =>
      { y with queue := y.queue ++ [⟨makePass (theStream s n k).desc i p.1, false, false⟩] }) := fun q => by
  have push := gives_pushPass (s := s) (o := p.2) (d := makePass (theStream s n k).desc i p.1)
  rw [if_pos room] at push
  simp only [oxTileWork, run_bind, run_getS, one, List.any_cons, List.any_nil, Bool.or_false, ge_iff_le, not_le.mpr room, decide_false,
    Bool.false_eq_true, if_false, run_each_cons, run_each_nil, push _, run_pure]

/-! ## YOKE (R291, R292) -/

/-- The rows of a YOKE stream's segment with those of tile i, whose first tile begins them anew. -/
def segmentRows (s : State) (n k i : Nat) : List YRow :=
  (if i % yokeTps (theStream s n k).desc = 0 then [] else (theStream s n k).rows) ++ yokeRows s n (theStream s n k).desc i

/-- A YOKE stream holds the rows of its segment, until the segment's last tile hands them to the Yoke. -/
def State.rowsHanded (s : State) (n k i : Nat) : State :=
  if i % yokeTps (theStream s n k).desc + 1 = yokeTps (theStream s n k).desc then
    (s.putCore n fun c => { c with segs := c.segs ++ [yokeSegment (theStream s n k).desc i (segmentRows s n k i)] }).putStream n k
      fun y => { y with rows := [] }
  else s.putStream n k fun y => { y with rows := segmentRows s n k i }

theorem gives_yokeTileWork_of_on (on : imgGate s n (yokeImgs (theStream s n k).desc i) = .on) :
    Gives (yokeTileWork n k i) s .ok (s.rowsHanded n k i) := fun q => by
  simp only [yokeTileWork, State.rowsHanded, segmentRows, run_bind, run_getS, on, run_ite, run_modCore, run_modStream, run_pure]
  split <;> rfl

end

/-- Settles O30: the work of each station's tile, past the check of its start. -/
theorem yokeOxAndCollieTilesHandOverTheirWork : Obligations.YokeOxAndCollieTilesHandOverTheirWork := by
  intro n k i a b s
  refine ⟨fun station good => ⟨fun full => ?collieFull, fun room => ?collieRoom⟩,
    fun station good => ⟨fun full => ?oxFull, fun p one room => ?oxRoom⟩, fun station good on => ?yoke⟩
  case collieFull => exact gives_tileWork_of_collie station good (gives_collieTileWork_of_full full)
  case collieRoom => exact gives_tileWork_of_collie station good (gives_collieTileWork_of_room room)
  case oxFull => exact gives_tileWork_of_ox station good (gives_oxTileWork_of_full full)
  case oxRoom => exact gives_tileWork_of_ox station good (gives_oxTileWork_of_one one room)
  case yoke => exact gives_tileWork_of_yoke station good (gives_yokeTileWork_of_on on)

end Sys2Proof.Machine
end

section
/-!
Commands of a context (08_dispatch_and_contexts.md, R309 to R311, R320; 14_chain_boot_firmware.md, R623): which commands are discarded,
and what those do that act.
-/

namespace Sys2Proof.Machine

/-- A command is discarded: Table 8.2 does not allow it in its context's state, or the device is in SAFE (R310, R623). -/
def CmdRejected (s : State) (c code : Nat) : Prop := cmdAllowed code (ctxState s c) = false ∨ fv s CHAIN_START_MODE = 1

/-- What a command that is not discarded does at its tick (R309). -/
def cmdWork (c : Nat) (wipe : Bool) : Nat → M Unit
  | 1 => do
    unready c
    setFld (CTX_STATE_STATE c) 1
  | 2 => setFld (CTX_STATE_STATE c) 2
  | 3 => saveActs c
  | 4 => restoreActs c
  | 5 => killActs c wipe
  | _ => dropXlate fun x => x.ctx = c

section
variable {c code : Nat} {wipe : Bool} {errs : List LineErr} {m : M Unit} {s t u : State}

theorem not_allowed_or_safe_iff_cmdRejected :
    (!cmdAllowed code (ctxState s c) || decide (fv s CHAIN_START_MODE = 1)) = true ↔ CmdRejected s c code := by
  simp only [CmdRejected, Bool.or_eq_true, Bool.not_eq_true', decide_eq_true_eq]

theorem not_cmdRejected (allowed : cmdAllowed code (ctxState s c) = true) (normal : fv s CHAIN_START_MODE ≠ 1) : ¬ CmdRejected s c code :=
  not_or.mpr ⟨ne_false_of_eq_true allowed, normal⟩

/-! ## A command at its tick -/

theorem gives_ctxCommand_of_rejected (given : code ≠ 0) (live : tripped s = false) (rejected : CmdRejected s c code) :
    Gives (ctxCommand c code wipe) s () ((s.reached c code).put (CTX_STATE_CMD_REJECT c) 1) := fun k => by
  simp only [ctxCommand, run_bind, run_getS, run_noteRank, run_reach, given, live, decide_false, Bool.or_self, Bool.false_eq_true, if_false,
    not_allowed_or_safe_iff_cmdRejected, rejected, if_true, run_flag]

theorem cmdWork_eq (c : Nat) (wipe : Bool) (code : Nat) : cmdWork c wipe code =
    if code = 1 then do
      unready c
      setFld (CTX_STATE_STATE c) 1
    else if code = 2 then setFld (CTX_STATE_STATE c) 2
    else if code = 3 then saveActs c
    else if code = 4 then restoreActs c
    else if code = 5 then killActs c wipe
    else dropXlate fun x => x.ctx = c := by
  unfold cmdWork
  split
  case h_6 not1 not2 not3 not4 not5 => rw [if_neg not1, if_neg not2, if_neg not3, if_neg not4, if_neg not5]
  all_goals rfl

theorem gives_ctxCommand_of_acts (live : tripped s = false) (acts : ¬ CmdRejected s c code)
    (work : Gives (cmdWork c wipe code) (s.reached c code) () u) : Gives (ctxCommand c code wipe) s () u := fun k => by
  have given : code ≠ 0 := by
    rintro rfl
    exact acts (.inl rfl)
  rw [← work k, cmdWork_eq]
  simp only [ctxCommand, run_bind, run_getS, run_noteRank, run_reach, given, live, decide_false, Bool.or_self, Bool.false_eq_true, if_false,
    not_allowed_or_safe_iff_cmdRejected, acts]

/-! ## Errors that the reads of a command will meet are no part of what it is judged by -/

theorem ranked_meeting (s : State) (k : Nat) (errs : List LineErr) : (s.meeting errs).ranked k = (s.ranked k).meeting errs := by
  have same : (s.meeting errs).time = s.time := rfl
  simp only [State.ranked, same]
  split
  · rfl
  · split <;> rfl

theorem reached_meeting (s : State) (c code : Nat) (errs : List LineErr) :
    (s.meeting errs).reached c code = (s.reached c code).meeting errs := by
  have same : fv (s.meeting errs) (CTX_CMD_CODE c) = fv s (CTX_CMD_CODE c) := rfl
  simp only [State.reached, ranked_meeting, same]
  split <;> rfl

theorem exec_restore_of_rejected {ctx : Fin 16} (live : tripped s = false) (rejected : CmdRejected s ctx 4) (hp : s.trPend = [])
    (hl : s.lineErrs = []) : exec (.restore ctx errs) s = .next ((s.reached ctx 4).put (CTX_STATE_CMD_REJECT ctx) 1) := by
  have done := gives_ctxCommand_of_rejected (s := s.meeting errs) (wipe := false) (by decide) live rejected
  rw [reached_meeting] at done
  have quiet : ((s.reached ctx 4).put (CTX_STATE_CMD_REJECT ctx) 1).lineErrs = [] := by rw [put_lineErrs, reached_lineErrs, hl]
  exact (done.runT_withErrs (by simpa using hp)).trans (congrArg _ (meeting_nil quiet))

end

/-- Settles O22: each command by what a command gives that is discarded and one that acts. -/
theorem contextCommandsActOrAreRejected : Obligations.ContextCommandsActOrAreRejected := by
  intro ctx wipe errs s hp hl live no
  have rejects {code : Nat} {w : Bool} (given : code ≠ 0) (h : CmdRejected s ctx code) :
      runT (ctxCommand ctx code w) s = .next ((s.reached ctx code).put (CTX_STATE_CMD_REJECT ctx) 1) :=
    (gives_ctxCommand_of_rejected given live h).runT_eq (by simpa using hp)
  refine ⟨rejects (by decide), rejects (by decide), rejects (by decide), fun h => exec_restore_of_rejected live h hp hl,
    rejects (by decide), rejects (by decide), fun acts => ?start, fun acts => ?hold, fun acts => ?flush⟩
  case start =>
    have work : Gives (cmdWork ctx false 1) (s.reached ctx 1) () (((s.reached ctx 1).unreadied ctx).put (CTX_STATE_STATE ctx) 1) :=
      fun k => by simp only [cmdWork, run_bind, run_unready, run_setFld]
    exact (gives_ctxCommand_of_acts live acts work).runT_eq (by simpa using hp)
  case hold => exact (gives_ctxCommand_of_acts live acts fun k => run_setFld ..).runT_eq (by simpa using hp)
  case flush => exact (gives_ctxCommand_of_acts live acts fun k => run_dropXlate ..).runT_eq (by simpa using hp)

end Sys2Proof.Machine
end

section
/-!
Saves and kills (08_dispatch_and_contexts.md, R343, R344, R347, R348, R353): what a SAVE and a KILL that act leave, and how a save whose
images are all written ends.
-/

namespace Sys2Proof.Machine

section
variable {c v : Nat} {op : SaveOp} {x : Stop} {s t u w y z : State}

/-! ## The state of a context -/

theorem ctxState_kept : ∀ ctx : Fin 16, (CTX_STATE_STATE ctx).kept = true := by decide

theorem ctxState_put (ctx : Fin 16) (h : v < 8) : ctxState (s.put (CTX_STATE_STATE ctx) v) ctx = v :=
  (fv_put s _ v (ctxState_kept ctx)).trans (Nat.mod_eq_of_lt h)

@[simp] theorem reached_tick (s : State) (c code : Nat) : (s.reached c code).tick = s.tick := by
  simp only [State.reached, State.ranked]
  repeat' split
  all_goals rfl

/-! ## SAVE (R343, R347) -/

/-- A save begins: the context is SAVING, its cores stop, and this tick does not count in their run ticks. -/
def State.savingFrom (s : State) (c : Nat) : State :=
  (coresOf s c).foldl (fun t n => (t.putCore n fun k => { k with stopped := 1 }).uncounted n)
    ((s.put (CTX_STATE_STATE c) 3).putCtx c fun x => { x with
      save := some ⟨s.tick, coresOf s c, [], false, saveVals s c, penSlots s c⟩ })

theorem gives_saveActs (begins : Gives (saveBegins c) (s.savingFrom c) () u) : Gives (saveActs c) s () u := fun k => by
  have stop := run_each_of (fun t n => (t.putCore n fun k => { k with stopped := 1 }).uncounted n)
    (fun n => do
      modCore n fun k => { k with stopped := 1 }
      uncountTick n)
    fun n k t => by simp only [run_bind, run_modCore, run_uncountTick]
  simp only [saveActs, run_bind, run_getS, run_setFld, run_modCtx, stop]
  exact begins k

/-! ## KILL (R353) -/

/-- A context is KILLING, and a save or restore of it is given up. -/
def State.killing (s : State) (c : Nat) (wipe : Bool) : State :=
  (s.put (CTX_STATE_STATE c) 7).putCtx c fun x => { x with save := none, restore := none, kill := some (wipe || x.kill = some true) }

theorem ctxState_killing (s : State) (ctx : Fin 16) (wipe : Bool) : ctxState (s.killing ctx wipe) ctx = 7 :=
  (fv_putCtx ..).trans (ctxState_put ctx (by decide))

theorem theCtx_killing (s : State) (c : Nat) (wipe : Bool) : (theCtx (s.killing c wipe) c).save = none
    ∧ (theCtx (s.killing c wipe) c).restore = none ∧ ∃ w, (theCtx (s.killing c wipe) c).kill = some w
    ∧ (wipe = true → w = true) := by
  simp only [State.killing, theCtx_putCtx_same, true_and]
  exact ⟨_, rfl, fun wipes => by rw [wipes, Bool.true_or]⟩

theorem exists_gives_killActs (c : Nat) (wipe : Bool) (s : State) :
    ∃ u : State, Gives (killActs c wipe) s () (u.killing c wipe) := by
  obtain ⟨_, t, _, supersedes⟩ := (keep_supersede (concerns s c)).gives s
  obtain ⟨u, tasks⟩ := (Keep.each (l := coresOf s c) fun n => keep_endTask n 6).gives_unit t
  obtain ⟨v, entries⟩ := (Keep.each (l := placedOf u c) fun p => keep_rosterFinal c p.1 p.2.1 6).gives_unit u
  obtain ⟨w, halts⟩ := (Keep.each (l := coresOf s c) keep_haltCore).gives_unit v
  exact ⟨w, fun k => by
    simp only [killActs, run_bind, run_getS, supersedes _, tasks _, entries _, halts _, run_setFld, run_modCtx, State.killing]⟩

/-! ## The end of a save (R344) -/

/-- Every image of a save is written, and its header is due. -/
structure HeaderDue (s : State) (c : Nat) (op : SaveOp) : Prop where
  save : (theCtx s c).save = some op
  saving : ctxState s c = 3
  begun : op.begun = true
  copied : op.cores.all op.copied.contains = true

theorem HeaderDue.all_written (h : HeaderDue s c op) :
    (decide (ctxState s c = 3) && op.begun && op.cores.all op.copied.contains) = true := by
  simp only [h.saving, h.begun, h.copied, decide_true, Bool.and_self]

/-- The runs of a save's header but for VALID, with where they are written. -/
def headerRuns (s : State) (c : Nat) (op : SaveOp) : List (Nat × List Byte) :=
  [(saveBase s c, (headerBody s op).take 4),
    (saveBase s c + 8, (headerBody s op).drop 8 ++ natLe 4 (crc32c (headerBody s op)))]

/-- VALID of a save's header is written as 1. -/
def validWrite (s : State) (c : Nat) : M (Option Stop) := ctxWrite (dispAcc c) (saveBase s c + 4) (clean (natLe 4 1))

/-- A save is complete: the context is SAVED with status 1, and the device keeps what the image has no place for. -/
def State.savedWith (s : State) (c : Nat) (kept : List KeptTask) : State :=
  (((s.put (CTX_STATE_STATE c) 4).putReg (CTX_SAVE_STATUS c) 1).putCtx c fun k => { k with save := none, kept := kept }).ranked 6

theorem gives_saveCompletes_of_body_stops (due : HeaderDue s c op) (body : Gives (putAll (dispAcc c) (headerRuns s c op)) s (some x) u)
    (fault : Gives (faultFor (dispAcc c) x) u () w) : Gives (saveCompletes c) s () w := fun k => by
  unfold headerRuns at body
  simp only [saveCompletes, run_bind, run_getS, due.save, due.all_written, if_true, body _]
  exact fault k

theorem gives_saveCompletes_of_valid_stops (due : HeaderDue s c op) (body : Gives (putAll (dispAcc c) (headerRuns s c op)) s none t)
    (fence : Gives (fenceOf reqDisp) t () u) (valid : Gives (validWrite s c) u (some x) w)
    (fault : Gives (faultFor (dispAcc c) x) w () y) : Gives (saveCompletes c) s () y := fun k => by
  unfold headerRuns at body
  unfold validWrite at valid
  simp only [saveCompletes, run_bind, run_getS, due.save, due.all_written, if_true, body _, fence _, valid _]
  exact fault k

theorem gives_saveCompletes_of_written (due : HeaderDue s c op) (body : Gives (putAll (dispAcc c) (headerRuns s c op)) s none t)
    (fence : Gives (fenceOf reqDisp) t () u) (valid : Gives (validWrite s c) u none z)
    (fence' : Gives (fenceOf reqDisp) z () w) (clear : Gives (clearCores c) w () y) :
    Gives (saveCompletes c) s () (y.savedWith c (keptTasks w op)) := fun k => by
  unfold headerRuns at body
  unfold validWrite at valid
  simp only [saveCompletes, run_bind, run_getS, due.save, due.all_written, if_true, body _, fence _, valid _, fence' _, clear _, run_setFld,
    run_setReg, run_modCtx, run_noteRank, State.savedWith]

end

/-- Settles O23: SAVE and KILL by what they leave when they act, the end of a save by the first of its header's writes that stops. -/
theorem savesBeginAndCompleteWithTheHeaderLast : Obligations.SavesBeginAndCompleteWithTheHeaderLast := by
  refine ⟨fun ctx wipe s hp live normal => ⟨fun allowed => ?save, fun allowed => ?kill⟩,
    fun ctx op s hp save saving begun copied => ?completes⟩
  case save =>
    obtain ⟨t, begins⟩ := (keep_saveBegins ctx).gives_unit ((s.reached ctx 3).savingFrom ctx)
    have saves := gives_saveActs begins
    have quiet : t.trPend = [] := by rw [saves.trPend (keep_saveActs ctx) (by decide), reached_trPend, hp]
    refine ⟨t, (gives_ctxCommand_of_acts live (not_cmdRejected allowed normal) saves).runT_eq quiet, ?_⟩
    simpa only [State.savingFrom, reached_tick] using begins
  case kill =>
    obtain ⟨u, kills⟩ := exists_gives_killActs ctx wipe (s.reached ctx 5)
    have quiet : (u.killing ctx wipe).trPend = [] := by rw [kills.trPend (keep_killActs ctx wipe) (by decide), reached_trPend, hp]
    exact ⟨_, (gives_ctxCommand_of_acts live (not_cmdRejected allowed normal) kills).runT_eq quiet, ctxState_killing u ctx wipe,
      theCtx_killing u ctx wipe⟩
  case completes =>
    have due : HeaderDue s ctx op := ⟨save, saving, begun, copied⟩
    obtain ⟨r, u, _, body⟩ := (keep_putAll (dispAcc ctx) (headerRuns s ctx op)).gives s
    refine ⟨r, u, body, fun x stops => ?bodyStops, fun written => ?bodyWritten⟩
    case bodyStops =>
      subst stops
      obtain ⟨t, fault⟩ := (keep_faultFor (dispAcc ctx) x).gives_unit u
      exact ⟨t, fault, Ends.of_runT (gives_saveCompletes_of_body_stops due body fault)⟩
    case bodyWritten =>
      subst written
      obtain ⟨v, fence⟩ := (keep_fenceOf reqDisp).gives_unit u
      obtain ⟨q, w, _, valid⟩ := (keep_ctxWrite (dispAcc ctx) (saveBase s ctx + 4) (clean (natLe 4 1))).gives v
      refine ⟨v, q, w, fence, valid, fun x stops => ?validStops, fun written => ?validWritten⟩
      case validStops =>
        subst stops
        obtain ⟨t, fault⟩ := (keep_faultFor (dispAcc ctx) x).gives_unit w
        exact ⟨t, fault, Ends.of_runT (gives_saveCompletes_of_valid_stops due body fence valid fault)⟩
      case validWritten =>
        subst written
        obtain ⟨x, fence'⟩ := (keep_fenceOf reqDisp).gives_unit w
        obtain ⟨y, clear⟩ := (keep_clearCores ctx).gives_unit x
        exact ⟨x, y, fence', clear, Ends.of_runT (gives_saveCompletes_of_written due body fence valid fence' clear)⟩

end Sys2Proof.Machine
end

section
/-!
Restores and kills (08_dispatch_and_contexts.md, R348 to R351, R353): what a RESTORE that acts does with the header that it reads, and how a
restore and a kill complete.
-/

namespace Sys2Proof.Machine

section
variable {c n : Nat} {op : SaveOp} {x : Stop} {why : HoldWhy} {h : List Byte} {errs : List LineErr} {s t u v w y : State}

/-! ## RESTORE (R348 to R350) -/

/-- The cores of a context that an image's slots go to, in slot order (R350). -/
def imageCores (s : State) (c : Nat) (h : List Byte) : List Nat := (coresOf s c).take (fieldAt h 0x2C 1)

/-- A context has a core for every slot of an image, and each meets its slot (R349). -/
def MeetsImage (s : State) (c : Nat) (h : List Byte) : Prop :=
  fieldAt h 0x2C 1 ≤ (coresOf s c).length ∧ (imageCores s c h).zipIdx.all (fun x => meetsSlot s x.1 (slotHdr h x.2)) = true

theorem too_few_or_not_all_iff_not_meetsImage : (decide ((coresOf s c).length < fieldAt h 0x2C 1)
      || !((coresOf s c).take (fieldAt h 0x2C 1)).zipIdx.all fun x => meetsSlot s x.1 (slotHdr h x.2)) = true ↔ ¬ MeetsImage s c h := by
  simp only [MeetsImage, imageCores, Bool.or_eq_true, decide_eq_true_eq, Bool.not_eq_true', not_and_or, not_le, Bool.not_eq_true]

theorem gives_restoreActs_of_waits (read : Gives (readHeader c) s (.error (.hold why)) u) :
    Gives (restoreActs c) s () (if fv u (CTX_CMD_CODE c) = 4 then u.put (CTX_STATE_CMD_ARMED c) 1 else u) := fun k => by
  simp only [restoreActs, run_bind, read _, run_getS, run_when', decide_eq_true_eq, run_setFld]
  split <;> rfl

theorem gives_restoreActs_of_bad (read : Gives (readHeader c) s (.ok h) u) (bad : headerOk h = false) :
    Gives (restoreActs c) s () (u.putReg (CTX_SAVE_STATUS c) 5) := fun k => by
  simp only [restoreActs, run_bind, read _, run_getS, bad, Bool.not_false, if_true, run_setReg]

theorem gives_restoreActs_of_unmet (read : Gives (readHeader c) s (.ok h) u) (good : headerOk h = true) (unmet : ¬ MeetsImage u c h) :
    Gives (restoreActs c) s () (u.putReg (CTX_SAVE_STATUS c) 6) := fun k => by
  simp only [restoreActs, run_bind, read _, run_getS, good, Bool.not_true, Bool.false_eq_true, if_false,
    too_few_or_not_all_iff_not_meetsImage, unmet, not_false_eq_true, if_true, run_setReg]

theorem gives_restoreActs_of_met (read : Gives (readHeader c) s (.ok h) u) (good : headerOk h = true) (met : MeetsImage u c h)
    (begins : Gives (restoreBegins c (restoreOf u.tick (imageCores u c h) h)) u () v) (fill : Gives (fillCores c) v () w) :
    Gives (restoreActs c) s () w := fun k => by
  unfold imageCores at begins
  simp only [restoreActs, run_bind, read _, run_getS, good, Bool.not_true, Bool.false_eq_true, if_false,
    too_few_or_not_all_iff_not_meetsImage, met, not_true_eq_false, begins _]
  exact fill k

theorem ends_restore {ctx : Fin 16} (live : tripped s = false) (normal : fv s CHAIN_START_MODE ≠ 1)
    (allowed : cmdAllowed 4 (ctxState s ctx) = true) (work : Gives (restoreActs ctx) ((s.reached ctx 4).meeting errs) () u) :
    Ends (exec (.restore ctx errs) s) (u.meeting []) := by
  rw [← reached_meeting] at work
  exact Ends.of_errs (gives_ctxCommand_of_acts (s := s.meeting errs) live (not_cmdRejected allowed normal) work)

/-! ## The beginning of a restore -/

/-- A context's STATE register and what is kept beside the registers of contexts are as they were. -/
def CtxKept (c : Nat) (s t : State) : Prop := rg t (CTX_STATE c) = rg s (CTX_STATE c) ∧ t.ctxs = s.ctxs

/-- The contexts' being kept goes on from change to change. -/
def ctxRel (c : Nat) : Rel := ⟨CtxKept c, fun _ => ⟨rfl, rfl⟩, fun _ _ _ h h' => ⟨h'.1.trans h.1, h'.2.trans h.2⟩⟩

theorem within_ctxRel_modCore (f : CoreSt → CoreSt) : Within (ctxRel c) (modCore n f) :=
  fun s => ⟨(), s.putCore n f, ⟨rfl, rfl⟩, fun _ => rfl⟩

theorem within_ctxRel_setReg {a val : Nat} (apart : CTX_STATE c ≠ a) : Within (ctxRel c) (setReg a val) :=
  fun s => ⟨(), s.putReg a val, ⟨rg_putReg_ne s a val _ apart, rfl⟩, fun _ => rfl⟩

/-- The capability record stands below the contexts' registers. -/
theorem within_ctxRel_capUpdate : Within (ctxRel c) capUpdate := by
  unfold capUpdate
  refine Within.getS.bind fun _ => .each fun word listed => within_ctxRel_setReg ?_
  have := List.mem_range.mp listed
  simp only [CTX_STATE, DISP_CAP]
  omega

theorem within_ctxRel_nextTaskMode : Within (ctxRel c) (nextTaskMode n) := by
  unfold nextTaskMode
  exact Within.getS.bind fun _ => .ite ((within_ctxRel_modCore _).bind fun _ => within_ctxRel_capUpdate) (.pure ())

/-- The registers of the cores stand above those of the 16 contexts. -/
theorem within_ctxRel_standing (ctx : Fin 16) (f : CoreSt → CoreSt) : Within (ctxRel ctx) (do
    nextTaskMode n
    modCore n f
    setFld (CORE_STREAM_STATUS_STOPPED n) 1) := by
  refine within_ctxRel_nextTaskMode.bind fun _ => (within_ctxRel_modCore f).bind fun _ => Within.getS.bind fun _ => within_ctxRel_setReg ?_
  simp only [CTX_STATE, CORE_STREAM_STATUS_STOPPED, CORE_STREAM_STATUS]
  omega

/-- A restore puts its context in RESTORING; the standing of its cores does not concern the context (R348). -/
theorem exists_gives_restoreBegins (ctx : Fin 16) (op : SaveOp) (s : State) :
    ∃ u, Gives (restoreBegins ctx op) s () u ∧ ctxState u ctx = 5 ∧ (theCtx u ctx).restore = some op := by
  obtain ⟨_, u, ⟨state, ctxs⟩, stand⟩ := (Within.each (l := op.cores) fun n _ => within_ctxRel_standing (n := n) ctx
    fun k => { k with stopped := 3 }) ((s.put (CTX_STATE_STATE ctx) 5).putCtx ctx fun x => { x with restore := some op })
  refine ⟨u, fun k => ?_, ?_, ?_⟩
  · simp only [restoreBegins, run_bind, run_setFld, run_modCtx]
    exact stand k
  · calc ctxState u ctx = ctxState (s.put (CTX_STATE_STATE ctx) 5) ctx := congrArg (bits · 0 3) state
      _ = 5 := ctxState_put ctx (by decide)
  · rw [theCtx_congr ctxs, theCtx_putCtx_same]

/-! ## The end of a restore (R351) -/

/-- The cores of a restoring context have been filled as far as their images can be read. -/
structure Filled (s : State) (c : Nat) (op : SaveOp) (u : State) : Prop where
  restoring : ctxState s c = 5
  fill : Gives (fillCores c) s () u
  restore : (theCtx u c).restore = some op

/-- The cores of a restore resume, each with what was read for it and what the device has kept of its task. -/
def resumeCores (s : State) (c : Nat) (h : List Byte) (rs : List (Nat × SlotHdr × List Stream × Option Task)) : M Unit :=
  each rs fun r => resumeCore r.1 c r.2.1 (keptOf s c (fieldAt h 8 8) r.2.1) r.2.2.1 r.2.2.2

/-- The pens of an image as masks of the cores that its slots went to. -/
def restoredPens (op : SaveOp) : List Nat :=
  op.pens.map fun m => ((op.cores.zipIdx.filter fun x => bit m x.2).map fun x => 2 ^ x.1).sum

/-- A restore is complete: its context has the image's pens and is RUNNING with status 2. -/
def State.restoredWith (s : State) (c : Nat) (masks : List Nat) : State :=
  (((((((s.putReg (CTX_PEN c 0) (masks.getD 0 0)).putReg (CTX_PEN c 1) (masks.getD 1 0)).putReg (CTX_PEN c 2) (masks.getD 2 0)).putCtx c
    fun x => { x with pens := masks, restore := none }).unreadied c).put (CTX_STATE_STATE c) 1).putReg (CTX_SAVE_STATUS c) 2).ranked 6

theorem gives_restoreCompletes_of_other (other : ctxState s c ≠ 5) : Gives (restoreCompletes c) s () s := fun k => by
  simp only [restoreCompletes, run_bind, run_getS, other, if_false, run_pure]

theorem gives_restoreCompletes_of_uncopied (filled : Filled s c op u) (uncopied : op.cores.all op.copied.contains = false) :
    Gives (restoreCompletes c) s () u := fun k => by
  simp only [restoreCompletes, run_bind, run_getS, filled.restoring, if_true, filled.fill _, filled.restore, uncopied, Bool.false_eq_true,
    if_false, run_pure]

theorem gives_restoreCompletes_of_header_stops (filled : Filled s c op u) (copied : op.cores.all op.copied.contains = true)
    (read : Gives (readHeader c) u (.error x) v) (fault : Gives (faultFor (dispAcc c) x) v () w) :
    Gives (restoreCompletes c) s () w := fun k => by
  simp only [restoreCompletes, run_bind, run_getS, filled.restoring, if_true, filled.fill _, filled.restore, copied, read _]
  exact fault k

theorem gives_restoreCompletes_of_core_stops (filled : Filled s c op u) (copied : op.cores.all op.copied.contains = true)
    (read : Gives (readHeader c) u (.ok h) v) (cores : Gives (readCores c h op op.cores.zipIdx) v (.error x) w)
    (fault : Gives (faultFor (dispAcc c) x) w () y) : Gives (restoreCompletes c) s () y := fun k => by
  simp only [restoreCompletes, run_bind, run_getS, filled.restoring, if_true, filled.fill _, filled.restore, copied, read _, cores _]
  exact fault k

theorem gives_restoreCompletes_of_read {rs : List (Nat × SlotHdr × List Stream × Option Task)} (filled : Filled s c op u)
    (copied : op.cores.all op.copied.contains = true) (read : Gives (readHeader c) u (.ok h) v)
    (cores : Gives (readCores c h op op.cores.zipIdx) v (.ok rs) w) (resume : Gives (resumeCores s c h rs) w () y) :
    Gives (restoreCompletes c) s () (y.restoredWith c (restoredPens op)) := fun k => by
  unfold resumeCores at resume
  have pens := run_each_of (fun t k => t.putReg (CTX_PEN c k) ((restoredPens op).getD k 0))
    (fun k => setReg (CTX_PEN c k) ((restoredPens op).getD k 0)) fun _ _ _ => rfl
  unfold restoredPens at pens
  simp only [restoreCompletes, run_bind, run_getS, filled.restoring, if_true, filled.fill _, filled.restore, copied, read _, cores _,
    resume _, pens, run_modCtx, run_unready, run_setFld, run_setReg, run_noteRank]
  rfl

/-! ## The end of a kill (R353) -/

/-- The pages that a KILL wipes; none: a line of the context's tables waits. -/
def killPages (s : State) (c : Nat) : M (Option (List Nat)) :=
  if (theCtx s c).kill = some true then mappedPages c else pure (some [])

theorem keep_killPages (s : State) (c : Nat) : Keep 0xf208f (killPages s c) := Keep.ite (keep_mappedPages c) (Keep.pure _ _)

/-- A context that was killed has no translations and no key left and is EMPTY. -/
def State.killed (s : State) (c : Nat) : State :=
  (((((s.forgetting fun x => x.ctx = c).putCtx c fun x => { x with key := none }).put (CTX_STATE_STATE c) 0).putCtx c
    fun x => { x with kill := none })).ranked 6

theorem gives_killCompletes_of_other (other : ctxState s c ≠ 7) : Gives (killCompletes c) s () s := fun k => by
  simp only [killCompletes, run_bind, run_getS, other, if_false, run_pure]

theorem gives_killCompletes_of_no_tables (killing : ctxState s c = 7) (pages : Gives (killPages s c) s none u) :
    Gives (killCompletes c) s () u := fun k => by
  unfold killPages at pages
  simp only [killCompletes, run_bind, run_getS, killing, if_true, pages _, run_pure]

theorem gives_killCompletes_of_waits {l : List Nat} (killing : ctxState s c = 7) (pages : Gives (killPages s c) s (some l) u)
    (waits : l.any (pageWaits u) = true) : Gives (killCompletes c) s () u := fun k => by
  unfold killPages at pages
  simp only [killCompletes, run_bind, run_getS, killing, if_true, pages _, waits, Bool.not_true, Bool.false_eq_true, if_false, run_pure]

theorem gives_killCompletes_of_free {l : List Nat} (killing : ctxState s c = 7) (pages : Gives (killPages s c) s (some l) u)
    (free : l.any (pageWaits u) = false) (zero : Gives (each l zeroPage) u () v) (clear : Gives (clearCores c) v () w) :
    Gives (killCompletes c) s () (w.killed c) := fun k => by
  unfold killPages at pages
  simp only [killCompletes, run_bind, run_getS, killing, if_true, pages _, free, Bool.not_false, zero _, clear _, run_dropXlate, eraseKey,
    run_modCtx, run_setFld, run_noteRank, State.killed]

end

/-- Settles O25: RESTORE by what its header says, the end of a restore by the first of its reads that stops, the end of a kill by what
waits. -/
theorem restoreAndKillCheckAndComplete : Obligations.RestoreAndKillCheckAndComplete := by
  refine ⟨fun ctx errs s hp hl live normal allowed => ?refused,
    fun ctx errs s u h live normal allowed read good enough meets => ?begins, fun ctx s hp => ⟨fun other => ?notRestoring,
      fun other => ?notKilling, fun restoring => ?restore, fun killing => ?kill⟩⟩
  case refused =>
    obtain ⟨r, u, _, read⟩ := (keep_readHeader ctx).gives ((s.reached ctx 4).meeting errs)
    refine ⟨r, u, read, fun w waits => ?waits, fun h whole bad => ?bad, fun h whole good unmet => ?unmet⟩
    case waits =>
      subst waits
      exact ends_restore live normal allowed (gives_restoreActs_of_waits read)
    case bad =>
      subst whole
      exact ends_restore live normal allowed (gives_restoreActs_of_bad read bad)
    case unmet =>
      subst whole
      refine ends_restore live normal allowed (gives_restoreActs_of_unmet read good fun met => ?_)
      exact unmet.elim (not_lt.mpr met.1) (ne_false_of_eq_true met.2)
  case begins =>
    obtain ⟨v, begins, state, restore⟩ := exists_gives_restoreBegins ctx (restoreOf u.tick (imageCores u ctx h) h) u
    obtain ⟨t, fill⟩ := (keep_fillCores ctx).gives_unit v
    exact ⟨v, t, begins, state, restore, fill,
      ends_restore live normal allowed (gives_restoreActs_of_met read good ⟨enough, meets⟩ begins fill)⟩
  case notRestoring => exact (gives_restoreCompletes_of_other other).runT_eq hp
  case notKilling => exact (gives_killCompletes_of_other other).runT_eq hp
  case restore =>
    obtain ⟨u, fill⟩ := (keep_fillCores ctx).gives_unit s
    refine ⟨u, fill, fun op restore uncopied => ?uncopied, fun op restore copied => ?copied⟩
    case uncopied => exact Ends.of_runT (gives_restoreCompletes_of_uncopied ⟨restoring, fill, restore⟩ uncopied)
    case copied =>
      have filled : Filled s ctx op u := ⟨restoring, fill, restore⟩
      obtain ⟨h, v, _, read⟩ := (keep_readHeader ctx).gives u
      refine ⟨h, v, read, fun x stops => ?headerStops, fun b whole => ?headerRead⟩
      case headerStops =>
        subst stops
        obtain ⟨w, fault⟩ := (keep_faultFor (dispAcc ctx) x).gives_unit v
        exact ⟨w, fault, Ends.of_runT (gives_restoreCompletes_of_header_stops filled copied read fault)⟩
      case headerRead =>
        subst whole
        obtain ⟨q, w, _, cores⟩ := (keep_readCores ctx b op op.cores.zipIdx).gives v
        refine ⟨q, w, cores, fun x stops => ?coreStops, fun rs all => ?coresRead⟩
        case coreStops =>
          subst stops
          obtain ⟨t, fault⟩ := (keep_faultFor (dispAcc ctx) x).gives_unit w
          exact ⟨t, fault, Ends.of_runT (gives_restoreCompletes_of_core_stops filled copied read cores fault)⟩
        case coresRead =>
          subst all
          obtain ⟨y, resume⟩ := (Keep.each (l := rs) fun r => keep_resumeCore r.1 ctx r.2.1
            (keptOf s ctx (fieldAt b 8 8) r.2.1) r.2.2.1 r.2.2.2).gives_unit w
          exact ⟨y, resume, Ends.of_runT (gives_restoreCompletes_of_read filled copied read cores resume)⟩
  case kill =>
    obtain ⟨pages, u, _, tables⟩ := (keep_killPages s ctx).gives s
    refine ⟨pages, u, tables, fun none_read => ?noTables, fun l listed waits => ?waits, fun l listed free => ?free⟩
    case noTables =>
      subst none_read
      exact Ends.of_runT (gives_killCompletes_of_no_tables killing tables)
    case waits =>
      subst listed
      exact Ends.of_runT (gives_killCompletes_of_waits killing tables waits)
    case free =>
      subst listed
      obtain ⟨v, zero⟩ := (Keep.each (l := l) keep_zeroPage).gives_unit u
      obtain ⟨w, clear⟩ := (keep_clearCores ctx).gives_unit v
      exact ⟨v, w, zero, clear, Ends.of_runT (gives_killCompletes_of_free killing tables free zero clear)⟩

end Sys2Proof.Machine
end

section
/-!
Rosters (08_dispatch_and_contexts.md, R323, R325, R326, R332, R338, R347): what a sample of PUB and a fetch of a head entry leave, by what
the dispatcher reads, and how a task's completion is taken.
-/

namespace Sys2Proof.Machine

section
variable {c r n : Nat} {bs : List (Byte × Bool)} {x : Stop} {errs : List LineErr} {s t u v w : State}

/-! ## Sampling (R323, R325, R326, R347) -/

/-- PUB of a roster is sampled: the roster is enabled, and its context is RUNNING or HELD, or was saved at this tick. -/
def PubSampled (s : State) (c r : Nat) : Prop :=
  rosOn s c r = true ∧ (ctxState s c = 1 ∨ ctxState s c = 2
    ∨ (ctxState s c = 3 ∧ ∃ op, (theCtx s c).save = some op ∧ op.tick = s.tick))

theorem on_and_samples_iff_pubSampled : (rosOn s c r && samples s c) = true ↔ PubSampled s c r := by
  have saved_now : ((theCtx s c).save.elim false fun o => decide (o.tick = s.tick)) = true
      ↔ ∃ op, (theCtx s c).save = some op ∧ op.tick = s.tick := by cases (theCtx s c).save <;> simp
  simp only [PubSampled, samples, Bool.and_eq_true, Bool.or_eq_true, decide_eq_true_eq, saved_now, or_assoc]

/-- A counter or an entry of a roster fails a check of Table 8.7. -/
def State.rosterFaulting (s : State) (c r code : Nat) : State :=
  (s.putReg (CTX_ROSTER_FAULT c) (code + 16 * r)).faulting ⟨6, code, c, 0xFF, 0xFFFF, none, 0, 0, 0⟩

@[simp] theorem run_rosterFault (c r code : Nat) (k : Unit → Act) (s : State) :
    Act.run (rosterFault c r code k) s = Act.run (k ()) (s.rosterFaulting c r code) := rfl

/-- A larger PUB is taken with its tick (R325, R326). -/
def State.pubTaken (s : State) (c r n tick : Nat) : State :=
  (s.ranked 7).putRoster c r fun y => { y with
    pub := n, pubTick := tick, pubOld := if y.pubTick < tick then y.pub else y.pubOld }

theorem gives_rosterFresh_of_known (known : (theRoster s c r).fresh = false) : Gives (rosterFresh c r) s () s := fun k => by
  simp only [rosterFresh, run_bind, run_getS, known, Bool.false_eq_true, if_false, run_pure]

theorem gives_rosterSample_of_unsampled (h : ¬ PubSampled s c r) : Gives (rosterSample c r) s () s := fun k => by
  simp only [rosterSample, run_bind, run_getS, on_and_samples_iff_pubSampled, h, if_false, run_pure]

theorem gives_rosterSample_of_unread (sampled : PubSampled s c r) (known : (theRoster s c r).fresh = false)
    (read : Gives (rosterGet c r (rosBase s c r)) s none u) : Gives (rosterSample c r) s () u := fun k => by
  simp only [rosterSample, run_bind, run_getS, on_and_samples_iff_pubSampled, sampled, if_true, gives_rosterFresh_of_known known _, known,
    Bool.not_false, read _, run_pure]

theorem gives_rosterSample_of_bad (sampled : PubSampled s c r) (known : (theRoster s c r).fresh = false)
    (read : Gives (rosterGet c r (rosBase s c r)) s (some n) u)
    (bad : n < (theRoster s c r).pub ∨ (theRoster s c r).done + rosSize s c r < n) :
    Gives (rosterSample c r) s () (u.rosterFaulting c r 1) := fun k => by
  simp only [rosterSample, run_bind, run_getS, on_and_samples_iff_pubSampled, sampled, if_true, gives_rosterFresh_of_known known _, known,
    Bool.not_false, read _, Bool.or_eq_true, decide_eq_true_eq, bad, run_rosterFault]

theorem gives_rosterSample_of_same (sampled : PubSampled s c r) (known : (theRoster s c r).fresh = false)
    (read : Gives (rosterGet c r (rosBase s c r)) s (some n) u) (same : (theRoster s c r).pub = n)
    (fits : n ≤ (theRoster s c r).done + rosSize s c r) : Gives (rosterSample c r) s () u := fun k => by
  have good : ¬ (n < (theRoster s c r).pub ∨ (theRoster s c r).done + rosSize s c r < n) := by omega
  have no_larger : ¬ (theRoster s c r).pub < n := by omega
  simp only [rosterSample, run_bind, run_getS, on_and_samples_iff_pubSampled, sampled, if_true, gives_rosterFresh_of_known known _, known,
    Bool.not_false, read _, Bool.or_eq_true, decide_eq_true_eq, good, no_larger, if_false, run_pure]

theorem gives_rosterSample_of_larger (sampled : PubSampled s c r) (known : (theRoster s c r).fresh = false)
    (read : Gives (rosterGet c r (rosBase s c r)) s (some n) u) (larger : (theRoster s c r).pub < n)
    (fits : n ≤ (theRoster s c r).done + rosSize s c r) : Gives (rosterSample c r) s () (u.pubTaken c r n s.tick) := fun k => by
  have good : ¬ (n < (theRoster s c r).pub ∨ (theRoster s c r).done + rosSize s c r < n) := by omega
  simp only [rosterSample, run_bind, run_getS, on_and_samples_iff_pubSampled, sampled, if_true, gives_rosterFresh_of_known known _, known,
    Bool.not_false, read _, Bool.or_eq_true, decide_eq_true_eq, good, larger, if_false, run_noteRank, run_modRoster]
  rfl

/-! ## Fetching (R332) -/

/-- The entries of a roster are read: it is enabled, and its context is RUNNING or HELD. -/
def RosterServed (s : State) (c r : Nat) : Prop := rosOn s c r = true ∧ (ctxState s c = 1 ∨ ctxState s c = 2)

/-- A roster has an entry to fetch: it is read, and published entries stand behind those taken, with none fetched. -/
structure HeadDue (s : State) (c r : Nat) : Prop where
  served : RosterServed s c r
  known : (theRoster s c r).fresh = false
  headless : (theRoster s c r).head = none
  published : (theRoster s c r).taken < (theRoster s c r).pub

theorem HeadDue.can_fetch (h : HeadDue s c r) : (rosOn s c r && (decide (ctxState s c = 1) || decide (ctxState s c = 2))
    && !(theRoster s c r).fresh && (theRoster s c r).head.isNone && decide ((theRoster s c r).taken < (theRoster s c r).pub)) = true := by
  obtain ⟨on, state⟩ := h.served
  simp only [on, state, h.known, h.headless, h.published, Bool.and_eq_true, Bool.or_eq_true, decide_eq_true_eq, Bool.not_false,
    Option.isNone_none, and_self]

/-- The read of a roster's next entry. -/
def entryRead (s : State) (c r : Nat) : M (Except Stop (List (Byte × Bool))) :=
  ctxRead (dispAcc c) (rosEntry s c r (theRoster s c r).taken) 64

/-- The words of an entry. -/
def entryWords (bs : List (Byte × Bool)) : List Nat := (chunks 8 64 (bs.map Prod.fst)).map leNat

/-- A poisoned entry faults its context as a poison bite (R332, Table 11.3). -/
def State.entryBiting (s : State) (c r va : Nat) : State :=
  (s.putReg (CTX_ROSTER_FAULT c) (2 + 16 * r)).faulting ⟨7, 5, c, 0xFF, 0xFFFF, none, 0, va, 0⟩

theorem gives_fetchHead_of_unserved (h : ¬ RosterServed s c r) : Gives (fetchHead c r) s () s := fun k => by
  have idle : (rosOn s c r && (decide (ctxState s c = 1) || decide (ctxState s c = 2))) = false := by
    rw [Bool.eq_false_iff]
    simpa only [RosterServed, ne_eq, Bool.and_eq_true, Bool.or_eq_true, decide_eq_true_eq] using h
  simp only [fetchHead, run_bind, run_getS, idle, Bool.false_and, Bool.false_eq_true, if_false, run_pure]

theorem gives_fetchHead_of_stops (due : HeadDue s c r) (read : Gives (entryRead s c r) s (.error x) u)
    (fault : Gives (faultFor (dispAcc c) x) u () v) : Gives (fetchHead c r) s () v := fun k => by
  unfold entryRead at read
  simp only [fetchHead, run_bind, run_getS, due.can_fetch, if_true, read _]
  exact fault k

theorem gives_fetchHead_of_poisoned (due : HeadDue s c r) (read : Gives (entryRead s c r) s (.ok bs) u)
    (poisoned : bs.any Prod.snd = true) :
    Gives (fetchHead c r) s () (u.entryBiting c r (rosEntry s c r (theRoster s c r).taken)) := fun k => by
  unfold entryRead at read
  simp only [fetchHead, run_bind, run_getS, due.can_fetch, if_true, read _, poisoned, run_setReg, run_faultCtxAs, State.entryBiting]

theorem gives_fetchHead_of_bad {code : Nat} (due : HeadDue s c r) (read : Gives (entryRead s c r) s (.ok bs) u)
    (unpoisoned : bs.any Prod.snd = false) (bad : entryFault s c (entryWords bs) = some code) :
    Gives (fetchHead c r) s () (u.rosterFaulting c r code) := fun k => by
  unfold entryRead at read
  unfold entryWords at bad
  simp only [fetchHead, run_bind, run_getS, due.can_fetch, if_true, read _, unpoisoned, Bool.false_eq_true, if_false, bad, run_rosterFault]

theorem gives_fetchHead_of_good (due : HeadDue s c r) (read : Gives (entryRead s c r) s (.ok bs) u)
    (unpoisoned : bs.any Prod.snd = false) (good : entryFault s c (entryWords bs) = none) :
    Gives (fetchHead c r) s () (u.putRoster c r fun y => { y with head := some ⟨y.taken, entryWords bs, none⟩ }) := fun k => by
  unfold entryRead at read
  unfold entryWords at good
  simp only [fetchHead, run_bind, run_getS, due.can_fetch, if_true, read _, unpoisoned, Bool.false_eq_true, if_false, good, run_modRoster,
    entryWords]

/-! ## The end of a task (R338) -/

/-- A task's end is counted for its context and for the sentinel's rounds. -/
def State.taskCounted (s : State) (c : Nat) : State := (s.count (CTX_COMPLETED_COUNT c) 1).count DISP_SENT_COUNT_COUNT 1

/-- The latched completion of a core's task is taken (rank 6). -/
def State.completionTaken (s : State) (n : Nat) : State :=
  (s.putLatched fun l => l.filter fun e => e.kind != .taskDone n).ranked 6

theorem gives_completeTask_of_ended {tk : Task} (task : (theCore s n).task = some tk) (ended : tk.ended = true)
    (fence : Gives (fenceOf n) s () u) (ends : Gives (endTask n 2) u () v) :
    Gives (completeTask n) s () (v.taskCounted tk.ctx) := fun k => by
  simp only [completeTask, run_bind, run_getS, task, ended, if_true, fence _, ends _, run_bump, State.taskCounted]

theorem exec_taskCompletion_of_unlatched {core : Fin 64} (unlatched : s.latched.any (fun e => e.kind = .taskDone core) = false)
    (hp : s.trPend = []) : exec (.taskCompletion core) s = .next s := by
  refine Gives.runT_eq (fun k => ?_) hp
  simp only [run_bind, run_getS, unlatched, run_when'_false]

theorem ends_taskCompletion_of_latched {core : Fin 64} (latched : s.latched.any (fun e => e.kind = .taskDone core) = true)
    (complete : Gives (completeTask core) (s.completionTaken core) () u) : Ends (exec (.taskCompletion core) s) u := by
  refine Ends.of_runT fun k => ?_
  simp only [run_bind, run_getS, latched, run_when'_true, run_modLatched, run_noteRank]
  exact complete k

end

/-- Settles O26: a sample and a fetch by what they read, a completion by whether it is latched. -/
theorem rostersAreSampledFetchedAndFinished : Obligations.RostersAreSampledFetchedAndFinished := by
  intro ctx roster core errs s hp hl on x onS
  refine ⟨fun unsampled => ?unsampled, fun unserved => ?unserved, fun sampled known => ?sample,
    fun served known headless published => ?fetch, fun unlatched => exec_taskCompletion_of_unlatched unlatched hp,
    fun tk latched task ended => ?complete⟩
  case unsampled => exact (gives_rosterSample_of_unsampled (s := s.meeting errs) unsampled).runT_withErrs_unchanged hp hl
  case unserved => exact (gives_fetchHead_of_unserved (s := s.meeting errs) unserved).runT_withErrs_unchanged hp hl
  case sample =>
    have sampled : PubSampled (s.meeting errs) ctx roster := sampled
    obtain ⟨p, u, _, read⟩ := (keep_rosterGet ctx roster (rosBase s ctx roster)).gives (s.meeting errs)
    refine ⟨p, u, read, fun unread => ?unread, fun n reads => ?reads⟩
    case unread =>
      subst unread
      exact Ends.of_errs (gives_rosterSample_of_unread sampled known read)
    case reads =>
      subst reads
      exact ⟨fun bad => Ends.of_errs (gives_rosterSample_of_bad sampled known read bad),
        fun same fits => Ends.of_errs (gives_rosterSample_of_same sampled known read same fits),
        fun larger fits => Ends.of_errs (gives_rosterSample_of_larger sampled known read larger fits)⟩
  case fetch =>
    have due : HeadDue (s.meeting errs) ctx roster := ⟨served, known, headless, published⟩
    obtain ⟨q, u, _, read⟩ := (keep_ctxRead (dispAcc ctx) (rosEntry s ctx roster x.taken) 64).gives (s.meeting errs)
    refine ⟨q, u, read, fun w stops => ?stops, fun bs reads poisoned => ?poisoned, fun bs reads unpoisoned => ?unpoisoned⟩
    case stops =>
      subst stops
      obtain ⟨t, fault⟩ := (keep_faultFor (dispAcc ctx) w).gives_unit u
      exact ⟨t, fault, Ends.of_errs (gives_fetchHead_of_stops due read fault)⟩
    case poisoned =>
      subst reads
      exact Ends.of_errs (gives_fetchHead_of_poisoned due read poisoned)
    case unpoisoned =>
      subst reads
      exact ⟨fun code bad => Ends.of_errs (gives_fetchHead_of_bad due read unpoisoned bad),
        fun good => Ends.of_errs (gives_fetchHead_of_good due read unpoisoned good)⟩
  case complete =>
    have task : (theCore (s.completionTaken core) core).task = some tk := by
      rw [theCore_congr (show (s.completionTaken core).cores = s.cores by simp [State.completionTaken]), task]
    obtain ⟨w, fence⟩ := (keep_fenceOf core).gives_unit (s.completionTaken core)
    obtain ⟨y, ends⟩ := (keep_endTask core 2).gives_unit w
    exact ⟨w, y, fence, ends, ends_taskCompletion_of_latched latched (gives_completeTask_of_ended task ended fence ends)⟩

end Sys2Proof.Machine
end

section
/-!
The sentinel (08_dispatch_and_contexts.md, R354 to R358; 11_data_integrity.md, R480, R483, R614): rounds, the pass of a core, its
completion, and the clearing of an Ox's state.
-/

namespace Sys2Proof.Machine

section
variable {n k : Nat} {defects : List (Fin 4 × Nat)} {r : SentRun} {s t u : State}

/-! ## Rounds (R354, R357) -/

/-- A round has begun: passes still owed are late, and every core with an Ox able to run passes owes one. -/
def State.roundBegun (s : State) : State :=
  let old := maskList (rg s DISP_SENT_PENDING)
  let able := coreNums.filter fun n => (List.range 4).any (oxAvail s n) && !coreDead s n
  (((((if old.length = 0 then s else s.count DISP_SENT_LATE_COUNT old.length).putReg DISP_SENT_LAST s.tick).putReg DISP_SENT_COUNT 0).putReg
    DISP_SENT_PENDING (maskOf (old ++ able))).count DISP_SENT_ROUNDS_COUNT 1)

theorem gives_beginRound : Gives beginRound s () s.roundBegun := fun q => by
  simp only [beginRound, run_bind, run_getS, run_bumpBy, run_setReg, run_bump, State.roundBegun]

/-! ## Passes (R355, R356) -/

/-- A core owes a pass, is free for it and has an Ox to run it. -/
structure PassBegins (s : State) (n k : Nat) : Prop where
  pending : bit (rg s DISP_SENT_PENDING) n = true
  free : coreFree s n = true
  alive : coreDead s n = false
  next : nextOx s n = some k

theorem gives_beginPass_of_held
    (held : bit (rg s DISP_SENT_PENDING) n = false ∨ coreFree s n = false ∨ coreDead s n = true ∨ nextOx s n = none) :
    Gives (beginPass n) s () s := fun q => by
  simp only [beginPass, run_bind, run_getS]
  split
  case isFalse => exact run_pure ..
  case isTrue may =>
    simp only [Bool.and_eq_true, Bool.not_eq_true'] at may
    obtain ⟨⟨pending, free⟩, alive⟩ := may
    have none_next : nextOx s n = none := by simpa only [pending, free, alive, Bool.true_eq_false, Bool.false_eq_true, false_or] using held
    simp only [none_next, run_pure]

/-- The pass of Ox k of a core: its SUSPECT Oxen are tested beside it, and the condition is that of now. -/
def sentRunOf (s : State) (n k : Nat) : SentRun :=
  ⟨k, (List.range 4).filter (fun j => j != k && suspect s (4 * n + j)), sentPattern s, fv s (CORE_TJ_NOW n),
    fv s (CORE_TJ_ACTIVITY n), s.tick⟩

/-- A pass changes registers, and of the cores its own only. -/
theorem gives_beginPass_of_begins (h : PassBegins s n k) :
    ∃ t, Gives (beginPass n) s () t ∧ t.cores = (s.putCore n fun c => { c with sent := some (sentRunOf s n k) }).cores := by
  obtain ⟨_, t, same, notes⟩ := (Keep.each (l := k :: (sentRunOf s n k).conf) fun j => keep_noteCondition (4 * n + j) (sentPattern s)
    (fv s (CORE_TJ_NOW n)) (fv s (CORE_TJ_ACTIVITY n)) (suspect s (4 * n + j))).gives
      (((s.put (sentPtr n) k).put ⟨DISP_SENT_PENDING, n, 1⟩ 0).putCore n fun c => { c with sent := some (sentRunOf s n k) })
  refine ⟨t, fun q => ?_, same.at .cores (by decide)⟩
  simp only [sentRunOf] at notes
  simp only [beginPass, run_bind, run_getS, h.pending, h.free, h.alive, h.next, Bool.not_false, Bool.and_self, if_true, run_setFld,
    run_modCore]
  exact notes q

/-! ## Completions (R358, R480) -/

/-- The pass of a core is as it was. -/
def sentRel (n : Nat) : Rel := ⟨fun s t => (theCore t n).sent = (theCore s n).sent, fun _ => rfl, fun _ _ _ h h' => h'.trans h⟩

theorem sentRel_of {mask : Nat} (h : mask.testBit 11 = false) : (sentRel n).of mask :=
  fun p hp s => congrArg CoreSt.sent (theCore_congr ((p.same mask hp s).at .cores h) n)

theorem within_sentRel_modCore {m : Nat} {f : CoreSt → CoreSt} (h : ∀ c, (f c).sent = c.sent) : Within (sentRel n) (modCore m f) :=
  fun s => ⟨(), s.putCore m f, by
    simp only [sentRel, theCore_putCore]
    split
    case isTrue same => rw [h, same]
    case isFalse => rfl, fun _ => rfl⟩

/-- A fence comes to its core and leaves the core's pass. -/
theorem within_sentRel_fenceOx (o data : Nat) : Within (sentRel n) (fenceOx o data) := by
  unfold fenceOx
  refine Within.getS.bind fun _ => .ite ?_ (.pure ())
  refine (Within.of_keep (keep_setFld ..) (sentRel_of (by decide))).bind fun _ => ?_
  refine (Within.of_keep (keep_historyAdd ..) (sentRel_of (by decide))).bind fun _ => ?_
  refine (Within.of_keep (keep_endPasses o) (sentRel_of (by decide))).bind fun held => ?_
  refine Within.bind (within_sentRel_modCore fun _ => rfl) fun _ => ?_
  refine (Within.each fun d _ => .of_keep (keep_passFault ..) (sentRel_of (by decide))).bind fun _ => ?_
  exact .of_keep keep_capUpdate (sentRel_of (by decide))

/-- The result of an Ox leaves the pass of the core, a mismatch included, which fences the Ox (R480). -/
theorem within_sentRel_oxResult (k : Nat) (defect : Nat) : Within (sentRel n) (oxResult n k r defect) := by
  have field (f : Fld) (v : Nat) : Within (sentRel n) (setFld f v) := .of_keep (keep_setFld f v) (sentRel_of (by decide))
  have word (a v : Nat) : Within (sentRel n) (setReg a v) := .of_keep (keep_setReg a v) (sentRel_of (by decide))
  have count (f : Fld) : Within (sentRel n) (bump f) := .of_keep (keep_bump f) (sentRel_of (by decide))
  have suspects (got : Nat) : Within (sentRel n) (newSuspect n k r got) := by
    unfold newSuspect
    refine (within_sentRel_fenceOx _ 1).bind fun _ => (field _ 1).bind fun _ => (field _ _).bind fun _ => (field _ _).bind fun _ => ?_
    exact (word _ 0).bind fun _ => (word _ 0).bind fun _ => Within.getS.bind fun _ => .of_keep (keep_writeCond _) (sentRel_of (by decide))
  unfold oxResult
  refine Within.getS.bind fun _ => (field _ _).bind fun _ => (count _).bind fun _ => ((count _).when').bind fun _ => .ite ?_ ?_
  · exact .of_keep (keep_confirmed ..) (sentRel_of (by decide))
  · exact (suspects _).when'

/-- The four Oxen of a core hold no stationary tile. -/
def State.tilesCleared (s : State) (n : Nat) : State :=
  (List.range 4).foldl (fun t k => t.putOx (4 * n + k) fun x => { x with live := [], liveRec := .zero }) s

theorem theCore_tilesCleared (s : State) (n m : Nat) : theCore (s.tilesCleared n) m = theCore s m :=
  foldl_same (theCore · m) _ (fun _ _ => theCore_putOx ..) _ s

theorem theOx_tilesCleared (s : State) (n : Nat) (h : k < 4) :
    (theOx (s.tilesCleared n) (4 * n + k)).live = [] ∧ (theOx (s.tilesCleared n) (4 * n + k)).liveRec = .zero := by
  have four : List.range 4 = [0, 1, 2, 3] := rfl
  unfold State.tilesCleared
  rw [four]
  interval_cases k <;> simp [theOx_putOx]

theorem gives_sentDone_of_none (idle : (theCore s n).sent = none) : Gives (sentDone n defects) s () s := fun q => by
  simp only [sentDone, run_bind, run_getS, idle, run_pure]

theorem exists_gives_sentDone (h : (theCore s n).sent = some r) :
    ∃ u : State, Gives (sentDone n defects) s () (u.tilesCleared n) ∧ (theCore u n).sent = none := by
  obtain ⟨_, u, same, results⟩ := (Within.each (l := r.ox :: r.conf) fun k _ => within_sentRel_oxResult (n := n) (r := r) k
    ((defects.find? fun d => d.1.val = k).elim 0 Prod.snd)) ((s.ranked 6).putCore n fun c => { c with sent := none })
  have clear := run_each_of (fun t k => t.putOx (4 * n + k) fun x => { x with live := [], liveRec := .zero })
    (fun k => modOx (4 * n + k) fun x => { x with live := [], liveRec := .zero }) fun _ _ _ => rfl
  refine ⟨u, fun q => ?_, same.trans (by rw [theCore_putCore_same])⟩
  simp only [sentDone, run_bind, run_getS, h, run_noteRank, run_modCore, results _, clear, State.tilesCleared]

end

/-- Settles O35: a round, a pass and a completion each by whether it is due. -/
theorem sentinelRoundsPassesAndCompletions : Obligations.SentinelRoundsPassesAndCompletions := by
  intro core ox defects s hp
  refine ⟨fun undue => ?undue, fun due => ?due, fun held => Gives.runM_eq (gives_beginPass_of_held held),
    fun k pending free alive next => ?pass, fun idle => (gives_sentDone_of_none idle).runT_eq hp, fun r runs => ?completion,
    Gives.runM_eq fun q => run_setFld ..⟩
  case undue => exact Gives.runM_eq fun q => by simp only [run_bind, run_getS, undue, run_when'_false]
  case due =>
    refine Gives.runM_eq fun q => ?_
    simp only [run_bind, run_getS, due, run_when'_true]
    exact gives_beginRound q
  case pass =>
    obtain ⟨t, begins, cores⟩ := gives_beginPass_of_begins ⟨pending, free, alive, next⟩
    exact ⟨t, Gives.runM_eq begins, cores⟩
  case completion =>
    obtain ⟨u, done, idle⟩ := exists_gives_sentDone (defects := defects) runs
    obtain ⟨t, same, ends⟩ := done.runT_sameBut
    refine ⟨t, ends, ?_, fun k four => ?_⟩
    · rw [theCore_congr (same.at .cores (by decide)), theCore_tilesCleared, idle]
    · rw [theOx_congr (same.at .oxen (by decide))]
      exact theOx_tilesCleared u core four

end Sys2Proof.Machine
end

section
/-!
A write of a whole line to HBM (09_hbm_subsystem.md, R366, R376; 11_data_integrity.md, R441, R443): what a stack's bytes, marks and
write-combining buffer are after it.
-/

namespace Sys2Proof.Machine

/-! ## Runs in a sparse map -/

section
variable {α : Type} [DecidableEq α] {d : Nat → α} {m : SMap α} {k j : Nat}

/-- A run that is written changes nothing outside it. -/
theorem mget_msetRun_of_outside (vs : List α) (h : j < k ∨ k + vs.length ≤ j) : mget d (msetRun d m k vs) j = mget d m j := by
  induction vs generalizing m k with
  | nil => rfl
  | cons v vs ih =>
    rw [List.length_cons] at h
    rw [msetRun, ih (by omega), mget_mset, if_neg (by omega)]

omit [DecidableEq α] in
theorem mgetRun_succ (n : Nat) : mgetRun d m k (n + 1) = mget d m k :: mgetRun d m (k + 1) n := by
  simp only [mgetRun, List.range_succ_eq_map, List.map_cons, List.map_map, Nat.add_zero, List.cons.injEq, true_and]
  exact List.map_congr_left fun i _ => congrArg (mget d m) (Nat.add_right_comm k i 1)

/-- A run that is written reads back. -/
theorem mgetRun_msetRun (vs : List α) : mgetRun d (msetRun d m k vs) k vs.length = vs := by
  induction vs generalizing m k with
  | nil => rfl
  | cons v vs ih =>
    rw [msetRun, List.length_cons, mgetRun_succ, ih, mget_msetRun_of_outside vs (.inl (Nat.lt_succ_self k)), mget_mset, if_pos rfl]

end

theorem length_natLe (k n : Nat) : (natLe k n).length = k := by
  induction k generalizing n with
  | zero => rfl
  | succ k ih => rw [natLe, List.length_cons, ih]

/-! ## Where pending requests lie -/

theorem theStack_congr {s t : State} (h : t.hbm = s.hbm) (i : Nat) : theStack t i = theStack s i := congrArg (mget _ · i) h

theorem remaps_congr {s t : State} (h : t.regs = s.regs) (st : Nat) : remaps t st = remaps s st := by
  unfold remaps
  rw [h]

/-- Where a line is stored depends on the pages retired. -/
theorem storageOff_congr {s t : State} {st : Nat} (h : remaps t st = remaps s st) (off : Nat) : storageOff t st off = storageOff s st off := by
  unfold storageOff remapSlot
  rw [h]

theorem reqLine_congr {s t : State} {st : Nat} (h : remaps t st = remaps s st) (q : HbmReq) : reqLine t st q = reqLine s st q := by
  unfold reqLine
  rw [storageOff_congr h]

/-! ## One line of a stack -/

/-- The buffer of a stack holds no entry of a line. -/
def State.wcbDropped (s : State) (st line : Nat) : State :=
  s.putStack st fun k => { k with wcb := k.wcb.filter fun e => e.line != line }

/-- A line is stored with its check word, or with the complement of it where it is poisoned (R441). -/
def State.lineStored (s : State) (st a : Nat) (bs : List Byte) (poison : Bool) : State :=
  ((s.putBytes a bs).putSyn a (if poison then poisonSyn else 0)).count (HBM_WR_LINES_COUNT st) 1

section
variable {st a b data req off mask i : Nat} {bs : List Byte} {poison : Bool} {s t u v w : State}

@[simp] theorem run_dropWcb (st line : Nat) (k : Unit → Act) (s : State) :
    Act.run (dropWcb st line k) s = Act.run (k ()) (s.wcbDropped st line) := rfl

@[simp] theorem run_writeStored (st a : Nat) (bs : List Byte) (poison : Bool) (k : Unit → Act) (s : State) :
    Act.run (writeStored st a bs poison k) s = Act.run (k ()) (s.lineStored st a bs poison) := rfl

theorem theStack_wcbDropped_same (s : State) (st line : Nat) : theStack (s.wcbDropped st line) st
    = { theStack s st with wcb := (theStack s st).wcb.filter fun e => e.line != line } := theStack_putStack_same ..

theorem theStack_lineStored (i : Nat) : theStack (s.lineStored st a bs poison) i = theStack s i := rfl

theorem rawBytes_lineStored : rawBytes (s.lineStored st a bs poison) a bs.length = bs := mgetRun_msetRun bs

theorem mget_mem_lineStored_of_outside (h : b < a ∨ a + bs.length ≤ b) :
    mget (fun _ => 0) (s.lineStored st a bs poison).mem b = mget (fun _ => 0) s.mem b := mget_msetRun_of_outside bs h

theorem synAt_lineStored : synAt (s.lineStored st a bs poison) b = if b = a then (if poison then poisonSyn else 0) else synAt s b := mget_mset

theorem poisonedAt_lineStored : poisonedAt (s.lineStored st a bs poison) a = poison := by
  rw [poisonedAt, synAt_lineStored, if_pos rfl]
  cases poison
  · decide
  · exact decide_eq_true rfl

/-! ## A write -/

theorem gives_writeMerged_full : Gives (writeMerged st a req data fullMask poison) s ()
    ((s.wcbDropped st a).lineStored st a (natLe 256 data) poison) := fun k => by
  simp only [writeMerged, if_true, run_bind, run_dropWcb, run_writeStored]

/-- With no request for the line pending none comes before an access to it (R366). -/
theorem gives_serveLine_of_none (h : (theStack s st).queue.filter (fun q => reqLine s st q = a) = []) : Gives (serveLine st a) s () s :=
  fun k => by simp only [serveLine, run_bind, run_getS, h, run_each_nil]

theorem gives_writeHbm_of_at (gate : gateHbm s req st off = .at i a) (guard : Gives (guardDir req (st * stackBytes + off) mask) s () u)
    (first : Gives (serveLine i a) u () v) (slot : Gives (noteSlot i a) v () w) (write : Gives (writeMerged i a req data mask poison) w () t) :
    Gives (writeHbm req st off data mask poison) s .ok t := fun k => by
  simp only [writeHbm, run_bind, run_getS, gate, guard _, first _, slot _, write _, run_pure]

/-- A whole line comes to a stack with no request for it pending: the directory's entries of the line are kept, a slot is taken, the
line leaves the write-combining buffer and is stored. -/
theorem exists_gives_writeHbm_full (gate : gateHbm s req st off = .at st a)
    (alone : (theStack s st).queue.filter (fun q => reqLine s st q = a) = []) :
    ∃ w, SameBut 0x42002 s w ∧ Gives (writeHbm req st off data fullMask poison) s .ok
      ((w.wcbDropped st a).lineStored st a (natLe 256 data) poison) := by
  obtain ⟨_, u, kept, guard⟩ := (keep_guardDir req (st * stackBytes + off) fullMask).gives s
  obtain ⟨_, w, noted, slot⟩ := (keep_noteSlot st a).gives u
  have hbm : u.hbm = s.hbm := kept.at .hbm (by decide)
  have regs : u.regs = s.regs := kept.at .regs (by decide)
  have alone' : (theStack u st).queue.filter (fun q => reqLine u st q = a) = [] := by
    simp only [theStack_congr hbm, reqLine_congr (remaps_congr regs st), alone]
  exact ⟨w, (kept.mono rfl).trans (noted.mono rfl),
    gives_writeHbm_of_at gate guard (gives_serveLine_of_none alone') slot gives_writeMerged_full⟩

end

/-- Settles O37: what stands before the write leaves bytes and marks, and the line is stored without its entry of the buffer. -/
theorem aFullLineReadsBackAsWritten : Obligations.AFullLineReadsBackAsWritten := by
  intro req st off a data poison s gate alone _
  obtain ⟨w, same, write⟩ := exists_gives_writeHbm_full (data := data) (poison := poison) gate alone
  have mem : w.mem = s.mem := same.at .mem (by decide)
  have syn : w.syn = s.syn := same.at .syn (by decide)
  refine ⟨_, write, ?bytes, poisonedAt_lineStored, fun b outside => ?others, fun b other => ?marks, fun e listed => ?buffer⟩
  case bytes =>
    have back := rawBytes_lineStored (s := w.wcbDropped st a) (st := st) (a := a) (bs := natLe 256 data) (poison := poison)
    rwa [length_natLe] at back
  case others =>
    rw [mget_mem_lineStored_of_outside (by rwa [length_natLe]), ← mem]
    rfl
  case marks =>
    rw [synAt_lineStored, if_neg other]
    exact congrArg (mget _ · b) syn
  case buffer =>
    rw [theStack_lineStored, theStack_wcbDropped_same] at listed
    exact bne_iff_ne.mp (List.mem_filter.mp listed).2

end Sys2Proof.Machine
end

section
/-!
The write-combining buffer and the pending requests of a stack (09_hbm_subsystem.md, R365 to R382; log 42): fences, the completion of an
entry, a pseudo-channel's new window, and ageing.
-/

namespace Sys2Proof.Machine

/-! ## Entries of the write-combining buffer (R378, R379, R382) -/

section
variable {st i a line n : Nat} {e : Wcb} {l : List Wcb} {p : Wcb → Bool} {errs : List LineErr} {m : M Unit} {s t u : State}

/-- Where a command carries line errors and writes no records, it answers what its sequence leaves, without them. -/
theorem Gives.runM_withErrs (h : Gives m (s.meeting errs) () u) : runM (withErrs errs m) s = .next (u.meeting []) := congrArg _ (h _)

/-- What is stored for an entry that has left the buffer. -/
def storeEntry (st : Nat) (e : Wcb) : M Unit := do
  if e.mask = fullMask then
    bump (HBM_WCB_FULLMASK_COUNT st)
    writeStored st e.line (natLe 256 e.data) e.poison
  else
    let got ← readStored st e.line 1
    let old ← lineData e.line got
    let p := e.poison || got != .good
    bump (HBM_RMW_COUNT st)
    writeStored st e.line (natLe 256 (mergeBits (leNat old) e.data e.mask)) p
    when' (got != .good) (flag (HBM_STATUS_WCB_POISON st))

theorem completeEntry_eq (st : Nat) (e : Wcb) : completeEntry st e = (do dropWcb st e.line; storeEntry st e) := rfl

theorem keep_storeEntry (st : Nat) (e : Wcb) : Keep 0xf (storeEntry st e) := by
  refine Keep.ite ((keep_bump _).mono rfl |>.bind fun _ => (keep_writeStored ..).mono rfl) ?_
  refine ((keep_readStored ..).mono rfl).bind fun _ => ((keep_lineData ..).mono rfl).bind fun _ => ?_
  exact ((keep_bump _).mono rfl).bind fun _ => ((keep_writeStored ..).mono rfl).bind fun _ => ((keep_flag _).mono rfl).when'

/-- Of the stacks a completion changes only the buffer that its entry leaves. -/
theorem exists_gives_completeEntry (st : Nat) (e : Wcb) (s : State) :
    ∃ t, Gives (completeEntry st e) s () t ∧ t.hbm = (s.wcbDropped st e.line).hbm := by
  obtain ⟨_, t, same, store⟩ := (keep_storeEntry st e).gives (s.wcbDropped st e.line)
  rw [completeEntry_eq]
  exact ⟨t, fun k => store k, same.at .hbm (by decide)⟩

theorem gives_completeLine_of_none (h : (theStack s st).wcb.find? (fun e => e.line = line) = none) :
    Gives (completeLine st line) s () s := fun k => by simp only [completeLine, run_bind, run_getS, h, run_pure]

theorem gives_completeLine_of_some (h : (theStack s st).wcb.find? (fun e => e.line = line) = some e)
    (complete : Gives (completeEntry st e) s () t) : Gives (completeLine st line) s () t := fun k => by
  simp only [completeLine, run_bind, run_getS, h]
  exact complete k

/-- No buffer holds an entry that it did not hold. -/
def WcbLeft (s t : State) : Prop := ∀ i, ∀ x ∈ (theStack t i).wcb, x ∈ (theStack s i).wcb

theorem WcbLeft.trans (h : WcbLeft s t) (h' : WcbLeft t u) : WcbLeft s u := fun i x hx => h i x (h' i x hx)

theorem wcbLeft_wcbDropped (s : State) (st line : Nat) : WcbLeft s (s.wcbDropped st line) := fun i x hx => by
  rw [State.wcbDropped, theStack_putStack] at hx
  split at hx
  next same =>
    subst same
    exact List.mem_of_mem_filter hx
  · exact hx

theorem wcbLeft_of_hbm (h : t.hbm = u.hbm) (left : WcbLeft s u) : WcbLeft s t := fun i x hx => left i x (theStack_congr h i ▸ hx)

/-- Entries that are completed leave the buffer with their lines. -/
theorem exists_gives_each_completeEntry (st : Nat) (l : List Wcb) (s : State) : ∃ t, Gives (each l (completeEntry st)) s () t
    ∧ WcbLeft s t ∧ ∀ x ∈ (theStack t st).wcb, ∀ e ∈ l, x.line ≠ e.line := by
  induction l generalizing s with
  | nil => exact ⟨s, fun _ => rfl, fun _ _ hx => hx, fun _ _ _ he => nomatch he⟩
  | cons e l ih =>
    obtain ⟨t, complete, hbm⟩ := exists_gives_completeEntry st e s
    obtain ⟨u, rest, left, gone⟩ := ih t
    refine ⟨u, complete.bind rest, (wcbLeft_of_hbm hbm (wcbLeft_wcbDropped s st e.line)).trans left, fun x hx y hy => ?_⟩
    rcases List.mem_cons.mp hy with rfl | hy
    · have held := left st x hx
      rw [theStack_congr hbm, theStack_wcbDropped_same] at held
      exact bne_iff_ne.mp (List.mem_filter.mp held).2
    · exact gone x hx y hy

theorem exists_gives_completeWhere (st : Nat) (p : Wcb → Bool) (s : State) : ∃ t, Gives (completeWhere st p) s () t
    ∧ WcbLeft s t ∧ ∀ x ∈ (theStack t st).wcb, p x = false := by
  obtain ⟨t, complete, left, gone⟩ := exists_gives_each_completeEntry st ((theStack s st).wcb.filter p) s
  refine ⟨t, fun k => complete k, left, fun x hx => ?_⟩
  rw [← Bool.not_eq_true]
  exact fun selected => gone x hx x (List.mem_filter.mpr ⟨left st x hx, selected⟩) rfl

theorem exists_gives_each_completeWhere (l : List Nat) (p : Wcb → Bool) (s : State) : ∃ t, Gives (each l (completeWhere · p)) s () t
    ∧ WcbLeft s t ∧ ∀ i ∈ l, ∀ x ∈ (theStack t i).wcb, p x = false := by
  induction l generalizing s with
  | nil => exact ⟨s, fun _ => rfl, fun _ _ hx => hx, fun _ hi => nomatch hi⟩
  | cons i l ih =>
    obtain ⟨t, complete, left, gone⟩ := exists_gives_completeWhere i p s
    obtain ⟨u, rest, left', gone'⟩ := ih t
    refine ⟨u, complete.bind rest, left.trans left', fun j hj x hx => ?_⟩
    rcases List.mem_cons.mp hj with rfl | hj
    · exact gone x (left' _ x hx)
    · exact gone' j hj x hx

/-- After a fence no stack's buffer holds bytes of the requester. -/
theorem exists_gives_fenceOf (req : Nat) (s : State) : ∃ t, Gives (fenceOf req) s () t
    ∧ ∀ i < s.part.nStacks, ∀ x ∈ (theStack t i).wcb, x.reqs.contains req = false := by
  obtain ⟨t, complete, _, gone⟩ := exists_gives_each_completeWhere (List.range s.part.nStacks) (fun e => e.reqs.contains req) s
  exact ⟨t, fun k => complete k, fun i hi => gone i (List.mem_range.mpr hi)⟩

end

/-! ## Serving a request leaves the others pending -/

/-- The requests pending at each stack and those without a slot are as they were. -/
def PendKept (s t : State) : Prop :=
  ∀ i, (theStack t i).queue = (theStack s i).queue ∧ (theStack t i).waits = (theStack s i).waits

/-- The requests' being kept goes on from change to change. -/
def pendRel : Rel := ⟨PendKept, fun _ _ => ⟨rfl, rfl⟩, fun _ _ _ h h' i => ⟨(h' i).1.trans (h i).1, (h' i).2.trans (h i).2⟩⟩

theorem pendRel_of {mask : Nat} (h : mask.testBit 13 = false) : pendRel.of mask := fun p hp s i => by
  rw [theStack_congr ((p.same mask hp s).at .hbm h)]
  exact ⟨rfl, rfl⟩

theorem within_pendRel_of_keep {α : Type} {m : M α} {mask : Nat} (h : Keep mask m) (h13 : mask.testBit 13 = false) : Within pendRel m :=
  .of_keep h (pendRel_of h13)

section
variable {st a cls req data mask source : Nat} {poison : Bool} {q : HbmReq} {s : State}

theorem within_pendRel_modStack {i : Nat} {f : StackSt → StackSt} (h : ∀ k, (f k).queue = k.queue ∧ (f k).waits = k.waits) :
    Within pendRel (modStack i f) := fun s => ⟨(), s.putStack i f, fun j => by
  rw [theStack_putStack]
  split
  next same => exact same ▸ h _
  · exact ⟨rfl, rfl⟩, fun _ => rfl⟩

theorem within_pendRel_noteSlot : Within pendRel (noteSlot st a) :=
  Within.getS.bind fun _ => (within_pendRel_of_keep (keep_noteSlots ..) (by decide)).bind fun _ => within_pendRel_modStack fun _ => ⟨rfl, rfl⟩

theorem within_pendRel_noteClass : Within pendRel (noteClass st a cls) :=
  .ite (Within.getS.bind fun _ => .ite (within_pendRel_of_keep (keep_bump _) (by decide)) (within_pendRel_modStack fun _ => ⟨rfl, rfl⟩))
    (.pure _)

theorem within_pendRel_dropWcb (line : Nat) : Within pendRel (dropWcb st line) := within_pendRel_modStack fun _ => ⟨rfl, rfl⟩

theorem within_pendRel_completeEntry (e : Wcb) : Within pendRel (completeEntry st e) := by
  rw [completeEntry_eq]
  exact (within_pendRel_dropWcb e.line).bind fun _ => within_pendRel_of_keep (keep_storeEntry st e) (by decide)

theorem within_pendRel_completeLine : Within pendRel (completeLine st a) := by
  refine Within.getS.bind fun _ => ?_
  split
  · exact within_pendRel_completeEntry _
  · exact .pure _

theorem within_pendRel_partialStored : Within pendRel (partialStored st a req data mask poison) := by
  unfold partialStored
  refine Within.getS.bind fun _ => ?_
  dsimp only
  split
  · exact .ite (within_pendRel_completeEntry _) (within_pendRel_modStack fun _ => ⟨rfl, rfl⟩)
  · refine .ite ?_ (within_pendRel_modStack fun _ => ⟨rfl, rfl⟩)
    split
    · exact (within_pendRel_of_keep (keep_bump _) (by decide)).bind fun _ => (within_pendRel_completeEntry _).bind fun _ =>
        within_pendRel_modStack fun _ => ⟨rfl, rfl⟩
    · exact within_pendRel_modStack fun _ => ⟨rfl, rfl⟩

theorem within_pendRel_writeMerged : Within pendRel (writeMerged st a req data mask poison) := by
  unfold writeMerged
  exact .ite ((within_pendRel_dropWcb a).bind fun _ => within_pendRel_of_keep (keep_writeStored ..) (by decide)) within_pendRel_partialStored

theorem within_pendRel_readMerged : Within pendRel (readMerged st a source) := by
  unfold readMerged
  refine Within.getS.bind fun _ => .ite (within_pendRel_completeLine.bind fun _ => Within.getS.bind fun _ => .pure _) ?_
  exact within_pendRel_of_keep ((((keep_readStored ..).mono rfl).bind fun _ => ((keep_lineData ..).mono rfl).bind fun _ => .pure 0x3 _)) (by decide)

/-- A request that is served leaves the queue; the others and those without a slot stay. -/
theorem exists_gives_serveReq (st a : Nat) (q : HbmReq) (s : State) : ∃ u, Gives (serveReq st a q) s () u
    ∧ (theStack u st).queue = (theStack s st).queue.erase q ∧ (theStack u st).waits = (theStack s st).waits := by
  have rest : Within pendRel (do
      noteSlot st a
      noteClass st a q.cls
      match q.write with
      | some w => writeMerged st a q.req w.1 w.2.1 w.2.2
      | none =>
        let r ← readMerged st a 0
        emit (.bytes (q.addr - q.addr % 256) r.2 (r.1 != .good))) := by
    refine within_pendRel_noteSlot.bind fun _ => within_pendRel_noteClass.bind fun _ => ?_
    split
    · exact within_pendRel_writeMerged
    · exact within_pendRel_readMerged.bind fun _ => within_pendRel_of_keep (keep_emit _) (by decide)
  obtain ⟨_, u, kept, serve⟩ := rest (s.putStack st fun k => { k with queue := k.queue.erase q })
  obtain ⟨queue, waits⟩ := kept st
  rw [theStack_putStack_same] at queue waits
  exact ⟨u, fun k => serve k, queue, waits⟩

end

/-! ## A window (R365, R368, R370 to R372) -/

section
variable {st pc n i a : Nat} {q : HbmReq} {round round' : List Nat} {s t u v : State}

theorem gives_dropAbsent_of_present (h : ∀ q ∈ (theStack s st).queue, ∃ i a, gateHbm s q.req st (q.addr % stackBytes) = .at i a) :
    Gives (dropAbsent st) s () s := fun k => by
  simp only [dropAbsent, run_bind, run_getS]
  generalize (theStack s st).queue = l at h
  induction l with
  | nil => rfl
  | cons q l ih =>
    obtain ⟨i, a, gate⟩ := h q List.mem_cons_self
    rw [run_each_cons, gate]
    exact ih fun p hp => h p (List.mem_cons_of_mem q hp)

theorem gives_offerWaits_of_none (h : (theStack s st).waits = []) : Gives (offerWaits st) s () s := fun k => by
  simp only [offerWaits, run_bind, run_getS, h, bne_self_eq_false, run_when'_false]

theorem gives_serveWindow_of_none (h : pickReq s st pc round = none) : Gives (serveWindow st pc n round) s () s := fun k => by
  cases n with
  | zero => rfl
  | succ n => simp only [serveWindow, run_bind, run_getS, h, run_pure]

theorem gives_serveWindow_of_some (pick : pickReq s st pc round = some (q, round')) (serve : Gives (serveReq st (reqLine s st q) q) s () u)
    (rest : Gives (serveWindow st pc n round') u () t) : Gives (serveWindow st pc (n + 1) round) s () t := fun k => by
  simp only [serveWindow, run_bind, run_getS, pick]
  exact (serve.bind rest) k

theorem servable_of_empty (h : (theStack s st).queue = []) : servable s st pc = [] := by
  simp only [servable, h, List.filter_nil]

theorem takeTurn_of_empty : takeTurn s st [] round = none :=
  List.findSome?_eq_none_iff.mpr fun _ _ => by rw [List.find?_nil, Option.map_none, ite_self]

theorem pickReq_of_empty (h : (theStack s st).queue = []) : pickReq s st pc round = none := by
  simp only [pickReq, servable_of_empty h, List.find?_nil, takeTurn_of_empty]

theorem servable_of_single (queue : (theStack s st).queue = [q]) (gate : gateHbm s q.req st (q.addr % stackBytes) = .at i a)
    (here : pcAt (reqLine s st q) = pc) : servable s st pc = [q] := by
  simp [servable, queue, gate, here]

theorem servedAs_le_three (h : q.cls < 4) : servedAs s st q ≤ 3 := by
  unfold servedAs
  split <;> omega

/-- A round begins with a line left for each of classes 1 to 3. -/
theorem roundOf_getD_ne_zero {k : Nat} (h : k < 3) : (roundOf s st).getD k 0 ≠ 0 := by
  unfold roundOf
  interval_cases k <;> simp

/-- The one request that can be served is taken where its class has a line left in the round. -/
theorem exists_takeTurn_of_single {k : Nat} (served : servedAs s st q = k + 1) (h : k < 3) (left : round.getD k 0 ≠ 0) :
    ∃ r, takeTurn s st [q] round = some (q, r) := by
  refine ⟨round.set k (round.getD k 0 - 1), ?_⟩
  unfold takeTurn
  have three : List.range 3 = [0, 1, 2] := rfl
  rw [three]
  rw [List.getD_eq_getElem?_getD] at left
  interval_cases k <;> simp [served, left]

/-- In a fresh round the one request that can be served is, whatever its class and age. -/
theorem exists_pickReq_of_single (one : servable s st pc = [q]) (cls : q.cls < 4) :
    ∃ r, pickReq s st pc (roundOf s st) = some (q, r) := by
  unfold pickReq
  rw [one]
  dsimp only
  cases first : servedAs s st q with
  | zero =>
    have found : [q].find? (fun q => decide (servedAs s st q = 0)) = some q := List.find?_cons_of_pos (decide_eq_true first)
    exact ⟨roundOf s st, by rw [found]⟩
  | succ k =>
    have bound := servedAs_le_three (s := s) (st := st) cls
    obtain ⟨r, turn⟩ := exists_takeTurn_of_single (round := roundOf s st) first (by omega) (roundOf_getD_ne_zero (by omega))
    have others : [q].find? (fun q => decide (servedAs s st q = 0)) = none := by simp [first]
    rw [others]
    cases aged : q.aged with
    | true => exact ⟨roundOf s st, by simp only [List.find?_cons, aged]⟩
    | false => exact ⟨r, by simp only [List.find?_cons, aged, List.find?_nil, turn]⟩

/-- A pseudo-channel's window opens: no line of it has been served (R368, R370). -/
def State.windowFresh (s : State) (st pc : Nat) : State :=
  s.putStack st fun k => { k with served0 := k.served0.filter (fun e => e.1 != pc), served := k.served.filter (fun e => e.1 != pc) }

theorem theStack_windowFresh (s : State) (st pc : Nat) : theStack (s.windowFresh st pc) st = { theStack s st with
    served0 := (theStack s st).served0.filter (fun e => e.1 != pc), served := (theStack s st).served.filter (fun e => e.1 != pc) } :=
  theStack_putStack_same ..

/-- A judgement of an address looks at the registers and at the retirement under way. -/
theorem gateHbm_congr (regs : t.regs = s.regs) (part : t.part = s.part) (retire : (theStack t st).retire = (theStack s st).retire)
    (req off : Nat) : gateHbm t req st off = gateHbm s req st off := by
  have state : fv t (HBM_STATUS_STATE st) = fv s (HBM_STATUS_STATE st) := by
    unfold fv rg
    rw [regs, part]
  unfold gateHbm
  simp only [state, retire, storageOff_congr (remaps_congr regs st)]

theorem gateHbm_windowFresh (req off : Nat) : gateHbm (s.windowFresh st pc) req st off = gateHbm s req st off :=
  gateHbm_congr (s := s) (t := s.windowFresh st pc) rfl rfl (by rw [theStack_windowFresh]) req off

theorem reqLine_windowFresh (q : HbmReq) : reqLine (s.windowFresh st pc) st q = reqLine s st q := reqLine_congr (remaps_congr rfl st) q

theorem gives_openWindow (drop : Gives (dropAbsent st) (s.windowFresh st pc) () t)
    (serve : Gives (serveWindow st pc windowLines (roundOf t st)) t () u) (offer : Gives (offerWaits st) u () v) :
    Gives (openWindow st pc) s () v := fun k => (drop _).trans ((serve _).trans (offer k))

theorem gives_openWindow_of_empty (queue : (theStack s st).queue = []) (waits : (theStack s st).waits = []) :
    Gives (openWindow st pc) s () (s.windowFresh st pc) := by
  have queue' : (theStack (s.windowFresh st pc) st).queue = [] := by rw [theStack_windowFresh, queue]
  have none : ∀ q ∈ (theStack (s.windowFresh st pc) st).queue,
      ∃ i a, gateHbm (s.windowFresh st pc) q.req st (q.addr % stackBytes) = .at i a := by
    rw [queue']
    exact fun q hq => nomatch hq
  exact gives_openWindow (gives_dropAbsent_of_present none) (gives_serveWindow_of_none (pickReq_of_empty queue'))
    (gives_offerWaits_of_none (by rw [theStack_windowFresh, waits]))

/-- One request pending at its pseudo-channel is what a new window serves. -/
theorem exists_gives_openWindow_of_single (queue : (theStack s st).queue = [q]) (waits : (theStack s st).waits = []) (cls : q.cls < 4)
    (gate : gateHbm s q.req st (q.addr % stackBytes) = .at i a) (here : pcAt (reqLine s st q) = pc) :
    ∃ u, Gives (serveReq st (reqLine s st q) q) (s.windowFresh st pc) () u ∧ (theStack u st).queue = []
      ∧ Gives (openWindow st pc) s () u := by
  have queue' : (theStack (s.windowFresh st pc) st).queue = [q] := by rw [theStack_windowFresh, queue]
  have gate' := (gateHbm_windowFresh (pc := pc) q.req (q.addr % stackBytes)).trans gate
  have line := reqLine_windowFresh (s := s) (st := st) (pc := pc) q
  obtain ⟨u, serve, left, unslotted⟩ := exists_gives_serveReq st (reqLine s st q) q (s.windowFresh st pc)
  rw [queue', List.erase_cons_head] at left
  rw [theStack_windowFresh, waits] at unslotted
  obtain ⟨r, pick⟩ := exists_pickReq_of_single (servable_of_single queue' gate' ((congrArg pcAt line).trans here)) cls
  have present : ∀ p ∈ (theStack (s.windowFresh st pc) st).queue,
      ∃ i a, gateHbm (s.windowFresh st pc) p.req st (p.addr % stackBytes) = .at i a := by
    rw [queue']
    exact fun p hp => List.mem_singleton.mp hp ▸ ⟨i, a, gate'⟩
  refine ⟨u, serve, left, gives_openWindow (gives_dropAbsent_of_present present) ?_ (gives_offerWaits_of_none unslotted)⟩
  exact gives_serveWindow_of_some (n := 144) pick (line.symm ▸ serve) (gives_serveWindow_of_none (pickReq_of_empty left))

/-! ## Ageing (R372) -/

/-- A write to a key that `p` selects none of leaves what `p` selects. -/
theorem filter_mset {α : Type} [DecidableEq α] {d : Nat → α} {m : SMap α} {k : Nat} {v : α} {p : Nat × α → Bool}
    (h : ∀ w, p (k, w) = false) : (mset d m k v).filter p = m.filter p := by
  unfold mset
  split
  · unfold merase
    rw [List.filter_filter]
    refine List.filter_congr fun e _ => ?_
    by_cases at_k : e.1 = k
    · have out := h e.2
      rw [← at_k] at out
      rw [out, Bool.false_and]
    · rw [bne_iff_ne.mpr at_k, Bool.and_true]
  · induction m with
    | nil => rw [minsert, List.filter_cons, h v]; rfl
    | cons e m ih =>
      obtain ⟨j, w⟩ := e
      unfold minsert
      split
      · rw [List.filter_cons, h v]; rfl
      · split
        next at_k =>
          subst at_k
          simp only [List.filter_cons, h, Bool.false_eq_true, if_false]
        · rw [List.filter_cons, List.filter_cons, ih]

/-- The pages retired are kept in the REMAP registers. -/
theorem remaps_putReg {x v : Nat} (h : x < HBM_REMAP st 0 ∨ HBM_REMAP st 512 ≤ x) : remaps (s.putReg x v) st = remaps s st := by
  unfold remaps
  refine congrArg (List.filterMap _) (filter_mset fun w => ?_)
  rcases h with h | h <;> simp <;> omega

theorem servedAs_countAged (q : HbmReq) : servedAs (s.count (HBM_AGED_COUNT st) 1) st q = servedAs s st q := by
  have line : reqLine (s.count (HBM_AGED_COUNT st) 1) st q = reqLine s st q :=
    reqLine_congr (remaps_putReg (.inl (by simp only [HBM_AGED_COUNT, HBM_AGED, HBM_REMAP]; omega))) q
  have share : fv (s.count (HBM_AGED_COUNT st) 1) (HBM_PRIO_CLASS0_SHARE st) = fv s (HBM_PRIO_CLASS0_SHARE st) :=
    fv_count_ne _ _ _ _ (by simp only [HBM_AGED_COUNT, HBM_AGED, HBM_PRIO_CLASS0_SHARE, HBM_PRIO]; omega)
  unfold servedAs class0Spent class0Limit
  rw [line, share, theStack_count]

theorem ageOldest_congr (h : ∀ q, servedAs t st q = servedAs s st q) (l : List HbmReq) : ageOldest t st l = ageOldest s st l := by
  induction l with
  | nil => rfl
  | cons q l ih => simp only [ageOldest, h, ih]

theorem exec_requestAged_eq (stack : Fin 12) (s : State) : exec (.requestAged stack) s = .next (
    if fv s (HBM_STATUS_STATE stack) = 2 ∧ fb s (HBM_AGE_LIMIT_CYCLES stack) = true
      then (s.count (HBM_AGED_COUNT stack) 1).putStack stack fun k => { k with queue := ageOldest s stack k.queue } else s) := by
  rw [exec_requestAged, execRequestAged, runM_eq]
  simp only [run_bind, run_getS, run_when', Bool.and_eq_true, decide_eq_true_eq, run_bump, run_modStack, run_done]

end

/-- Settles O38: fences and completions by what leaves the buffer, a window by what is pending, ageing by the stack's state. -/
theorem fencesEmptyTheWriteBuffer : Obligations.FencesEmptyTheWriteBuffer := by
  intro req stack pc line errs s hl hp
  refine ⟨?fence, fun absent => ?absent, fun e held => ?held, ⟨fun queue waits => ?empty,
    fun q i a queue waits cls gate here => ?single⟩, ?aged⟩
  case fence =>
    obtain ⟨u, fence, gone⟩ := exists_gives_fenceOf req (s.meeting errs)
    exact ⟨_, fence.runM_withErrs, gone⟩
  case absent => exact (gives_completeLine_of_none (s := s.meeting errs) absent).runM_withErrs.trans (congrArg _ (meeting_nil hl))
  case held =>
    obtain ⟨u, complete, _⟩ := exists_gives_completeEntry stack e (s.meeting errs)
    exact ⟨u, complete, (gives_completeLine_of_some (s := s.meeting errs) held complete).runM_withErrs⟩
  case empty => exact (gives_openWindow_of_empty queue waits).runT_eq hp
  case single =>
    obtain ⟨u, serve, left, opens⟩ := exists_gives_openWindow_of_single queue waits cls gate here
    exact ⟨u, serve, left, Ends.of_runT opens⟩
  case aged =>
    rw [exec_requestAged_eq]
    simp only [ageOldest_congr servedAs_countAged]

end Sys2Proof.Machine
end

section
/-!
Maintenance of a stack (09_hbm_subsystem.md, R388 to R392, Table 9.9): how it is entered and left, and what each command does in it.
-/

namespace Sys2Proof.Machine

section
variable {who : Who} {st op ch : Nat} {pc : Bool} {rows : List Nat} {m : M Unit} {s t u : State}

/-! ## Entering and leaving (R388, R391) -/

theorem gives_maintEnter_of_other (h : ¬ (who = .controlDie ∧ st < s.part.nStacks)) : Gives (maintEnter who st) s () s := fun k => by
  have other : (decide (who = .controlDie) && decide (st < s.part.nStacks)) = false := by simpa using h
  simp only [maintEnter, run_bind, run_getS, other, Bool.false_and, Bool.false_eq_true, if_false, run_pure]

theorem gives_maintEnter_of_ignored (training : fv s (HBM_STATUS_STATE st) ≠ 1) (out : fv s (HBM_STATUS_STATE st) ≠ 5) :
    Gives (maintEnter who st) s () s := fun k => by
  simp only [maintEnter, run_bind, run_getS, training, out, decide_false, Bool.or_self, Bool.and_false, Bool.false_eq_true, if_false, run_pure]

/-- A stack that trains enters MAINT when its training stops. -/
theorem gives_maintEnter_of_training (populated : st < s.part.nStacks) (training : fv s (HBM_STATUS_STATE st) = 1) :
    Gives (maintEnter .controlDie st) s () ((s.put (HBM_CTRL_MAINT st) 1).putStack st fun k => { k with toMaint := true }) := fun k => by
  simp [maintEnter, populated, training]

theorem gives_maintEnter_of_out (populated : st < s.part.nStacks) (out : fv s (HBM_STATUS_STATE st) = 5) :
    Gives (maintEnter .controlDie st) s () (((s.put (HBM_CTRL_MAINT st) 1).put (HBM_STATUS_STATE st) 4).recapped) := fun k => by
  simp [maintEnter, populated, out]

theorem gives_maintExit_of_other (h : ¬ (who = .controlDie ∧ st < s.part.nStacks)) : Gives (maintExit who st) s () s := fun k => by
  have other : (decide (who = .controlDie) && decide (st < s.part.nStacks)) = false := by simpa using h
  simp only [maintExit, run_bind, run_getS, other, Bool.false_eq_true, if_false, run_pure]

/-- MAINT is asked for no more. -/
def State.maintLeft (s : State) (st : Nat) : State := (s.put (HBM_CTRL_MAINT st) 0).putStack st fun k => { k with toMaint := false }

/-- A stack in MAINT trains again. -/
theorem gives_maintExit (populated : st < s.part.nStacks) : Gives (maintExit .controlDie st) s ()
    (if fv s (HBM_STATUS_STATE st) = 4 then ((s.maintLeft st).put (HBM_STATUS_STATE st) 1).recapped else s.maintLeft st) := fun k => by
  simp only [maintExit, run_bind, run_getS, populated, decide_true, Bool.and_self, if_true, run_setFld, run_modStack, run_when',
    decide_eq_true_eq, run_capUpdate]
  split <;> rfl

/-! ## The commands (R389, R390, R392) -/

/-- The command register shows a command. -/
def State.maintHead (s : State) (st op ch : Nat) (pc : Bool) : State := s.putReg (HBM_MAINT_CMD st) (op + ch * 16 + b2n pc * 512)

/-- A command has ended well. -/
def State.maintDone (s : State) (st : Nat) : State := s.put (HBM_MAINT_STATUS_RESULT st) 2

/-- Outside MAINT, or from another than the control die, a command fails. -/
theorem gives_maintOp_of_failed (h : ¬ (who = .controlDie ∧ fv s (HBM_STATUS_STATE st) = 4)) :
    Gives (maintOp who st op ch pc rows) s () (if st < s.part.nStacks then s.put (HBM_MAINT_STATUS_RESULT st) 3 else s) := fun k => by
  have failed : (decide (who = .controlDie) && decide (fv s (HBM_STATUS_STATE st) = 4)) = false := by simpa using h
  simp only [maintOp, maintCmd, run_bind, run_getS, failed, Bool.false_eq_true, if_false, run_when', decide_eq_true_eq, run_setFld]
  split <;> rfl

/-- In MAINT the control die's command does its work. -/
theorem gives_maintCmd_of_acts (h : fv s (HBM_STATUS_STATE st) = 4) (work : Gives m (s.maintHead st op ch pc) () u) :
    Gives (maintCmd .controlDie st op ch pc m) s () (u.maintDone st) := fun k => by
  simp only [maintCmd, run_bind, run_getS, h, decide_true, Bool.and_self, if_true, run_setReg]
  exact work _

theorem gives_modeReg_of_set {e : Nat × Nat} (h : (theStack s st).modeRegs.find? (fun e => e.1 = modeId s st ch) = some e) :
    Gives (modeReg st ch) s e.2 s := fun k => by simp only [modeReg, run_bind, run_getS, h, run_pure]

/-- A mode register that nothing set is a free value, which it keeps. -/
theorem gives_modeReg_of_unset (h : (theStack s st).modeRegs.find? (fun e => e.1 = modeId s st ch) = none) :
    Gives (modeReg st ch) s (Config.freeWord s.freeCtr).toNat ((s.putFreeCtr (· + 1)).putStack st fun k => { k with
      modeRegs := (modeId s st ch, (Config.freeWord s.freeCtr).toNat) :: k.modeRegs }) := fun k => by
  simp only [modeReg, freeWord, run_bind, run_getS, h, run_modFreeCtr, run_modStack, run_pure]

theorem gives_mrRead {v : Nat} (h : fv s (HBM_STATUS_STATE st) = 4) (reads : Gives (modeReg st ch) (s.maintHead st 1 ch pc) v u) :
    Gives (maintOp .controlDie st 1 ch pc rows) s ()
      (((u.putReg (HBM_MAINT_DATA st) v).putStack st fun k => { k with mbist := [] }).maintDone st) :=
  gives_maintCmd_of_acts h fun _ => reads _

/-- The low half of MAINT_DATA is written into a mode register. -/
theorem gives_mrWrite (h : fv s (HBM_STATUS_STATE st) = 4) : Gives (maintOp .controlDie st 2 ch pc rows) s ()
    (((s.maintHead st 2 ch pc).putStack st fun k => { k with
      modeRegs := (modeId (s.maintHead st 2 ch pc) st ch, bits (rg (s.maintHead st 2 ch pc) (HBM_MAINT_DATA st)) 0 32)
        :: k.modeRegs.filter fun e => e.1 != modeId (s.maintHead st 2 ch pc) st ch }).maintDone st) :=
  gives_maintCmd_of_acts h fun _ => rfl

theorem gives_softPpr (h : fv s (HBM_STATUS_STATE st) = 4) : Gives (maintOp .controlDie st 3 ch pc rows) s ()
    (((s.maintHead st 3 ch pc).putStack st fun k => { k with
      soft := rowId (s.maintHead st 3 ch pc) st ch pc :: k.soft.filter (· != rowId (s.maintHead st 3 ch pc) st ch pc) }).maintDone st) :=
  gives_maintCmd_of_acts h fun _ => rfl

/-- A row repaired for good. -/
def State.hardRepaired (s : State) (st ch : Nat) (pc : Bool) : State :=
  (s.maintHead st 4 ch pc).putStack st fun k => { k with
    hard := rowId (s.maintHead st 4 ch pc) st ch pc :: k.hard.filter (· != rowId (s.maintHead st 4 ch pc) st ch pc) }

/-- An entry of the repair history stands behind the others (R613). -/
theorem gives_historyAdd_entry (kind unit data : Nat) (s : State) : ∃ t, SameBut 0x100000 s t ∧ Gives (historyAdd kind unit data) s () t
    ∧ ∃ e, t.history.getLast? = some e ∧ e.kind = kind ∧ e.unit = unit ∧ e.data = data :=
  ⟨_, Prim.same (.modHistory _) _ (show Nat.testBit _ 20 = true by decide) s, fun _ => rfl, _, List.getLast?_concat .., rfl, rfl, rfl⟩

/-- A hard repair enters the repair history (R392). -/
theorem exists_gives_hardPpr (h : fv s (HBM_STATUS_STATE st) = 4) : ∃ t, Gives (maintOp .controlDie st 4 ch pc rows) s () t
    ∧ t.hbm = (s.hardRepaired st ch pc).hbm
    ∧ ∃ e, t.history.getLast? = some e ∧ e.kind = 6 ∧ e.unit = st ∧ e.data = rowId (s.maintHead st 4 ch pc) st ch pc := by
  obtain ⟨u, same, add, noted⟩ := gives_historyAdd_entry 6 st (rowId (s.maintHead st 4 ch pc) st ch pc) (s.hardRepaired st ch pc)
  exact ⟨u.maintDone st, gives_maintCmd_of_acts h fun k => add k, same.at .hbm (by decide), noted⟩

theorem gives_softPprUndo (h : fv s (HBM_STATUS_STATE st) = 4) : Gives (maintOp .controlDie st 5 ch pc rows) s ()
    (((s.maintHead st 5 ch pc).putStack st fun k => { k with soft := k.soft.filter fun i => i % 64 != ch + b2n pc * 32 }).maintDone st) :=
  gives_maintCmd_of_acts h fun _ => rfl

theorem gives_mbist (h : fv s (HBM_STATUS_STATE st) = 4) : Gives (maintOp .controlDie st 6 ch pc rows) s ()
    (((s.maintHead st 6 ch pc).putStack st fun k => { k with mbist := rows }).maintDone st) :=
  gives_maintCmd_of_acts h fun _ => rfl

/-- The test port receives its instruction and the data from MAINT_DATA. -/
theorem gives_ieee1500 (h : fv s (HBM_STATUS_STATE st) = 4) : Gives (maintOp .controlDie st 7 ch pc rows) s ()
    (((s.maintHead st 7 ch pc).says (.testPort st (bits (rg (s.maintHead st 7 ch pc) (HBM_MAINT_DATA st)) 0 16)
      (bits (rg (s.maintHead st 7 ch pc) (HBM_MAINT_DATA st)) 16 48))).maintDone st) :=
  gives_maintCmd_of_acts h fun _ => rfl

end

/-- Settles O39: MAINT by the stack's state, each command by whether it comes from the control die in MAINT. -/
theorem maintenanceIsEnteredActsAndIsLeft : Obligations.MaintenanceIsEnteredActsAndIsLeft := by
  refine ⟨fun who stack s => ⟨fun other => ?other, fun populated => ?populated⟩,
    fun who stack ch pc rows s => ⟨fun failed => ?failed, fun die maint => ?acts⟩⟩
  case other => exact ⟨(gives_maintEnter_of_other other).runM_eq, (gives_maintExit_of_other other).runM_eq⟩
  case populated =>
    exact ⟨fun training out => (gives_maintEnter_of_ignored training out).runM_eq,
      fun training => (gives_maintEnter_of_training populated training).runM_eq,
      fun out => (gives_maintEnter_of_out populated out).runM_eq, (gives_maintExit populated).runM_eq⟩
  case failed =>
    have fails (op : Nat) (rows : List Nat) := (gives_maintOp_of_failed (op := op) (ch := ch) (pc := pc) (rows := rows) failed).runM_eq
    exact ⟨fails 1 [], fails 2 [], fails 3 [], fails 4 [], fails 5 [], fails 6 rows, fails 7 []⟩
  case acts =>
    subst die
    refine ⟨fun e set => ?set, fun unset => ?unset, (gives_mrWrite maint).runM_eq, (gives_softPpr maint).runM_eq, ?hard,
      (gives_softPprUndo maint).runM_eq, (gives_mbist maint).runM_eq, (gives_ieee1500 maint).runM_eq⟩
    case set => exact (gives_mrRead maint (gives_modeReg_of_set (s := s.maintHead stack 1 ch pc) set)).runM_eq
    case unset => exact (gives_mrRead maint (gives_modeReg_of_unset (s := s.maintHead stack 1 ch pc) unset)).runM_eq
    case hard =>
      obtain ⟨t, repairs, hbm, noted⟩ := exists_gives_hardPpr (ch := ch) (pc := pc) (rows := []) maint
      exact ⟨t, repairs.runM_eq, hbm, noted⟩

end Sys2Proof.Machine
end

section
/-!
The end of training (09_hbm_subsystem.md, R384 to R387; 10_deep_tier_and_wagon.md, R397): a stack goes into service, to maintenance or
out of service, and a CXL port takes its width, rate and capacity.
-/

namespace Sys2Proof.Machine

/-! ## A stack (R384 to R387) -/

/-- Training can end: phase 6 is reached and no trip has stopped the device. -/
def TrainingEnds (s : State) : Prop := fv s CHAIN_START_PHASE ≥ 6 ∧ tripped s = false

/-- The lanes of a channel that fail. -/
def failingLanes (fails : List (Fin 32 × Nat)) (ch : Nat) : Nat := (fails.find? (fun f => f.1.val = ch)).elim 0 Prod.snd

/-- A channel did not train. -/
def untrainedAt (untrained : List (Fin 32)) (ch : Nat) : Bool := untrained.any (fun u => u.val = ch)

/-- A channel did not train or has more failing lanes than spares. -/
def stackBad (r : Nat) (fails : List (Fin 32 × Nat)) (untrained : List (Fin 32)) : Bool :=
  (List.range 32).any fun ch => untrainedAt untrained ch || decide (r < failingLanes fails ch)

/-- Each channel's lane repair is recorded (R384). -/
def State.lanesRecorded (s : State) (st r : Nat) (fails : List (Fin 32 × Nat)) (untrained : List (Fin 32)) : State :=
  (List.range 32).foldl (fun x ch => x.putReg (HBM_LANE st ch)
    (min (failingLanes fails ch) r % 16 + (r - min (failingLanes fails ch) r) % 16 * 16
      + b2n (untrainedAt untrained ch || decide (r < failingLanes fails ch)) * 256)) s

/-- The stack has its new state, with what training found flagged. -/
def State.stackTrained (s : State) (st r : Nat) (fails : List (Fin 32 × Nat)) (untrained : List (Fin 32)) : State :=
  let s1 := s.lanesRecorded st r fails untrained
  let s2 := if (List.range 32).any (fun ch => decide (0 < min (failingLanes fails ch) r)) = true then s1.put (HBM_STATUS_LANE_REPAIRED st) 1 else s1
  let s3 := if stackBad r fails untrained = true then s2.put (HBM_STATUS_TRAIN_FAIL st) 1 else s2
  let s4 := s3.put (HBM_STATUS_STATE st) (if (theStack s st).toMaint = true then 4 else if stackBad r fails untrained = true then 5 else 2)
  (s4.putStack st fun x => { x with modeRegs := [], served0 := [], toMaint := false, turned := [] }).recapped

theorem run_when_flag (b : Bool) (f : Fld) (k : Unit → Act) (s : State) :
    Act.run (when' b (flag f) k) s = Act.run (k ()) (if b = true then s.put f 1 else s) := by cases b <;> rfl

section
variable {st r width cap : Nat} {fails : List (Fin 32 × Nat)} {untrained : List (Fin 32)} {s t : State}

theorem gives_hbmTrained_of_not
    (h : ¬ (st < s.part.nStacks ∧ (fv s (HBM_STATUS_STATE st) = 1 ∨ fv s (HBM_STATUS_STATE st) = 3) ∧ TrainingEnds s)) :
    Gives (hbmTrained st r fails untrained) s () s := fun k => by
  have off : (decide (st < s.part.nStacks) && (decide (fv s (HBM_STATUS_STATE st) = 1) || decide (fv s (HBM_STATUS_STATE st) = 3))
      && decide (6 ≤ fv s CHAIN_START_PHASE) && !tripped s) = false := by
    rw [← Bool.not_eq_true]
    simpa [TrainingEnds, and_assoc] using h
  simp only [hbmTrained, run_bind, run_getS, off, Bool.false_eq_true, if_false, run_pure]

theorem gives_hbmTrained (populated : st < s.part.nStacks) (training : fv s (HBM_STATUS_STATE st) = 1 ∨ fv s (HBM_STATUS_STATE st) = 3)
    (ends : TrainingEnds s) (start : Gives startTry (s.stackTrained st r fails untrained) () t) :
    Gives (hbmTrained st r fails untrained) s () t := fun k => by
  obtain ⟨phase, live⟩ := ends
  have on : (decide (st < s.part.nStacks) && (decide (fv s (HBM_STATUS_STATE st) = 1) || decide (fv s (HBM_STATUS_STATE st) = 3))
      && decide (6 ≤ fv s CHAIN_START_PHASE) && !tripped s) = true := by
    simp [populated, training, phase, live]
  have record := run_each_of (fun x ch => x.putReg (HBM_LANE st ch)
    (min (failingLanes fails ch) r % 16 + (r - min (failingLanes fails ch) r) % 16 * 16
      + b2n (untrainedAt untrained ch || decide (r < failingLanes fails ch)) * 256))
    (fun ch => laneReg st ch (failingLanes fails ch) r (untrainedAt untrained ch)) (fun _ _ _ => rfl) (List.range 32)
  have trained := start k
  unfold State.stackTrained State.lanesRecorded at trained
  rw [← trained]
  unfold hbmTrained
  simp only [run_bind, run_getS, on, if_true]
  refine (record _ _).trans ?_
  simp only [run_when_flag, run_setFld, run_modStack, run_capUpdate, run_bind]
  rfl

/-! ## A CXL port (R397) -/

variable {port : Fin 8} {speed : Fin 3}

theorem exec_cxlTraining_of_not (h : ¬ (port.val < s.part.cxls ∧ fv s (CXL_STATUS_STATE port) = 1 ∧ TrainingEnds s)) :
    exec (.cxlTraining port width speed cap) s = .next s := by
  have off : (decide (port.val < s.part.cxls) && decide (fv s (CXL_STATUS_STATE port) = 1) && decide (6 ≤ fv s CHAIN_START_PHASE)
      && !tripped s) = false := by
    rw [← Bool.not_eq_true]
    simpa [TrainingEnds, and_assoc] using h
  rw [exec_cxlTraining, execCxlTraining, runM_eq]
  simp only [run_bind, run_getS, off, Bool.false_eq_true, if_false, run_pure, run_done]

theorem exec_cxlTraining_of_trains (populated : port.val < s.part.cxls) (training : fv s (CXL_STATUS_STATE port) = 1)
    (ends : TrainingEnds s) (start : Gives startTry ((s.put (CXL_CAP_GIB_GIB port) cap).cxlTrained port width speed) () t) :
    exec (.cxlTraining port width speed cap) s = .next t := by
  obtain ⟨phase, live⟩ := ends
  have on : (decide (port.val < s.part.cxls) && decide (fv s (CXL_STATUS_STATE port) = 1) && decide (6 ≤ fv s CHAIN_START_PHASE)
      && !tripped s) = true := by
    simp [populated, training, phase, live]
  rw [exec_cxlTraining, execCxlTraining]
  refine Gives.runM_eq fun k => ?_
  simp only [run_bind, run_getS, on, if_true, run_setFld, run_cxlUp, start k]

theorem exec_cxlLinkDown_eq (port : Fin 8) (s : State) : exec (.cxlLinkDown port) s = .next (if fv s (CXL_STATUS_STATE port) = 2
    then ((s.put (CXL_STATUS_STATE port) 3).put (CXL_STATUS_LINK_DOWN port) 1).recapped else s) := by
  rw [exec_cxlLinkDown, execCxlLinkDown, runM_eq]
  simp only [run_bind, run_getS, run_ite, run_setFld, run_flag, run_capUpdate, run_pure, run_done]

theorem exec_cxlLinkRetrained_eq (port : Fin 8) (width : Nat) (speed : Fin 3) (s : State) :
    exec (.cxlLinkRetrained port width speed) s = .next (if fv s (CXL_STATUS_STATE port) = 3 ∧ tripped s = false
      then (s.count (CXL_RETRAINS_COUNT port) 1).cxlTrained port width speed else s) := by
  rw [exec_cxlLinkRetrained, execCxlLinkRetrained, runM_eq]
  simp only [run_bind, run_getS, run_ite, Bool.and_eq_true, decide_eq_true_eq, Bool.not_eq_true', run_bump, run_cxlUp, run_pure, run_done]

end

/-- Settles O40: a stack and a port each by whether their training can end. -/
theorem trainingEndsInServiceOrOut : Obligations.TrainingEndsInServiceOrOut := by
  intro stack r fails untrained port width rate cap s
  refine ⟨fun idle => (gives_hbmTrained_of_not idle).runM_eq, fun populated training ends => ?stack, exec_cxlTraining_of_not,
    fun populated training ends => ?port, exec_cxlLinkDown_eq port s, exec_cxlLinkRetrained_eq port width rate s⟩
  case stack =>
    obtain ⟨t, start⟩ := keep_startTry.gives_unit (s.stackTrained stack r fails untrained)
    exact ⟨t, start, (gives_hbmTrained populated training ends start).runM_eq⟩
  case port =>
    obtain ⟨t, start⟩ := keep_startTry.gives_unit ((s.put (CXL_CAP_GIB_GIB port) cap).cxlTrained port width rate)
    exact ⟨t, start, exec_cxlTraining_of_trains populated training ends start⟩

end Sys2Proof.Machine
end

section
/-!
A device reset, RESET_N and a loss of power (15_hangs_resets_recovery.md, R653, Table 15.5; 09_hbm_subsystem.md, R394;
16_package_and_control_die.md, R676, R684): what each leaves.
-/

namespace Sys2Proof.Machine

theorem mreset_all {α : Type} (m : SMap α) : mreset (fun _ => true) m = [] := List.filter_false m

/-! ## What units hold is gone (Table 15.7) -/

/-- The first part of a clearing: the units, on-chip memory and its marks. -/
def emptyUnits (s : State) : M Unit := do
  each (mkeys s.oxen) (fun o => modOx o (fun _ => .idle))
  each (mkeys s.cores) (fun n => modCore n (fun _ => .idle))
  each (mkeys s.ctxs) (fun c => modCtx c (fun _ => .empty))
  each (mkeys s.ports) (fun p => modPort p (fun _ => .start))
  each (mkeys s.cxls) (fun x => modCxl x (fun _ => ⟨[]⟩))
  each (mkeys s.hbm) (fun i => modStack i (fun k => { StackSt.fresh with soft := k.soft, hard := k.hard }))
  clearMem (fun a => decide (sramBase ≤ a))
  clearSyn (fun a => decide (sramBase ≤ a))

theorem keep_emptyUnits (s : State) : Keep 0x823c0c (emptyUnits s) := by
  refine (Keep.each fun _ => (keep_modOx ..).mono rfl).bind fun _ => (Keep.each fun _ => (keep_modCore ..).mono rfl).bind fun _ => ?_
  refine (Keep.each fun _ => (keep_modCtx ..).mono rfl).bind fun _ => (Keep.each fun _ => (keep_modPort ..).mono rfl).bind fun _ => ?_
  refine (Keep.each fun _ => (keep_modCxl ..).mono rfl).bind fun _ => (Keep.each fun _ => (keep_modStack ..).mono rfl).bind fun _ => ?_
  exact ((keep_clearMem _).mono rfl).bind fun _ => (keep_clearSyn _).mono rfl

/-- What a clearing leaves of the parts that are one for the device. -/
structure DeviceCleared (s t : State) : Prop where
  draw : t.draw = []
  latched : t.latched = []
  fab : t.fab = .start
  sec : t.sec = .start
  pwr : t.pwr = { PwrSt.start with hbmRails := s.pwr.hbmRails }
  flash : s.flash.writing = [] → t.flash = s.flash

theorem exists_gives_clearDevice (s : State) : ∃ t, DeviceCleared s t ∧ Gives clearDevice s () t := by
  obtain ⟨_, u, same, empty⟩ := (keep_emptyUnits s).gives s
  have pwr : u.pwr = s.pwr := same.at .pwr (by decide)
  have flash : u.flash = s.flash := same.at .flash (by decide)
  refine ⟨_, ⟨mreset_all _, rfl, rfl, rfl, congrArg (fun p : PwrSt => { PwrSt.start with hbmRails := p.hbmRails }) pwr, fun idle => ?_⟩,
    fun k => (empty _).trans rfl⟩
  rw [← flash] at idle ⊢
  simp only [Prim.apply, idle]

/-! ## A device reset (R653, R684) -/

section
variable {found : StartInput} {x : Nat × Bool} {s t u v w y z : State}

theorem gives_takeDevice_of_hot (hot : tooHot s = true) : Gives (takeDevice found) s () s := fun k => by
  simp only [takeDevice, run_bind, run_getS, hot, if_true, run_pure]

/-- The work of the device ends: events are superseded, tasks and placed entries end in RESET, buffered lines are stored. -/
def stopDevice (s : State) : M (Nat × Bool) := do
  let sup ← supersede (fun _ => true)
  each coreNums (fun n => endTask n 5)
  each ctxNums (fun c => do each (placedOf (← getS) c) (fun p => rosterFinal c p.1 p.2.1 5))
  each (List.range s.part.nStacks) (fun i => completeWhere i (fun _ => true))
  modTime (fun t => { t with keep := fb s TIME_STATUS_MASTER })
  return sup

theorem keep_stopDevice (s : State) : Keep 0xf39cf (stopDevice s) := by
  refine ((keep_supersede _).mono rfl).bind fun _ => (Keep.each fun _ => (keep_endTask ..).mono rfl).bind fun _ => ?_
  refine (Keep.each fun _ => (Keep.getS _).bind fun _ => .each fun _ => (keep_rosterFinal ..).mono rfl).bind fun _ => ?_
  exact (Keep.each fun _ => (keep_completeWhere ..).mono rfl).bind fun _ => ((keep_modTime _).mono rfl).bind fun _ => .pure _ _

/-- The one reset under way is the device's. -/
def deviceOp (s : State) (sup : Nat × Bool) : ResetOp := ⟨8, 0, [], s.tick, sup.1, sup.2⟩

/-- Registers are as Table 15.5 keeps them and the device's reset is under way; `s` is the state it was taken in, `status` PWR.STATUS. -/
def State.deviceResetting (t s : State) (status : Nat) (sup : Nat × Bool) : State :=
  ((((t.resetRegs fun a => !keptByReset a).put WAGON_STATUS_STATE (fv s WAGON_STATUS_STATE)).putReg PWR_STATUS
    (Nat.land status 0x1700)).putResets fun _ => [deviceOp s sup]).put RESET_STATUS_BUSY 1

/-- The rest of a device reset: what it clears, the registers, its marks and the start. -/
def restartDevice (found : StartInput) (s : State) (sup : Nat × Bool) : M Unit := do
  let status := rg (← getS) PWR_STATUS
  clearDevice
  resetWhere (fun a => !keptByReset a)
  setFld WAGON_STATUS_STATE (fv s WAGON_STATUS_STATE)
  setReg PWR_STATUS (Nat.land status 0x1700)
  modResets (fun _ => [deviceOp s sup])
  setFld RESET_STATUS_BUSY 1
  each ((deviceOp s sup).units s.part) (fun x => setFld (resettingFld x.1 x.2) 1)
  startFrom found

theorem gives_restartDevice (clear : Gives clearDevice u () v)
    (mark : Gives (each ((deviceOp s x).units s.part) fun x => setFld (resettingFld x.1 x.2) 1)
      (v.deviceResetting s (rg u PWR_STATUS) x) () w) (start : Gives (startFrom found) w () t) :
    Gives (restartDevice found s x) u () t := fun k => by
  simp only [restartDevice, run_bind, run_getS, clear _, resetWhere, run_resetRegs, run_setFld, run_setReg, run_modResets]
  exact (mark _).trans (start k)

theorem gives_takeDevice (cool : tooHot s = false) (free : inReset s 8 0 = false) (stop : Gives (stopDevice s) s x u)
    (restart : Gives (restartDevice found s x) u () t) : Gives (takeDevice found) s () t := fun k => by
  simp only [takeDevice, run_bind, run_getS, cool, free, Bool.false_eq_true, if_false]
  exact (stop.bind (f := restartDevice found s) restart) k

/-- What a device reset leaves (Table 15.5). -/
structure DeviceReset (s t : State) : Prop where
  latched : t.latched = []
  fab : t.fab = .start
  sec : t.sec = .start
  pwr : t.pwr = { PwrSt.start with hbmRails := s.pwr.hbmRails }
  resets : ∃ sup more, t.resets = [⟨8, 0, [], s.tick, sup, more⟩]
  tick : t.tick = s.tick
  history : t.history = s.history

theorem exists_gives_takeDevice (found : StartInput) (cool : tooHot s = false) (free : inReset s 8 0 = false) :
    ∃ t, Gives (takeDevice found) s () t ∧ DeviceReset s t := by
  obtain ⟨x, u, stopped, stop⟩ := (keep_stopDevice s).gives s
  obtain ⟨v, cleared, clear⟩ := exists_gives_clearDevice u
  have marks : Keep 0x2 (each ((deviceOp s x).units s.part) fun x => setFld (resettingFld x.1 x.2) 1) :=
    Keep.each fun _ => keep_setFld ..
  obtain ⟨_, w, marked, mark⟩ := marks.gives (v.deviceResetting s (rg u PWR_STATUS) x)
  obtain ⟨_, t, started, start⟩ := (keep_startFrom found).gives w
  have last : SameBut 0x2c000042 (v.deviceResetting s (rg u PWR_STATUS) x) t := (marked.mono rfl).trans started
  have take := gives_takeDevice cool free stop (gives_restartDevice clear mark start)
  have all := take.same (keep_takeDevice found)
  have pwr : u.pwr = s.pwr := stopped.at .pwr (by decide)
  exact ⟨t, take, (last.at .latched (by decide)).trans cleared.latched, (last.at .fab (by decide)).trans cleared.fab,
    (last.at .sec (by decide)).trans cleared.sec, (last.at .pwr (by decide)).trans (pwr ▸ cleared.pwr),
    ⟨x.1, x.2, last.at .resets (by decide)⟩, all.at .tick (by decide), all.at .history (by decide)⟩

/-! ## RESET_N (R676) -/

/-- With a tick a device reset is requested for its next edge. -/
theorem exec_resetN_of_tick (tick : hasTick s = true) (hp : s.trPend = []) :
    exec .resetN s = .next (s.latching ⟨2, 0, none, 0, .reset 8 0⟩) := by
  rw [exec_resetN, execResetN]
  refine Gives.runT_eq (fun k => ?_) hp
  simp only [run_bind, run_getS, tick, if_true]
  rfl

theorem exec_resetN_of_unstarted (tickless : hasTick s = false) (phase : fv s CHAIN_START_PHASE = 0) (hp : s.trPend = []) :
    exec .resetN s = .next s := by
  rw [exec_resetN, execResetN]
  refine Gives.runT_eq (fun k => ?_) hp
  simp only [run_bind, run_getS, tickless, Bool.false_eq_true, if_false, phase, bne_self_eq_false, run_when'_false]

/-- A device that has started and has no tick resets at once. -/
theorem ends_resetN (tickless : hasTick s = false) (phase : fv s CHAIN_START_PHASE ≠ 0)
    (take : Gives (takeDevice s.chain.found) s () t) : Ends (exec .resetN s) t := by
  rw [exec_resetN, execResetN]
  refine Ends.of_runT fun k => ?_
  simp only [run_bind, run_getS, tickless, Bool.false_eq_true, if_false, bne_iff_ne.mpr phase, run_when'_true]
  exact take k

/-! ## A loss of power (R462) -/

/-- What a loss of power leaves: every part at its reset value but the repair history and the flash. -/
structure PowerLost (s t : State) : Prop where
  regs : t.regs = []
  mem : t.mem = []
  syn : t.syn = []
  draw : t.draw = []
  tick : t.tick = 0
  time : t.time = .start
  latched : t.latched = []
  resets : t.resets = []
  fab : t.fab = .start
  sec : t.sec = .start
  chain : t.chain = .start
  pwr : t.pwr = .start
  link : t.link = .start
  wagon : t.wagon = .start
  history : t.history = s.history
  flash : s.flash.writing = [] → t.flash = s.flash

/-- What the control unit, the wagon, the chain, the power block and the die links hold is lost too. -/
def State.runtimeLost (s : State) : State :=
  (((((((((s.putTick fun _ => 0).putTime fun _ => .start).putWagon fun _ => .start).putDeepNext fun _ => 0).putTrouble fun _ => []).putCond
    fun _ => []).putResets fun _ => []).putChain fun _ => .start).putPwr fun _ => .start).putLink fun _ => .start

/-- Of the stacks their permanent repairs stay. -/
def keepRepairs (s : State) : M Unit := each (mkeys s.hbm) (fun i => modStack i (fun k => { StackSt.fresh with hard := k.hard }))

theorem keep_keepRepairs (s : State) : Keep 0x2000 (keepRepairs s) := Keep.each fun _ => keep_modStack ..

/-- No register, byte or mark stays. -/
def State.contentsLost (s : State) : State := ((s.resetRegs fun _ => true).clearBytes fun _ => true).clearSyn fun _ => true

theorem contentsLost_regs (s : State) : s.contentsLost.regs = [] := mreset_all s.regs

theorem contentsLost_mem (s : State) : s.contentsLost.mem = [] := mreset_all s.mem

theorem contentsLost_syn (s : State) : s.contentsLost.syn = [] := mreset_all s.syn

theorem contentsLost_sameBut (s : State) : SameBut 0x200e s s.contentsLost :=
  have regs : SameBut 0x200e s (s.resetRegs fun _ => true) := Prim.same (.resetRegs _) _ (show Nat.testBit _ 1 = true by decide) s
  have mem := Prim.same (.clearMem fun _ => true) 0x200e (show Nat.testBit _ 2 = true by decide) (s.resetRegs fun _ => true)
  (regs.trans mem).trans (Prim.same (.clearSyn fun _ => true) _ (show Nat.testBit _ 3 = true by decide) _)

theorem exec_powerLoss_eq (clear : Gives clearDevice s () u) (repair : Gives (keepRepairs s) u.contentsLost () v) :
    exec .powerLoss s = .next v.runtimeLost := by
  unfold keepRepairs State.contentsLost at repair
  rw [exec_powerLoss, execPowerLoss, runM_eq]
  simp only [run_bind, run_getS, clear _, resetWhere, run_resetRegs, run_clearMem, run_clearSyn]
  rw [repair]
  simp only [run_modTick, run_bind, run_modTime,
    run_modWagon, run_modDeepNext, run_modTrouble, run_modCond, run_modResets, run_modChain, run_modPwr, run_modLink, run_done, State.runtimeLost]

theorem exec_powerLoss_loses (s : State) : ∃ t, exec .powerLoss s = .next t ∧ PowerLost s t := by
  obtain ⟨u, cleared, clear⟩ := exists_gives_clearDevice s
  have history : u.history = s.history := (clear.same keep_clearDevice).at .history (by decide)
  obtain ⟨_, v, same, repair⟩ := (keep_keepRepairs s).gives u.contentsLost
  have regs : v.regs = [] := (same.at .regs (by decide)).trans (contentsLost_regs u)
  have mem : v.mem = [] := (same.at .mem (by decide)).trans (contentsLost_mem u)
  have syn : v.syn = [] := (same.at .syn (by decide)).trans (contentsLost_syn u)
  have units : SameBut 0x200e u v := (contentsLost_sameBut u).trans (same.mono rfl)
  have draw : v.draw = [] := (units.at .draw (by decide)).trans cleared.draw
  have latched : v.latched = [] := (units.at .latched (by decide)).trans cleared.latched
  have fab : v.fab = .start := (units.at .fab (by decide)).trans cleared.fab
  have sec : v.sec = .start := (units.at .sec (by decide)).trans cleared.sec
  have history : v.history = s.history := (units.at .history (by decide)).trans history
  have flash (idle : s.flash.writing = []) : v.flash = s.flash := (units.at .flash (by decide)).trans (cleared.flash idle)
  refine ⟨v.runtimeLost, exec_powerLoss_eq clear repair, ?_⟩
  constructor <;> simp [State.runtimeLost, regs, mem, syn, draw, latched, fab, sec, history]
  case flash => exact flash

end

/-- Settles O55: a device reset by its heat, RESET_N by the tick and the phase, and a loss of power. -/
theorem theDeviceResets : Obligations.TheDeviceResets := by
  intro i s hp
  refine ⟨fun hot => (gives_takeDevice_of_hot hot).runT_eq hp, fun cool free => ?reset, fun tick => exec_resetN_of_tick tick hp,
    fun tickless phase => exec_resetN_of_unstarted tickless phase hp, fun tickless phase => ?pin, ?power⟩
  case reset =>
    obtain ⟨t, take, left⟩ := exists_gives_takeDevice i cool free
    exact ⟨t, take, Ends.of_runT take, left.latched, left.fab, left.sec, left.pwr, left.resets, left.tick, left.history⟩
  case pin =>
    obtain ⟨t, take⟩ := (keep_takeDevice s.chain.found).gives_unit s
    exact ⟨t, take, ends_resetN tickless phase take⟩
  case power =>
    obtain ⟨t, loses, left⟩ := exec_powerLoss_loses s
    exact ⟨t, loses, left.regs, left.mem, left.syn, left.draw, left.tick, left.time, left.latched, left.resets, left.fab, left.sec,
      left.chain, left.pwr, left.link, left.wagon, left.history, left.flash⟩

end Sys2Proof.Machine
end

section
/-!
The Wagon (10_deep_tier_and_wagon.md, R407 to R430): hints, heat, the end of a move, and how the Wagon is enabled, drained and resumed.
-/

namespace Sys2Proof.Machine

/-! ## Hints (R413, R414) -/

/-- What HINT shows of a hint: its OP, first page and COUNT (Table 10.4). -/
def hintWord (op page count : Nat) : Nat := op + page % 2 ^ 31 * 2 ^ 21 + count * 2 ^ 52

/-- HINT shows a hint that has been written. -/
def State.hinted (s : State) (word : Nat) : State := s.putReg WAGON_HINT word

/-- The consecutive pages of a hint. -/
def hintPages (page count : Nat) : List Nat := (List.range (count + 1)).map fun i => page % 2 ^ 31 + i

/-- Whoever writes it, a hint does not queue: the Wagon is DISABLED or DRAINING, or 64 hints wait (R413, R414). -/
def HintRefused (s : State) : Prop := fv s WAGON_STATUS_STATE = 0 ∨ fv s WAGON_STATUS_STATE = 2 ∨ 64 ≤ s.wagon.hints.length

/-- A hint waits behind the others, its pages not yet translated. -/
def State.hintQueued (s : State) (op : Nat) (owner : Option (Nat × Nat)) (pages : List Nat) : State :=
  s.putWagon fun w => { w with hints := w.hints ++ [⟨op, owner, pages, false⟩] }

section
variable {who : Who} {c : Instr} {n : Fin 64} {op page count word x : Nat} {s : State}

/-- Showing a hint does not change whether it queues. -/
theorem hintRefused_iff_hinted : HintRefused s ↔ fv (s.hinted word) WAGON_STATUS_STATE = 0 ∨ fv (s.hinted word) WAGON_STATUS_STATE = 2
    ∨ 64 ≤ s.wagon.hints.length := by
  have state : fv (s.hinted word) WAGON_STATUS_STATE = fv s WAGON_STATUS_STATE := fv_putReg_ne _ _ _ _ (by decide)
  rw [state, HintRefused]

/-- HINT is no register that says which cores a context holds. -/
theorem ctxOfCore_hinted (c : Nat) : ctxOfCore (s.hinted word) c = ctxOfCore s c := by
  have cores (c : Nat) : rg (s.hinted word) (CTX_CORES c) = rg s (CTX_CORES c) :=
    rg_putReg_ne _ _ _ _ (by unfold CTX_CORES WAGON_HINT; omega)
  simp only [ctxOfCore, holderOf, cores]
  rfl

theorem refused_eq_true_iff : (decide (fv s WAGON_STATUS_STATE = 0) || decide (fv s WAGON_STATUS_STATE = 2)
    || decide (64 ≤ s.wagon.hints.length)) = true ↔ HintRefused s := by
  simp only [HintRefused, Bool.or_eq_true, decide_eq_true_eq, or_assoc]

theorem gives_hintWrite_of_refused (pos : 0 < op) (valid : op < 5) (refused : HintRefused s) :
    Gives (hintWrite who op page count) s () ((s.hinted (hintWord op page count)).hintsDropped 1) := fun k => by
  simp only [hintWrite, run_bind, run_getS, valid, decide_true, run_when'_true, run_setReg, pos.ne', Nat.not_le.mpr valid, if_false,
    refused_eq_true_iff, refused, if_true, run_hintDrop]
  rfl

theorem gives_hintWrite_of_die (pos : 0 < op) (valid : op < 5) (taken : ¬ HintRefused s) : Gives (hintWrite .controlDie op page count) s ()
    ((s.hinted (hintWord op page count)).hintQueued op none (hintPages page count)) := fun k => by
  simp only [hintWrite, run_bind, run_getS, valid, decide_true, run_when'_true, run_setReg, pos.ne', Nat.not_le.mpr valid, if_false,
    refused_eq_true_iff, taken, run_modWagon]
  rfl

/-- A Collie's hint is of the context that its core works for. -/
theorem gives_hintWrite_of_collie (pos : 0 < op) (valid : op < 5) (taken : ¬ HintRefused s) (holds : ctxOfCore s n = some x) :
    Gives (hintWrite (.collie n) op page count) s ()
      ((s.hinted (hintWord op page count)).hintQueued op (some (x, n)) (hintPages page count)) := fun k => by
  simp only [hintWrite, run_bind, run_getS, valid, decide_true, run_when'_true, run_setReg, pos.ne', Nat.not_le.mpr valid, if_false,
    refused_eq_true_iff, taken, holds, run_modWagon]
  rfl

theorem gives_hintWrite_of_no_context (pos : 0 < op) (valid : op < 5) (taken : ¬ HintRefused s) (free : ctxOfCore s n = none) :
    Gives (hintWrite (.collie n) op page count) s () ((s.hinted (hintWord op page count)).hintsDropped 1) := fun k => by
  simp only [hintWrite, run_bind, run_getS, valid, decide_true, run_when'_true, run_setReg, pos.ne', Nat.not_le.mpr valid, if_false,
    refused_eq_true_iff, taken, free, run_hintDrop]
  rfl

/-- Each of the four commands writes HINT with its OP. -/
theorem exec_hint {count : Fin 4096} (h : (c, op) ∈ [(Instr.promote who page count, 1), (.evict who page count, 2),
    (.pin who page count, 3), (.unpin who page count, 4)]) :
    exec c s = runM (hintWrite who op page count) s ∧ 0 < op ∧ op < 5 := by
  simp only [List.mem_cons, Prod.mk.injEq, List.not_mem_nil, or_false] at h
  obtain ⟨rfl, rfl⟩ | ⟨rfl, rfl⟩ | ⟨rfl, rfl⟩ | ⟨rfl, rfl⟩ := h
  all_goals exact ⟨rfl, by decide, by decide⟩

end

/-! ## Heat (R410) -/

/-- Every heat is halved, rounding down, at this tick. -/
def State.heatHalved (s : State) : State :=
  s.putWagon fun w => { w with heat := msetAll (fun _ => 0) [] (w.heat.map fun e => (e.1, e.2 / 2)), halved := s.tick }

theorem exec_heatEpoch_eq (s : State) : exec .heatEpoch s = .next (if halveDue s = true then s.heatHalved else s) := by
  rw [exec_heatEpoch, execHeatEpoch, runM_eq]
  simp only [run_bind, run_getS, run_when', halveHeat, run_modWagon, run_done]
  split <;> rfl

/-! ## The end of a move (R421 to R424) -/

/-- The port to which a failed eviction's write is counted: the lowest of the interleave that does not answer. -/
def failedPort (s : State) : Nat := ((deepPorts s).find? fun x => !portUp s x).getD ((deepPorts s).headD 0)

/-- An eviction is abandoned and counted. -/
def State.moveFailed (s : State) (m : Move) : State :=
  (((s.count (CXL_FAILED_COUNT (failedPort s)) 1).moveEnded m).put WAGON_STATUS_MOVE_FAIL 1).count WAGON_MOVE_FAILS_COUNT 1

section
variable {page st a o : Nat} {errs : List LineErr} {m : Move} {s t u : State}

theorem gives_moveFails (m : Move) (s : State) : Gives (moveFails m) s () (s.moveFailed m) := fun k => by
  have ends (t : State) : Act.run (endMove m fun _ => flag WAGON_STATUS_MOVE_FAIL fun _ => bump WAGON_MOVE_FAILS_COUNT k) t
      = Act.run (k ()) (((t.moveEnded m).put WAGON_STATUS_MOVE_FAIL 1).count WAGON_MOVE_FAILS_COUNT 1) := by
    simp only [run_endMove, run_flag, run_bump]
  simp only [moveFails, run_bind, run_getS, run_bump]
  exact ends _

theorem exec_moveFail_of_none (still : moveOf s page = none) : exec (.moveFail page) s = .next s := by
  rw [exec_moveFail, execMoveFail, runM_eq]
  simp only [run_bind, run_getS, still, run_pure, run_done]

theorem exec_moveFail_of_promotion (moving : moveOf s page = some m) (up : m.promote = true) : exec (.moveFail page) s = .next s := by
  rw [exec_moveFail, execMoveFail, runM_eq]
  simp only [run_bind, run_getS, moving, up, Bool.not_true, run_when'_false, run_done]

theorem exec_moveFail_of_eviction (moving : moveOf s page = some m) (down : m.promote = false) :
    exec (.moveFail page) s = .next (s.moveFailed m) := by
  rw [exec_moveFail, execMoveFail, runM_eq]
  simp only [run_bind, run_getS, moving, down, Bool.not_false, run_when'_true]
  exact congrArg _ (gives_moveFails m s _)

theorem exec_moveComplete_eq (page : Nat) (errs : List LineErr) (s : State) : exec (.moveComplete page errs) s
    = .next (if (moveOf s page).isSome = true then s.latching ⟨6, 2, none, 0, .moveDone page errs⟩ else s) := by
  rw [exec_moveComplete, execMoveComplete, runM_eq]
  simp only [run_bind, run_getS, run_when', run_latch, run_done]

/-- A move's end is put off while its pool stack is out of service or an access of its page is outstanding (R421). -/
theorem gives_moveDone_of_waits (waits : fv s (HBM_STATUS_STATE (frameAt s m.frame).1) ≠ 2 ∨ deepBusy s m.page = true) :
    Gives (moveDone m) s () s := fun k => by
  have off : (decide (fv s (HBM_STATUS_STATE (frameAt s m.frame).1) = 2) && !deepBusy s m.page) = false := by
    simpa [imp_iff_not_or] using waits
  simp only [moveDone, run_bind, run_getS, off, Bool.false_eq_true, if_false, run_pure]

theorem gives_moveDone_of_copies (served : fv s (HBM_STATUS_STATE (frameAt s m.frame).1) = 2) (idle : deepBusy s m.page = false)
    (stored : storageOff s (frameAt s m.frame).1 (frameAt s m.frame).2 = some o)
    (answered : m.promote = true ∨ (deepPorts s).all (portUp s) = true)
    (copy : Gives (moveCopies m (frameAt s m.frame).1 ((frameAt s m.frame).1 * stackBytes + o)) s () t) : Gives (moveDone m) s () t := fun k => by
  have goes : (!m.promote && !(deepPorts s).all (portUp s)) = false := by
    rcases answered with up | up <;> simp only [up, Bool.not_true, Bool.false_and, Bool.and_false]
  simp only [moveDone, run_bind, run_getS, served, decide_true, idle, Bool.not_false, Bool.and_self, if_true, stored, goes,
    Bool.false_eq_true, if_false]
  exact copy k

theorem gives_moveCompletes (moving : moveOf s page = some m) (done : Gives (moveDone m) (s.meeting errs) () t) :
    Gives (moveCompletes page errs) s () (t.meeting []) := fun k => by
  have same : moveOf (s.putLineErrs fun _ => errs) page = some m := moving
  simp only [moveCompletes, run_withErrs, run_bind, run_getS, same]
  exact done _

/-- A move copies its page, up to the pool or down to the deep tier. -/
def moveData (m : Move) (st a : Nat) : M Unit := if m.promote then copyUp m.page st a else copyDown m.page st a

theorem keep_moveData (m : Move) (st a : Nat) : Keep 0xf200f (moveData m st a) :=
  .ite ((keep_copyUp ..).mono rfl) ((keep_copyDown ..).mono rfl)

/-- The first part of a move's completion: its page is copied and both directory entries are written. -/
def moveStores (m : Move) (st a : Nat) : M Unit := do
  let s ← getS
  moveData m st a
  writeDir (dirAddr s m.page) (DirEnt.mk m.promote (m.promote && m.pin) false (if m.promote then m.frame else 0) (heatOf s m.page)).word
  writeDir (dirFrameAddr s m.frame) (if m.promote then 1 + m.page % 2 ^ 24 * 2 else 0)

theorem keep_moveStores (m : Move) (st a : Nat) : Keep 0xf200f (moveStores m st a) :=
  (Keep.getS _).bind fun _ => (keep_moveData ..).bind fun _ => (keep_writeDir ..).bind fun _ => keep_writeDir ..

/-- The last part: the move is counted, and a drain that it ends disables the Wagon. -/
def moveCounts : M Unit := do
  bump WAGON_MOVES_COUNT
  bumpBy WAGON_BYTES_COUNT page2M
  noteRank 6
  when' (drainOver (← getS)) enterDisabled

theorem keep_moveCounts : Keep 0x42 moveCounts :=
  ((keep_bump ..).mono rfl).bind fun _ => ((keep_bumpBy ..).mono rfl).bind fun _ => (keep_noteRank ..).bind fun _ =>
    (Keep.getS _).bind fun _ => Keep.when' (keep_enterDisabled.mono rfl)

theorem gives_moveCopies (stores : Gives (moveStores m st a) s () u) (counts : Gives moveCounts (u.moveEnded m) () t) :
    Gives (moveCopies m st a) s () t := fun k => by
  have first := stores fun _ => endMove m fun _ => moveCounts k
  rw [run_endMove, counts k] at first
  rw [← first]
  simp only [moveCopies, moveStores, moveData, moveCounts, run_bind, run_getS, run_ite]
  rfl

theorem ne_of_mem_moveEnded {x : Move} (h : x ∈ (s.moveEnded m).wagon.moves) : x ≠ m := by
  simpa using List.of_mem_filter h

/-- A page that has been copied is in transit no more (R423). -/
theorem exists_gives_moveCopies (m : Move) (st a : Nat) (s : State) :
    ∃ t, Gives (moveCopies m st a) s () t ∧ ∀ x ∈ t.wagon.moves, x ≠ m := by
  obtain ⟨u, stores⟩ := (keep_moveStores m st a).gives_unit s
  obtain ⟨_, t, same, counts⟩ := keep_moveCounts.gives (u.moveEnded m)
  have wagon : t.wagon = (u.moveEnded m).wagon := same.at .wagon (by decide)
  exact ⟨t, gives_moveCopies stores counts, fun x hx => ne_of_mem_moveEnded (wagon ▸ hx)⟩

end

/-! ## Enabling and draining (R407, R430) -/

/-- The Wagon runs with the stacks then in service; directory words that memory already holds are looked up there again. -/
def State.wagonStarted (s : State) : State :=
  (((s.putWagon fun w => { w with dir := w.dir.filter fun e => w.dirDue.contains e.1 }).put WAGON_POOL_STACKS_MASK (maskOf (stacksUp s))).put
    WAGON_STATUS_STATE 1).put WAGON_CTRL_EN 1

section
variable {s : State}

theorem exec_wagonEnable_of_disabled (disabled : fv s WAGON_STATUS_STATE = 0) (off : fb s WAGON_CTRL_EN = false) :
    exec .wagonEnable s = .next
      (s.wagonStarted.putWagon fun w => { w with lost := w.lost.filter fun d => (dirOf s.wagonStarted d).lost }).recapped := by
  rw [exec_wagonEnable, execWagonEnable, runM_eq]
  simp only [wagonEnable, run_bind, run_getS, disabled, decide_true, off, Bool.not_false, Bool.and_self, if_true, run_modWagon, run_setFld,
    run_capUpdate, run_done]
  rfl

theorem exec_wagonEnable_of_other (other : fv s WAGON_STATUS_STATE ≠ 0 ∨ fb s WAGON_CTRL_EN = true) :
    exec .wagonEnable s = .next (s.put WAGON_CTRL_EN 1) := by
  have no : (decide (fv s WAGON_STATUS_STATE = 0) && !fb s WAGON_CTRL_EN) = false := by simpa [imp_iff_not_or] using other
  rw [exec_wagonEnable, execWagonEnable, runM_eq]
  simp only [wagonEnable, run_bind, run_getS, no, Bool.false_eq_true, if_false, run_setFld, run_done]

theorem exec_wagonDisable_eq (s : State) : exec .wagonDisable s = .next (if fv (s.put WAGON_CTRL_EN 0) WAGON_STATUS_STATE = 1
    then (s.put WAGON_CTRL_EN 0).put WAGON_STATUS_STATE 2 else s.put WAGON_CTRL_EN 0) := by
  rw [exec_wagonDisable, execWagonDisable, runM_eq]
  simp only [wagonDisable, run_bind, run_getS, run_when', run_setFld, run_done, decide_eq_true_eq]

theorem exec_wagonDrainComplete_eq (s : State) :
    exec .wagonDrainComplete s = .next (if drainOver s = true then s.put WAGON_STATUS_STATE 0 else s) := by
  rw [exec_wagonDrainComplete, execWagonDrainComplete, runM_eq]
  simp only [enterDisabled, run_bind, run_getS, run_when', run_setFld, run_done]

end

/-! ## Resuming (R429) -/

/-- The words of the directory: an entry for each deep page, then one for each frame (R405). -/
def dirWords (s : State) : List Nat := (List.range (deepPages s + poolFrames s)).map fun i => dirWord s (rg s WAGON_DIR_BASE + 8 * i)

/-- The heat that the directory holds for each deep page. -/
def dirHeat (s : State) : List (Nat × Nat) := ((dirWords s).take (deepPages s)).zipIdx.map fun e => (e.2, (DirEnt.of e.1).heat)

section
variable {r : Run} {w : HoldWhy} {s u : State}

theorem gives_resumeDone_of_other (other : fv s WAGON_STATUS_STATE ≠ 3) : Gives resumeDone s () s := fun k => by
  simp only [resumeDone, run_bind, run_getS, other, if_false, run_pure]

theorem gives_resumeDone_of_held (resuming : fv s WAGON_STATUS_STATE = 3)
    (read : Gives (readPhys (viaWagon s) (rg s WAGON_DIR_BASE) (8 * (deepPages s + poolFrames s))) s r u) (held : r.stop = some (.hold w)) :
    Gives resumeDone s () u := fun k => by
  simp only [resumeDone, run_bind, run_getS, resuming, if_true]
  rw [read]
  simp only [held, run_pure]

/-- Once the whole directory is read the Wagon runs with its heat; no page is LOST while no pool stack is out of service. -/
theorem gives_resumeDone_of_read (resuming : fv s WAGON_STATUS_STATE = 3)
    (read : Gives (readPhys (viaWagon s) (rg s WAGON_DIR_BASE) (8 * (deepPages s + poolFrames s))) s r u) (whole : r.stop = none)
    (enabled : fb s WAGON_CTRL_EN = true) (served : ∀ f, fv s (HBM_STATUS_STATE (frameAt s f).1) ≠ 5) :
    Gives resumeDone s () ((u.putWagon fun w => { w with heat := msetAll (fun _ => 0) [] (dirHeat s) }).put WAGON_STATUS_STATE 1) := fun k => by
  simp only [resumeDone, run_bind, run_getS, resuming, if_true]
  rw [read]
  simp only [whole, run_bind, run_modWagon, enabled, if_true, run_setFld, served, decide_false, List.filter_false, run_each_nil, Bool.not_true,
    run_when'_false]
  rfl

end

/-- Settles O41: hints by who writes them, moves by what puts off or stops their end, the Wagon by its state. -/
theorem hintsQueueAndTheWagonMoves : Obligations.HintsQueueAndTheWagonMoves := by
  refine ⟨fun who page count s => ?hints, fun page errs s hp hl => ⟨exec_heatEpoch_eq s, fun still => ?still, fun m moving => ?moving,
    exec_wagonEnable_of_disabled, exec_wagonEnable_of_other, exec_wagonDisable_eq s, exec_wagonDrainComplete_eq s, fun other => ?other,
    fun resuming => ?resuming⟩⟩
  case hints =>
    intro reg pages full c op h
    obtain ⟨run, pos, valid⟩ := exec_hint (s := s) h
    have shown : reg op = s.hinted (hintWord op page count) := by rw [State.hinted, hintWord]
    have full_iff : full op ↔ HintRefused s := by rw [hintRefused_iff_hinted (word := hintWord op page count), ← shown]
    rw [run, full_iff, shown]
    simp only [ctxOfCore_hinted]
    refine ⟨fun f => ?refused, fun f die => ?die, fun n f collie => ⟨fun x holds => ?holds, fun free => ?free⟩⟩
    case refused => exact (gives_hintWrite_of_refused pos valid f).runM_eq
    case die => exact die ▸ (gives_hintWrite_of_die pos valid f).runM_eq
    case holds => exact collie ▸ (gives_hintWrite_of_collie pos valid f holds).runM_eq
    case free => exact collie ▸ (gives_hintWrite_of_no_context pos valid f free).runM_eq
  case still => exact ⟨by rw [exec_moveComplete_eq, still]; rfl, exec_moveFail_of_none still⟩
  case moving =>
    refine ⟨exec_moveFail_of_promotion moving, exec_moveFail_of_eviction moving, by rw [exec_moveComplete_eq, moving]; rfl, fun waits => ?_,
      fun o served idle stored answered => ?_⟩
    · have done := gives_moveCompletes moving (gives_moveDone_of_waits (s := s.meeting errs) waits)
      rwa [meeting_meeting, meeting_nil hl] at done
    · obtain ⟨t, copy, gone⟩ := exists_gives_moveCopies m (frameAt s m.frame).1 ((frameAt s m.frame).1 * stackBytes + o) (s.meeting errs)
      exact ⟨t, copy, gives_moveCompletes moving (gives_moveDone_of_copies (s := s.meeting errs) served idle stored answered copy), gone⟩
  case other =>
    have done := (gives_resumeDone_of_other (s := s.meeting errs) other).runM_withErrs
    rwa [meeting_meeting, meeting_nil hl] at done
  case resuming =>
    obtain ⟨r, u, _, read⟩ := (keep_readPhys (viaWagon s) (rg s WAGON_DIR_BASE) (8 * (deepPages s + poolFrames s))).gives (s.meeting errs)
    exact ⟨r, u, read, fun w held => (gives_resumeDone_of_held (s := s.meeting errs) resuming read held).runM_withErrs,
      fun whole enabled served => (gives_resumeDone_of_read (s := s.meeting errs) resuming read whole enabled served).runM_withErrs⟩

end Sys2Proof.Machine
end

section
/-!
Accesses of deep memory (10_deep_tier_and_wagon.md, R396 to R403, R420, R433 to R435, R703): where an access goes, what it waits for, and
how it is late, fails and is discarded.
-/

namespace Sys2Proof.Machine

/-! ## The home of a page (R402, R409, R420, R703) -/

/-- An access waits for its page (R420). -/
def State.deepQueued (s : State) (q : DeepWait) : State :=
  let t := s.putWagon fun w => { w with waiting := w.waiting ++ [q] }
  match q.ctx with
  | some c => t.count (CTX_LOCK_WAITS_COUNT c) 1
  | none => t

/-- An access through a level-2 leaf adds to the heat of its page at the next tick (R409, R410). -/
def State.warmed (s : State) (q : DeepWait) (d : Nat) : State :=
  if q.leaf2 = true then
    s.putWagon fun w => { w with touched := mset (fun _ => 0) w.touched d (mget (fun _ => 0) w.touched d + 1) }
  else s

/-- An access as its port holds it until it is answered; a port that is down brings no answer (R434). -/
def deepAcc (s : State) (q : DeepWait) (off : Nat) (leaf1 : Bool) : DeepAcc :=
  ⟨s.deepNext, off, q.va, s.tick, q.ctx, q.req, q.data, if portUp s (deepPort s off) = true then q.reply.map (s.tick + ·) else none,
    false, false, leaf1, false⟩

/-- An access is outstanding at the port of its line. -/
def State.deepSent (s : State) (q : DeepWait) (off : Nat) (leaf1 : Bool) : State :=
  (s.putDeepNext (· + 1)).putCxl (deepPort s off) fun c => { c with out := c.out ++ [deepAcc s q off leaf1] }

/-- A line's bytes go to the requester of an access. -/
def State.deepDelivered (s : State) (q : DeepWait) (bs : List Byte) : State := s.says (.bytes (q.va - q.va % 256) bs false)

/-- The line of an access is not read or written at once: its port is down, or the expander answers later or never. -/
def NotAtOnce (s : State) (q : DeepWait) (off : Nat) : Prop := portUp s (deepPort s off) = false ∨ q.reply ≠ some 0

section
variable {q : DeepWait} {off o st d : Nat} {lost leaf1 again : Bool} {bs : List Byte} {r : LineOut} {errs : List LineErr} {s t u v : State}

@[simp] theorem deepQueued_trPend (s : State) (q : DeepWait) : (s.deepQueued q).trPend = s.trPend := by
  unfold State.deepQueued; cases q.ctx <;> simp

@[simp] theorem deepQueued_lineErrs (s : State) (q : DeepWait) : (s.deepQueued q).lineErrs = s.lineErrs := by
  unfold State.deepQueued; cases q.ctx <;> simp

theorem count_meeting (s : State) (errs : List LineErr) (f : Fld) (n : Nat) : (s.meeting errs).count f n = (s.count f n).meeting errs := rfl

theorem putWagon_meeting (s : State) (errs : List LineErr) (f : WagonSt → WagonSt) :
    (s.meeting errs).putWagon f = (s.putWagon f).meeting errs := rfl

theorem deepQueued_meeting (s : State) (q : DeepWait) (errs : List LineErr) :
    (s.meeting errs).deepQueued q = (s.deepQueued q).meeting errs := by
  unfold State.deepQueued
  cases q.ctx <;> simp only [putWagon_meeting, count_meeting]

@[simp] theorem warmed_trPend (s : State) (q : DeepWait) (d : Nat) : (s.warmed q d).trPend = s.trPend := by
  unfold State.warmed; split <;> rfl

@[simp] theorem warmed_lineErrs (s : State) (q : DeepWait) (d : Nat) : (s.warmed q d).lineErrs = s.lineErrs := by
  unfold State.warmed; split <;> rfl

@[simp] theorem fv_warmed (s : State) (q : DeepWait) (d : Nat) (f : Fld) : fv (s.warmed q d) f = fv s f := by
  unfold State.warmed; split <;> rfl

@[simp] theorem portUp_warmed (s : State) (q : DeepWait) (d x : Nat) : portUp (s.warmed q d) x = portUp s x := by
  simp only [portUp, fv_warmed]

@[simp] theorem deepPort_warmed (s : State) (q : DeepWait) (d off : Nat) : deepPort (s.warmed q d) off = deepPort s off := by
  simp only [deepPort, deepPorts, fv_warmed]

theorem warmed_meeting (s : State) (q : DeepWait) (d : Nat) (errs : List LineErr) :
    (s.meeting errs).warmed q d = (s.warmed q d).meeting errs := by
  unfold State.warmed; split <;> rfl

theorem notAtOnce_warmed (h : NotAtOnce s q o) : NotAtOnce (s.warmed q d) q o := by
  simpa only [NotAtOnce, portUp_warmed, deepPort_warmed] using h

theorem run_addHeat (q : DeepWait) (d : Nat) (k : Unit → Act) (s : State) :
    Act.run (when' q.leaf2 (addHeat d) k) s = Act.run (k ()) (s.warmed q d) := by
  unfold State.warmed
  rw [run_when']
  split <;> rfl

theorem gives_deepWaitsFor (q : DeepWait) (s : State) : Gives (deepWaitsFor q false) s () (s.deepQueued q) := fun k => by
  simp only [deepWaitsFor, State.deepQueued, run_bind, run_modWagon]
  cases q.ctx <;> simp only [Bool.not_false, run_when'_true, run_bump, run_pure]

theorem gives_deepNamed_of_not_at_once (later : NotAtOnce s q off) :
    Gives (deepNamed q off lost leaf1) s () (s.deepSent q off leaf1) := fun k => by
  have no : (decide (q.reply = some 0) && portUp s (deepPort s off)) = false := by
    rcases later with down | late
    · simp only [down, Bool.and_false]
    · simp only [late, decide_false, Bool.false_and]
  simp only [deepNamed, run_bind, run_getS, no, Bool.false_eq_true, if_false, deepOut, run_modDeepNext, run_modCxl]
  rfl

theorem run_deepLine_data (q : DeepWait) (bs : List Byte) (k : Unit → Act) (s : State) :
    Act.run (deepLine q.req q.ctx q.va (.data bs false) k) s = Act.run (k ()) (s.deepDelivered q bs) := rfl

/-- Where the expander answers at once, a read brings its line. -/
theorem gives_deepNamed_of_read (up : portUp s (deepPort s off) = true) (now : q.reply = some 0) (reads : q.data = none)
    (read : Gives (readDeepLine (viaDeep q.req q.ctx q.va false) off lost) s (.data bs false) u) :
    Gives (deepNamed q off lost leaf1) s () (u.deepDelivered q bs) := fun k => by
  simp only [deepNamed, run_bind, run_getS, up, now, decide_true, Bool.and_self, if_true, deepServe, reads]
  rw [read, run_deepLine_data]

/-- A Collie's access through a 1 GiB leaf goes past the directory (R402). -/
theorem gives_deepFollow_of_leaf1 (collie : q.ctx.isSome = true) (leaf : q.leaf2 = false) (later : NotAtOnce s q off) :
    Gives (deepFollow q off again) s () (s.deepSent q off true) := fun k => by
  simp only [deepFollow, run_bind, run_getS, collie, leaf, Bool.not_false, Bool.and_self, if_true]
  exact gives_deepNamed_of_not_at_once later k

/-- An access goes through the directory, and its page is neither locked for re-sourcing nor in transit (R408, R420, R584). -/
structure PageFree (s : State) (q : DeepWait) (off : Nat) : Prop where
  paged : ¬ (q.ctx.isSome = true ∧ q.leaf2 = false)
  unlocked : rsrcOf s q.addr = none
  settled : inTransit s (deepIdx off) = false

theorem gives_deepFollow_of_locked (paged : ¬ (q.ctx.isSome = true ∧ q.leaf2 = false))
    (locked : rsrcOf s q.addr ≠ none ∨ inTransit s (deepIdx off) = true) : Gives (deepFollow q off false) s () (s.deepQueued q) := fun k => by
  have through : (q.ctx.isSome && !q.leaf2) = false := by simpa using paged
  have waits : ((rsrcOf s q.addr).isSome || inTransit s (deepIdx off)) = true := by
    simpa [← Option.isSome_iff_ne_none] using locked
  simp only [deepFollow, run_bind, run_getS, through, waits, Bool.false_eq_true, if_false, if_true]
  exact gives_deepWaitsFor q s k

/-- What an access does at the home that its page has. -/
def goHome (q : DeepWait) (off : Nat) : Home → M Unit
  | .waits _ => deepWaitsFor q false
  | .named o lost => do
    when' q.leaf2 (addHeat (deepIdx off))
    deepNamed q o lost false
  | .pool st o => do
    match q.data with
    | some w =>
      let r ← writeHbm reqWagon st o w.1 w.2 false
      when' (q.leaf2 && !r.held) (addHeat (deepIdx off))
      deepWrote q.req q.va r
    | none =>
      let r ← readHbm reqWagon 2 st o 0
      when' (q.leaf2 && !r.held) (addHeat (deepIdx off))
      deepLine q.req q.ctx q.va r

/-- An access whose page is free goes home once the directory entry is read. -/
theorem gives_deepFollow_of_free (h : PageFree s q off) (entry : Gives (deepDir q (deepIdx off)) s true u)
    (home : Gives (goHome q off (homeOf u off)) u () t) : Gives (deepFollow q off false) s () t := fun k => by
  obtain ⟨paged, unlocked, settled⟩ := h
  have through : (q.ctx.isSome && !q.leaf2) = false := by simpa using paged
  simp only [deepFollow, run_bind, run_getS, through, unlocked, settled, Option.isSome_none, Bool.or_self, Bool.false_eq_true, if_false]
  rw [entry, ← home k]
  simp only [if_true, run_bind, run_getS]
  cases homeOf u off <;> rfl

theorem gives_goHome_of_not_at_once (later : NotAtOnce s q o) :
    Gives (goHome q off (.named o lost)) s () ((s.warmed q (deepIdx off)).deepSent q o false) := fun k => by
  simp only [goHome, run_bind, run_addHeat]
  exact gives_deepNamed_of_not_at_once (notAtOnce_warmed later) k

@[simp] theorem deepSent_trPend (s : State) (q : DeepWait) (off : Nat) (leaf1 : Bool) : (s.deepSent q off leaf1).trPend = s.trPend := rfl

@[simp] theorem deepSent_lineErrs (s : State) (q : DeepWait) (off : Nat) (leaf1 : Bool) : (s.deepSent q off leaf1).lineErrs = s.lineErrs := rfl

theorem gives_goHome_of_read (up : portUp s (deepPort s o) = true) (now : q.reply = some 0) (reads : q.data = none)
    (read : Gives (readDeepLine (viaDeep q.req q.ctx q.va false) o lost) (s.warmed q (deepIdx off)) (.data bs false) u) :
    Gives (goHome q off (.named o lost)) s () (u.deepDelivered q bs) := fun k => by
  simp only [goHome, run_bind, run_addHeat]
  exact gives_deepNamed_of_read (by rwa [portUp_warmed, deepPort_warmed]) now reads read k

/-- A page in the pool is read from HBM by the Wagon. -/
theorem gives_goHome_of_pool (reads : q.data = none) (read : Gives (readHbm reqWagon 2 st o 0) s (.data bs false) u) :
    Gives (goHome q off (.pool st o)) s () ((u.warmed q (deepIdx off)).deepDelivered q bs) := fun k => by
  simp only [goHome, reads, run_bind]
  rw [read]
  simp only [run_bind, LineOut.held, Bool.not_false, Bool.and_true, run_addHeat, run_deepLine_data]

/-- A DISABLED Wagon's directory is not read (R407). -/
theorem gives_deepDir_of_disabled (disabled : fv s WAGON_STATUS_STATE = 0) : Gives (deepDir q d) s true s := fun k => by
  simp only [deepDir, run_bind, run_getS]
  cases q.ctx <;> simp only [dirGate, run_bind, run_getS, disabled, decide_true, Bool.or_true, Bool.true_or, if_true, run_pure]

end

/-! ## The command (R7, R396, R398, R703) -/

/-- The operands of a DEEP_ACCESS as they wait and go on. -/
def deepAsked (req : Fin 73) (ctx : Option (Fin 16)) (addr va : Nat) (leaf2 : Bool) (data : Option (Nat × Nat))
    (reply : Option Nat) : DeepWait :=
  ⟨req, ctx.map Fin.val, addr, if ctx.isSome = true then va else addr, leaf2, data.map (fun w => (w.1 % 2 ^ 2048, w.2 % 2 ^ 2048)), reply⟩

/-- An address that is reserved, or beyond the fitted deep memory (R7, R398). -/
def Unfitted (s : State) (addr : Nat) : Prop :=
  regionOf s.part addr = .reserved ∨ ∃ off, regionOf s.part addr = .deep off ∧ deepFitted s ≤ off

section
variable {q : DeepWait} {off c : Nat} {s t u : State}

/-- Where a command only carries the line errors along, it leaves none. -/
theorem Gives.runT_withErrs_kept {m : M Unit} {errs : List LineErr} (h : Gives m (s.meeting errs) () (t.meeting errs)) (hp : t.trPend = [])
    (hl : t.lineErrs = []) : runT (withErrs errs m) s = .next t := by
  rw [h.runT_withErrs hp, meeting_meeting, meeting_nil hl]

theorem gives_deepAccess_of_elsewhere (other : ∀ off, regionOf s.part q.addr ≠ .deep off) (there : regionOf s.part q.addr ≠ .reserved) :
    Gives (deepAccess q false) s () s := fun k => by
  cases region : regionOf s.part q.addr with
  | deep off => exact absurd region (other off)
  | reserved => exact absurd region there
  | _ => simp only [deepAccess, run_bind, run_getS, region, run_pure]

theorem gives_deepAccess_of_unfitted_context (h : Unfitted s q.addr) (context : q.ctx = some c) : Gives (deepAccess q false) s ()
    ((s.faulting ⟨1, 0, c, 0xFF, 0xFFFF, none, 0, q.va, 0⟩).says (.notPerformed q.va)) := fun k => by
  simp only [deepAccess, run_bind, run_getS, context]
  obtain reserved | ⟨off, deep, beyond⟩ := h
  · simp only [reserved, run_bind, run_faultCtxAs, run_emit]
  · simp only [deep, ge_iff_le, beyond, if_true, run_bind, run_faultCtxAs, run_emit]

theorem gives_deepAccess_of_unfitted_device (h : Unfitted s q.addr) (device : q.ctx = none) (requester : 64 ≤ q.req) :
    Gives (deepAccess q false) s () (s.says (.errorStatus q.va)) := fun k => by
  have other : ¬ q.req < 64 := Nat.not_lt.mpr requester
  simp only [deepAccess, run_bind, run_getS, device]
  obtain reserved | ⟨off, deep, beyond⟩ := h
  · simp only [reserved, notPerformed, other, if_false, run_emit]
  · simp only [deep, ge_iff_le, beyond, if_true, notPerformed, other, if_false, run_emit]

theorem gives_deepAccess_of_fitted (deep : regionOf s.part q.addr = .deep off) (fitted : off < deepFitted s)
    (follow : Gives (deepFollow q off false) s () t) : Gives (deepAccess q false) s () t := fun k => by
  simp only [deepAccess, run_bind, run_getS, deep, ge_iff_le, Nat.not_le.mpr fitted, if_false]
  exact follow k

end

section
variable {req : Fin 73} {ctx : Option (Fin 16)} {addr va off : Nat} {leaf2 : Bool} {data : Option (Nat × Nat)} {reply : Option Nat}
  {errs : List LineErr} {s t u : State}

/-- An access to fitted deep memory that only carries its line errors along leaves none. -/
theorem exec_deepAccess_of_follow (deep : regionOf s.part addr = .deep off) (fitted : off < deepFitted s)
    (follow : Gives (deepFollow (deepAsked req ctx addr va leaf2 data reply) off false) (s.meeting errs) () (t.meeting errs))
    (hp : t.trPend = []) (hl : t.lineErrs = []) : exec (.deepAccess req ctx addr va leaf2 data reply errs) s = .next t :=
  (gives_deepAccess_of_fitted (q := deepAsked req ctx addr va leaf2 data reply) (s := s.meeting errs) deep fitted follow).runT_withErrs_kept hp hl

theorem ends_deepAccess_of_home (deep : regionOf s.part addr = .deep off) (fitted : off < deepFitted s)
    (free : PageFree (s.meeting errs) (deepAsked req ctx addr va leaf2 data reply) off)
    (entry : Gives (deepDir (deepAsked req ctx addr va leaf2 data reply) (deepIdx off)) (s.meeting errs) true u)
    (home : Gives (goHome (deepAsked req ctx addr va leaf2 data reply) off (homeOf u off)) u () t) :
    Ends (exec (.deepAccess req ctx addr va leaf2 data reply errs) s) (t.meeting []) :=
  Ends.of_errs (gives_deepAccess_of_fitted (q := deepAsked req ctx addr va leaf2 data reply) (s := s.meeting errs) deep fitted
    (gives_deepFollow_of_free free entry home))

/-- With the Wagon DISABLED the access goes to the named home without a directory entry (R407). -/
theorem gives_deepFollow_of_disabled {q : DeepWait} {o : Nat} {lost : Bool} (free : PageFree (s.meeting errs) q off)
    (disabled : fv s WAGON_STATUS_STATE = 0) (home : homeOf s off = .named o lost) (later : NotAtOnce s q o) :
    Gives (deepFollow q off false) (s.meeting errs) () (((s.warmed q (deepIdx off)).deepSent q o false).meeting errs) := by
  have named : homeOf (s.meeting errs) off = .named o lost := home
  have sent := gives_deepFollow_of_free free (gives_deepDir_of_disabled (s := s.meeting errs) disabled)
    (named ▸ gives_goHome_of_not_at_once (s := s.meeting errs) (q := q) later)
  rwa [warmed_meeting] at sent

end

/-! ## Late, failed and discarded accesses (R433 to R435) -/

/-- An access of a port is changed. -/
def State.putDeep (s : State) (x id : Nat) (f : DeepAcc → DeepAcc) : State :=
  s.putCxl x fun c => { c with out := c.out.map fun a => if a.id = id then f a else a }

/-- An access without an answer past DEEP_LATE ticks that is not yet counted (R433). -/
def LateNow (s : State) (a : DeepAcc) : Prop := a.late = false ∧ a.failed = false ∧ a.issued + fv s WAGON_DEEP_LATE_TICKS < s.tick

/-- A late access is counted at its port and in its context. -/
def State.deepLated (s : State) (x : Nat) (a : DeepAcc) : State :=
  let t := (s.putDeep x a.id fun b => { b with late := true }).count (CXL_LATE_COUNT x) 1
  match a.ctx with
  | some c => t.count (CTX_DEEP_LATE_N_COUNT c) 1
  | none => t

/-- An access has failed at its port, by an event of rank 4 (R434). -/
def State.deepFailing (s : State) (x id : Nat) : State :=
  ((s.ranked 4).putDeep x id fun b => { b with failed := true }).count (CXL_FAILED_COUNT x) 1

/-- A failed read answers free, poisoned bytes; a requester that polls takes them itself. -/
def State.deepFailed (s : State) (x id : Nat) (a : DeepAcc) : State :=
  if a.polled = true then s.deepFailing x id
  else ((s.deepFailing x id).putFreeCtr (· + 256)).says
    (.bytes (a.va - a.va % 256) ((List.range 256).map fun i => Config.freeByte (s.freeCtr + i)) true)

/-- The answer of an access that has failed is discarded and counted (R435). -/
def State.deepDiscarded (s : State) (x : Nat) (a : DeepAcc) : State :=
  (s.putCxl x fun c => { c with out := c.out.filter fun b => b.id != a.id }).count WAGON_LATE_DISCARD_COUNT 1

section
variable {x id : Nat} {a : DeepAcc} {s : State}

@[simp] theorem run_modDeep (x id : Nat) (f : DeepAcc → DeepAcc) (k : Unit → Act) (s : State) :
    Act.run (modDeep x id f k) s = Act.run (k ()) (s.putDeep x id f) := rfl

@[simp] theorem putDeep_freeCtr (x id : Nat) (f : DeepAcc → DeepAcc) (s : State) : (s.putDeep x id f).freeCtr = s.freeCtr := rfl

@[simp] theorem putDeep_trPend (x id : Nat) (f : DeepAcc → DeepAcc) (s : State) : (s.putDeep x id f).trPend = s.trPend := rfl

theorem lateNow_iff : (!a.late && !a.failed && decide (a.issued + fv s WAGON_DEEP_LATE_TICKS < s.tick)) = true ↔ LateNow s a := by
  simp only [LateNow, Bool.and_eq_true, Bool.not_eq_true', decide_eq_true_eq, and_assoc]

theorem gives_deepLate_of_not (early : ¬ LateNow s a) : Gives (deepLate x a) s () s := fun k => by
  simp only [deepLate, run_bind, run_getS, run_when', lateNow_iff, early, if_false]

theorem gives_deepLate_of_late (late : LateNow s a) : Gives (deepLate x a) s () (s.deepLated x a) := fun k => by
  simp only [deepLate, State.deepLated, run_bind, run_getS, run_when', lateNow_iff, late, if_true, run_modDeep, run_bump]
  cases a.ctx <;> simp only [run_bump, run_pure]

theorem gives_deepFails_of_none (answered : deepOf s x id = none) : Gives (deepFails x id) s () s := fun k => by
  simp only [deepFails, run_bind, run_getS, answered, run_pure]

theorem gives_deepFails_of_early (waits : deepOf s x id = some a) (early : deepFailDue s a = false) : Gives (deepFails x id) s () s := fun k => by
  simp only [deepFails, run_bind, run_getS, waits, early, Bool.false_eq_true, if_false, run_pure]

@[simp] theorem ranked_freeCtr (s : State) (k : Nat) : (s.ranked k).freeCtr = s.freeCtr := by
  unfold State.ranked; split <;> simp; split <;> simp

/-- Bytes whose requester is no context are delivered, poisoned or not. -/
theorem run_deepGives_of_device (req va : Nat) (bs : List Byte) (poison : Bool) (k : Unit → Act) (s : State) :
    Act.run (deepGives req none va bs poison k) s = Act.run (k ()) (s.says (.bytes (va - va % 256) bs poison)) := by
  simp only [deepGives, Option.isSome_none, Bool.and_false, Bool.false_eq_true, if_false, run_emit]

@[simp] theorem deepFailed_trPend (s : State) (x id : Nat) (a : DeepAcc) : (s.deepFailed x id a).trPend = s.trPend := by
  unfold State.deepFailed State.deepFailing
  split <;> simp

theorem gives_deepFails_of_read (waits : deepOf s x id = some a) (due : deepFailDue s a = true) (reads : a.write = none)
    (device : a.ctx = none) : Gives (deepFails x id) s () (s.deepFailed x id a) := fun k => by
  simp only [deepFails, State.deepFailed, State.deepFailing, run_bind, run_getS, waits, due, if_true, run_noteRank, run_modDeep, run_bump,
    device, reads]
  cases a.polled <;> simp [freeBytes, run_deepGives_of_device]

theorem gives_deepAnswers_of_failed (failed : a.failed = true) : Gives (deepAnswers x a) s () (s.deepDiscarded x a) := fun k => by
  simp only [deepAnswers, run_bind, run_getS, failed, if_true, dropDeep, run_modCxl, run_bump]
  rfl

end

section
variable {port : Fin 8} {id : Nat} {a : DeepAcc} {s : State}

theorem exec_deepAccessLate_of_none (answered : deepOf s port id = none) : exec (.deepAccessLate port id) s = .next s := by
  rw [exec_deepAccessLate, execDeepAccessLate, runM_eq]
  simp only [run_bind, run_getS, answered, run_pure, run_done]

theorem exec_deepAccessLate_of_some {t : State} (waits : deepOf s port id = some a) (late : Gives (deepLate port a) s () t) :
    exec (.deepAccessLate port id) s = .next t := by
  rw [exec_deepAccessLate, execDeepAccessLate, runM_eq]
  simp only [run_bind, run_getS, waits]
  exact congrArg _ (late _)

theorem exec_lateAnswerDiscard_of_none (answered : deepOf s port id = none) (hp : s.trPend = []) :
    exec (.lateAnswerDiscard port id) s = .next s :=
  Gives.runT_eq (fun k => by simp only [run_bind, run_getS, answered, run_pure]) hp

theorem exec_lateAnswerDiscard_of_waiting (waits : deepOf s port id = some a) (waiting : a.failed = false) (hp : s.trPend = []) :
    exec (.lateAnswerDiscard port id) s = .next s :=
  Gives.runT_eq (fun k => by simp only [run_bind, run_getS, waits, waiting, run_when'_false]) hp

theorem exec_lateAnswerDiscard_of_failed (waits : deepOf s port id = some a) (failed : a.failed = true) (hp : s.trPend = []) :
    exec (.lateAnswerDiscard port id) s = .next (s.deepDiscarded port a) :=
  Gives.runT_eq (fun k => by
    simp only [run_bind, run_getS, waits, failed, run_when'_true]
    exact gives_deepAnswers_of_failed failed k) hp

end

/-- Settles O42: the command by its address, its page and its home; an outstanding access by its age. -/
theorem deepAccessesFollowTheirPage : Obligations.DeepAccessesFollowTheirPage := by
  refine ⟨fun req addr va reply errs s hp hl => ⟨fun ctx leaf2 data other there => ?elsewhere, fun unfitted => ⟨fun c leaf2 data => ?context,
    fun device leaf2 data => ?device⟩, fun off ctx leaf2 data deep fitted => ?fitted⟩,
    fun port id s hp => ⟨fun answered => ?answered, fun a waits => ?waits⟩⟩
  case elsewhere =>
    exact Gives.runT_withErrs_unchanged (gives_deepAccess_of_elsewhere (s := s.meeting errs)
      (q := deepAsked req ctx addr va leaf2 data reply) other there) hp hl
  case context =>
    exact (gives_deepAccess_of_unfitted_context (s := s.meeting errs) (q := deepAsked req (some c) addr va leaf2 data reply) unfitted
      rfl).runT_withErrs_kept hp hl
  case device =>
    exact (gives_deepAccess_of_unfitted_device (s := s.meeting errs) (q := deepAsked req none addr va leaf2 data reply) unfitted rfl
      device).runT_withErrs_kept hp hl
  case fitted =>
    intro q run hot warm acc out
    have context : q.ctx.isSome = ctx.isSome := Option.isSome_map
    have asks (reads : data = none) : q.data = none := congrArg (Option.map _) reads
    rw [← context]
    refine ⟨fun collie leaf later => ?leaf1, fun paged => ⟨fun locked => ?locked, fun unlocked settled => ?free⟩⟩
    case leaf1 =>
      exact exec_deepAccess_of_follow (t := s.deepSent q off true) deep fitted
        (gives_deepFollow_of_leaf1 (s := s.meeting errs) collie leaf later) hp hl
    case locked =>
      exact exec_deepAccess_of_follow (t := s.deepQueued q) deep fitted
        (deepQueued_meeting s q errs ▸ gives_deepFollow_of_locked (s := s.meeting errs) paged locked) (by simpa using hp) (by simpa using hl)
    case free =>
      have free : PageFree (s.meeting errs) q off := ⟨paged, unlocked, settled⟩
      refine ⟨fun o l disabled home later => ?disabled, fun u entry => ⟨fun o l home later => ?sent, fun o l home up now reads => ?read,
        fun st o home reads => ?pool⟩⟩
      case disabled =>
        exact exec_deepAccess_of_follow (t := (s.warmed q (deepIdx off)).deepSent q o false) deep fitted
          (gives_deepFollow_of_disabled free disabled home later) (by simpa using hp) (by simpa using hl)
      case sent => exact ends_deepAccess_of_home deep fitted free entry (home ▸ gives_goHome_of_not_at_once later)
      case read =>
        obtain ⟨r, v, _, read⟩ := (keep_readDeepLine (viaDeep req q.ctx q.va false) o l).gives (warm u)
        exact ⟨r, v, read, fun bs good => ends_deepAccess_of_home deep fitted free entry
          (home ▸ gives_goHome_of_read up now (asks reads) (good ▸ read))⟩
      case pool =>
        obtain ⟨r, v, _, read⟩ := (keep_readHbm reqWagon 2 st o 0).gives u
        exact ⟨r, v, read, fun bs good => ends_deepAccess_of_home deep fitted free entry
          (home ▸ gives_goHome_of_pool (asks reads) (good ▸ read))⟩
  case answered =>
    exact ⟨exec_deepAccessLate_of_none answered, (gives_deepFails_of_none answered).runT_eq hp, exec_lateAnswerDiscard_of_none answered hp⟩
  case waits =>
    exact ⟨fun early => exec_deepAccessLate_of_some waits (gives_deepLate_of_not early),
      fun late => exec_deepAccessLate_of_some waits (gives_deepLate_of_late late),
      fun early => (gives_deepFails_of_early waits early).runT_eq hp,
      fun due reads device => (gives_deepFails_of_read waits due reads device).runT_eq (by simpa using hp),
      fun waiting => exec_lateAnswerDiscard_of_waiting waits waiting hp,
      fun failed => exec_lateAnswerDiscard_of_failed waits failed hp⟩

end Sys2Proof.Machine
end

section
/-!
How a step takes its command, the front of the queue.
-/
namespace Sys2Proof.Machine

/-- Settles O1. -/
theorem stepRunsTheFrontCommand : Obligations.StepRunsTheFrontCommand := by
  intro c rest s h
  simp only [step, h]

/-- Settles O2. -/
theorem anEmptyQueueIdles : Obligations.AnEmptyQueueIdles := by
  intro s h
  simp only [step, h]
end Sys2Proof.Machine
end

section
/-!
Recompute requests, the scrubber and the retirement of pages (11_data_integrity.md, R449 to R453, R463 to R473).
-/

namespace Sys2Proof.Machine

/-! ## Recompute requests (R451 to R453) -/

section
variable {c q : Nat} {s t : State}

theorem gives_recompExpires_of_early (early : recompLate s c q = false) : Gives (recompExpires c q) s () s := fun k => by
  simp only [recompExpires, run_bind, run_getS, early, Bool.false_eq_true, if_false, run_pure]

/-- The state in which the requests of a context but that of number `q` are open. -/
def RecompClosed (s t : State) (c q : Nat) : Prop := (theCtx t c).recomp = (theCtx s c).recomp.filter (fun r => r.num != q)

/-- Neither what an expiry discards nor the tiles that it has read again are a context's requests. -/
theorem exists_gives_recompExpires (late : recompLate s c q = true) : ∃ t, Gives (recompExpires c q) s () t ∧ RecompClosed s t c q := by
  obtain ⟨x, u, same_u, discards⟩ := (keep_supersede fun e => e.kind = .recompAck c q).gives
    ((s.ranked 4).count (CTX_RECOMP_TIMEOUTS_COUNT c) 1)
  obtain ⟨_, v, same_v, reread⟩ := (keep_rereadRecomp c q).gives u
  refine ⟨v.putCtx c fun y => { y with recomp := y.recomp.filter (fun r => r.num != q) }, fun k => ?_, ?_⟩
  · simp only [recompExpires, closeRecomp, run_bind, run_getS, late, if_true, run_noteRank, run_bump, discards _, reread _, run_modCtx]
  · have ctxs : v.ctxs = s.ctxs :=
      calc v.ctxs = u.ctxs := same_v.at .ctxs (by decide)
        _ = ((s.ranked 4).count (CTX_RECOMP_TIMEOUTS_COUNT c) 1).ctxs := same_u.at .ctxs (by decide)
        _ = s.ctxs := ranked_ctxs ..
    simp only [RecompClosed, theCtx_putCtx_same, theCtx_congr ctxs]

end

/-! ## The scrubber (R463 to R465) -/

section
variable {st : Nat} {s u : State}

/-- A scrubbed group moves the position on; the last one ends a pass and begins the next (R465). -/
def State.scrubMoved (s : State) (st g : Nat) : State :=
  if g + 1 = scrubGroups then (s.putReg (HBM_SCRUB_POS st) 0).count (HBM_SCRUB_PASSES_COUNT st) 1 else s.putReg (HBM_SCRUB_POS st) (g + 1)

theorem gives_scrubGroup_of_not_due (waits : scrubDue s st = false) : Gives (scrubGroup st) s () s := fun k => by
  simp only [scrubGroup, run_bind, run_getS, waits, Bool.false_eq_true, if_false, run_pure]

theorem gives_scrubGroup_of_due (due : scrubDue s st = true)
    (lines : Gives (each (List.range 64) fun i => scrubLine st (st * stackBytes + (64 * fv s (HBM_SCRUB_POS_GROUP st) + i) * 256))
      (s.putStack st fun k => { k with lastScrub := s.tick }) () u) :
    Gives (scrubGroup st) s () (u.scrubMoved st (fv s (HBM_SCRUB_POS_GROUP st))) := fun k => by
  simp only [scrubGroup, run_bind, run_getS, due, if_true, run_modStack, lines _, run_ite, run_setReg, run_bump, State.scrubMoved]
  split <;> rfl

end

/-! ## Retirement (R467 to R473) -/

section
variable {who : Who} {st page slot : Nat} {s t u v : State}

/-- RETIRE holds the page and the slot that were written. -/
def State.retireAsked (s : State) (st page slot : Nat) : State := s.putReg (HBM_RETIRE st) (page % 65536 + slot % 512 * 2 ^ 16)

/-- A retirement that cannot be taken (R468): no usable page, a slot that is taken, a full table, or one under way. -/
def RetireRefused (s : State) (st page slot : Nat) : Prop :=
  64256 ≤ page % 65536 ∨ slotFree (s.retireAsked st page slot) st (slot % 512) = false
    ∨ 512 ≤ (remaps (s.retireAsked st page slot) st).length ∨ (theStack s st).retire ≠ none

theorem gives_retireWrite_of_other (other : ¬ (who = .controlDie ∧ st < s.part.nStacks)) : Gives (retireWrite who st page slot) s () s :=
  fun k => by
    simp only [retireWrite, run_bind, run_getS, Bool.and_eq_true, decide_eq_true_eq, other, if_false, run_pure]

/-- What RETIRE is judged by in the model's own words. -/
theorem retireRefused_iff : (decide (64256 ≤ page % 65536) || !slotFree (s.retireAsked st page slot) st (slot % 512)
    || decide (512 ≤ (remaps (s.retireAsked st page slot) st).length) || (theStack (s.retireAsked st page slot) st).retire.isSome) = true
    ↔ RetireRefused s st page slot := by
  have stack : theStack (s.retireAsked st page slot) st = theStack s st := rfl
  simp only [RetireRefused, stack, Bool.or_eq_true, decide_eq_true_eq, Bool.not_eq_true', Option.isSome_iff_ne_none, or_assoc]

theorem gives_retireWrite_of_refused (populated : st < s.part.nStacks) (refused : RetireRefused s st page slot) :
    Gives (retireWrite .controlDie st page slot) s () ((s.retireAsked st page slot).put (HBM_RETIRE_STATUS_RESULT st) 3) := fun k => by
  rw [← retireRefused_iff, State.retireAsked] at refused
  simp only [retireWrite, run_bind, run_getS, populated, decide_true, Bool.and_self, if_true, run_setReg, refused, run_setFld,
    State.retireAsked]

theorem gives_retireWrite_of_taken (populated : st < s.part.nStacks) (taken : ¬ RetireRefused s st page slot) :
    Gives (retireWrite .controlDie st page slot) s ()
      (((s.retireAsked st page slot).put (HBM_RETIRE_STATUS_RESULT st) 1).putStack st fun k => { k with
        retire := some ⟨page % 65536, slot % 512, frameMoves (s.retireAsked st page slot) st (page % 65536)⟩ }) := fun k => by
  rw [← retireRefused_iff, State.retireAsked, Bool.not_eq_true] at taken
  simp only [retireWrite, run_bind, run_getS, populated, decide_true, Bool.and_self, if_true, run_setReg, taken, Bool.false_eq_true,
    if_false, run_setFld, run_modStack, State.retireAsked]

/-- The first remap entry that is free. -/
def freeRemap (s : State) (st : Nat) : Option Nat := (List.range 512).find? fun e => !fb s (HBM_REMAP_VALID st e)

/-- A remap entry, if there is one, names a page and its spare slot (R470). -/
def State.remapFilled (s : State) (st : Nat) (entry : Option Nat) (page slot : Nat) : State :=
  match entry with
  | some e => s.putReg (HBM_REMAP st e) (page + slot * 2 ^ 16 + 2 ^ 31)
  | none => s

/-- The lock of a retirement is released, with its result and the spares left (R472). -/
def State.retireShown (s : State) (st : Nat) : State :=
  let t := (s.putStack st fun k => { k with retire := none }).put (HBM_RETIRE_STATUS_RESULT st) 2
  t.put (HBM_RETIRE_STATUS_SPARES_LEFT st) (sparesLeft t st)

theorem theStack_retireShown : (theStack (s.retireShown st) st).retire = none := by simp [State.retireShown]

theorem gives_retireDone_of_waits (waits : ∀ r, (theStack s st).retire = some r → r.waits = true ∨ fv s (HBM_STATUS_STATE st) ≠ 2) :
    Gives (retireDone st) s () s := fun k => by
  simp only [retireDone, run_bind, run_getS]
  cases retire : (theStack s st).retire with
  | none => rfl
  | some r =>
    have no : ¬ (r.waits = false ∧ fv s (HBM_STATUS_STATE st) = 2) := fun ⟨free, served⟩ =>
      (waits r retire).elim (fun h => nomatch h.symm.trans free) (· served)
    simp only [Bool.and_eq_true, Bool.not_eq_true', decide_eq_true_eq, no, if_false, run_pure]

theorem gives_retireDone_of_free {r : RetireOp} (retire : (theStack s st).retire = some r) (free : r.waits = false)
    (served : fv s (HBM_STATUS_STATE st) = 2) (move : Gives (movePage st r.slot (storageOff s st (r.page * page2M))) s () u)
    (add : Gives (historyAdd 5 st (r.page + r.slot * 2 ^ 16)) ((u.remapFilled st (freeRemap s st) r.page r.slot).retireShown st) () v) :
    Gives (retireDone st) s () (if r.slot = 0x1FF then v.recapped else v) := fun k => by
  simp only [retireDone, run_bind, run_getS, retire, free, served, Bool.not_false, decide_true, Bool.and_self, if_true, move _]
  cases entry : freeRemap s st
  all_goals
    rw [entry] at add
    rw [freeRemap] at entry
    simp only [entry, run_bind, run_setReg, run_modStack, run_setFld, run_getS]
    refine (add _).trans ?_
    simp only [run_when', decide_eq_true_eq, run_capUpdate]
    split <;> rfl

/-- An entry of the repair history is live, names what was repaired, and stands behind the others (R613, R614). -/
theorem gives_historyAdd_live (kind unit data : Nat) (s : State) : ∃ t, SameBut 0x100000 s t ∧ Gives (historyAdd kind unit data) s () t
    ∧ ∃ e, t.history.getLast? = some e ∧ e.kind = kind ∧ e.unit = unit ∧ e.data = data ∧ e.live = true :=
  ⟨_, Prim.same (.modHistory _) _ (show Nat.testBit _ 20 = true by decide) s, fun _ => rfl, _, List.getLast?_concat .., rfl, rfl, rfl, rfl⟩

/-- A retirement whose page may move is done, with its entry in the history. -/
theorem exists_gives_retireDone {r : RetireOp} (retire : (theStack s st).retire = some r) (free : r.waits = false)
    (served : fv s (HBM_STATUS_STATE st) = 2) : ∃ t, Gives (retireDone st) s () t ∧ (theStack t st).retire = none
      ∧ ∃ e, t.history.getLast? = some e ∧ e.kind = 5 ∧ e.unit = st ∧ e.data = r.page + r.slot * 2 ^ 16 ∧ e.live = true := by
  obtain ⟨u, move⟩ := (keep_movePage st r.slot (storageOff s st (r.page * page2M))).gives_unit s
  obtain ⟨v, same, add, noted⟩ := gives_historyAdd_live 5 st (r.page + r.slot * 2 ^ 16) ((u.remapFilled st (freeRemap s st) r.page r.slot).retireShown st)
  have gone : (theStack v st).retire = none := by rw [theStack_congr (same.at .hbm (by decide)), theStack_retireShown]
  refine ⟨_, gives_retireDone_of_free retire free served move add, ?_⟩
  split
  · exact ⟨by rwa [theStack_congr (recapped_hbm v)], by rwa [recapped_history]⟩
  · exact ⟨gone, noted⟩

end

/-- Settles O43: each command by whether its request is late, its group due, or its page free to be taken or moved. -/
theorem recomputeScrubAndRetirement : Obligations.RecomputeScrubAndRetirement := by
  intro ctx q stack who page slot errs s hl
  refine ⟨rfl, fun early => (gives_recompExpires_of_early early).runM_eq, fun late => ?expires, fun waits => ?unscrubbed, fun due => ?scrubs,
    fun other => (gives_retireWrite_of_other other).runM_eq, fun populated => ⟨fun refused => ?refused, fun taken => ?taken⟩,
    fun waits => ?waits, fun r retire free served => ?retires⟩
  case expires =>
    obtain ⟨t, expires, closed⟩ := exists_gives_recompExpires late
    exact ⟨t, expires.runM_eq, closed⟩
  case unscrubbed => exact (gives_scrubGroup_of_not_due (s := s.meeting errs) waits).runM_withErrs.trans (congrArg _ (meeting_nil hl))
  case scrubs =>
    obtain ⟨u, lines⟩ := (Keep.each (l := List.range 64) fun i => keep_scrubLine stack
      (stack * stackBytes + (64 * fv s (HBM_SCRUB_POS_GROUP stack) + i) * 256)).gives_unit
        ((s.meeting errs).putStack stack fun k => { k with lastScrub := s.tick })
    exact ⟨u, lines, (gives_scrubGroup_of_due (s := s.meeting errs) due lines).runM_withErrs⟩
  case refused => exact (gives_retireWrite_of_refused populated refused).runM_eq
  case taken => exact (gives_retireWrite_of_taken populated taken).runM_eq
  case waits => exact (gives_retireDone_of_waits (s := s.meeting errs) waits).runM_withErrs.trans (congrArg _ (meeting_nil hl))
  case retires =>
    obtain ⟨t, done, gone, noted⟩ := exists_gives_retireDone (s := s.meeting errs) retire free served
    exact ⟨_, done.runM_withErrs, gone, noted⟩

end Sys2Proof.Machine
end

section
/-!
The optical ports (12_fabric.md, R496 to R505): how training ends, how wavelengths are watched, and how a lane moves to its spare.
-/

namespace Sys2Proof.Machine

/-! ## Fields beside each other in a register -/

theorem withBits_mod (n lo w v : Nat) : withBits n lo w v % 2 ^ lo = n % 2 ^ lo := by
  have low : 2 ^ lo * bits n lo w ≤ n :=
    (Nat.mul_le_mul_left _ (Nat.mod_le ..)).trans (Nat.mul_div_le n _)
  rw [withBits, Nat.add_mul_mod_self_right, Nat.mul_comm, Nat.sub_mul_mod low]

/-- A register that keeps a field holds in it what is written there. -/
theorem fv_putReg_of_kept {s : State} {f : Fld} {v : Nat} (h : f.kept = true) : fv (s.putReg f.addr v) f = bits v f.lo f.w := by
  unfold Fld.kept at h
  simp only [Bool.and_eq_true, decide_eq_true_eq] at h
  obtain ⟨fits, mask⟩ := h
  cases reg : regAny f.addr with
  | none => simp [reg] at mask
  | some d =>
    simp only [reg, decide_eq_true_eq] at mask
    rw [fv, rg_putReg_same, regKeep, reg, BitVec.toNat_ofNat, bits_mod _ _ _ _ fits, bits_land _ _ _ _ mask]

/-- A field below another one of its register is unchanged when that one is put. -/
theorem fv_put_of_below {s : State} {f g : Fld} {v : Nat} (h : f.kept = true) (same : g.addr = f.addr) (below : f.lo + f.w ≤ g.lo) :
    fv (s.put g v) f = fv s f := by
  rw [State.put, same, fv_putReg_of_kept h, ← bits_mod _ _ _ _ below, withBits_mod, bits_mod _ _ _ _ below, fv]

/-! ## The end of training (R496 to R498) -/

section
variable {port : Nat} {s t u : State}

/-- A lane map is written. -/
def State.lanesPut (s : State) (r0 r1 : Nat) (l : List Nat) : State :=
  (s.putReg r0 (laneWord (l.take 16))).putReg r1 (laneWord ((l.take 16).drop 8))

@[simp] theorem run_setLanes (r0 r1 : Nat) (l : List Nat) (k : Unit → Act) (s : State) :
    Act.run (setLanes r0 r1 l k) s = Act.run (k ()) (s.lanesPut r0 r1 l) := Eq.trans rfl rfl

theorem fv_lanesPut {r0 r1 : Nat} {l : List Nat} {f : Fld} (h0 : f.addr ≠ r0) (h1 : f.addr ≠ r1) : fv (s.lanesPut r0 r1 l) f = fv s f := by
  rw [State.lanesPut, fv_putReg_ne _ _ _ _ h1, fv_putReg_ne _ _ _ _ h0]

/-- What a port out of service holds (R497, R498). -/
def PortSt.outOfService (x : PortSt) : PortSt :=
  { x with retry := [], queue := [], rxHold := false, rxSwap := none, txSwap := none, degraded := [], replayAt := none, replayN := 0 }

/-- The registers of a port out of service: no lane, no spare and no wavelength is lit. -/
def State.portDark (s : State) (p : Nat) : State :=
  let t := ((((s.put (PORT_STATUS_STATE p) 5).put (PORT_STATUS_TX_LANES p) 0).put (PORT_STATUS_RX_LANES p) 0).put
    (PORT_STATUS_TX_SPARES p) 0).put (PORT_STATUS_RX_SPARES p) 0
  let t := (t.lanesPut (PORT_LMAP_TX0 p) (PORT_LMAP_TX1 p) []).lanesPut (PORT_LMAP_RX0 p) (PORT_LMAP_RX1 p) []
  (t.putReg (PORT_WL_TX p) (2 ^ 36 - 1)).putReg (PORT_WL_RX p) (2 ^ 36 - 1)

/-- A port goes out of service; the packets that waited for it are counted (R523). -/
def State.portLeft (s : State) (p : Nat) : State :=
  let n := (thePort s p).queue.length
  ((if n = 0 then s else s.count (PORT_UNROUTABLE_COUNT p) n).portDark p).putPort p fun x => x.outOfService

theorem gives_portOut (port : Nat) (s : State) : Gives (portOut port) s () (s.portLeft port) := fun k => by
  simp only [portOut, run_bind, run_getS, run_bumpBy, run_setFld, run_setLanes, run_setReg, run_modPort, State.portLeft,
    State.portDark, PortSt.outOfService]

/-- Of the fields of PORT_STATUS the state of the port is the lowest. -/
theorem fv_portDark (h : (PORT_STATUS_STATE port).kept = true) : fv (s.portDark port) (PORT_STATUS_STATE port) = 5 := by
  have above (g : Fld) (v : Nat) (same : g.addr = (PORT_STATUS_STATE port).addr) (lo : 3 ≤ g.lo) (t : State) :
      fv (t.put g v) (PORT_STATUS_STATE port) = fv t (PORT_STATUS_STATE port) := fv_put_of_below h same lo
  have apart : ∀ a ∈ [PORT_WL_RX port, PORT_WL_TX port, PORT_LMAP_RX0 port, PORT_LMAP_RX1 port, PORT_LMAP_TX0 port, PORT_LMAP_TX1 port],
      (PORT_STATUS_STATE port).addr ≠ a := by
    simp [PORT_STATUS_STATE, PORT_STATUS, PORT_WL_RX, PORT_WL_TX, PORT_LMAP_RX0, PORT_LMAP_RX1, PORT_LMAP_TX0, PORT_LMAP_TX1]
  simp only [List.forall_mem_cons] at apart
  obtain ⟨wlRx, wlTx, rx0, rx1, tx0, tx1, _⟩ := apart
  rw [State.portDark, fv_putReg_ne _ _ _ _ wlRx, fv_putReg_ne _ _ _ _ wlTx, fv_lanesPut rx0 rx1, fv_lanesPut tx0 tx1,
    above (PORT_STATUS_RX_SPARES port) 0 rfl (by decide : 3 ≤ 20), above (PORT_STATUS_TX_SPARES port) 0 rfl (by decide : 3 ≤ 18),
    above (PORT_STATUS_RX_LANES port) 0 rfl (by decide : 3 ≤ 13), above (PORT_STATUS_TX_LANES port) 0 rfl (by decide : 3 ≤ 8), fv_put _ _ _ h]
  rfl

end

section
variable {port : Fin 32} {tx rx peer : Nat} {s t u : State}

/-- A port whose training can end (R495): it trains or retrains, and no trip has stopped the device. -/
def PortTrains (s : State) (port : Fin 32) : Prop :=
  port.val < s.part.ports ∧ (fv s (PORT_STATUS_STATE port) = 1 ∨ fv s (PORT_STATUS_STATE port) = 4)
    ∧ 6 ≤ fv s CHAIN_START_PHASE ∧ tripped s = false

theorem exec_portTraining_of_not (idle : ¬ PortTrains s port) : exec (.portTraining port tx rx peer) s = .next s := by
  refine Gives.runM_eq fun k => ?_
  simp only [PortTrains, ← and_assoc] at idle
  simp only [run_bind, run_getS, Bool.and_eq_true, Bool.or_eq_true, decide_eq_true_eq, Bool.not_eq_true', idle, if_false, run_pure]

theorem exec_portTraining_of_trains (trains : PortTrains s port) (train : Gives (trainPort port tx rx peer) s () t)
    (start : Gives startTry t () u) : exec (.portTraining port tx rx peer) s = .next u := by
  refine Gives.runM_eq fun k => ?_
  simp only [PortTrains, ← and_assoc] at trains
  simp only [run_bind, run_getS, Bool.and_eq_true, Bool.or_eq_true, decide_eq_true_eq, Bool.not_eq_true', trains, and_self, if_true,
    train _, start _]

/-- A port that is disabled, or has fewer than 8 wavelengths in a direction, leaves service (R497). -/
theorem gives_trainPort_of_out {port : Nat}
    (out : fb s (PORT_CTRL_ENABLE port) = false ∨ (passing tx).length < 8 ∨ (passing rx).length < 8) :
    Gives (trainPort port tx rx peer) s () (s.portLeft port).recapped := fun k => by
  have leaves : (!fb s (PORT_CTRL_ENABLE port) || decide (min 16 (passing tx).length < 8) || decide (min 16 (passing rx).length < 8)) = true := by
    simpa [or_assoc] using out
  simp only [trainPort, run_bind, run_getS, leaves, if_true, gives_portOut port s _, run_capUpdate]

end

/-! ## Watching the wavelengths (R499, R500) -/

section
variable {port : Fin 32} {w : Fin 18} {corr : Nat} {s u : State}

/-- A wavelength that carries a lane or stands ready as a spare, at a port that carries packets. -/
def Watched (s : State) (port : Fin 32) (w : Fin 18) : Prop := portCarries s port = true ∧ waveOf s (PORT_WL_RX port) w ≤ 1

/-- The symbols that were corrected on a wavelength in a monitoring window are shown and counted. -/
def State.corrected (s : State) (port : Fin 32) (w : Fin 18) (corr : Nat) : State :=
  let t := s.put (PORT_WL_CORR_COUNT port w) (min (2 ^ 32 - 1) corr)
  if corr = 0 then t else t.count (PORT_FEC_CORR_COUNT port) corr

theorem exec_wavelengthDegrade_of_unwatched {b : Bool} (off : ¬ Watched s port w) : exec (.wavelengthDegrade port w corr b) s = .next s := by
  refine Gives.runM_eq fun k => ?_
  simp only [Watched] at off
  simp only [run_bind, run_getS, Bool.and_eq_true, decide_eq_true_eq, off, if_false, run_pure]

theorem exec_wavelengthDegrade_of_uncorrectable (on : Watched s port w)
    (bad : Gives (degrade port w) (s.count (PORT_FEC_UNCORR_COUNT port) 1) () u) : exec (.wavelengthDegrade port w corr true) s = .next u := by
  refine Gives.runM_eq fun k => ?_
  simp only [Watched] at on
  simp only [run_bind, run_getS, Bool.and_eq_true, decide_eq_true_eq, on, and_self, if_true, run_bump, bad _]

theorem exec_wavelengthDegrade_of_open (on : Watched s port w) (early : s.tick < monClose s port) :
    exec (.wavelengthDegrade port w corr false) s = .next s := by
  refine Gives.runM_eq fun k => ?_
  simp only [Watched] at on
  simp only [run_bind, run_getS, Bool.and_eq_true, decide_eq_true_eq, on, and_self, if_true, Bool.false_eq_true, if_false,
    Nat.not_le.mpr early, run_pure]

/-- A window closes with its count; one past the limit degrades the wavelength. -/
theorem exec_wavelengthDegrade_of_closed (on : Watched s port w) (closes : monClose s port ≤ s.tick)
    (judged : Gives (when' (decide (corr > fv s (PORT_FEC_LIMIT_SYMBOLS port))) (degrade port w)) (s.corrected port w corr) () u) :
    exec (.wavelengthDegrade port w corr false) s = .next u := by
  refine Gives.runM_eq fun k => ?_
  simp only [Watched] at on
  simp only [run_bind, run_getS, Bool.and_eq_true, decide_eq_true_eq, on, and_self, if_true, Bool.false_eq_true, if_false, closes,
    run_setFld, run_bumpBy]
  exact judged k

end

/-! ## Swaps (R501 to R505) -/

section
variable {port : Fin 32} {s u : State}

theorem exec_swapReq_eq (port : Fin 32) (lane : Fin 16) (spare : Option (Fin 18)) (s : State) : exec (.swapReq port lane spare) s
    = .next (if portCarries s port = true
      then (s.putPort port (fun x => { x with txSwap := some ⟨lane, spare.map Fin.val⟩ })).says (.swapAck port) else s) := by
  refine Gives.runM_eq fun k => ?_
  simp only [run_bind, run_getS, run_ite, run_modPort, run_emit, run_pure]
  split <;> rfl

/-- The receiver's part of a swap goes on to a phase. -/
def State.swapAt (s : State) (port : Nat) (q : RxSwap) (phase : Nat) : State :=
  s.putPort port fun x => { x with rxSwap := some { q with phase := phase, since := s.tick } }

theorem exec_swapAck_of_none (none : (thePort s port).rxSwap = none) : exec (.swapAck port) s = .next s := by
  refine Gives.runM_eq fun k => ?_
  simp only [run_bind, run_getS, none, run_pure]

theorem exec_swapAck_of_some {q : RxSwap} (swap : (thePort s port).rxSwap = some q) : exec (.swapAck port) s
    = .next (if q.phase = 0 then (if q.spare = none then (s.swapAt port q 2).says (.swapGo port) else s.swapAt port q 1) else s) := by
  refine Gives.runM_eq fun k => ?_
  simp only [run_bind, run_getS, swap, run_ite, run_modPort, run_emit, run_pure, apply_ite (Act.run (k ()))]
  rfl

/-- The state of a port follows its lanes (Table 12.2), and the capability record with it (R487). -/
def State.lanesNoted (s : State) (port : Nat) : State :=
  (s.put (PORT_STATUS_STATE port) (laneState (fv s (PORT_STATUS_TX_LANES port)) (fv s (PORT_STATUS_RX_LANES port)))).recapped

@[simp] theorem run_noteLanes (port : Nat) (k : Unit → Act) (s : State) : Act.run (noteLanes port k) s = Act.run (k ()) (s.lanesNoted port) := by
  simp only [noteLanes, run_bind, run_getS, run_setFld, run_capUpdate, State.lanesNoted]

/-- A swap, or the drop of a lane without a spare, is counted and flagged. -/
def State.swapCounted (s : State) (port : Nat) (spare : Option Nat) : State :=
  if spare = none then (s.count (PORT_DROPS_COUNT port) 1).put (PORT_STATUS_DROPPED port) 1
  else (s.count (PORT_SWAPS_COUNT port) 1).put (PORT_STATUS_SWAPPED port) 1

theorem exec_switchMarker_of_none (none : (thePort s port).rxSwap = none) : exec (.switchMarker port) s = .next s := by
  refine Gives.runM_eq fun k => ?_
  simp only [run_bind, run_getS, none, run_pure]

theorem exec_switchMarker_of_waits {q : RxSwap} (swap : (thePort s port).rxSwap = some q)
    (waits : q.phase ≠ 2 ∨ portCarries s port = false) : exec (.switchMarker port) s = .next s := by
  refine Gives.runM_eq fun k => ?_
  have no : ¬ (q.phase = 2 ∧ portCarries s port = true) := by rwa [← Bool.not_eq_true, ne_eq, ← not_and_or] at waits
  simp only [run_bind, run_getS, swap, Bool.and_eq_true, decide_eq_true_eq, no, if_false, run_pure]

theorem exec_switchMarker_of_goes {q : RxSwap} (swap : (thePort s port).rxSwap = some q) (goes : q.phase = 2)
    (carries : portCarries s port = true)
    (apply : Gives (applySwap (PORT_LMAP_RX0 port) (PORT_LMAP_RX1 port) (PORT_WL_RX port) (PORT_STATUS_RX_LANES port)
      (PORT_STATUS_RX_SPARES port) q.lane q.spare) (s.putPort port fun x => { x with rxSwap := none, swapTick := s.tick }) () u) :
    exec (.switchMarker port) s = .next ((u.swapCounted port q.spare).lanesNoted port) := by
  refine Gives.runM_eq fun k => ?_
  simp only [run_bind, run_getS, swap, goes, carries, decide_true, Bool.and_self, if_true, run_modPort, apply _, run_ite, run_bump, run_flag,
    run_noteLanes, State.swapCounted]
  split <;> rfl

theorem exec_swapGo_of_waits (waits : (thePort s port).txSwap = none ∨ portCarries s port = false) : exec (.swapGo port) s = .next s := by
  refine Gives.runM_eq fun k => ?_
  obtain none | down := waits
  · simp only [run_bind, run_getS, none, run_pure]
  · cases swap : (thePort s port).txSwap <;>
      simp only [run_bind, run_getS, swap, down, Bool.false_eq_true, if_false, run_pure]

theorem exec_swapGo_of_goes {q : TxSwap} (swap : (thePort s port).txSwap = some q) (carries : portCarries s port = true)
    (apply : Gives (applySwap (PORT_LMAP_TX0 port) (PORT_LMAP_TX1 port) (PORT_WL_TX port) (PORT_STATUS_TX_LANES port)
      (PORT_STATUS_TX_SPARES port) q.lane q.spare) ((s.says (.marker port)).putPort port fun x => { x with txSwap := none }) () u) :
    exec (.swapGo port) s = .next (u.lanesNoted port) := by
  refine Gives.runM_eq fun k => ?_
  simp only [run_bind, run_getS, swap, carries, if_true, run_emit, run_modPort, apply _, run_noteLanes]

end

/-- Settles O44: training by the wavelengths that pass, a window by its count, and a swap by its phase. -/
theorem portsTrainAndLanesMoveToTheirSpares : Obligations.PortsTrainAndLanesMoveToTheirSpares := by
  refine ⟨fun port tx rx peer w corr s => ⟨exec_portTraining_of_not, fun able out => ?out, fun able _ _ _ => ?trains,
    fun off _ => exec_wavelengthDegrade_of_unwatched off, fun carries lit => ?watched⟩,
    fun port lane spare s => ⟨exec_swapReq_eq port lane spare s, fun none => ⟨exec_swapAck_of_none none, exec_switchMarker_of_none none⟩,
      fun q swap => ⟨exec_swapAck_of_some swap, exec_switchMarker_of_waits swap, fun goes carries => ?marker⟩,
      exec_swapGo_of_waits, fun q swap carries => ?go⟩⟩
  case out =>
    obtain ⟨u, start⟩ := keep_startTry.gives_unit (s.portLeft port).recapped
    have kept : ∀ p : Fin 32, (PORT_STATUS_STATE p).kept = true := by decide
    refine ⟨s.portLeft port, gives_portOut port s, ?_, ?_, ?_, u, start, exec_portTraining_of_trains able (gives_trainPort_of_out out) start⟩
    · simp [State.portLeft, PortSt.outOfService]
    · simp [State.portLeft, PortSt.outOfService]
    · rw [State.portLeft, fv_putPort, fv_portDark (kept port)]
  case trains =>
    obtain ⟨t, train⟩ := (keep_trainPort port tx rx peer).gives_unit s
    obtain ⟨u, start⟩ := keep_startTry.gives_unit t
    exact ⟨t, train, u, start, exec_portTraining_of_trains able train start⟩
  case watched =>
    have on : Watched s port w := ⟨carries, lit⟩
    refine ⟨exec_wavelengthDegrade_of_open on, fun closes within => ?_, fun closes past => ?_, ?_⟩
    · refine exec_wavelengthDegrade_of_closed on closes fun k => ?_
      rw [decide_eq_false (Nat.not_lt.mpr within), run_when'_false]
      rfl
    · obtain ⟨u, degrades⟩ := (keep_degrade port w).gives_unit (s.corrected port w corr)
      refine ⟨u, degrades, exec_wavelengthDegrade_of_closed on closes fun k => ?_⟩
      rw [decide_eq_true past, run_when'_true, degrades k]
    · obtain ⟨u, degrades⟩ := (keep_degrade port w).gives_unit (s.count (PORT_FEC_UNCORR_COUNT port) 1)
      exact ⟨u, degrades, exec_wavelengthDegrade_of_uncorrectable on degrades⟩
  case marker =>
    obtain ⟨u, apply⟩ := (keep_applySwap ..).gives_unit _
    exact ⟨u, apply, exec_switchMarker_of_goes swap goes carries apply⟩
  case go =>
    obtain ⟨u, apply⟩ := (keep_applySwap ..).gives_unit _
    exact ⟨u, apply, exec_swapGo_of_goes swap carries apply⟩

end Sys2Proof.Machine
end

section
/-!
Packets on a link (12_fabric.md, R509 to R514, R520, R521, R529): what a port accepts, sends again, and gives up.
-/

namespace Sys2Proof.Machine

/-! ## Acceptance (R509, R512, R513, R520) -/

section
variable {port lseq : Nat} {crcOk here : Bool} {p : Packet} {s t u v : State}

/-- The next packet of a link has come: it is acknowledged. -/
def State.accepted (s : State) (port lseq : Nat) : State :=
  (s.putPort port fun y => { y with rxNext := (y.rxNext + 1) % 65536, rxHold := false }).says (.linkAck port lseq)

/-- Any other packet is dropped, and the next one is requested once, until it comes. -/
def State.dropped (s : State) (port : Nat) (crcOk : Bool) (lseq : Nat) : State :=
  let x := thePort s port
  let t := if crcOk = true then s else s.count (PORT_CRC_ERRORS_COUNT port) 1
  let t := if x.rxHold = false ∨ lseq = x.rxNext then t.says (.replayRequest port x.rxNext) else t
  t.putPort port fun y => { y with rxHold := true }

/-- The bytes of an accepted packet's payload are counted. -/
def State.received (s : State) (port : Nat) (p : Packet) : State :=
  if p.payload.length = 0 then s else s.count (PORT_RX_BYTES_COUNT port) p.payload.length

@[simp] theorem dropped_trPend (s : State) (port : Nat) (crcOk : Bool) (lseq : Nat) : (s.dropped port crcOk lseq).trPend = s.trPend := by
  simp only [State.dropped, putPort_trPend]
  split <;> split <;> rfl

@[simp] theorem dropped_lineErrs (s : State) (port : Nat) (crcOk : Bool) (lseq : Nat) :
    (s.dropped port crcOk lseq).lineErrs = s.lineErrs := by
  simp only [State.dropped, putPort_lineErrs]
  split <;> split <;> rfl

theorem dropped_meeting (s : State) (errs : List LineErr) (port : Nat) (crcOk : Bool) (lseq : Nat) :
    (s.meeting errs).dropped port crcOk lseq = (s.dropped port crcOk lseq).meeting errs := by
  have same : thePort (s.meeting errs) port = thePort s port := rfl
  simp only [State.dropped, same]
  split <;> split <;> rfl

theorem received_meeting (s : State) (errs : List LineErr) (port : Nat) (p : Packet) :
    (s.meeting errs).received port p = (s.received port p).meeting errs := by
  unfold State.received
  split <;> rfl

theorem gives_acceptPacket_of_next (carries : portCarries s port = true) (next : lseq = (thePort s port).rxNext) :
    Gives (acceptPacket port true lseq) s true (s.accepted port lseq) := fun k => by
  simp only [acceptPacket, run_bind, run_getS, carries, Bool.not_true, Bool.false_eq_true, if_false, run_when'_false, Bool.true_and,
    decide_eq_true_eq, next, if_true, run_modPort, run_emit, run_pure, State.accepted]

theorem gives_acceptPacket_of_other (carries : portCarries s port = true) (other : ¬ (crcOk = true ∧ lseq = (thePort s port).rxNext)) :
    Gives (acceptPacket port crcOk lseq) s false (s.dropped port crcOk lseq) := fun k => by
  have no : (crcOk && decide (lseq = (thePort s port).rxNext)) = false := by
    rwa [← Bool.not_eq_true, Bool.and_eq_true, decide_eq_true_eq]
  simp only [acceptPacket, run_bind, run_getS, carries, no, Bool.not_true, Bool.false_eq_true, if_false, State.dropped]
  cases crcOk <;>
    simp only [run_bind, Bool.not_true, Bool.not_false, run_when', Bool.or_eq_true, Bool.not_eq_true',
      decide_eq_true_eq, Bool.false_eq_true, if_true, if_false, run_bump, run_emit, run_modPort, run_pure] <;>
    split <;> rfl

theorem gives_arrives_of_deaf (deaf : portCarries s port = false ∨ nodeOf s = 0) : Gives (arrives port crcOk lseq p) s () s := fun k => by
  simp only [arrives, run_bind, run_getS]
  by_cases unnamed : nodeOf s = 0
  · simp only [unnamed, if_true, run_pure]
  · have down : portCarries s port = false := deaf.resolve_right unnamed
    simp only [unnamed, if_false, acceptPacket, run_bind, run_getS, down, Bool.not_false, if_true, run_pure, Bool.false_eq_true]

theorem gives_arrives_of_other (carries : portCarries s port = true) (named : nodeOf s ≠ 0)
    (other : ¬ (crcOk = true ∧ lseq = (thePort s port).rxNext)) : Gives (arrives port crcOk lseq p) s () (s.dropped port crcOk lseq) :=
  fun k => by
    simp only [arrives, run_bind, run_getS, named, if_false, gives_acceptPacket_of_other carries other _, Bool.false_eq_true, run_pure]

/-- An accepted packet is routed on, or delivered here (R521, R529). -/
theorem gives_arrives_of_next (carries : portCarries s port = true) (named : nodeOf s ≠ 0) (next : lseq = (thePort s port).rxNext)
    (route : Gives (routePacket port p) ((s.accepted port lseq).received port p) here u) (deliver : Gives (when' here (deliver port p)) u () v) :
    Gives (arrives port true lseq p) s () v := fun k => by
  have counted (k : Unit → Act) : Act.run (bumpBy (PORT_RX_BYTES_COUNT port) p.payload.length k) (s.accepted port lseq)
      = Act.run (k ()) ((s.accepted port lseq).received port p) := run_bumpBy ..
  rw [arrives]
  simp only [run_bind, run_getS, named, if_false, gives_acceptPacket_of_next carries next _, if_true, counted, route _]
  exact deliver k

end

section
variable {port : Fin 32} {lseq : Nat} {crcOk : Bool} {p : Packet} {errs : List LineErr} {c : Instr} {kind : Nat} {s : State}

/-- The commands of the kinds of packets (Table 12.7). -/
theorem exec_packet (h : (c, kind) ∈ [(Instr.dataPacket port crcOk lseq p errs, 0), (.rts port crcOk lseq p errs, 1),
      (.grant port crcOk lseq p errs, 2), (.ack port crcOk lseq p errs, 3), (.refuse port crcOk lseq p errs, 4),
      (.xdata port crcOk lseq p errs, 5), (.mgmt port crcOk lseq p errs, 6)]) :
    exec c s = runT (withErrs errs (arrives port crcOk lseq { p with kind := kind })) s := by
  simp only [List.mem_cons, List.not_mem_nil, or_false, Prod.mk.injEq] at h
  obtain ⟨rfl, rfl⟩ | ⟨rfl, rfl⟩ | ⟨rfl, rfl⟩ | ⟨rfl, rfl⟩ | ⟨rfl, rfl⟩ | ⟨rfl, rfl⟩ | ⟨rfl, rfl⟩ := h <;> rfl

end

/-! ## Replays and acknowledgements (R512 to R514) -/

section
variable {port : Fin 32} {lseq : Nat} {s t : State}

/-- Packets are sent again. -/
def State.resent (s : State) (port : Nat) (es : List (Nat × Packet)) : State := es.foldl (fun t e => t.says (.packet port e.1 e.2)) s

theorem run_resend (port : Nat) (es : List (Nat × Packet)) (k : Unit → Act) (s : State) :
    Act.run (each es (fun e => emit (.packet port e.1 e.2)) k) s = Act.run (k ()) (s.resent port es) :=
  run_each_of (fun t (e : Nat × Packet) => t.says (.packet port e.1 e.2)) _ (fun _ _ _ => rfl) es k s

/-- A replay from an LSEQ is counted, and how often in a row it was asked for. -/
def State.replaying (s : State) (port lseq : Nat) : State :=
  (s.count (PORT_REPLAYS_COUNT port) 1).putPort port fun x => { x with
    replayAt := some lseq, replayN := if x.replayAt = some lseq then x.replayN + 1 else 1 }

theorem exec_replayRequest_of_down (down : portCarries s port = false) : exec (.replayRequest port lseq) s = .next s := by
  refine Gives.runM_eq fun k => ?_
  simp only [run_bind, run_getS, down, Bool.false_eq_true, if_false, run_pure]

theorem exec_replayRequest_of_up (up : portCarries s port = true) : exec (.replayRequest port lseq) s
    = .next ((s.replaying port (lseq % 65536)).resent port
      ((thePort s port).retry.filter (fun e => seqDist (lseq % 65536) e.1 < 32768))) := by
  refine Gives.runM_eq fun k => ?_
  simp only [run_bind, run_getS, up, if_true, run_bump, run_modPort, resendFrom, run_resend, thePort_putPort_same, thePort_count]
  rfl

theorem exec_linkAck_of_down (down : portCarries s port = false) : exec (.linkAck port lseq) s = .next s := by
  refine Gives.runM_eq fun k => ?_
  simp only [run_bind, run_getS, down, Bool.false_eq_true, if_false, run_pure]

theorem exec_linkAck_of_up (up : portCarries s port = true)
    (pump : Gives (pumpPort port) (s.putPort port fun x => { dropAcked (lseq % 65536) x with
      ackTick := s.tick, replayAt := none, replayN := 0 }) () t) : exec (.linkAck port lseq) s = .next t := by
  refine Gives.runM_eq fun k => ?_
  simp only [run_bind, run_getS, up, if_true, run_modPort, pump _]

/-- A port that has lost its link retrains under a port reset of the next tick edge (R514). -/
def State.portFallen (s : State) (port : Nat) : State :=
  ((((s.put (PORT_STATUS_STATE port) 4).put (PORT_STATUS_LINK_DOWN port) 1).count (PORT_LINK_DOWNS_COUNT port) 1).latching
    ⟨2, 4, none, port, .reset 4 port⟩).recapped

@[simp] theorem run_portDown (port : Nat) (k : Unit → Act) (s : State) : Act.run (portDown port k) s = Act.run (k ()) (s.portFallen port) := by
  simp only [portDown, requestReset, run_bind, run_setFld, run_flag, run_bump, run_getS, run_latch, run_capUpdate]
  rfl

theorem exec_linkDown_of_down (down : portCarries s port = false) : exec (.linkDown port) s = .next s := by
  refine Gives.runM_eq fun k => ?_
  simp only [run_bind, run_getS, linkLate, down, Bool.false_and, Bool.or_self, run_when'_false]

theorem exec_linkDown_of_up (up : portCarries s port = true) : exec (.linkDown port) s = .next
    (if max 1 (fv s (PORT_RETRY_LIMIT_COUNT port)) ≤ (thePort s port).replayN ∨ ((thePort s port).retry ≠ []
        ∧ (thePort s port).ackTick + fv s (PORT_LINK_TIMEOUT_TICKS port) < s.tick) then s.portFallen port else s) := by
  refine Gives.runM_eq fun k => ?_
  simp only [run_bind, run_getS, linkLate, up, Bool.true_and, run_when', Bool.or_eq_true, Bool.and_eq_true, bne_iff_ne, decide_eq_true_eq,
    run_portDown, or_comm]
  split <;> rfl

end

/-- Settles O45: an arriving packet by whether it is the next one of a port that carries, and a port's own part by its retry
buffer. -/
theorem packetsAreRetriedAcceptedAndRouted : Obligations.PacketsAreRetriedAcceptedAndRouted := by
  refine ⟨fun port crcOk lseq p errs c kind s hp hl h => ?arrives, fun port lseq s => ⟨fun down => ?down, fun up => ?up⟩⟩
  case arrives =>
    rw [exec_packet h]
    refine ⟨fun deaf => ?deaf, fun carries named other => ?other, fun carries named good next => ?next⟩
    case deaf => exact (gives_arrives_of_deaf (s := s.meeting errs) deaf).runT_withErrs_unchanged hp hl
    case other =>
      exact (dropped_meeting s errs port crcOk lseq ▸ gives_arrives_of_other (s := s.meeting errs) carries named other).runT_withErrs_kept
        (by simpa using hp) (by simpa using hl)
    case next =>
      subst good
      obtain ⟨here, u, _, route⟩ := (keep_routePacket port { p with kind := kind }).gives
        (((s.accepted port lseq).received port p).meeting errs)
      have route' := route
      rw [← received_meeting] at route'
      have ends {v : State} (deliver : Gives (when' here (deliver port { p with kind := kind })) u () v) :=
        Ends.of_errs (gives_arrives_of_next (s := s.meeting errs) carries named next route' deliver)
      refine ⟨here, u, route, fun on => ?_, fun taken => ?_⟩
      · subst on
        exact ends fun _ => rfl
      · subst taken
        obtain ⟨v, deliver⟩ := (keep_deliver port { p with kind := kind }).gives_unit u
        exact ⟨v, deliver, ends deliver⟩
  case down => exact ⟨exec_replayRequest_of_down down, exec_linkAck_of_down down, exec_linkDown_of_down down⟩
  case up =>
    obtain ⟨t, pump⟩ := (keep_pumpPort port).gives_unit (s.putPort port fun x => { dropAcked (lseq % 65536) x with
      ackTick := s.tick, replayAt := none, replayN := 0 })
    exact ⟨exec_replayRequest_of_up up, ⟨t, pump, exec_linkAck_of_up up pump⟩, exec_linkDown_of_up up⟩

end Sys2Proof.Machine
end

section
/-!
Keys and weight generations (13_weights_keys_attestation.md, R563 to R566, R573, R578, R580): how a context's key is installed and
erased, and how its generation slots change.
-/

namespace Sys2Proof.Machine

/-! ## Keys (R563 to R566) -/

section
variable {who : Who} {c code key : Nat} {r : Run} {s u : State}

/-- KEY_CMD names the context that its command is for. -/
def State.keyAsked (s : State) (c : Nat) : State := s.put SEC_KEY_CMD_CTX c

/-- A context that may be given a key: EMPTY, or SAVED (R563). -/
def Keyless (s : State) (c : Nat) : Prop := ctxState s c = 0 ∨ ctxState s c = 4

theorem keyless_iff : (ctxState s c != 0 && ctxState s c != 4) = false ↔ Keyless s c := by
  rw [← Bool.not_eq_true, Bool.and_eq_true, bne_iff_ne, bne_iff_ne, Keyless, not_and_or, not_ne_iff, not_ne_iff]

theorem gives_keyInstall_of_collie (other : who ≠ .controlDie) : Gives (keyInstall who c) s () s := fun k => by
  simp only [keyInstall, other, if_false, run_pure]

theorem gives_keyInstall_of_held (held : ¬ Keyless (s.keyAsked c) c) :
    Gives (keyInstall .controlDie c) s () ((s.keyAsked c).put SEC_KEY_STATUS_RESULT 8) := fun k => by
  rw [← keyless_iff, Bool.not_eq_false, State.keyAsked] at held
  simp only [keyInstall, if_true, run_bind, run_setFld, run_getS, held, State.keyAsked]

theorem gives_keyInstall_of_no_identity (free : Keyless (s.keyAsked c) c) (unknown : fv (s.keyAsked c) SEC_STATUS_IDENTITY ≠ 1) :
    Gives (keyInstall .controlDie c) s () ((s.keyAsked c).put SEC_KEY_STATUS_RESULT 7) := fun k => by
  rw [← keyless_iff, State.keyAsked] at free
  rw [← bne_iff_ne, State.keyAsked] at unknown
  simp only [keyInstall, if_true, run_bind, run_setFld, run_getS, free, Bool.false_eq_true, if_false, unknown, State.keyAsked]

/-- The blob of a key has been read for a context that may be given one. -/
structure BlobRead (s : State) (c : Nat) (r : Run) (u : State) : Prop where
  free : Keyless (s.keyAsked c) c
  known : fv (s.keyAsked c) SEC_STATUS_IDENTITY = 1
  read : Gives (readPhys viaDie (rg (s.keyAsked c) SEC_KEY_SRC) 1792) (s.keyAsked c) r u

/-- The code that refuses a blob by its form, its device or its last tick (R566). -/
def blobRefusal (s : State) (c : Nat) (r : Run) : Option Nat := blobCode (s.keyAsked c) r.bs (r.poison || r.stop.isSome)

/-- What KEY_INSTALL does with a blob. -/
def judgeBlob (s : State) (c : Nat) (r : Run) : M Unit :=
  match blobRefusal s c r with
  | some code => setFld SEC_KEY_STATUS_RESULT code
  | none =>
    match openBlob r.bs with
    | some k => do
      modCtx c (fun x => { x with key := some (k, fieldAt r.bs 0x18 8) })
      setFld SEC_KEY_STATUS_RESULT 2
    | none => setFld SEC_KEY_STATUS_RESULT 4

theorem gives_keyInstall_of_read {v : State} (h : BlobRead s c r u) (judge : Gives (judgeBlob s c r) u () v) :
    Gives (keyInstall .controlDie c) s () v := fun k => by
  obtain ⟨free, known, read⟩ := h
  rw [← keyless_iff, State.keyAsked] at free
  rw [State.keyAsked] at known read
  have same : (fv (s.put SEC_KEY_CMD_CTX c) SEC_STATUS_IDENTITY != 1) = false := by rw [known]; rfl
  simp only [keyInstall, if_true, run_bind, run_setFld, run_getS, free, Bool.false_eq_true, if_false, same, read _]
  exact judge k

theorem gives_judgeBlob_of_refused (refused : blobRefusal s c r = some code) :
    Gives (judgeBlob s c r) u () (u.put SEC_KEY_STATUS_RESULT code) := fun k => by
  simp only [judgeBlob, refused, run_setFld]

theorem gives_judgeBlob_of_closed (good : blobRefusal s c r = none) (closed : openBlob r.bs = none) :
    Gives (judgeBlob s c r) u () (u.put SEC_KEY_STATUS_RESULT 4) := fun k => by
  simp only [judgeBlob, good, closed, run_setFld]

theorem gives_judgeBlob_of_opened (good : blobRefusal s c r = none) (opened : openBlob r.bs = some key) : Gives (judgeBlob s c r) u ()
    ((u.putCtx c fun x => { x with key := some (key, fieldAt r.bs 0x18 8) }).put SEC_KEY_STATUS_RESULT 2) := fun k => by
  simp only [judgeBlob, good, opened, run_bind, run_modCtx, run_setFld]

theorem gives_keyErase_of_collie (other : who ≠ .controlDie) : Gives (keyErase who c) s () s := fun k => by
  simp only [keyErase, other, if_false, run_pure]

theorem gives_keyErase (c : Nat) (s : State) : Gives (keyErase .controlDie c) s () ((s.keyAsked c).putCtx c fun x => { x with key := none }) :=
  fun k => by simp only [keyErase, if_true, run_bind, run_setFld, eraseKey, run_modCtx, State.keyAsked]

end

/-! ## Generation slots (R573, R578) -/

section
variable {who : Who} {ctx : Fin 16} {k : Fin 4} {s : State}

theorem gives_gslotWrite_of_collie {c n op : Nat} (other : who ≠ .controlDie) : Gives (gslotWrite who c n op) s () s := fun k => by
  simp only [gslotWrite, other, if_false, run_pure]

/-- A slot takes a state where its command may act. -/
def State.gslotTo (s : State) (c k : Nat) (may : Bool) (st : Nat) : State := if may = true then s.put (CTX_GSLOTk_STATE c k) st else s

theorem run_gslotTo (c k st : Nat) (may : Bool) (q : Unit → Act) (s : State) :
    Act.run (when' may (setFld (CTX_GSLOTk_STATE c k) st) q) s = Act.run (q ()) (s.gslotTo c k may st) := by
  cases may <;> rfl

theorem exec_gslotLoad_eq (ctx : Fin 16) (k : Fin 4) (s : State) :
    exec (.gslotLoad .controlDie ctx k) s = .next (s.gslotTo ctx k (decide (fv s (CTX_GSLOTk_STATE ctx k) = 0)) 1) := by
  refine Gives.runM_eq fun q => ?_
  simp only [gslotWrite, if_true, run_bind, run_getS, run_gslotTo]

theorem exec_gslotReady_eq (ctx : Fin 16) (k : Fin 4) (s : State) :
    exec (.gslotReady .controlDie ctx k) s = .next (s.gslotTo ctx k (decide (fv s (CTX_GSLOTk_STATE ctx k) = 1)) 2) := by
  refine Gives.runM_eq fun q => ?_
  simp only [gslotWrite, one_ne_zero, if_true, if_false, run_bind, run_getS, run_gslotTo]

theorem exec_gslotAbandon_eq (ctx : Fin 16) (k : Fin 4) (s : State) : exec (.gslotAbandon .controlDie ctx k) s
    = .next (s.gslotTo ctx k ((fv s (CTX_GSLOTk_STATE ctx k) = 1 || fv s (CTX_GSLOTk_STATE ctx k) = 2) && holders s ctx k = 0) 0) := by
  refine Gives.runM_eq fun q => ?_
  simp only [gslotWrite, OfNat.ofNat_ne_zero, OfNat.ofNat_ne_one, if_true, if_false, run_bind, run_getS, run_gslotTo]

theorem exec_rosterGenWrite_of_collie {data : Nat} (other : who ≠ .controlDie) : exec (.rosterGenWrite who ctx data) s = .next s := by
  refine Gives.runM_eq fun q => ?_
  simp only [other, decide_false, run_when'_false]

end

/-- Settles O47: the control die's commands by the state of the context or of the slot, and a Collie's by its asking. -/
theorem keysAndGenerationSlotsFollowTheirCommands : Obligations.KeysAndGenerationSlotsFollowTheirCommands := by
  intro who ctx k data errs s hl
  refine ⟨fun other => ⟨?install, (gives_keyErase_of_collie other).runM_eq, (gives_gslotWrite_of_collie other).runM_eq,
      (gives_gslotWrite_of_collie other).runM_eq, (gives_gslotWrite_of_collie other).runM_eq, exec_rosterGenWrite_of_collie other⟩,
    ⟨fun used live => ?held, fun free unknown => ?noIdentity, fun free known => ?read, (gives_keyErase ctx s).runM_eq⟩,
    ⟨exec_gslotLoad_eq ctx k s, exec_gslotReady_eq ctx k s, exec_gslotAbandon_eq ctx k s⟩, rfl⟩
  case install =>
    exact (gives_keyInstall_of_collie (s := s.meeting errs) other).runM_withErrs.trans (congrArg _ (meeting_nil hl))
  case held => exact (gives_keyInstall_of_held (s := s.meeting errs) (not_or.mpr ⟨used, live⟩)).runM_withErrs
  case noIdentity => exact (gives_keyInstall_of_no_identity (s := s.meeting errs) free unknown).runM_withErrs
  case read =>
    obtain ⟨r, u, _, read⟩ := (keep_readPhys viaDie (rg (s.keyAsked ctx) SEC_KEY_SRC) 1792).gives ((s.keyAsked ctx).meeting errs)
    have blob : BlobRead (s.meeting errs) ctx r u := ⟨free, known, read⟩
    exact ⟨r, u, read, fun code refused => (gives_keyInstall_of_read blob (gives_judgeBlob_of_refused refused)).runM_withErrs,
      fun good closed => (gives_keyInstall_of_read blob (gives_judgeBlob_of_closed good closed)).runM_withErrs,
      fun key good opened => (gives_keyInstall_of_read blob (gives_judgeBlob_of_opened good opened)).runM_withErrs⟩

/-! ## Generation switches (R579, R580) -/

section
variable {c : Nat} {s : State}

/-- A switch is taken: it is no longer armed. -/
def State.switchTaken (s : State) (c : Nat) : State := (s.ranked 5).put (CTX_GEN_STATUS_ARMED c) 0

/-- The CURRENT slot, if any, becomes RETIRING. -/
def State.currentRetired (s : State) (c : Nat) : State :=
  if fb s (CTX_GEN_STATUS_HAS_CURRENT c) = true then s.put (CTX_GSLOTk_STATE c (fv s (CTX_GEN_STATUS_CURRENT c))) 4 else s

theorem run_currentRetired (c : Nat) (k : Unit → Act) (s : State) : Act.run (when' (fb s (CTX_GEN_STATUS_HAS_CURRENT c))
    (setFld (CTX_GSLOTk_STATE c (fv s (CTX_GEN_STATUS_CURRENT c))) 4) k) s = Act.run (k ()) (s.currentRetired c) := by
  rw [run_when', State.currentRetired]
  split <;> rfl

/-- A slot becomes CURRENT in place of the one that was. -/
def State.slotCurrent (s : State) (c k : Nat) : State :=
  (((s.currentRetired c).put (CTX_GSLOTk_STATE c k) 3).put (CTX_GEN_STATUS_CURRENT c) k).put (CTX_GEN_STATUS_HAS_CURRENT c) 1

/-- The state of the slot that a switch names. -/
def namedSlotState (s : State) (c : Nat) : Nat := fv s (CTX_GSLOTk_STATE c (fv s (CTX_GEN_SWITCH_SLOT c)))

theorem gives_genSwitchNow_of_ready (ready : namedSlotState (s.switchTaken c) c = 2) :
    Gives (genSwitchNow c) s () ((s.switchTaken c).slotCurrent c (fv (s.switchTaken c) (CTX_GEN_SWITCH_SLOT c))) := fun k => by
  simp only [namedSlotState, State.switchTaken] at ready
  simp only [genSwitchNow, run_bind, run_noteRank, run_setFld, run_getS, ready, if_true, run_currentRetired, State.slotCurrent,
    State.switchTaken]

theorem gives_genSwitchNow_of_current (current : namedSlotState (s.switchTaken c) c = 3) :
    Gives (genSwitchNow c) s () (s.switchTaken c) := fun k => by
  simp only [namedSlotState, State.switchTaken] at current
  simp only [genSwitchNow, run_bind, run_noteRank, run_setFld, run_getS, current, show ¬ (3 = 2) by decide, if_false,
    bne_self_eq_false, run_when'_false, State.switchTaken]

theorem gives_genSwitchNow_of_other (unready : namedSlotState (s.switchTaken c) c ≠ 2) (other : namedSlotState (s.switchTaken c) c ≠ 3) :
    Gives (genSwitchNow c) s () ((s.switchTaken c).put (CTX_GEN_STATUS_SWITCH_REJECT c) 1) := fun k => by
  simp only [namedSlotState, State.switchTaken] at unready other
  simp only [genSwitchNow, run_bind, run_noteRank, run_setFld, run_getS, unready, if_false, bne_iff_ne.mpr other, run_when'_true, run_flag,
    State.switchTaken]

end

section
variable {ctx : Fin 16} {s t : State}

/-- A switch is armed, and its tick has come (R579). -/
def SwitchDue (s : State) (c : Nat) : Prop := fb s (CTX_GEN_STATUS_ARMED c) = true ∧ rg s (CTX_GEN_AT c) ≤ s.tick

theorem genDue_iff (c : Nat) : genDue s c = true ↔ SwitchDue s c := by
  rw [genDue, Bool.and_eq_true, decide_eq_true_eq, SwitchDue]

theorem exec_genSwitch_of_not_due (early : ¬ SwitchDue s ctx) : exec (.genSwitch ctx) s = .next s := by
  refine Gives.runM_eq fun k => ?_
  rw [← genDue_iff, Bool.not_eq_true] at early
  simp only [run_bind, run_getS, early, run_when'_false]

theorem exec_genSwitch_of_due (due : SwitchDue s ctx) (acts : Gives (genSwitchNow ctx) s () t) : exec (.genSwitch ctx) s = .next t := by
  refine Gives.runM_eq fun k => ?_
  simp only [run_bind, run_getS, (genDue_iff _).mpr due, run_when'_true, acts _]

end

/-- Settles O48: a switch that is due by the state of the slot that it names. -/
theorem generationSwitchesFollowTheNamedSlot : Obligations.GenerationSwitchesFollowTheNamedSlot := by
  intro ctx s
  exact ⟨exec_genSwitch_of_not_due, fun due ready => exec_genSwitch_of_due due (gives_genSwitchNow_of_ready ready),
    fun due current => exec_genSwitch_of_due due (gives_genSwitchNow_of_current current),
    fun due unready other => exec_genSwitch_of_due due (gives_genSwitchNow_of_other unready other)⟩

end Sys2Proof.Machine
end

section
/-!
Verification, re-sourcing and attestation (13_weights_keys_attestation.md, R567 to R570, R583 to R588, R594).
-/

namespace Sys2Proof.Machine

/-! ## Verification (R567 to R570) -/

section
variable {who : Who} {ctx entry : Fin 16} {errs : List LineErr} {v : Verif} {d : VerDone} {bad : List Nat} {s u : State}

/-- A verification is queued behind the others, or 16 wait already (R567). -/
def State.verifyQueued (s : State) (c e : Nat) : State :=
  if 16 ≤ s.sec.queue.length then s.put SEC_STATUS_VERIFY_OVF 1
  else ((s.putReg SEC_VERIFY_CMD (c + 16 * e)).putSec fun x => { x with
    queue := x.queue ++ [⟨c, e, fv s SEC_VERIFY_FIRST_LINE, fv s SEC_VERIFY_COUNT_LINES⟩] }).put
      SEC_VERIFY_STATUS_QUEUED (s.sec.queue.length + 1)

theorem exec_verifyQueue_of_collie (other : who ≠ .controlDie) : exec (.verifyQueue who ctx entry) s = .next s := by
  refine Gives.runM_eq fun k => ?_
  simp only [verifyQueue, other, if_false, run_pure]

theorem exec_verifyQueue_eq (ctx entry : Fin 16) (s : State) :
    exec (.verifyQueue .controlDie ctx entry) s = .next (s.verifyQueued ctx entry) := by
  refine Gives.runM_eq fun k => ?_
  simp only [verifyQueue, if_true, run_bind, run_getS, run_ite, decide_eq_true_eq, run_flag, run_setReg, run_modSec, run_setFld,
    State.verifyQueued]
  split <;> rfl

theorem gives_verifyComplete_of_idle (idle : s.sec.queue = []) : Gives verifyComplete s () s := fun k => by
  simp only [verifyComplete, run_bind, run_getS, idle, run_pure]

/-- The oldest verification has its result, behind the others, and its lines are counted (R570). -/
def State.verifyPlaced (s : State) (v : Verif) (rest : List Verif) (bad : List Nat) : State :=
  let t := (s.putSec fun x => { x with
    queue := rest, done := x.done ++ [⟨v.ctx, v.entry, !bad.isEmpty, bad.headD 0, min 255 bad.length⟩] }).put
      SEC_VERIFY_STATUS_QUEUED rest.length
  let t := if v.count = 0 then t else t.count SEC_VERIFY_LINES_COUNT v.count
  if bad = [] then t else (t.count SEC_VERIFY_FAILS_COUNT 1).put SEC_STATUS_VERIFY_FAIL 1

theorem gives_verifyComplete_of_waits {rest : List Verif} (oldest : s.sec.queue = v :: rest)
    (lines : Gives (verifyLines v.ctx v.entry v.count v.first) s none u) : Gives verifyComplete s () u := fun k => by
  simp only [verifyComplete, run_bind, run_getS, oldest, lines _, run_pure]

theorem gives_verifyComplete_of_judged {rest : List Verif} (oldest : s.sec.queue = v :: rest)
    (lines : Gives (verifyLines v.ctx v.entry v.count v.first) s (some bad) u) :
    Gives verifyComplete s () (u.verifyPlaced v rest bad) := fun k => by
  simp only [verifyComplete, run_bind, run_getS, oldest, lines _, run_modSec, run_setFld, run_bumpBy, State.verifyPlaced]
  cases bad <;> rfl

theorem exec_verifyDoneRead_of_none (none : s.sec.done = []) : exec .verifyDoneRead s = .next (s.says (.regValue SEC_VERIFY_DONE 0)) := by
  refine Gives.runM_eq fun k => ?_
  simp only [verifyDoneRead, run_bind, run_getS, none, run_pure, run_emit]

theorem exec_verifyDoneRead_of_some {rest : List VerDone} (oldest : s.sec.done = d :: rest) :
    exec .verifyDoneRead s = .next ((s.putSec fun x => { x with done := rest }).says (.regValue SEC_VERIFY_DONE
      (d.ctx + 16 * d.entry + 256 + 512 * b2n d.fail + d.firstBad % 2 ^ 40 * 2 ^ 16 + d.bad * 2 ^ 56))) := by
  refine Gives.runM_eq fun k => ?_
  simp only [verifyDoneRead, run_bind, run_getS, oldest, run_modSec, run_pure, run_emit]

end

/-! ## Re-sourcing (R583 to R588) -/

section
variable {page : Nat} {r : Rsrc} {s t u : State}

theorem exec_rsrcReqRead_eq (s : State) : exec .rsrcReqRead s = .next (s.says (.regValue WAGON_RSRC_REQ (rsrcReqValue s))) := rfl

theorem exec_rsrcDone_eq (page : Nat) (s : State) : exec (.rsrcDone page) s
    = .next ((s.putReg WAGON_RSRC_DONE (page % 2 ^ 48 - page % page2M)).latching ⟨6, 2, none, 0, .rsrcDone (page % 2 ^ 48 - page % page2M)⟩) := by
  refine Gives.runM_eq fun k => ?_
  simp only [rsrcDoneWrite, run_bind, run_setReg, run_latch]

theorem gives_rsrcExpires_of_early (early : rsrcLate s page = none) : Gives (rsrcExpires page) s () s := fun k => by
  simp only [rsrcExpires, run_bind, run_getS, early, run_pure]

/-- No request of a page within its limit is late. -/
theorem rsrcLate_eq_none (within : ∀ r ∈ s.wagon.rsrc, r.page = page → s.tick ≤ r.opened + fv s WAGON_RSRC_LIMIT_TICKS) :
    rsrcLate s page = none := by
  refine List.find?_eq_none.mpr fun r open_ late => ?_
  simp only [Bool.and_eq_true, decide_eq_true_eq] at late
  obtain ⟨same, late⟩ := late
  exact Nat.not_lt.mpr (within r open_ same) late

/-- An expiry is counted and recorded, with the completion of the same tick that it discards (R588). -/
def rsrcRecord (page : Nat) (r : Rsrc) : M Unit := do
  noteRank 4
  bump WAGON_RSRC_FAILS_COUNT
  let seq ← takeRecord ⟨13, 1, r.ctx, 0xFF, 0xFFFF, none, 0, page, 0⟩
  nameInRecord seq (← supersede (fun e => e.kind = .rsrcDone page))

theorem keep_rsrcRecord (page : Nat) (r : Rsrc) : Keep 0x200142 (rsrcRecord page r) :=
  ((keep_noteRank _).mono rfl).bind fun _ => ((keep_bump _).mono rfl).bind fun _ => ((keep_takeRecord _).mono rfl).bind fun _ =>
    ((keep_supersede _).mono rfl).bind fun _ => (keep_nameInRecord ..).mono rfl

/-- The tiles that wait on a page are read again without a further request. -/
def rsrcRereads (page : Nat) (s : State) : M Unit :=
  each coreNums (fun n => each (List.range 16) (fun k =>
    when' ((theStream s n k).held.any (fun h => h.why = .rsrc page))
      (modStream n k (fun x => { x with held := x.held.map (fun h => if h.why = .rsrc page then { h with again := true } else h) }))))

theorem keep_rsrcRereads (page : Nat) (s : State) : Keep 0x800 (rsrcRereads page s) :=
  .each fun _ => .each fun _ => .when' (keep_modStream ..)

theorem gives_rsrcExpires_of_late (late : rsrcLate s page = some r) (record : Gives (rsrcRecord page r) s () t)
    (reread : Gives (rsrcRereads page t) t () u) :
    Gives (rsrcExpires page) s () (u.putWagon fun w => { w with rsrc := w.rsrc.filter (fun r => r.page != page) }) := fun k => by
  simp only [rsrcExpires, run_bind, run_getS, late]
  exact (record fun _ => getS fun s => rsrcRereads page s fun _ => closeRsrc page k).trans (reread _)

/-- A request that expires is removed, and no other. -/
theorem exists_gives_rsrcExpires (late : rsrcLate s page = some r) :
    ∃ t, Gives (rsrcExpires page) s () t ∧ t.wagon.rsrc = s.wagon.rsrc.filter (fun r => r.page != page) := by
  obtain ⟨_, t, same_t, record⟩ := (keep_rsrcRecord page r).gives s
  obtain ⟨_, u, same_u, reread⟩ := (keep_rsrcRereads page t).gives t
  have wagon : u.wagon = s.wagon := (show u.wagon = t.wagon from same_u.at .wagon (by decide)).trans (same_t.at .wagon (by decide))
  exact ⟨_, gives_rsrcExpires_of_late late record reread, by simp [wagon]⟩

end

/-! ## Attestation (R594) -/

section
variable {nonce : List Byte} {serial : Nat} {s t : State}

theorem exec_attestRequest_of_unknown (unknown : fv s SEC_STATUS_IDENTITY ≠ 1) : exec (.attestRequest nonce) s = .next s := by
  refine Gives.runM_eq fun k => ?_
  simp only [run_bind, run_getS, unknown, decide_false, run_when'_false]

theorem exec_attestRequest_of_known (known : fv s SEC_STATUS_IDENTITY = 1) (draw : Gives freeWord s serial t) :
    exec (.attestRequest nonce) s = .next (t.says (.report (report t serial nonce))) := by
  refine Gives.runM_eq fun k => ?_
  simp only [run_bind, run_getS, known, decide_true, run_when'_true, draw _, run_emit]

end

/-- Settles O49: each command by what waits: a verification, a result, a request past its limit, and by the identity. -/
theorem sealsReSourcesAndReports : Obligations.SealsReSourcesAndReports := by
  refine ⟨fun who ctx entry errs s hp hl => ⟨exec_verifyQueue_of_collie, exec_verifyQueue_eq ctx entry s, fun idle => ?idle,
      fun v rest oldest => ?verifies, exec_verifyDoneRead_of_none, fun d rest => exec_verifyDoneRead_of_some⟩,
    fun page nonce s hp => ⟨fun none => ?noRequest, fun r rest oldest => ?request, exec_rsrcDone_eq page s,
      fun within => (gives_rsrcExpires_of_early (rsrcLate_eq_none within)).runT_eq hp, fun r late => ?expires,
      exec_attestRequest_of_unknown, fun known => ?report⟩⟩
  case idle => exact (gives_verifyComplete_of_idle (s := s.meeting errs) idle).runT_withErrs_unchanged hp hl
  case verifies =>
    obtain ⟨r, u, _, lines⟩ := (keep_verifyLines v.ctx v.entry v.count v.first).gives (s.meeting errs)
    refine ⟨r, u, lines, fun waits => ?_, fun bad judged => ?_⟩
    · subst waits
      exact Ends.of_errs (gives_verifyComplete_of_waits (s := s.meeting errs) oldest lines)
    · subst judged
      exact Ends.of_errs (gives_verifyComplete_of_judged (s := s.meeting errs) oldest lines)
  case noRequest => rw [exec_rsrcReqRead_eq, rsrcReqValue, none]
  case request => rw [exec_rsrcReqRead_eq, rsrcReqValue, oldest]
  case expires =>
    obtain ⟨t, expires, removed⟩ := exists_gives_rsrcExpires late
    exact ⟨t, expires, removed, Ends.of_runT expires⟩
  case report =>
    obtain ⟨serial, t, _, draw⟩ := keep_freeWord.gives s
    exact ⟨serial, t, draw, exec_attestRequest_of_known known draw⟩

end Sys2Proof.Machine
end

section
/-!
Frames of the chain (14_chain_boot_firmware.md, R599 to R602, R606, R625, R626): which ones a link accepts.
-/

namespace Sys2Proof.Machine

/-! ## Acceptance (R600) -/

section
variable {link crcOk : Bool} {hseq code : Nat} {f : Frame} {m : M Unit} {s t : State}

theorem gives_frameIn_of_down (down : hopUp s (!link) = false) : Gives (frameIn link crcOk hseq code f m) s () s := fun k => by
  simp only [frameIn, run_bind, run_getS, down, Bool.false_eq_true, if_false, run_pure]

theorem gives_frameIn_of_bad (up : hopUp s (!link) = true) (bad : crcOk = false ∨ f.type ≠ code) :
    Gives (frameIn link crcOk hseq code f m) s () (s.count CHAIN_CRC_ERRORS_COUNT 1) := fun k => by
  have bad : (!crcOk || f.type != code) = true := by simpa using bad
  simp only [frameIn, run_bind, run_getS, up, bad, if_true, run_bump]

theorem gives_frameIn_of_other (up : hopUp s (!link) = true) (good : crcOk = true) (type : f.type = code)
    (other : hseq % 65536 ≠ (hopOf s (!link)).rxNext) :
    Gives (frameIn link crcOk hseq code f m) s () ((s.count CHAIN_CRC_ERRORS_COUNT 1).hopAcked (!link)) := fun k => by
  simp only [frameIn, run_bind, run_getS, up, good, type, if_true, Bool.not_true, bne_self_eq_false, Bool.or_self, Bool.false_eq_true,
    if_false, bne_iff_ne.mpr other, run_bump, run_sendAck]

/-- The next frame of a hop is accepted: it is counted and acknowledged. -/
def State.frameTaken (s : State) (out : Bool) : State :=
  ((s.putHop out fun h => { h with rxNext := (h.rxNext + 1) % 65536 }).count CHAIN_FRAMES_RX_COUNT 1).hopAcked out

theorem gives_frameIn_of_next (up : hopUp s (!link) = true) (good : crcOk = true) (type : f.type = code)
    (next : hseq % 65536 = (hopOf s (!link)).rxNext) (acts : Gives m (s.frameTaken (!link)) () t) :
    Gives (frameIn link crcOk hseq code f m) s () t := fun k => by
  simp only [frameIn, run_bind, run_getS, up, good, type, next, if_true, Bool.not_true, bne_self_eq_false, Bool.or_self, Bool.false_eq_true,
    if_false, run_bump, run_modHop, run_sendAck]
  exact acts k

end

/-! ## The commands of the kinds of frames (Table 14.2) -/

/-- A sequence that sets no line errors may be carried out as one that meets none. -/
theorem runM_withErrs_nil {n : Nat} {m : M Unit} {s : State} (h : Keep n m) (hn : n.testBit 9 = false) (hl : s.lineErrs = []) :
    runM m s = runM (withErrs [] m) s := by
  obtain ⟨t, acts⟩ := h.gives_unit s
  have quiet : t.lineErrs = [] := (acts.lineErrs h hn).trans hl
  rw [acts.runM_eq, Gives.runM_withErrs (u := t) (by rwa [meeting_nil hl]), meeting_nil quiet]

section
variable {link crcOk : Bool} {hseq loop code : Nat} {f : Frame} {errs : List LineErr} {c : Instr} {m : M Unit} {s : State}

/-- The errors that a frame's command meets: those of CHAIN_DATA alone. -/
def frameErrs (code : Nat) (errs : List LineErr) : List LineErr := if code = 5 then errs else []

/-- Each command is the acceptance of its frame and what the frame then does. -/
theorem exec_frame (hl : s.lineErrs = [])
    (h : (c, code, m) ∈ [(Instr.token link crcOk hseq f, 1, when' link (tokenIn f)),
      (.nodeAssign link crcOk hseq f, 2, when' link (onChain (nodeAssignIn f))),
      (.offer link crcOk hseq f, 4, onChain (offerIn link f)),
      (.chainData link crcOk hseq f errs, 5, when' link (onChain (dataIn f))),
      (.result link crcOk hseq f, 6, when' (!link) (onChain (resultIn f))),
      (.delay link crcOk hseq f loop, 7, delayIn link f loop),
      (.chainMgmt link crcOk hseq f, 8, onChain (mgmtIn link f))]) :
    Keep 0x3c1f286f m ∧ exec c s = runM (withErrs (frameErrs code errs) (frameIn link crcOk hseq code f m)) s := by
  have quiet {code : Nat} {m : M Unit} (keep : Keep 0x3c1f286f m) : Keep 0x3c1f286f m
      ∧ runM (frameIn link crcOk hseq code f m) s = runM (withErrs [] (frameIn link crcOk hseq code f m)) s :=
    ⟨keep, runM_withErrs_nil (keep_frameIn link crcOk hseq code f keep rfl) (by decide) hl⟩
  simp only [List.mem_cons, List.not_mem_nil, or_false, Prod.mk.injEq] at h
  obtain ⟨rfl, rfl, rfl⟩ | ⟨rfl, rfl, rfl⟩ | ⟨rfl, rfl, rfl⟩ | ⟨rfl, rfl, rfl⟩ | ⟨rfl, rfl, rfl⟩ | ⟨rfl, rfl, rfl⟩ | ⟨rfl, rfl, rfl⟩ := h
  · exact quiet (.when' ((keep_tokenIn f).mono rfl))
  · exact quiet (.when' (keep_onChain ((keep_nodeAssignIn f).mono rfl)))
  · exact quiet (keep_onChain ((keep_offerIn link f).mono rfl))
  · exact ⟨.when' (keep_onChain ((keep_dataIn f).mono rfl)), rfl⟩
  · exact quiet (.when' (keep_onChain ((keep_resultIn f).mono rfl)))
  · exact quiet ((keep_delayIn link f loop).mono rfl)
  · exact quiet (keep_onChain ((keep_mgmtIn link f).mono rfl))

end

/-- Settles O50: every kind of frame by the one acceptance that they share. -/
theorem chainFramesAreAcceptedInOrder : Obligations.ChainFramesAreAcceptedInOrder := by
  intro link crcOk hseq loop f errs c code m s hl h
  obtain ⟨keep, meaning⟩ := exec_frame hl h
  rw [meaning]
  have kept {t : State} (leaves : Gives (frameIn link crcOk hseq code f m) (s.meeting (frameErrs code errs)) () (t.meeting (frameErrs code errs)))
      (ht : t.lineErrs = []) : runM (withErrs (frameErrs code errs) (frameIn link crcOk hseq code f m)) s = .next t := by
    rw [leaves.runM_withErrs, meeting_meeting, meeting_nil ht]
  refine ⟨fun down => kept (gives_frameIn_of_down down) hl, fun up => ⟨fun bad => kept (gives_frameIn_of_bad up bad) hl,
    fun good type other => kept (gives_frameIn_of_other up good type other) hl, fun good type next => ?_⟩⟩
  obtain ⟨t, acts⟩ := keep.gives_unit ((s.meeting (frameErrs code errs)).frameTaken (!link))
  exact ⟨t, acts, (gives_frameIn_of_next (s := s.meeting (frameErrs code errs)) up good type next acts).runM_withErrs⟩

end Sys2Proof.Machine
end

section
/-!
Operator frames, flash writes, activation and cold start (14_chain_boot_firmware.md, R619, R629, R631, R689).
-/

namespace Sys2Proof.Machine

/-! ## Ethernet frames (R689) -/

section
variable {port rx : Bool} {bs : List Byte} {stamp : Option Nat} {op : EthOp} {s t : State}

theorem exec_ethernetFrame_of_long (long : 9216 < bs.length) : exec (.ethernetFrame port rx bs stamp op) s = .next s :=
  Gives.runM_eq fun k => by
    simp only [decide_eq_false (Nat.not_le.mpr long), run_when'_false]

theorem exec_ethernetFrame_of_short (short : bs.length ≤ 9216) (acts : Gives (when' rx (ethOp op)) (s.says (.ethernet port rx bs stamp)) () t) :
    exec (.ethernetFrame port rx bs stamp op) s = .next t :=
  Gives.runM_eq fun k => by
    simp only [decide_eq_true short, run_when'_true, run_bind, run_emit]
    exact acts k

end

/-! ## Flash writes (R629) -/

section
variable {w : FlashWrite} {rest : List FlashWrite} {s t u : State}

theorem exec_flashWriteComplete_of_idle {ok : Bool} (idle : s.flash.writing = []) : exec (.flashWriteComplete ok) s = .next s :=
  Gives.runM_eq fun k => by simp only [flashDone, run_bind, run_getS, idle, run_pure]

/-- A write that does not end with firmware stored only stores its region and sends its result. -/
theorem exec_flashWriteComplete_of_plain {ok : Bool} (first : s.flash.writing = w :: rest) (plain : (ok && decide (w.kind = 1)) = false)
    (stored : Gives (setRegion w.kind w.slot (if ok then w.obj else [])) (s.putFlash fun x => { x with writing := rest }) () t)
    (sent : Gives (sendResult w.kind w.xfer (if ok then 0 else 8)) t () u) : exec (.flashWriteComplete ok) s = .next u :=
  Gives.runM_eq fun k => by
    simp only [flashDone, run_bind, run_getS, first, run_modFlash]
    rw [stored]
    simp only [plain, Bool.false_and, run_when'_false, run_bind]
    rw [sent, run_when'_false]

end

/-! ## Activation (R631) -/

/-- The directory of a state whose other firmware slot has become active. -/
def State.activated (s : State) : Dir :=
  let k := 1 - s.flash.dir.fwActive
  { s.flash.dir with
    fwActive := k, armed := false, fwFloor := max s.flash.dir.fwFloor (minSerial (fwSlot s k))
    copy := 1 - s.flash.dir.copy, seq := s.flash.dir.seq + 1 }

@[simp] theorem ranked_flash (s : State) (k : Nat) : (s.ranked k).flash = s.flash := by
  unfold State.ranked
  split
  · rfl
  · split <;> rfl

theorem gives_activateFw (s : State) : ∃ t, Gives activateFw s () t ∧ t.flash.dir = s.activated :=
  ⟨_, fun k => by simp only [activateFw, modDir, showDir, run_bind, run_getS, run_modFlash, run_setReg]; rfl, rfl⟩

theorem exec_firmwareActivation_of_not_due {s : State} (early : fwDue s = false) : exec .firmwareActivation s = .next s :=
  Gives.runM_eq fun k => by simp only [firmwareActs, run_bind, run_getS, early, Bool.false_eq_true, if_false, run_pure]

theorem exec_firmwareActivation_of_due {s : State} (due : fwDue s = true) :
    ∃ t, exec .firmwareActivation s = .next t ∧ t.flash.dir = s.activated := by
  obtain ⟨t, acts, dir⟩ := gives_activateFw (s.ranked 5)
  have keep : Keep 0x800 (each coreNums fun n => modCore n fun c => { c with reload := true }) := .each fun _ => keep_modCore ..
  obtain ⟨u, reloads⟩ := keep.gives_unit t
  refine ⟨u, Gives.runM_eq fun k => ?_, ?_⟩
  · simp only [firmwareActs, run_bind, run_getS, due, if_true, run_noteRank]
    rw [acts, reloads]
  · have flash : u.flash = t.flash := (Gives.same keep reloads).at .flash (by decide)
    rw [flash, dir, State.activated, State.activated]
    simp only [fwSlot, ranked_flash]

/-! ## Cold start (R619) -/

section
variable {i : StartInput} {s t : State}

theorem exec_coldStart_of_started (started : fv s CHAIN_START_PHASE ≠ 0) : exec (.coldStart i) s = .next s :=
  Gives.runM_eq fun k => by simp only [run_bind, run_getS, decide_eq_false started, run_when'_false]

theorem exec_coldStart_of_off (off : fv s CHAIN_START_PHASE = 0) (starts : Gives (startFrom i) s () t) : exec (.coldStart i) s = .next t :=
  Gives.runM_eq fun k => by
    simp only [run_bind, run_getS, decide_eq_true off, run_when'_true]
    exact starts k

end

/-- Settles O52: the commands by their cases; a failed write, of whatever kind, goes the way of one that holds no firmware. -/
theorem operatorFramesObjectsAndImages : Obligations.OperatorFramesObjectsAndImages := by
  intro port rx bs stamp op ok i s
  have due_iff : fwDue s = true ↔ s.flash.dir.armed = true ∧ s.flash.dir.actTick ≤ s.tick
      ∧ (4 ≤ fv s CHAIN_START_PHASE ∨ fv s CHAIN_START_MODE = 1) := by
    simp only [fwDue, Bool.and_eq_true, Bool.or_eq_true, decide_eq_true_eq, and_assoc]
  refine ⟨exec_ethernetFrame_of_long, fun short sent => ?_, fun short received => ?_, exec_flashWriteComplete_of_idle,
    fun w rest first failed => ?_, fun w rest first kind => ?_, ⟨fun early => ?_, fun due => ?_⟩, exec_coldStart_of_started, fun off => ?_⟩
  · subst sent
    exact exec_ethernetFrame_of_short short fun k => run_when'_false ..
  · subst received
    obtain ⟨t, acts⟩ := (keep_ethOp op).gives_unit (s.says (.ethernet port true bs stamp))
    exact ⟨t, acts, exec_ethernetFrame_of_short short fun k => (run_when'_true ..).trans (acts k)⟩
  · subst failed
    obtain ⟨t, stored⟩ := (keep_setRegion w.kind w.slot []).gives_unit (s.putFlash fun x => { x with writing := rest })
    obtain ⟨u, sent⟩ := (keep_sendResult w.kind w.xfer 8).gives_unit t
    exact ⟨t, u, stored, sent, exec_flashWriteComplete_of_plain first (Bool.false_and _) stored sent⟩
  · obtain ⟨t, stored⟩ := (keep_setRegion w.kind w.slot w.obj).gives_unit (s.putFlash fun x => { x with writing := rest })
    obtain ⟨u, sent⟩ := (keep_sendResult w.kind w.xfer 0).gives_unit t
    have plain : (true && decide (w.kind = 1)) = false := by
      rw [Bool.true_and, decide_eq_false_iff_not]
      omega
    exact ⟨t, u, stored, sent, exec_flashWriteComplete_of_plain first plain stored sent⟩
  · exact exec_firmwareActivation_of_not_due (Bool.eq_false_iff.mpr (mt due_iff.mp early))
  · obtain ⟨t, acts, dir⟩ := exec_firmwareActivation_of_due (due_iff.mpr due)
    exact ⟨t, acts, by rw [dir]; rfl, by rw [dir]; rfl, by rw [dir]; exact Nat.le_max_left ..⟩
  · obtain ⟨t, starts⟩ := (keep_startFrom i).gives_unit s
    exact ⟨t, starts, exec_coldStart_of_off off starts⟩

end Sys2Proof.Machine
end

section
/-!
Resets of units that a reset already covers (15_hangs_resets_recovery.md, R655).
-/

namespace Sys2Proof.Machine

section
variable {d u : Nat} {found : StartInput} {s : State}

theorem gives_takeReset_of_covered (domain : d ≠ 0) (unit : unitOk s.part d u = true) (covered : inReset s d u = true) :
    Gives (takeReset d u) s () (s.count RESET_COALESCED_COUNT 1) := fun k => by
  simp only [takeReset, run_bind, run_getS, domain, unit, covered, decide_false, Bool.not_true, Bool.or_self, Bool.false_eq_true, if_false,
    if_true, run_bump]

theorem gives_takeDevice_of_covered (cool : tooHot s = false) (covered : inReset s 8 0 = true) :
    Gives (takeDevice found) s () (s.count RESET_COALESCED_COUNT 1) := fun k => by
  simp only [takeDevice, run_bind, run_getS, cool, covered, Bool.false_eq_true, if_false, if_true, run_bump]

end

/-- The command of each domain takes a reset of its unit, or of the device (R653). -/
theorem exec_unitReset {unit : Fin 512} {i : StartInput} {c : Instr} {d : Nat} {s : State}
    (h : (c, d) ∈ [(Instr.oxReset unit, 1), (.coreReset unit, 2), (.contextReset unit, 3), (.portReset unit, 4),
      (.iodReset unit, 5), (.stackReset unit, 6), (.dieReset unit, 7), (.deviceReset i, 8)]) :
    d ≠ 0 ∧ exec c s = runT (if d = 8 then takeDevice i else takeReset d unit) s := by
  simp only [List.mem_cons, List.not_mem_nil, or_false, Prod.mk.injEq] at h
  obtain ⟨rfl, rfl⟩ | ⟨rfl, rfl⟩ | ⟨rfl, rfl⟩ | ⟨rfl, rfl⟩ | ⟨rfl, rfl⟩ | ⟨rfl, rfl⟩ | ⟨rfl, rfl⟩ | ⟨rfl, rfl⟩ := h <;>
    exact ⟨by decide, rfl⟩

/-- Settles O53: the taking of a reset counts one that is covered and does no more, for the device and for every smaller domain. -/
theorem resetsForUnitsInResetAreCoalesced : Obligations.ResetsForUnitsInResetAreCoalesced := by
  intro unit i c d s hp h cool fitted covered
  obtain ⟨domain, meaning⟩ := exec_unitReset (s := s) h
  rw [meaning]
  by_cases device : d = 8
  · subst device
    exact (gives_takeDevice_of_covered (cool rfl) covered).runT_eq hp
  · rw [if_neg device] at covered ⊢
    exact (gives_takeReset_of_covered domain (fitted device) covered).runT_eq hp

end Sys2Proof.Machine
end

section
/-!
Hangs, refused requests, stale replies and job faults (15_hangs_resets_recovery.md, R643, R644, R661, R662, R669).
-/

namespace Sys2Proof.Machine

/-! ## Progress windows and hangs (R643, R644) -/

section
variable {core : Fin 64} {x : Task} {s : State}

/-- The stillness of a task whose window closes, capped at the 8 of a hang. -/
def Task.stillNow (x : Task) : Nat := if x.moved = true then 0 else min 8 (x.still + 1)

/-- A core's task starts its next window, with this stillness. -/
def State.windowOpened (s : State) (n still : Nat) : State :=
  (s.putCore n fun c => { c with task := c.task.map fun t => { t with
    winOpen := t.run, winLen := max 1 (fv s RESET_PROGRESS_WINDOW_TICKS), moved := false, still := still } }).putReg (CORE_STILL n) still

theorem gives_closeWindow_of_open {n : Nat} (still : ∀ x, (theCore s n).task = some x → taskRuns s n = true → x.run < x.winOpen + x.winLen) :
    Gives (closeWindow n) s none s := fun k => by
  simp only [closeWindow, run_bind, run_getS]
  cases task : (theCore s n).task with
  | none => rfl
  | some x =>
    have opens : (taskRuns s n && decide (x.winOpen + x.winLen ≤ x.run)) = false := by
      cases runs : taskRuns s n with
      | false => rfl
      | true => rw [Bool.true_and, decide_eq_false_iff_not, Nat.not_le]; exact still x task runs
    simp only [opens, Bool.false_eq_true, if_false, run_pure]

theorem gives_closeWindow_of_closes {n : Nat} (runs : taskRuns s n = true) (task : (theCore s n).task = some x)
    (closes : x.winOpen + x.winLen ≤ x.run) : Gives (closeWindow n) s (hangCode x x.moved) (s.windowOpened n x.stillNow) := fun k => by
  simp only [closeWindow, run_bind, run_getS, task, runs, decide_eq_true closes, Bool.and_self, if_true, modTask, run_modCore, run_setReg,
    run_pure, State.windowOpened, Task.stillNow]

theorem exec_hangDeclaration_of_none {t : State} (none : Gives (closeWindow core) s none t) (hp : t.trPend = []) :
    exec (.hangDeclaration core) s = .next t :=
  Gives.runT_eq (fun k => by rw [run_bind, none, run_pure]) hp

theorem ends_hangDeclaration_of_some {code : Nat} {t u : State} (some : Gives (closeWindow core) s (some code) t)
    (hang : Gives (takeHang core code) (t.ranked 4) () u) : Ends (exec (.hangDeclaration core) s) u :=
  Ends.of_runT fun k => by
    rw [run_bind, some]
    simp only [run_bind, run_noteRank]
    exact hang k

end

/-! ## Refused requests (R661) -/

section
variable {core : Fin 64} {slot : Fin 16} {domain : Fin 9} {unit : Fin 512} {s : State}

/-- A unit in reset refuses the next tile of a stream that has one. -/
def Refuses (s : State) (core slot domain unit : Nat) : Prop :=
  inReset s domain unit = true ∧ (theStream s core slot).state = 1 ∧ (theStream s core slot).next < dTiles (theStream s core slot).desc

theorem exec_requestRefused_of_not (none : ¬ Refuses s core slot domain unit) : exec (.requestRefused core slot domain unit) s = .next s :=
  Gives.runM_eq fun k => by
    simp only [run_bind, run_getS, run_when', holdRefused]
    split
    case isTrue reset =>
      have idle : ((theStream s core slot).state = 1 && decide ((theStream s core slot).next < dTiles (theStream s core slot).desc)) = false := by
        rw [Bool.eq_false_iff, Ne, Bool.and_eq_true, decide_eq_true_eq, decide_eq_true_eq]
        exact fun live => none ⟨reset, live⟩
      simp only [idle, Bool.false_eq_true, if_false, run_pure]
    case isFalse => rfl

theorem exec_requestRefused_of_refuses (live : Refuses s core slot domain unit) : exec (.requestRefused core slot domain unit) s
    = .next ((if (theStream s core slot).held = [] then s.count RESET_REFUSALS_COUNT 1 else s).noted core slot
      (theStream s core slot).next (.hold (.refused domain unit 0))) :=
  Gives.runM_eq fun k => by
    obtain ⟨reset, state, tile⟩ := live
    simp only [run_bind, run_getS, reset, holdRefused, state, decide_true, decide_eq_true tile, Bool.and_self, if_true,
      run_when', decide_eq_true_eq, run_bump, run_noteTile]
    split <;> rfl

variable {h : HeldTile} {d u a : Nat}

theorem gives_refuseExpires_of_none (none : refuseLate s core slot = none) : Gives (refuseExpires core slot) s () s := fun k => by
  simp only [refuseExpires, run_bind, run_getS, none, run_pure]

theorem gives_refuseExpires_of_load (late : refuseLate s core slot = some (h, d, u, a))
    (load : dStation (theStream s core slot).desc = stLoad) :
    Gives (refuseExpires core slot) s () ((s.put RESET_STATUS_REFUSE_FAIL 1).putStream core slot fun x =>
      { x with held := x.held.map fun h => { h with again := true } }) := fun k => by
  simp only [refuseExpires, run_bind, run_getS, late, load, if_true, run_flag, run_modStream]

theorem gives_refuseExpires_of_other {v : State} (late : refuseLate s core slot = some (h, d, u, a))
    (other : dStation (theStream s core slot).desc ≠ stLoad)
    (faults : Gives (takeFault (troubleOf s core 19 0 u d a 0)) (s.put RESET_STATUS_REFUSE_FAIL 1) () v) :
    Gives (refuseExpires core slot) s () v := fun k => by
  simp only [refuseExpires, run_bind, run_getS, late, other, if_false, run_flag]
  exact faults k

end

/-! ## Stale replies and job faults (R662, R669) -/

theorem exec_staleReply_eq (domain : Fin 9) (unit : Fin 512) (gen : Nat) (s : State) : exec (.staleReply domain unit gen) s
    = .next (if fb s (resettingFld domain unit) = true ∨ fv s (genFld domain unit) ≠ gen % 65536
      then s.count RESET_STALE_REPLIES_COUNT 1 else s) :=
  Gives.runM_eq fun k => by
    simp only [run_bind, run_getS, run_when', Bool.or_eq_true, bne_iff_ne, run_bump]
    split <;> rfl

theorem exec_jobFaultRaise_eq (who : Who) (ctx : Fin 16) (origin : Nat) (s : State) : exec (.jobFaultRaise who ctx origin) s
    = .next (if who = .controlDie then (s.put (CTX_JOB_FAULT_ORIGIN ctx) origin).latching
      ⟨3, 1, some ctx.val, 0, .jobFault ctx (origin % 2 ^ 18)⟩ else s) :=
  Gives.runM_eq fun k => by
    simp only [jobFaultWrite, run_ite, run_bind, run_setFld, run_latch, run_pure]
    split <;> rfl

/-- Settles O57: the commands by their cases; what a hang and a fault do is what their taking does. -/
theorem hangsRefusalsAndJobFaults : Obligations.HangsRefusalsAndJobFaults := by
  intro core slot domain unit gen who ctx origin s hp
  refine ⟨fun idle => ?_, fun x _ task early => ?_, fun x runs task closes => ⟨fun quiet => ?_, fun code hung => ?_⟩,
    ⟨exec_requestRefused_of_not, exec_requestRefused_of_refuses⟩, fun none => (gives_refuseExpires_of_none none).runT_eq hp,
    fun h d u a late => ⟨fun load => ?_, fun other => ?_⟩, exec_staleReply_eq .., exec_jobFaultRaise_eq ..⟩
  · exact exec_hangDeclaration_of_none (gives_closeWindow_of_open fun _ _ runs => by simp [idle] at runs) hp
  · exact exec_hangDeclaration_of_none (gives_closeWindow_of_open fun y another _ => by cases task.symm.trans another; exact early) hp
  · exact exec_hangDeclaration_of_none (quiet ▸ gives_closeWindow_of_closes runs task closes) hp
  · obtain ⟨v, hang⟩ := (keep_takeHang core code).gives_unit ((s.windowOpened core x.stillNow).ranked 4)
    exact ⟨v, hang, ends_hangDeclaration_of_some (hung ▸ gives_closeWindow_of_closes runs task closes) hang⟩
  · exact (gives_refuseExpires_of_load late load).runT_eq hp
  · obtain ⟨v, faults⟩ := (keep_takeFault (troubleOf s core 19 0 u d a 0)).gives_unit (s.put RESET_STATUS_REFUSE_FAIL 1)
    exact ⟨v, faults, Ends.of_runT (gives_refuseExpires_of_other late other faults)⟩

end Sys2Proof.Machine
end

section
/-!
Trips and the throttle (16_power_and_die_link.md, R677, R680 to R684).
-/

namespace Sys2Proof.Machine

/-! ## Sensors and the average power (R682) -/

section
variable {sensor : Fin 81} {reading : Nat} {s t u w : State}

/-- The sensors that are at their thresholds are noted. -/
def State.heated (s : State) : State := s.putPwr fun p => { p with hot := (hotSensors s).map Prod.fst }

/-- The trips that the reading of one sensor brings. -/
def newlyHot (s : State) (sensor : Nat) : List (Nat × Nat) := (hotSensors s).filter fun x => !s.pwr.hot.contains x.1 && x.1 = sensor

theorem exec_thermalTrip_of_not (unmeasured : ¬ (s.pwr.measured = true ∧ (sensorList s).any (fun x => x.1 = sensor.val) = true))
    (hp : s.trPend = []) : exec (.thermalTrip sensor reading) s = .next s := by
  have no : (s.pwr.measured && (sensorList s).any fun x => x.1 = sensor.val) = false := by
    rwa [← Bool.not_eq_true, Bool.and_eq_true]
  exact Gives.runT_eq (fun k => by simp only [run_bind, run_getS, no, Bool.false_eq_true, if_false, run_pure]) hp

theorem ends_thermalTrip (measured : s.pwr.measured = true) (fitted : (sensorList s).any (fun x => x.1 = sensor.val) = true)
    (set : Gives (setSensor sensor (min reading 255)) s () t)
    (trips : Gives (each (newlyHot t sensor) fun x => takeTrip 1 x.1 x.2) t.heated () u) : Ends (exec (.thermalTrip sensor reading) s) u :=
  Ends.of_runT fun k => by
    have same : ((hotSensors t).filter fun x => !t.pwr.hot.contains x.1).filter (fun x => x.1 = sensor.val) = newlyHot t sensor := by
      simp only [newlyHot, List.filter_filter, Bool.and_comm]
    simp only [run_bind, run_getS, measured, fitted, Bool.and_self, if_true]
    rw [set]
    simp only [thermalTrips, run_bind, run_getS, run_modPwr, run_pure, same]
    exact trips k

/-- What the average power was found to be is noted. -/
def State.weighed (s : State) : State := s.putPwr fun p => { p with overTdp := overPower s }

theorem exec_powerTrip_of_not (not : overPower s = false ∨ s.pwr.overTdp = true) (hp : s.trPend = []) :
    exec .powerTrip s = .next s.weighed := by
  have no : (overPower s && !s.pwr.overTdp) = false := by
    obtain low | known := not
    · rw [low, Bool.false_and]
    · rw [known, Bool.not_true, Bool.and_false]
  exact Gives.runT_eq (fun k => by
    simp only [powerTrips, run_bind, run_getS, run_modPwr, run_pure, no, Bool.false_eq_true, if_false, State.weighed]) hp

theorem ends_powerTrip_of_over (above : overPower s = true) (newly : s.pwr.overTdp = false)
    (trip : Gives (takeTrip 2 0xFFFF (powerAvg s.weighed)) s.weighed () u) : Ends (exec .powerTrip s) u :=
  Ends.of_runT fun k => by
    have yes : (overPower s && !s.pwr.overTdp) = true := by rw [above, newly, Bool.not_false, Bool.and_self]
    simp only [powerTrips, run_bind, run_getS, run_modPwr, run_pure, yes, if_true]
    exact trip k

end

/-! ## Rails (R679, R682, R683) -/

section
variable {rail : Fin 9} {current : Bool} {reading : Nat} {s : State}

/-- The code of a rail's trip. -/
def railCode (current : Bool) : Nat := if current = true then 4 else 3

theorem exec_railFault_of_unmeasured (off : s.pwr.measured = false) : exec (.railFault rail current reading) s = .next s :=
  Gives.runM_eq fun k => by simp only [run_bind, run_getS, off, run_when'_false]

theorem exec_railFault_of_measured (on : s.pwr.measured = true) : exec (.railFault rail current reading) s
    = .next (s.latching ⟨1, 2, none, 96 + rail, .trip (railCode current) (96 + rail) reading⟩) :=
  Gives.runM_eq fun k => by simp only [run_bind, run_getS, on, run_when'_true, run_latch, railCode]

/-- A trip by a rail shows in the status and in TRIP_INFO. -/
def State.railTripped (s : State) (code unit reading : Nat) : State :=
  ((s.ranked 1).put PWR_STATUS_RAIL_FAULT 1).putReg PWR_TRIP_INFO (code + unit % 256 * 2 ^ 8 + min reading 0xFFFF * 2 ^ 16)

@[simp] theorem ranked_tick (s : State) (k : Nat) : (s.ranked k).tick = s.tick := by
  unfold State.ranked
  split
  · rfl
  · split <;> rfl

@[simp] theorem run_takeRecord (t : Trouble) (k : Nat → Act) (s : State) :
    Act.run (takeRecord t k) s = Act.run (k (rg s RESET_TR_WR)) (s.recording t) := Eq.trans rfl rfl

/-- A device that has tripped records a rail's trip; a rail of the stacks would also lose their soft repairs. -/
theorem gives_takeTrip_of_tripped {code unit : Nat} (rails : code = 3 ∨ code = 4) (other : unit ≠ 99 ∧ unit ≠ 100) (again : tripped s = true) :
    Gives (takeTrip code unit reading) s ()
      ((s.railTripped code unit reading).recording ⟨21, code, 0xFF, 0xFF, unit, none, reading, 0, 0⟩) := fun k => by
  have rail : (if code = 1 then PWR_STATUS_THERMAL_TRIP else if code = 2 then PWR_STATUS_POWER_TRIP else PWR_STATUS_RAIL_FAULT)
      = PWR_STATUS_RAIL_FAULT := by
    rw [if_neg (by omega), if_neg (by omega)]
  simp only [takeTrip, run_bind, run_getS, run_noteRank, rail, run_flag, run_setReg, run_takeRecord, again, Bool.not_true, run_when'_false,
    decide_eq_false other.1, decide_eq_false other.2, Bool.or_self, Bool.and_false, State.railTripped]

end

/-! ## The throttle (R680) -/

/-- The level after the window that closes. -/
def State.levelNext (s : State) : Nat := nextLevel s s.pwr.winSum s.pwr.winN

/-- The window's throttling is counted, and its average and the level after it are shown. -/
def State.throttled (s : State) : State :=
  let l := fv s PWR_THROTTLE_LEVEL
  let t := if l = 0 then s else s.count PWR_THROTTLE_WINDOWS_COUNT 1
  let t := (t.put PWR_POWER_AVG_WATTS (min 0xFFFF (s.pwr.winSum / s.pwr.winN))).put PWR_THROTTLE_LEVEL s.levelNext
  if l < s.levelNext then t.put PWR_STATUS_THROTTLED 1 else t

theorem windowDue_iff (s : State) : windowDue s = true ↔ s.pwr.measured = true ∧ s.pwr.winOpen + max 1 (fv s PWR_WINDOW_TICKS) ≤ s.tick := by
  simp only [windowDue, Bool.and_eq_true, decide_eq_true_eq]

theorem exec_throttleWindow_of_open {s : State} (early : windowDue s = false) : exec .throttleWindow s = .next s :=
  Gives.runM_eq fun k => by simp only [closePower, run_bind, run_getS, early, Bool.false_eq_true, if_false, run_pure]

theorem exec_throttleWindow_of_due {s : State} (due : windowDue s = true) : exec .throttleWindow s
    = .next (s.throttled.putPwr fun p => { p with winOpen := s.tick, winSum := fv s PWR_POWER_NOW_WATTS, winN := 1 }) :=
  Gives.runM_eq fun k => by
    simp only [closePower, run_bind, run_getS, due, if_true, State.throttled, State.levelNext, run_when', bne_iff_ne, decide_eq_true_eq,
      run_bump, run_setFld, run_flag, run_modPwr]
    by_cases level : fv s PWR_THROTTLE_LEVEL = 0 <;> simp only [level, ne_eq, not_true, not_false_eq_true, if_true, if_false] <;> split <;> rfl

/-- Settles O58: each trip by the sensor, the average or the rail that brings it, and the closing of the power window. -/
theorem tripsAndTheThrottle : Obligations.TripsAndTheThrottle := by
  intro sensor reading rail current s hp
  refine ⟨fun off => exec_thermalTrip_of_not off hp, fun measured fitted => ?_,
    ⟨fun not => exec_powerTrip_of_not not hp, fun above newly => ?_⟩, exec_railFault_of_unmeasured,
    ⟨exec_railFault_of_measured, fun again three four => ?_⟩, ?_⟩
  · obtain ⟨t, set⟩ := (keep_setSensor sensor (min reading 255)).gives_unit s
    have pend : t.trPend = [] := (set.trPend (keep_setSensor ..) (by decide)).trans hp
    refine ⟨t, set, fun cool => ?_, fun v hot => ?_⟩
    · exact (ends_thermalTrip measured fitted set (by rw [newlyHot, cool]; exact fun k => run_each_nil ..)).next_eq pend
    · obtain ⟨w, trip⟩ := (keep_takeTrip 1 sensor v).gives_unit t.heated
      exact ⟨w, trip, ends_thermalTrip measured fitted set (by
        rw [newlyHot, hot]
        exact fun k => (run_each_cons ..).trans ((trip _).trans (run_each_nil ..)))⟩
  · obtain ⟨u, trip⟩ := (keep_takeTrip 2 0xFFFF (powerAvg s.weighed)).gives_unit s.weighed
    exact ⟨u, trip, ends_powerTrip_of_over above newly trip⟩
  · have code : railCode current = 3 ∨ railCode current = 4 := by cases current <;> decide
    have tick : (s.railTripped (railCode current) (96 + rail) reading).tick = s.tick := ranked_tick s 1
    have trip := gives_takeTrip_of_tripped (reading := reading) code (unit := 96 + rail) (by omega) again
    rw [State.recording, tick] at trip
    exact trip
  · intro due l limit l' t
    by_cases closes : windowDue s = true
    · rw [exec_throttleWindow_of_due closes]
      exact congrArg _ (if_pos ((windowDue_iff s).mp closes)).symm
    · rw [exec_throttleWindow_of_open (Bool.eq_false_iff.mpr closes)]
      exact congrArg _ (if_neg (mt (windowDue_iff s).mpr closes)).symm

end Sys2Proof.Machine
end

section
/-!
The link to the control die (16_power_and_die_link.md, R651, R686 to R688).
-/

namespace Sys2Proof.Machine

/-! ## Requests (R686) -/

section
variable {module m : Bool} {tag gen addr len : Nat} {data : Option (List Byte)} {s t : State}

/-- The request of the link that an access's reply is for. -/
def requestOf (m : Bool) (tag gen : Nat) (write : Bool) : LinkReq := ⟨m, tag % 65536, write, 0, gen % 65536, []⟩

/-- A request gets its reply, over its own module while that is up. -/
def State.linkAnswered (s : State) (q : LinkReq) (status : Nat) (bs : List Byte) : State :=
  s.putLink fun l => { l with
    out := l.out ++ [{ q with module := (moduleFor s q.module).getD q.module, status := status, bs := bs }] }

@[simp] theorem run_linkAnswer (q : LinkReq) (status : Nat) (bs : List Byte) (k : Unit → Act) (s : State) :
    Act.run (linkAnswer q status bs k) s = Act.run (k ()) (s.linkAnswered q status bs) := Eq.trans rfl rfl

/-- A module holds as many requests as it can. -/
def LinkFull (s : State) (m : Bool) : Prop := 512 ≤ ((s.link.out ++ waitingLink s).filter fun q => q.module = m).length

theorem gives_dieLink_of_down (down : moduleFor s module = none) : Gives (dieLink module tag gen addr len data) s () s := fun k => by
  simp only [dieLink, run_bind, run_getS, down, run_pure]

theorem gives_dieLink_of_full (up : moduleFor s module = some m) (full : LinkFull s m) :
    Gives (dieLink module tag gen addr len data) s () s := fun k => by
  simp only [dieLink, run_bind, run_getS, up, decide_eq_false (Nat.not_lt.mpr full), Bool.false_eq_true, if_false, run_pure]

section
variable (up : moduleFor s module = some m) (room : ¬ LinkFull s m)
include up room

theorem gives_dieLink_of_length (bad : len % 4 ≠ 0 ∨ 256 < len) :
    Gives (dieLink module tag gen addr len data) s () (s.linkAnswered (requestOf m tag gen data.isSome) 1 []) := fun k => by
  have no : (decide (len % 4 = 0) && decide (len ≤ 256)) = false := by
    rw [Bool.eq_false_iff, Ne, Bool.and_eq_true, decide_eq_true_eq, decide_eq_true_eq]
    omega
  simp only [dieLink, run_bind, run_getS, up, decide_eq_true (Nat.not_le.mp room), if_true, no, Bool.false_eq_true, if_false, run_pure,
    run_linkAnswer, requestOf]

/-- An access of a length that the link carries is made; what it gives decides whether it is answered at once. -/
theorem gives_dieLink_of_access {ans : Option (Nat × List Byte)} {u : State} (whole : len % 4 = 0) (short : len ≤ 256)
    (access : Gives (dieAccess (requestOf m tag gen data.isSome) (addr % 2 ^ 48) len data) s ans t)
    (answer : u = match ans with
      | none => t
      | some (st, bs) => t.linkAnswered (requestOf m tag gen data.isSome) st bs) :
    Gives (dieLink module tag gen addr len data) s () u := fun k => by
  simp only [dieLink, run_bind, run_getS, up, decide_eq_true (Nat.not_le.mp room), if_true, decide_eq_true whole, decide_eq_true short,
    Bool.and_self]
  refine (access _).trans ?_
  subst answer
  cases ans <;> rfl

end

end

/-- The two commands of a request: a read and a write differ in their length and data alone. -/
theorem exec_dieLink {c : Instr} {module : Bool} {tag gen addr len n : Nat} {data : List Byte} {d : Option (List Byte)} {errs : List LineErr}
    {s : State} (h : (c, n, d) ∈ [(Instr.dieLinkRead module tag gen addr len errs, len, none),
      (.dieLinkWrite module tag gen addr data errs, data.length, some data)]) :
    exec c s = runT (withErrs errs (dieLink module tag gen addr n d)) s := by
  simp only [List.mem_cons, List.not_mem_nil, or_false, Prod.mk.injEq] at h
  obtain ⟨rfl, rfl, rfl⟩ | ⟨rfl, rfl, rfl⟩ := h <;> rfl

/-! ## Replies (R687) -/

section
variable {module w : Bool} {tag : Nat} {s : State}

theorem gives_linkReply_of_none (none : (s.link.out.find? fun q => q.module = module && q.tag = tag && q.write = w) = none) :
    Gives (linkReply module tag w) s () s := fun k => by
  simp only [linkReply, run_bind, run_getS, none, run_pure]

theorem gives_linkReply_of_some {q : LinkReq} (some : (s.link.out.find? fun q => q.module = module && q.tag = tag && q.write = w) = some q) :
    Gives (linkReply module tag w) s () ((s.putLink fun l => { l with out := l.out.erase q }).says
      (.linkReply module tag q.status q.gen q.bs)) := fun k => by
  simp only [linkReply, run_bind, run_getS, some, run_modLink, run_emit]

end

/-! ## Records and the loss of a module (R651, R688) -/

section
variable {s : State}

theorem moduleFor_isSome (s : State) (m : Bool) : (moduleFor s m).isSome = true ↔ moduleDown s m = false ∨ moduleDown s (!m) = false := by
  unfold moduleFor
  cases moduleDown s m <;> cases moduleDown s !m <;> simp

theorem exec_record_of_none (none : s.link.mirror = []) : exec .record s = .next s :=
  Gives.runM_eq fun k => by simp only [run_bind, run_getS, none, run_pure]

/-- The oldest record on its way has reached the control die's records, of its kind. -/
def State.recordKept (s : State) (cond : Bool) (bs : List Byte) (rest : List (Bool × List Byte)) : State :=
  let t := s.putLink fun l => { l with mirror := rest }
  if cond = true then t.putCond (· ++ [bs]) else t.putTrouble (· ++ [bs])

/-- A record is appended to the event log, whose oldest entry it pushes out when the log is full. -/
def State.recordLogged (s : State) (bs : List Byte) : State :=
  s.putFlash fun f => { f with log := (f.log ++ [bs]).drop (f.log.length + 1 - logEntries) }

section
variable {cond : Bool} {bs : List Byte} {rest : List (Bool × List Byte)} (oldest : s.link.mirror = (cond, bs) :: rest)
include oldest

theorem exec_record_of_down (down : (moduleFor s false).isSome = false) : exec .record s = .next s :=
  Gives.runM_eq fun k => by simp only [run_bind, run_getS, oldest, down, Bool.false_eq_true, if_false, run_pure]

theorem exec_record_of_up (up : (moduleFor s false).isSome = true) :
    exec .record s = .next (((s.recordKept cond bs rest).recordLogged bs).says (.record bs)) :=
  Gives.runM_eq fun k => by
    simp only [run_bind, run_getS, oldest, up, if_true, run_modLink, run_ite, run_modCond, run_modTrouble, run_modFlash, run_emit,
      State.recordKept, State.recordLogged]
    split <;> rfl

end

/-- A module is out of service. -/
def State.moduleLost (s : State) (module : Bool) : State :=
  s.putLink fun l => { l with down := if module = true then [l.down.getD 0 false, true] else [true, l.down.getD 1 false] }

theorem moduleDown_moduleLost_other (s : State) (module : Bool) : moduleDown (s.moduleLost module) (!module) = moduleDown s !module := by
  cases module <;> rfl

theorem exec_ucieModuleDown_eq (module : Bool) (s : State) : exec (.ucieModuleDown module) s
    = .next (if moduleDown s (!module) = true then s.moduleLost module
      else (s.moduleLost module).putLink fun l => { l with
        out := l.out.map fun q => if q.module = module then { q with module := !module } else q }) :=
  Gives.runM_eq fun k => by
    have other : moduleDown (s.putLink fun l => { l with
        down := if module = true then [l.down.getD 0 false, true] else [true, l.down.getD 1 false] }) (!module) = moduleDown s !module :=
      moduleDown_moduleLost_other s module
    simp only [run_bind, run_modLink, run_getS, other, State.moduleLost]
    cases moduleDown s !module <;>
      simp only [Bool.not_true, Bool.not_false, run_when'_true, run_when'_false, run_modLink, if_true, Bool.false_eq_true, if_false]

end

/-- Settles O59: a request by its module, its room and its length; replies, records and the loss of a module by their equations. -/
theorem theDieLinkAnswersAndRecords : Obligations.TheDieLinkAnswersAndRecords := by
  intro module tag gen addr len data errs s hp hl
  refine ⟨fun c n d request => ?_, fun c w reply => ?_, fun waits => ?_, fun cond bs rest oldest up => ?_, exec_ucieModuleDown_eq module s⟩
  · rw [exec_dieLink request]
    refine ⟨fun down => (gives_dieLink_of_down (s := s.meeting errs) down).runT_withErrs_unchanged hp hl, fun m up =>
      ⟨fun full => (gives_dieLink_of_full (s := s.meeting errs) up full).runT_withErrs_unchanged hp hl, fun room bad => ?_,
        fun room whole short => ?_⟩⟩
    · exact (gives_dieLink_of_length (s := s.meeting errs) up room bad).runT_withErrs_kept
        (t := s.linkAnswered (requestOf m tag gen d.isSome) 1 []) hp hl
    · obtain ⟨ans, t, _, access⟩ := (keep_dieAccess (requestOf m tag gen d.isSome) (addr % 2 ^ 48) n d).gives (s.meeting errs)
      refine ⟨ans, t, access, fun held => ?_, fun st bs answered => ?_⟩
      · subst held
        exact Ends.of_errs (gives_dieLink_of_access (s := s.meeting errs) up room whole short access rfl)
      · subst answered
        exact Ends.of_errs (gives_dieLink_of_access (s := s.meeting errs) up room whole short access rfl)
  · have meaning : exec c s = runM (linkReply module tag w) s := by
      simp only [List.mem_cons, List.not_mem_nil, or_false, Prod.mk.injEq] at reply
      obtain ⟨rfl, rfl⟩ | ⟨rfl, rfl⟩ := reply <;> rfl
    rw [meaning]
    exact ⟨fun none => (gives_linkReply_of_none none).runM_eq, fun q some => (gives_linkReply_of_some some).runM_eq⟩
  · cases oldest : s.link.mirror with
    | nil => exact exec_record_of_none oldest
    | cons r rest =>
      obtain none | ⟨down, other⟩ := waits
      · exact absurd (oldest.symm.trans none) (List.cons_ne_nil _ _)
      · refine exec_record_of_down oldest (Bool.eq_false_iff.mpr fun up => ?_)
        obtain first | second := (moduleFor_isSome s false).mp up
        · exact absurd (down.symm.trans first) (by decide)
        · exact absurd (other.symm.trans second) (by decide)
  · exact exec_record_of_up oldest ((moduleFor_isSome s false).mpr up)

end Sys2Proof.Machine
end
